-- ==== Sys2Proof/Word.lean ====
section
/-! DEFINITION. The word types of the SWL-9256 (00 R2, 02 R39) and the type of a sparse canonical map. -/

namespace Sys2Proof

/-- A byte of memory. -/
abbrev Byte := BitVec 8
/-- A 32-bit register (02 R39). -/
abbrev Reg := BitVec 32
/-- A 64-bit word: an instruction word, an address, a lane mask (02 R22). -/
abbrev Word := BitVec 64

/-- A sparse map from a Nat key to a value of `w` bits: keys strictly rising, no zero value listed, an unlisted
key reads as zero. Memory, register files, scratch and operand buffers all have this type. -/
abbrev Cells (w : Nat) := List (Nat × BitVec w)

end Sys2Proof
end

