-- ==== Sys2Proof/Machine/Bits.lean ====
section
/-! DEFINITION. Bit fields, signed readings, byte order (00 R2) and the sparse maps that hold memory and registers. -/

namespace Sys2Proof.Machine

/-- Bits [hi:lo] of `n` (00 R2, R8). -/
def bits (n hi lo : Nat) : Nat := (n >>> lo) % 2 ^ (hi + 1 - lo)

/-- Bit `i` of `n`. -/
def bit (n i : Nat) : Bool := (n >>> i) % 2 == 1

/-- The two's complement reading of the low `w` bits of `n` (07 R137). -/
def toSigned (w n : Nat) : Int :=
  let m := n % 2 ^ w
  if bit m (w - 1) then (m : Int) - (2 ^ w : Nat) else m

/-- The low `w` bits of an exact integer (00 R8). -/
def wrap (w : Nat) (x : Int) : Nat := (x % ((2 ^ w : Nat) : Int)).toNat

/-- Replace bits [hi:lo] of `n` by the low bits of `v`. -/
def setBits (n hi lo v : Nat) : Nat :=
  n - (bits n hi lo) * 2 ^ lo + (v % 2 ^ (hi + 1 - lo)) * 2 ^ lo

/-- 1 for true, 0 for false. -/
def b2n (b : Bool) : Nat := if b then 1 else 0

/-- Number of one bits among the low `w` bits of `n`. -/
def popcount (w n : Nat) : Nat := ((List.range w).filter (bit n)).length

/-- Index of the lowest one bit among the low `w` bits, `w` when there is none. -/
def lowestOne (w n : Nat) : Nat := ((List.range w).find? (bit n)).getD w

/-- Number of leading zero bits among the low `w` bits. -/
def leadingZeros (w n : Nat) : Nat := ((List.range w).find? (fun i => bit n (w - 1 - i))).getD w

/-- The low `w` bits in reverse order. -/
def bitReverse (w n : Nat) : Nat :=
  (List.range w).foldl (fun acc i => acc + b2n (bit n i) * 2 ^ (w - 1 - i)) 0

/-- The number whose bit i is `f i`, for i below `w`. -/
def ofBits (w : Nat) (f : Nat → Bool) : Nat :=
  (List.range w).foldl (fun acc i => acc + b2n (f i) * 2 ^ i) 0

/-- The indices below `w` of the one bits of a mask, rising. -/
def maskList (w : Nat) (m : Nat) : List Nat := (List.range w).filter (bit m)

/-- Ceiling division. -/
def ceilDiv (a b : Nat) : Nat := (a + b - 1) / b

/-- The least multiple of `b` not below `a`. -/
def roundUp (a b : Nat) : Nat := ceilDiv a b * b

/-- The little-endian number held in a list of bytes (00 R2). -/
def leNat : List Byte → Nat
  | [] => 0
  | b :: r => b.toNat + 256 * leNat r

/-- The `n` little-endian bytes of a number (00 R2). -/
def leBytes : Nat → Nat → List Byte
  | 0, _ => []
  | n + 1, v => BitVec.ofNat 8 v :: leBytes n (v / 256)

/-- The value at a key: zero when the key is not listed. -/
def cellGet {w : Nat} : Cells w → Nat → BitVec w
  | [], _ => 0#w
  | (a, v) :: r, k => if a = k then v else cellGet r k

/-- The map without a key. -/
def cellDrop {w : Nat} : Cells w → Nat → Cells w
  | [], _ => []
  | (a, v) :: r, k => if a = k then cellDrop r k else (a, v) :: cellDrop r k

/-- The map with one more key, in its place. -/
def cellInsert {w : Nat} : Cells w → Nat → BitVec w → Cells w
  | [], k, v => [(k, v)]
  | (a, u) :: r, k, v => if k < a then (k, v) :: (a, u) :: r else (a, u) :: cellInsert r k v

/-- Store a value at a key: the keys stay rising, and no zero is listed. -/
def cellSet {w : Nat} (m : Cells w) (k : Nat) (v : BitVec w) : Cells w :=
  if v = 0#w then cellDrop m k else cellInsert (cellDrop m k) k v

/-- The map of the keys below `n`. -/
def cellsBelow {w : Nat} (n : Nat) (f : Nat → BitVec w) : Cells w :=
  (List.range n).filterMap (fun k => if f k = 0#w then none else some (k, f k))

/-- The canonical form: every key at or above `lo` and rising, no zero listed. -/
def cellWfFrom {w : Nat} : Nat → Cells w → Bool
  | _, [] => true
  | lo, (a, v) :: r => decide (lo ≤ a) && !(v == 0#w) && cellWfFrom (a + 1) r

/-- The canonical form of a sparse map. -/
def cellWf {w : Nat} (m : Cells w) : Bool := cellWfFrom 0 m

/-- The `n` bytes from address `a`, lowest address first. -/
def cellBytes (m : Cells 8) (a : Nat) : Nat → List Byte
  | 0 => []
  | n + 1 => cellGet m a :: cellBytes m (a + 1) n

/-- The little-endian number in the `n` bytes from address `a`. -/
def cellRead (m : Cells 8) (a n : Nat) : Nat := leNat (cellBytes m a n)

/-- Store bytes from address `a` upward. -/
def cellStore (m : Cells 8) (a : Nat) : List Byte → Cells 8
  | [] => m
  | b :: r => cellStore (cellSet m a b) (a + 1) r

/-- Store the `n` little-endian bytes of `v` from address `a` upward. -/
def cellWrite (m : Cells 8) (a n v : Nat) : Cells 8 := cellStore m a (leBytes n v)

/-- Replace the element at an index of a list, when the list has one there. -/
def listSet {α : Type} (l : List α) (i : Nat) (f : α → α) : List α :=
  match l, i with
  | [], _ => []
  | x :: r, 0 => f x :: r
  | x :: r, i + 1 => x :: listSet r i f

/-- `l` without its `i`-th element. -/
def listDrop {α : Type} : List α → Nat → List α
  | [], _ => []
  | _ :: r, 0 => r
  | x :: r, i + 1 => x :: listDrop r i

/-- Insert by a strict order, after the elements that do not come later. -/
def insertBy {α : Type} (lt : α → α → Bool) (x : α) : List α → List α
  | [] => [x]
  | y :: r => if lt x y then x :: y :: r else y :: insertBy lt x r

/-- Stable sort by a strict order. -/
def sortBy {α : Type} (lt : α → α → Bool) (l : List α) : List α :=
  l.foldl (fun acc x => insertBy lt x acc) []

/-- The elements of `l` without repeats, each at its first place. -/
def dedup {α : Type} [BEq α] (l : List α) : List α :=
  l.foldl (fun acc x => if acc.elem x then acc else acc ++ [x]) []

/-- The canonical-form test of 04 R76: bits [63:56] all equal bit 55. -/
def canonical (va : Nat) : Bool :=
  let t := (va >>> 55) % 2 ^ 9
  t == 0 || t == 511

end Sys2Proof.Machine
end

