-- ==== Sys2Proof/Syntax.lean ====
section
/-! DEFINITION. The instructions of Cipel (02 R23 to R33, 03 R54 to R69) and the device's other steps, one constructor of
`Instr` per row of spec/opcode_table.json. An instruction carries the header and the fields of its format; a step that is
no instruction (an event) carries the agents it concerns and the choice the spec leaves open. -/

namespace Sys2Proof

/-- The kinds of operands A and B of Format V (02 R25). -/
inductive Kind where
  | vec   -- vector register
  | sca   -- scalar register
  | zero  -- the literal zero
  | imm   -- a 32-bit immediate of the extension word
  deriving DecidableEq, Repr

/-- The rounding modes of Format V (02 R25, 07 R138). -/
inductive Rnd where
  | rn | rz | rp | rm
  deriving DecidableEq, Repr

/-- The common header (02 R23); `x` is the extension word, present when XW is set. -/
structure Hdr where
  sw : Bool
  keep : BitVec 2
  gn : Bool
  gp : BitVec 3
  x : Option (BitVec 64)
  deriving DecidableEq, Repr

/-- Format V (02 R25). -/
structure VFields where
  d : BitVec 9
  a : BitVec 9
  b : BitVec 9
  c : BitVec 9
  ka : Kind
  kb : Kind
  kc : Bool
  rnd : Rnd
  fzi : Bool
  fzo : Bool
  sat : Bool
  sub : BitVec 2
  deriving DecidableEq, Repr

/-- Format S (02 R27). -/
structure SFields where
  d : BitVec 9
  a : BitVec 9
  b : BitVec 9
  imm : BitVec 16
  ik : Bool
  sub : BitVec 2
  deriving DecidableEq, Repr

/-- Format M (02 R28). -/
structure MFields where
  d : BitVec 9
  a : BitVec 9
  ak : Bool
  size : BitVec 3
  scope : BitVec 3
  ord : BitVec 2
  ch : BitVec 2
  sub : BitVec 3
  off : BitVec 16
  deriving DecidableEq, Repr

/-- Format B (02 R29); MODE is the constructor's. -/
structure BFields where
  off : BitVec 24
  tprio : BitVec 8
  fprio : BitVec 8
  cn : Bool
  cp : BitVec 3
  sub : BitVec 2
  deriving DecidableEq, Repr

/-- Format C (02 R30). -/
structure CFields where
  d : BitVec 9
  a : BitVec 9
  b : BitVec 9
  e : BitVec 9
  tag : BitVec 6
  mode : BitVec 4
  sub : BitVec 2
  deriving DecidableEq, Repr

/-- Format X (02 R31). -/
structure XFields where
  w : BitVec 9
  a : BitVec 9
  b : BitVec 9
  cboff : BitVec 13
  var : BitVec 6
  sub : BitVec 2
  deriving DecidableEq, Repr

/-- Format Y (02 R32). -/
structure YFields where
  imm : BitVec 16
  d : BitVec 9
  a : BitVec 9
  sub : BitVec 2
  deriving DecidableEq, Repr

/-- A wave, named by its team's identity and its WAVE_ID. -/
structure WaveRef where
  team : Nat
  wave : Nat
  deriving DecidableEq, Repr

/-- A stored word that a soft error can strike (18 R380); the constructors are the HWERR stores of 18 R379. -/
inductive Site where
  | vecReg (w : WaveRef) (lane reg : Nat)
  | scaReg (w : WaveRef) (reg : Nat)
  | scratch (team side word : Nat)
  | opBuf (team side word : Nat)
  | acc (team side tile word : Nat)
  | home (word : Nat)
  | cache (core word : Nat)
  deriving DecidableEq, Repr

/-- The writable parts of the endpoint's configuration space that the spec names (04 R91, 19 R403). -/
inductive PcieReg where
  | atomicOpEnable (on : Bool)
  | bar2Log2 (log2 : Nat)
  deriving DecidableEq, Repr

/-- What ACCESS_PERFORM does with an access: it performs the whole of it, after an eviction of line `evict` where one is named (06 R118), or
it splits off its first `bytes`, which are then performed apart (13 R278). -/
inductive AccessPart where
  | whole (evict : Option Nat)
  | first (bytes : Nat)
  deriving DecidableEq, Repr

/-- The instructions and the other steps of the device, in the order of spec/opcode_table.json. -/
inductive Instr where
  | nop (h : Hdr) (f : YFields)
  | exit (h : Hdr) (f : YFields)
  | yield (h : Hdr) (f : YFields)
  | trap (h : Hdr) (f : YFields)
  | tret (h : Hdr) (f : YFields)
  | bkpt (h : Hdr) (f : YFields)
  | sysrd (h : Hdr) (f : YFields)
  | syswr (h : Hdr) (f : YFields)
  | fence (h : Hdr) (f : YFields)
  | waitw (h : Hdr) (f : YFields)
  | bar (h : Hdr) (f : YFields)
  | br (h : Hdr) (f : BFields)
  | bru (h : Hdr) (f : BFields)
  | brs (h : Hdr) (f : BFields)
  | jal (h : Hdr) (f : YFields)
  | jmp (h : Hdr) (f : YFields)
  | setprio (h : Hdr) (f : YFields)
  | cvset (h : Hdr) (f : YFields)
  | cvsign (h : Hdr) (f : YFields)
  | cvwait (h : Hdr) (f : YFields)
  | spawn (h : Hdr) (f : YFields)
  | repack (h : Hdr) (f : YFields)
  | iadd (h : Hdr) (f : VFields)
  | isub (h : Hdr) (f : VFields)
  | imul (h : Hdr) (f : VFields)
  | imad (h : Hdr) (f : VFields)
  | imin (h : Hdr) (f : VFields)
  | imax (h : Hdr) (f : VFields)
  | iabs (h : Hdr) (f : VFields)
  | idiv (h : Hdr) (f : VFields)
  | irem (h : Hdr) (f : VFields)
  | iaddc (h : Hdr) (f : VFields)
  | and (h : Hdr) (f : VFields)
  | or (h : Hdr) (f : VFields)
  | xor (h : Hdr) (f : VFields)
  | bmix (h : Hdr) (f : VFields)
  | shl (h : Hdr) (f : VFields)
  | shr (h : Hdr) (f : VFields)
  | rot (h : Hdr) (f : VFields)
  | funnel (h : Hdr) (f : VFields)
  | bfe (h : Hdr) (f : VFields)
  | bfi (h : Hdr) (f : VFields)
  | popc (h : Hdr) (f : VFields)
  | clz (h : Hdr) (f : VFields)
  | brev (h : Hdr) (f : VFields)
  | icmp (h : Hdr) (f : VFields)
  | sel (h : Hdr) (f : VFields)
  | mov (h : Hdr) (f : VFields)
  | lea (h : Hdr) (f : VFields)
  | idp4 (h : Hdr) (f : VFields)
  | sad (h : Hdr) (f : VFields)
  | fadd (h : Hdr) (f : VFields)
  | fsub (h : Hdr) (f : VFields)
  | fmul (h : Hdr) (f : VFields)
  | fma (h : Hdr) (f : VFields)
  | fmin (h : Hdr) (f : VFields)
  | fmax (h : Hdr) (f : VFields)
  | fneg (h : Hdr) (f : VFields)
  | fabs (h : Hdr) (f : VFields)
  | fcmp (h : Hdr) (f : VFields)
  | fdiv (h : Hdr) (f : VFields)
  | fsqrt (h : Hdr) (f : VFields)
  | frcp (h : Hdr) (f : VFields)
  | frsq (h : Hdr) (f : VFields)
  | fex2 (h : Hdr) (f : VFields)
  | flg2 (h : Hdr) (f : VFields)
  | fsin (h : Hdr) (f : VFields)
  | fcos (h : Hdr) (f : VFields)
  | frnd (h : Hdr) (f : VFields)
  | ffrac (h : Hdr) (f : VFields)
  | fldexp (h : Hdr) (f : VFields)
  | fclass (h : Hdr) (f : VFields)
  | fdot2 (h : Hdr) (f : VFields)
  | flerp (h : Hdr) (f : VFields)
  | fmed3 (h : Hdr) (f : VFields)
  | cvt (h : Hdr) (f : VFields)
  | pack (h : Hdr) (f : VFields)
  | unpack (h : Hdr) (f : VFields)
  | tripack (h : Hdr) (f : VFields)
  | triunpk (h : Hdr) (f : VFields)
  | lxch (h : Hdr) (f : VFields)
  | pqry (h : Hdr) (f : VFields)
  | wred (h : Hdr) (f : VFields)
  | wscan (h : Hdr) (f : VFields)
  | lpeer (h : Hdr) (f : VFields)
  | lread (h : Hdr) (f : VFields)
  | lwrite (h : Hdr) (f : VFields)
  | sadd (h : Hdr) (f : SFields)
  | ssub (h : Hdr) (f : SFields)
  | smul (h : Hdr) (f : SFields)
  | sand (h : Hdr) (f : SFields)
  | sor (h : Hdr) (f : SFields)
  | sxor (h : Hdr) (f : SFields)
  | sshl (h : Hdr) (f : SFields)
  | sshr (h : Hdr) (f : SFields)
  | scmp (h : Hdr) (f : SFields)
  | smov (h : Hdr) (f : SFields)
  | ssel (h : Hdr) (f : SFields)
  | sbfe (h : Hdr) (f : SFields)
  | sff1 (h : Hdr) (f : SFields)
  | spopc (h : Hdr) (f : SFields)
  | slea (h : Hdr) (f : SFields)
  | ld (h : Hdr) (f : MFields)
  | st (h : Hdr) (f : MFields)
  | ldl (h : Hdr) (f : MFields)
  | stl (h : Hdr) (f : MFields)
  | lds (h : Hdr) (f : MFields)
  | sts (h : Hdr) (f : MFields)
  | ldcvt (h : Hdr) (f : MFields)
  | pref (h : Hdr) (f : MFields)
  | cflush (h : Hdr) (f : MFields)
  | fifopush (h : Hdr) (f : MFields)
  | fifopop (h : Hdr) (f : MFields)
  | bankcfg (h : Hdr) (f : MFields)
  | qpop (h : Hdr) (f : MFields)
  | qstat (h : Hdr) (f : MFields)
  | strm (h : Hdr) (f : CFields)
  | strmx (h : Hdr) (f : CFields)
  | atom (h : Hdr) (f : MFields)
  | atomx (h : Hdr) (f : MFields)
  | red (h : Hdr) (f : MFields)
  | atoml (h : Hdr) (f : MFields)
  | xred (h : Hdr) (f : MFields)
  | copy (h : Hdr) (f : CFields)
  | copym (h : Hdr) (f : CFields)
  | halo (h : Hdr) (f : CFields)
  | gathv (h : Hdr) (f : CFields)
  | tagarm (h : Hdr) (f : CFields)
  | tagwait (h : Hdr) (f : CFields)
  | tagff (h : Hdr) (f : CFields)
  | tagclr (h : Hdr) (f : CFields)
  | obres (h : Hdr) (f : CFields)
  | obrel (h : Hdr) (f : YFields)
  | obld (h : Hdr) (f : CFields)
  | mma (h : Hdr) (f : VFields)
  | accz (h : Hdr) (f : YFields)
  | accld (h : Hdr) (f : MFields)
  | drain (h : Hdr) (f : XFields)
  | accrd (h : Hdr) (f : VFields)
  | mstat (h : Hdr) (f : YFields)
  | rast (h : Hdr) (f : XFields)
  | rastSet (h : Hdr) (f : XFields)
  | blend (h : Hdr) (f : XFields)
  | blendSet (h : Hdr) (f : XFields)
  | trav (h : Hdr) (f : XFields)
  | travSet (h : Hdr) (f : XFields)
  | filt (h : Hdr) (f : XFields)
  | filtSet (h : Hdr) (f : XFields)
  | bin (h : Hdr) (f : XFields)
  | mcall (h : Hdr) (f : XFields)
  | taskpush (h : Hdr) (f : VFields)
  | hqpush (h : Hdr) (f : MFields)
  | hqpop (h : Hdr) (f : MFields)
  | ordin (h : Hdr) (f : VFields)
  | ordout (h : Hdr) (f : VFields)
  | ordseq (h : Hdr) (f : VFields)
  | trmark (h : Hdr) (f : YFields)
  | relaunch (h : Hdr) (f : YFields)
  | launch (h : Hdr) (f : YFields)
  | variableLatencyResult (w : WaveRef) (k : Nat) (evict : Option Nat)
  | trapDelivery (w : WaveRef)
  | tlbWalkComplete (die : Nat) (walk : Nat × Option Nat)
  | walkDispatch (die : Nat)
  | ringRecordWrite (ring : Nat)
  | fltdoneRetry (token : BitVec 16)
  | fltdoneAbort (token : BitVec 16)
  | scdone (token status : BitVec 16)
  | tlbicmd (value : BitVec 64)
  | tlbInvalidationDone
  | microcodeLoad (slot : BitVec 6)
  | microcodeUnload (slot : BitVec 6)
  | microcodeReplace
  | kick (value : BitVec 64)
  | graphUpload
  | graphFree (handle : BitVec 16)
  | nodeStart (replay node : Nat)
  | copyNodeDone (replay node : Nat)
  | waitNodeCheck (replay node : Nat)
  | kernelNodeComplete (replay node : Nat)
  | relaunchStart (launch : Nat)
  | teamPlace
  | launchAgeing (launch : Nat)
  | poolReassign
  | poolReassignDone (pool : Nat)
  | timeSliceExpiry (team : Nat)
  | drainTimeout (team : Nat)
  | teamFlush (team : Nat)
  | teamSave (team : Nat)
  | teamRestore (image : Nat)
  | macroSliceStop (w : WaveRef)
  | waveForm (launch : Nat) (pc : BitVec 64)
  | partialWaveTimeout (launch : Nat) (pc : BitVec 64)
  | copyDeliver (core cmd piece off n : Nat)
  | copyPrepass (core cmd : Nat)
  | streamFetch (w : WaveRef) (q : BitVec 3)
  | bankcfgDrainDone (core bank : Nat)
  | accessPerform (w : WaveRef) (k j : Nat) (part : AccessPart)
  | promotionNotice (core k : Nat)
  | engineOpStart (core : Nat) (old : List (Nat × Nat))
  | addOnStoreApply (core k : Nat)
  | binQueuePush (w : WaveRef)
  | ordStallTimeout (asn : BitVec 12) (key : BitVec 64) (space : Bool)
  | ordqQuery (value : BitVec 64)
  | ordqPurge (value : BitVec 64)
  | waitwWake (w : WaveRef)
  | waitwTimeout (w : WaveRef)
  | meterTick
  | sentinelWarning (die : Nat)
  | sentinelDecay (die : Nat)
  | hostBar2Write (off : Nat) (data : List (BitVec 8))
  | hostBar2Read (off n : Nat)
  | registerWrite (pa n : Nat) (value : BitVec 64)
  | rcfgEnable (ring : Nat) (log2n : BitVec 5)
  | rcfgDisable (ring : Nat)
  | rheadWrite (ring : Nat) (value : BitVec 32)
  | lkctlTail (port : Nat) (tail : BitVec 32)
  | lkctlEnable (port : Nat) (en : Bool)
  | linkWidthChange (port : Nat) (width : BitVec 2)
  | linkDescriptorSend (port : Nat)
  | linkFlitReceive (port vc pa : Nat) (data : List (BitVec 8))
  | linkAck (port : Nat) (rejected : Bool)
  | powerOn
  | functionLevelReset
  | rstcmdWarm (key : BitVec 16)
  | rstcmdCold (key : BitVec 16)
  | startStage (ok : Bool)
  | reccmd (value : BitVec 64)
  | attestReport
  | notAnInstruction (word : BitVec 64) (reason : Nat)
  | softError (site : Site) (bits : Nat)
  | pcieCompletion (k : Nat) (ok : Bool)
  | completionTimeout (k : Nat)
  | pcieConfigWrite (reg : PcieReg)
  | linkTrained (port : Nat) (width : BitVec 2)
  deriving DecidableEq, Repr

end Sys2Proof
end

