-- ==== Sys2Proof/Machine/Legality.lean ====
section
/-! DEFINITION. Which words are instructions: the reasons of 02 R45, from the formats (02 R22 to R38), the opcode map
(03 R54 to R69) and the field lists of the entries. -/

namespace Sys2Proof.Machine

/-- The seven formats (02 R25 to R32). -/
inductive Format where
  | V | S | M | B | C | X | Y
  deriving DecidableEq, Repr

/-- The format of a major opcode; none: unassigned (03 R54 to R68). -/
def formatOf (o : Nat) : Option Format :=
  if o ≤ 0x0A then some .Y
  else if o == 0x10 then some .B
  else if 0x11 ≤ o && o ≤ 0x18 then some .Y
  else if 0x20 ≤ o && o ≤ 0x3C then some .V
  else if 0x40 ≤ o && o ≤ 0x57 then some .V
  else if 0x60 ≤ o && o ≤ 0x6B then some .V
  else if 0x70 ≤ o && o ≤ 0x7E then some .S
  else if 0x80 ≤ o && o ≤ 0x8D then some .M
  else if 0xA0 ≤ o && o ≤ 0xA4 then some .M
  else if 0xB0 ≤ o && o ≤ 0xB9 then some .C
  else match o with
    | 0xC0 => some .C | 0xC1 => some .Y | 0xC2 => some .C | 0xC3 => some .V | 0xC4 => some .Y | 0xC5 => some .M
    | 0xC6 => some .X | 0xC7 => some .V | 0xC8 => some .Y
    | 0xD0 => some .X | 0xD1 => some .X | 0xD2 => some .X | 0xD3 => some .X | 0xD4 => some .X | 0xD5 => some .X
    | 0xE0 => some .V | 0xE1 => some .M | 0xE2 => some .M | 0xE3 => some .V | 0xE4 => some .V | 0xE5 => some .V
    | 0xE6 => some .Y | 0xE7 => some .Y | 0xE8 => some .Y
    | _ => none

/-- A reason and whether it holds. -/
abbrev Rule := Nat × Bool

/-- The alignment of a block of `n` registers (02 R26). -/
def blockAlign (n : Nat) : Nat := if n == 2 || n == 4 || n == 8 then n else 1

/-- A vector block of `n` registers with a given alignment, below the declared count (reason 7). -/
def vecAl (nv idx n al : Nat) : List Rule := [(7, decide (idx + n > nv) || idx % al != 0)]
def vecR (nv idx n : Nat) : List Rule := vecAl nv idx n (blockAlign n)
/-- A scalar block: below 192 (reason 4), aligned (reason 7). A block whose end lies past register 191 has reason 4 (log entry 17). -/
def scaAl (idx n al : Nat) : List Rule := [(4, decide (idx + n > 192)), (7, idx % al != 0)]
def scaR (idx n : Nat) : List Rule := scaAl idx n (blockAlign n)
/-- A field that must be zero (reason 3). -/
def zeroR (v : Nat) : List Rule := [(3, v != 0)]
/-- A value outside the assigned ones (reason 2). -/
def assignedR (ok : Bool) : List Rule := [(2, !ok)]

/-! ### Format V -/

/-- How a Format V source is used: not read; registers (count, allowed kinds); a number in the low bits of the field. -/
inductive SrcUse where
  | unused
  | regs (n : Nat) (vec sca zero imm : Bool)
  | field (nbits : Nat)
  deriving DecidableEq, Repr

/-- How C is used. -/
inductive CUse where
  | unused
  | src (n : Nat)
  | vecOnly (n : Nat)
  | code (nbits : Nat)
  deriving DecidableEq, Repr

/-- How D is used. -/
inductive DUse where
  | vec (n : Nat)
  | pred
  | predPair
  | field (nbits : Nat)
  deriving DecidableEq, Repr

/-- One row of a Format V opcode: its fields, which of RND, FZI, FZO, SAT it uses, and its own extra conditions. -/
structure VRow where
  d : DUse
  a : SrcUse
  b : SrcUse
  c : CUse
  rnd : Bool
  fzi : Bool
  fzo : Bool
  sat : Bool
  extra : List Rule
  deriving DecidableEq, Repr

def anyK (n : Nat) : SrcUse := .regs n true true true true
def vecK (n : Nat) : SrcUse := .regs n true false false false

/-- A row with no rounding fields. -/
def vrow (d : DUse) (a b : SrcUse) (c : CUse) (sat : Bool := false) (extra : List Rule := []) : VRow :=
  { d := d, a := a, b := b, c := c, rnd := false, fzi := false, fzo := false, sat := sat, extra := extra }

/-- The width in registers of a floating operand (09 R183). -/
def fpN (sub : Nat) : Nat := if sub == 3 then 2 else 1

/-- A floating row (09 R184). -/
def frow (d : DUse) (a b : SrcUse) (c : CUse) (rnd fzi fzo sat : Bool) (extra : List Rule := []) : VRow :=
  { d := d, a := a, b := b, c := c, rnd := rnd, fzi := fzi, fzo := fzo, sat := sat, extra := extra }

/-- The type codes of CVT that occupy a pair (08 R173). -/
def cvtWide (c : Nat) : Nat := if c == 3 || c == 7 || c == 11 then 2 else 1

/-- The row of a Format V opcode and SUB (03 R57 to R60, R65, R67); none: SUB unassigned. `c`: the C field. -/
def vRowOf (o sub c d : Nat) : Option VRow :=
  let w4 := if sub ≥ 2 then 2 else 1
  let w2 := if sub == 1 then 2 else 1
  let fn := fpN sub
  let three := sub ≤ 3
  let two := sub ≤ 1
  let fp3 := sub == 0 || sub == 1 || sub == 3
  let mk (ok : Bool) (r : VRow) : Option VRow := if ok then some r else none
  match o with
  | 0x20 => mk three (vrow (.vec w4) (anyK w4) (anyK w4) .unused true)
  | 0x21 => mk three (vrow (.vec w4) (anyK w4) (anyK w4) .unused true)
  | 0x22 => mk three (vrow (.vec w4) (anyK w4) (anyK w4) .unused true)
  | 0x23 => mk three (vrow (.vec w4) (anyK w4) (anyK w4) (.src w4) true)
  | 0x24 => mk three (vrow (.vec w4) (anyK w4) (anyK w4) .unused)
  | 0x25 => mk three (vrow (.vec w4) (anyK w4) (anyK w4) .unused)
  | 0x26 => mk (sub == 0 || sub == 2) (vrow (.vec w4) (anyK w4) .unused .unused true)
  | 0x27 => mk three (vrow (.vec w4) (anyK w4) (anyK w4) .unused true)
  | 0x28 => mk three (vrow (.vec w4) (anyK w4) (anyK w4) .unused true)
  | 0x29 => mk two (vrow (.vec w2) (anyK w2) (anyK w2) (.code 4) false [(10, c % 8 == 7)])
  | 0x2A => mk two (vrow (.vec w2) (anyK w2) (anyK w2) .unused)
  | 0x2B => mk two (vrow (.vec w2) (anyK w2) (anyK w2) .unused)
  | 0x2C => mk two (vrow (.vec w2) (anyK w2) (anyK w2) .unused)
  | 0x2D => mk two (vrow (.vec w2) (anyK w2) (anyK w2) (.code 8))
  | 0x2E => mk two (vrow (.vec w2) (anyK w2) (anyK 1) .unused)
  | 0x2F => mk three (vrow (.vec w4) (anyK w4) (anyK 1) .unused)
  | 0x30 => mk two (vrow (.vec w2) (anyK w2) (anyK 1) .unused)
  | 0x31 => mk two (vrow (.vec 1) (anyK 1) (anyK 1) (.src 1))
  | 0x32 => mk two (vrow (.vec 1) (anyK 1) (anyK 1) (.src 1))
  | 0x33 => mk (sub == 0) (vrow (.vec 1) (anyK 1) (anyK 1) (.src 1))
  | 0x34 => mk two (vrow (.vec 1) (anyK w2) .unused .unused)
  | 0x35 => mk two (vrow (.vec 1) (anyK w2) .unused .unused)
  | 0x36 => mk two (vrow (.vec w2) (anyK w2) .unused .unused)
  | 0x37 => mk two (vrow .pred (anyK w2) (anyK w2) (.code 4) false (assignedR (decide (c % 16 ≤ 9))))
  | 0x38 => mk two (vrow (.vec w2) (anyK w2) (anyK w2) (.code 4))
  | 0x39 => mk two (vrow (.vec w2) (anyK w2) .unused .unused)
  | 0x3A => mk two (vrow (.vec w2) (anyK w2) (anyK 1) (.code 6))
  | 0x3B => mk (decide (sub ≤ 2)) (vrow (.vec 1) (anyK 1) (anyK 1) (.src 1) true)
  | 0x3C => mk two (vrow (.vec 1) (anyK 1) (anyK 1) (.src 1) true)
  | 0x40 => some (frow (.vec fn) (anyK fn) (anyK fn) .unused true true true true)
  | 0x41 => some (frow (.vec fn) (anyK fn) (anyK fn) .unused true true true true)
  | 0x42 => some (frow (.vec fn) (anyK fn) (anyK fn) .unused true true true true)
  | 0x43 => some (frow (.vec fn) (anyK fn) (anyK fn) (.src fn) true true true true)
  | 0x44 => some (frow (.vec fn) (anyK fn) (anyK fn) .unused false true true false)
  | 0x45 => some (frow (.vec fn) (anyK fn) (anyK fn) .unused false true true false)
  | 0x46 => some (frow (.vec fn) (anyK fn) .unused .unused false true true false)
  | 0x47 => some (frow (.vec fn) (anyK fn) .unused .unused false true true false)
  | 0x48 => some (frow (if sub == 1 || sub == 2 then .predPair else .pred) (anyK fn) (anyK fn) (.code 4) false true false false
      (assignedR (decide (c % 16 ≤ 13))))
  | 0x49 => mk fp3 (frow (.vec fn) (anyK fn) (anyK fn) .unused true true true false)
  | 0x4A => mk fp3 (frow (.vec fn) (anyK fn) .unused .unused true true true false)
  | 0x4B => mk two (frow (.vec 1) (anyK 1) .unused .unused true true true false)
  | 0x4C => mk two (frow (.vec 1) (anyK 1) .unused .unused true true true false)
  | 0x4D => mk two (frow (.vec 1) (anyK 1) .unused .unused true true true false)
  | 0x4E => mk two (frow (.vec 1) (anyK 1) .unused .unused true true true false)
  | 0x4F => mk two (frow (.vec 1) (anyK 1) .unused .unused true true true false)
  | 0x50 => mk two (frow (.vec 1) (anyK 1) .unused .unused true true true false)
  | 0x51 => some (frow (.vec fn) (anyK fn) .unused .unused true true true false)
  | 0x52 => some (frow (.vec fn) (anyK fn) .unused .unused false true true false)
  | 0x53 => some (frow (.vec fn) (anyK fn) (anyK 1) .unused true true true false)
  | 0x54 => some (frow (.vec 1) (anyK fn) .unused .unused false false false false)
  | 0x55 => mk (sub == 1 || sub == 2) (frow (.vec 1) (anyK 1) (anyK 1) (.src 1) true true true true)
  | 0x56 => some (frow (.vec fn) (anyK fn) (anyK fn) (.src fn) true true true true)
  | 0x57 => some (frow (.vec fn) (anyK fn) (anyK fn) (.src fn) false true true false)
  | 0x60 =>
    let src := c % 16
    let dst := c / 16 % 16
    mk (sub == 0) (frow (.vec (cvtWide dst)) (anyK (cvtWide src)) (if src == 12 || dst == 12 then anyK 1 else .unused) (.code 8)
      true true true false (assignedR (decide (src ≤ 12) && decide (dst ≤ 12) && !(src == 12 && dst == 12))))
  | 0x61 =>
    if sub == 0 then some (frow (.vec 1) (vecK 1) (anyK 1) .unused true true true false)
    else mk (sub == 1) (frow (.vec 1) (vecK (32 / 2 ^ (c % 8))) .unused (.code 4) false false false true (assignedR (decide (c % 8 ≤ 4))))
  | 0x62 =>
    if sub == 0 then some (frow (.vec 1) (vecK 1) (anyK 1) .unused true true true false)
    else mk (sub == 1) (frow (.vec (32 / 2 ^ (c % 8))) (vecK 1) .unused (.code 4) false false false false (assignedR (decide (c % 8 ≤ 4))))
  | 0x63 => mk (sub == 0) (vrow (.vec 1) (vecK 20) .unused .unused)
  | 0x64 => mk (sub == 0) (vrow (.vec 20) (vecK 1) .unused .unused)
  | 0x65 => some (vrow (.vec 1) (vecK 1) (anyK 1) (.src 1))
  | 0x66 => some (vrow (if sub == 2 then .vec 2 else .pred) (.field 4) .unused .unused)
  | 0x67 =>
    if sub == 0 then some (vrow (.vec 1) (vecK 1) .unused (.code 3) false (assignedR (c % 4 == 3 || c / 4 % 2 == 0)))
    else if sub == 3 then some (vrow (.vec 1) (vecK 1) .unused (.code 2) false (assignedR (decide (c % 4 ≤ 1))))
    else some (frow (.vec 1) (vecK 1) .unused .unused true true true false)
  | 0x68 => mk two (vrow (.vec 1) (vecK 1) .unused (.code 2) false (assignedR (c % 4 != 3)))
  | 0x69 => mk two (vrow (.vec 2) (vecK w2) .unused .unused)
  | 0x6A => mk (sub == 0) (vrow (.vec 1) (vecK 1) (.regs 1 false true true true) .unused)
  | 0x6B => mk (sub == 0) (vrow (.vec 1) (.regs 1 false true true true) (.regs 1 false true true true) .unused)
  | 0xC3 => some (frow (.field 4) (vecK 16) (.field 4) (.code 4) false true (sub ≤ 1) true (assignedR (decide (c % 16 ≤ 8))))
  | 0xC7 => mk (sub == 0) (frow (.vec 16) (.field 4) (.field 2) .unused true false true false)
  | 0xE0 => mk two (vrow (.field 0) (vecK 16) (.regs 2 false true false false) (if sub == 1 then .vecOnly 1 else .unused))
  | 0xE3 => mk (sub == 0) (vrow (.field 0) (.regs 2 true true false false) (anyK 1) .unused false (zeroR d))
  | 0xE4 => mk (sub == 0) (vrow (.field 0) (.regs 2 true true false false) .unused .unused)
  | 0xE5 => mk (sub == 0) (vrow (.vec 1) (.regs 2 true true false false) .unused .unused)
  | _ => none

/-- The rules of one source field: its kind, register and use of the extension word. -/
def srcRules (nv : Nat) (u : SrcUse) (k idx : Nat) (xw : Bool) : List Rule :=
  match u with
  | .unused => zeroR idx ++ zeroR k
  | .field n => zeroR k ++ [(3, idx / 2 ^ n != 0)]
  | .regs n v s z i =>
    match k with
    | 0 => if v then vecR nv idx n else [(3, true)]
    | 1 => if s then scaR idx n else [(3, true)]
    | 2 => if z then zeroR idx else [(3, true)]
    | _ => if i then zeroR idx ++ [(5, !xw)] else [(3, true)]

/-- Whether a source position may be kept in the latch (02 R38). -/
def keepOk (u : SrcUse) (k : Nat) : Bool :=
  match u with
  | .regs _ v _ _ _ => v && k == 0
  | _ => false

def cRules (nv : Nat) (u : CUse) (kc c : Nat) : List Rule :=
  match u with
  | .unused => zeroR c ++ zeroR kc
  | .src n => if kc == 0 then vecR nv c n else zeroR c
  | .vecOnly n => zeroR kc ++ vecR nv c n
  | .code n => zeroR kc ++ [(3, c / 2 ^ n != 0)]

def dRules (nv : Nat) (u : DUse) (d : Nat) : List Rule :=
  match u with
  | .vec n => vecR nv d n
  | .pred => [(3, d / 8 != 0), (10, d % 8 == 7)]
  | .predPair => [(3, d / 8 != 0), (7, d % 2 != 0), (10, decide (d % 8 ≥ 6))]
  | .field n => [(3, d / 2 ^ n != 0)]

/-- The extension-word bits that a Format V instruction consumes (02 R25, R33). -/
def vConsumes (a b : SrcUse) (ka kb : Nat) : Nat :=
  let has (u : SrcUse) : Bool := match u with
    | .regs _ _ _ _ i => i
    | _ => false
  (if has a && ka == 3 then 2 ^ 32 - 1 else 0) + (if has b && kb == 3 then (2 ^ 32 - 1) * 2 ^ 32 else 0)

/-- The extension word's rules: unconsumed bits are zero, and it has a consumer (02 R33). -/
def xRules (xw : Bool) (x used : Nat) : List Rule :=
  if xw then [(5, used == 0), (3, used != 0 && (x &&& (2 ^ 64 - 1 - used)) != 0)] else []

def vRules (w x nv : Nat) : List Rule :=
  let o := bits w 63 56
  let xw := bit w 54
  let keep := bits w 53 52
  let d := bits w 47 39
  let a := bits w 38 30
  let b := bits w 29 21
  let c := bits w 20 12
  let ka := bits w 11 10
  let kb := bits w 9 8
  let kc := bits w 7 7
  match vRowOf o (bits w 1 0) c d with
  | none => assignedR false
  | some r =>
    dRules nv r.d d ++ srcRules nv r.a ka a xw ++ srcRules nv r.b kb b xw ++ cRules nv r.c kc c ++ r.extra ++
    [(3, !r.rnd && bits w 6 5 != 0), (3, !r.fzi && bit w 4), (3, !r.fzo && bit w 3), (3, !r.sat && bit w 2)] ++
    xRules xw x (vConsumes r.a r.b ka kb) ++
    [(11, match keep with
      | 0 => false
      | 1 => !keepOk r.a ka || o == 0xE3 || o == 0xE4 || o == 0xE5
      | 2 => !keepOk r.b kb || o == 0xE3
      | _ => match r.c with
        | .src _ => kc != 0
        | .vecOnly _ => false
        | _ => true)]

/-! ### Format S -/

def sRules (w x : Nat) : List Rule :=
  let o := bits w 63 56
  let xw := bit w 54
  let d := bits w 47 39
  let a := bits w 38 30
  let b := bits w 29 21
  let imm := bits w 20 5
  let ik := bit w 4
  let sub := bits w 1 0
  let wide := sub == 1 && o != 0x77 && o != 0x7B
  let n := if wide then 2 else 1
  let bOperand : List Rule := if ik then zeroR b ++ [(3, xw && imm != 0)] else scaR b n ++ zeroR imm
  let noB : List Rule := zeroR b ++ zeroR (b2n ik)
  let ops : List Rule :=
    if o == 0x78 then [(3, d / 128 != 0), (10, d % 8 == 7), (2, decide (d / 8 % 16 > 9))] ++ scaR a n ++ bOperand
    else if o == 0x79 then scaR d n ++ zeroR a ++ bOperand
    else if o == 0x7A then scaR d n ++ scaR a n ++ scaR b n ++ zeroR (b2n ik) ++ [(3, imm / 8 != 0)]
    else if o == 0x7C || o == 0x7D then scaR d n ++ scaR a n ++ noB ++ zeroR imm
    else if o == 0x7E then scaR d n ++ scaR a n ++ scaR b n ++ zeroR (b2n ik) ++ [(3, imm / 64 != 0)]
    else scaR d n ++ scaR a n ++ bOperand
  let takesImm := !(o == 0x7A || o == 0x7C || o == 0x7D || o == 0x7E)
  assignedR (decide (sub ≤ 1)) ++ ops ++ [(3, bits w 3 2 != 0)] ++ xRules xw x (if takesImm && ik then 2 ^ 32 - 1 else 0) ++
  [(6, bit w 51 || bits w 50 48 != 7), (11, bits w 53 52 != 0)]

/-! ### Format M -/

/-- The number of registers of `2^size` bytes (02 R28). -/
def sizeRegs (size : Nat) : Nat := if size ≤ 2 then 1 else 2 ^ (size - 2)

/-- Whether the ATOMX table applies (03 R63). -/
def usesAtomx (o ch : Nat) : Bool := o == 0xA1 || (o == 0xA3 && ch == 1)

/-- The data block of an atomic (13 R289). -/
def atomRegs (o size ch sub : Nat) : Nat :=
  let n := if size == 3 then 2 else 1
  if usesAtomx o ch && sub == 1 then 2 * n else n

def mRules (w x nv : Nat) : List Rule :=
  let o := bits w 63 56
  let xw := bit w 54
  let d := bits w 47 39
  let a := bits w 38 30
  let ak := bit w 29
  let size := bits w 28 26
  let scope := bits w 25 23
  let ord := bits w 22 21
  let ch := bits w 20 19
  let sub := bits w 18 16
  let off := bits w 15 0
  let baseG : List Rule := if ak then scaR a 2 else vecR nv a 2
  let baseS : List Rule := (3, !ak) :: scaR a 2
  let baseL : List Rule := if ak then scaR a 1 else vecR nv a 1
  let noBase : List Rule := zeroR a ++ zeroR (b2n ak)
  let offset : List Rule := [(3, xw && off != 0)]
  let sizes (ok : Bool) : List Rule := assignedR ok
  let subs (ok : Bool) : List Rule := assignedR ok
  let order (sc od : Bool) : List Rule := assignedR (sc && od && scope != 7 && !(scope == 0 && ord != 0))
  let noOrder : List Rule := assignedR (scope == 0 && ord == 0)
  let ld := ord ≤ 1
  let st := ord == 0 || ord == 2
  let rw2 := ord == 0 || ord == 2
  let sx : List Rule := assignedR (sub == 0 || (sub == 1 && size ≤ 1))
  let dv : List Rule := vecR nv d (sizeRegs size)
  let ds : List Rule := scaR d (sizeRegs size)
  let ops : List Rule := match o with
    | 0x80 => sx ++ sizes (size ≤ 5) ++ order true ld ++ dv ++ baseG ++ offset
    | 0x81 => subs (sub == 0) ++ sizes (size ≤ 5) ++ order true st ++ dv ++ baseG ++ offset
    | 0x82 => sx ++ sizes (size ≤ 5) ++ order (scope ≤ 4) ld ++ dv ++ baseL ++ offset ++ zeroR ch
    | 0x83 => subs (sub == 0) ++ sizes (size ≤ 5) ++ order (scope ≤ 4) st ++ dv ++ baseL ++ offset ++ zeroR ch
    | 0x84 => sx ++ sizes (size ≤ 5) ++ order true ld ++ ds ++ baseS ++ offset
    | 0x85 => subs (sub == 0) ++ sizes (size ≤ 5) ++ order true st ++ ds ++ baseS ++ offset
    | 0x86 => subs (sub == 0) ++ sizes (size ≤ 3) ++ order true ld ++ vecR nv d 1 ++ baseG ++ [(3, off / 256 != 0)] ++ scaR (off % 256) 1
    | 0x87 => subs (sub ≤ 1) ++ sizes (size ≤ 5) ++ noOrder ++ zeroR d ++ baseG ++ offset
    | 0x88 => subs (sub ≤ 2) ++ sizes (size ≤ 5) ++ zeroR size ++ noOrder ++ zeroR ch ++ zeroR d ++ baseG ++ offset
    | 0x89 => subs (sub == 0) ++ sizes (size ≤ 5) ++ noOrder ++ zeroR ch ++ dv ++ noBase ++ [(3, off / 64 != 0)]
    | 0x8A => subs (sub == 0) ++ sizes (size ≤ 5) ++ noOrder ++ zeroR ch ++ dv ++ noBase ++ [(3, off / 64 != 0)]
    | 0x8B => subs (sub == 0) ++ sizes (size ≤ 5) ++ zeroR size ++ noOrder ++ zeroR ch ++ zeroR d ++ baseS ++ zeroR off
    | 0x8C => subs (sub == 0) ++ sizes (decide (2 ≤ size) && decide (size ≤ 4)) ++ noOrder ++ zeroR ch ++ dv ++ noBase ++ [(3, off / 8 != 0)]
    | 0x8D => subs (sub == 0) ++ sizes (size ≤ 5) ++ zeroR size ++ noOrder ++ zeroR ch ++ scaR d 1 ++ noBase ++ [(3, off / 8 != 0)]
    | 0xA0 => sizes (size == 2 || size == 3) ++ order (scope != 0) true ++ zeroR ch ++ vecR nv d (atomRegs o size ch sub) ++ baseG ++ offset
    | 0xA1 => subs (decide (sub ≤ 4)) ++ sizes (size == 2 || (size == 3 && sub != 2)) ++ order (scope != 0) true ++ zeroR ch ++
        vecR nv d (atomRegs o size ch sub) ++ baseG ++ offset
    | 0xA2 => sizes (size == 2 || size == 3) ++ order (scope != 0) rw2 ++ zeroR ch ++ vecR nv d (atomRegs o size ch sub) ++ baseG ++ offset
    | 0xA3 => assignedR (decide (ch ≤ 1)) ++ subs (ch != 1 || decide (sub ≤ 4)) ++ sizes (size == 2 || (size == 3 && !(ch == 1 && sub == 2))) ++
        order (decide (1 ≤ scope) && decide (scope ≤ 4)) true ++ vecR nv d (atomRegs o size ch sub) ++ baseL ++ offset
    | 0xA4 => subs (sub ≤ 1) ++ sizes (size == 5) ++ order (scope != 0) rw2 ++ zeroR ch ++ vecR nv d (if sub == 1 then 8 else 1) ++ baseG ++ offset
    | 0xC5 => subs (sub ≤ 1) ++ sizes (size == 2 || size == 5) ++ order true ld ++ [(3, d / 16 != 0)] ++
        (if sub == 1 then (3, !ak) :: scaR a 1 ++ zeroR ch else baseS) ++ offset
    | 0xE1 => subs (sub == 0) ++ sizes (size ≤ 5) ++ zeroR size ++ noOrder ++ zeroR ch ++ vecR nv d 16 ++ baseS ++ offset
    | 0xE2 => subs (sub == 0) ++ sizes (size ≤ 5) ++ zeroR size ++ noOrder ++ zeroR ch ++ vecR nv d 16 ++ baseS ++ offset
    | _ => []
  let hasOffset := !(o == 0x86 || o == 0x89 || o == 0x8A || o == 0x8B || o == 0x8C || o == 0x8D)
  ops ++ xRules xw x (if hasOffset then 2 ^ 32 - 1 else 0) ++ [(11, bits w 53 52 != 0)]

/-! ### Format B -/

def bRules (w : Nat) : List Rule :=
  assignedR (bits w 3 2 != 3 && bits w 1 0 == 0) ++
  [(6, bit w 51 || bits w 50 48 != 7), (6, bit w 7 && bits w 6 4 == 7), (3, bits w 6 4 == 7 && bits w 15 8 != 0),
   (5, bit w 54), (11, bits w 53 52 != 0)]

/-! ### Format C -/

def cFmtRules (w nv : Nat) : List Rule :=
  let o := bits w 63 56
  let d := bits w 47 39
  let a := bits w 38 30
  let b := bits w 29 21
  let e := bits w 20 12
  let tag := bits w 11 6
  let mode := bits w 5 2
  let sub := bits w 1 0
  let eR : List Rule := scaAl e 4 1
  let m0 := mode == 0
  let ops : List Rule := match o with
    | 0xB0 => zeroR d ++ scaR a 2 ++ scaR b 2 ++ eR
    | 0xB1 => assignedR (decide (sub ≤ 1) && (mode == 0 || mode == 4)) ++ [(3, d / 64 != 0)] ++ scaR a 2 ++ scaR b 2 ++ eR
    | 0xB2 => assignedR (decide (sub ≤ 1) && m0) ++ [(3, d / 64 != 0)] ++ scaR a 2 ++ zeroR b ++ eR
    | 0xB3 => assignedR (sub == 0 && m0) ++ vecR nv d 1 ++ scaR a 2 ++ vecR nv b 1 ++ eR
    | 0xB4 => assignedR (sub == 0 && m0) ++ zeroR d ++ scaR a 1 ++ zeroR b ++ zeroR e
    | 0xB5 => assignedR (decide (sub ≤ 1) && m0) ++ zeroR d ++ scaR a 2 ++ zeroR b ++ zeroR e ++ zeroR tag
    | 0xB6 => assignedR (sub == 0 && m0) ++ scaR d 1 ++ scaR a 2 ++ zeroR b ++ zeroR e ++ zeroR tag
    | 0xB7 => assignedR (sub == 0 && m0) ++ zeroR d ++ scaR a 2 ++ zeroR b ++ zeroR e ++ zeroR tag
    | 0xB8 => assignedR (sub == 0 && m0) ++ [(3, d / 256 != 0)] ++ scaR a 2 ++ scaAl b 4 2 ++ eR ++ zeroR tag
    | 0xB9 => assignedR (sub == 0 && m0) ++ [(3, d / 8 != 0)] ++ zeroR a ++ zeroR b ++ zeroR e ++ zeroR tag
    | 0xC0 => assignedR (sub == 0 && m0) ++ scaR d 1 ++ scaR a 2 ++ zeroR b ++ eR ++ [(3, tag / 16 != 0)]
    | 0xC2 => assignedR (sub == 0 && m0) ++ [(3, d / 16 != 0)] ++ scaR a 2 ++ scaR b 2 ++ eR
    | _ => []
  ops ++ [(5, bit w 54), (11, bits w 53 52 != 0)]

/-! ### Format X -/

/-- A per-lane window of `n` vector registers (11 R226). -/
def window (nv idx n al : Nat) : List Rule := vecAl nv idx n al

def xFmtRules (w nv : Nat) : List Rule :=
  let o := bits w 63 56
  let win := bits w 47 39
  let a := bits w 38 30
  let b := bits w 29 21
  let cb := bits w 20 8
  let var := bits w 7 2
  let sub := bits w 1 0
  let set := sub == 1
  let ops : List Rule := match o with
    | 0xC6 => assignedR (var == 0) ++ scaAl win 4 1 ++ zeroR cb ++ [(3, b / 32 != 0)] ++
        (if sub == 3 then [(3, bit b 4)] ++ vecR nv a 1 else if bit b 4 then scaR a 1 else scaR a 2)
    | 0xD0 => assignedR (decide (sub ≤ 1) && (if set then var == 0 else decide (var ≤ 3) && !(bit var 0 && cb == 0))) ++
        scaAl win 16 1 ++ zeroR b ++
        (if set then zeroR a ++ zeroR cb
         else (if bit var 1 then [(3, a / 8 != 0), (10, a % 8 == 7)] else zeroR a) ++ [(3, !bit var 0 && cb != 0)])
    | 0xD1 => assignedR (decide (sub ≤ 1) && (if set then var == 0 else decide (var ≤ 2))) ++ window nv win 8 8 ++ zeroR a ++ zeroR b ++ zeroR cb
    | 0xD2 => assignedR (decide (sub ≤ 1) && (if set then var == 0 else decide (var ≤ 7) && !(bit var 0 && cb == 0))) ++
        window nv win 32 8 ++ zeroR a ++ zeroR b ++ [(3, set && cb != 0)]
    | 0xD3 => assignedR (decide (sub ≤ 1) && (if set then var == 0 else decide (var ≤ 2))) ++ window nv win 16 8 ++ zeroR a ++ zeroR b ++ zeroR cb
    | 0xD4 => assignedR (sub == 0 && var == 0) ++ window nv win 16 8 ++ scaR a 2 ++ zeroR b ++ zeroR cb
    | 0xD5 => assignedR (sub == 0) ++ window nv win 4 4
    | _ => []
  ops ++ [(5, bit w 54), (11, bits w 53 52 != 0)]

/-! ### Format Y -/

/-- A system register's number: assigned, its width in registers, whether it is lane-valued (02 R42). -/
structure SysReg where
  n : Nat
  lane : Bool
  deriving DecidableEq, Repr

def sysReg (num : Nat) : Option SysReg :=
  if num == 0 || num == 0x14 || num == 0x16 then some { n := 1, lane := true }
  else if num == 0x10 || num == 0x11 || num == 0x13 || num == 0x24 then some { n := 2, lane := false }
  else if num ≤ 0x0E || num == 0x12 || num == 0x15 || (0x20 ≤ num && num ≤ 0x25) then some { n := 1, lane := false }
  else none

def yRules (w nv : Nat) : List Rule :=
  let o := bits w 63 56
  let imm := bits w 47 32
  let d := bits w 31 23
  let a := bits w 22 14
  let sub := bits w 1 0
  let s0 : List Rule := assignedR (sub == 0)
  let s1 : List Rule := assignedR (decide (sub ≤ 1))
  let noD := zeroR d
  let noA := zeroR a
  let noI := zeroR imm
  let prio : List Rule := [(3, imm / 256 != 0)]
  let cv : List Rule := [(3, d / 8 != 0)]
  let ops : List Rule := match o with
    | 0x00 => s0 ++ noD ++ noA ++ noI
    | 0x01 => s0 ++ noD ++ noA ++ noI
    | 0x02 => s0 ++ noD ++ noA ++ noI
    | 0x03 => s0 ++ noD ++ noA
    | 0x04 => s0 ++ noD ++ noA ++ noI
    | 0x05 => s0 ++ noD ++ noA
    | 0x06 => s0 ++ noA ++ (match sysReg imm with
        | none => [(12, true)]
        | some r => if r.lane then vecR nv d 1 else [(4, decide (d ≥ 192)), (12, r.n == 2 && d % 2 != 0)])
    | 0x07 => s0 ++ noD ++ (match sysReg imm with
        | none => [(12, true), (4, decide (a ≥ 192))]
        | some r => [(4, decide (a ≥ 192)), (12, r.n == 2 && a % 2 != 0)])
    | 0x08 => assignedR (decide (sub ≤ 2) && imm % 8 != 0 && imm % 8 != 7) ++ [(3, imm / 8 != 0)] ++ noD ++ noA
    | 0x09 => s1 ++ scaR a 2 ++ scaR d (if sub == 1 then 2 else 1)
    | 0x0A => s1 ++ [(3, imm / 16 != 0)] ++ noD ++ noA
    | 0x11 => s0 ++ scaR d 2 ++ scaR a 2 ++ prio
    | 0x12 => s1 ++ noD ++ (if sub == 1 then vecR nv a 2 else scaR a 2) ++ prio
    | 0x13 => s0 ++ noD ++ noA ++ prio
    | 0x14 => s0 ++ cv ++ scaR a 2 ++ noI
    | 0x15 => s0 ++ cv ++ noA ++ noI
    | 0x16 => s0 ++ cv ++ noA ++ noI
    | 0x17 => s0 ++ noD ++ scaR a 2 ++ noI
    | 0x18 => s0 ++ noD ++ vecR nv a 1 ++ noI
    | 0xC1 => s0 ++ noD ++ noA ++ [(3, imm / 16 != 0)]
    | 0xC4 => assignedR (sub == 0 && imm % 4 != 3) ++ [(3, imm / 4 != 0), (3, d / 16 != 0)] ++ noA
    | 0xC8 => s1 ++ scaR d 1 ++ noA ++ noI
    | 0xE6 => s0 ++ scaR d 1 ++ scaR a 2 ++ noI
    | 0xE7 => s0 ++ noD ++ scaR a 2 ++ noI
    | 0xE8 => s0 ++ noD ++ scaR a 2 ++ noI
    | _ => []
  ops ++ [(3, bits w 13 2 != 0), (5, bit w 54), (11, bits w 53 52 != 0)]

/-! ### The reason -/

/-- The least reason that holds (02 R45). -/
def leastReason (l : List Rule) : Option Nat :=
  l.foldl (fun acc r => if r.2 then (match acc with
    | none => some r.1
    | some k => some (min k r.1)) else acc) none

/-- Why a word (with its extension word) is not an instruction in a kernel of `nv` vector registers; none: it is one. -/
def illegalReason (w x nv : Nat) : Option Nat :=
  if w == 2 ^ 64 - 1 then some 9
  else
    let guard : List Rule := [(6, bit w 51 && bits w 50 48 == 7)]
    match formatOf (bits w 63 56) with
    | none => some 1
    | some .V => leastReason (guard ++ vRules w x nv)
    | some .S => leastReason (guard ++ sRules w x)
    | some .M => leastReason (guard ++ mRules w x nv)
    | some .B => leastReason (guard ++ bRules w)
    | some .C => leastReason (guard ++ cFmtRules w nv)
    | some .X => leastReason (guard ++ xFmtRules w nv)
    | some .Y => leastReason (guard ++ yRules w nv)

/-- Whether the extension word must be read to judge a word: XW is set and the word's reason, if any, can depend on it. -/
def needsExt (w nv : Nat) : Bool :=
  bit w 54 && ((illegalReason w 0 nv).isNone || illegalReason w (2 ^ 64 - 1) nv != illegalReason w 0 nv)

end Sys2Proof.Machine
end

