-- ==== Sys2Proof/Machine/Layout.lean ====
section
/-! DEFINITION. The bit layout of the formats: reading the fields of a word, and laying the fields of an instruction out as a
word (02 R23 to R32). -/

namespace Sys2Proof.Machine

/-! ### Reading -/

def readOpc (w : Word) : BitVec 8 := w.extractLsb' 56 8
def readHdr (w x : Word) : Hdr :=
  { sw := w.getLsbD 55, keep := w.extractLsb' 52 2, gn := w.getLsbD 51, gp := w.extractLsb' 48 3,
    x := if w.getLsbD 54 then some x else none }
def kindOf (k : BitVec 2) : Kind :=
  if k = 0#2 then .vec else if k = 1#2 then .sca else if k = 2#2 then .zero else .imm
def kindBits : Kind → BitVec 2
  | .vec => 0#2 | .sca => 1#2 | .zero => 2#2 | .imm => 3#2
def rndOf (k : BitVec 2) : Rnd :=
  if k = 0#2 then .rn else if k = 1#2 then .rz else if k = 2#2 then .rp else .rm
def rndBits : Rnd → BitVec 2
  | .rn => 0#2 | .rz => 1#2 | .rp => 2#2 | .rm => 3#2
def readV (w : Word) : VFields :=
  { d := w.extractLsb' 39 9, a := w.extractLsb' 30 9, b := w.extractLsb' 21 9, c := w.extractLsb' 12 9,
    ka := kindOf (w.extractLsb' 10 2), kb := kindOf (w.extractLsb' 8 2), kc := w.getLsbD 7, rnd := rndOf (w.extractLsb' 5 2),
    fzi := w.getLsbD 4, fzo := w.getLsbD 3, sat := w.getLsbD 2, sub := w.extractLsb' 0 2 }
def readS (w : Word) : SFields :=
  { d := w.extractLsb' 39 9, a := w.extractLsb' 30 9, b := w.extractLsb' 21 9, imm := w.extractLsb' 5 16,
    ik := w.getLsbD 4, sub := w.extractLsb' 0 2 }
def readM (w : Word) : MFields :=
  { d := w.extractLsb' 39 9, a := w.extractLsb' 30 9, ak := w.getLsbD 29, size := w.extractLsb' 26 3,
    scope := w.extractLsb' 23 3, ord := w.extractLsb' 21 2, ch := w.extractLsb' 19 2, sub := w.extractLsb' 16 3,
    off := w.extractLsb' 0 16 }
def readMode (w : Word) : BitVec 2 := w.extractLsb' 2 2
def readB (w : Word) : BFields :=
  { off := w.extractLsb' 24 24, tprio := w.extractLsb' 16 8, fprio := w.extractLsb' 8 8, cn := w.getLsbD 7,
    cp := w.extractLsb' 4 3, sub := w.extractLsb' 0 2 }
def readC (w : Word) : CFields :=
  { d := w.extractLsb' 39 9, a := w.extractLsb' 30 9, b := w.extractLsb' 21 9, e := w.extractLsb' 12 9,
    tag := w.extractLsb' 6 6, mode := w.extractLsb' 2 4, sub := w.extractLsb' 0 2 }
def readX (w : Word) : XFields :=
  { w := w.extractLsb' 39 9, a := w.extractLsb' 30 9, b := w.extractLsb' 21 9, cboff := w.extractLsb' 8 13,
    var := w.extractLsb' 2 6, sub := w.extractLsb' 0 2 }
def readY (w : Word) : YFields :=
  { imm := w.extractLsb' 32 16, d := w.extractLsb' 23 9, a := w.extractLsb' 14 9, sub := w.extractLsb' 0 2 }

/-! ### Laying out -/

/-- Bits [63:48] (02 R23). -/
def packHdr (opc : BitVec 8) (h : Hdr) : BitVec 16 :=
  opc ++ BitVec.ofBool h.sw ++ BitVec.ofBool h.x.isSome ++ h.keep ++ BitVec.ofBool h.gn ++ h.gp
def packV (f : VFields) : BitVec 48 :=
  f.d ++ f.a ++ f.b ++ f.c ++ kindBits f.ka ++ kindBits f.kb ++ BitVec.ofBool f.kc ++ rndBits f.rnd ++
  BitVec.ofBool f.fzi ++ BitVec.ofBool f.fzo ++ BitVec.ofBool f.sat ++ f.sub
def packS (f : SFields) : BitVec 48 := f.d ++ f.a ++ f.b ++ f.imm ++ BitVec.ofBool f.ik ++ 0#2 ++ f.sub
def packM (f : MFields) : BitVec 48 :=
  f.d ++ f.a ++ BitVec.ofBool f.ak ++ f.size ++ f.scope ++ f.ord ++ f.ch ++ f.sub ++ f.off
def packB (mode : BitVec 2) (f : BFields) : BitVec 48 :=
  f.off ++ f.tprio ++ f.fprio ++ BitVec.ofBool f.cn ++ f.cp ++ mode ++ f.sub
def packC (f : CFields) : BitVec 48 := f.d ++ f.a ++ f.b ++ f.e ++ f.tag ++ f.mode ++ f.sub
def packX (f : XFields) : BitVec 48 := f.w ++ f.a ++ f.b ++ f.cboff ++ f.var ++ f.sub
def packY (f : YFields) : BitVec 48 := f.imm ++ f.d ++ f.a ++ 0#12 ++ f.sub

/-- An instruction's words. -/
structure Words where
  word : Word
  ext : Option Word
  deriving DecidableEq, Repr

def words (opc : BitVec 8) (h : Hdr) (body : BitVec 48) : Option Words := some { word := packHdr opc h ++ body, ext := h.x }

/-- The words of an instruction by its constructor; none for a step that is no instruction. -/
def layoutOf (i : Instr) : Option Words :=
  match i with
  | .nop h f => words 0x00#8 h (packY f)
  | .exit h f => words 0x01#8 h (packY f)
  | .yield h f => words 0x02#8 h (packY f)
  | .trap h f => words 0x03#8 h (packY f)
  | .tret h f => words 0x04#8 h (packY f)
  | .bkpt h f => words 0x05#8 h (packY f)
  | .sysrd h f => words 0x06#8 h (packY f)
  | .syswr h f => words 0x07#8 h (packY f)
  | .fence h f => words 0x08#8 h (packY f)
  | .waitw h f => words 0x09#8 h (packY f)
  | .bar h f => words 0x0A#8 h (packY f)
  | .br h f => words 0x10#8 h (packB 0#2 f)
  | .bru h f => words 0x10#8 h (packB 1#2 f)
  | .brs h f => words 0x10#8 h (packB 2#2 f)
  | .jal h f => words 0x11#8 h (packY f)
  | .jmp h f => words 0x12#8 h (packY f)
  | .setprio h f => words 0x13#8 h (packY f)
  | .cvset h f => words 0x14#8 h (packY f)
  | .cvsign h f => words 0x15#8 h (packY f)
  | .cvwait h f => words 0x16#8 h (packY f)
  | .spawn h f => words 0x17#8 h (packY f)
  | .repack h f => words 0x18#8 h (packY f)
  | .iadd h f => words 0x20#8 h (packV f)
  | .isub h f => words 0x21#8 h (packV f)
  | .imul h f => words 0x22#8 h (packV f)
  | .imad h f => words 0x23#8 h (packV f)
  | .imin h f => words 0x24#8 h (packV f)
  | .imax h f => words 0x25#8 h (packV f)
  | .iabs h f => words 0x26#8 h (packV f)
  | .idiv h f => words 0x27#8 h (packV f)
  | .irem h f => words 0x28#8 h (packV f)
  | .iaddc h f => words 0x29#8 h (packV f)
  | .and h f => words 0x2A#8 h (packV f)
  | .or h f => words 0x2B#8 h (packV f)
  | .xor h f => words 0x2C#8 h (packV f)
  | .bmix h f => words 0x2D#8 h (packV f)
  | .shl h f => words 0x2E#8 h (packV f)
  | .shr h f => words 0x2F#8 h (packV f)
  | .rot h f => words 0x30#8 h (packV f)
  | .funnel h f => words 0x31#8 h (packV f)
  | .bfe h f => words 0x32#8 h (packV f)
  | .bfi h f => words 0x33#8 h (packV f)
  | .popc h f => words 0x34#8 h (packV f)
  | .clz h f => words 0x35#8 h (packV f)
  | .brev h f => words 0x36#8 h (packV f)
  | .icmp h f => words 0x37#8 h (packV f)
  | .sel h f => words 0x38#8 h (packV f)
  | .mov h f => words 0x39#8 h (packV f)
  | .lea h f => words 0x3A#8 h (packV f)
  | .idp4 h f => words 0x3B#8 h (packV f)
  | .sad h f => words 0x3C#8 h (packV f)
  | .fadd h f => words 0x40#8 h (packV f)
  | .fsub h f => words 0x41#8 h (packV f)
  | .fmul h f => words 0x42#8 h (packV f)
  | .fma h f => words 0x43#8 h (packV f)
  | .fmin h f => words 0x44#8 h (packV f)
  | .fmax h f => words 0x45#8 h (packV f)
  | .fneg h f => words 0x46#8 h (packV f)
  | .fabs h f => words 0x47#8 h (packV f)
  | .fcmp h f => words 0x48#8 h (packV f)
  | .fdiv h f => words 0x49#8 h (packV f)
  | .fsqrt h f => words 0x4A#8 h (packV f)
  | .frcp h f => words 0x4B#8 h (packV f)
  | .frsq h f => words 0x4C#8 h (packV f)
  | .fex2 h f => words 0x4D#8 h (packV f)
  | .flg2 h f => words 0x4E#8 h (packV f)
  | .fsin h f => words 0x4F#8 h (packV f)
  | .fcos h f => words 0x50#8 h (packV f)
  | .frnd h f => words 0x51#8 h (packV f)
  | .ffrac h f => words 0x52#8 h (packV f)
  | .fldexp h f => words 0x53#8 h (packV f)
  | .fclass h f => words 0x54#8 h (packV f)
  | .fdot2 h f => words 0x55#8 h (packV f)
  | .flerp h f => words 0x56#8 h (packV f)
  | .fmed3 h f => words 0x57#8 h (packV f)
  | .cvt h f => words 0x60#8 h (packV f)
  | .pack h f => words 0x61#8 h (packV f)
  | .unpack h f => words 0x62#8 h (packV f)
  | .tripack h f => words 0x63#8 h (packV f)
  | .triunpk h f => words 0x64#8 h (packV f)
  | .lxch h f => words 0x65#8 h (packV f)
  | .pqry h f => words 0x66#8 h (packV f)
  | .wred h f => words 0x67#8 h (packV f)
  | .wscan h f => words 0x68#8 h (packV f)
  | .lpeer h f => words 0x69#8 h (packV f)
  | .lread h f => words 0x6A#8 h (packV f)
  | .lwrite h f => words 0x6B#8 h (packV f)
  | .sadd h f => words 0x70#8 h (packS f)
  | .ssub h f => words 0x71#8 h (packS f)
  | .smul h f => words 0x72#8 h (packS f)
  | .sand h f => words 0x73#8 h (packS f)
  | .sor h f => words 0x74#8 h (packS f)
  | .sxor h f => words 0x75#8 h (packS f)
  | .sshl h f => words 0x76#8 h (packS f)
  | .sshr h f => words 0x77#8 h (packS f)
  | .scmp h f => words 0x78#8 h (packS f)
  | .smov h f => words 0x79#8 h (packS f)
  | .ssel h f => words 0x7A#8 h (packS f)
  | .sbfe h f => words 0x7B#8 h (packS f)
  | .sff1 h f => words 0x7C#8 h (packS f)
  | .spopc h f => words 0x7D#8 h (packS f)
  | .slea h f => words 0x7E#8 h (packS f)
  | .ld h f => words 0x80#8 h (packM f)
  | .st h f => words 0x81#8 h (packM f)
  | .ldl h f => words 0x82#8 h (packM f)
  | .stl h f => words 0x83#8 h (packM f)
  | .lds h f => words 0x84#8 h (packM f)
  | .sts h f => words 0x85#8 h (packM f)
  | .ldcvt h f => words 0x86#8 h (packM f)
  | .pref h f => words 0x87#8 h (packM f)
  | .cflush h f => words 0x88#8 h (packM f)
  | .fifopush h f => words 0x89#8 h (packM f)
  | .fifopop h f => words 0x8A#8 h (packM f)
  | .bankcfg h f => words 0x8B#8 h (packM f)
  | .qpop h f => words 0x8C#8 h (packM f)
  | .qstat h f => words 0x8D#8 h (packM f)
  | .strm h f => words 0xB8#8 h (packC f)
  | .strmx h f => words 0xB9#8 h (packC f)
  | .atom h f => words 0xA0#8 h (packM f)
  | .atomx h f => words 0xA1#8 h (packM f)
  | .red h f => words 0xA2#8 h (packM f)
  | .atoml h f => words 0xA3#8 h (packM f)
  | .xred h f => words 0xA4#8 h (packM f)
  | .copy h f => words 0xB0#8 h (packC f)
  | .copym h f => words 0xB1#8 h (packC f)
  | .halo h f => words 0xB2#8 h (packC f)
  | .gathv h f => words 0xB3#8 h (packC f)
  | .tagarm h f => words 0xB4#8 h (packC f)
  | .tagwait h f => words 0xB5#8 h (packC f)
  | .tagff h f => words 0xB6#8 h (packC f)
  | .tagclr h f => words 0xB7#8 h (packC f)
  | .obres h f => words 0xC0#8 h (packC f)
  | .obrel h f => words 0xC1#8 h (packY f)
  | .obld h f => words 0xC2#8 h (packC f)
  | .mma h f => words 0xC3#8 h (packV f)
  | .accz h f => words 0xC4#8 h (packY f)
  | .accld h f => words 0xC5#8 h (packM f)
  | .drain h f => words 0xC6#8 h (packX f)
  | .accrd h f => words 0xC7#8 h (packV f)
  | .mstat h f => words 0xC8#8 h (packY f)
  | .rast h f => words 0xD0#8 h (packX f)
  | .rastSet h f => words 0xD0#8 h (packX f)
  | .blend h f => words 0xD1#8 h (packX f)
  | .blendSet h f => words 0xD1#8 h (packX f)
  | .trav h f => words 0xD2#8 h (packX f)
  | .travSet h f => words 0xD2#8 h (packX f)
  | .filt h f => words 0xD3#8 h (packX f)
  | .filtSet h f => words 0xD3#8 h (packX f)
  | .bin h f => words 0xD4#8 h (packX f)
  | .mcall h f => words 0xD5#8 h (packX f)
  | .taskpush h f => words 0xE0#8 h (packV f)
  | .hqpush h f => words 0xE1#8 h (packM f)
  | .hqpop h f => words 0xE2#8 h (packM f)
  | .ordin h f => words 0xE3#8 h (packV f)
  | .ordout h f => words 0xE4#8 h (packV f)
  | .ordseq h f => words 0xE5#8 h (packV f)
  | .trmark h f => words 0xE6#8 h (packY f)
  | .relaunch h f => words 0xE7#8 h (packY f)
  | .launch h f => words 0xE8#8 h (packY f)
  | .variableLatencyResult _ _ _ => none
  | .trapDelivery _ => none
  | .tlbWalkComplete _ _ => none
  | .walkDispatch _ => none
  | .ringRecordWrite _ => none
  | .fltdoneRetry _ => none
  | .fltdoneAbort _ => none
  | .scdone _ _ => none
  | .tlbicmd _ => none
  | .tlbInvalidationDone => none
  | .microcodeLoad _ => none
  | .microcodeUnload _ => none
  | .microcodeReplace => none
  | .kick _ => none
  | .graphUpload => none
  | .graphFree _ => none
  | .nodeStart _ _ => none
  | .copyNodeDone _ _ => none
  | .waitNodeCheck _ _ => none
  | .kernelNodeComplete _ _ => none
  | .relaunchStart _ => none
  | .teamPlace => none
  | .launchAgeing _ => none
  | .poolReassign => none
  | .poolReassignDone _ => none
  | .timeSliceExpiry _ => none
  | .drainTimeout _ => none
  | .teamFlush _ => none
  | .teamSave _ => none
  | .teamRestore _ => none
  | .macroSliceStop _ => none
  | .waveForm _ _ => none
  | .partialWaveTimeout _ _ => none
  | .copyDeliver _ _ _ _ _ => none
  | .copyPrepass _ _ => none
  | .streamFetch _ _ => none
  | .bankcfgDrainDone _ _ => none
  | .accessPerform _ _ _ _ => none
  | .promotionNotice _ _ => none
  | .engineOpStart _ _ => none
  | .addOnStoreApply _ _ => none
  | .binQueuePush _ => none
  | .ordStallTimeout _ _ _ => none
  | .ordqQuery _ => none
  | .ordqPurge _ => none
  | .waitwWake _ => none
  | .waitwTimeout _ => none
  | .meterTick => none
  | .sentinelWarning _ => none
  | .sentinelDecay _ => none
  | .hostBar2Write _ _ => none
  | .hostBar2Read _ _ => none
  | .registerWrite _ _ _ => none
  | .rcfgEnable _ _ => none
  | .rcfgDisable _ => none
  | .rheadWrite _ _ => none
  | .lkctlTail _ _ => none
  | .lkctlEnable _ _ => none
  | .linkWidthChange _ _ => none
  | .linkDescriptorSend _ => none
  | .linkFlitReceive _ _ _ _ => none
  | .linkAck _ _ => none
  | .powerOn => none
  | .functionLevelReset => none
  | .rstcmdWarm _ => none
  | .rstcmdCold _ => none
  | .startStage _ => none
  | .reccmd _ => none
  | .attestReport => none
  | .notAnInstruction _ _ => none
  | .softError _ _ => none
  | .pcieCompletion _ _ => none
  | .completionTimeout _ => none
  | .pcieConfigWrite _ => none
  | .linkTrained _ _ => none

/-- Whether a constructor of a split opcode agrees with its SUB: SUB 1 of RAST, BLEND, TRAV, FILT is the set-up form (03 R66). -/
def subAgrees (i : Instr) : Bool :=
  match i with
  | .rast _ f => f.sub != 1#2
  | .rastSet _ f => f.sub == 1#2
  | .blend _ f => f.sub != 1#2
  | .blendSet _ f => f.sub == 1#2
  | .trav _ f => f.sub != 1#2
  | .travSet _ f => f.sub == 1#2
  | .filt _ f => f.sub != 1#2
  | .filtSet _ f => f.sub == 1#2
  | _ => true

end Sys2Proof.Machine
end

