-- ==== Sys2Proof/WellFormed.lean ====
section
/-! DEFINITION. Well-formed instructions: the terms of `Instr` that some word of a kernel with `nv` vector registers holds. -/

namespace Sys2Proof

open Sys2Proof.Machine

/-- The words an instruction is laid out as. -/
def Instr.layout (i : Instr) : Option Words := layoutOf i

/-- The first reason of 02 R45 that an instruction's own words meet; none for a well-formed one. -/
def Instr.reason (i : Instr) (nv : Nat) : Option Nat :=
  match i.layout with
  | none => some 1
  | some l => illegalReason l.word.toNat (match l.ext with
    | some x => x.toNat
    | none => 0) nv

/-- An instruction that can stand in a program: its words meet no reason of 02 R45, and its constructor agrees with SUB. -/
def WellFormed (i : Instr) (nv : Nat) : Bool := i.layout.isSome && (i.reason nv).isNone && subAgrees i

end Sys2Proof
end

