-- ==== Sys2Proof/Decode.lean ====
section
/-! DEFINITION. The decoder: total on any word, rejecting by the reason of 02 R45; after it the encoder, and the host's word
form of the decoder. -/

namespace Sys2Proof

open Sys2Proof.Machine

/-- The constructor of a Format V opcode. -/
def ctorV (o : Nat) : Option (Hdr → VFields → Instr) :=
  match o with
  | 0x20 => some .iadd
  | 0x21 => some .isub
  | 0x22 => some .imul
  | 0x23 => some .imad
  | 0x24 => some .imin
  | 0x25 => some .imax
  | 0x26 => some .iabs
  | 0x27 => some .idiv
  | 0x28 => some .irem
  | 0x29 => some .iaddc
  | 0x2A => some .and
  | 0x2B => some .or
  | 0x2C => some .xor
  | 0x2D => some .bmix
  | 0x2E => some .shl
  | 0x2F => some .shr
  | 0x30 => some .rot
  | 0x31 => some .funnel
  | 0x32 => some .bfe
  | 0x33 => some .bfi
  | 0x34 => some .popc
  | 0x35 => some .clz
  | 0x36 => some .brev
  | 0x37 => some .icmp
  | 0x38 => some .sel
  | 0x39 => some .mov
  | 0x3A => some .lea
  | 0x3B => some .idp4
  | 0x3C => some .sad
  | 0x40 => some .fadd
  | 0x41 => some .fsub
  | 0x42 => some .fmul
  | 0x43 => some .fma
  | 0x44 => some .fmin
  | 0x45 => some .fmax
  | 0x46 => some .fneg
  | 0x47 => some .fabs
  | 0x48 => some .fcmp
  | 0x49 => some .fdiv
  | 0x4A => some .fsqrt
  | 0x4B => some .frcp
  | 0x4C => some .frsq
  | 0x4D => some .fex2
  | 0x4E => some .flg2
  | 0x4F => some .fsin
  | 0x50 => some .fcos
  | 0x51 => some .frnd
  | 0x52 => some .ffrac
  | 0x53 => some .fldexp
  | 0x54 => some .fclass
  | 0x55 => some .fdot2
  | 0x56 => some .flerp
  | 0x57 => some .fmed3
  | 0x60 => some .cvt
  | 0x61 => some .pack
  | 0x62 => some .unpack
  | 0x63 => some .tripack
  | 0x64 => some .triunpk
  | 0x65 => some .lxch
  | 0x66 => some .pqry
  | 0x67 => some .wred
  | 0x68 => some .wscan
  | 0x69 => some .lpeer
  | 0x6A => some .lread
  | 0x6B => some .lwrite
  | 0xC3 => some .mma
  | 0xC7 => some .accrd
  | 0xE0 => some .taskpush
  | 0xE3 => some .ordin
  | 0xE4 => some .ordout
  | 0xE5 => some .ordseq
  | _ => none

/-- The constructor of a Format S opcode. -/
def ctorS (o : Nat) : Option (Hdr → SFields → Instr) :=
  match o with
  | 0x70 => some .sadd
  | 0x71 => some .ssub
  | 0x72 => some .smul
  | 0x73 => some .sand
  | 0x74 => some .sor
  | 0x75 => some .sxor
  | 0x76 => some .sshl
  | 0x77 => some .sshr
  | 0x78 => some .scmp
  | 0x79 => some .smov
  | 0x7A => some .ssel
  | 0x7B => some .sbfe
  | 0x7C => some .sff1
  | 0x7D => some .spopc
  | 0x7E => some .slea
  | _ => none

/-- The constructor of a Format M opcode. -/
def ctorM (o : Nat) : Option (Hdr → MFields → Instr) :=
  match o with
  | 0x80 => some .ld
  | 0x81 => some .st
  | 0x82 => some .ldl
  | 0x83 => some .stl
  | 0x84 => some .lds
  | 0x85 => some .sts
  | 0x86 => some .ldcvt
  | 0x87 => some .pref
  | 0x88 => some .cflush
  | 0x89 => some .fifopush
  | 0x8A => some .fifopop
  | 0x8B => some .bankcfg
  | 0x8C => some .qpop
  | 0x8D => some .qstat
  | 0xA0 => some .atom
  | 0xA1 => some .atomx
  | 0xA2 => some .red
  | 0xA3 => some .atoml
  | 0xA4 => some .xred
  | 0xC5 => some .accld
  | 0xE1 => some .hqpush
  | 0xE2 => some .hqpop
  | _ => none

/-- The constructor of a Format C opcode. -/
def ctorC (o : Nat) : Option (Hdr → CFields → Instr) :=
  match o with
  | 0xB8 => some .strm
  | 0xB9 => some .strmx
  | 0xB0 => some .copy
  | 0xB1 => some .copym
  | 0xB2 => some .halo
  | 0xB3 => some .gathv
  | 0xB4 => some .tagarm
  | 0xB5 => some .tagwait
  | 0xB6 => some .tagff
  | 0xB7 => some .tagclr
  | 0xC0 => some .obres
  | 0xC2 => some .obld
  | _ => none

/-- The constructor of a Format Y opcode. -/
def ctorY (o : Nat) : Option (Hdr → YFields → Instr) :=
  match o with
  | 0x00 => some .nop
  | 0x01 => some .exit
  | 0x02 => some .yield
  | 0x03 => some .trap
  | 0x04 => some .tret
  | 0x05 => some .bkpt
  | 0x06 => some .sysrd
  | 0x07 => some .syswr
  | 0x08 => some .fence
  | 0x09 => some .waitw
  | 0x0A => some .bar
  | 0x11 => some .jal
  | 0x12 => some .jmp
  | 0x13 => some .setprio
  | 0x14 => some .cvset
  | 0x15 => some .cvsign
  | 0x16 => some .cvwait
  | 0x17 => some .spawn
  | 0x18 => some .repack
  | 0xC1 => some .obrel
  | 0xC4 => some .accz
  | 0xC8 => some .mstat
  | 0xE6 => some .trmark
  | 0xE7 => some .relaunch
  | 0xE8 => some .launch
  | _ => none

/-- The constructor of Format B's MODE (02 R29). -/
def ctorB (mode : Nat) : Option (Hdr → BFields → Instr) :=
  match mode with
  | 0 => some .br
  | 1 => some .bru
  | 2 => some .brs
  | _ => none

/-- The constructor of a Format X opcode and SUB (03 R66). -/
def ctorX (o sub : Nat) : Option (Hdr → XFields → Instr) :=
  match o with
  | 0xC6 => some .drain
  | 0xD0 => some (if sub == 1 then .rastSet else .rast)
  | 0xD1 => some (if sub == 1 then .blendSet else .blend)
  | 0xD2 => some (if sub == 1 then .travSet else .trav)
  | 0xD3 => some (if sub == 1 then .filtSet else .filt)
  | 0xD4 => some .bin
  | 0xD5 => some .mcall
  | _ => none

/-- The instruction that a legal word holds. -/
def decodeLegal (w x : Word) : Option Instr :=
  let h := readHdr w x
  let o := (readOpc w).toNat
  match formatOf o with
  | none => none
  | some .V => (ctorV o).map (fun k => k h (readV w))
  | some .S => (ctorS o).map (fun k => k h (readS w))
  | some .M => (ctorM o).map (fun k => k h (readM w))
  | some .B => (ctorB (readMode w).toNat).map (fun k => k h (readB w))
  | some .C => (ctorC o).map (fun k => k h (readC w))
  | some .X => (ctorX o (readX w).sub.toNat).map (fun k => k h (readX w))
  | some .Y => (ctorY o).map (fun k => k h (readY w))

/-- Decode a word, with the word that follows it, for a kernel of `nv` vector registers: the instruction, or the least
reason of 02 R45. -/
def decode (w x : Word) (nv : Nat) : Except Nat Instr :=
  match illegalReason w.toNat x.toNat nv with
  | some r => .error r
  | none =>
    match decodeLegal w x with
    | some i => .ok i
    | none => .error 1

/-- The words of an instruction: the first word, and the extension word when there is one. -/
def encode (i : Instr) : Option (Word × Option Word) :=
  match i.layout with
  | some l => some (l.word, l.ext)
  | none => none

/-- The decoder on an instruction laid out as the opcode table numbers its bits: the first word is bits 63 to 0 and the
extension word, if any, bits 127 to 64 (02 R22: each word little-endian, the first at the lower address). The kernel
declares all 512 vector registers. -/
def decodeTableWord (_nbits w : Nat) : Option Instr :=
  match decode (BitVec.ofNat 64 w) (BitVec.ofNat 64 (w / 2 ^ 64)) 512 with
  | .ok i => some i
  | .error _ => none

end Sys2Proof
end

