-- ==== Sys2Proof/Machine/Formats.lean ====
section
/-! DEFINITION. Number formats, rounding, narrow floats, ternary bytes and the exact accumulator (07 R135 to R158). -/

namespace Sys2Proof.Machine

/-- A set of sticky flags, in the bit positions of WSTAT (02 R44). -/
abbrev Flags := BitVec 8

def fNV : Flags := 0x01#8
def fDZ : Flags := 0x02#8
def fOF : Flags := 0x04#8
def fUF : Flags := 0x08#8
def fNX : Flags := 0x10#8
def fSCOPEMISS : Flags := 0x20#8
def fBADCODE : Flags := 0x40#8
def fSATD : Flags := 0x80#8

/-- The given flag when the condition holds. -/
def flagIf (c : Bool) (f : Flags) : Flags := if c then f else 0#8

/-- An exact value: a NaN (`sig`: signalling), an infinity, or a number in sign and magnitude form; a zero keeps its sign. -/
inductive Val where
  | nan (sig : Bool)
  | inf (neg : Bool)
  | fin (neg : Bool) (num den : Nat)
  deriving DecidableEq, Repr

def Val.zero : Val := .fin false 0 1
def Val.ofInt (x : Int) : Val := .fin (decide (x < 0)) x.natAbs 1
/-- (-1)^neg * m * 2^e. -/
def Val.dyadic (neg : Bool) (m : Nat) (e : Int) : Val :=
  if e < 0 then .fin neg m (2 ^ (-e).toNat) else .fin neg (m * 2 ^ e.toNat) 1

def Val.isNaN : Val → Bool
  | .nan _ => true
  | _ => false
def Val.isSNaN : Val → Bool
  | .nan s => s
  | _ => false
def Val.isInf : Val → Bool
  | .inf _ => true
  | _ => false
def Val.isZero : Val → Bool
  | .fin _ n _ => n == 0
  | _ => false
def Val.isNeg : Val → Bool
  | .nan _ => false
  | .inf s => s
  | .fin s _ _ => s

def Val.negate : Val → Val
  | .nan s => .nan s
  | .inf s => .inf (!s)
  | .fin s n d => .fin (!s) n d
def Val.magnitude : Val → Val
  | .nan s => .nan s
  | .inf _ => .inf false
  | .fin _ n d => .fin false n d

/-- The signed numerator of a finite value. -/
def Val.snum : Val → Int
  | .fin s n _ => if s then -(n : Int) else (n : Int)
  | _ => 0
def Val.sden : Val → Nat
  | .fin _ _ d => d
  | _ => 1

/-- A rank on the extended reals: used to compare values that are not NaN. -/
def Val.ltB (a b : Val) : Bool :=
  match a, b with
  | .nan _, _ => false
  | _, .nan _ => false
  | .inf s, .inf t => s && !t
  | .inf s, .fin _ _ _ => s
  | .fin _ _ _, .inf t => !t
  | .fin s n d, .fin t m e => decide ((Val.fin s n d).snum * e < (Val.fin t m e).snum * d)

def Val.eqB (a b : Val) : Bool := !a.isNaN && !b.isNaN && !a.ltB b && !b.ltB a
def Val.leB (a b : Val) : Bool := a.ltB b || a.eqB b
/-- The order of minimumNumber, with -0 below +0 (09 R190). -/
def Val.ltZ (a b : Val) : Bool := a.ltB b || (a.isZero && b.isZero && a.isNeg && !b.isNeg)

/-- The exact product; `true`: an invalid 0 × ∞ (07 R143, 09 R188). -/
def Val.mul (a b : Val) : Val × Bool :=
  match a, b with
  | .nan _, _ => (.nan false, false)
  | _, .nan _ => (.nan false, false)
  | .inf s, .inf t => (.inf (s != t), false)
  | .inf s, .fin t m _ => if m == 0 then (.nan false, true) else (.inf (s != t), false)
  | .fin s n _, .inf t => if n == 0 then (.nan false, true) else (.inf (s != t), false)
  | .fin s n d, .fin t m e => (.fin (s != t) (n * m) (d * e), false)

/-- The exact sum of two finite signed fractions. -/
def addFrac (x y : Int × Nat) : Int × Nat :=
  if x.2 = y.2 then (x.1 + y.1, x.2) else (x.1 * y.2 + y.1 * x.2, x.2 * y.2)

/-- The exact sum of addends with the zero sign of 09 R187 under mode `m`; `true`: an invalid ∞ − ∞. A NaN addend is taken
first: with it opposite infinities are no invalid operation (log entry 59, DESIGN CHOICE). -/
def Val.sum (m : Rnd) (l : List Val) : Val × Bool :=
  if l.any Val.isNaN then (.nan false, false)
  else
    let pinf := l.any (fun v => v.isInf && !v.isNeg)
    let ninf := l.any (fun v => v.isInf && v.isNeg)
    if pinf && ninf then (.nan false, true)
    else if pinf then (.inf false, false)
    else if ninf then (.inf true, false)
    else
      let (n, d) := l.foldl (fun acc v => addFrac acc (v.snum, v.sden)) ((0 : Int), 1)
      if n == 0 then
        if l.all Val.isZero && l.all (fun v => v.isNeg) && !l.isEmpty then (.fin true 0 1, false)
        else if l.all Val.isZero && l.all (fun v => !v.isNeg) && !l.isEmpty then (.fin false 0 1, false)
        else (.fin (decide (m = .rm)) 0 1, false)
      else (.fin (decide (n < 0)) n.natAbs d, false)

/-- rint of the magnitude n/d of a value of sign `neg` (07 R138). -/
def rintMag (m : Rnd) (neg : Bool) (n d : Nat) : Nat :=
  let q := n / d
  let r := n % d
  match m with
  | .rn => if 2 * r < d then q else if 2 * r > d then q + 1 else if q % 2 == 0 then q else q + 1
  | .rz => q
  | .rp => if neg || r == 0 then q else q + 1
  | .rm => if !neg || r == 0 then q else q + 1

/-- rint of an exact signed fraction. -/
def rint (m : Rnd) (n : Int) (d : Nat) : Int :=
  let neg := decide (n < 0)
  let k := rintMag m neg n.natAbs d
  if neg then -(k : Int) else (k : Int)

/-- floor of n/d. -/
def floorDiv (n : Int) (d : Nat) : Int := n.fdiv d

/-- floor(log2(n/d)) for n, d positive. -/
def ilog2 (n d : Nat) : Int :=
  let e := (Nat.log2 n : Int) - (Nat.log2 d : Int)
  let below := if e < 0 then n * 2 ^ (-e).toNat < d else n < d * 2 ^ e.toNat
  if below then e - 1 else e

/-- A rounding target: precision, least exponent, largest finite magnitude `maxM * 2^maxE`. -/
structure Target where
  p : Nat
  emin : Int
  maxM : Nat
  maxE : Int
  deriving DecidableEq, Repr

/-- What rounding a magnitude gives: the rounded magnitude as m * 2^k, inexact, over MAX. -/
def roundMag (t : Target) (m : Rnd) (neg : Bool) (n d : Nat) : Nat × Int × Bool × Bool :=
  let e := max (ilog2 n d) t.emin
  let k := e - (t.p : Int) + 1
  let (n', d') := if k < 0 then (n * 2 ^ (-k).toNat, d) else (n, d * 2 ^ k.toNat)
  let r := rintMag m neg n' d'
  let tooBig := if k ≤ t.maxE then decide (r > t.maxM * 2 ^ (t.maxE - k).toNat) else decide (r * 2 ^ (k - t.maxE).toNat > t.maxM)
  (r, k, r * d' != n', tooBig)

/-- Whether overflow of a value of sign `neg` gives the infinity (07 R139). -/
def overflowToInf (m : Rnd) (neg : Bool) : Bool :=
  match m with
  | .rn => true
  | .rz => false
  | .rp => !neg
  | .rm => neg

/-- 07 R138 on an exact value, for any binary target: the rounded value and its flags. -/
def roundVal (t : Target) (m : Rnd) (x : Val) : Val × Flags :=
  match x with
  | .nan _ => (.nan false, 0#8)
  | .inf s => (.inf s, 0#8)
  | .fin s n d =>
    if n == 0 then (.fin s 0 1, 0#8)
    else
      let (r, k, inexact, tooBig) := roundMag t m s n d
      if tooBig then
        (if overflowToInf m s then .inf s else .dyadic s t.maxM t.maxE, fOF ||| fNX)
      else
        let y := Val.dyadic s r k
        let tiny := Val.ltB y.magnitude (.dyadic false 1 t.emin)
        (y, flagIf inexact fNX ||| flagIf (inexact && tiny) fUF)

/-- The IEEE 754 formats of 07 R135. -/
inductive Fmt where
  | f16 | bf16 | f32 | f64
  deriving DecidableEq, Repr

def Fmt.width : Fmt → Nat
  | .f16 => 16
  | .bf16 => 16
  | .f32 => 32
  | .f64 => 64
def Fmt.frac : Fmt → Nat
  | .f16 => 10
  | .bf16 => 7
  | .f32 => 23
  | .f64 => 52
def Fmt.ebits (f : Fmt) : Nat := f.width - 1 - f.frac
def Fmt.bias (f : Fmt) : Nat := 2 ^ (f.ebits - 1) - 1
def Fmt.emin (f : Fmt) : Int := 1 - (f.bias : Int)
def Fmt.target (f : Fmt) : Target :=
  { p := f.frac + 1, emin := f.emin, maxM := 2 ^ (f.frac + 1) - 1, maxE := (f.bias : Int) - f.frac }
/-- The canonical NaN (07 R135). -/
def Fmt.canonNaN (f : Fmt) : Nat := (2 ^ f.ebits - 1) * 2 ^ f.frac + 2 ^ (f.frac - 1)
def Fmt.infCode (f : Fmt) (neg : Bool) : Nat := b2n neg * 2 ^ (f.width - 1) + (2 ^ f.ebits - 1) * 2 ^ f.frac
def Fmt.one (f : Fmt) : Nat := f.bias * 2 ^ f.frac

/-- The value of a code of an IEEE 754 format (07 R135). -/
def fdecode (f : Fmt) (code : Nat) : Val :=
  let s := bit code (f.width - 1)
  let e := bits code (f.width - 2) f.frac
  let m := code % 2 ^ f.frac
  if e == 2 ^ f.ebits - 1 then (if m == 0 then .inf s else .nan (!bit code (f.frac - 1)))
  else if e == 0 then .dyadic s m (f.emin - f.frac)
  else .dyadic s (2 ^ f.frac + m) ((e : Int) - f.bias - f.frac)

/-- The code of a value that the format represents exactly. -/
def fencode (f : Fmt) (x : Val) : Nat :=
  match x with
  | .nan _ => f.canonNaN
  | .inf s => f.infCode s
  | .fin s n d =>
    let sg := b2n s * 2 ^ (f.width - 1)
    if n == 0 then sg
    else
      let e := max (ilog2 n d) f.emin
      let k := e - (f.frac : Int)
      let m := if k < 0 then n * 2 ^ (-k).toNat / d else n / (d * 2 ^ k.toNat)
      if m < 2 ^ f.frac then sg + m
      else sg + (e + f.bias).toNat * 2 ^ f.frac + (m - 2 ^ f.frac)

/-- `round_to(fmt, mode, x)` for a floating format, as a code and flags (07 R138, R139). -/
def roundTo (f : Fmt) (m : Rnd) (x : Val) : Nat × Flags :=
  let (y, fl) := roundVal f.target m x
  (fencode f y, fl)

/-- Whether a code is a subnormal of its format. -/
def isSubnormal (f : Fmt) (code : Nat) : Bool :=
  bits code (f.width - 2) f.frac == 0 && code % 2 ^ f.frac != 0

/-- `flush_in` on a code (07 R141). -/
def flushIn (f : Fmt) (fzi : Bool) (code : Nat) : Nat :=
  if fzi && isSubnormal f code then code / 2 ^ (f.width - 1) * 2 ^ (f.width - 1) else code

/-- `flush_out` on a rounded code (07 R141): it adds UF and NX when it flushes. -/
def flushOut (f : Fmt) (fzo : Bool) (r : Nat × Flags) : Nat × Flags :=
  if fzo && isSubnormal f r.1 then (r.1 / 2 ^ (f.width - 1) * 2 ^ (f.width - 1), r.2 ||| fUF ||| fNX) else r

/-- An integer format: its width and whether it is signed (07 R137). -/
structure IFmt where
  w : Nat
  signed : Bool
  deriving DecidableEq, Repr

def IFmt.lo (t : IFmt) : Int := if t.signed then -((2 ^ (t.w - 1) : Nat) : Int) else 0
def IFmt.hi (t : IFmt) : Int := if t.signed then ((2 ^ (t.w - 1) : Nat) : Int) - 1 else ((2 ^ t.w : Nat) : Int) - 1
def IFmt.has (t : IFmt) (x : Int) : Bool := decide (t.lo ≤ x) && decide (x ≤ t.hi)
def IFmt.clamp (t : IFmt) (x : Int) : Int := if x < t.lo then t.lo else if x > t.hi then t.hi else x
/-- The integer that the low bits of `n` hold. -/
def IFmt.read (t : IFmt) (n : Nat) : Int := if t.signed then toSigned t.w n else ((n % 2 ^ t.w : Nat) : Int)

/-- `round_to` for an integer format (07 R140). -/
def roundInt (t : IFmt) (m : Rnd) (x : Val) : Int × Flags :=
  match x with
  | .nan _ => (0, fNV)
  | .inf s => (if s then t.lo else t.hi, fNV)
  | .fin s n d =>
    let k := rint m (Val.fin s n d).snum d
    if t.has k then (k, flagIf (k * d != (Val.fin s n d).snum) fNX) else (t.clamp k, fNV)

/-- A narrow-float descriptor (07 R145). -/
structure NfDesc where
  rsv : Nat
  sat : Nat
  subn : Bool
  spec : Nat
  bias : Int
  s : Nat
  m : Nat
  e : Nat
  deriving DecidableEq, Repr

def nfDesc (d : Nat) : NfDesc :=
  { rsv := bits d 31 21 + bits d 7 7, sat := bits d 20 19, subn := bit d 18, spec := bits d 17 16,
    bias := toSigned 8 (bits d 15 8), s := bits d 6 6, m := bits d 5 3, e := bits d 2 0 }
/-- The code width n = S + E + M (07 R145). -/
def NfDesc.n (d : NfDesc) : Nat := d.s + d.e + d.m
/-- A valid descriptor (07 R146). -/
def NfDesc.valid (d : NfDesc) : Bool :=
  d.rsv == 0 && decide (d.n ≤ 8) && d.n != 0 && d.spec != 3 && decide (d.sat < 2) &&
  !(d.e == 0 && (d.spec != 0 || d.subn)) && !(d.spec == 1 && decide (d.e + d.m < 2)) && !(d.spec == 2 && decide (d.e < 2))

/-- `nf_decode` (07 R147). -/
def nfDecode (d : NfDesc) (code : Nat) : Val :=
  let c := code % 2 ^ d.n
  let s := d.s == 1 && bit c (d.n - 1)
  if d.e == 0 then
    let k := if d.s == 1 then toSigned d.n c else (c : Int)
    .dyadic (decide (k < 0)) k.natAbs (-d.bias)
  else
    let e := bits c (d.e + d.m - 1) d.m
    let m := c % 2 ^ d.m
    let top := 2 ^ d.e - 1
    if d.spec == 1 && e == top && m == 2 ^ d.m - 1 then .nan false
    else if d.spec == 2 && e == top then (if m == 0 then .inf s else .nan false)
    else if e == 0 then
      if d.subn then .dyadic s m (1 - d.bias - d.m) else .fin s 0 1
    else .dyadic s (2 ^ d.m + m) ((e : Int) - d.bias - d.m)

/-- The largest finite code without its sign, for E ≥ 1 (07 R148). -/
def NfDesc.maxCode (d : NfDesc) : Nat :=
  if d.spec == 1 then 2 ^ (d.e + d.m) - 2
  else if d.spec == 2 then (2 ^ d.e - 1) * 2 ^ d.m - 1
  else 2 ^ (d.e + d.m) - 1

/-- The NaN code of step 1 of 07 R148, and whether the format has one. -/
def NfDesc.nanCode (d : NfDesc) : Nat × Bool :=
  if d.spec == 1 then (2 ^ (d.n - d.s) - 1, true)
  else if d.spec == 2 && decide (1 ≤ d.m) then ((2 ^ d.e - 1) * 2 ^ d.m + 2 ^ (d.m - 1), true)
  else (0, false)

def NfDesc.target (d : NfDesc) : Target :=
  let mc := d.maxCode
  { p := d.m + 1, emin := 1 - d.bias, maxM := 2 ^ d.m + mc % 2 ^ d.m, maxE := (mc / 2 ^ d.m : Nat) - d.bias - d.m }

/-- The code of a finite value that the format represents (E ≥ 1). -/
def NfDesc.pack (d : NfDesc) (s : Bool) (n den : Nat) : Nat :=
  let sg := if d.s == 1 then b2n s * 2 ^ (d.n - 1) else 0
  if n == 0 then sg
  else
    let e := max (ilog2 n den) (1 - d.bias)
    let k := e - (d.m : Int)
    let m := if k < 0 then n * 2 ^ (-k).toNat / den else n / (den * 2 ^ k.toNat)
    if m < 2 ^ d.m then sg + m else sg + (e + d.bias).toNat * 2 ^ d.m + (m - 2 ^ d.m)

/-- The encoding of ±MAX for any descriptor. -/
def NfDesc.maxSigned (d : NfDesc) (s : Bool) : Nat :=
  if d.e == 0 then
    let k : Nat := if d.s == 1 then 2 ^ (d.n - 1) - 1 else 2 ^ d.n - 1
    wrap d.n (if s then -(k : Int) else (k : Int))
  else (if d.s == 1 then b2n s * 2 ^ (d.n - 1) else 0) + d.maxCode

/-- `nf_encode` (07 R148). -/
def nfEncode (d : NfDesc) (x : Val) (m : Rnd) : Nat × Flags :=
  match x with
  | .nan _ => if d.nanCode.2 then (d.nanCode.1, 0#8) else (0, fNV)
  | .inf s =>
    if d.s == 0 && s then (0, fNV)
    else if d.spec == 2 then (b2n (s && d.s == 1) * 2 ^ (d.n - 1) + (2 ^ d.e - 1) * 2 ^ d.m, 0#8)
    else if d.sat == 0 || d.spec == 0 then (d.maxSigned s, fNV)
    else (d.nanCode.1, fNV)
  | .fin s n den =>
    if d.s == 0 && s && n != 0 then (0, fNV)
    else if d.e == 0 then
      let v := Val.fin s n den
      let (sn, sd) := if d.bias < 0 then (v.snum, den * 2 ^ (-d.bias).toNat) else (v.snum * ((2 ^ d.bias.toNat : Nat) : Int), den)
      let k := rint m sn sd
      let t : IFmt := { w := d.n, signed := d.s == 1 }
      if t.has k then (wrap d.n k, flagIf (k * sd != sn) fNX) else (wrap d.n (t.clamp k), fNV)
    else if n == 0 then (d.pack s 0 1, 0#8)
    else
      let tiny := Val.ltB (.fin false n den) (.dyadic false 1 (1 - d.bias))
      if !d.subn && tiny then
        -- representable neighbours: zero and 2^emin
        let half := Val.dyadic false 1 (-d.bias)
        let up := match m with
          | .rn => half.ltB (.fin false n den)
          | .rz => false
          | .rp => !s
          | .rm => s
        if up then (d.pack s (Val.dyadic false 1 (1 - d.bias)).snum.toNat (Val.dyadic false 1 (1 - d.bias)).sden, fNX)
        else (d.pack s 0 1, fNX ||| fUF)
      else
        match roundVal d.target m x with
        | (.inf s', fl) =>
          if d.sat == 0 || d.spec == 0 then (d.maxSigned s', fl)
          else if d.spec == 1 then (d.nanCode.1, fl)
          else (b2n (s' && d.s == 1) * 2 ^ (d.n - 1) + (2 ^ d.e - 1) * 2 ^ d.m, fl)
        | (.fin s' n' d', fl) => (d.pack s' n' d', fl)
        | (.nan _, fl) => (d.nanCode.1, fl)

/-- `tri_decode` (07 R149): the five values, and whether the byte is reserved. -/
def triDecode (b : Nat) : List Int × Bool :=
  if b < 243 then
    ((List.range 5).map (fun j => let t := b / 3 ^ j % 3; if t == 0 then 0 else if t == 1 then 1 else -1), false)
  else ([0, 0, 0, 0, 0], true)

/-- The value of an E8 scale code (07 R150). -/
def e8Decode (v : Nat) : Val := if v == 255 then .nan false else .dyadic false 1 ((v : Int) - 127)

/-! ### The exact accumulator (07 R152 to R155) -/

def xaNINF : Nat := 228
def xaPINF : Nat := 227
def xaNAN : Nat := 226
def xaOVF : Nat := 225
def xaUNF : Nat := 224

def orBit (acc i : Nat) : Nat := if bit acc i then acc else acc + 2 ^ i

/-- A malformed image becomes NaN-seen (07 R153). -/
def xaccClean (acc : Nat) : Nat := if bits acc 255 229 != 0 then orBit (acc % 2 ^ 229) xaNAN else acc

/-- `xacc_add` (07 R153). -/
def xaccAdd (acc0 : Nat) (x : Val) : Nat :=
  let acc := xaccClean acc0
  match x with
  | .nan _ => orBit acc xaNAN
  | .inf s => orBit acc (if s then xaNINF else xaPINF)
  | .fin s n d =>
    let q := n * 2 ^ 112 / d
    let acc := if q * d != n * 2 ^ 112 then orBit acc xaUNF else acc
    let t : Int := if s then -(q : Int) else (q : Int)
    if t < -((2 ^ 223 : Nat) : Int) || t > ((2 ^ 223 : Nat) : Int) - 1 then orBit acc xaOVF
    else bits acc 228 224 * 2 ^ 224 + wrap 224 ((acc % 2 ^ 224 : Nat) + t)

/-- The sum of two images (07 R153). -/
def xaccAddImage (a0 b0 : Nat) : Nat :=
  let a := xaccClean a0
  let b := xaccClean b0
  (bits a 228 224 ||| bits b 228 224) * 2 ^ 224 + (a % 2 ^ 224 + b % 2 ^ 224) % 2 ^ 224

/-- The exact value that rounding an image starts from, the flags its special row gives, and whether UNF adds NX (07 R155). -/
def xaccValue (acc : Nat) : Val × Flags × Bool :=
  if bits acc 255 229 != 0 then (.nan false, fNV, false)
  else if bit acc xaNAN then (.nan false, 0#8, false)
  else if bit acc xaPINF && bit acc xaNINF then (.nan false, fNV, false)
  else if bit acc xaPINF then (.inf false, 0#8, false)
  else if bit acc xaNINF then (.inf true, 0#8, false)
  else if bit acc xaOVF then (.nan false, fNV, false)
  else
    let k := toSigned 224 (acc % 2 ^ 224)
    (.dyadic (decide (k < 0)) k.natAbs (-112), 0#8, bit acc xaUNF)

/-- `xacc_round` to a floating format, with flush_out (07 R155). -/
def xaccRound (acc : Nat) (f : Fmt) (m : Rnd) (fzo : Bool) : Nat × Flags :=
  let (v, fl, unf) := xaccValue acc
  let (c, fl') := flushOut f fzo (roundTo f m v)
  (c, fl ||| fl' ||| flagIf unf fNX)

/-- Rounding an image to an integer format (07 R155, R140). -/
def xaccRoundInt (acc : Nat) (t : IFmt) (m : Rnd) : Int × Flags :=
  let (v, fl, unf) := xaccValue acc
  let (c, fl') := roundInt t m v
  (c, fl ||| fl' ||| flagIf unf fNX)

/-- Encoding an image in a narrow format (10 R221). -/
def xaccRoundNf (acc : Nat) (d : NfDesc) (m : Rnd) : Nat × Flags :=
  let (v, fl, unf) := xaccValue acc
  let (c, fl') := nfEncode d v m
  (c, fl ||| fl' ||| flagIf unf fNX)

/-- One group of 07 R156: the accumulator plus the exact products, rounded once to F32 in RN. -/
def f32Group (acc : Nat) (fzo : Bool) (prods : List (Val × Bool)) : Nat × Flags :=
  let (s, _) := Val.sum .rn (fdecode .f32 acc :: prods.map (·.1))
  let nv := prods.any (·.2)
  let (c, fl) := flushOut .f32 fzo (roundTo .f32 .rn s)
  (c, fl ||| flagIf nv fNV)

/-- The clamp of 09 R185 on a code. -/
def satClamp (f : Fmt) (code : Nat) : Nat :=
  let v := fdecode f code
  if v.isNaN || v.isNeg then 0
  else if (Val.fin false 1 1).ltB v then f.one
  else code

end Sys2Proof.Machine
end

