-- ==== Sys2Proof/Config.lean ====
section
/-! DEFINITION. What one module of the device fixes, and the values that the spec leaves open (free values: opaque
constants with no body, so that nothing can be proved about them). Each is named in the assumption log. -/

namespace Sys2Proof.Config

/-- The bank that a line of the core cache is placed in (06 R116: software cannot see it); argument: line number. -/
opaque cacheBank : Nat → Nat
/-- The set of the shared TLB in which a translation is held (04 R82 gives no index); arguments: address space, page, log2 of its size. -/
opaque tlbSet : Nat → Nat → Nat → Nat
/-- How many clocks a pool's CLOCK has advanced since it was last read (02 R42, R429: no clock count of an instruction is stated);
argument: the model's free counter. -/
opaque clocks : Nat → BitVec 64
/-- The 16-bit security version that a firmware image carries (19 R416 gives no place for it); argument: the image. -/
opaque imageVersion : List (BitVec 8) → BitVec 16
/-- Whether a firmware or microcode image carries a valid ML-DSA-44 signature (11 R235, 19 R416); argument: the image. -/
opaque signatureValid : List (BitVec 8) → Bool
/-- The training record that stage 3 of a start writes to package flash (19 R414 gives no contents); argument: the model's free counter. -/
opaque trainingRecord : Nat → List (BitVec 8)
/-- Whether a training record verifies and matches a yield record (19 R414); arguments: the two records. -/
opaque trainingMatches : List (BitVec 8) → List (BitVec 8) → Bool
/-- Whether every stack and channel answers at its trained settings (19 R414); argument: the model's free counter. -/
opaque stacksAnswer : Nat → Bool
/-- Byte of the ML-DSA-44 signature of a report (19 R417); arguments: the digest, the byte's index. -/
opaque reportSignature : Nat → Nat → BitVec 8
/-- Byte of the identity public key (19 R417); argument: the byte's index. -/
opaque identityKey : Nat → BitVec 8
/-- What loaded microcode leaves in a window word (11 R234, R235); arguments: slot, free counter, lane, word index. -/
opaque microcodeWord : Nat → Nat → Nat → Nat → BitVec 32
/-- The reason with which loaded microcode traps, 0 for none (11 R235); arguments: slot, free counter. -/
opaque microcodeReason : Nat → Nat → Nat

end Sys2Proof.Config
end

