-- ==== Sys2Proof/Machine/State.lean ====
section
/-! DEFINITION. The state of the device: lanes, waves, teams, cores, dies, home memory, device registers, the distributor,
the Warren, rings, links and the model's own fields; and the state after a cold start (02 R40, 19 R414). -/

namespace Sys2Proof.Machine

/-- A trap's cause and detail (18 R378). -/
structure TrapInfo where
  cause : Reg
  d0 : Reg
  d1 : Reg
  d2 : Reg
  deriving DecidableEq, Repr

/-- What a lane waits for at its PC (14 R299, 18 R397). -/
inductive Wait where
  | none
  | ordin
  | cvwait (cv : Nat)
  | barsync (b : Nat)
  | blend
  /-- admitted at an ORDIN of `len` bytes: the lane stands at it until its wave next issues (16 R427). -/
  | entered (len : Nat)
  deriving DecidableEq, Repr

/-- The mark that a release leaves on a byte it writes (13 R280, R285): who released, where, at which scopes (its own and those of the
lane's release fences), and its number among the core-scope releases of its core (13 R284). -/
structure RelTag where
  host : Bool
  team : Nat
  wave : Nat
  lane : Nat
  core : Nat
  scopes : List Nat
  time : Nat
  deriving DecidableEq, Repr

/-- What a waiting lane awaits at ORDIN or in BLEND (16 R345, R346): key, number, SPACE, the length of its instruction and
the lanes that move on with it. -/
structure Await where
  key : Word
  number : BitVec 32
  space : Bool
  len : Nat
  group : BitVec 64
  deriving DecidableEq, Repr

/-- One lane (14 R294, R298, 02 R39, 16 R344 to R347). -/
structure Lane where
  live : Bool
  pc : Word
  prio : BitVec 8
  v : Cells 32
  p : BitVec 7
  outside : Bool
  marked : Bool
  wait : Wait
  handler : Bool
  ptrap : Option TrapInfo
  spawnKey : BitVec 16
  held0 : Option Word
  held1 : Option Word
  pend : Option (Word × BitVec 32)
  await : Option Await
  /-- scopes of the lane's release fences, rising (13 R280). -/
  relScopes : List Nat
  /-- release tags that the lane's reads have met and that no acquire has judged (13 R285). -/
  seen : List RelTag
  /-- address in the Burrow of a record that forms a BADREC lane (14 R314). -/
  badRec : Option Word
  /-- the PC at which it last found its instruction blocked, and the code of 18 R397 for that. -/
  stall : Option (Word × Nat) := none
  deriving DecidableEq, Repr

/-- Memory types of 04 R74. -/
inductive MType where
  | cached | homeonly | host | io
  deriving DecidableEq, Repr

/-- The atomic operations of 03 R63. -/
inductive AOp where
  | add | minS | maxS | minU | maxU | and | or | xor | xchg | cas | fadd | inc | dec | xredF | xredImg
  deriving DecidableEq, Repr

/-- What an outstanding access does. -/
inductive AKind where
  | load
  | store
  | atomic (op : AOp)
  | pref (home : Bool)
  | flush (sub : Nat)
  /-- the release of an ORDOUT, of the key in `data` (16 R348). -/
  | ordout
  deriving DecidableEq, Repr

/-- Progress of one access: not performed, waiting for a completion on the host side (04 R91), performed. -/
inductive AccState where
  | todo | hostWait | done
  deriving DecidableEq, Repr

/-- One lane's access of an issued memory instruction (13 R276); `side` is set for scratch. -/
structure Acc where
  lane : Nat
  kind : AKind
  side : Option Nat
  va : Nat
  pa : Nat
  len : Nat
  mtype : MType
  scope : Nat
  ord : Nat
  ch : Nat
  data : Nat
  state : AccState
  result : Nat
  /-- log2 of the page that translated it (04 R87). -/
  log2 : Nat := 12
  /-- it continues the access before it, of which an ACCESS_PERFORM has cut it off (13 R278). -/
  rest : Bool := false
  deriving DecidableEq, Repr

/-- One pending register write: vector (lane, register) or scalar. -/
structure RegWrite where
  scalar : Bool
  lane : Nat
  reg : Nat
  val : Reg
  deriving DecidableEq, Repr

/-- How an outstanding result is formed once its accesses are performed. -/
inductive Fin where
  | none
  | regs
  | load (d : Nat) (scalar signExt : Bool)
  | narrow (d : Nat) (desc : Nat)
  | gath (tag : Nat)
  /-- the rows that a DRAIN has written (10 R220). -/
  | drain
  /-- the elements that an ACCLD reads (10 R210). -/
  | tile
  deriving DecidableEq, Repr

/-- An outstanding result or access group of a run (02 R34, R35). `vlr`: the run end waits for it. `ready` is false while an
engine still owes the register writes. -/
structure Out where
  id : Nat
  pc : Word
  vlr : Bool
  ready : Bool
  fin : Fin
  accs : List Acc
  writes : List RegWrite
  flags : BitVec 8
  deriving DecidableEq, Repr

/-- A convergence register (14 R308). -/
structure Cv where
  members : BitVec 64
  signed : BitVec 64
  deriving DecidableEq, Repr

/-- A fetched stream step: a physical address and a value for each lane. -/
abbrev StepData := List (Nat × Nat)

/-- A metered request of an engine: physical address, bytes, and whether it writes (19 R398). -/
abbrev Request := Nat × Nat × Bool

/-- A stream register (06 R130 to R134). -/
structure Stream where
  bound : Bool
  base : Word
  strides : List Int
  extents : List Nat
  laneStride : Int
  esize : Nat
  pred : Nat
  nd : Nat
  next : Nat
  fetched : Nat
  queue : List StepData
  stopped : Bool
  /-- requests of the next step that its core's budgets have granted (19 R399). -/
  paid : List Request := []
  deriving DecidableEq, Repr

/-- What a whole wave is parked on. -/
inductive Park where
  | none
  | walk (pages : List Nat)
  | faults (part : BitVec 64) (pc : Word)
  | waitw (va pa size : Nat) (mtype : MType) (log2 compared : Nat) (timeout : Nat) (mask : BitVec 64)
  | tagwait (any : Bool) (tags : BitVec 64) (mask part : BitVec 64)
  | slice
  deriving DecidableEq, Repr

/-- A fault record outstanding with the host (18 R388, R389). -/
structure Token where
  token : BitVec 16
  outcome : Nat
  reason : Nat
  level : Nat
  kind : Nat
  va : Word
  deriving DecidableEq, Repr

/-- A system call of some lanes outstanding with the host (18 R390). -/
structure SysCall where
  token : BitVec 16
  mask : BitVec 64
  pc : Word
  service : BitVec 16
  /-- an answer that has come while the team is being saved: status and the reply registers (18 R395). -/
  reply : Option (BitVec 16 × Word × Word) := none
  deriving DecidableEq, Repr

/-- A translation kept for the instruction a wave is about to issue (04 R85): page, and the outcome of its walk. -/
structure XEntry where
  asn : BitVec 12
  page : Nat
  fault : Option (Nat × Nat)
  pa : Nat
  mtype : MType
  perms : BitVec 3
  log2 : Nat
  /-- the uncorrectable word that the walk met, by index (18 R380). -/
  bad : Option Nat := none
  deriving DecidableEq, Repr

/-- One lane of a macro in progress (11 R229), or the macro itself when it acts once per issue: its window as it stands; the reason
with which it stopped, 0 while it runs; where it then goes, none to stay; a trap or a translation fault (address, reason, level)
that it met. -/
structure MacLane where
  lane : Nat
  win : Nat
  reason : Nat
  target : Option Word
  trap : Option TrapInfo
  fault : Option (Nat × Nat × Nat)
  /-- bins that a lane of a BIN has pushed (11 R238). -/
  next : Nat := 0
  deriving DecidableEq, Repr

/-- An instruction that takes several steps (one that waits for a walk, a macro or DRAIN in progress): its words, its entry, its
lanes, the flags it has gathered for WSTAT and what it read or reserved at its start; `begun`: its checks have passed; `issued`: its
issue has been counted (18 R381). -/
structure Prog where
  instr : Instr
  mask : BitVec 64
  pc : Word
  begun : Bool
  issued : Bool
  lanes : List MacLane
  flags : BitVec 8
  data : List Nat
  /-- when its request reached the unit that serves it, as an identity (01 R15). -/
  turn : Nat := 0
  deriving DecidableEq, Repr

/-- One wave (14 R294, 02 R39 to R44). -/
structure Wave where
  id : Nat
  core : Nat
  part : Nat
  slot : Nat
  ended : Bool
  lanes : List Lane
  sregs : Cells 32
  wstat : Reg
  helper : BitVec 64
  cvs : List Cv
  streams : List Stream
  tcause : Reg
  tdet0 : Reg
  tdet1 : Reg
  tdet2 : Reg
  tpc : Word
  tprio : BitVec 8
  hmode : Bool
  mstatShadow : Reg
  outs : List Out
  runEnd : Bool
  park : Park
  prog : Option Prog
  xl : List XEntry
  toks : List Token
  calls : List SysCall
  lastIssue : Nat
  placed : Nat
  stop : Bool
  heldLow : List (Nat × Reg)
  /-- its last attempt to issue found every entry blocked, and nothing has changed since (14 R299). -/
  blocked : Bool := false
  deriving DecidableEq, Repr

/-- A tag of a team (05 R105). -/
structure Tag where
  armed : Bool
  failed : Bool
  ready : Bool
  e : BitVec 32
  n : BitVec 40
  /-- reason of 05 R111; once told to a wave, 16 × (WAVE_ID + 1) more. -/
  reason : Nat
  deriving DecidableEq, Repr

/-- A barrier of a team (14 R321). -/
structure Barrier where
  phase : BitVec 32
  count : Nat
  marks : BitVec 64
  deriving DecidableEq, Repr

/-- What a team holds on one of its cores (06 R119, 10 R201 to R209). -/
structure Side where
  scratch : Cells 8
  /-- release marks on bytes of scratch (13 R280, R285). -/
  srels : List (Nat × List RelTag)
  obuf : Cells 8
  slots : List (BitVec 128)
  acc : Cells 32
  types : List Nat
  mstat : Reg
  deriving DecidableEq, Repr

/-- Where pre-emption stands for a team (18 R391 to R394); `since`: the identity that comes next when a save begins. -/
inductive Phase where
  | running
  | draining
  | saving (since : Nat)
  | flushing
  deriving DecidableEq, Repr

/-- A resident team. -/
structure Team where
  uid : Nat
  launch : Nat
  rank : Nat
  x : Nat
  y : Nat
  z : Nat
  core : Nat
  pair : Bool
  width : Nat
  vregs : Nat
  scratchBytes : Nat
  /-- units of 4 KiB it owns: side, bank, number (06 R119). -/
  units : List (Nat × Nat × Nat)
  obufBytes : Nat
  tiles : Nat
  formed : Bool
  waves : List Wave
  sides : List Side
  tags : List Tag
  barriers : List Barrier
  stats : List Word
  recorded : List Nat
  always : Bool
  retired : Nat
  wdOff : Bool
  escape : Bool
  phase : Phase
  sliceable : Bool
  placedAt : Nat
  /-- of a team that the Warren formed, its records by address (18 R393). -/
  recs : List (Nat × Nat) := []
  /-- the launch whose waiting team it leaves for, 0 for none (15 R334). -/
  leavesFor : Nat := 0
  deriving DecidableEq, Repr

/-- A FIFO ring of a bank (06 R128). -/
structure Ring where
  bank : Nat
  nslot : Nat
  slotBytes : Nat
  head : Nat
  tail : Nat
  slots : List (List Byte × List RelTag)
  /-- waiting entries, by wave and PC, in the order in which they first attempted to issue. -/
  pushers : List (WaveRef × Word)
  poppers : List (WaveRef × Word)
  deriving DecidableEq, Repr

/-- Modes of a bank (06 R116). -/
inductive BankMode where
  | cache | scratch | fifo
  deriving DecidableEq, Repr

/-- One byte that a core cache holds (06 R122). -/
structure CByte where
  off : Nat
  val : Byte
  dirty : Bool
  /-- launch on whose behalf a dirty byte was written, 0 for none (17 R370). -/
  writer : Nat
  rel : List RelTag
  deriving DecidableEq, Repr

/-- One line of a core cache. -/
structure CLine where
  line : Nat
  bank : Nat
  mark : Nat
  bytes : List CByte
  /-- uncorrectable 8-byte words of the line, by index (18 R380). -/
  poison : List Nat
  deriving DecidableEq, Repr

/-- A bank that has left CACHE mode and whose lines are being written back for an outstanding BANKCFG (06 R118). -/
structure BankDrain where
  bank : Nat
  wave : WaveRef
  out : Nat
  lines : List CLine
  deriving DecidableEq, Repr

/-- A TLB entry (04 R82). -/
structure TlbEntry where
  asn : BitVec 12
  page : Nat
  log2 : Nat
  pa : Nat
  mtype : MType
  perms : BitVec 3
  deriving DecidableEq, Repr

/-- What waits for a walk besides waves: a copy command of a core, a stream of a wave (05 R96, 06 R131). -/
inductive Engine where
  | cmd (core id : Nat)
  | stream (r : WaveRef) (q : Nat)
  deriving DecidableEq, Repr

/-- A miss in the queue or a walk in progress (04 R84); `pos`: the level and the table that a walk reads next, level 4 for the
address-space table (04 R83). -/
structure Miss where
  core : Nat
  asn : BitVec 12
  page : Nat
  waiters : List WaveRef
  engines : List Engine := []
  pos : Option (Nat × Nat) := none
  deriving DecidableEq, Repr

/-- A space of a copy command (05 R95). -/
inductive Space where
  | glob | scratch (side : Nat) | obuf (side slot : Nat)
  deriving DecidableEq, Repr

/-- One run of bytes that a command moves: source, destination and the receiving team (uid); `absent`: no receiver (05 R101). -/
structure Piece where
  src : Nat
  dst : Nat
  len : Nat
  recv : Nat
  landed : List (Nat × Nat)
  absent : Bool
  deriving DecidableEq, Repr

/-- The stages of a copy command (05 R96). -/
inductive CmdState where
  | prepass | waitHost | moving
  deriving DecidableEq, Repr

/-- An accepted copy command (05 R93, R96). -/
structure Cmd where
  id : Nat
  team : Nat
  launch : Nat
  asn : BitVec 12
  opc : Nat
  tag : Nat
  sendTag : Option Nat
  src : Space
  dst : Space
  list : Option (Nat × Nat)
  dstBase : Nat
  pieces : List Piece
  state : CmdState
  /-- what is still to translate, in order: access kind, first page, last page (05 R96). -/
  pages : List (Nat × Nat × Nat)
  xl : List XEntry
  toks : List Token
  /-- partition and slot of the issuing wave, for its fault records (18 R388). -/
  part : Nat := 0
  slot : Nat := 0
  /-- requests that its core's budgets have granted and whose bytes have not moved yet (19 R399). -/
  paid : List Request := []
  deriving DecidableEq, Repr

/-- A Holly entry (05 R108 to R110). -/
structure Holly where
  cmd : Nat
  team : Nat
  space : Space
  lo : Nat
  hi : Nat
  tag : Nat
  source : Bool
  recv : Nat
  deriving DecidableEq, Repr

/-- An operation in a matrix engine's queue (10 R211): the issuing wave, the operation and its operands read at issue. -/
structure EngineOp where
  team : Nat
  wave : Nat
  out : Nat
  instr : Instr
  pc : Word
  mask : BitVec 64
  helper : BitVec 64
  /-- operand registers of each lane of the mask, read at issue. -/
  rows : List (Nat × Nat)
  /-- the slot's areas at issue, and after each landing in the operand buffer since (10 R215). -/
  panels : List Nat
  xl : List XEntry
  deriving DecidableEq, Repr

/-- An element update of an add-on-store (10 R223); `drain` is the number of its DRAIN, `lane` its acting lane. An applied update
stays, `applied`, until its DRAIN has applied every one. -/
structure AddOn where
  drain : Nat
  team : Nat
  launch : Nat
  side : Option Nat
  pa : Nat
  isInt : Bool
  exact : Bool
  val : Nat
  wave : Nat
  rel : List RelTag
  /-- the address and log2 of the page that translated it (04 R87). -/
  va : Nat := 0
  log2 : Nat := 12
  lane : Nat := 0
  applied : Bool := false
  deriving DecidableEq, Repr

/-- What a partition issues in one clock (14 R297): launch and PC, the slices covered, and the place in the selection order of the wave that
was added last. -/
structure Pack where
  part : Nat
  launch : Nat
  pc : Word
  used : Nat
  last : Nat × Nat × Nat
  deriving DecidableEq, Repr

/-- One core (01 R12, 06 R116). -/
structure Core where
  banks : List BankMode
  rings : List Ring
  draining : List BankDrain
  cache : List CLine
  cmds : List Cmd
  holly : List (Option Holly)
  engine : List EngineOp
  addons : List AddOn
  tlb : List TlbEntry
  /-- notices in flight: the line and the number of the release (13 R283). -/
  notices : List (Nat × Nat)
  /-- core-scope releases so far (13 R284). -/
  released : Nat := 0
  latch : List (WaveRef × Nat × Nat × Nat)
  /-- balances that differ from the budget, by arbiter: slices 0 to 127, far channels 128 on (19 R399). -/
  meter : List (Nat × Int)
  /-- budgets in force at home slices and far channels (19 R399). -/
  hsb : Nat
  fmb : Nat
  packs : List Pack := []
  deriving DecidableEq, Repr

/-- One compute die (04 R82 to R84, 01 R16, 19 R402). -/
structure Die where
  tlb : List TlbEntry
  missq : List Miss
  walks : List Miss
  opclass : Nat
  reassign : Option Nat
  step : Nat
  sat : Bool
  warns : BitVec 32
  /-- what a read of CLOCK last gave (02 R42). -/
  clock : Word
  deriving DecidableEq, Repr

/-- A waiter at a Rowan slice (16 R345). -/
structure Waiter where
  team : Nat
  wave : Nat
  lane : Nat
  deriving DecidableEq, Repr

/-- A Rowan entry (16 R351). -/
structure Rowan where
  asn : BitVec 12
  space : Bool
  key : Word
  next : BitVec 32
  alloc : BitVec 32
  held : Bool
  waiters : List Waiter
  /-- what NWAIT and WMASK hold beyond the waiters, as an altered image gave them (16 R352). -/
  extra : Int := 0
  mask : BitVec 256 := 0
  deriving DecidableEq, Repr

/-- Where a slice keeps an entry that it moved to its share of the backing area (16 R352). -/
structure RowanOut where
  asn : BitVec 12
  space : Bool
  key : Word
  slot : Nat
  deriving DecidableEq, Repr

/-- A launch's parameter block (15 R323): its sixteen words. -/
abbrev Block := List Word

/-- What a saved lane keeps beside its image: what it waits for (14 R301), the scopes of its release fences and the marks it has met
(13 R280, R285). -/
structure LaneMarks where
  wave : Nat
  lane : Nat
  wait : Wait
  scopes : List Nat
  tags : List RelTag
  deriving DecidableEq, Repr

/-- A context image held in the pool (18 R396): where it lies and whose team it is. -/
structure Image where
  id : Nat
  launch : Nat
  rank : Nat
  base : Nat
  bytes : Nat
  /-- identity under which copies and host answers still name the team. -/
  team : Nat
  /-- TEAM_ID_X, Y, Z, and whether the Warren formed the team. -/
  ids : Nat × Nat × Nat
  formed : Bool
  /-- host records outstanding: wave, participating lanes, PC, records (18 R395). -/
  parks : List (Nat × BitVec 64 × Word × List Token)
  calls : List (Nat × SysCall)
  /-- release marks on the bytes of each side's scratch (13 R285). -/
  marks : List (List (Nat × List RelTag)) := []
  seen : List LaneMarks := []
  /-- of a team that the Warren formed, its records. -/
  recs : List (Nat × Nat) := []
  deriving DecidableEq, Repr

/-- A record of a Burrow that is not yet formed (14 R314, 15 R339). -/
structure BurrowRec where
  addr : Nat
  bytes : Nat
  pc : Word
  key : BitVec 16
  /-- the wave that deposited it, until a formation of its group. -/
  origin : Option WaveRef
  deriving DecidableEq, Repr

/-- A team that the Warren formed and that a flush has returned to its launch: rank, TEAM_ID_X, Y, Z, its records by address
(18 R391, R393). -/
structure Formed where
  rank : Nat
  ids : Nat × Nat × Nat
  recs : List (Nat × Nat)
  deriving DecidableEq, Repr

/-- An admitted launch (15 R330, R430). -/
structure Launch where
  id : Nat
  block : Block
  replay : Nat
  node : Nat
  /-- started by TASKPUSH (15 R338): address of its block. -/
  task : Option (Nat × BitVec 12)
  relaunch : Bool
  unplaced : List Nat
  age : Nat
  order : Nat
  lastPlaced : Nat
  trapped : Bool
  failed : Nat
  burrow : List BurrowRec
  formed : Nat
  /-- launches of the same replay that have pushed to this task launch. -/
  pushers : List Nat
  /-- keys that ended lanes still hold (16 R358). -/
  heldKeys : List Word
  returned : List Formed := []
  deriving DecidableEq, Repr

/-- State of a node of a replay (15 R328). -/
inductive NodeState where
  | waiting | running | done | failed (status : Nat) | barred
  deriving DecidableEq, Repr

/-- A node of a replay: its type, predecessors and body words. -/
structure Node where
  type : Nat
  preds : List Nat
  body : List Word
  state : NodeState
  moved : Nat
  toks : List Token
  deriving DecidableEq, Repr

/-- A replay in flight (15 R327, R328). -/
structure Replay where
  id : Nat
  handle : BitVec 16
  kick : Word
  nodes : List Node
  ended : Bool
  deriving DecidableEq, Repr

/-- A relaunch waiting for the previous launch of its set (17 R364, R373). -/
structure Relaunch where
  id : Nat
  replay : Nat
  node : Nat
  block : Block
  issuer : Nat
  deriving DecidableEq, Repr

/-- A stored graph image (15 R326). -/
structure Graph where
  handle : BitVec 16
  nodes : List Node
  bytes : Nat
  freeing : Bool
  deriving DecidableEq, Repr

/-- A host ring (19 R406, R407) and the records that wait for it. -/
structure HostRing where
  base : Word
  en : Bool
  log2n : BitVec 5
  head : BitVec 32
  tail : BitVec 32
  waiting : List (List Word)
  pending : Bool
  deriving DecidableEq, Repr

/-- A Tabez Link port (19 R410 to R413). -/
structure Port where
  ring : Word
  tail : BitVec 32
  wreq : BitVec 2
  en : Bool
  head : BitVec 32
  width : BitVec 2
  pause : Bool
  up : Bool
  rej : BitVec 8
  /-- flits of the descriptor in progress that the peer has not answered for. -/
  inflight : Option Nat
  /-- virtual channels whose arriving descriptor has had bytes rejected (19 R411). -/
  badIn : List Nat := []
  deriving DecidableEq, Repr

/-- A HOST atomic that the bridge has sent and whose completion is outstanding (04 R91). -/
structure HostAtomic where
  wave : WaveRef
  out : Nat
  acc : Nat
  split : Bool
  deriving DecidableEq, Repr

/-- A loaded microcode image (11 R234, R235): its header fields and the digest of header and body. -/
structure Microcode where
  slot : Nat
  rev : Nat
  wsize : Nat
  akind : Nat
  bkind : Nat
  rsnmap : Nat
  cbmap : Nat
  digest : List Byte
  deriving DecidableEq, Repr

/-- The device registers of BAR0 that hold a value of their own (19 R404). -/
structure Regs where
  ready : Bool
  recov : Bool
  warm : Bool
  fails : BitVec 4
  err : BitVec 8
  stage : BitVec 8
  recErr : BitVec 4
  /-- a verification of an uploaded image is in progress, and the image's length (19 R415). -/
  recBusy : Bool
  recLen : Nat
  usum : Word
  ucore : List Word
  ufch : Word
  ulink : Word
  astbase : Word
  tlbiva : Word
  tlbiBusy : Bool
  tlbiLost : Bool
  tlbiCmd : Word
  /-- TLBIVA when TLBICMD was written, and the outs, commands and DRAINs under way then through a removed translation (04 R87). -/
  tlbiAt : Word
  tlbiIds : List Nat
  mcaddr : Word
  mcbusy : Bool
  mcerr : BitVec 4
  /-- a verified command that waits to replace its slot: slot and new image (none: unload). -/
  mcpend : Option (Nat × Option Microcode)
  klost : Bool
  gimg : Word
  gbusy : Bool
  gerr : BitVec 4
  ghandle : BitVec 16
  tslice : BitVec 16
  ordcfg : Word
  ordbase : Word
  ordsize : BitVec 16
  ordqkey : Word
  ordqalloc : BitVec 32
  ordqnext : BitVec 32
  ordqstat : Word
  trbase : Word
  precfg : Word
  ctxbase : Word
  ctxsize : BitVec 16
  screply0 : Word
  screply1 : Word
  metcls : List Word
  bar2win : Word
  attBusy : Bool
  attDone : Bool
  /-- how often vector 3 has been signalled (19 R409). -/
  vec3 : Nat
  deriving DecidableEq, Repr

/-- Package flash and what start reads from it (01 R18, 19 R414 to R416). -/
structure Flash where
  yieldRec : List Byte
  yUsum : Word
  yCore : List Word
  yFch : Word
  yLink : Word
  firmware : List Byte
  minimum : BitVec 16
  training : List Byte
  deriving DecidableEq, Repr

/-- The PCI Express configuration that the spec names (04 R91, 19 R403). -/
structure Pcie where
  atomicOp : Bool
  bar2Log2 : Nat
  deriving DecidableEq, Repr

/-- A move of the agenda: a wave's issue, or an event of the table. -/
inductive Move where
  | issue (w : WaveRef)
  | event (i : Instr)
  deriving DecidableEq, Repr

/-- The issue being executed: the wave, the lanes of the issue and their PC; `blocked`: the instruction could not issue (14 R299);
`whole`: nor may another entry of the wave issue in its place (04 R84). -/
structure Cur where
  team : Nat
  wave : Nat
  mask : BitVec 64
  pc : Word
  blocked : Bool
  whole : Bool := false
  deriving DecidableEq, Repr

/-- The state of the device. -/
structure State where
  mem : List Host.Cell
  rels : List (Nat × List RelTag)
  poison : List Nat
  poisonRegs : List Site
  /-- promotion entries, oldest first: line, core, number of the release that set it (13 R283). -/
  promo : List (Nat × Nat × Nat)
  rowans : List Rowan
  rowanOut : List RowanOut
  hostAtomics : List HostAtomic
  cores : List Core
  dies : List Die
  teams : List Team
  images : List Image
  launches : List Launch
  relaunches : List Relaunch
  replays : List Replay
  graphs : List Graph
  nextLaunch : BitVec 32
  nextToken : BitVec 16
  nextHandle : BitVec 16
  rings : List HostRing
  ports : List Port
  regs : Regs
  micro : List Microcode
  hostHeld : List (Nat × Reg)
  attest : List Byte
  attNonce : List Byte
  attTaken : List Byte
  recWindow : Cells 8
  flash : Flash
  pcie : Pcie
  issues : Nat
  uid : Nat
  free : Nat
  cur : Cur
  agenda : List Move
  deriving DecidableEq, Repr

/-- Why the model stops: no definition raises `stuck`, since the spec gives the device no stop of its own; safe. -/
inductive Fault where
  | stuck
  deriving DecidableEq, Repr

/-- A refusal. `notModelled` is raised only by a refused arm of Dispatch; safe. -/
inductive Refusal where
  | notModelled (mnemonic : String)
  deriving DecidableEq, Repr

/-- What a step answers. -/
abbrev Res := Host.Outcome State Fault Refusal

/-! ### Reset -/

def Lane.reset : Lane :=
  { live := false, pc := 0, prio := 0, v := [], p := 0, outside := false, marked := false, wait := .none, handler := false,
    ptrap := none, spawnKey := 0, held0 := none, held1 := none, pend := none, await := none, relScopes := [], seen := [],
    badRec := none }

def Stream.reset : Stream :=
  { bound := false, base := 0, strides := [], extents := [], laneStride := 0, esize := 0, pred := 7, nd := 1, next := 0,
    fetched := 0, queue := [], stopped := false }

def Tag.reset : Tag := { armed := false, failed := false, ready := false, e := 0, n := 0, reason := 0 }
def Barrier.reset : Barrier := { phase := 0, count := 0, marks := 0 }
def Side.reset : Side :=
  { scratch := [], srels := [], obuf := [], slots := List.replicate 16 0, acc := [], types := List.replicate 16 0, mstat := 0 }

/-- A wave as it starts (02 R40, 14 R301), with no lane yet. -/
def Wave.reset : Wave :=
  { id := 0, core := 0, part := 0, slot := 0, ended := false, lanes := [], sregs := [], wstat := 0, helper := 0,
    cvs := List.replicate 8 { members := 0, signed := 0 }, streams := List.replicate 8 Stream.reset,
    tcause := 0, tdet0 := 0, tdet1 := 0, tdet2 := 0, tpc := 0, tprio := 0, hmode := false, mstatShadow := 0, outs := [],
    runEnd := false, park := .none, prog := none, xl := [], toks := [], calls := [], lastIssue := 0, placed := 0,
    stop := false, heldLow := [] }

/-- A team as it starts (02 R40, 05 R105, 06 R119), with no wave yet. -/
def Team.reset : Team :=
  { uid := 0, launch := 0, rank := 0, x := 0, y := 0, z := 0, core := 0, pair := false, width := 8, vregs := 32,
    scratchBytes := 0, units := [], obufBytes := 0, tiles := 0, formed := false, waves := [], sides := [Side.reset],
    tags := List.replicate 64 Tag.reset, barriers := List.replicate 16 Barrier.reset, stats := List.replicate 8 0,
    recorded := [], always := false, retired := 0, wdOff := false, escape := false, phase := .running,
    sliceable := false, placedAt := 0 }

/-- A core as its pool starts: banks 0 to 15 CACHE, 16 to 47 SCRATCH (06 R116). -/
def Core.reset : Core :=
  { banks := List.replicate 16 .cache ++ List.replicate 32 .scratch, rings := [], draining := [], cache := [], cmds := [],
    holly := List.replicate 256 none, engine := [], addons := [], tlb := [], notices := [], latch := [], meter := [], hsb := 0, fmb := 0 }

/-- A die after start: class 2 (01 R16). -/
def Die.reset : Die :=
  { tlb := [], missq := [], walks := [], opclass := 2, reassign := none, step := 0, sat := false, warns := 0, clock := 0 }

def HostRing.reset : HostRing :=
  { base := 0, en := false, log2n := 0, head := 0, tail := 0, waiting := [], pending := false }

def Port.reset : Port :=
  { ring := 0, tail := 0, wreq := 3, en := false, head := 0, width := 0, pause := false, up := false, rej := 0, inflight := none }

/-- The device registers after a cold start that reached READY, with every unit present. -/
def Regs.reset : Regs :=
  { ready := true, recov := false, warm := false, fails := 0, err := 0, stage := 0, recErr := 0, recBusy := false, recLen := 0,
    usum := 0x8000010080400800,
    ucore := List.replicate 4 0xFFFFFFFFFFFFFFFF, ufch := 0xFFFFFFFFFFFFFFFF, ulink := 0x0000888888888888, astbase := 0, tlbiva := 0, tlbiBusy := false,
    tlbiLost := false, tlbiCmd := 0, tlbiAt := 0, tlbiIds := [], mcaddr := 0, mcbusy := false, mcerr := 0, mcpend := none, klost := false, gimg := 0,
    gbusy := false, gerr := 0, ghandle := 0, tslice := 2000, ordcfg := 0x0000271000002710, ordbase := 0,
    ordsize := 0, ordqkey := 0, ordqalloc := 0, ordqnext := 0, ordqstat := 0, trbase := 0,
    precfg := 0x0004000001F40000, ctxbase := 0, ctxsize := 0, screply0 := 0, screply1 := 0,
    metcls := [0, 0, 0, 12288], bar2win := 0, attBusy := false, attDone := false, vec3 := 0 }

/-- Package flash of a full module (01 R11, R14): the records and images themselves are empty (log entry 6). -/
def Flash.reset : Flash :=
  { yieldRec := [], yUsum := 0x8000010080400800, yCore := List.replicate 4 0xFFFFFFFFFFFFFFFF, yFch := 0xFFFFFFFFFFFFFFFF,
    yLink := 0x0000888888888888, firmware := [], minimum := 0, training := [] }

/-- What an unlisted address of memory reads as (19 R414: a cold start leaves memory zero). -/
def Memory.absent : Byte := 0#8

/-- The canonical form of memory: addresses strictly rising, no byte equal to what an unlisted address reads as. -/
def Memory.wf (m : List Host.Cell) : Bool := cellWf m

/-- The device right after a cold start that reached READY (19 R414), with no launch admitted and nothing in the agenda. -/
def State.reset : State :=
  { mem := [], rels := [], poison := [], poisonRegs := [], promo := [], rowans := [], rowanOut := [], hostAtomics := [],
    cores := List.replicate 256 Core.reset, dies := List.replicate 8 Die.reset, teams := [], images := [], launches := [],
    relaunches := [], replays := [], graphs := [], nextLaunch := 1, nextToken := 1, nextHandle := 1,
    rings := List.replicate 3 HostRing.reset, ports := List.replicate 12 Port.reset, regs := Regs.reset, micro := [],
    hostHeld := [], attest := List.replicate 8192 0, attNonce := List.replicate 32 0, attTaken := List.replicate 32 0, recWindow := [], flash := Flash.reset,
    pcie := { atomicOp := false, bar2Log2 := 30 }, issues := 0, uid := 1, free := 0,
    cur := { team := 0, wave := 0, mask := 0, pc := 0, blocked := false }, agenda := [] }

end Sys2Proof.Machine
end

