-- ==== Sys2Proof/Machine/Ops.lean ====
section
/-! DEFINITION. The named operations over registers, lanes, waves and teams; the frontier (14 R298 to R300); taking a trap and
returning from one (18 R382 to R385); host records (18 R388, 19 R407). -/

namespace Sys2Proof.Machine

/-! ### Lists and masks -/

/-- Apply `f` to each element with its index, counted from `k`. -/
def mapFrom {α : Type} (f : Nat → α → α) : Nat → List α → List α
  | _, [] => []
  | k, x :: r => f k x :: mapFrom f (k + 1) r

/-- A lane mask from a test on lane numbers. -/
def maskOf (f : Nat → Bool) : BitVec 64 := BitVec.ofNat 64 (ofBits 64 f)

/-- The lanes of a mask, rising. -/
def lanesOf (m : BitVec 64) : List Nat := (List.range 64).filter m.getLsbD

def lowestLane (m : BitVec 64) : Option Nat := (List.range 64).find? m.getLsbD

/-- Replace the first element that passes a test. -/
def updFirst {α : Type} (p : α → Bool) (f : α → α) : List α → List α
  | [] => []
  | x :: r => if p x then f x :: r else x :: updFirst p f r

/-! ### Teams, waves, cores -/

def State.team? (s : State) (u : Nat) : Option Team := s.teams.find? (fun t => t.uid == u)
def State.updTeam (s : State) (u : Nat) (f : Team → Team) : State :=
  { s with teams := s.teams.map (fun t => if t.uid == u then f t else t) }
def State.wave? (s : State) (r : WaveRef) : Option Wave :=
  match s.team? r.team with
  | some t => t.waves[r.wave]?
  | none => none
def Team.updWave (t : Team) (i : Nat) (f : Wave → Wave) : Team := { t with waves := listSet t.waves i f }
def State.updWave (s : State) (r : WaveRef) (f : Wave → Wave) : State := s.updTeam r.team (fun t => t.updWave r.wave f)
def Phase.isSaving : Phase → Bool
  | .saving _ => true
  | _ => false
def State.core (s : State) (c : Nat) : Core := s.cores.getD c Core.reset
def State.updCore (s : State) (c : Nat) (f : Core → Core) : State := { s with cores := listSet s.cores c f }
def State.die (s : State) (d : Nat) : Die := s.dies.getD d Die.reset
def State.updDie (s : State) (d : Nat) (f : Die → Die) : State := { s with dies := listSet s.dies d f }
/-- The compute die of a core (01 R12). -/
def dieOf (core : Nat) : Nat := core / 32

/-- The wave whose instruction is being executed. -/
def State.curRef (s : State) : WaveRef := { team := s.cur.team, wave := s.cur.wave }
def State.curTeam (s : State) : Team := (s.team? s.cur.team).getD Team.reset
def State.curWave (s : State) : Wave := (s.wave? s.curRef).getD Wave.reset
def State.updCur (s : State) (f : Wave → Wave) : State := s.updWave s.curRef f
def State.updCurTeam (s : State) (f : Team → Team) : State := s.updTeam s.cur.team f
/-- The side of its team that a core is: 1 for the odd core of a pair (14 R295). -/
def Team.sideOf (t : Team) (core : Nat) : Nat := if t.pair && core != t.core then 1 else 0
def Team.side (t : Team) (k : Nat) : Side := t.sides.getD k Side.reset
def Team.updSide (t : Team) (k : Nat) (f : Side → Side) : Team := { t with sides := listSet t.sides k f }

/-! ### Lanes and registers -/

def Wave.lane (w : Wave) (l : Nat) : Lane := w.lanes.getD l Lane.reset
/-- Apply `f` to the lanes of a mask. -/
def Wave.updLanes (w : Wave) (m : BitVec 64) (f : Nat → Lane → Lane) : Wave :=
  { w with lanes := mapFrom (fun i ln => if m.getLsbD i then f i ln else ln) 0 w.lanes }
def Wave.liveMask (w : Wave) : BitVec 64 := maskOf (fun l => (w.lane l).live)

/-- A predicate of a lane: p7 reads 1 (02 R39). -/
def Lane.pred (ln : Lane) (i : Nat) : Bool := i == 7 || ln.p.getLsbD i
def Lane.setPred (ln : Lane) (i : Nat) (b : Bool) : Lane :=
  if i < 7 then { ln with p := BitVec.ofNat 7 (ofBits 7 (fun k => if k == i then b else ln.p.getLsbD k)) } else ln
def Lane.vr (ln : Lane) (r : Nat) : Nat := (cellGet ln.v r).toNat
/-- `n` registers from `r`, the low register in the low bits (02 R26). -/
def Lane.vblock (ln : Lane) (r : Nat) : Nat → Nat
  | 0 => 0
  | n + 1 => ln.vr r + 2 ^ 32 * ln.vblock (r + 1) n
def Lane.vpair (ln : Lane) (r : Nat) : Nat := ln.vr r + 2 ^ 32 * ln.vr (r + 1)
def Lane.setV (ln : Lane) (r v : Nat) : Lane := { ln with v := cellSet ln.v r (BitVec.ofNat 32 v) }
def Lane.setBlock (ln : Lane) (r : Nat) : Nat → Nat → Lane
  | 0, _ => ln
  | n + 1, v => (ln.setV r v).setBlock (r + 1) n (v / 2 ^ 32)

def Wave.sr (w : Wave) (r : Nat) : Nat := (cellGet w.sregs r).toNat
def Wave.spair (w : Wave) (r : Nat) : Nat := w.sr r + 2 ^ 32 * w.sr (r + 1)
def Wave.setS (w : Wave) (r v : Nat) : Wave := { w with sregs := cellSet w.sregs r (BitVec.ofNat 32 v) }
def Wave.setSBlock (w : Wave) (r : Nat) : Nat → Nat → Wave
  | 0, _ => w
  | n + 1, v => (w.setS r v).setSBlock (r + 1) n (v / 2 ^ 32)
def Wave.sblock (w : Wave) (r : Nat) : Nat → Nat
  | 0 => 0
  | n + 1 => w.sr r + 2 ^ 32 * w.sblock (r + 1) n
def Wave.orFlags (w : Wave) (f : BitVec 8) : Wave := { w with wstat := w.wstat ||| f.setWidth 32 }

/-- Apply one pending register write. -/
def Wave.write (w : Wave) (x : RegWrite) : Wave :=
  if x.scalar then w.setS x.reg x.val.toNat else w.updLanes (1#64 <<< x.lane) (fun _ ln => ln.setV x.reg x.val.toNat)

/-- Whether a lane passes a guard (02 R24). -/
def Lane.passes (ln : Lane) (h : Hdr) : Bool := h.gp.toNat == 7 || (ln.pred h.gp.toNat != h.gn)
/-- The lanes of an issue that take part (02 R24). -/
def guardMask (h : Hdr) (w : Wave) (m : BitVec 64) : BitVec 64 := maskOf (fun l => m.getLsbD l && (w.lane l).passes h)
/-- The participating lanes of the current issue. -/
def State.part (s : State) (h : Hdr) : BitVec 64 := guardMask h s.curWave s.cur.mask
/-- The lowest participating lane that is not a helper lane (05 R94, 06 R124). -/
def State.actor (s : State) (h : Hdr) : Option Nat := lowestLane (s.part h &&& ~~~ s.curWave.helper)

/-- The length of an instruction in bytes (02 R22). -/
def hdrLen (h : Hdr) : Nat := if h.x.isSome then 16 else 8
/-- The extension word, zero when there is none. -/
def hdrExt (h : Hdr) : Nat := match h.x with | some x => x.toNat | none => 0

/-! ### Moving lanes -/

/-- Lanes of a mask go to a PC and keep their priority. -/
def Wave.goto (w : Wave) (m : BitVec 64) (pc : Word) : Wave :=
  w.updLanes m (fun _ ln => { ln with pc := pc, wait := .none })
/-- Lanes of a mask go to a PC with a priority. -/
def Wave.gotoPrio (w : Wave) (m : BitVec 64) (pc : Word) (prio : BitVec 8) : Wave :=
  w.updLanes m (fun _ ln => { ln with pc := pc, prio := prio, wait := .none })
/-- The next PC of the current issue (02 R22). -/
def State.nextPc (s : State) (h : Hdr) : Word := s.cur.pc + BitVec.ofNat 64 (hdrLen h)
/-- The lanes of the current issue continue at the next PC (14 R299), and SW ends the run (02 R34). -/
def State.finish (s : State) (h : Hdr) : State :=
  s.updCur (fun w => { w.goto s.cur.mask (s.nextPc h) with runEnd := w.runEnd || h.sw, prog := none, xl := [] })
/-- The instruction of the current issue has moved its lanes itself: SW ends the run, nothing of it stays in progress. -/
def State.moved (s : State) (h : Hdr) : State :=
  s.updCur (fun w => { w with runEnd := w.runEnd || h.sw, prog := none, xl := [] })
/-- The entry is blocked: its instruction does not issue now (14 R299). -/
def State.blockIssue (s : State) : State := { s with cur := { s.cur with blocked := true } }
/-- The instruction has issued and waits: the wave issues nothing else until it is done. -/
def State.hold (s : State) (i : Instr) : State :=
  s.updCur (fun w => { w with
    prog := match w.prog with
      | some p => some p
      | none => some { instr := i, mask := s.cur.mask, pc := s.cur.pc, begun := false, issued := false, lanes := [], flags := 0, data := [] } })
/-- An instruction that takes several steps begins: the lanes of `m` stay, the other lanes of its issue move on (11 R229). -/
def State.begin (s : State) (i : Instr) (h : Hdr) (m : BitVec 64) (lanes : List MacLane) (data : List Nat) : State :=
  s.updCur (fun w => { w.goto (s.cur.mask &&& ~~~ m) (s.nextPc h) with
    prog := some { instr := i, mask := m, pc := s.cur.pc, begun := true, issued := false, lanes := lanes, flags := 0, data := data }, xl := [] })

/-- Whether the current wave is in the middle of its instruction. -/
def State.begun (s : State) : Bool := match s.curWave.prog with | some p => p.begun | none => false

/-- The run ends here whatever SW says (02 R36). -/
def State.endRun (s : State) : State := s.updCur (fun w => { w with runEnd := true })
/-- Nothing of the run is outstanding (02 R34). -/
def Wave.quiet (w : Wave) : Bool := w.outs.all (fun o => !o.vlr)

/-! ### Launch blocks (15 R323) -/

def Block.q (b : Block) (i : Nat) : Nat := (b.getD i 0).toNat
def Block.asn (b : Block) : Nat := bits (b.q 2) 59 48
def Block.tiles (b : Block) : Nat := bits (b.q 2) 47 43
def Block.tset (b : Block) : Nat := bits (b.q 2) 42 39
def Block.bankOk (b : Block) : Bool := bit (b.q 2) 38
def Block.idem (b : Block) : Bool := bit (b.q 2) 37
def Block.prio (b : Block) : Nat := bits (b.q 2) 36 34
def Block.opclass (b : Block) : Nat := bits (b.q 2) 33 32
def Block.prog (b : Block) : Nat := bits (b.q 2) 31 30
def Block.vregs (b : Block) : Nat := 32 * (bits (b.q 2) 29 26 + 1)
def Block.pair (b : Block) : Bool := bit (b.q 2) 25
def Block.width (b : Block) : Nat := 8 * 2 ^ bits (b.q 2) 24 23
def Block.waves (b : Block) : Nat := bits (b.q 2) 22 16
def Block.eprio (b : Block) : Nat := bits (b.q 2) 15 8
def Block.spawnRegs (b : Block) : Nat := bits (b.q 2) 6 0
def Block.obuf (b : Block) : Nat := bits (b.q 3) 63 32
def Block.scratch (b : Block) : Nat := bits (b.q 3) 31 0
def Block.expect (b : Block) : Nat := b.q 4
def Block.handler (b : Block) : Nat := b.q 5
def Block.arg (b : Block) : Nat := b.q 6
def Block.burrow (b : Block) : Nat := b.q 7
def Block.ntreg (b : Block) : Nat := bits (b.q 8) 35 32
def Block.bsize (b : Block) : Nat := bits (b.q 8) 31 0
def Block.stats (b : Block) : Nat := b.q 9
def Block.gx (b : Block) : Nat := bits (b.q 1) 15 0
def Block.gy (b : Block) : Nat := bits (b.q 1) 31 16
def Block.gz (b : Block) : Nat := bits (b.q 1) 47 32
/-- Teams of the grid. -/
def Block.grid (b : Block) : Nat := b.gx * b.gy * b.gz

def State.launch? (s : State) (id : Nat) : Option Launch := s.launches.find? (fun l => l.id == id)
def State.updLaunch (s : State) (id : Nat) (f : Launch → Launch) : State :=
  { s with launches := s.launches.map (fun l => if l.id == id then f l else l) }
/-- The parameter block of a launch. -/
def State.block (s : State) (id : Nat) : Block := match s.launch? id with | some l => l.block | none => []
def State.curBlock (s : State) : Block := s.block s.curTeam.launch
def State.curAsn (s : State) : BitVec 12 := BitVec.ofNat 12 s.curBlock.asn

/-! ### Host records -/

/-- Queue a record for a host ring (19 R407); RING_RECORD_WRITE writes it. -/
def State.pushRecord (s : State) (ring : Nat) (rec : List Word) : State :=
  { s with rings := listSet s.rings ring (fun r => { r with waiting := r.waiting ++ [rec] }) }

/-- W1 of a fault or system-call record, without PHASE (18 R388). -/
def recordW1 (t : Team) (w : Wave) : Word :=
  BitVec.ofNat 64 (t.rank * 2 ^ 32 + w.core * 2 ^ 24 + w.part * 2 ^ 19 + w.slot * 2 ^ 16 + w.id * 2 ^ 8)

/-- A token not outstanding, in increasing order and never 0 (18 R388). -/
def tokensInUse (s : State) : List (BitVec 16) :=
  s.teams.flatMap (fun t => t.waves.flatMap (fun w => w.toks.map Token.token ++ w.calls.map SysCall.token)) ++
  s.cores.flatMap (fun c => c.cmds.flatMap (fun d => d.toks.map Token.token)) ++
  s.replays.flatMap (fun r => r.nodes.flatMap (fun n => n.toks.map Token.token)) ++
  s.images.flatMap (fun i => i.parks.flatMap (fun p => p.2.2.2.map Token.token) ++ i.calls.map (fun c => c.2.token))

def nextFreeToken (used : List (BitVec 16)) : Nat → BitVec 16 → BitVec 16
  | 0, t => t
  | n + 1, t => if t == 0 || used.elem t then nextFreeToken used n (t + 1) else t

def State.takeToken (s : State) : BitVec 16 × State :=
  let t := nextFreeToken (tokensInUse s) ((tokensInUse s).length + 2) s.nextToken
  (t, { s with nextToken := t + 1 })

/-- A fault-ring record (18 R388). -/
def faultRecord (token : BitVec 16) (kind reason level access launch : Nat) (w1 : Word) (va : Word) (asn : Nat) (pc : Word)
    (t : TrapInfo) (w7 : Nat) : List Word :=
  [BitVec.ofNat 64 (token.toNat * 2 ^ 48 + kind * 2 ^ 44 + reason * 2 ^ 40 + level * 2 ^ 37 + access * 2 ^ 34 + launch),
   w1, va, BitVec.ofNat 64 asn, pc, BitVec.ofNat 64 (t.d0.toNat * 2 ^ 32 + t.cause.toNat),
   BitVec.ofNat 64 (t.d2.toNat * 2 ^ 32 + t.d1.toNat), BitVec.ofNat 64 w7]

def TrapInfo.none : TrapInfo := { cause := 0, d0 := 0, d1 := 0, d2 := 0 }

/-! ### Ending lanes -/

/-- Lanes end: they are no longer live and wait for nothing. The keys they hold stay held (16 R358). -/
def Wave.endLanes (w : Wave) (m : BitVec 64) : Wave :=
  w.updLanes m (fun _ ln => { ln with
    live := false, wait := .none, ptrap := none, handler := false, outside := false, marked := false, pend := none, await := none })

/-- When every handler lane has ended, handler mode ends (18 R385). -/
def Wave.leaveHandler (w : Wave) : Wave :=
  if w.hmode && !(w.lanes.any (fun ln => ln.live && ln.handler)) then
    { w with hmode := false, tcause := 0, tdet0 := 0, tdet1 := 0, tdet2 := 0 }
  else w

/-! ### The frontier -/

def MacLane.running (m : MacLane) : Bool := m.reason == 0 && m.trap.isNone && m.fault.isNone

/-- Whether a lane waits where it stands: an admitted one no longer does (16 R427). -/
def Wait.waits : Wait → Bool
  | .none => false
  | .entered _ => false
  | _ => true

/-- A frontier entry: its pair and its lanes (14 R298). -/
structure Entry where
  prio : Nat
  pc : Nat
  mask : BitVec 64
  deriving DecidableEq, Repr

/-- Rank order: priority highest first, then PC lowest first (14 R298). -/
def Entry.before (a b : Entry) : Bool := decide (a.prio > b.prio) || (a.prio == b.prio && decide (a.pc < b.pc))

/-- The distinct pairs of the lanes that pass a test, in rank order. -/
def Wave.entries (w : Wave) (p : Lane → Bool) : List Entry :=
  let pairs := dedup ((w.lanes.filter p).map (fun ln => (ln.prio.toNat, ln.pc.toNat)))
  sortBy Entry.before (pairs.map (fun q =>
    { prio := q.1, pc := q.2,
      mask := maskOf (fun l => let ln := w.lane l; decide (l < w.lanes.length) && p ln && ln.prio.toNat == q.1 && ln.pc.toNat == q.2) }))

/-- The frontier's entries, in rank order. -/
def Wave.frontier (w : Wave) : List Entry := w.entries (fun ln => ln.live && !ln.outside)
/-- The outside pairs, in rank order. -/
def Wave.outsiders (w : Wave) : List Entry := w.entries (fun ln => ln.live && ln.outside)

def Wave.setOutside (w : Wave) (m : BitVec 64) (b : Bool) : Wave := w.updLanes m (fun _ ln => { ln with outside := b })

/-- Outside pairs enter, highest rank first, while the frontier has room (14 R300). -/
def Wave.fillFrontier : Nat → Wave → Wave
  | 0, w => w
  | n + 1, w =>
    match w.outsiders with
    | [] => w
    | e :: _ => if w.frontier.length < 16 then Wave.fillFrontier n (w.setOutside e.mask false) else w

/-- Place moved lanes: each pair joins its entry, forms a new one when there is room, or waits outside (14 R299). -/
def Wave.placeMoved (w : Wave) : List Entry → Wave
  | [] => w
  | e :: r =>
    let f := w.frontier
    if f.any (fun g => g.prio == e.prio && g.pc == e.pc) || f.length < 16 then (w.setOutside e.mask false).placeMoved r
    else w.placeMoved r

/-- The frontier after the lanes of `m` have moved (14 R299, R300): first the pairs of the moved lanes, in rank order, each
with every outside lane that holds the same pair; then outside pairs while there is room. -/
def Wave.settle (w : Wave) (m : BitVec 64) : Wave :=
  let w : Wave := w.setOutside (m &&& w.liveMask) true
  let moved := w.outsiders.filter (fun e => e.mask &&& m != 0)
  (w.placeMoved moved).fillFrontier 16

/-- The exchange of 14 R300 when every entry is blocked: the lowest entry leaves marked, the highest unmarked outside pair enters. -/
def Wave.exchange (w : Wave) : Wave :=
  match w.frontier.getLast?, w.entries (fun ln => ln.live && ln.outside && !ln.marked) with
  | some e, o :: _ => (w.updLanes e.mask (fun _ ln => { ln with outside := true, marked := true })).setOutside o.mask false
  | _, _ => w

/-! ### Taking a trap -/

/-- A trap's cause groups (18 R379). -/
inductive Group where
  | none | illegal | xlate | protect | align | rangelock | uniform | copy | matrix | macroG | order | trace | task | syscall
  | brk | hwerr | watchdog | priv | atomic
  deriving DecidableEq, Repr

def Group.code : Group → Nat
  | .none => 0 | .illegal => 1 | .xlate => 2 | .protect => 3 | .align => 4 | .rangelock => 5 | .uniform => 6 | .copy => 7
  | .matrix => 8 | .macroG => 9 | .order => 10 | .trace => 11 | .task => 12 | .syscall => 13 | .brk => 14 | .hwerr => 15
  | .watchdog => 16 | .priv => 17 | .atomic => 18

/-- A trap with three detail words. -/
def mkTrap (g : Group) (d0 d1 d2 : Nat) : TrapInfo :=
  { cause := BitVec.ofNat 32 g.code, d0 := BitVec.ofNat 32 d0, d1 := BitVec.ofNat 32 d1, d2 := BitVec.ofNat 32 d2 }
/-- A trap whose TDET1:TDET2 is a 64-bit address. -/
def mkTrapA (g : Group) (d0 addr : Nat) : TrapInfo := mkTrap g d0 (addr % 2 ^ 32) (addr / 2 ^ 32)

/-- After a WATCHDOG trap's delivery the watchdog of its team is disarmed (18 R381). -/
def State.disarm (s : State) (uid : Nat) (t : TrapInfo) : State :=
  if t.cause == BitVec.ofNat 32 Group.watchdog.code then s.updTeam uid (fun x => { x with wdOff := true }) else s

/-- An undelivered trap: its lanes end, a record of kind UNDELIVERED is queued, and the launch is TRAPPED (18 R384). -/
def State.undelivered (s : State) (r : WaveRef) (m : BitVec 64) (pc : Word) (t : TrapInfo) : State :=
  match s.team? r.team, s.wave? r with
  | some tm, some w =>
    let s : State := s.pushRecord 1 (faultRecord 0 3 0 0 0 tm.launch (recordW1 tm w) 0 (s.block tm.launch).asn pc t 0)
    let s : State := (s.updLaunch tm.launch (fun l => { l with trapped := true })).disarm r.team t
    s.updWave r (fun w => (w.endLanes m).leaveHandler)
  | _, _ => s

/-- The lanes chosen for the next delivery (18 R383): the entry, and the lanes that share the lowest pending lane's trap. -/
def Wave.nextTrap (w : Wave) : Option (Entry × BitVec 64 × TrapInfo) :=
  match (w.frontier ++ w.outsiders).find? (fun e => (lanesOf e.mask).any (fun l => (w.lane l).ptrap.isSome)) with
  | none => none
  | some e =>
    match (lanesOf e.mask).findSome? (fun l => (w.lane l).ptrap) with
    | none => none
    | some t => some (e, maskOf (fun l => e.mask.getLsbD l && (w.lane l).ptrap == some t), t)

/-- A lane that may take part in an issue (14 R299, 18 R382, R383, R390). -/
def Wave.canIssue (w : Wave) (l : Nat) : Bool :=
  let ln := w.lane l
  ln.wait == .none && ln.ptrap.isNone && !w.calls.any (fun c => c.mask.getLsbD l) && (!w.hmode || ln.handler)

/-- Every frontier entry is blocked (14 R299): its lanes wait where they stand, or its instruction could not issue when last tried; so is a wave
that has issued an instruction and found no room for what follows. -/
def Wave.allBlocked (w : Wave) : Bool :=
  match w.prog with
  | some p => !p.begun && w.blocked
  | none => w.frontier.all (fun e =>
      (lanesOf e.mask).all (fun l => (w.lane l).wait.waits) || (w.blocked && (lanesOf e.mask).any w.canIssue))

/-- Enter the handler: TPC, TPRIO, TCAUSE and TDET are written, the handler lanes go to HANDLER with priority 255 (18 R382). -/
def Wave.enterHandler (w : Wave) (e : Entry) (m : BitVec 64) (t : TrapInfo) (handler : Nat) : Wave :=
  let w : Wave := { w with
    tpc := BitVec.ofNat 64 e.pc, tprio := BitVec.ofNat 8 e.prio, tcause := t.cause, tdet0 := t.d0,
    tdet1 := t.d1, tdet2 := t.d2, hmode := true }
  w.updLanes m (fun _ ln => { ln with pc := BitVec.ofNat 64 handler, prio := 255, handler := true, ptrap := none, wait := .none })

/-- Deliver pending traps of a wave (18 R382 to R384): undelivered ones one after another, or one entry to the handler. -/
def State.deliver : Nat → WaveRef → State → State
  | 0, _, s => s
  | n + 1, r, s =>
    match s.team? r.team, s.wave? r with
    | some tm, some w =>
      if w.hmode || !w.quiet || w.park != .none || w.prog.isSome then s
      else
        match w.nextTrap with
        | none => s
        | some (e, m, t) =>
          let h := (s.block tm.launch).handler
          if h == 0 then State.deliver n r (s.undelivered r m (BitVec.ofNat 64 e.pc) t)
          else (s.updWave r (fun w => w.enterHandler e m t h)).disarm r.team t
    | _, _ => s

/-- Raise a trap in lanes of a wave, at their PC: it pends until the run's results are written (18 R382), and is
undelivered at once in handler mode (18 R384). The run ends (02 R36). -/
def State.raiseLanes (s : State) (r : WaveRef) (m : BitVec 64) (pc : Word) (t : TrapInfo) : State :=
  match s.wave? r with
  | none => s
  | some w =>
    if w.hmode then s.undelivered r m pc t
    else
      State.deliver 64 r (s.updWave r (fun w =>
        { w.updLanes m (fun _ ln => { ln with ptrap := some t, wait := .none, await := .none }) with runEnd := true }))

/-- The same for the instruction that a wave is executing or parked in: nothing of it stays in progress. -/
def State.raiseAt (s : State) (r : WaveRef) (m : BitVec 64) (pc : Word) (t : TrapInfo) : State :=
  (s.updWave r (fun w => { w with runEnd := true, prog := none, park := .none, xl := [] })).raiseLanes r m pc t

/-- Raise a trap of its own in each lane that `f` gives one; no other lane moves (16 R354, R355). -/
def State.raiseEach (s : State) (r : WaveRef) (f : Nat → Option TrapInfo) : State :=
  match s.wave? r with
  | none => s
  | some w =>
    if w.hmode then
      (List.range w.lanes.length).foldl (fun s l => match f l with
        | some t => s.undelivered r (1#64 <<< l) (w.lane l).pc t
        | none => s) s
    else
      State.deliver 64 r (s.updWave r (fun w =>
        { w with
          lanes := mapFrom (fun l ln => match f l with
            | some t => { ln with ptrap := some t, wait := .none, await := none }
            | none => ln) 0 w.lanes
          runEnd := true }))

/-- An instruction of the current issue traps for the lanes of `m`; the other lanes of the issue move on (18 R382). -/
def State.trapLanes (s : State) (h : Hdr) (m : BitVec 64) (t : TrapInfo) : State :=
  (s.updCur (fun w => w.goto (s.cur.mask &&& ~~~ m) (s.nextPc h))).raiseAt s.curRef m s.cur.pc t

/-- An instruction of the current issue traps for its participating lanes. -/
def State.trap (s : State) (h : Hdr) (t : TrapInfo) : State := s.trapLanes h (s.part h) t

/-- The HWERR trap of a store and index (18 R379, R380). -/
def hwerrTrap (store index : Nat) : TrapInfo := mkTrap .hwerr store (index % 2 ^ 32) 0

/-- The instruction of the current issue would read an uncorrectable word: the lanes of `m` trap HWERR, and a record of kind HWERR is
queued (18 R380). -/
def State.hwerrIn (s : State) (h : Hdr) (m : BitVec 64) (store index : Nat) : State :=
  let t := hwerrTrap store index
  let s : State := s.pushRecord 1 (faultRecord 0 4 0 0 0 s.curTeam.launch (recordW1 s.curTeam s.curWave) 0 s.curAsn.toNat s.cur.pc t 0)
  s.trapLanes h m t
/-- The same for the participating lanes. -/
def State.hwerr (s : State) (h : Hdr) (store index : Nat) : State := s.hwerrIn h (s.part h) store index

/-- Return from a trap: the handler lanes resume at TPC with priority TPRIO, TCAUSE and TDET become zero (18 R385). -/
def Wave.leaveTrap (w : Wave) : Wave :=
  let m := maskOf (fun l => (w.lane l).live && (w.lane l).handler)
  { w.updLanes m (fun _ ln => { ln with pc := w.tpc, prio := w.tprio, handler := false }) with
      hmode := false, tcause := 0, tdet0 := 0, tdet1 := 0, tdet2 := 0 }

/-! ### Outstanding results -/

/-- Add an outstanding result to the current wave and advance. -/
def State.addOut (s : State) (o : Out) : State :=
  { s.updCur (fun w => { w with outs := w.outs ++ [{ o with id := s.uid }] }) with uid := s.uid + 1 }

/-- An out whose register writes are already computed (a variable-latency result, 02 R35). -/
def Out.ofWrites (pc : Word) (ws : List RegWrite) (fl : BitVec 8) : Out :=
  { id := 0, pc := pc, vlr := true, ready := true, fin := .regs, accs := [], writes := ws, flags := fl }
/-- An out of memory accesses. -/
def Out.ofAccs (pc : Word) (vlr : Bool) (fin : Fin) (accs : List Acc) : Out :=
  { id := 0, pc := pc, vlr := vlr, ready := true, fin := fin, accs := accs, writes := [], flags := 0 }

/-- The next free value's index: the counter advances (log entry 2). -/
def State.takeFree (s : State) : Nat × State := (s.free, { s with free := s.free + 1 })

end Sys2Proof.Machine
end

