-- ==== Sys2Proof/Machine/Memory.lean ====
section
/-! DEFINITION. Home memory (04 R70 to R73), the Bramble map (17 R361 to R371), the core caches (06 R122), promotion
(13 R283, R284), release marks (13 R275, R285) and metering (19 R398, R399). -/

namespace Sys2Proof.Machine

/-! ### The physical map -/

/-- The ranges of 04 R70. -/
inductive Region where
  | near | far | host | io | hole
  deriving DecidableEq, Repr

def nearTop : Nat := 0x004000000000
def farBase : Nat := 0x010000000000
def hostBase : Nat := 0x080000000000
def ioBase : Nat := 0x0F0000000000
def ioTop : Nat := 0x100000000000

/-- FARGIB of USUM (01 R19), from the yield record. -/
def State.farGib (s : State) : Nat := bits s.flash.yUsum.toNat 11 0
/-- The top of the present far tier (04 R70). -/
def State.farTop (s : State) : Nat := farBase + s.farGib * 2 ^ 30

def State.region (s : State) (pa : Nat) : Region :=
  if pa < nearTop then .near
  else if farBase ≤ pa && pa < s.farTop then .far
  else if hostBase ≤ pa && pa < ioBase then .host
  else if ioBase ≤ pa && pa < ioTop then .io
  else .hole

/-- Near or present far tier: device memory. -/
def State.isDev (s : State) (pa : Nat) : Bool := s.region pa == .near || s.region pa == .far

/-- Every byte of a range lies in device memory. -/
def State.devRange (s : State) (pa n : Nat) : Bool :=
  n == 0 || (s.isDev pa && s.isDev (pa + n - 1) && s.region pa == s.region (pa + n - 1))

/-- `home_slice` (04 R73). -/
def homeSlice (pa : Nat) : Nat :=
  if pa < nearTop then 16 * bits pa 37 35 + bits pa 11 8
  else bits pa 14 8 ^^^ bits pa 21 15 ^^^ bits pa 28 22 ^^^ bits pa 35 29 ^^^ bits pa 42 36

/-- The far channel of a far address: C[g mod NFCH] (04 R72). -/
def State.farChannel (s : State) (pa : Nat) : Nat :=
  let g := (pa - farBase) / 4096
  let c := maskList 64 s.flash.yFch.toNat
  c.getD (g % c.length) 0

/-- The byte of its channel that a far address names (04 R72). -/
def State.farByte (s : State) (pa : Nat) : Nat :=
  let f := pa - farBase
  f / 4096 / (maskList 64 s.flash.yFch.toNat).length * 4096 + f % 4096

/-- The 256-byte line of an address. -/
def lineOf (pa : Nat) : Nat := pa / 256

/-! ### Release marks -/

/-- Marks with no repeats: of one agent's marks at the same scopes, the last counts. -/
def tagSet (l : List RelTag) : List RelTag :=
  (dedup l).filter (fun t => !l.any (fun u => decide (t.time < u.time) && { u with time := t.time } == t))

/-- The marks on the bytes of a range. -/
def State.relsIn (s : State) (pa n : Nat) : List RelTag :=
  tagSet ((s.rels.filter (fun e => pa ≤ e.1 && e.1 < pa + n)).flatMap (·.2))

def relClear (l : List (Nat × List RelTag)) (pa n : Nat) : List (Nat × List RelTag) :=
  l.filter (fun e => !(pa ≤ e.1 && e.1 < pa + n))

/-- Replace the marks of a range. -/
def relPut (l : List (Nat × List RelTag)) (pa n : Nat) (ts : List RelTag) : List (Nat × List RelTag) :=
  let l := relClear l pa n
  if ts.isEmpty then l else l ++ (List.range n).map (fun i => (pa + i, ts))

/-- Store bytes in scratch with their release marks. -/
def Side.put (d : Side) (a : Nat) (bs : List Byte) (ts : List RelTag) : Side :=
  { d with scratch := cellStore d.scratch a bs, srels := relPut d.srels a bs.length ts }
/-- The marks on a range of scratch. -/
def Side.rels (d : Side) (a n : Nat) : List RelTag := tagSet ((d.srels.filter (fun e => a ≤ e.1 && e.1 < a + n)).flatMap (·.2))

/-- Whether an agent lies in the scope instance of another (13 R274). -/
def RelTag.inInstance (t : RelTag) (scope : Nat) (byHost : Bool) (team wave core : Nat) : Bool :=
  if byHost then scope == 6
  else match scope with
    | 1 => t.team == team && t.wave == wave
    | 2 => t.team == team
    | 3 => t.core == core
    | 4 => t.core / 2 == core / 2
    | _ => true

/-- Whether a release's mark and an acquire overlap (13 R275). -/
def RelTag.overlaps (t : RelTag) (team wave core scope : Nat) : Bool :=
  let x : RelTag := { t with host := false, team := team, wave := wave, core := core }
  if t.host then scope == 6
  else t.inInstance scope false team wave core && t.scopes.any (fun k => x.inInstance k false t.team t.wave t.core)

/-! ### The Bramble map -/

/-- A trace-set descriptor as 256 bytes of memory (17 R362). -/
def State.setDesc (s : State) (n : Nat) : Nat := bits s.regs.trbase.toNat 51 12 * 4096 + 256 * (n - 1)

/-- A region of a descriptor at address `d`: base address and number of granules. -/
def regionAt (m : Cells 8) (d i : Nat) : Nat × Nat :=
  let r := cellRead m (d + 32 + 16 * i) 16
  (bits r 51 14 * 16384, bits r 90 64)

def regionsAt (m : Cells 8) (d : Nat) : List (Nat × Nat) := (List.range 8).map (regionAt m d)

/-- G of 17 R362. -/
def granules (rs : List (Nat × Nat)) : Nat := rs.foldl (fun a r => a + r.2) 0

/-- The map index of the granule that holds an address, among regions counted from index `k` (17 R362). -/
def mapIndex (pa : Nat) : List (Nat × Nat) → Nat → Option Nat
  | [], _ => none
  | (b, n) :: r, k => if b ≤ pa && pa < b + n * 16384 then some (k + (pa - b) / 16384) else mapIndex pa r (k + n)

/-- M, the bytes of one map buffer (17 R363). -/
def mapBytes (g : Nat) : Nat := ceilDiv g 512 * 64

def disjoint (a b : Nat × Nat) : Bool := a.2 == 0 || b.2 == 0 || a.1 + a.2 ≤ b.1 || b.1 + b.2 ≤ a.1

def pairwise (l : List (Nat × Nat)) : Bool :=
  match l with
  | [] => true
  | x :: r => r.all (disjoint x) && pairwise r

/-- Where the trace area and the map of a descriptor lie, and the team capacity. -/
def descCap (m : Cells 8) (d : Nat) : Nat := cellRead m (d + 28) 4
def descMap (m : Cells 8) (d : Nat) : Nat := bits (cellRead m (d + 16) 8) 51 0
def descArea (m : Cells 8) (d : Nat) : Nat := bits (cellRead m (d + 8) 8) 51 0
/-- Bytes of a trace area (17 R363). -/
def areaBytes (cap : Nat) : Nat := 64 + ceilDiv cap 512 * 64 + cap * 512

/-- A well-formed trace-set descriptor (17 R362). -/
def State.descOk (s : State) (d : Nat) : Bool :=
  let q0 := cellRead s.mem d 8
  let q1 := cellRead s.mem (d + 8) 8
  let q2 := cellRead s.mem (d + 16) 8
  let q3 := cellRead s.mem (d + 24) 8
  let rs := regionsAt s.mem d
  let g := granules rs
  let cap := descCap s.mem d
  let area := descArea s.mem d
  let map := descMap s.mem d
  let ranges := rs.map (fun r => (r.1, r.2 * 16384))
  bit q0 0 && bits q0 63 1 == 0 && bits q1 63 52 == 0 && bits q2 63 52 == 0 && bits q3 31 0 == 0 &&
  (List.range 8).all (fun i => let r := cellRead s.mem (d + 32 + 16 * i) 16; bits r 127 91 == 0 && bits r 63 52 == 0 && bits r 13 0 == 0) &&
  (cellBytes s.mem (d + 160) 96).all (· == 0) &&
  1 ≤ cap && cap ≤ 1048576 && g ≤ 2 ^ 28 && area % 64 == 0 && map % 64 == 0 &&
  ranges.all (fun r => s.devRange r.1 r.2) && s.devRange area (areaBytes cap) && s.devRange map (2 * mapBytes g) &&
  pairwise ((area, areaBytes cap) :: (map, 2 * mapBytes g) :: ranges)

/-- A trace set's current launch (17 R370): the admitted launch that names it. -/
def State.setLaunch (s : State) (n : Nat) : Option Nat := (s.launches.find? (fun l => l.block.tset == n)).map (·.id)

/-- Set the map bit of one granule of set `n` in its buffer ACT. -/
def setMapBit (m : Cells 8) (d k : Nat) : Cells 8 :=
  let act := bit (cellRead m (descArea m d) 1) 2
  let a := descMap m d + (if act then mapBytes (granules (regionsAt m d)) else 0) + k / 8
  cellWrite m a 1 (cellRead m a 1 ||| 2 ^ (k % 8))

/-- The Bramble bits of a write of `n` bytes at `pa` on behalf of a launch (0: none) (17 R370). -/
def State.bramble (s : State) (pa n writer : Nat) : State :=
  (List.range 15).foldl (fun s i =>
    let d := s.setDesc (i + 1)
    if !(bit (cellRead s.mem d 1) 0 && s.descOk d) then s
    else if writer != 0 && s.setLaunch (i + 1) == some writer then s
    else
      let rs := regionsAt s.mem d
      let ks := dedup ((List.range (n / 16384 + 2)).filterMap (fun j => mapIndex (min (pa + 16384 * j) (pa + n - 1)) rs 0))
      { s with mem := ks.foldl (fun m k => setMapBit m d k) s.mem }) s

/-! ### Home memory -/

/-- Read bytes of home or host memory. -/
def State.homeRead (s : State) (pa n : Nat) : Nat := cellRead s.mem pa n

/-- Write bytes at their home slice (or, for the host window, at the bridge): the bytes, their release marks, the Bramble
bits; a poisoned word written whole loses its poison (18 R380). -/
def State.homeStore (s : State) (pa : Nat) (bs : List Byte) (writer : Nat) (ts : List RelTag) : State :=
  let n := bs.length
  let s : State := { s with
    mem := cellStore s.mem pa bs, rels := relPut s.rels pa n ts,
    poison := s.poison.filter (fun w => !(pa ≤ w && w + 8 ≤ pa + n)) }
  if n == 0 || !s.isDev pa then s else s.bramble pa n writer

def State.homeWrite (s : State) (pa n v writer : Nat) (ts : List RelTag) : State := s.homeStore pa (leBytes n v) writer ts

/-- Whether a range of home memory meets a poisoned word (18 R380). -/
def State.poisoned (s : State) (pa n : Nat) : Bool := s.poison.any (fun w => w < pa + n && pa < w + 8)

/-- The uncorrectable words of a side's scratch, or of its operand buffer, that a range meets: HWERR store and index (18 R379, R380). -/
def State.badSide (s : State) (uid side : Nat) (ob : Bool) (a n : Nat) : Option (Nat × Nat) :=
  s.poisonRegs.findSome? (fun p => match p with
    | .scratch u k w => if !ob && u == uid && k == side && decide (4 * w < a + n) && decide (a < 4 * w + 4) then some (3, w) else none
    | .opBuf u k w => if ob && u == uid && k == side && decide (4 * w < a + n) && decide (a < 4 * w + 4) then some (4, w) else none
    | _ => none)

/-! ### Metering -/

/-- The arbiters of an address: its home slice, and its far channel (19 R398). -/
def State.arbiters (s : State) (pa : Nat) : List Nat :=
  match s.region pa with
  | .near => [homeSlice pa]
  | .far => [homeSlice pa, 128 + s.farChannel pa]
  | _ => []

def Core.budget (c : Core) (arb : Nat) : Nat := if arb < 128 then c.hsb else c.fmb
def Core.balance (c : Core) (arb : Nat) : Int :=
  match c.meter.find? (fun e => e.1 == arb) with
  | some e => e.2
  | none => c.budget arb

/-- Whether core `c` may send a metered request to an address now (19 R399). -/
def State.meterOk (s : State) (c pa : Nat) : Bool :=
  (s.arbiters pa).all (fun a => let k := s.core c; k.budget a == 0 || decide (k.balance a > 0))

/-- Charge a granted request of `n` bytes (19 R398, R399). -/
def State.meterCharge (s : State) (c pa n : Nat) : State :=
  (s.arbiters pa).foldl (fun s a =>
    s.updCore c (fun k => if k.budget a == 0 then k
      else { k with meter := k.meter.filter (fun e => e.1 != a) ++ [(a, k.balance a - (min 256 (roundUp n 64) : Nat))] })) s

/-- Requests of a core's engine, in order: those not granted yet are granted while their balances are positive;
the rest wait for the next tick. Answers which stand granted, and the state after (19 R399). -/
def State.grant (s : State) (c : Nat) (paid : List Request) : List Request → List Request × State
  | [] => (paid, s)
  | r :: rest =>
    if paid.elem r then s.grant c paid rest
    else if s.meterOk c r.1 then (s.meterCharge c r.1 r.2.1).grant c (paid ++ [r]) rest
    else (paid, s)

/-! ### The core cache -/

def Core.hasCache (c : Core) : Bool := c.banks.any (· == .cache)
def Core.line? (c : Core) (l : Nat) : Option CLine := c.cache.find? (fun x => x.line == l)
def CLine.byte? (x : CLine) (off : Nat) : Option CByte := x.bytes.find? (fun b => b.off == off)
/-- The cached byte at an address. -/
def Core.cbyte? (c : Core) (pa : Nat) : Option CByte := (c.line? (lineOf pa)).bind (fun x => x.byte? (pa % 256))

/-- The clean bytes of a line whose aligned 4-byte unit it holds whole, and its dirty bytes: what stays, so that no later fill joins
bytes of one unit from two writes (04 R90). -/
def CLine.whole (x : CLine) : CLine :=
  { x with bytes := x.bytes.filter (fun b => b.dirty || (List.range 4).all (fun i => (x.byte? (b.off / 4 * 4 + i)).isSome)) }

/-- Put one byte into a line. -/
def CLine.put (x : CLine) (b : CByte) : CLine := { x with bytes := b :: x.bytes.filter (fun y => y.off != b.off) }

/-- The store and index of an uncorrectable word that a read of core `c` would meet (18 R380). -/
def State.badWord (s : State) (c : Nat) (cached : Bool) (pa n : Nat) : Option (Nat × Nat) :=
  let inLine : Option Nat := if !cached then none
    else ((s.core c).line? (lineOf pa)).bind (fun x => x.poison.find? (fun k => x.line * 256 + 8 * k < pa + n && pa < x.line * 256 + 8 * k + 8))
  match inLine with
  | some k => some (7, lineOf pa * 32 + k)
  | none => (s.poison.find? (fun w => w < pa + n && pa < w + 8)).map (fun w => (6, w / 8))

/-- The bank a new line goes to: a CACHE bank that software cannot see (06 R116). -/
def Core.placeBank (c : Core) (l : Nat) : Nat :=
  let bs := (List.range 48).filter (fun i => c.banks.getD i .scratch == .cache)
  bs.getD (Config.cacheBank l % bs.length) 0

/-- The lines a core's CACHE banks can hold: 256 of 256 bytes a bank. -/
def Core.capacity (c : Core) : Nat := 256 * (c.banks.filter (· == .cache)).length

/-- Core `c` loses a line. -/
def State.dropLine (s : State) (c l : Nat) : State := s.updCore c (fun k => { k with cache := k.cache.filter (fun x => x.line != l) })

/-- Core `c` loses a line that a bank which has left CACHE mode still holds (06 R118, R127). -/
def State.dropDrain (s : State) (c l : Nat) : State :=
  s.updCore c (fun k => { k with draining := k.draining.map (fun d => { d with lines := d.lines.filter (fun x => x.line != l) }) })

/-- Write the dirty bytes of a line image home (06 R122). -/
def State.writeBytes (s : State) (x : CLine) : State :=
  let s : State := x.bytes.foldl (fun s b => if b.dirty then s.homeStore (x.line * 256 + b.off) [b.val] b.writer b.rel else s) s
  { s with poison := s.poison ++ (x.poison.filter (fun k => x.bytes.any (fun b => b.dirty && b.off / 8 == k))).map (fun k => x.line * 256 + 8 * k) }

/-- Write back the draining lines of a core that pass a test (06 R118). -/
def State.flushDrains (s : State) (c : Nat) (p : CLine → Bool) : State :=
  if (s.core c).draining.all (fun d => d.lines.all (fun x => !p x)) then s
  else
    let s : State := (s.core c).draining.foldl (fun s d => (d.lines.filter p).foldl State.writeBytes s) s
    s.updCore c (fun k => { k with draining := k.draining.map (fun d => { d with lines := d.lines.filter (fun x => !p x) }) })

def CLine.isDirty (x : CLine) : Bool := x.bytes.any (·.dirty)

/-- The lines that a core holds dirty, those of banks that have left CACHE mode first. -/
def Core.dirtyLines (k : Core) (p : CLine → Bool) : List CLine :=
  (k.draining.flatMap (·.lines) ++ k.cache).filter (fun x => p x && x.isDirty)

/-- Whether a core holds dirty bytes in lines that pass a test. -/
def State.dirtyIn (s : State) (c : Nat) (p : CLine → Bool) : Bool := !((s.core c).dirtyLines p).isEmpty

/-- Write a line's dirty bytes back and keep it clean, without looking at notices. -/
def State.cleanLineRaw (s : State) (c l : Nat) : State :=
  let s : State := s.flushDrains c (fun x => x.line == l)
  match (s.core c).line? l with
  | none => s
  | some x =>
    if !x.isDirty then s
    else (s.writeBytes x).updCore c (fun k => { k with
      cache := k.cache.map (fun y => if y.line == l then
        ({ y with bytes := y.bytes.map (fun b => { b with dirty := false }), poison := [] } : CLine).whole else y) })

/-- A write-back of core `c`: a metered request of the line's dirty bytes, which waits while its balance is not positive
(19 R398, R399). -/
def State.writeBack (s : State) (c : Nat) (x : CLine) : State :=
  if s.meterOk c (256 * x.line) then (s.meterCharge c (256 * x.line) (x.bytes.countP (·.dirty))).cleanLineRaw c x.line else s

/-- Write back the dirty lines of a core that pass a test, as far as its budgets go. -/
def State.cleanSome (s : State) (c : Nat) (p : CLine → Bool) : State := ((s.core c).dirtyLines p).foldl (fun s x => s.writeBack c x) s

/-- Write every dirty byte of a core back, its draining lines among them (13 R284). -/
def State.cleanAllRaw (s : State) (c : Nat) : State :=
  let s : State := (s.core c).cache.foldl (fun s x => s.cleanLineRaw c x.line) s
  s.flushDrains c (fun _ => true)

/-- The core-scope releases of a core up to number `n` count as DEVICE-scope releases (13 R284). -/
def RelTag.widen (t : RelTag) (c n : Nat) : RelTag :=
  if !t.host && t.core == c && decide (t.time ≤ n) && t.scopes.elem 3 && !t.scopes.elem 5 then { t with scopes := t.scopes ++ [5] } else t

/-- Apply `f` to every mark that the bytes of a line carry. -/
def CLine.mapTags (x : CLine) (f : RelTag → RelTag) : CLine := { x with bytes := x.bytes.map (fun b => { b with rel := b.rel.map f }) }
def Core.mapTags (k : Core) (f : RelTag → RelTag) : Core :=
  { k with
    cache := k.cache.map (·.mapTags f)
    draining := k.draining.map (fun d => { d with lines := d.lines.map (·.mapTags f) })
    rings := k.rings.map (fun g => { g with slots := g.slots.map (fun x => (x.1, x.2.map f)) })
    addons := k.addons.map (fun u => { u with rel := u.rel.map f }) }
def markMap (l : List (Nat × List RelTag)) (f : RelTag → RelTag) : List (Nat × List RelTag) := l.map (fun e => (e.1, e.2.map f))
def Team.mapTags (t : Team) (f : RelTag → RelTag) : Team :=
  { t with
    sides := t.sides.map (fun d => { d with srels := markMap d.srels f })
    waves := t.waves.map (fun w => { w with lanes := w.lanes.map (fun ln => { ln with seen := ln.seen.map f }) }) }

/-- Apply `f` to every release mark, wherever it is kept. -/
def State.mapTags (s : State) (f : RelTag → RelTag) : State :=
  { s with
    rels := markMap s.rels f
    cores := s.cores.map (·.mapTags f)
    teams := s.teams.map (·.mapTags f)
    images := s.images.map (fun i => { i with
      marks := i.marks.map (fun l => markMap l f), seen := i.seen.map (fun x => { x with tags := x.tags.map f }) }) }

/-- Promote a core's releases up to number `n`: its dirty bytes go home, its core-scope releases so far widen, the entries of the line
leave (13 R284). -/
def State.promote (s : State) (l c n : Nat) : State :=
  let s : State := (s.mapTags (·.widen c n)).cleanAllRaw c
  { s with promo := s.promo.filter (fun e => !(e.1 == l && e.2.1 == c)) }

/-- A notice of release `n` reaches the home slice of line `l`: the entries it meets are promoted first, then L → c is set (13 R283). -/
def State.setPromo (s : State) (l c n : Nat) : State :=
  let s : State := match s.promo.find? (fun e => e.1 == l && e.2.1 != c) with
    | some e => s.promote l e.2.1 e.2.2
    | none => s
  let sl := homeSlice (l * 256)
  let here := s.promo.filter (fun e => homeSlice (e.1 * 256) == sl && e.1 != l)
  let s : State := if here.length < 2048 then s
    else match here with
      | [] => s
      | e :: _ => s.promote e.1 e.2.1 e.2.2
  { s with promo := s.promo.filter (fun e => e.1 != l) ++ [(l, c, n)] }

/-- The notices of a core that are in flight reach their slices, in order. -/
def State.flushNotices (s : State) (c : Nat) : State :=
  let ns := (s.core c).notices
  let s : State := s.updCore c (fun k => { k with notices := [] })
  ns.foldl (fun s n => s.setPromo n.1 c n.2) s

/-- Write a line back and keep it clean (06 R127 .WB). -/
def State.cleanLine (s : State) (c l : Nat) : State := (s.flushNotices c).cleanSome c (fun x => x.line == l)
/-- Write back every dirty byte of a core (13 R282). -/
def State.cleanAll (s : State) (c : Nat) : State := (s.flushNotices c).cleanSome c (fun _ => true)
/-- The same for a save or a record, which no budget holds up (19 R398). -/
def State.cleanFree (s : State) (c : Nat) : State := (s.flushNotices c).cleanAllRaw c
/-- Evict a line, once its dirty bytes have gone home (06 R122). -/
def State.evictLine (s : State) (c l : Nat) : State :=
  let s : State := s.cleanLine c l
  if s.dirtyIn c (fun x => x.line == l) then s else s.dropLine c l
/-- Discard every clean byte of a core's cache (13 R282). -/
def State.discardClean (s : State) (c : Nat) : State :=
  s.updCore c (fun k => { k with
    cache := (k.cache.map (fun x => { x with bytes := x.bytes.filter (·.dirty) })).filter (fun x => !x.bytes.isEmpty) })
/-- Drop a core's copies of a range (13 R286). -/
def State.dropRange (s : State) (c pa n : Nat) : State :=
  s.updCore c (fun k => { k with
    cache := (k.cache.map (fun x => { x with
      bytes := x.bytes.filter (fun b => !(pa ≤ x.line * 256 + b.off && x.line * 256 + b.off < pa + n)) })).filter (fun x => !x.bytes.isEmpty) })

/-- The line that leaves a full cache: by replacement mark, then least recent use (06 R122). -/
def Core.victim (c : Core) : Option Nat :=
  match c.cache.find? (fun x => x.mark == 1) with
  | some x => some x.line
  | none => match c.cache.find? (fun x => x.mark == 0) with
    | some x => some x.line
    | none => c.cache.head?.map (·.line)

/-- Whether line `l` has a place in core `c`: it is there, a place is free, or the line that leaves is clean or may be written back
(06 R122, 19 R399). -/
def State.roomFor (s : State) (c l : Nat) : Bool :=
  ((s.core c).line? l).isSome || decide ((s.core c).cache.length < (s.core c).capacity) ||
  (match (s.core c).victim with
    | some v => !s.dirtyIn c (fun x => x.line == v) || s.meterOk c (256 * v)
    | none => true)

/-- Make room for line `l` in core `c` and list it as most recently used, with its mark. -/
def State.touchLine (s : State) (c l ch : Nat) : State :=
  match (s.core c).line? l with
  | some x => s.updCore c (fun k => { k with cache := k.cache.filter (fun y => y.line != l) ++ [{ x with mark := ch }] })
  | none =>
    let s : State := if (s.core c).cache.length < (s.core c).capacity then s
      else match (s.core c).victim with
        | some v => s.evictLine c v
        | none => s
    s.updCore c (fun k => { k with cache := k.cache ++ [{ line := l, bank := k.placeBank l, mark := ch, bytes := [], poison := [] }] })

def State.updLine (s : State) (c l : Nat) (f : CLine → CLine) : State :=
  s.updCore c (fun k => { k with cache := k.cache.map (fun x => if x.line == l then f x else x) })

/-- Fill the missing bytes of the sectors that a range touches (06 R122). -/
def State.fillSectors (s : State) (c pa n : Nat) : State :=
  let lo := pa / 64 * 64
  let hi := roundUp (pa + n) 64
  (List.range (hi - lo)).foldl (fun s i =>
    let a := lo + i
    match (s.core c).cbyte? a with
    | some _ => s
    | none => s.updLine c (lineOf a) (fun x => x.put { off := a % 256, val := cellGet s.mem a, dirty := false, writer := 0, rel := s.relsIn a 1 })) s

/-- The bytes of a range as core `c` sees them, and their release marks. -/
def State.coreBytes (s : State) (c pa n : Nat) : Nat × List RelTag :=
  let bs := (List.range n).map (fun i =>
    match (s.core c).cbyte? (pa + i) with
    | some b => (b.val, b.rel)
    | none => (cellGet s.mem (pa + i), s.relsIn (pa + i) 1))
  (leNat (bs.map (·.1)), tagSet (bs.flatMap (·.2)))

/-- A CACHED load below PAIR scope (13 R276, 06 R122): the value, its marks and the cache after it. -/
def State.cacheLoad (s : State) (c pa n ch : Nat) : (Nat × List RelTag) × State :=
  if !(s.core c).hasCache then ((s.homeRead pa n, s.relsIn pa n), s)
  else if ch == 3 then (s.coreBytes c pa n, s)
  else
    let s : State := (s.touchLine c (lineOf pa) ch).fillSectors c pa n
    (s.coreBytes c pa n, s)

/-- The words of a range lose their poison in the line that core `c` holds: they have been written whole (18 R380). -/
def State.healLine (s : State) (c pa n : Nat) : State :=
  s.updLine c (lineOf pa) (fun x => { x with poison := x.poison.filter (fun k => !(pa ≤ x.line * 256 + 8 * k && x.line * 256 + 8 * k + 8 ≤ pa + n)) })

/-- Core `c`'s copies of the aligned 4-byte units that a range touches, as their home now holds them: the bytes of the range, which
have just been read or written there, and the clean bytes beside them (13 R276, R281, 04 R90). -/
def State.refreshCopy (s : State) (c pa n : Nat) : State :=
  let lo := pa / 4 * 4
  (List.range (roundUp (pa + n) 4 - lo)).foldl (fun s i =>
    let a := lo + i
    match (s.core c).cbyte? a with
    | none => s
    | some b =>
      if b.dirty && !(decide (pa ≤ a) && decide (a < pa + n)) then s
      else s.updLine c (lineOf a) (fun x => x.put { off := a % 256, val := cellGet s.mem a, dirty := false, writer := 0, rel := s.relsIn a 1 })) s

/-- A CACHED store below PAIR scope (06 R122). -/
def State.cacheStore (s : State) (c pa : Nat) (bs : List Byte) (ch writer : Nat) (ts : List RelTag) : State :=
  if !(s.core c).hasCache then s.homeStore pa bs writer ts
  else if ch == 3 then ((s.homeStore pa bs writer ts).refreshCopy c pa bs.length).healLine c pa bs.length
  else
    ((List.range bs.length).foldl (fun s i =>
      s.updLine c (lineOf (pa + i)) (fun x =>
        x.put { off := (pa + i) % 256, val := bs.getD i 0, dirty := true, writer := writer, rel := ts }))
      (s.touchLine c (lineOf pa) ch)).healLine c pa bs.length

/-- Promotion met by a read at PAIR, DEVICE or SYSTEM scope from core `d` (13 R284); `d` is none for the host and peers. -/
def State.promoteFor (s : State) (pa n : Nat) (d : Option Nat) : State :=
  if n == 0 then s
  else
    (dedup [lineOf pa, lineOf (pa + n - 1)]).foldl (fun s l =>
      match s.promo.find? (fun e => e.1 == l && some e.2.1 != d) with
      | some e => s.promote l e.2.1 e.2.2
      | none => s) s

/-- The same for a range of any length, read by the host side. -/
def State.promoteRange (s : State) (pa n : Nat) : State :=
  if n == 0 then s
  else (List.range ((pa + n - 1) / 256 - pa / 256 + 1)).foldl (fun s j => s.promoteFor (256 * (pa / 256 + j)) 1 none) s

/-! ### Ticks of the meters -/

/-- The budget that a METCLS value gives: 1 to 255 act as 256 (19 R400). -/
def meterBudget (v : Nat) : Nat := if v == 0 then 0 else max 256 v

/-- One tick at every arbiter (19 R399). -/
def State.meterTick (s : State) : State :=
  { s with cores := mapFrom (fun i k =>
      let cls := (s.regs.metcls.getD (s.die (dieOf i)).opclass 0).toNat
      let h := meterBudget (bits cls 31 0)
      let f := meterBudget (bits cls 63 32)
      let step (e : Nat × Int) : Nat × Int :=
        let b : Int := if e.1 < 128 then h else f
        (e.1, min b (min e.2 b + b))
      { k with hsb := h, fmb := f,
               meter := (k.meter.map step).filter (fun e => e.2 != ((if e.1 < 128 then h else f : Nat) : Int)) }) 0 s.cores }

end Sys2Proof.Machine
end

