-- ==== Sys2Proof/Machine/Translate.lean ====
section
/-! DEFINITION. Page tables, TLBs, walks (04 R76 to R87), and the checks of a translating instruction: alignment, canonical
form, permission, memory type, translation faults (04 R85, R88, 06 R124). -/

namespace Sys2Proof.Machine

/-! ### Walks -/

/-- What a walk gives: a translation, a reason and level (04 R88), or the index of an uncorrectable word that it met (18 R380). -/
inductive Walk where
  | ok (e : TlbEntry)
  | fault (reason level : Nat)
  | bad (word : Nat)
  deriving DecidableEq, Repr

def xNOTVALID : Nat := 1
def xMALFORMED : Nat := 2
def xABSENT : Nat := 3
def xASINVALID : Nat := 4

def mtypeOf (code : Nat) : MType :=
  match code % 4 with
  | 0 => .cached
  | 1 => .homeonly
  | 2 => .host
  | _ => .io

/-- Whether a leaf's type agrees with its physical range (04 R74). -/
def typeAgrees (r : Region) (t : MType) : Bool :=
  match r with
  | .near => t == .cached || t == .homeonly
  | .far => t == .cached || t == .homeonly
  | .host => t == .host
  | .io => t == .io
  | .hole => true

/-- log2 of the page that a leaf at a level maps (04 R78). -/
def leafLog2 (level : Nat) (sz64 : Bool) : Nat :=
  match level with
  | 2 => 30
  | 1 => 21
  | _ => if sz64 then 16 else 12

/-- Where a walk goes from one entry: to a level and its table, or to its end. -/
inductive WalkStep where
  | go (level table : Nat)
  | done (w : Walk)
  deriving DecidableEq, Repr

/-- What the address-space table entry `e` says (04 R77). -/
def State.rootEntry (s : State) (e : Nat) : WalkStep :=
  let root := bits e 51 20 * 2 ^ 20
  if !bit e 63 then .done (.fault xASINVALID 4)
  else if bits e 62 52 != 0 || bits e 19 0 != 0 || !s.isDev root then .done (.fault xMALFORMED 4)
  else .go 3 root

/-- What the page-table entry `e` at a level says of an address (04 R78, R79). -/
def State.tableEntry (s : State) (asn : BitVec 12) (va level e : Nat) : WalkStep :=
  let leaf := bit e 4
  let sz64 := bit e 5
  let pa := bits e 51 12 * 4096
  let typ := mtypeOf (bits e 59 58)
  if !bit e 0 then .done (.fault xNOTVALID level)
  else if bits e 63 60 != 0 || bits e 57 52 != 0 || bits e 7 6 != 0 || (leaf && level == 3) || (!leaf && level == 0) ||
      (sz64 && (level != 0 || !leaf)) then .done (.fault xMALFORMED level)
  else if !leaf then
    if bits e 59 58 != 0 || bits e 3 1 != 0 || !s.isDev pa then .done (.fault xMALFORMED level) else .go (level - 1) pa
  else
    let k := leafLog2 level sz64
    if pa % 2 ^ k != 0 || !typeAgrees (s.region pa) typ then .done (.fault xMALFORMED level)
    else if s.region pa == .hole then .done (.fault xABSENT level)
    else .done (.ok { asn := asn, page := (va % 2 ^ 56) / 2 ^ k, log2 := k, pa := pa, mtype := typ, perms := BitVec.ofNat 3 (bits e 3 1) })

/-- The address of the entry that a walk reads at a level: 8 bytes at the home slice, past the core banks (04 R77, R78, R83). An ASTBASE
outside the near and far tiers, which 04 R86 leaves open, is read where it points (log entry 16, DESIGN CHOICE). -/
def entryAt (asn : BitVec 12) (va level table : Nat) : Nat :=
  table + 8 * (if level == 4 then asn.toNat else if level == 3 then bits va 55 39 else bits va (20 + 9 * level) (12 + 9 * level))

/-- One read of a walk (04 R83). -/
def State.walkRead (s : State) (asn : BitVec 12) (va level table : Nat) : WalkStep :=
  let a := entryAt asn va level table
  let e := s.homeRead a 8
  if s.poisoned a 8 then .done (.bad (a / 8))
  else if level == 4 then s.rootEntry e
  else s.tableEntry asn va level e

/-- `n` more reads of a walk. -/
def State.walkGo (s : State) (asn : BitVec 12) (va : Nat) : Nat → Nat → Nat → WalkStep
  | 0, level, table => .go level table
  | n + 1, level, table =>
    match s.walkRead asn va level table with
    | .go level table => s.walkGo asn va n level table
    | x => x

/-- Where a walk starts: the address-space table (04 R77, R86). -/
def State.walkStart (s : State) : Nat × Nat := (4, bits s.regs.astbase.toNat 51 15 * 2 ^ 15)

/-- A whole walk: the address-space table entry, then four levels (04 R77, R78, R83); level 0 holds no pointer. -/
def State.walk (s : State) (asn : BitVec 12) (va : Nat) : Walk :=
  match s.walkGo asn va 5 4 (s.walkStart).2 with
  | .done w => w
  | .go level _ => .fault xMALFORMED level

/-! ### TLBs -/

def TlbEntry.covers (e : TlbEntry) (asn : BitVec 12) (va : Nat) : Bool := e.asn == asn && e.page == (va % 2 ^ 56) / 2 ^ e.log2

/-- The translation of one address: its physical address, type, permissions, and log2 of the page that holds it. -/
structure Xlat where
  pa : Nat
  mtype : MType
  perms : BitVec 3
  log2 : Nat := 12
  deriving DecidableEq, Repr

def TlbEntry.at (e : TlbEntry) (va : Nat) : Xlat := { pa := e.pa + va % 2 ^ e.log2, mtype := e.mtype, perms := e.perms, log2 := e.log2 }

/-- Put a translation into a first-level TLB of 64 entries, any of which may hold it; the oldest leaves (04 R82). -/
def tlbPut (l : List TlbEntry) (e : TlbEntry) : List TlbEntry :=
  if l.elem e then l else (if l.length < 64 then l else l.drop 1) ++ [e]

/-- The set of the shared TLB, one of 1,024, that holds a translation. -/
def TlbEntry.set (e : TlbEntry) : Nat := Config.tlbSet e.asn.toNat e.page e.log2 % 1024

/-- Put a translation into a shared TLB, 8-way set-associative: the oldest of a full set leaves (04 R82). -/
def tlbPutShared (l : List TlbEntry) (e : TlbEntry) : List TlbEntry :=
  if l.elem e then l
  else if l.length < 8 || decide (l.countP (fun x => x.set == e.set) < 8) then l ++ [e]
  else (match l.findIdx? (fun x => x.set == e.set) with
    | some i => l.eraseIdx i
    | none => l) ++ [e]

/-- Install a translation in the TLBs of a core and its die (04 R82). -/
def State.installTlb (s : State) (core : Nat) (e : TlbEntry) : State :=
  (s.updCore core (fun k => { k with tlb := tlbPut k.tlb e })).updDie (dieOf core) (fun d => { d with tlb := tlbPutShared d.tlb e })

def pageOf (va : Nat) : Nat := (va % 2 ^ 56) / 4096

/-- What a wave knows of an address now. -/
inductive Look where
  | hit (x : Xlat)
  | fault (reason level : Nat)
  | miss
  | bad (word : Nat)
  deriving DecidableEq, Repr

def XEntry.look (e : XEntry) (va : Nat) : Look :=
  match e.bad, e.fault with
  | some w, _ => .bad w
  | none, some (r, l) => .fault r l
  | none, none => .hit { pa := e.pa + va % 2 ^ e.log2, mtype := e.mtype, perms := e.perms, log2 := e.log2 }

/-- The XEntry that a walk leaves for a page. -/
def Walk.entry (asn : BitVec 12) (page : Nat) : Walk → XEntry
  | .ok e => { asn := asn, page := page, fault := none, pa := e.pa, mtype := e.mtype, perms := e.perms, log2 := e.log2 }
  | .fault r l => { asn := asn, page := page, fault := some (r, l), pa := 0, mtype := .cached, perms := 0, log2 := 12 }
  | .bad w => { asn := asn, page := page, fault := none, pa := 0, mtype := .cached, perms := 0, log2 := 12, bad := some w }

/-- Look an address up: the walks kept for the instruction, the first-level TLB, the shared TLB (04 R82, R85). -/
def State.look (s : State) (xl : List XEntry) (core : Nat) (asn : BitVec 12) (va : Nat) : Look :=
  match xl.find? (fun e => e.asn == asn && e.page == pageOf va) with
  | some e => e.look va
  | none =>
    match (s.core core).tlb.find? (fun e => e.covers asn va) with
    | some e => .hit (e.at va)
    | none =>
      match (s.die (dieOf core)).tlb.find? (fun e => e.covers asn va) with
      | some e => .hit (e.at va)
      | none => .miss

/-- A shared-TLB hit also fills the first-level TLB. -/
def State.refill (s : State) (core : Nat) (asn : BitVec 12) (va : Nat) : State :=
  if (s.core core).tlb.any (fun e => e.covers asn va) then s
  else match (s.die (dieOf core)).tlb.find? (fun e => e.covers asn va) with
    | some e => s.updCore core (fun k => { k with tlb := tlbPut k.tlb e })
    | none => s

/-- The queued misses of a core (04 R84). -/
def Die.share (d : Die) (core : Nat) : Nat := (d.missq.filter (fun m => m.core == core)).length

/-- Queue a miss, or join the queued miss or the walk of its page: 8,192 entries, at most 256 of one core (04 R84). -/
def State.queueAs (s : State) (core : Nat) (asn : BitVec 12) (page : Nat) (join : Miss → Miss) : State :=
  s.updDie (dieOf core) (fun d =>
    let same (m : Miss) : Bool := m.asn == asn && m.page == page
    if d.missq.any same then { d with missq := updFirst same join d.missq }
    else if d.walks.any same then { d with walks := updFirst same join d.walks }
    else if d.missq.length < 8192 && d.share core < 256 then
      { d with missq := d.missq ++ [join { core := core, asn := asn, page := page, waiters := [] }] }
    else d)

/-- Whether a miss of a page is queued or walking on a core's die. -/
def State.missing? (s : State) (core : Nat) (asn : BitVec 12) (page : Nat) : Bool :=
  let d := s.die (dieOf core)
  (d.missq ++ d.walks).any (fun m => m.asn == asn && m.page == page)

/-- Queue a miss of a wave (04 R84). -/
def State.queueMiss (s : State) (r : WaveRef) (core : Nat) (asn : BitVec 12) (page : Nat) : State :=
  s.queueAs core asn page (fun m => if m.waiters.elem r then m else { m with waiters := m.waiters ++ [r] })
/-- Queue a miss of an engine. -/
def State.queueEngine (s : State) (e : Engine) (core : Nat) (asn : BitVec 12) (page : Nat) : State :=
  s.queueAs core asn page (fun m => if m.engines.elem e then m else { m with engines := m.engines ++ [e] })

/-- Whether a core may issue no instruction that translates: its share of the miss queue is full (04 R84). -/
def State.shareFull (s : State) (core : Nat) : Bool := decide ((s.die (dieOf core)).share core ≥ 256)

/-- The entry cannot issue and no other entry of its wave may issue in its place: this is no case of 14 R299. -/
def State.blockWave (s : State) : State := { s with cur := { s.cur with blocked := true, whole := true } }

/-- Wait for the walks of pages: the misses are queued, and the wave is parked on those that have a place (04 R84, R85). -/
def State.waitWalks (s : State) (asn : BitVec 12) (pages : List Nat) : State :=
  let core := s.curWave.core
  let s : State := pages.foldl (fun s p => s.queueMiss s.curRef core asn p) s
  let queued := pages.filter (s.missing? core asn)
  if queued.isEmpty then s.blockWave
  else s.updCur (fun w => { w with park := .walk (match w.park with | .walk ps => dedup (ps ++ queued) | _ => queued) })

/-- Translate an address for the macro, DRAIN or PREF of the current wave: a miss is queued and the wave waits for its walk
(04 R84, R85); `orWait` then takes back what the instruction has done in this step. -/
def State.engineXlate (s : State) (core : Nat) (asn : BitVec 12) (va : Nat) : Look × State :=
  match s.look s.curWave.xl core asn va with
  | .hit x => (.hit x, s.refill core asn va)
  | .miss => (.miss, s.waitWalks asn [pageOf va])
  | x => (x, s)

/-- Translate an address for a unit that waits for its walks apart from any wave's issue: a copy command, a stream (04 R84, 05 R96). `xl`:
the walks it keeps. -/
def State.unitXlate (s : State) (e : Engine) (xl : List XEntry) (core : Nat) (asn : BitVec 12) (va : Nat) : Look × State :=
  match s.look xl core asn va with
  | .hit x => (.hit x, s.refill core asn va)
  | .miss => (.miss, s.queueEngine e core asn (pageOf va))
  | x => (x, s)

/-- Translate an address for what no wave waits with: the Warren and the commit of statistics walk within their step (log entry 16). -/
def State.warrenXlate (s : State) (core : Nat) (asn : BitVec 12) (va : Nat) : Look × State :=
  match s.look [] core asn va with
  | .hit x => (.hit x, s.refill core asn va)
  | .miss =>
    match s.walk asn va with
    | .ok e => (.hit (e.at va), s.installTlb core e)
    | .fault r l => (.fault r l, s)
    | .bad w => (.bad w, s)
  | x => (x, s)

/-- Whether the current wave waits for a walk. -/
def Wave.onWalk (w : Wave) : Bool := match w.park with | .walk _ => true | _ => false

/-- A step of an instruction that may meet misses: when it does, nothing of it stays but the queued misses and the wait; otherwise the
walks kept for it have served. -/
def State.orWait (before after : State) : State :=
  if after.curWave.onWalk then ({ before with dies := after.dies } : State).updCur (fun w => { w with park := after.curWave.park })
  else if after.cur.whole then { before with cur := after.cur }
  else after.updCur (fun w => { w with xl := [] })

/-! ### Reasons and access kinds -/

def pNONCANON : Nat := 1
def pNOREAD : Nat := 2
def pNOWRITE : Nat := 3
def pNOEXEC : Nat := 4
def pTYPE : Nat := 5
def pLOCAL : Nat := 6
def pBANKCFG : Nat := 7
def pBANKBUSY : Nat := 8
def pBANKMODE : Nat := 9
def pSLOT : Nat := 10

/-- The permissions that an access needs (04 R81). -/
structure Need where
  rd : Bool
  wr : Bool
  ex : Bool
  deriving DecidableEq, Repr

def Need.nothing : Need := { rd := false, wr := false, ex := false }
def Need.read : Need := { rd := true, wr := false, ex := false }
def Need.write : Need := { rd := false, wr := true, ex := false }
def Need.rw : Need := { rd := true, wr := true, ex := false }
def Need.exec : Need := { rd := false, wr := false, ex := true }

/-- The PROTECT reason that a translation meets, if any: missing permission, then a forbidden type. -/
def Need.fails (n : Need) (typeOk : MType → Bool) (x : Xlat) : Option Nat :=
  if n.rd && !x.perms.getLsbD 0 then some pNOREAD
  else if n.wr && !x.perms.getLsbD 1 then some pNOWRITE
  else if n.ex && !x.perms.getLsbD 2 then some pNOEXEC
  else if !typeOk x.mtype then some pTYPE
  else none

/-- One address an instruction translates: its lane and the exact address. -/
structure Req where
  lane : Nat
  va : Int
  deriving DecidableEq, Repr

/-- An exact address in the 64-bit space and canonical (04 R76). -/
def vaOk (x : Int) : Bool := decide (0 ≤ x) && decide (x < (2 ^ 64 : Nat)) && canonical x.toNat

/-- What the checks of a translating instruction answer: stopped (trapped, parked or waiting) or every translation. -/
inductive Check where
  | stop (s : State)
  | ok (s : State) (xs : List Xlat)

/-- The XLATE trap of a fault (18 R379). -/
def xlateTrap (reason level kind va : Nat) : TrapInfo := mkTrapA .xlate (reason + level * 16 + kind * 128) va

/-- Write the XLATE records of an instruction and park its wave (04 R88). `part`: the lanes an ABORT traps. -/
def State.parkFaults (s : State) (part : BitVec 64) (asn : BitVec 12) (kind : Nat) (fs : List (Nat × Nat × Nat)) : State :=
  let t := s.curTeam
  let w := s.curWave
  let pages := dedup (fs.map (fun f => pageOf f.1))
  let firsts := (pages.take 4).filterMap (fun p => fs.find? (fun f => pageOf f.1 == p))
  let s : State := firsts.foldl (fun s f =>
    let (tok, s) := s.takeToken
    let s : State := s.pushRecord 1 (faultRecord tok 1 f.2.1 f.2.2 kind t.launch (recordW1 t w) (BitVec.ofNat 64 f.1) asn.toNat s.cur.pc TrapInfo.none 0)
    s.updCur (fun w => { w with toks := w.toks ++ [{ token := tok, outcome := 0, reason := f.2.1, level := f.2.2, kind := kind, va := BitVec.ofNat 64 f.1 }] })) s
  s.updCur (fun w => { w with park := .faults part s.cur.pc, prog := none, xl := [] })

/-- The checks of R85, in its order, for the lanes' addresses: alignment to 2^`align`, canonical form, then (once every
translation is known) permission and type, then translation faults. `part`: the lanes that a trap or an ABORT takes; `mk`: the
trap of a missing permission or a forbidden type. -/
def State.memCheckAs (s : State) (asn : BitVec 12) (i : Instr) (h : Hdr) (part : BitVec 64) (reqs : List Req) (align : Nat) (need : Need)
    (kind : Nat) (typeOk : MType → Bool) (mk : Nat → Nat → TrapInfo := mkTrapA .protect) : Check :=
  let core := s.curWave.core
  let xl := s.curWave.xl
  match reqs.find? (fun r => r.va % ((2 ^ align : Nat) : Int) != 0) with
  | some r => .stop (s.trapLanes h part (mkTrapA .align align (wrap 64 r.va)))
  | none =>
    match reqs.find? (fun r => !vaOk r.va) with
    | some r => .stop (s.trapLanes h part (mkTrapA .protect pNONCANON (wrap 64 r.va)))
    | none =>
      let looks := reqs.map (fun r => (r.va.toNat, s.look xl core asn r.va.toNat))
      let misses := dedup ((looks.filter (fun p => p.2 == .miss)).map (fun p => pageOf p.1))
      if !reqs.isEmpty && kind != 3 && s.curWave.prog.isNone && s.shareFull core then .stop s.blockWave
      else if !misses.isEmpty then
        let t : State := s.waitWalks asn misses
        .stop (if t.cur.blocked then t else t.hold i)
      else
        match looks.findSome? (fun p => match p.2 with
            | .hit x => (need.fails typeOk x).map (fun r => (p.1, r))
            | _ => none) with
        | some (va, r) => .stop (s.trapLanes h part (mk r va))
        | none =>
          match looks.findSome? (fun p => match p.2 with | .bad w => some w | _ => none) with
          | some w => .stop (s.hwerrIn h part 6 w)
          | none =>
            let faults := looks.filterMap (fun p => match p.2 with
              | .fault r l => some (p.1, r, l)
              | _ => none)
            if !faults.isEmpty then .stop (s.parkFaults part asn kind faults)
            else
              .ok (reqs.foldl (fun s r => s.refill core asn r.va.toNat) s)
                (looks.filterMap (fun p => match p.2 with
                  | .hit x => some x
                  | _ => none))

/-- The same in the address space of the current launch. -/
def State.memCheck (s : State) (i : Instr) (h : Hdr) (part : BitVec 64) (reqs : List Req) (align : Nat) (need : Need) (kind : Nat)
    (typeOk : MType → Bool) (mk : Nat → Nat → TrapInfo := mkTrapA .protect) : Check :=
  s.memCheckAs s.curAsn i h part reqs align need kind typeOk mk

/-! ### Invalidation -/

/-- Whether a page of 2^`log2` bytes numbered `page` meets the range of a TLBICMD value (04 R86, R87). A TLBIVA that is not canonical and
a range past 2^56, which the spec leaves open, are taken without TLBIVA[63:56] and without wrapping (log entry 16, DESIGN CHOICE). -/
def tlbiHits (cmd tlbiva : Word) (asn : BitVec 12) (page log2 : Nat) : Bool :=
  let first := bits tlbiva.toNat 55 12 * 4096
  let n := bits cmd.toNat 31 0
  bits cmd.toNat 63 52 == asn.toNat && (n == 0 || (decide (page * 2 ^ log2 < first + n * 4096) && decide (first < (page + 1) * 2 ^ log2)))

end Sys2Proof.Machine
end

