-- ==== Sys2Proof/Machine/Panel.lean ====
section
/-! DEFINITION. Reservation records and their areas (10 R203 to R207), the elements of a panel (10 R205, R215), and the tiles of a
team (10 R209). -/

namespace Sys2Proof.Machine

/-! ### Reservation records -/

/-- The fields of a reservation record (10 R203). -/
structure Panel where
  kext : Nat
  itype : Nat
  tr : Bool
  axis : Bool
  blk : Nat
  sfmt : Nat
  asc : Bool
  spb : Bool
  base : Nat
  spoff : Nat
  scoff : Nat
  desc : Nat
  sdesc : Nat
  deriving DecidableEq, Repr

def panelOf (r : Nat) : Panel :=
  { kext := bits r 8 0, itype := bits r 12 9, tr := bit r 13, axis := bit r 14, blk := bits r 16 15, sfmt := bits r 18 17,
    asc := bit r 19, spb := bit r 20, base := bits r 38 27 * 256, spoff := bits r 50 39 * 256, scoff := bits r 62 51 * 256,
    desc := bits r 127 96, sdesc := bits r 95 64 }

/-- Element bits by ITYPE; a ternary byte holds five (10 R203). -/
def Panel.ebits (p : Panel) : Nat :=
  match p.itype with
  | 0 => 16 | 1 => 16 | 2 => 8 | 3 => 8 | 4 => 8 | 5 => 4 | 6 => 4 | 7 => 4
  | _ => 8
def Panel.kmax (p : Panel) : Nat := if p.itype ≤ 1 then 32 else if p.itype ≤ 4 then 64 else if p.itype ≤ 7 then 128 else 320
/-- The bitmap grain (10 R203). -/
def Panel.grain (p : Panel) : Nat := if p.itype ≤ 4 then 1 else if p.itype ≤ 7 then 2 else 5
def Panel.ternary (p : Panel) : Bool := p.itype == 8
def Panel.isNf (p : Panel) : Bool := p.itype == 4 || p.itype == 7
def Panel.isInt (p : Panel) : Bool := p.itype == 2 || p.itype == 3 || p.itype == 5 || p.itype == 6 || p.itype == 8
/-- The dense tile type: 0 F32, 1 I32 (10 R203). -/
def Panel.tileType (p : Panel) : Nat := if p.isInt && p.blk == 0 then 1 else 0
/-- Block length. -/
def Panel.blen (p : Panel) : Nat := 8 * 2 ^ p.blk
/-- Bytes of a scale. -/
def Panel.sbytes (p : Panel) : Nat := if p.sfmt == 1 then 2 else 1
/-- Bytes of one column under TR = 0 (10 R205). -/
def Panel.colBytes (p : Panel) : Nat := if p.ternary then p.kext / 5 else p.kext * p.ebits / 8
/-- P of 10 R204. -/
def Panel.bytes (p : Panel) : Nat := 64 * p.colBytes
def Panel.bitmapBytes (p : Panel) : Nat := if p.spb then 512 else 0
/-- Scales of one row of the scale area, in bytes. -/
def Panel.scaleRow (p : Panel) : Nat := if p.blk == 0 then 0 else p.kext / p.blen * p.sbytes
def Panel.scaleBytes (p : Panel) : Nat := 64 * p.scaleRow
/-- The extent of a reservation: its three areas, each rounded up to 256 bytes (10 R204). -/
def Panel.extent (p : Panel) : Nat := roundUp p.bytes 256 + roundUp p.bitmapBytes 256 + roundUp p.scaleBytes 256

/-- A descriptor that a matrix instruction refuses: invalid, or SPEC 2 without mantissa bits (07 R146). -/
def nfRefused (d : Nat) : Bool := !(nfDesc d).valid || ((nfDesc d).spec == 2 && (nfDesc d).m == 0)

/-- The DESC checks of OBRES on the record bits and the registers sE to sE+3 (10 R204). -/
def Panel.badDesc (p : Panel) (e0 e1 e2 e3 : Nat) : Bool :=
  decide (p.itype > 8) || p.kext % (if p.ternary then 40 else 8) != 0 || decide (p.kext < 8) || decide (p.kext > p.kmax) ||
  bits e0 31 21 != 0 || e1 != 0 || e2 != 0 || e3 != 0 ||
  (if p.isNf then nfRefused p.desc || decide ((nfDesc p.desc).n > p.ebits) else p.desc != 0) ||
  (p.blk != 0 && decide (p.itype ≤ 1)) || (p.blk != 0 && p.kext % p.blen != 0) || p.sfmt == 3 ||
  (if p.sfmt == 2 then nfRefused p.sdesc else p.sdesc != 0) || (p.asc && p.blk == 0) || (p.tr && p.ternary)

/-- The reservation in a slot of a team's side, if it holds one. -/
def Side.panel? (d : Side) (slot : Nat) : Option Panel :=
  let r := (d.slots.getD slot 0).toNat
  if bit r 63 then some (panelOf r) else none

/-- The areas of a reservation as one number: panel, bitmap and scales at their offsets from BASE. -/
def Side.areas (d : Side) (p : Panel) : Nat := cellRead d.obuf p.base p.extent

/-- The ranges of the allocation that reservations hold. -/
def Side.taken (d : Side) : List (Nat × Nat) :=
  (List.range 16).filterMap (fun k => (d.panel? k).map (fun p => (p.base, p.extent)))

/-- The lowest offset of a free range of `n` bytes in an allocation (10 R204). -/
def Side.place (d : Side) (alloc n : Nat) : Option Nat :=
  let free (a : Nat) : Bool := decide (a + n ≤ alloc) && d.taken.all (fun r => decide (a + n ≤ r.1) || decide (r.1 + r.2 ≤ a))
  let starts := sortBy (fun a b => decide (a < b)) (0 :: d.taken.map (fun r => r.1 + r.2))
  starts.find? free

/-- Bytes of a team's operand-buffer allocation (10 R201). -/
def Team.obufAlloc (t : Team) : Nat := roundUp t.obufBytes 4096

/-! ### Elements -/

/-- An element's value: exact value, and whether it is a signalling NaN (10 R215). -/
def Panel.elem (p : Panel) (fzi : Bool) (code : Nat) : Val × Bool :=
  let fl (f : Fmt) : Val × Bool :=
    let v := fdecode f (flushIn f fzi (code % 2 ^ 16))
    (v, v.isSNaN)
  match p.itype with
  | 0 => fl .f16
  | 1 => fl .bf16
  | 2 => (.ofInt (toSigned 8 code), false)
  | 3 => (.ofInt (code % 256 : Nat), false)
  | 5 => (.ofInt (toSigned 4 code), false)
  | 6 => (.ofInt (code % 16 : Nat), false)
  | 8 => (.zero, false)
  | _ => (nfDecode (nfDesc p.desc) code, false)

/-- The K elements of a packed column, from its bits, and BADCODE (10 R205, R208). -/
def Panel.column (p : Panel) (fzi : Bool) (x : Nat) : List (Val × Bool) × Bool :=
  if p.ternary then
    let bs := (List.range (p.kext / 5)).map (fun i => triDecode (x / 256 ^ i % 256))
    (bs.flatMap (fun b => b.1.map (fun v => (Val.ofInt v, false))), bs.any (·.2))
  else ((List.range p.kext).map (fun k => p.elem fzi (x / 2 ^ (k * p.ebits) % 2 ^ p.ebits)), false)

/-- Column `n` of a stored panel `x` (10 R205). -/
def Panel.storedColumn (p : Panel) (fzi : Bool) (x n : Nat) : List (Val × Bool) × Bool :=
  if p.tr then ((List.range p.kext).map (fun k => p.elem fzi (x / 2 ^ ((64 * k + n) * p.ebits) % 2 ^ p.ebits)), false)
  else p.column fzi (x / 256 ^ (n * p.colBytes) % 256 ^ p.colBytes)

/-- A scale's value, from its code (07 R150). -/
def Panel.scale (p : Panel) (code : Nat) : Val :=
  match p.sfmt with
  | 0 => e8Decode code
  | 1 => fdecode .f16 code
  | _ => nfDecode (nfDesc p.sdesc) code
/-- Scale `j` of a packed row of scales. -/
def Panel.scaleAt (p : Panel) (row j : Nat) : Val := p.scale (row / 256 ^ (j * p.sbytes) % 256 ^ p.sbytes)

/-! ### Tiles -/

/-- Tile types: 0 F32, 1 I32, 2 an exact tile's first position, 3 another position of an exact tile (10 R209). -/
def Side.tileType (d : Side) (n : Nat) : Nat := d.types.getD n 0
/-- A position that an instruction may not name: not held, or inside an exact tile (10 R209). -/
def Team.badTile (t : Team) (d : Side) (n : Nat) : Bool := decide (n ≥ t.tiles) || d.tileType n == 3
/-- Words of an element: 1, or 8 for an exact tile. -/
def elemWords (ty : Nat) : Nat := if ty == 2 then 8 else 1
/-- The word of element `e` of a tile. -/
def tileWord (n ty e : Nat) : Nat := 4096 * n + elemWords ty * e
/-- Element `e` (64 i + j) of a tile of type `ty` at position `n`, as its bits. -/
def Side.elemAt (d : Side) (n ty e : Nat) : Nat :=
  (List.range (elemWords ty)).foldl (fun a k => a + (cellGet d.acc (tileWord n ty e + k)).toNat * 2 ^ (32 * k)) 0
/-- The 64 elements of row `i` of a tile. -/
def Side.tileRow (d : Side) (n ty i : Nat) : List Nat :=
  let lo := tileWord n ty (64 * i)
  let cs := d.acc.filter (fun c => decide (lo ≤ c.1) && decide (c.1 < lo + 64 * elemWords ty))
  (List.range 64).map (fun j => (List.range (elemWords ty)).foldl (fun a k => a + (cellGet cs (lo + elemWords ty * j + k)).toNat * 2 ^ (32 * k)) 0)
/-- Replace the words of keys [lo, hi) by those of a list in rising order. -/
def cellSplice (m : Cells 32) (lo hi : Nat) (new : Cells 32) : Cells 32 :=
  m.filter (fun c => decide (c.1 < lo)) ++ new ++ m.filter (fun c => decide (hi ≤ c.1))
/-- Put 64 elements into row `i` of a tile. -/
def Side.putRow (d : Side) (n ty i : Nat) (vs : List Nat) : Side :=
  let lo := tileWord n ty (64 * i)
  let w := elemWords ty
  let new : Cells 32 := ((List.range (64 * w)).map (fun k => (lo + k, BitVec.ofNat 32 (vs.getD (k / w) 0 / 2 ^ (32 * (k % w)))))).filter (fun c => c.2 != 0)
  { d with acc := cellSplice d.acc lo (lo + 64 * w) new }
/-- Remove the words of some tile positions. -/
def Side.tileClear (d : Side) (n cnt : Nat) : Side := { d with acc := cellSplice d.acc (4096 * n) (4096 * (n + cnt)) [] }

/-- The first position of the exact tile that a position lies in. -/
def exactStart (n : Nat) : Nat := n / 8 * 8

/-- The tile types after an ACCZ (10 R209). -/
def Side.zeroTypes (d : Side) (n ty : Nat) : List Nat :=
  let e := exactStart n
  let ts := if d.tileType e == 2 then mapFrom (fun i x => if e ≤ i && i < e + 8 then 0 else x) 0 d.types else d.types
  mapFrom (fun i x => if i == n then ty else if ty == 2 && n < i && i < n + 8 then 3 else x) 0 ts
/-- The positions that an ACCZ sets to zero: first and number (10 R209). -/
def Side.zeroSpan (d : Side) (n ty : Nat) : Nat × Nat :=
  if ty == 2 || d.tileType (exactStart n) == 2 then (exactStart n, 8) else (n, 1)

end Sys2Proof.Machine
end

