-- ==== Sys2Proof/Machine/CopyBase.lean ====
section
/-! DEFINITION. Tags, Holly entries and accepted copy commands (05 R93, R96, R97, R105, R108 to R110, R114), and where the
parts of a context image lie (18 R397). -/

namespace Sys2Proof.Machine

/-! ### The context image's places -/

def waveBlockBytes (width vregs : Nat) : Nat := roundUp (0x600 + 64 * width + 4 * width * vregs) 256
def coresOf (pair : Bool) : Nat := if pair then 2 else 1
/-- The number of waves that an image's header names. -/
def State.imageWaves (s : State) (base : Nat) : Nat := bits (s.homeRead (base + 0x00C) 4) 15 8
def imageScratchOff (b : Block) (waves : Nat) : Nat := 0xA00 + waves * waveBlockBytes b.width b.vregs
def imageObufOff (b : Block) (waves : Nat) : Nat := imageScratchOff b waves + coresOf b.pair * roundUp b.scratch 4096
def imageTilesOff (b : Block) (waves : Nat) : Nat := imageObufOff b waves + coresOf b.pair * roundUp b.obuf 4096
/-- Bytes of an image (18 R397). -/
def imageSize (b : Block) (waves : Nat) : Nat := imageTilesOff b waves + coresOf b.pair * (b.tiles * 16384)
/-- The held image of a saved team. -/
def State.image? (s : State) (uid : Nat) : Option Image := s.images.find? (fun i => i.team == uid)

/-! ### Team records (17 R364) -/

/-- The maximal runs of a set of map indices, sorted (17 R364): start and length. -/
def runsOf (ks : List Nat) : List (Nat × Nat) :=
  (sortBy (fun a b => decide (a < b)) (dedup ks)).foldl (fun (acc : List (Nat × Nat)) k =>
    match acc.getLast? with
    | some (a, n) => if a + n == k then acc.dropLast ++ [(a, n + 1)] else acc ++ [(k, 1)]
    | none => [(k, 1)]) []

/-- A team record of 512 bytes (17 R364). -/
def teamRecord (valid always : Bool) (ks : List Nat) : Nat :=
  let runs := runsOf ks
  let many := decide (runs.length > 32)
  let runs := if many then [] else runs
  b2n valid + 2 * b2n (always || many) + runs.length * 2 ^ 8 +
    (List.range runs.length).foldl (fun a i => let r := runs.getD i (0, 0); a + (r.1 % 2 ^ 32 + r.2 % 2 ^ 32 * 2 ^ 32) * 2 ^ (256 + 64 * i)) 0

def runOrder : List (Nat × Nat) → Bool
  | (a, n) :: (b, m) :: r => decide (a + n < b) && runOrder ((b, m) :: r)
  | _ => true

/-- A team record's ALWAYS and runs; none when it reads as VALID = 0 (17 R364). `g`: granules of the set. -/
def readTeamRecord (g r : Nat) : Option (Bool × List (Nat × Nat)) :=
  let n := bits r 15 8
  let run (i : Nat) : Nat × Nat := (bits r (64 * i + 287) (64 * i + 256), bits r (64 * i + 319) (64 * i + 288))
  let runs := (List.range n).map run
  if !bit r 0 || bits r 7 2 != 0 || bits r 255 16 != 0 || bits r 4095 2304 != 0 || decide (n > 32) ||
      runs.any (fun q => q.2 == 0 || decide (q.1 + q.2 > g)) || !runOrder runs then none
  else some (bit r 1, runs)

/-! ### Tags -/

/-- The ready bit sets when the tag is armed, not failed and N ≥ E (05 R105). -/
def Tag.check (t : Tag) : Tag := if t.armed && !t.failed && decide (t.e.toNat ≤ t.n.toNat) then { t with ready := true } else t
/-- Count bytes; N holds at 2^40 - 1. -/
def Tag.count (t : Tag) (n : Nat) : Tag := ({ t with n := BitVec.ofNat 40 (min (2 ^ 40 - 1) (t.n.toNat + n)) } : Tag).check

def Team.updTag (t : Team) (k : Nat) (f : Tag → Tag) : Team := { t with tags := listSet t.tags k f }
def Team.tag (t : Team) (k : Nat) : Tag := t.tags.getD k Tag.reset

/-- A tag as 16 bytes of an image (18 R397), and back. -/
def Tag.toImage (t : Tag) : Nat :=
  t.n.toNat + b2n t.armed * 2 ^ 40 + b2n t.failed * 2 ^ 41 + b2n t.ready * 2 ^ 42 + t.e.toNat * 2 ^ 64 + t.reason % 16 * 2 ^ 96
def Tag.ofImage (x : Nat) : Tag :=
  { armed := bit x 40, failed := bit x 41, ready := bit x 42, e := BitVec.ofNat 32 (bits x 95 64), n := BitVec.ofNat 40 x,
    reason := bits x 99 96 }

/-- Change a tag of a team, resident or saved (05 R114). -/
def State.updTagOf (s : State) (uid k : Nat) (f : Tag → Tag) : State :=
  match s.team? uid with
  | some _ => s.updTeam uid (fun t => t.updTag k f)
  | none =>
    match s.image? uid with
    | none => s
    | some i => s.homeWrite (i.base + 0x100 + 16 * k) 16 (f (Tag.ofImage (s.homeRead (i.base + 0x100 + 16 * k) 16))).toImage i.launch []

/-- Count bytes landed against a tag. -/
def State.countTag (s : State) (uid k n : Nat) : State := s.updTagOf uid k (fun t => t.count n)
/-- Mark a tag failed with a reason of 05 R111; an earlier failure keeps its reason. -/
def State.failTag (s : State) (uid k reason : Nat) : State :=
  s.updTagOf uid k (fun t => if t.failed then t else { t with failed := true, reason := reason })

/-! ### Commands and their Holly entries -/

def Core.cmd? (c : Core) (id : Nat) : Option Cmd := c.cmds.find? (fun x => x.id == id)
def State.updCmd (s : State) (core id : Nat) (f : Cmd → Cmd) : State :=
  s.updCore core (fun k => { k with cmds := k.cmds.map (fun x => if x.id == id then f x else x) })

/-- Release Holly entries that pass a test, on every core. -/
def State.releaseHolly (s : State) (p : Holly → Bool) : State :=
  { s with cores := s.cores.map (fun k =>
      if k.holly.any (fun e => match e with | some x => p x | none => false) then
        { k with holly := k.holly.map (fun e => match e with
            | some x => if p x then none else some x
            | none => none) }
      else k) }

/-- Register entries in the lowest free places of a core's table. -/
def hollyPut : List (Option Holly) → List Holly → List (Option Holly)
  | l, [] => l
  | [], _ => []
  | some x :: r, es => some x :: hollyPut r es
  | none :: r, e :: es => some e :: hollyPut r es

def Core.hollyFree (c : Core) : Nat := (c.holly.filter (·.isNone)).length

/-- The teams that a command's tag counts in: the receivers of its pieces. -/
def Cmd.receivers (c : Cmd) : List Nat := dedup ((c.pieces.filter (fun p => !p.absent)).map (·.recv))

/-- A command leaves its engine: its entries are released. -/
def State.dropCmd (s : State) (core id : Nat) : State :=
  (s.releaseHolly (fun e => e.cmd == id)).updCore core (fun k => { k with cmds := k.cmds.filter (fun x => x.id != id) })

/-- A command fails: it moves no byte, releases its entries and marks its tag failed (05 R96). -/
def State.failCmd (s : State) (core : Nat) (c : Cmd) (reason : Nat) : State :=
  let s : State := s.dropCmd core c.id
  let s : State := (if c.receivers.isEmpty then [c.team] else c.receivers).foldl (fun s u => s.failTag u c.tag reason) s
  match c.sendTag with
  | some t => s.failTag c.team t reason
  | none => s

def Piece.done (p : Piece) : Bool := p.landed.foldl (fun a r => a + r.2) 0 == p.len
/-- Bytes from `off` not landed yet. -/
def Piece.fresh (p : Piece) (off n : Nat) : Bool := p.landed.all (fun r => decide (r.1 + r.2 ≤ off) || decide (off + n ≤ r.1))

/-- Read bytes of a team's scratch or operand buffer. -/
def State.sideBytes (s : State) (uid : Nat) (sp : Space) (a n : Nat) : List Byte :=
  match s.team? uid, sp with
  | some t, .scratch k => cellBytes (t.side k).scratch a n
  | some t, .obuf k _ => cellBytes (t.side k).obuf a n
  | _, _ => List.replicate n 0

/-- The translation of a command's address (05 R96). -/
def Cmd.xlat (c : Cmd) (va : Nat) : Option Xlat :=
  match c.xl.find? (fun e => e.page == pageOf va) with
  | some e => match e.look va with
    | .hit x => some x
    | _ => none
  | none => none

/-- Source bytes of a command at an address of its source space (05 R97, 13 R286). -/
def State.cmdRead (s : State) (core : Nat) (c : Cmd) (a n : Nat) : List Byte :=
  match c.src with
  | .glob => (List.range n).map (fun i =>
      match c.xlat (a + i) with
      | none => 0
      | some x => if x.mtype == .cached then BitVec.ofNat 8 (s.coreBytes core x.pa 1).1 else cellGet s.mem x.pa)
  | sp => s.sideBytes c.team sp a n

/-- Words of a team's scratch or operand buffer that a write covers whole lose their poison (18 R380). -/
def State.clearWords (s : State) (uid side : Nat) (ob : Bool) (a n : Nat) : State :=
  if s.poisonRegs.isEmpty then s
  else { s with poisonRegs := s.poisonRegs.filter (fun p => match p with
    | .scratch t k w => ob || !(t == uid && k == side && a ≤ 4 * w && 4 * w + 4 ≤ a + n)
    | .opBuf t k w => !ob || !(t == uid && k == side && a ≤ 4 * w && 4 * w + 4 ≤ a + n)
    | _ => true) }

/-- Bytes have landed in a team's operand buffer: each MMA that is issued and has not read its panel keeps what its areas now hold
(10 R215). -/
def State.notePanels (s : State) (uid side : Nat) : State :=
  match s.team? uid with
  | none => s
  | some t => s.updCore (t.core + side) (fun c => if c.engine.isEmpty then c else { c with engine := c.engine.map (fun o =>
      match o.instr with
      | .mma _ f => if o.team != uid then o else match (t.side side).panel? (f.b.toNat % 16) with
        | some p => { o with panels := o.panels ++ [(t.side side).areas p] }
        | none => o
      | _ => o) })

/-- Land bytes of a command at its destination (05 R97, R114, 13 R286); a receiver's bytes are written on behalf of the issuer's launch
(17 R370). -/
def State.cmdWrite (s : State) (core : Nat) (c : Cmd) (recv a : Nat) (bs : List Byte) : State :=
  match c.dst with
  | .glob => (List.range bs.length).foldl (fun s i =>
      match c.xlat (a + i) with
      | none => s
      | some x => (s.homeStore x.pa [bs.getD i 0] c.launch []).dropRange core x.pa 1) s
  | .obuf k _ =>
    ((s.updTeam recv (fun t => t.updSide k (fun d => { d with obuf := cellStore d.obuf a bs }))).clearWords recv k true a bs.length).notePanels recv k
  | .scratch k =>
    match s.team? recv with
    | some _ => (s.updTeam recv (fun t => t.updSide k (fun d => d.put a bs []))).clearWords recv k false a bs.length
    | none =>
      match s.image? recv with
      | none => s
      | some i =>
        let b := s.block i.launch
        let s : State := s.homeStore (i.base + imageScratchOff b (s.imageWaves i.base) + k * roundUp b.scratch 4096 + a) bs c.launch []
        ({ s with images := s.images.map (fun j => if j.id == i.id then
          { j with marks := listSet j.marks k (fun l => relClear l a bs.length) } else j) } : State).clearWords recv k false a bs.length

/-- The uncorrectable word that a command's source bytes meet: HWERR store and index (18 R380). -/
def State.cmdBad (s : State) (core : Nat) (c : Cmd) (a n : Nat) : Option (Nat × Nat) :=
  match c.src with
  | .glob => (List.range n).findSome? (fun i => (c.xlat (a + i)).bind (fun x => s.badWord core (x.mtype == .cached) x.pa 1))
  | .scratch k => s.badSide c.team k false a n
  | .obuf k _ => s.badSide c.team k true a n

/-- Release the entries of what has landed; a command whose last byte has landed completes (05 R110). -/
def State.settleCmd (s : State) (core id : Nat) : State :=
  match (s.core core).cmd? id with
  | none => s
  | some c =>
    if c.state == .moving && c.pieces.all (fun p => p.absent || p.done) then s.dropCmd core id
    else
      s.releaseHolly (fun e => e.cmd == id && !e.source && c.pieces.all (fun p => p.absent || p.recv != e.recv || p.done ||
        (c.opc == 0xC2 && !(e.lo ≤ p.dst && p.dst < e.hi))))

/-- The other pieces' bytes in the aligned 4-byte units that the ends of a landing touch: piece, offset, number. They land with it, since
a unit lands whole (05 R93). -/
def Cmd.beside (c : Cmd) (k off n : Nat) : List (Nat × Nat × Nat) :=
  match c.pieces[k]? with
  | none => []
  | some p =>
    let lo := p.dst + off
    let hi := lo + n
    c.pieces.zipIdx.flatMap (fun (q, j) =>
      if j == k || q.absent || q.recv != p.recv then []
      else
        let cut (a b : Nat) : List (Nat × Nat × Nat) :=
          let x := max a q.dst
          let y := min b (q.dst + q.len)
          if x < y && q.fresh (x - q.dst) (y - x) then [(j, x - q.dst, y - x)] else []
        cut (lo / 4 * 4) lo ++ cut hi (roundUp hi 4))

/-- Deliver `n` bytes of a piece from offset `off` (05 R93, R97): they land and count against the tags. -/
def State.deliverBytes (s : State) (core : Nat) (c : Cmd) (k off n : Nat) : State :=
  match c.pieces[k]? with
  | none => s
  | some p =>
    let bs := s.cmdRead core c (p.src + off) n
    let s : State := s.cmdWrite core c p.recv (p.dst + off) bs
    let s : State := s.updCmd core c.id (fun c => { c with pieces := listSet c.pieces k (fun p => { p with landed := p.landed ++ [(off, n)] }) })
    let s : State := s.countTag p.recv c.tag n
    let s : State := match c.sendTag with
      | some t => s.countTag c.team t n
      | none => s
    s.settleCmd core c.id

end Sys2Proof.Machine
end

