-- ==== Sys2Proof/Machine/GraphBase.lean ====
section
/-! DEFINITION. Graph images, replays and their nodes (15 R325 to R328). -/

namespace Sys2Proof.Machine

/-! ### Parameter blocks and images -/

/-- A malformed parameter block (15 R323). -/
def Block.malformed (b : Block) : Bool :=
  b.prog == 3 || bits (b.q 1) 63 48 != 0 || b.gx == 0 || b.gy == 0 || b.gz == 0 ||
  bits (b.q 2) 63 60 != 0 || bit (b.q 2) 7 || decide (b.tiles > 16) || b.waves == 0 || decide (b.waves > (if b.pair then 64 else 32)) ||
  decide (b.spawnRegs > 64) || decide (b.spawnRegs > b.vregs) || decide (b.obuf > 1048576) || decide (b.scratch > 3145728) ||
  b.q 0 % 8 != 0 || !canonical (b.q 0) || b.handler % 8 != 0 || !canonical b.handler ||
  b.burrow % 64 != 0 || !canonical b.burrow || b.stats % 64 != 0 || !canonical b.stats || b.bsize % 64 != 0 ||
  bits (b.q 8) 47 36 != 0 || decide (b.ntreg > 8) || (b.tset == 0 && b.ntreg != 0) ||
  (List.range 6).any (fun i => b.q (10 + i) != 0)

/-- Sixteen words of memory. -/
def readBlock (m : Cells 8) (a : Nat) : Block := (List.range 16).map (fun i => BitVec.ofNat 64 (cellRead m (a + 8 * i) 8))

/-- A node record of an image, and whether its header is well formed (15 R325). -/
def readNode (m : Cells 8) (a idx : Nat) : Node × Bool :=
  let h := cellRead m a 64
  let n := bits h 7 4
  let pred (i : Nat) : Nat := bits h (64 + 16 * i + 15) (64 + 16 * i)
  let nd : Node := { type := bits h 3 0, preds := (List.range n).map pred, body := readBlock m (a + 64), state := .waiting, moved := 0, toks := [] }
  (nd, decide (n ≤ 8) && decide (bits h 3 0 ≤ 4) && bits h 63 8 == 0 && bits h 511 192 == 0 &&
    (List.range 8).all (fun i => if i < n then decide (pred i < idx) else pred i == 0))

/-- Whether the body of a copy, relaunch, host-signal or wait node obeys 15 R325, R326. -/
def Node.bodyOk (nd : Node) (nodes : List Node) (idx : Nat) : Bool :=
  let q (i : Nat) : Nat := Block.q nd.body i
  let zeroFrom (k : Nat) : Bool := (List.range 16).all (fun i => decide (i < k) || q i == 0)
  match nd.type with
  | 1 => decide (q 2 < 2 ^ 32) && decide (q 3 < 2 ^ 12) && zeroFrom 4
  | 2 => decide (q 0 < 2 ^ 16) && zeroFrom 1 && decide (q 0 < idx) && (match nodes[q 0]? with | some k => k.type == 0 | none => false)
  | 3 => zeroFrom 1
  | 4 => q 0 % 8 == 0 && decide (q 2 < 2 ^ 12) && zeroFrom 3
  | _ => true

/-- The nodes of an Obpo image at a physical address, when it is well formed (15 R325, R326). -/
def State.readImage (s : State) (pa : Nat) : Option (List Node) :=
  let h := s.homeRead pa 64
  let n := bits h 15 0
  if pa % 64 != 0 || !(1 ≤ n && n ≤ 4096) || bits h 63 32 != 64 + 192 * n || bits h 31 16 != 0 || bits h 511 64 != 0 then none
  else
    let rs := (List.range n).map (fun i => readNode s.mem (pa + 64 + 192 * i) i)
    let nodes := rs.map (·.1)
    if rs.all (·.2) && (List.range n).all (fun i => match nodes[i]? with | some nd => nd.bodyOk nodes i | none => false) then some nodes
    else none

/-! ### Replays -/

def State.replay? (s : State) (id : Nat) : Option Replay := s.replays.find? (fun r => r.id == id)
def State.updReplay (s : State) (id : Nat) (f : Replay → Replay) : State :=
  { s with replays := s.replays.map (fun r => if r.id == id then f r else r) }
def State.updNode (s : State) (id i : Nat) (f : Node → Node) : State := s.updReplay id (fun r => { r with nodes := listSet r.nodes i f })

def NodeState.over : NodeState → Bool
  | .done => true
  | .failed _ => true
  | .barred => true
  | _ => false
def NodeState.lost : NodeState → Bool
  | .failed _ => true
  | .barred => true
  | _ => false

/-- Bar every waiting node that depends on a failed one, directly or through other nodes (15 R328). -/
def barNodes : List Node → List Node → List Node
  | seen, [] => seen
  | seen, nd :: r =>
    let bad := nd.preds.any (fun p => match seen[p]? with | some q => q.state.lost | none => false)
    barNodes (seen ++ [if nd.state == .waiting && bad then { nd with state := .barred } else nd]) r

/-- The status of a replay whose nodes are over: that of the failed node with the lowest index, or DONE (15 R328). -/
def replayStatus (nodes : List Node) : Nat × Nat :=
  match (List.range nodes.length).findSome? (fun i => match nodes[i]? with
      | some nd => match nd.state with
        | .failed st => some (st, i)
        | _ => none
      | none => none) with
  | some p => p
  | none => (0, 0)

/-- The completion record of a replay (19 R408); a ninth word, which is not written, names the replay. -/
def endRecord (handle : BitVec 16) (status node : Nat) (kick : Word) (id : Nat) : List Word :=
  [BitVec.ofNat 64 (handle.toNat * 2 ^ 48 + status * 2 ^ 44 + 1 * 2 ^ 40 + (if status == 0 then 0 else node)), 0, 0, kick, 0, 0, 0, 0, BitVec.ofNat 64 id]

/-- A replay ends once every node is over: its completion record waits for ring 0 (15 R328). -/
def State.checkReplay (s : State) (id : Nat) : State :=
  match s.replay? id with
  | none => s
  | some r =>
    if r.ended then s
    else
      let nodes := barNodes [] r.nodes
      let s : State := s.updReplay id (fun r => { r with nodes := nodes })
      if nodes.all (fun nd => nd.state.over) then
        let st := replayStatus nodes
        (s.updReplay id (fun r => { r with ended := true })).pushRecord 0 (endRecord r.handle st.1 st.2 r.kick id)
      else s

/-- A node completes or fails. -/
def State.endNode (s : State) (id i : Nat) (st : NodeState) : State := (s.updNode id i (fun nd => { nd with state := st, toks := [] })).checkReplay id

/-- A graph whose free waits is released once no replay of it is in flight (15 R326). -/
def State.releaseGraphs (s : State) : State :=
  let gone (g : Graph) : Bool := g.freeing && !(s.replays.any (fun r => r.handle == g.handle))
  let gs := s.graphs.filter (fun g => !gone g)
  { s with graphs := gs, regs := { s.regs with gbusy := gs.any (·.freeing) } }

/-- One entry of a patch table: node, word of the body, value; none: malformed (15 R327). -/
def patchEntry (q0 q1 : Nat) (n : Nat) : Option (Nat × Nat × Word) :=
  if bits q0 63 20 != 0 || decide (bits q0 15 0 ≥ n) then none else some (bits q0 15 0, bits q0 19 16, BitVec.ofNat 64 q1)

/-- A patch table read through `rd` (address, bytes), for an image of `n` nodes; none: malformed. -/
def readPatches (rd : Nat → Nat → Nat) (a n : Nat) : Option (List (Nat × Nat × Word)) :=
  let h := rd a 16
  let k := bits h 15 0
  if a % 64 != 0 || bits h 127 16 != 0 || decide (k > 4096) then none
  else
    let es := (List.range k).map (fun i => patchEntry (rd (a + 16 + 16 * i) 8) (rd (a + 24 + 16 * i) 8) n)
    if es.all (·.isSome) then some (es.filterMap id) else none

def applyPatch (nodes : List Node) (p : Nat × Nat × Word) : List Node :=
  listSet nodes p.1 (fun nd => { nd with body := listSet nd.body p.2.1 (fun _ => p.2.2) })

/-- Start a replay of a handle with a patch table: BADGRAPH and BADPATCH end it at once (15 R327). `rd`: reader of the table. -/
def State.startReplay (s : State) (kick : Word) (tableOk : Bool) (rd : Nat → Nat → Nat) (addr : Nat) : State :=
  let h := BitVec.ofNat 16 (kick.toNat / 2 ^ 48)
  let id := s.uid
  let fail (st : Nat) : State :=
    let s : State := { s with uid := s.uid + 1, replays := s.replays ++ [{ id := id, handle := h, kick := kick, nodes := [], ended := true }] }
    s.pushRecord 0 (endRecord h st 0 kick id)
  match s.graphs.find? (fun g => g.handle == h && !g.freeing) with
  | none => fail 1
  | some g =>
    let none' := bits kick.toNat 47 0 == 0
    match if none' then some [] else if tableOk then readPatches rd addr g.nodes.length else none with
    | none => fail 2
    | some ps =>
      { s with uid := s.uid + 1,
               replays := s.replays ++ [{ id := id, handle := h, kick := kick, nodes := ps.foldl applyPatch g.nodes, ended := false }] }

/-- Whether a patch table of a KICK lies whole in the near tier, the present far tier or the host window (15 R327). -/
def State.tableOk (s : State) (a : Nat) : Bool :=
  let ok (n : Nat) : Bool :=
    let r := s.region a
    (r == .near || r == .far || r == .host) && s.region (a + n - 1) == r
  ok 16 && ok (16 + 16 * min 4096 (bits (s.homeRead a 16) 15 0))

/-- A KICK (15 R326, R327). -/
def State.kickWrite (s : State) (v : Word) : State :=
  if decide (s.replays.length ≥ 64) then { s with regs := { s.regs with klost := true } }
  else
    let a := bits v.toNat 47 0
    let ok := a != 0 && s.tableOk a
    let s : State := if ok then s.promoteRange a (16 + 16 * min 4096 (bits (s.homeRead a 16) 15 0)) else s
    s.startReplay v ok s.homeRead a

/-- Bytes that the graph store holds. -/
def State.storeBytes (s : State) : Nat := s.graphs.foldl (fun a g => a + g.bytes) 0

/-- A handle not in use, in increasing order and never 0. -/
def freeHandle (used : List (BitVec 16)) : Nat → BitVec 16 → BitVec 16
  | 0, h => h
  | n + 1, h => if h == 0 || used.elem h then freeHandle used n (h + 1) else h

def State.gerr (s : State) (e : Nat) : State := { s with regs := { s.regs with gerr := BitVec.ofNat 4 e } }

/-- GCMD OP 1 (15 R326). -/
def State.graphUpload (s : State) : State :=
  if s.regs.gbusy then s.gerr 4
  else
    match s.readImage (bits s.regs.gimg.toNat 51 0) with
    | none => s.gerr 1
    | some nodes =>
      let bytes := 64 + 192 * nodes.length
      if decide (s.graphs.length ≥ 4096) || decide (s.storeBytes + bytes > 16777216) then s.gerr 2
      else
        let h := freeHandle (s.graphs.map Graph.handle) (s.graphs.length + 2) s.nextHandle
        { s with
          graphs := s.graphs ++ [{ handle := h, nodes := nodes, bytes := bytes, freeing := false }]
          nextHandle := h + 1
          regs := { s.regs with ghandle := h } }

/-- GCMD OP 2 (15 R326). -/
def State.graphFree (s : State) (h : BitVec 16) : State :=
  if s.regs.gbusy then s.gerr 4
  else if s.graphs.any (fun g => g.handle == h) then
    ({ s with graphs := s.graphs.map (fun g => if g.handle == h then { g with freeing := true } else g) } : State).releaseGraphs
  else s.gerr 3

end Sys2Proof.Machine
end

