-- ==== Sys2Proof/Machine/Rowan.lean ====
section
/-! DEFINITION. The Rowan tables: keys, entries, admission, the backing area (16 R341, R345, R350 to R353). -/

namespace Sys2Proof.Machine

/-- `rowan_slice` (16 R350). -/
def rowanSlice (asn key : Nat) : Nat :=
  (List.range 9).foldl (fun h i => h ^^^ bits key (7 * i + 6) (7 * i)) (bits asn 6 0 ^^^ bits asn 11 7 ^^^ bits key 63 63)

/-- The class of a key (16 R341). -/
def keyClass (k : Word) : Nat := b2n (k.getLsbD 63)
/-- A reserved key (16 R341). -/
def keyZero (k : Word) : Bool := k.toNat % 2 ^ 63 == 0

def Rowan.is (e : Rowan) (asn : BitVec 12) (space : Bool) (key : Word) : Bool := e.asn == asn && e.space == space && e.key == key
def Rowan.slice (e : Rowan) : Nat := rowanSlice e.asn.toNat e.key.toNat
def RowanOut.is (e : RowanOut) (asn : BitVec 12) (space : Bool) (key : Word) : Bool := e.asn == asn && e.space == space && e.key == key
def RowanOut.slice (e : RowanOut) : Nat := rowanSlice e.asn.toNat e.key.toNat

/-- Entries of one slice's share of the backing area (16 R352). -/
def State.shareSize (s : State) : Nat := s.regs.ordsize.toNat * 2 ^ 20 / 128 / 64
/-- Address of a slot of a slice's share. -/
def State.shareAddr (s : State) (slice slot : Nat) : Nat :=
  bits s.regs.ordbase.toNat 51 16 * 2 ^ 16 + 64 * (slice * s.shareSize + slot)

/-- Every resident lane with its team and wave. -/
def State.laneRefs (s : State) : List (Nat × Nat × Nat × Nat × Lane) :=
  s.teams.flatMap (fun t => t.waves.flatMap (fun w =>
    (List.range w.lanes.length).map (fun l => (t.uid, w.id, l, w.core, w.lane l))))

/-- The core on which a waiter's wave runs. -/
def State.waiterCore (s : State) (w : Waiter) : Nat := ((s.wave? { team := w.team, wave := w.wave }).getD Wave.reset).core

/-- NWAIT of an entry (16 R351). -/
def Rowan.nwait (e : Rowan) : Nat := (e.waiters.length + e.extra).toNat
/-- An entry that is freed: NEXT = ALLOC, HELD = 0 and NWAIT = 0 (16 R351). -/
def Rowan.idle (e : Rowan) : Bool := e.next == e.alloc && !e.held && e.nwait == 0

/-- The 64-byte image of an entry (16 R351). -/
def State.rowanImage (s : State) (e : Rowan) : Nat :=
  let wmask := ofBits 256 (fun c => e.mask.getLsbD c || e.waiters.any (fun w => s.waiterCore w == c))
  wmask * 2 ^ 256 + e.key.toNat * 2 ^ 192 + e.next.toNat * 2 ^ 160 + e.alloc.toNat * 2 ^ 128 + e.asn.toNat * 2 ^ 116 +
    b2n e.space * 2 ^ 115 + b2n e.held * 2 ^ 114 + min 65535 e.nwait * 2 ^ 96

/-- The resident lanes that wait on a key. -/
def State.waitersOn (s : State) (asn : BitVec 12) (space : Bool) (key : Word) : List Waiter :=
  s.laneRefs.filterMap (fun x =>
    match x.2.2.2.2.await with
    | some a =>
      if a.key == key && a.space == space && (s.block ((s.team? x.1).getD Team.reset).launch).asn == asn.toNat
      then some { team := x.1, wave := x.2.1, lane := x.2.2.1 } else none
    | none => none)

/-- Move the least recently used entry of a slice to its share; false when the share is full (16 R352). -/
def State.rowanMoveOut (s : State) (slice : Nat) : Bool × State :=
  match s.rowans.find? (fun e => e.slice == slice) with
  | none => (false, s)
  | some e =>
    match (List.range s.shareSize).find? (fun i => !(s.rowanOut.any (fun o => o.slice == slice && o.slot == i))) with
    | none => (false, s)
    | some slot =>
      let s : State := s.homeWrite (s.shareAddr slice slot) 64 (s.rowanImage e) 0 []
      (true, { s with
        rowans := s.rowans.filter (fun x => !(x.is e.asn e.space e.key)),
        rowanOut := s.rowanOut ++ [{ asn := e.asn, space := e.space, key := e.key, slot := slot }] })

/-- Entries resident in a slice. -/
def State.sliceCount (s : State) (slice : Nat) : Nat := (s.rowans.filter (fun e => e.slice == slice)).length

/-- What a lookup of a key answers. -/
inductive Found where
  | none
  | entry (e : Rowan)
  | badImage
  deriving DecidableEq, Repr

/-- The entry that a well-formed image gives: its counters, and as waiters the lanes that wait on the key on the cores of WMASK; what NWAIT and
WMASK hold beyond them stays as found (16 R352). -/
def State.rowanOfImage (s : State) (asn : BitVec 12) (space : Bool) (key : Word) (img : Nat) : Rowan :=
  let wmask := bits img 511 256
  let ws := (s.waitersOn asn space key).filter (fun w => bit wmask (s.waiterCore w))
  { asn := asn, space := space, key := key, next := BitVec.ofNat 32 (bits img 191 160), alloc := BitVec.ofNat 32 (bits img 159 128),
    held := bit img 114, waiters := ws, extra := (bits img 111 96 : Int) - ws.length,
    mask := BitVec.ofNat 256 (ofBits 256 (fun c => bit wmask c && !ws.any (fun w => s.waiterCore w == c))) }

/-- Find a key's entry, bringing it back from the backing area first (16 R352). -/
def State.rowanFind (s : State) (asn : BitVec 12) (space : Bool) (key : Word) : Found × State :=
  match s.rowans.find? (fun e => e.is asn space key) with
  | some e => (.entry e, s)
  | none =>
    match s.rowanOut.find? (fun o => o.is asn space key) with
    | none => (.none, s)
    | some o =>
      let img := s.homeRead (s.shareAddr o.slice o.slot) 64
      let ok := bits img 113 112 == 0 && bits img 95 0 == 0 && bits img 255 192 == key.toNat &&
        bits img 127 116 == asn.toNat && bit img 115 == space
      if !ok then (.badImage, s)
      else
        let e : Rowan := s.rowanOfImage asn space key img
        let s : State := { s with rowanOut := s.rowanOut.filter (fun x => !(x.is asn space key)) }
        let s : State := if s.sliceCount o.slice < 4096 then s else (s.rowanMoveOut o.slice).2
        (.entry e, { s with rowans := s.rowans ++ [e] })

/-- The entry of a key, created with NEXT = ALLOC = 0 when it has none; or the ORDER reason of the failure: 6 TABLE_FULL,
7 BADIMAGE (16 R351, R352). -/
def State.rowanEntry (s : State) (asn : BitVec 12) (space : Bool) (key : Word) : Except Nat Rowan × State :=
  match s.rowanFind asn space key with
  | (.entry e, s) => (.ok e, s)
  | (.badImage, s) => (.error 7, s)
  | (.none, s) =>
    let e : Rowan := { asn := asn, space := space, key := key, next := 0, alloc := 0, held := false, waiters := [] }
    let sl := rowanSlice asn.toNat key.toNat
    if s.sliceCount sl < 4096 then (.ok e, { s with rowans := s.rowans ++ [e] })
    else match s.rowanMoveOut sl with
      | (true, s) => (.ok e, { s with rowans := s.rowans ++ [e] })
      | (false, s) => (.error 6, s)

/-- Store an entry as its slice's most recently used one, or free it (16 R351). -/
def State.rowanPut (s : State) (e : Rowan) : State :=
  let rest := s.rowans.filter (fun x => !(x.is e.asn e.space e.key))
  { s with rowans := if e.idle then rest else rest ++ [e] }

/-- Record a key as held by a lane, in the place of its class; the pending record clears when it matches (16 R345). -/
def Lane.hold (ln : Lane) (key : Word) (number : BitVec 32) : Lane :=
  let ln : Lane := if key.getLsbD 63 then { ln with held1 := some key } else { ln with held0 := some key }
  { ln with pend := if ln.pend == some (key, number) then none else ln.pend, await := none, wait := .none }

/-- A lane that is to hold a key again: its release has failed (16 R352). -/
def Lane.regain (ln : Lane) (key : Word) : Lane := if key.getLsbD 63 then { ln with held1 := some key } else { ln with held0 := some key }
def Lane.holds (ln : Lane) (key : Word) : Bool := ln.held0 == some key || ln.held1 == some key
def Lane.drop (ln : Lane) (key : Word) : Lane :=
  { ln with held0 := if ln.held0 == some key then none else ln.held0, held1 := if ln.held1 == some key then none else ln.held1 }
/-- The keys a lane holds, the class-1 key first. -/
def Lane.heldKeys (ln : Lane) : List Word := ln.held1.toList ++ ln.held0.toList

/-- A lane of a wave is admitted: it holds the key, and its group moves on when its wave next issues (16 R345, R346, R427). The admission
is an acquire at DEVICE scope (16 R349). -/
def State.letIn (s : State) (w : Waiter) (a : Await) : State :=
  let r : WaveRef := { team := w.team, wave := w.wave }
  let s : State := s.updWave r (fun x =>
    let x : Wave := x.updLanes (1#64 <<< w.lane) (fun _ ln => ln.hold a.key a.number)
    x.updLanes a.group (fun _ ln => { ln with wait := .entered a.len }))
  s.discardClean ((s.wave? r).getD Wave.reset).core

/-- A lane that has been admitted and has not moved on yet. -/
def Lane.isEntered (ln : Lane) : Bool := match ln.wait with | .entered _ => true | _ => false
/-- The admitted lanes of a wave move on (16 R427). -/
def Wave.enter (w : Wave) : Wave :=
  w.updLanes w.liveMask (fun _ ln => match ln.wait with
    | .entered n => { ln with pc := ln.pc + BitVec.ofNat 64 n, wait := .none }
    | _ => ln)

/-- What lane `l` of a wave waits for in ORDIN: its own request, or that of the acting lane whose issue it waits with (16 R345, R346). -/
def Wave.awaits (w : Wave) (l : Nat) : Option Await :=
  match (w.lane l).await with
  | some a => if a.space then none else some a
  | none =>
    if (w.lane l).wait == .ordin then
      w.lanes.findSome? (fun ln => ln.await.bind (fun a => if !a.space && a.group.getLsbD l then some a else none))
    else none

/-- Re-examine the waiters of a SPACE 0 entry after NEXT has changed: let in the one whose number is NEXT, if any (16 R345). -/
def State.reexamine (s : State) (e : Rowan) : State :=
  let awaitOf (w : Waiter) : Option Await :=
    match s.wave? { team := w.team, wave := w.wave } with
    | some x => (x.lane w.lane).await
    | none => none
  if e.held || e.space then s.rowanPut e
  else
    match e.waiters.find? (fun w => match awaitOf w with | some a => a.number == e.next | none => false) with
    | none => s.rowanPut e
    | some w =>
      match awaitOf w with
      | none => s.rowanPut e
      | some a =>
        let e : Rowan := { e with held := true, waiters := e.waiters.filter (fun x => x != w) }
        (s.rowanPut e).letIn w a

/-- Release a key: NEXT advances, HELD clears, waiters are examined (16 R348). -/
def State.releaseKey (s : State) (asn : BitVec 12) (key : Word) : State :=
  match s.rowanFind asn false key with
  | (.entry e, s) => s.reexamine { e with next := e.next + 1, held := false }
  | (_, s) => s

/-- Bring back the entries of the keys on which waiters that pass a test wait. -/
def State.recallFor (s : State) (p : Waiter → Bool) : State :=
  if s.rowanOut.isEmpty then s
  else s.laneRefs.foldl (fun s x => match x.2.2.2.2.await with
    | some a =>
      if p { team := x.1, wave := x.2.1, lane := x.2.2.1 } then
        (s.rowanFind (BitVec.ofNat 12 (s.block ((s.team? x.1).getD Team.reset).launch).asn) a.space a.key).2
      else s
    | none => s) s

/-- Withdraw the registrations of waiters that pass a test (16 R354, R355, R357, R358). -/
def State.withdraw (s : State) (p : Waiter → Bool) : State :=
  let s : State := s.recallFor p
  let es := s.rowans.map (fun e => { e with waiters := e.waiters.filter (fun w => !p w) })
  { s with rowans := es.filter (fun e => !e.idle) }

/-- A purge frees every entry of an address space (16 R353). -/
def State.purgeRowan (s : State) (asn : BitVec 12) : State :=
  { s with rowans := s.rowans.filter (fun e => e.asn != asn), rowanOut := s.rowanOut.filter (fun o => o.asn != asn) }

/-- An ORDER trap (16 R359). -/
def orderTrap (reason : Nat) (key : Word) (d2 : Nat) : TrapInfo :=
  { mkTrap .order (key.toNat % 2 ^ 32) (key.toNat / 2 ^ 32) d2 with cause := BitVec.ofNat 32 (Group.order.code + reason * 2 ^ 8) }

/-- The trap of a failed Rowan operation (16 R352, R359). -/
def rowanTrap (asn : BitVec 12) (reason : Nat) (k : Word) : TrapInfo := orderTrap reason k (rowanSlice asn.toNat k.toNat)

/-- The ABANDON trap of a lane that holds a section or waits in ORDIN, if it does (16 R355, R359). -/
def Wave.abandon (w : Wave) (l : Nat) : Option TrapInfo :=
  match (w.lane l).heldKeys with
  | k :: _ => some (orderTrap 4 k 1)
  | [] => (w.awaits l).map (fun a => orderTrap 4 a.key 0)

end Sys2Proof.Machine
end

