-- ==== Sys2Proof/Machine/Sha3.lean ====
section
/-! DEFINITION. SHA3-256 over bytes (17 R374, 19 R416, R417). -/

namespace Sys2Proof.Machine

/-- The lanes of a Keccak state, lane (x, y) at index x + 5y. -/
abbrev Keccak := List (BitVec 64)

def kLane (a : Keccak) (x y : Nat) : BitVec 64 := a.getD (x % 5 + 5 * (y % 5)) 0

def kOffsets : List Nat :=
  [0, 1, 62, 28, 27, 36, 44, 6, 55, 20, 3, 10, 43, 25, 39, 41, 45, 15, 21, 8, 18, 2, 61, 56, 14]

def kConsts : List (BitVec 64) :=
  [0x0000000000000001, 0x0000000000008082, 0x800000000000808A, 0x8000000080008000, 0x000000000000808B, 0x0000000080000001,
   0x8000000080008081, 0x8000000000008009, 0x000000000000008A, 0x0000000000000088, 0x0000000080008009, 0x000000008000000A] ++
  [0x000000008000808B, 0x800000000000008B, 0x8000000000008089, 0x8000000000008003, 0x8000000000008002, 0x8000000000000080,
   0x000000000000800A, 0x800000008000000A, 0x8000000080008081, 0x8000000000008080, 0x0000000080000001, 0x8000000080008008]

def kTabulate (f : Nat → Nat → BitVec 64) : Keccak := (List.range 25).map (fun i => f (i % 5) (i / 5))

def kTheta (a : Keccak) : Keccak :=
  let c := (List.range 5).map (fun x => kLane a x 0 ^^^ kLane a x 1 ^^^ kLane a x 2 ^^^ kLane a x 3 ^^^ kLane a x 4)
  let at' (x : Nat) : BitVec 64 := c.getD (x % 5) 0
  kTabulate (fun x y => kLane a x y ^^^ (at' (x + 4) ^^^ (at' (x + 1)).rotateLeft 1))

def kRhoPi (a : Keccak) : Keccak :=
  kTabulate (fun x y => (kLane a (x + 3 * y) x).rotateLeft (kOffsets.getD ((x + 3 * y) % 5 + 5 * x) 0))

def kChi (b : Keccak) : Keccak := kTabulate (fun x y => kLane b x y ^^^ (~~~ kLane b (x + 1) y &&& kLane b (x + 2) y))

def kRound (a : Keccak) (rc : BitVec 64) : Keccak :=
  match kChi (kRhoPi (kTheta a)) with
  | x :: r => (x ^^^ rc) :: r
  | [] => []

def keccakF (a : Keccak) : Keccak := kConsts.foldl kRound a

/-- XOR a block of bytes into the first lanes. -/
def kAbsorb (a : Keccak) (bs : List Byte) : Keccak :=
  keccakF (kTabulate (fun x y => kLane a x y ^^^ BitVec.ofNat 64 (leNat ((bs.drop (8 * (x + 5 * y))).take 8))))

/-- Absorb a padded message of `n` blocks of 136 bytes. -/
def kBlocks : Nat → Keccak → List Byte → Keccak
  | 0, a, _ => a
  | n + 1, a, bs => kBlocks n (kAbsorb a (bs.take 136)) (bs.drop 136)

/-- The padding of SHA-3. -/
def shaPad (bs : List Byte) : List Byte :=
  let k := 136 - bs.length % 136
  bs ++ (if k == 1 then [0x86] else [0x06] ++ List.replicate (k - 2) 0 ++ [0x80])

/-- The digest as 32 bytes. -/
def sha3 (bs : List Byte) : List Byte :=
  let p := shaPad bs
  let a := kBlocks (p.length / 136) (List.replicate 25 0) p
  (List.range 4).flatMap (fun i => leBytes 8 (a.getD i 0).toNat)

/-- The digest as a little-endian number. -/
def sha3Nat (bs : List Byte) : Nat := leNat (sha3 bs)

end Sys2Proof.Machine
end

