-- ==== Sys2Proof/Machine/Devops.lean ====
section
/-! DEFINITION. What the device registers do: invalidation (04 R87), microcode (11 R234, R235), Rowan commands (16 R353), host
answers (18 R389, R390, R395), host rings (19 R406, R407), links (19 R410 to R413), start, recovery and attestation (19 R414 to
R417); and the register map itself (19 R404). -/

namespace Sys2Proof.Machine

def State.updRegs (s : State) (f : Regs → Regs) : State := { s with regs := f s.regs }

/-- The release mark of a host or peer write (13 R288). -/
def hostTag : RelTag := { host := true, team := 0, wave := 0, lane := 0, core := 0, scopes := [6], time := 0 }

/-! ### Invalidation -/

/-- Whether a translation kept for an instruction or an engine lies in a removed range: its whole leaf counts (04 R87). -/
def XEntry.hit (e : XEntry) (cmd tlbiva : Word) : Bool :=
  e.fault.isNone && e.bad.isNone && tlbiHits cmd tlbiva e.asn (e.page * 4096 / 2 ^ e.log2) e.log2

/-- Whether the page of 2^`log2` bytes that holds an address lies in a removed range. -/
def tlbiMeets (cmd tlbiva : Word) (asn : BitVec 12) (va log2 : Nat) : Bool := tlbiHits cmd tlbiva asn (va % 2 ^ 56 / 2 ^ log2) log2

/-- What is under way through a translation that a TLBICMD value removes: outs, commands and DRAINs, by identity (04 R87). -/
def State.tlbiUsers (s : State) (v va : Word) : List Nat :=
  s.teams.flatMap (fun t =>
    let asn := BitVec.ofNat 12 (s.block t.launch).asn
    t.waves.flatMap (fun w => (w.outs.filter (fun o => o.accs.any (fun a =>
      a.side.isNone && a.state != .done && tlbiMeets v va asn a.va a.log2))).map (·.id))) ++
  s.cores.flatMap (fun c => (c.cmds.filter (fun d => d.xl.any (fun e => e.hit v va))).map (·.id) ++
    (c.addons.filter (fun u => u.side.isNone && tlbiMeets v va (BitVec.ofNat 12 (s.block u.launch).asn) u.va u.log2)).map (·.drain))

/-- A walk in progress for an overlapping address starts again (04 R87); the leaf that it would find is not known, so the largest,
1 GiB, is taken. -/
def State.walkAgain (s : State) (v va : Word) (m : Miss) : Miss :=
  if tlbiMeets v va m.asn (4096 * m.page) 30 then { m with pos := some s.walkStart } else m

/-- A write to TLBICMD (04 R87). -/
def State.tlbiWrite (s : State) (v : Word) : State :=
  if s.regs.tlbiBusy then s.updRegs (fun r => { r with tlbiLost := true })
  else
    let va := s.regs.tlbiva
    let drop (l : List TlbEntry) : List TlbEntry := l.filter (fun e => !tlbiHits v va e.asn e.page e.log2)
    { s with
      cores := s.cores.map (fun c => { c with tlb := drop c.tlb })
      dies := s.dies.map (fun d => { d with tlb := drop d.tlb, walks := d.walks.map (s.walkAgain v va) })
      teams := s.teams.map (fun t =>
        let asn := BitVec.ofNat 12 (s.block t.launch).asn
        { t with waves := t.waves.map (fun w => { w with
          xl := w.xl.filter (fun e => !e.hit v va)
          park := match w.park with
            | .waitw a _ _ _ k _ _ _ => if tlbiMeets v va asn a k then .none else w.park
            | p => p }) })
      regs := { s.regs with tlbiBusy := true, tlbiCmd := v, tlbiAt := va, tlbiIds := s.tlbiUsers v va } }

/-- Every access translated through a removed translation has been performed (04 R87): of what was under way when TLBICMD was written,
nothing still is. -/
def State.tlbiQuiet (s : State) : Bool := (s.tlbiUsers s.regs.tlbiCmd s.regs.tlbiAt).all (fun i => !s.regs.tlbiIds.elem i)

/-! ### Microcode -/

/-- The header checks of 11 R235: the MCSTAT.ERR code, 0 when the header is well formed. -/
def mcHeaderErr (h : Nat) : Nat :=
  let rsn := bits h 511 256
  let cb := bits h 767 512
  let body := bits h 127 96
  if bits h 31 0 != 0x4D435331 || bits h 47 45 != 0 || bits h 95 52 != 0 || bits h 255 128 != 0 || bits h 2047 768 != 0 ||
      !(4 ≤ bits h 44 40 && bits h 44 40 ≤ 32) || bits h 49 48 == 3 || bits h 51 50 == 3 || rsn % 2 ^ 64 != 0 ||
      (cb ||| rsn) != rsn || body % 8 != 0 || body < 8 then 2
  else if body > 65536 then 3
  else 0

def State.mcErr (s : State) (e : Nat) : State := s.updRegs (fun r => { r with mcerr := BitVec.ofNat 4 e })

/-- MCCMD OP 1: read and verify an image (11 R234). -/
def State.mcLoad (s : State) (slot : Nat) : State :=
  if s.regs.mcbusy then s.mcErr 4
  else
    let pa := bits s.regs.mcaddr.toNat 51 12 * 4096
    let h := s.homeRead pa 256
    let e := if s.devRange pa 256 then mcHeaderErr h else 2
    if e != 0 then s.mcErr e
    else
      let n := 256 + bits h 127 96
      let img := cellBytes s.mem pa n
      if !s.devRange pa (n + 2420) || !Config.signatureValid (cellBytes s.mem pa (n + 2420)) then s.mcErr 1
      else
        let mc : Microcode := { slot := slot, rev := bits h 39 32, wsize := bits h 44 40, akind := bits h 49 48, bkind := bits h 51 50,
                                rsnmap := bits h 511 256, cbmap := bits h 767 512, digest := sha3 img }
        s.updRegs (fun r => { r with mcbusy := true, mcpend := some (slot, some mc) })

/-- MCCMD OP 2 (11 R234). -/
def State.mcUnload (s : State) (slot : Nat) : State :=
  if s.regs.mcbusy then s.mcErr 4 else s.updRegs (fun r => { r with mcbusy := true, mcpend := some (slot, none) })

/-- Whether an MCALL of a slot is between issue and stop. -/
def State.mcallBusy (s : State) (slot : Nat) : Bool :=
  s.teams.any (fun t => t.waves.any (fun w => match w.prog with
    | some p => match p.instr with
      | .mcall _ f => f.var.toNat == slot
      | _ => false
    | none => false))

/-- The slot is replaced on every core at once. -/
def State.mcReplace (s : State) : State :=
  match s.regs.mcpend with
  | none => s
  | some (slot, new) =>
    { s with micro := s.micro.filter (fun m => m.slot != slot) ++ new.toList, regs := { s.regs with mcbusy := false, mcpend := none } }

def State.mcvalid (s : State) : Nat := ofBits 64 (fun i => s.micro.any (fun m => m.slot == i))

/-! ### Rowan commands -/

/-- ORDQCMD OP 1 (16 R353). -/
def State.ordQuery (s : State) (space : Bool) (asn : BitVec 12) : State :=
  match s.rowanFind asn space s.regs.ordqkey with
  | (.entry e, s) => s.updRegs (fun r => { r with
      ordqalloc := e.alloc, ordqnext := e.next,
      ordqstat := BitVec.ofNat 64 (2 ^ 62 + b2n e.held * 2 ^ 61 + b2n (r.ordqstat.getLsbD 60) * 2 ^ 60 + min 65535 e.nwait) })
  | (_, s) => s.updRegs (fun r => { r with
      ordqalloc := 0, ordqnext := 0, ordqstat := BitVec.ofNat 64 (b2n (r.ordqstat.getLsbD 60) * 2 ^ 60) })

/-- ORDQCMD OP 2 (16 R353). -/
def State.ordPurge (s : State) (asn : BitVec 12) : State :=
  if s.launches.any (fun l => l.block.asn == asn.toNat) then
    s.updRegs (fun r => { r with ordqstat := r.ordqstat ||| BitVec.ofNat 64 (2 ^ 60) })
  else s.purgeRowan asn

/-! ### Host answers -/

/-- A wave whose records are all answered reissues, or takes its XLATE trap (04 R89); an ended wave's record belongs to its
team's statistics commit (11 R247). -/
def State.answered (s : State) (r : WaveRef) : State :=
  match s.team? r.team, s.wave? r with
  | some t, some w =>
    if w.toks.isEmpty || w.toks.any (fun t => t.outcome == 0) then s
    else
      let abort := w.toks.find? (fun t => t.outcome == 2)
      let s0 : State := s.updWave r (fun w => { w with toks := [], park := if w.ended then w.park else .none })
      match abort with
      | none => s0
      | some k =>
        let trap := xlateTrap k.reason k.level k.kind k.va.toNat
        if w.ended then
          let s1 : State := s0.pushRecord 1 (faultRecord 0 3 0 0 0 t.launch (recordW1 t w) 0 (s.block t.launch).asn w.tpc trap 0)
          (s1.updTeam r.team (fun t => { t with stats := [] })).updLaunch t.launch (fun l => { l with trapped := true })
        else match w.park with
          | .faults part pc => s0.raiseAt r part pc trap
          | _ => s0
  | _, _ => s

def setOutcome (token : BitVec 16) (o : Nat) (l : List Token) : List Token :=
  l.map (fun t => if t.token == token && t.outcome == 0 then { t with outcome := o } else t)
def Token.has (token : BitVec 16) (l : List Token) : Bool := l.any (fun t => t.token == token)

/-- A copy command whose records are all answered resumes its pre-pass or fails (05 R96). -/
def State.cmdAnswered (s : State) (core id : Nat) : State :=
  match (s.core core).cmd? id with
  | none => s
  | some c =>
    if c.toks.isEmpty || c.toks.any (fun t => t.outcome == 0) then s
    else if c.toks.any (fun t => t.outcome == 2) then s.failCmd core c 8
    else s.updCmd core id (fun c => { c with toks := [], state := .prepass })

/-- Where a wave's block lies in an image (18 R397). -/
def State.imageWave (s : State) (i : Image) (wave : Nat) : Nat :=
  let b := s.block i.launch
  i.base + 0xA00 + wave * waveBlockBytes b.width b.vregs

/-- An answer to a saved wave's record is written into the image: two outcome bits for each token (18 R395, R397). -/
def State.imageOutcome (s : State) (i : Image) (p : Nat × BitVec 64 × Word × List Token) : State :=
  let a := s.imageWave i p.1 + 0x009
  let v := (List.range p.2.2.2.length).foldl (fun acc k => acc + ((p.2.2.2.getD k { token := 0, outcome := 0, reason := 0, level := 0, kind := 0, va := 0 }).outcome % 4) * 4 ^ k) 0
  s.homeWrite a 1 v 0 []

/-- The host wait of a wave block at `a`: HMODE and the bit above it, the code, the tokens with their outcomes (18 R397). -/
def State.putHostWait (s : State) (a low code : Nat) (toks : List (Nat × Nat)) : State :=
  let toks := toks.take 4
  let sum (f : Nat → Nat) : Nat := (List.range toks.length).foldl (fun acc k => acc + f k) 0
  (s.homeWrite (a + 0x008) 4 (low + 4 * code + 16 * toks.length + 256 * sum (fun k => (toks.getD k (0, 0)).2 % 4 * 4 ^ k)) 0 []).homeWrite
    (a + 0x028) 8 (sum (fun k => (toks.getD k (0, 0)).1 * 2 ^ (16 * k))) 0 []

/-- An answer to a saved wave's system call is written into the image: s2 to s5 and the parked lanes' PC + 8, or for an error
the lanes' pending SYSCALL trap (18 R395, R397). -/
def State.imageReply (s : State) (i : Image) (wave : Nat) (c : SysCall) (status : BitVec 16) (r0 r1 : Word) : State :=
  let a := s.imageWave i wave
  let lane (l : Nat) : Nat := a + 0x600 + 64 * l
  let s : State := { s with images := s.images.map (fun j => if j.id == i.id then { j with calls := j.calls.filter (fun x => x.2.token != c.token) } else j) }
  let left := (((s.images.find? (fun j => j.id == i.id)).map (fun j => j.calls.filter (fun x => x.1 == wave))).getD []).map (fun x => x.2.token.toNat)
  let s : State := s.putHostWait a (s.homeRead (a + 0x008) 4 % 4) (if left.isEmpty then 0 else 2) (left.map (fun t => (t, 0)))
  if status == 0 then
    let s : State := (s.homeWrite (a + 0x300 + 8) 8 r0.toNat 0 []).homeWrite (a + 0x300 + 16) 8 r1.toNat 0 []
    (lanesOf c.mask).foldl (fun s l => s.homeWrite (lane l) 8 (c.pc + 8).toNat 0 []) s
  else
    let t := mkTrap .syscall c.service.toNat status.toNat 0
    (lanesOf c.mask).foldl (fun s l =>
      let s : State := s.homeWrite (lane l + 0x0A) 2 (s.homeRead (lane l + 0x0A) 2 ||| 256) 0 []
      s.homeWrite (lane l + 0x2C) 16 (t.cause.toNat + t.d0.toNat * 2 ^ 32 + t.d1.toNat * 2 ^ 64 + t.d2.toNat * 2 ^ 96) 0 []) s

/-- Whether a wave's team is being saved: what the host answers then waits until the save ends (18 R395). -/
def State.beingSaved (s : State) (r : WaveRef) : Bool := ((s.team? r.team).map (fun t => t.phase.isSaving)).getD false

/-- The host completes a fault record: outcome 1 RETRY, 2 ABORT (18 R389). -/
def State.fltdone (s : State) (token : BitVec 16) (o : Nat) : State :=
  let s : State := { s with images := s.images.map (fun i =>
      { i with parks := i.parks.map (fun p => (p.1, p.2.1, p.2.2.1, setOutcome token o p.2.2.2)) }) }
  let s : State := s.images.foldl (fun s i => (i.parks.filter (fun p => Token.has token p.2.2.2)).foldl (fun s p => s.imageOutcome i p) s) s
  let waves := s.teams.flatMap (fun t => (t.waves.filter (fun w => Token.has token w.toks)).map (fun w => ({ team := t.uid, wave := w.id } : WaveRef)))
  let s : State := waves.foldl (fun s r =>
    let s : State := s.updWave r (fun w => { w with toks := setOutcome token o w.toks })
    if s.beingSaved r then s else s.answered r) s
  let cmds := (List.range s.cores.length).flatMap (fun i => ((s.core i).cmds.filter (fun c => Token.has token c.toks)).map (fun c => (i, c.id)))
  let s : State := cmds.foldl (fun s p => (s.updCmd p.1 p.2 (fun c => { c with toks := setOutcome token o c.toks })).cmdAnswered p.1 p.2) s
  let nodes := s.replays.flatMap (fun r => ((List.range r.nodes.length).filter (fun i => match r.nodes[i]? with
      | some nd => Token.has token nd.toks
      | none => false)).map (fun i => (r.id, i)))
  nodes.foldl (fun s p => if o == 2 then s.endNode p.1 p.2 (.failed 5) else s.updNode p.1 p.2 (fun nd => { nd with toks := [] })) s

/-- An OK reply: s2 to s5 are written and the parked lanes move on (18 R390); the reply is an acquire at SYSTEM scope. -/
def State.scReply (s : State) (r : WaveRef) (c : SysCall) (status : BitVec 16) : State :=
  let s : State := s.updWave r (fun w => { w with calls := w.calls.filter (fun x => x.token != c.token) })
  if status == 0 then
    let w0 := s.regs.screply0.toNat
    let w1 := s.regs.screply1.toNat
    let s : State := s.updWave r (fun w => ((w.setSBlock 2 2 w0).setSBlock 4 2 w1).goto c.mask (c.pc + 8))
    s.discardClean ((s.wave? r).getD Wave.reset).core
  else s.raiseLanes r c.mask c.pc (mkTrap .syscall c.service.toNat status.toNat 0)

/-- The host completes a system call (18 R389, R390); for a saved team the answer waits in its image's record (18 R395). -/
def State.scdone (s : State) (token status : BitVec 16) : State :=
  let calls := s.teams.flatMap (fun t => t.waves.flatMap (fun w =>
    (w.calls.filter (fun c => c.token == token)).map (fun c => (({ team := t.uid, wave := w.id } : WaveRef), c))))
  match calls with
  | (r, c) :: _ =>
    if !s.beingSaved r then s.scReply r c status
    else if c.reply.isSome then s
    else s.updWave r (fun w => { w with calls := w.calls.map (fun x =>
      if x.token == token then { x with reply := some (status, s.regs.screply0, s.regs.screply1) } else x) })
  | [] =>
    match s.images.flatMap (fun i => (i.calls.filter (fun c => c.2.token == token)).map (fun c => (i, c))) with
    | (i, c) :: _ => s.imageReply i c.1 c.2 status s.regs.screply0 s.regs.screply1
    | [] => s

/-! ### Host rings -/

def HostRing.size (r : HostRing) : Nat := 2 ^ r.log2n.toNat
/-- A ring is full while TAIL − HEAD = N, and while it is disabled (19 R407). -/
def HostRing.full (r : HostRing) : Bool := !r.en || (r.tail - r.head).toNat == r.size
def State.ring (s : State) (i : Nat) : HostRing := s.rings.getD i HostRing.reset
def State.updRing (s : State) (i : Nat) (f : HostRing → HostRing) : State := { s with rings := listSet s.rings i f }

/-- A write to RCFG (19 R406). -/
def State.rcfgWrite (s : State) (i : Nat) (en : Bool) (log2n : BitVec 5) : State :=
  let r := s.ring i
  if r.en then (if en then s else s.updRing i (fun r => { r with en := false }))
  else if !en then s.updRing i (fun r => { r with log2n := log2n })
  else if 6 ≤ log2n.toNat && log2n.toNat ≤ 16 then s.updRing i (fun r => { r with en := true, log2n := log2n, head := 0, tail := 0 })
  else s

/-- A write to RHEAD (19 R406). -/
def State.rheadWrite (s : State) (i : Nat) (v : BitVec 32) : State :=
  let r := s.ring i
  if decide ((r.tail - v).toNat > r.size) then s else s.updRing i (fun r => { r with head := v, pending := false })

/-! ### Links -/

def State.port (s : State) (p : Nat) : Port := s.ports.getD p Port.reset
def State.updPort (s : State) (p : Nat) (f : Port → Port) : State := { s with ports := listSet s.ports p f }
/-- The width code of the lanes present on a port (01 R20, 19 R410). -/
def State.portLanes (s : State) (p : Nat) : Nat :=
  let n := bits s.flash.yLink.toNat (4 * p + 3) (4 * p)
  if n == 8 then 3 else if n == 4 then 2 else if n == 2 then 1 else 0

/-- A write to LKCTL (19 R410, R413): a change of WREQ on a trained port starts a width change; 0 takes the link down, and no change goes on. -/
def State.lkctlWrite (s : State) (p : Nat) (tail : BitVec 32) (wreq : BitVec 2) (en : Bool) : State :=
  s.updPort p (fun q => { q with
    tail := tail, en := en, wreq := wreq, pause := wreq != 0 && (q.pause || (q.up && q.wreq != wreq)),
    up := q.up && wreq != 0, width := if wreq == 0 then 0 else q.width })

/-! ### Start -/

/-- Everything that a start discards (19 R414); memory and flash stay. -/
def State.discard (s : State) : State :=
  { State.reset with
    mem := s.mem
    poison := s.poison
    flash := s.flash
    pcie := s.pcie
    agenda := s.agenda
    issues := s.issues
    uid := s.uid
    free := s.free
    recWindow := s.recWindow }

/-- Near and far memory read zero (19 R414); the host's memory is its own. -/
def State.zeroDevice (s : State) : State := { s with mem := s.mem.filter (fun x => decide (hostBase ≤ x.1)), poison := [] }

/-- Begin a start (19 R414). In recovery mode the device stays there (19 R415). -/
def State.beginStart (s : State) (warm : Bool) : State :=
  let r0 := s.regs
  let s : State := s.discard
  let s : State := { s with regs := { s.regs with
      ready := false, warm := warm, fails := r0.fails, err := r0.err, stage := 1, usum := 0, ucore := [0, 0, 0, 0], ufch := 0, ulink := 0,
      vec3 := r0.vec3 + b2n r0.ready } }
  if r0.recov then { s with regs := { s.regs with recov := true, stage := 0, warm := false } }
  else if warm then s else s.zeroDevice

/-- A stage fails: FAILS counts, and the start is repeated cold, or the device enters recovery mode (19 R415). -/
def State.failStage (s : State) (code : Nat) : State :=
  let n := s.regs.fails.toNat + 1
  let s : State := s.updRegs (fun r => { r with fails := BitVec.ofNat 4 (min 3 n), err := BitVec.ofNat 8 code })
  if n ≥ 3 then s.updRegs (fun r => { r with recov := true, stage := 0, warm := false, vec3 := r.vec3 + 1 }) else s.beginStart false

/-- Whether a stage's own check passes: the firmware image and the yield record verify (19 R414, R416, 01 R18). -/
def State.stageCheck (s : State) (n : Nat) : Bool :=
  if n == 1 then Config.signatureValid s.flash.firmware && decide (s.flash.minimum.toNat ≤ (Config.imageVersion s.flash.firmware).toNat)
  else if n == 5 then Config.signatureValid s.flash.yieldRec
  else true

/-- A verified image raises the minimum to its own version (19 R416). -/
def Flash.raise (f : Flash) (img : List Byte) : Flash :=
  { f with minimum := if f.minimum.toNat < (Config.imageVersion img).toNat then Config.imageVersion img else f.minimum }

/-- The retained-state check of a warm start (19 R414): the training record verifies and matches the present yield record, and every stack
and channel answers. -/
def State.retained (s : State) : Bool × State :=
  let q := s.takeFree
  (Config.trainingMatches s.flash.training s.flash.yieldRec && Config.stacksAnswer q.1, q.2)

/-- A stage completes (19 R414). -/
def State.passStage (s : State) (n : Nat) : State :=
  let goTo (k : Nat) (s : State) : State := s.updRegs (fun r => { r with stage := BitVec.ofNat 8 k })
  match n with
  | 1 => goTo 2 { s with flash := s.flash.raise s.flash.firmware }
  | 2 =>
    if !s.regs.warm then goTo 3 s
    else match s.retained with
      | (true, s) => goTo 5 s
      | (false, s) => goTo 3 (s.zeroDevice.updRegs (fun r => { r with warm := false }))
  | 3 =>
    let q := s.takeFree
    goTo 4 { q.2 with flash := { s.flash with training := Config.trainingRecord q.1 } }
  | 4 => goTo 5 s
  | 5 => goTo 6 (s.updRegs (fun r => { r with usum := s.flash.yUsum, ucore := s.flash.yCore, ufch := s.flash.yFch, ulink := s.flash.yLink }))
  | _ => s.updRegs (fun r => { Regs.reset with
      warm := r.warm, err := r.err, usum := r.usum, ucore := r.ucore, ufch := r.ufch, ulink := r.ulink, vec3 := r.vec3 + 1 })

/-- A RECCMD write (19 R415): verification of the window's image begins. -/
def State.recWrite (s : State) (v : Word) : State :=
  if !s.regs.recov || s.regs.recBusy || bits v.toNat 63 48 != 0x5357 then s
  else s.updRegs (fun r => { r with recBusy := true, recLen := bits v.toNat 23 0 })

/-- The verification in progress ends (19 R415, R416); the image is the window's as it then stands (log entry 48). -/
def State.recVerify (s : State) : State :=
  let s : State := s.updRegs (fun r => { r with recBusy := false })
  let len := s.regs.recLen
  let img := cellBytes s.recWindow 0 len
  let err (e : Nat) : State := s.updRegs (fun r => { r with recErr := BitVec.ofNat 4 e })
  if len == 0 || len > 8388608 then err 3
  else if !Config.signatureValid img then err 1
  else if decide ((Config.imageVersion img).toNat < s.flash.minimum.toNat) then err 2
  else
    let s : State := { s with
      flash := { s.flash.raise img with firmware := img }, regs := { s.regs with recov := false, fails := 0, vec3 := s.regs.vec3 + 1 } }
    s.beginStart false

/-- A RSTCMD write (19 R414); recovery mode ignores it (19 R415). -/
def State.rstWrite (s : State) (key op : Nat) : State :=
  if key != 0x5357 || s.regs.recov then s else if op == 1 then s.beginStart true else if op == 2 then s.beginStart false else s

/-! ### Attestation -/

def State.devstat (s : State) : Nat :=
  b2n s.regs.ready * 2 ^ 63 + b2n s.regs.recov * 2 ^ 62 + b2n s.regs.warm * 2 ^ 61 + s.regs.fails.toNat * 2 ^ 16 +
    s.regs.err.toNat * 2 ^ 8 + s.regs.stage.toNat

/-- Bytes 0x0000 to 0x008F of a report (19 R417). -/
def State.reportBody (s : State) : List Byte :=
  let mcs := (List.range 64).flatMap (fun i => (s.micro.filter (fun m => m.slot == i)).flatMap (·.digest))
  s.attTaken ++ sha3 s.flash.firmware ++ sha3 s.flash.yieldRec ++ sha3 mcs ++ leBytes 8 s.mcvalid ++ leBytes 8 s.devstat

/-- The report is written (19 R417). -/
def State.writeReport (s : State) : State :=
  let body := s.reportBody
  let d := sha3Nat body
  { s with
    attest := body ++ List.replicate 112 0 ++ (List.range 2420).map (fun i => Config.reportSignature d i)
    regs := { s.regs with attBusy := false, attDone := true } }

/-- A request for a report: the nonce is taken; ignored while BUSY (19 R417). -/
def State.attRequest (s : State) : State :=
  if s.regs.attBusy then s else { s with attTaken := s.attNonce, regs := { s.regs with attBusy := true, attDone := false } }

/-- A byte of the mailbox. -/
def State.mailboxByte (s : State) (o : Nat) : Byte :=
  if o < 0x20 then s.attNonce.getD o 0
  else if o < 0x90 || (0x100 ≤ o && o < 0x100 + 2420) then s.attest.getD o 0
  else if 0x1000 ≤ o && o < 0x1000 + 1312 then Config.identityKey (o - 0x1000)
  else if o == 0x1804 then BitVec.ofNat 8 (b2n s.regs.attBusy + 2 * b2n s.regs.attDone)
  else 0

def State.mailboxWrite (s : State) (o n : Nat) (v : Word) : State :=
  if o + n ≤ 0x20 then
    { s with attNonce := (List.range 32).map (fun i => if o ≤ i && i < o + n then BitVec.ofNat 8 (v.toNat / 256 ^ (i - o)) else s.attNonce.getD i 0) }
  else if o == 0x1800 && v.toNat % 2 ^ 32 == 1 then s.attRequest
  else s

/-! ### The register map -/

/-- What a 64-bit register reads, by its BAR0 offset (19 R404). -/
def State.reg64 (s : State) (off : Nat) : Nat :=
  let r := s.regs
  if off == 0x0000 then s.devstat
  else if off == 0x0018 then b2n r.recBusy * 2 ^ 63 + r.recErr.toNat
  else if r.recov then 0
  else if 0x7000 ≤ off && off < 0x7060 then
    let g := s.ring ((off - 0x7000) / 0x20)
    match off % 0x20 with
    | 0x00 => g.base.toNat / 4096 * 4096
    | 0x08 => b2n g.en * 256 + g.log2n.toNat
    | 0x10 => g.head.toNat
    | _ => g.tail.toNat
  else if 0x9000 ≤ off && off < 0x9020 then (r.metcls.getD ((off - 0x9000) / 8) 0).toNat
  else if 0x9040 ≤ off && off < 0x9080 then
    let d := s.die ((off - 0x9040) / 8)
    d.warns.toNat * 2 ^ 32 + b2n d.sat * 256 + d.step
  else if 0xA100 ≤ off && off < 0xA100 + 12 * 0x20 then
    let p := s.port ((off - 0xA100) / 0x20)
    match (off - 0xA100) % 0x20 with
    | 0x00 => p.ring.toNat
    | 0x08 => p.tail.toNat * 2 ^ 32 + p.wreq.toNat * 256 + b2n p.en
    | 0x10 => p.head.toNat * 2 ^ 32 + p.width.toNat * 2 ^ 10 + b2n p.pause * 512 + b2n p.up * 256 + p.rej.toNat
    | _ => 0
  else if 0x1008 ≤ off && off < 0x1028 then (r.ucore.getD ((off - 0x1008) / 8) 0).toNat
  else match off with
    | 0x1000 => r.usum.toNat
    | 0x1028 => r.ufch.toNat
    | 0x1030 => r.ulink.toNat
    | 0x2000 => r.astbase.toNat
    | 0x2008 => r.tlbiva.toNat
    | 0x2018 => b2n r.tlbiLost * 2 + b2n r.tlbiBusy
    | 0x3000 => r.mcaddr.toNat
    | 0x3010 => r.mcerr.toNat * 16 + b2n r.mcbusy
    | 0x3018 => s.mcvalid
    | 0x4008 => b2n r.klost * 128 + s.replays.length
    | 0x4010 => r.gimg.toNat
    | 0x4020 => b2n r.gbusy * 2 ^ 63 + r.gerr.toNat * 2 ^ 16 + r.ghandle.toNat
    | 0x4028 => r.tslice.toNat
    | 0x5000 => r.ordcfg.toNat
    | 0x5008 => r.ordbase.toNat
    | 0x5010 => r.ordsize.toNat
    | 0x5018 => r.ordqkey.toNat
    | 0x5028 => r.ordqalloc.toNat * 2 ^ 32 + r.ordqnext.toNat
    | 0x5030 => r.ordqstat.toNat
    | 0x6000 => r.trbase.toNat
    | 0x8000 => r.precfg.toNat
    | 0x8008 => r.ctxbase.toNat
    | 0x8010 => r.ctxsize.toNat
    | 0xA000 => r.bar2win.toNat
    | _ => 0

/-- Bits [hi:lo] of a written value, in place; the reserved bits read zero (00 R7). -/
def field (v : Word) (hi lo : Nat) : Word := BitVec.ofNat 64 (bits v.toNat hi lo * 2 ^ lo)

/-- A whole 64-bit write to a register, by its BAR0 offset (19 R404): read-only and unassigned offsets ignore it. Before READY
only RSTCMD acts, and in recovery mode only the registers of 19 R415. -/
def State.regWrite64 (s : State) (off : Nat) (v : Word) : State :=
  let set (f : Regs → Regs) : State := s.updRegs f
  let n := v.toNat
  if off == 0x0008 then s.rstWrite (bits n 63 48) (bits n 1 0)
  else if off == 0x0010 then s.recWrite v
  else if off == 0x0018 then set (fun r => { r with recErr := r.recErr &&& ~~~ v.setWidth 4 })
  else if s.regs.recov || !s.regs.ready then s
  else if 0x7000 ≤ off && off < 0x7060 then
    let i := (off - 0x7000) / 0x20
    match off % 0x20 with
    | 0x00 => if (s.ring i).en then s else s.updRing i (fun g => { g with base := field v 63 12 })
    | 0x08 => s.rcfgWrite i (v.getLsbD 8) (v.setWidth 5)
    | 0x10 => s.rheadWrite i (v.setWidth 32)
    | _ => s
  else if 0x9000 ≤ off && off < 0x9020 then set (fun r => { r with metcls := listSet r.metcls ((off - 0x9000) / 8) (fun _ => v) })
  else if 0xA100 ≤ off && off < 0xA100 + 12 * 0x20 then
    let p := (off - 0xA100) / 0x20
    match (off - 0xA100) % 0x20 with
    | 0x00 => s.updPort p (fun q => { q with ring := field v 51 12 ||| field v 3 0 })
    | 0x08 => s.lkctlWrite p (v.extractLsb' 32 32) (v.extractLsb' 8 2) (v.getLsbD 0)
    | _ => s
  else match off with
    | 0x2000 => set (fun r => { r with astbase := field v 51 15 })
    | 0x2008 => set (fun r => { r with tlbiva := field v 63 12 })
    | 0x2010 => s.tlbiWrite v
    | 0x2018 => set (fun r => { r with tlbiLost := r.tlbiLost && !v.getLsbD 1 })
    | 0x3000 => set (fun r => { r with mcaddr := field v 51 12 })
    | 0x3008 => if bits n 9 8 == 1 then s.mcLoad (n % 64) else if bits n 9 8 == 2 then s.mcUnload (n % 64) else s
    | 0x3010 => set (fun r => { r with mcerr := r.mcerr &&& ~~~ v.extractLsb' 4 4 })
    | 0x4000 => s.kickWrite v
    | 0x4008 => set (fun r => { r with klost := r.klost && !v.getLsbD 7 })
    | 0x4010 => set (fun r => { r with gimg := field v 51 0 })
    | 0x4018 => if bits n 17 16 == 1 then s.graphUpload else if bits n 17 16 == 2 then s.graphFree (v.setWidth 16) else s
    | 0x4020 => set (fun r => { r with gerr := r.gerr &&& ~~~ v.extractLsb' 16 4 })
    | 0x4028 => set (fun r => { r with tslice := v.setWidth 16 })
    | 0x5000 => set (fun r => { r with ordcfg := v })
    | 0x5008 => if s.launches.isEmpty then set (fun r => { r with ordbase := field v 51 16 }) else s
    | 0x5010 => if s.launches.isEmpty then set (fun r => { r with ordsize := v.setWidth 16 }) else s
    | 0x5018 => set (fun r => { r with ordqkey := v })
    | 0x5020 => if bits n 17 16 == 1 then s.ordQuery (v.getLsbD 12) (v.setWidth 12) else if bits n 17 16 == 2 then s.ordPurge (v.setWidth 12) else s
    | 0x5030 => set (fun r => { r with ordqstat := r.ordqstat &&& ~~~ field v 60 60 })
    | 0x6000 => if s.launches.any (fun l => l.block.tset != 0) then s else set (fun r => { r with trbase := field v 51 12 })
    | 0x8000 => set (fun r => { r with precfg := field v 63 16 ||| field v 3 0 })
    | 0x8008 => if s.images.isEmpty then set (fun r => { r with ctxbase := field v 51 16 }) else s
    | 0x8010 => if s.images.isEmpty then set (fun r => { r with ctxsize := v.setWidth 16 }) else s
    | 0x8018 => if n % 4 == 1 then s.fltdone (v.extractLsb' 48 16) 1 else if n % 4 == 2 then s.fltdone (v.extractLsb' 48 16) 2 else s
    | 0x8020 => s.scdone (v.extractLsb' 48 16) (v.extractLsb' 32 16)
    | 0x8028 => set (fun r => { r with screply0 := v })
    | 0x8030 => set (fun r => { r with screply1 := v })
    | 0xA000 => set (fun r => { r with bar2win := field v 51 30 })
    | _ => s

def isMailbox (off : Nat) : Bool := 0xB000 ≤ off && off < 0xD000
def recWin : Nat := 0x800000

/-- Read device register space: 4 or 8 bytes, naturally aligned (19 R404). -/
def State.devRead (s : State) (pa n : Nat) : Nat :=
  let off := pa - ioBase
  if s.regs.recov && recWin ≤ off && off + n ≤ 2 * recWin then cellRead s.recWindow (off - recWin) n
  else if isMailbox off then (if s.regs.recov then 0 else leNat ((List.range n).map (fun i => s.mailboxByte (off - 0xB000 + i))))
  else
    let v := s.reg64 (off / 8 * 8)
    if n == 8 then v else if off % 8 == 4 then v / 2 ^ 32 else v % 2 ^ 32

def heldGet (l : List (Nat × Reg)) (off : Nat) : Reg := match l.find? (fun e => e.1 == off) with | some e => e.2 | none => 0
def heldDrop (l : List (Nat × Reg)) (off : Nat) : List (Nat × Reg) := l.filter (fun e => e.1 != off)

/-- Write device register space under the writer's held low halves (19 R404): the state and the held halves after it. -/
def State.devWrite (s : State) (held : List (Nat × Reg)) (pa n : Nat) (v : Word) : State × List (Nat × Reg) :=
  let off := pa - ioBase
  let reg := off / 8 * 8
  if s.regs.recov && recWin ≤ off && off + n ≤ 2 * recWin then
    ({ s with recWindow := cellWrite s.recWindow (off - recWin) n v.toNat }, held)
  else if isMailbox off then (if s.regs.recov || !s.regs.ready then s else s.mailboxWrite (off - 0xB000) n v, held)
  else if n == 8 then (s.regWrite64 reg v, heldDrop held reg)
  else if off % 8 == 0 then (s, heldDrop held reg ++ [(reg, v.setWidth 32)])
  else (s.regWrite64 reg (BitVec.ofNat 64 (v.toNat % 2 ^ 32 * 2 ^ 32 + (heldGet held reg).toNat)), heldDrop held reg)

/-- A host write to BAR0 (19 R404): 4 or 8 bytes naturally aligned, or it has no effect. A start that it begins drops the held halves. -/
def State.hostRegWrite (s : State) (pa n : Nat) (v : Word) : State :=
  if (n == 4 || n == 8) && pa % n == 0 && ioBase ≤ pa && pa + n ≤ ioBase + 2 ^ 24 then
    let r := s.devWrite s.hostHeld pa n v
    let begun := (s.regs.ready || s.regs.recov) && !r.1.regs.ready && !r.1.regs.recov
    { r.1 with hostHeld := if begun then [] else r.2 }
  else s

end Sys2Proof.Machine
end

