-- ==== Sys2Proof/Machine/Operands.lean ====
section
/-! DEFINITION. Every operand form: the sources of Formats V and S (02 R25 to R27), the addresses of Format M (02 R28, 06 R120),
and the writing of lane results. -/

namespace Sys2Proof.Machine

/-- How a 32-bit immediate feeds an operation (02 R26). -/
inductive ImmTy where
  | plain | s64 | f64
  deriving DecidableEq, Repr

/-- An F32 code as the F64 operand it stands for (02 R26): a NaN keeps its sign and its fraction bits. -/
def f32ToF64Imm (x : Nat) : Nat :=
  match fdecode .f32 x with
  | .nan _ => x / 2 ^ 31 * 2 ^ 63 + 2047 * 2 ^ 52 + x % 2 ^ 23 * 2 ^ 29
  | v => fencode .f64 v

def immVal (ty : ImmTy) (x : Nat) : Nat :=
  match ty with
  | .plain => x
  | .s64 => wrap 64 (toSigned 32 x)
  | .f64 => f32ToF64Imm x

/-- A source of `n` registers under its kind (02 R25). -/
def readSrc (k : Kind) (idx : BitVec 9) (w : Wave) (ln : Lane) (n : Nat) (ty : ImmTy) (imm : Nat) : Nat :=
  match k with
  | .vec => ln.vblock idx.toNat n
  | .sca => w.sblock idx.toNat n
  | .zero => 0
  | .imm => immVal ty imm

/-- Source A: an immediate is X[31:0]. -/
def srcA (h : Hdr) (f : VFields) (w : Wave) (ln : Lane) (n : Nat) (ty : ImmTy) : Nat :=
  readSrc f.ka f.a w ln n ty (hdrExt h % 2 ^ 32)
/-- Source B: an immediate is X[63:32]. -/
def srcB (h : Hdr) (f : VFields) (w : Wave) (ln : Lane) (n : Nat) (ty : ImmTy) : Nat :=
  readSrc f.kb f.b w ln n ty (hdrExt h / 2 ^ 32)
/-- Source C: a vector register, or the literal zero (KC = 1). -/
def srcC (f : VFields) (ln : Lane) (n : Nat) : Nat := if f.kc then 0 else ln.vblock f.c.toNat n

/-- What an instruction gives one lane: register writes, predicate writes, flags. -/
structure LaneOut where
  regs : List (Nat × Nat)
  preds : List (Nat × Bool)
  flags : Flags
  deriving DecidableEq, Repr

def LaneOut.nothing : LaneOut := { regs := [], preds := [], flags := 0 }
/-- A result of `n` registers in D. -/
def outRegs (d : BitVec 9) (n v : Nat) (fl : Flags := 0) : LaneOut :=
  { regs := (List.range n).map (fun i => (d.toNat + i, v / 2 ^ (32 * i) % 2 ^ 32)), preds := [], flags := fl }
/-- A predicate result. -/
def outPred (p : Nat) (b : Bool) (fl : Flags := 0) : LaneOut := { regs := [], preds := [(p, b)], flags := fl }

/-- Apply a lane's results. -/
def Lane.apply (ln : Lane) (o : LaneOut) : Lane :=
  o.preds.foldl (fun ln p => ln.setPred p.1 p.2) (o.regs.foldl (fun ln p => ln.setV p.1 p.2) ln)

/-- The flags of the participating lanes, ORed (02 R44). -/
def flagsOver (w : Wave) (m : BitVec 64) (op : Wave → Nat → Lane → LaneOut) : Flags :=
  (lanesOf m).foldl (fun a l => a ||| (op w l (w.lane l)).flags) 0

/-- A vector instruction with fixed-latency results: each participating lane's results are written at issue (02 R35). -/
def State.vecFixed (s : State) (h : Hdr) (op : Wave → Nat → Lane → LaneOut) : State :=
  let w := s.curWave
  let m := s.part h
  (s.updCur (fun _ => (w.updLanes m (fun l ln => ln.apply (op w l ln))).orFlags (flagsOver w m op))).finish h

/-- A vector instruction with a variable-latency result: sources are read at issue, the writes are outstanding (02 R35). -/
def State.vecVar (s : State) (h : Hdr) (op : Wave → Nat → Lane → LaneOut) : State :=
  let w := s.curWave
  let m := s.part h
  let ws : List RegWrite := (lanesOf m).flatMap (fun l => (op w l (w.lane l)).regs.map (fun p =>
    { scalar := false, lane := l, reg := p.1, val := BitVec.ofNat 32 p.2 }))
  (s.addOut (Out.ofWrites s.cur.pc ws (flagsOver w m op))).finish h

/-- Source B of Format S for a `wide` form; `zx`: IMM16 is zero-extended (02 R27, 08 R170). -/
def scaB (h : Hdr) (f : SFields) (w : Wave) (wide zx : Bool) : Nat :=
  if f.ik then
    match h.x with
    | some x => if wide then wrap 64 (toSigned 32 (x.toNat % 2 ^ 32)) else x.toNat % 2 ^ 32
    | none => if zx then f.imm.toNat else wrap (if wide then 64 else 32) (toSigned 16 f.imm.toNat)
  else w.sblock f.b.toNat (if wide then 2 else 1)
def scaA (f : SFields) (w : Wave) (wide : Bool) : Nat := w.sblock f.a.toNat (if wide then 2 else 1)

/-- A scalar instruction: it takes place once per issue (02 R41) and writes D at issue. -/
def State.scalar (s : State) (h : Hdr) (f : SFields) (wide : Bool) (v : Wave → Nat) : State :=
  let w := s.curWave
  (s.updCur (fun w' => w'.setSBlock f.d.toNat (if wide then 2 else 1) (v w))).finish h

/-- The offset of Format M: OFF16, or X[31:0], signed (02 R28). -/
def memOff (h : Hdr) (f : MFields) : Int :=
  match h.x with
  | some x => toSigned 32 (x.toNat % 2 ^ 32)
  | none => toSigned 16 f.off.toNat

/-- The exact global address of a lane (06 R124). -/
def globalEa (h : Hdr) (f : MFields) (w : Wave) (ln : Lane) : Int :=
  ((if f.ak then w.spair f.a.toNat else ln.vpair f.a.toNat : Nat) : Int) + memOff h f
/-- The exact local address of a lane (06 R120). -/
def localEa (h : Hdr) (f : MFields) (w : Wave) (ln : Lane) : Int :=
  ((if f.ak then w.sr f.a.toNat else ln.vr f.a.toNat : Nat) : Int) + memOff h f

/-- Bytes of a SIZE (02 R28). -/
def sizeBytes (f : MFields) : Nat := 2 ^ f.size.toNat

/-- The ILLEGAL trap of an instruction of the current issue (02 R45): the handler lanes are all lanes of the issue (18 R382). -/
def State.illegalWord (s : State) (h : Hdr) (word reason : Nat) : State :=
  s.trapLanes h s.cur.mask (mkTrap .illegal (word % 2 ^ 32) (word / 2 ^ 32) reason)
def State.illegal (s : State) (h : Hdr) (i : Instr) (reason : Nat) : State :=
  s.illegalWord h (match layoutOf i with
    | some l => l.word.toNat
    | none => 0) reason

/-- Whether a vector block breaks 02 R26 in the current kernel. -/
def State.badBlock (s : State) (idx n : Nat) : Bool := decide (idx + n > s.curTeam.vregs) || idx % blockAlign n != 0

end Sys2Proof.Machine
end

