-- ==== Sys2Proof/Machine/Access.lean ====
section
/-! DEFINITION. Performing accesses at their points (13 R276 to R281), their ordering, releases and acquires (13 R282 to R285), the
atomic operations (13 R291 to R293), atomics on HOST pages (04 R91), and the writing of outstanding results (02 R35). -/

namespace Sys2Proof.Machine

/-! ### Scopes -/

/-- Whether a scope is carried out at the home slice: PAIR and wider, and TEAM of a pair team (13 R274, R276). -/
def wideScope (pair : Bool) (scope : Nat) : Bool := decide (scope ≥ 4) || (pair && scope == 2)

/-- The release part of a fence or access, before its write: dirty bytes go home (13 R282). -/
def State.releasePart (s : State) (core : Nat) (pair : Bool) (scope : Nat) : State :=
  if wideScope pair scope then s.cleanAll core else s
/-- Whether the release part is complete: no write-back waits for its budget (19 R399). -/
def State.released (s : State) (core : Nat) (pair : Bool) (scope : Nat) : Bool := !wideScope pair scope || !s.dirtyIn core (fun _ => true)
/-- The acquire part, after its read: clean bytes leave (13 R282). -/
def State.acquirePart (s : State) (core : Nat) (pair : Bool) (scope : Nat) : State :=
  if wideScope pair scope then s.discardClean core else s

/-- SCOPEMISS when an acquire meets a release's mark that it does not overlap (13 R285). -/
def missFlag (ts : List RelTag) (team wave core scope : Nat) : Flags :=
  flagIf (ts.any (fun t => !t.overlaps team wave core scope)) fSCOPEMISS

/-! ### Atomic operations -/

/-- The new value of an atomic on `w` bits (13 R291 to R293); `v`: operand, with the compare value in its low bits for CAS. -/
def atomicNew (op : AOp) (w old v : Nat) : Nat :=
  let m := 2 ^ w
  let x := v % m
  let lt := decide (toSigned w old < toSigned w x)
  match op with
  | .add => (old + x) % m
  | .minS => if lt then old else x
  | .maxS => if lt then x else old
  | .minU => min old x
  | .maxU => max old x
  | .and => old &&& x
  | .or => old ||| x
  | .xor => old ^^^ x
  | .xchg => x
  | .cas => if old == x then v / m % m else old
  | .fadd => (roundTo .f32 .rn (Val.sum .rn [fdecode .f32 old, fdecode .f32 x]).1).1
  | .inc => if old ≥ x then 0 else old + 1
  | .dec => if old == 0 || decide (old > x) then x else old - 1
  | .xredF => xaccAdd old (fdecode .f32 (v % 2 ^ 32))
  | .xredImg => xaccAddImage old v

/-! ### One access -/

def AKind.writes : AKind → Bool
  | .store => true
  | .atomic _ => true
  | .ordout => true
  | _ => false
def AKind.reads : AKind → Bool
  | .load => true
  | .atomic _ => true
  | _ => false
def Acc.acquires (a : Acc) : Bool := a.kind.reads && (a.ord == 1 || a.ord == 3)
/-- A scope added to a set of scopes, kept rising. -/
def addScope (k : Nat) (l : List Nat) : List Nat := (List.range 7).filter (fun x => x == k || l.elem x)
/-- The scopes at which an access releases: its own, and those of the lane's release fences; empty: it is no release (13 R280). -/
def Acc.relScopes (a : Acc) (ln : Lane) : List Nat :=
  if !a.kind.writes then [] else if a.ord ≥ 2 then addScope a.scope ln.relScopes else ln.relScopes

/-- The mark of a release by a lane at some scopes, none for none; the next core-scope release of its core has its number (13 R284). -/
def State.ownTags (s : State) (r : WaveRef) (lane core : Nat) (scopes : List Nat) : List RelTag :=
  if scopes.isEmpty then []
  else [{ host := false, team := r.team, wave := r.wave, lane := lane, core := core, scopes := scopes, time := (s.core core).released + 1 }]

/-- Whether two accesses share a byte. -/
def Acc.meets (a b : Acc) : Bool := a.side == b.side && decide (a.pa < b.pa + b.len) && decide (b.pa < a.pa + a.len)

/-- Bytes of scratch as a number, and back. -/
def State.sideRead (s : State) (team side a n : Nat) : Nat := cellRead ((s.team? team).getD Team.reset |>.side side).scratch a n
def State.sideRels (s : State) (team side a n : Nat) : List RelTag := (((s.team? team).getD Team.reset).side side).rels a n
def State.sideWrite (s : State) (team side a n v : Nat) (ts : List RelTag) : State :=
  let s : State := s.updTeam team (fun t => t.updSide side (fun d => d.put a (leBytes n v) ts))
  if s.poisonRegs.isEmpty then s
  else { s with poisonRegs := s.poisonRegs.filter (fun p => match p with
    | .scratch t k w => !(t == team && k == side && a ≤ 4 * w && 4 * w + 4 ≤ a + n)
    | _ => true) }

/-- The point read of a load of device or host memory: value, marks, state after (13 R276). -/
def State.pointLoad (s : State) (core : Nat) (pair : Bool) (a : Acc) : (Nat × List RelTag) × State :=
  match a.mtype with
  | .cached =>
    if wideScope pair a.scope then
      let s : State := ((s.cleanLine core (lineOf a.pa)).promoteFor a.pa a.len (some core)).refreshCopy core a.pa a.len
      ((s.homeRead a.pa a.len, s.relsIn a.pa a.len), s)
    else s.cacheLoad core a.pa a.len a.ch
  | .homeonly =>
    let s : State := if wideScope pair a.scope then s.promoteFor a.pa a.len (some core) else s
    ((s.homeRead a.pa a.len, s.relsIn a.pa a.len), s)
  | _ => ((s.homeRead a.pa a.len, s.relsIn a.pa a.len), s)

/-- The point write of a store (13 R276). -/
def State.pointStore (s : State) (core : Nat) (pair : Bool) (writer : Nat) (a : Acc) (ts : List RelTag) : State :=
  let bs := leBytes a.len a.data
  match a.mtype with
  | .cached =>
    if wideScope pair a.scope then ((s.homeStore a.pa bs writer ts).refreshCopy core a.pa a.len).healLine core a.pa a.len
    else s.cacheStore core a.pa bs a.ch writer ts
  | _ => s.homeStore a.pa bs writer ts

/-- The point read-modify-write of an atomic outside scratch (13 R276, R290): the old value and the state after. -/
def State.pointAtomic (s : State) (core : Nat) (pair : Bool) (writer : Nat) (op : AOp) (a : Acc) (own : List RelTag) :
    (Nat × List RelTag) × State :=
  let s : State := if a.mtype == .cached then s.cleanLine core (lineOf a.pa) else s
  let s : State := if wideScope pair a.scope then s.promoteFor a.pa a.len (some core) else s
  let old := s.homeRead a.pa a.len
  let ts := s.relsIn a.pa a.len
  let bs := leBytes a.len (atomicNew op (8 * a.len) old a.data)
  let s : State := s.homeStore a.pa bs writer (tagSet (ts ++ own))
  ((old, ts), if a.mtype == .cached then s.refreshCopy core a.pa a.len else s)

/-- Queue a notice of a core-scope release write to device memory, and number it (13 R283). -/
def State.notice (s : State) (core pa : Nat) (ts : List RelTag) : State :=
  if ts.any (fun t => t.scopes.elem 3) && s.isDev pa then
    s.updCore core (fun k => { k with released := k.released + 1, notices := k.notices ++ [(lineOf pa, k.released + 1)] })
  else s

def State.updAcc (s : State) (r : WaveRef) (k j : Nat) (f : Acc → Acc) : State :=
  s.updWave r (fun w => { w with outs := listSet w.outs k (fun o => { o with accs := listSet o.accs j f }) })

/-- The access is performed: its result is kept, its marks are met or judged. -/
def State.accDone (s : State) (r : WaveRef) (k j : Nat) (a : Acc) (core : Nat) (val : Nat) (ts : List RelTag) : State :=
  let s : State := s.updAcc r k j (fun x => { x with state := .done, result := val })
  let s : State := s.updWave r (fun w => (w.updLanes (1#64 <<< a.lane) (fun _ ln =>
    { ln with seen := if a.kind.reads then tagSet (ln.seen ++ ts) else ln.seen })).orFlags
      (if a.acquires then missFlag ts r.team r.wave core a.scope else 0))
  s

/-- The slice fails an ORDOUT: its lane holds the key again, and traps at it (16 R352). -/
def State.ordoutBad (s : State) (r : WaveRef) (lane : Nat) (pc key : Word) (t : TrapInfo) : State :=
  let m : BitVec 64 := (1#64 <<< lane) &&& ((s.wave? r).getD Wave.reset).liveMask
  if m == 0 then s
  else
    let s : State := s.withdraw (fun x => x.team == r.team && x.wave == r.wave && x.lane == lane)
    (s.updWave r (fun w => (w.updLanes m (fun _ ln => ln.regain key)).goto m pc)).raiseLanes r m pc t

/-- Perform one access (13 R276). -/
def State.performAcc (s : State) (r : WaveRef) (k j : Nat) : State :=
  match s.team? r.team, s.wave? r with
  | some t, some w =>
    match w.outs[k]? with
    | none => s
    | some o =>
      match o.accs[j]? with
      | none => s
      | some a =>
        let core := w.core
        let rel := a.relScopes (w.lane a.lane)
        let own := s.ownTags r a.lane core rel
        let s : State := rel.foldl (fun s k => s.releasePart core t.pair k) s
        match a.side with
        | some sd =>
          match a.kind with
          | .load => (s.accDone r k j a core (s.sideRead r.team sd a.pa a.len) (s.sideRels r.team sd a.pa a.len)).acquirePart core t.pair (if a.acquires then a.scope else 0)
          | .store => (s.sideWrite r.team sd a.pa a.len a.data own).accDone r k j a core 0 []
          | .atomic op =>
            let old := s.sideRead r.team sd a.pa a.len
            let ts := s.sideRels r.team sd a.pa a.len
            let s : State := s.sideWrite r.team sd a.pa a.len (atomicNew op (8 * a.len) old a.data) (tagSet (ts ++ own))
            (s.accDone r k j a core old ts).acquirePart core t.pair (if a.acquires then a.scope else 0)
          | .ordout =>
            let asn := BitVec.ofNat 12 (s.block t.launch).asn
            let key := BitVec.ofNat 64 a.data
            let s : State := s.accDone r k j a core 0 []
            match (s.rowanFind asn false key).1 with
            | .badImage => s.ordoutBad r a.lane o.pc key (rowanTrap asn 7 key)
            | _ => s.releaseKey asn key
          | _ => s.accDone r k j a core 0 []
        | none =>
          match a.kind with
          | .load =>
            if a.mtype == .io then s.accDone r k j a core (s.devRead a.pa a.len) []
            else
              let q := s.pointLoad core t.pair a
              (q.2.accDone r k j a core q.1.1 q.1.2).acquirePart core t.pair (if a.acquires then a.scope else 0)
          | .store =>
            if a.mtype == .io then
              let q := s.devWrite w.heldLow a.pa a.len (BitVec.ofNat 64 a.data)
              (q.1.updWave r (fun w => { w with heldLow := q.2 })).accDone r k j a core 0 []
            else ((s.pointStore core t.pair t.launch a own).notice core a.pa own).accDone r k j a core 0 []
          | .atomic op =>
            let q := s.pointAtomic core t.pair t.launch op a own
            ((q.2.notice core a.pa own).accDone r k j a core q.1.1 q.1.2).acquirePart core t.pair (if a.acquires then a.scope else 0)
          | .pref home =>
            if home || a.mtype != .cached || !(s.core core).hasCache then s.accDone r k j a core 0 []
            else ((s.touchLine core (lineOf a.pa) a.ch).fillSectors core a.pa a.len).accDone r k j a core 0 []
          | .flush sub =>
            let l := lineOf a.pa
            let s : State := if sub == 0 then s.cleanLine core l
              else if sub == 1 then (s.dropLine core l).dropDrain core l
              else s.evictLine core l
            s.accDone r k j a core 0 []
          | .ordout => s.accDone r k j a core 0 []
  | _, _ => s

/-! ### When an access may be performed -/

/-- The accesses of a wave in program order with their places. -/
def Wave.accList (w : Wave) : List (Nat × Nat × Acc) :=
  (List.range w.outs.length).flatMap (fun k => match w.outs[k]? with
    | some o => (List.range o.accs.length).filterMap (fun j => o.accs[j]?.map (fun a => (k, j, a)))
    | none => [])

/-- Whether `b` must be performed before the later access `a` of the same wave (13 R280, 04 R74, 06 R124, 13 R290). -/
def Wave.mustPrecede (w : Wave) (kb : Nat) (b : Acc) (ka : Nat) (a : Acc) : Bool :=
  let writes := a.kind.writes || b.kind.writes
  (a.lane == b.lane && ((a.meets b) || b.acquires || !(a.relScopes (w.lane a.lane)).isEmpty)) ||
  (ka == kb && writes && a.meets b) ||
  (a.mtype == .io && b.mtype == .io && a.side.isNone && b.side.isNone)

/-- The accesses of an instruction to device memory in one line: one request (06 R121). -/
def Out.inLine (o : Out) (l : Nat) : List Acc := o.accs.filter (fun b => b.side.isNone && lineOf b.pa == l)

/-- Whether an access's request misses the core cache at some byte of `a`. -/
def Core.misses (c : Core) (a : Acc) : Bool := (List.range a.len).any (fun i => (c.cbyte? (a.pa + i)).isNone)

/-- Whether an access goes out of its core as a metered request: each atomic, else one request for each line of an instruction
(06 R121, 19 R398); write-backs are charged where they happen. -/
def State.metered (s : State) (core : Nat) (pair : Bool) (o : Out) (a : Acc) : Bool :=
  a.side.isNone && s.isDev a.pa &&
  (match a.kind with
    | .atomic _ => true
    | .flush _ => false
    | k => !((o.inLine (lineOf a.pa)).any (fun b => b.state == .done)) &&
      (a.mtype != .cached || wideScope pair a.scope || !(s.core core).hasCache || (match k with
        | .store => a.ch == 3
        | _ => (o.inLine (lineOf a.pa)).any (s.core core).misses)))

/-- The bytes of an access's request (19 R398): those that an atomic or a store writes, and the sectors that a load fetches: the ones
it touches, and of a CACHED load those that miss (06 R121). -/
def State.requestBytes (s : State) (core : Nat) (pair : Bool) (o : Out) (a : Acc) : Nat :=
  let line := o.inLine (lineOf a.pa)
  let cached := a.mtype == .cached && !wideScope pair a.scope && (s.core core).hasCache
  let touched (k : Nat) : List Acc := line.filter (fun b => decide (b.pa % 256 / 64 ≤ k) && decide (k ≤ (b.pa % 256 + b.len - 1) / 64))
  match a.kind with
  | .atomic _ => a.len
  | .store => (List.range 256).countP (fun i => line.any (fun b => decide (b.pa % 256 ≤ i) && decide (i < b.pa % 256 + b.len)))
  | _ => 64 * (List.range 4).countP (fun k => (touched k).any (fun b => !cached || (s.core core).misses b))

/-- Whether a HOST access finds the window locked by a split atomic (04 R91). -/
def State.hostLocked (s : State) : Bool := s.hostAtomics.any (·.split)

/-- Whether a write of the wave's engines that comes before out `k`, of identity `id`, keeps its access `a` waiting: an element update of
an add-on-store to the same bytes by the same lane, and, for a release, every DRAIN and BANKCFG of the wave (13 R280 to R282). -/
def State.engineFirst (s : State) (r : WaveRef) (w : Wave) (k id : Nat) (a : Acc) : Bool :=
  let rel := !(a.relScopes (w.lane a.lane)).isEmpty
  (rel && (w.outs.take k).any (fun o => (o.fin == .none && !o.ready) || (o.fin == .drain && o.accs.any (fun b => b.state != .done)))) ||
  s.cores.any (fun c => c.addons.any (fun u => !u.applied && u.team == r.team && u.wave == r.wave && decide (u.drain < id) &&
    (rel || (u.lane == a.lane && u.side == a.side && decide (u.pa < a.pa + a.len) && decide (a.pa < u.pa + (if u.exact then 32 else 4))))))

/-- Whether access (k, j) of a wave may be performed now. -/
def State.accReady (s : State) (r : WaveRef) (k j : Nat) : Bool :=
  match s.team? r.team, s.wave? r with
  | some t, some w =>
    match w.outs[k]? with
    | none => false
    | some o =>
      match o.accs[j]? with
      | none => false
      | some a =>
        a.state == .todo &&
        w.accList.all (fun b => b.2.2.state == .done || !(decide (b.1 < k) || (b.1 == k && decide (b.2.1 < j))) || !(w.mustPrecede b.1 b.2.2 k a)) &&
        (a.mtype != .host || a.side.isSome || !s.hostLocked) &&
        (a.side.isSome || (match a.kind with | .flush _ => true | _ => false) ||
          !(s.core w.core).draining.any (fun d => d.lines.any (fun x => x.line == lineOf a.pa))) &&
        !s.engineFirst r w k o.id a &&
        (a.side.isSome || a.mtype != .cached || wideScope t.pair a.scope || a.ch == 3 || !(s.core w.core).hasCache ||
          !(a.kind == .load || a.kind == .store || a.kind == .pref false) || s.roomFor w.core (lineOf a.pa)) &&
        (!(s.metered w.core t.pair o a) || s.meterOk w.core a.pa)
  | _, _ => false

/-- Whether an atomic's AtomicOp form exists (04 R91). -/
def atomicOpForm (op : AOp) (len : Nat) : Bool := (op == .add || op == .xchg || op == .cas) && (len == 4 || len == 8)

/-- Whether an access writes its core's dirty bytes of its line back before it is performed (13 R276, R290, 06 R127). -/
def Acc.cleans (a : Acc) (pair : Bool) : Bool :=
  a.side.isNone && a.mtype == .cached && (match a.kind with
    | .load => wideScope pair a.scope
    | .atomic _ => true
    | .flush sub => sub != 1
    | _ => false)

/-- The write-backs that come before an access: of a release, and of its line. -/
def State.prepAcc (s : State) (core : Nat) (pair : Bool) (rel : List Nat) (a : Acc) : State :=
  let s : State := rel.foldl (fun s k => s.releasePart core pair k) s
  if a.cleans pair then s.cleanLine core (lineOf a.pa) else s
/-- Whether none of them waits for its budget (19 R399). -/
def State.prepared (s : State) (core : Nat) (pair : Bool) (rel : List Nat) (a : Acc) : Bool :=
  rel.all (s.released core pair) && !(a.cleans pair && s.dirtyIn core (fun x => x.line == lineOf a.pa))

/-- The uncorrectable word that an access would read: HWERR store and index (18 R380). -/
def State.accBad (s : State) (uid core : Nat) (a : Acc) : Option (Nat × Nat) :=
  if !a.kind.reads then none
  else match a.side with
    | some k => s.badSide uid k false a.pa a.len
    | none => s.badWord core (a.mtype == .cached) a.pa a.len

/-- A DRAIN to memory in an engine's queue, which its wave carries out row by row. -/
def EngineOp.storing (op : EngineOp) : Bool := match op.instr with | .drain _ f => f.sub != 3 | _ => false

/-- What stays of an instruction in progress when lanes of it are taken back: a begun one goes on for its other lanes. -/
def Prog.without (p : Prog) (m : BitVec 64) : Option Prog :=
  if !p.begun || p.mask &&& ~~~m == 0 then none
  else some { p with mask := p.mask &&& ~~~m, lanes := p.lanes.filter (fun x => !m.getLsbD x.lane) }

/-- An issued instruction, out `i` of a wave, meets a trap as it is performed: its results are dropped, and the lanes of `m` return to it
and trap (04 R91, 18 R380). -/
def State.takeBack (s : State) (r : WaveRef) (i : Nat) (m : BitVec 64) (t : TrapInfo) : State :=
  match s.wave? r with
  | none => s
  | some w =>
    match w.outs[i]? with
    | none => s
    | some o =>
      let m := m &&& w.liveMask
      let left := w.prog.bind (fun p => p.without m)
      let s : State := { s with
        hostAtomics := s.hostAtomics.filter (fun x => !(x.wave == r && x.out == o.id))
        cores := if w.prog.isSome && left.isNone then s.cores.map (fun c => { c with
          engine := c.engine.filter (fun e => !(e.storing && e.team == r.team && e.wave == r.wave)) }) else s.cores }
      (s.updWave r (fun w => { w.goto m o.pc with outs := listDrop w.outs i, prog := left })).raiseLanes r m o.pc t

/-- The lanes of an out's accesses. -/
def Out.lanes (o : Out) : BitVec 64 := maskOf (fun l => o.accs.any (fun a => a.lane == l))

/-- An issued instruction would read a word that has become uncorrectable since its issue: a record of kind HWERR, and the trap
(18 R380). -/
def State.outHwerr (s : State) (r : WaveRef) (i : Nat) (m : BitVec 64) (store index : Nat) : State :=
  match s.team? r.team, s.wave? r with
  | some tm, some w =>
    let pc := ((w.outs[i]?).map (·.pc)).getD 0
    let t := hwerrTrap store index
    (s.pushRecord 1 (faultRecord 0 4 0 0 0 tm.launch (recordW1 tm w) 0 (s.block tm.launch).asn pc t 0)).takeBack r i m t
  | _, _ => s

/-- Perform an access, or send a HOST atomic to the bridge, where its completion is awaited (04 R91). -/
def State.doAcc (s : State) (r : WaveRef) (k j : Nat) : State :=
  if !s.accReady r k j then s
  else
    match s.team? r.team, s.wave? r with
    | some t, some w =>
      match w.outs[k]? with
      | none => s
      | some o =>
        match o.accs[j]? with
        | none => s
        | some a =>
          let rel := a.relScopes (w.lane a.lane)
          let s : State := s.prepAcc w.core t.pair rel a
          let metered := s.metered w.core t.pair o a
          if !s.prepared w.core t.pair rel a || (metered && !s.meterOk w.core a.pa) then s
          else
            let s : State := if metered then s.meterCharge w.core a.pa (s.requestBytes w.core t.pair o a) else s
            match s.accBad r.team w.core a with
            | some (st, ix) => s.outHwerr r k o.lanes st ix
            | none =>
              match a.kind, a.mtype, a.side with
              | .atomic op, .host, none =>
                let split := !(s.pcie.atomicOp && atomicOpForm op a.len)
                let s : State := s.updAcc r k j (fun x => { x with state := .hostWait })
                { s with hostAtomics := s.hostAtomics ++ [{ wave := r, out := o.id, acc := j, split := split }] }
              | _, _, _ => s.performAcc r k j
    | _, _ => s

/-- Perform, in program order, every access of a wave that passes a test and may be performed. -/
def State.performSome (s : State) (r : WaveRef) (p : Acc → Bool) : State :=
  ((s.wave? r).getD Wave.reset).accList.foldl (fun s x => if p x.2.2 then s.doAcc r x.1 x.2.1 else s) s

/-- Whether every access of a wave that passes a test has been performed. -/
def Wave.performed (w : Wave) (p : Acc → Bool) : Bool := w.accList.all (fun x => x.2.2.state == .done || !p x.2.2)

/-- The accesses of some lanes. -/
def ofLanes (m : BitVec 64) (a : Acc) : Bool := m.getLsbD a.lane

/-- Whether a read by lane `l` outside its accesses (of WAITW, a macro, the Warren's queues) must wait for what its wave has issued before
it: an acquire of the lane, a write of the lane to the same bytes, an IO access for a read of IO, and the lock of the host window
(13 R280, R281, 04 R74, R91). -/
def State.readBusy (s : State) (r : WaveRef) (l : Nat) (t : MType) (pa n : Nat) : Bool :=
  ((s.wave? r).getD Wave.reset).accList.any (fun x =>
    let a := x.2.2
    a.state != .done && ((a.lane == l && (a.acquires || (a.side.isNone && a.kind.writes && decide (a.pa < pa + n) && decide (pa < a.pa + a.len)))) ||
      (t == .io && a.mtype == .io && a.side.isNone))) ||
  s.cores.any (fun c => c.addons.any (fun u => !u.applied && u.team == r.team && u.wave == r.wave && u.lane == l && u.side.isNone &&
    decide (u.pa < pa + n) && decide (pa < u.pa + (if u.exact then 32 else 4)))) ||
  (t == .host && s.hostLocked)

/-! ### Results -/

/-- The accesses of an instruction with every cut undone (13 R278). -/
def joinAccs : List Acc → List Acc
  | [] => []
  | a :: r =>
    match joinAccs r with
    | b :: t => if b.rest then { a with len := a.len + b.len, result := a.result + 2 ^ (8 * a.len) * b.result } :: t else a :: b :: t
    | [] => [a]

/-- Whether an access may be performed in two parts, cut at byte `n`: a plain access at any aligned 4-byte unit, a scoped one at an aligned
8-byte unit; not an atomic, an IO access, or a load that 06 R122 performs as one (13 R278). -/
def Acc.cuttable (a : Acc) (n : Nat) : Bool :=
  a.state == .todo && (a.kind == .load || a.kind == .store) && (a.side.isSome || a.mtype != .io) && !(a.kind == .load && a.ch == 3) &&
  decide (0 < n) && decide (n < a.len) && n % (if a.scope == 0 then 4 else 8) == 0

/-- The two parts of an access cut at byte `n`. -/
def Acc.cut (a : Acc) (n : Nat) : List Acc :=
  [{ a with len := n, data := a.data % 2 ^ (8 * n) },
   { a with va := a.va + n, pa := a.pa + n, len := a.len - n, data := a.data / 2 ^ (8 * n), rest := true }]

/-- Cut access `j` of out `k` of a wave at byte `n`; its parts are performed apart. -/
def State.cutAcc (s : State) (r : WaveRef) (k j n : Nat) : State :=
  s.updWave r (fun w => { w with outs := listSet w.outs k (fun o =>
    match o.accs[j]? with
    | some a => if a.cuttable n then { o with accs := o.accs.take j ++ a.cut n ++ o.accs.drop (j + 1) } else o
    | none => o) })

/-- The register writes of one access's result. -/
def Out.resultWrites (o : Out) : List RegWrite :=
  match o.fin with
  | .none => []
  | .regs => o.writes
  | .load d scalar sx =>
    o.writes ++ (joinAccs o.accs).flatMap (fun a =>
      let v := if a.len < 4 && sx then wrap 32 (toSigned (8 * a.len) a.result) else a.result
      (List.range (max 1 (a.len / 4))).map (fun i => { scalar := scalar, lane := a.lane, reg := d + i, val := BitVec.ofNat 32 (v / 2 ^ (32 * i)) }))
  | .narrow d desc =>
    let t := nfDesc (BitVec.ofNat 32 desc).toNat
    (joinAccs o.accs).flatMap (fun a => (List.range (8 * a.len / t.n)).map (fun i =>
      { scalar := false, lane := a.lane, reg := d + i,
        val := BitVec.ofNat 32 (roundTo .f32 .rn (nfDecode t (a.result / 2 ^ (i * t.n) % 2 ^ t.n))).1 }))
  | .drain => []
  | .tile => []
  | .gath _ =>
    o.writes ++ (joinAccs o.accs).flatMap (fun a => [{ scalar := false, lane := a.lane, reg := a.data, val := BitVec.ofNat 32 a.result }])

/-- The WSTAT flags of a narrow load (06 R125). -/
def Out.resultFlags (o : Out) : Flags :=
  match o.fin with
  | .narrow _ desc =>
    let t := nfDesc desc
    (joinAccs o.accs).foldl (fun f a => (List.range (8 * a.len / t.n)).foldl (fun f i => f ||| (roundTo .f32 .rn (nfDecode t (a.result / 2 ^ (i * t.n) % 2 ^ t.n))).2) f) o.flags
  | _ => o.flags

/-- Words of the register files that are overwritten lose their poison (18 R380). -/
def State.healRegs (s : State) (p : Site → Bool) : State :=
  if s.poisonRegs.isEmpty then s else { s with poisonRegs := s.poisonRegs.filter (fun x => !p x) }
def RegWrite.hits (x : RegWrite) (r : WaveRef) : Site → Bool
  | .vecReg w l k => !x.scalar && w == r && l == x.lane && k == x.reg
  | .scaReg w k => x.scalar && w == r && k == x.reg
  | _ => false

/-- Latched registers that are written leave their partition's latch (02 R37). -/
def State.unlatch (s : State) (r : WaveRef) (ws : List RegWrite) : State :=
  if s.cores.all (fun c => c.latch.isEmpty) then s
  else { s with cores := s.cores.map (fun c => { c with latch := c.latch.filter (fun e =>
    !(e.1 == r && ws.any (fun x => !x.scalar && decide (e.2.2.1 ≤ x.reg) && decide (x.reg < e.2.2.1 + e.2.2.2)))) }) }

/-- Write an outstanding result, whose accesses are performed, at one instant (02 R35). -/
def State.writeOut (s : State) (r : WaveRef) (k : Nat) : State :=
  match (s.wave? r).bind (fun w => w.outs[k]?) with
  | none => s
  | some o =>
    let s : State := s.updWave r (fun w => { (o.resultWrites.foldl Wave.write w).orFlags o.resultFlags with outs := listDrop w.outs k })
    let s : State := (s.healRegs (fun p => o.resultWrites.any (fun x => x.hits r p))).unlatch r o.resultWrites
    match o.fin with
    | .gath tag => s.countTag r.team tag (o.accs.foldl (fun n a => n + a.len) 0)
    | _ => s

/-- Whether the result of out `k` may be written: its engine owes nothing and every access is performed. -/
def State.outReady (s : State) (r : WaveRef) (k : Nat) : Bool :=
  match (s.wave? r).bind (fun w => w.outs[k]?) with
  | none => false
  | some o => o.ready && o.accs.all (fun a => a.state == .done)

def State.evictOpt (s : State) (core : Nat) (evict : Option Nat) : State :=
  match evict with
  | some l => s.evictLine core l
  | none => s

/-- ACCESS_PERFORM (13 R276, R278, 06 R122): an access is performed whole, after the eviction that its part names, or cut in two. -/
def execAccessPerform (r : WaveRef) (k j : Nat) (part : AccessPart) (s : State) : Res :=
  match part with
  | .first n => .next (s.cutAcc r k j n)
  | .whole evict => if s.accReady r k j then .next ((s.evictOpt ((s.wave? r).getD Wave.reset).core evict).doAcc r k j) else .next s

/-- VARIABLE_LATENCY_RESULT (02 R35): the result's remaining accesses are performed, then it is written. -/
def execVariableLatencyResult (r : WaveRef) (k : Nat) (evict : Option Nat) (s : State) : Res :=
  let n := (((s.wave? r).bind (fun w => w.outs[k]?)).map (fun o => o.accs.length)).getD 0
  let s1 : State := (List.range n).foldl (fun s j => s.doAcc r k j) (s.evictOpt ((s.wave? r).getD Wave.reset).core evict)
  if s1.outReady r k then .next (s1.writeOut r k) else .next s

/-- PROMOTION_NOTICE (13 R283): notice `k` of a core reaches its home slice. -/
def execPromotionNotice (core k : Nat) (s : State) : Res :=
  match (s.core core).notices[k]? with
  | none => .next s
  | some n => .next ((s.updCore core (fun c => { c with notices := listDrop c.notices k })).setPromo n.1 core n.2)

/-! ### Atomics on HOST pages -/

/-- Where an out of a wave stands. -/
def State.outIndex (s : State) (r : WaveRef) (id : Nat) : Option Nat :=
  (s.wave? r).bind (fun w => (List.range w.outs.length).find? (fun k => match w.outs[k]? with | some o => o.id == id | none => false))
/-- Where a HOST atomic stands: the index of its out. -/
def State.hostOut (s : State) (h : HostAtomic) : Option Nat := s.outIndex h.wave h.out

/-- A HOST atomic fails: the instruction traps ATOMIC for the lanes of its accesses, its results are dropped (04 R91). -/
def State.hostFail (s : State) (k reason : Nat) : State :=
  match s.hostAtomics[k]? with
  | none => s
  | some h =>
    match s.wave? h.wave, s.hostOut h with
    | some w, some i =>
      match w.outs[i]? with
      | none => s
      | some o => s.takeBack h.wave i o.lanes (mkTrapA .atomic reason ((o.accs[h.acc]?.map (·.va)).getD 0))
    | _, _ => s

/-- PCIE_COMPLETION (04 R91): the completion of HOST atomic `k`, with success or an error status. -/
def execPcieCompletion (k : Nat) (ok : Bool) (s : State) : Res :=
  match s.hostAtomics[k]? with
  | none => .next s
  | some h =>
    if ok then
      match s.hostOut h with
      | some i => .next (({ s with hostAtomics := listDrop s.hostAtomics k } : State).performAcc h.wave i h.acc)
      | none => .next { s with hostAtomics := listDrop s.hostAtomics k }
    else .next (s.hostFail k 3)

/-- COMPLETION_TIMEOUT (04 R91). -/
def execCompletionTimeout (k : Nat) (s : State) : Res := .next (s.hostFail k 4)

end Sys2Proof.Machine
end

