-- ==== Sys2Proof/Machine/Record.lean ====
section
/-! DEFINITION. What a traced team records (17 R365 to R369), and waiting for earlier accesses before an instruction acts. -/

namespace Sys2Proof.Machine

/-- The map indices of the granules that a range meets, among some regions (17 R362). -/
def granulesOf (rs : List (Nat × Nat)) (pa n : Nat) : List Nat :=
  if n == 0 then []
  else (List.range ((pa + n - 1) / 16384 - pa / 16384 + 1)).filterMap (fun j =>
    mapIndex (if j == 0 then pa else (pa / 16384 + j) * 16384) rs 0)

/-- Enter reads, by physical range, into a team's recorded set (17 R365). -/
def State.recordFor (s : State) (uid : Nat) (ps : List (Nat × Nat)) : State :=
  match s.team? uid with
  | none => s
  | some t =>
    let b := s.block t.launch
    if b.tset == 0 || t.formed then s
    else
      let rs := (regionsAt s.mem (s.setDesc b.tset)).take b.ntreg
      let ks := ps.flatMap (fun p => granulesOf rs p.1 p.2)
      s.updTeam uid (fun t => { t with recorded := dedup (t.recorded ++ ks) })

/-- The same for the current team. -/
def State.record (s : State) (ps : List (Nat × Nat)) : State := s.recordFor s.cur.team ps

/-- The current team reruns at every relaunch (17 R367), and has escaped (18 R391). -/
def State.always (s : State) : State := s.updCurTeam (fun t => { t with always := true, escape := true })

/-- The lane mask of one lane, none for none. -/
def laneBit (o : Option Nat) : BitVec 64 := match o with | some l => 1#64 <<< l | none => 0

/-- Whether the lanes of the current issue are where they were in `old`: no access performed since has sent them back (18 R380). -/
def State.stayed (s old : State) : Bool :=
  (lanesOf s.cur.mask).all (fun l =>
    let a := old.curWave.lane l
    let b := s.curWave.lane l
    b.live == a.live && b.pc == a.pc && b.ptrap == a.ptrap)

/-- Go on once every access that passes a test has been performed; until then the wave waits in this instruction (13 R280, R282). -/
def State.afterAccs (s : State) (i : Instr) (p : Acc → Bool) (k : State → State) : State :=
  let t : State := s.performSome s.curRef p
  if !t.stayed s then t else if t.curWave.performed p then k t else t.hold i
/-- The same for every access of some lanes. -/
def State.afterLanes (s : State) (i : Instr) (m : BitVec 64) (k : State → State) : State := s.afterAccs i (ofLanes m) k

/-- Go on once a release at a scope by the current wave has written its core's dirty bytes back (13 R282, 19 R399). -/
def State.afterRelease (s : State) (i : Instr) (scope : Nat) (k : State → State) : State :=
  let core := s.curWave.core
  let s : State := s.releasePart core s.curTeam.pair scope
  if s.released core s.curTeam.pair scope then k s else s.hold i

/-- Go on once the core's dirty bytes of some lines have gone home (13 R276, 19 R399). -/
def State.afterClean (s : State) (i : Instr) (ls : List Nat) (k : State → State) : State :=
  let core := s.curWave.core
  let s : State := ls.foldl (fun s l => s.cleanLine core l) s
  if ls.any (fun l => s.dirtyIn core (fun x => x.line == l)) then s.hold i else k s

/-- Whether a DRAIN or BANKCFG of the wave is still to complete. -/
def State.engineWrites (s : State) (r : WaveRef) (w : Wave) : Bool :=
  w.outs.any (fun o => (o.fin == .none && !o.ready) || (o.fin == .drain && o.accs.any (fun a => a.state != .done))) ||
  s.cores.any (fun c => c.addons.any (fun u => !u.applied && u.team == r.team && u.wave == r.wave))

/-- Go on once a release by some lanes has what it waits for (13 R280, R282): their earlier accesses, the wave's DRAINs and BANKCFGs, and
the write-backs of its scope. -/
def State.afterWrites (s : State) (i : Instr) (m : BitVec 64) (scope : Nat) (k : State → State) : State :=
  s.afterLanes i m (fun s => if s.engineWrites s.curRef s.curWave then s.hold i else s.afterRelease i scope k)

/-- Go on once the earlier accesses of a lane and its add-on-stores have been performed (13 R286). -/
def State.afterUpdates (s : State) (i : Instr) (l : Nat) (k : State → State) : State :=
  s.afterLanes i (laneBit (some l)) (fun s =>
    if s.cores.any (fun c => c.addons.any (fun u => !u.applied && u.team == s.cur.team && u.wave == s.cur.wave && u.lane == l)) then s.hold i
    else k s)

/-- Go on once, besides, every outstanding result of the wave has been written (14 R313). -/
def State.afterResults (s : State) (i : Instr) (m : BitVec 64) (k : State → State) : State :=
  let t : State := s.performSome s.curRef (ofLanes m)
  if !t.stayed s then t
  else if t.curWave.performed (ofLanes m) && t.curWave.quiet then k t else (t.hold i).endRun

end Sys2Proof.Machine
end

