-- ==== Sys2Proof/Machine/Control.lean ====
section
/-! DEFINITION. Control instructions: NOP, EXIT, YIELD (14 R317 to R319), TRET, BKPT, SYSRD, SYSWR (18 R385 to R387, 02 R42, R43),
branches and jumps (14 R302 to R307), convergence registers (14 R308 to R310), spawning (14 R311 to R315), and words that are no
instruction (02 R45). -/

namespace Sys2Proof.Machine

/-- Lanes end; handler mode ends with its last lane, and a pending trap of the wave is delivered (18 R385). -/
def State.endLanes (s : State) (m : BitVec 64) : State :=
  (s.updCur (fun w => (w.endLanes m).leaveHandler)).deliver 64 s.curRef

/-- The lanes of `m` end where they stand, the other lanes of the issue move on, and the run ends. -/
def State.endHere (s : State) (h : Hdr) (m : BitVec 64) : State :=
  (((s.moved h).updCur (fun w => w.goto (s.cur.mask &&& ~~~ m) (s.nextPc h))).endRun).endLanes m

/-- Whether some lane of a mask holds or awaits a section (16 R355). -/
def Wave.abandons (w : Wave) (m : BitVec 64) : Bool := (lanesOf m).any (fun l => (w.abandon l).isSome)
/-- The ABANDON trap in every such lane, which waits on no key any more (16 R355). -/
def State.raiseAbandon (s : State) (m : BitVec 64) : State :=
  let w := s.curWave
  let s : State := s.withdraw (fun x => x.team == s.cur.team && x.wave == s.cur.wave && m.getLsbD x.lane)
  (s.updCur (fun w => { w with prog := none, xl := [] })).raiseEach s.curRef (fun l => if m.getLsbD l then w.abandon l else none)

/-- NOP (14 R317). -/
def execNop (h : Hdr) (_f : YFields) (s : State) : Res := .next (s.finish h)

/-- EXIT (14 R318, 16 R355). -/
def execExit (h : Hdr) (_f : YFields) (s : State) : Res :=
  let m := s.part h
  if s.curWave.abandons m then .next (s.raiseAbandon m)
  else .next (s.endHere h m)

/-- YIELD (14 R319): the run ends and the lanes move on; the issue itself makes the wave the youngest (15 R335). -/
def execYield (h : Hdr) (_f : YFields) (s : State) : Res := .next ((s.finish h).endRun)

/-- The trap as it stands in a wave's TCAUSE and TDET. -/
def Wave.standingTrap (w : Wave) : TrapInfo := { cause := w.tcause, d0 := w.tdet0, d1 := w.tdet1, d2 := w.tdet2 }
/-- The live handler lanes. -/
def Wave.handlerMask (w : Wave) : BitVec 64 := maskOf (fun l => (w.lane l).live && (w.lane l).handler)

/-- TRET (18 R384, R385). -/
def execTret (h : Hdr) (_f : YFields) (s : State) : Res :=
  let w := s.curWave
  if s.part h == 0 then .next (s.finish h)
  else if !w.hmode then .next (s.trap h (mkTrap .priv 0x04 0 0))
  else if w.tpc.toNat % 8 != 0 || !canonical w.tpc.toNat then
    .next (((s.moved h).undelivered s.curRef w.handlerMask s.cur.pc w.standingTrap).deliver 64 s.curRef)
  else .next (((s.moved h).updCur (fun w => w.leaveTrap)).deliver 64 s.curRef)

/-- BKPT (18 R387). -/
def execBkpt (h : Hdr) (f : YFields) (s : State) : Res :=
  if s.part h == 0 then .next (s.finish h) else .next (s.trap h (mkTrap .brk f.imm.toNat 0 0))

/-! ### System registers -/

/-- ORDSTAT of a lane (16 R360). -/
def Wave.ordstat (w : Wave) (l : Nat) : Nat :=
  let ln := w.lane l
  let wait := (w.awaits l).map (·.key)
  b2n ln.pend.isSome * 32 + b2n (match wait with | some k => k.getLsbD 63 | none => false) * 16 + b2n wait.isSome * 8 +
    b2n ln.held1.isSome * 2 + b2n ln.held0.isSome

/-- The TAGS register of a team (05 R105). -/
def Team.readyTags (t : Team) : Nat := ofBits 64 (fun k => (t.tag k).ready)

/-- A lane-valued system register (02 R42). -/
def Wave.sysLane (w : Wave) (num lane : Nat) : Nat :=
  match num with
  | 0x00 => lane
  | 0x14 => w.ordstat lane
  | _ => (w.lane lane).spawnKey.toNat

/-- Any other system register but CLOCK (02 R42). -/
def State.sysWave (s : State) (num : Nat) : Nat :=
  let t := s.curTeam
  let w := s.curWave
  let task := match s.launch? t.launch with
    | some l => l.task.isSome
    | none => false
  let b := s.curBlock
  match num with
  | 0x01 => w.id
  | 0x02 => t.width
  | 0x03 => t.rank
  | 0x04 => t.x
  | 0x05 => t.y
  | 0x06 => t.z
  | 0x07 => if task then 0 else b.gx
  | 0x08 => if task then 0 else b.gy
  | 0x09 => if task then 0 else b.gz
  | 0x0A => w.core
  | 0x0B => w.part
  | 0x0C => t.launch
  | 0x0D => bits s.regs.usum.toNat 40 32
  | 0x0E => bits s.regs.usum.toNat 31 24
  | 0x11 => t.readyTags
  | 0x12 => w.wstat.toNat
  | 0x13 => w.helper.toNat
  | 0x15 => w.mstatShadow.toNat
  | 0x20 => w.tcause.toNat
  | 0x21 => w.tdet0.toNat
  | 0x22 => w.tdet1.toNat
  | 0x23 => w.tdet2.toNat
  | 0x24 => w.tpc.toNat
  | 0x25 => w.tprio.toNat
  | _ => 0

/-- Lane-valued numbers, and 64-bit numbers (02 R42). -/
def sysIsLane (num : Nat) : Bool := num == 0x00 || num == 0x14 || num == 0x16
def sysWide (num : Nat) : Bool := num == 0x10 || num == 0x11 || num == 0x13 || num == 0x24

/-- SYSRD (18 R387). -/
def execSysrd (h : Hdr) (f : YFields) (s : State) : Res :=
  let num := f.imm.toNat
  let m := s.part h
  if m == 0 then .next (s.finish h)
  else if sysIsLane num then .next ((s.updCur (fun w => w.updLanes m (fun l ln => ln.setV f.d.toNat (w.sysLane num l)))).finish h)
  else if num == 0x10 then
    let q := s.takeFree
    let d := dieOf s.curWave.core
    let past := Config.clocks q.1
    let now := (s.die d).clock + past
    .next (((q.2.updDie d (fun x => { x with clock := x.clock + past })).updCur (fun w => w.setSBlock f.d.toNat 2 now.toNat)).finish h)
  else .next ((s.updCur (fun w => w.setSBlock f.d.toNat (if sysWide num then 2 else 1) (s.sysWave num))).finish h)

/-- Write a system register (18 R387); none: it is read-only in the current mode (02 R43). -/
def Wave.sysWrite (w : Wave) (num v : Nat) : Option Wave :=
  match num with
  | 0x12 => some { w with wstat := BitVec.ofNat 32 (v % 256) }
  | 0x20 => if w.hmode then some { w with tcause := BitVec.ofNat 32 v } else none
  | 0x21 => if w.hmode then some { w with tdet0 := BitVec.ofNat 32 v } else none
  | 0x22 => if w.hmode then some { w with tdet1 := BitVec.ofNat 32 v } else none
  | 0x23 => if w.hmode then some { w with tdet2 := BitVec.ofNat 32 v } else none
  | 0x24 => if w.hmode then some { w with tpc := BitVec.ofNat 64 v } else none
  | 0x25 => if w.hmode then some { w with tprio := BitVec.ofNat 8 v } else none
  | _ => none

/-- SYSWR (18 R387, 02 R43). -/
def execSyswr (h : Hdr) (f : YFields) (s : State) : Res :=
  let num := f.imm.toNat
  let w := s.curWave
  if s.part h == 0 then .next (s.finish h)
  else match w.sysWrite num (w.sblock f.a.toNat (if sysWide num then 2 else 1)) with
    | none => .next (s.trap h (mkTrap .priv (0x07 + num * 2 ^ 16) 0 0))
    | some w' => .next ((s.updCur (fun _ => w')).finish h)

/-! ### Branches and jumps -/

/-- The lanes of the issue whose condition is 1 (14 R303). -/
def brTaken (f : BFields) (w : Wave) (m : BitVec 64) : BitVec 64 :=
  maskOf (fun l => m.getLsbD l && (f.cp.toNat == 7 || ((w.lane l).pred f.cp.toNat != f.cn)))
/-- The target of a branch. -/
def brTarget (f : BFields) (pc : Word) : Word := pc + BitVec.ofInt 64 (8 * toSigned 24 f.off.toNat)

/-- Every lane of the issue moves under 14 R303. -/
def State.branch (s : State) (h : Hdr) (f : BFields) : State :=
  let t := brTaken f s.curWave s.cur.mask
  (s.updCur (fun w => (w.gotoPrio t (brTarget f s.cur.pc) f.tprio).gotoPrio (s.cur.mask &&& ~~~ t) (s.cur.pc + 8) f.fprio)).moved h

/-- BR (14 R303). -/
def execBr (h : Hdr) (f : BFields) (s : State) : Res := .next (s.branch h f)

/-- BRU (14 R304). -/
def execBru (h : Hdr) (f : BFields) (s : State) : Res :=
  let t := brTaken f s.curWave s.cur.mask
  if t == 0 || t == s.cur.mask then .next (s.branch h f)
  else .next (s.trapLanes h s.cur.mask (mkTrap .uniform (t.toNat % 2 ^ 32) (t.toNat / 2 ^ 32) 1))

/-- The trap of jump targets: alignment first, then canonical form (14 R307). -/
def targetTrap (ts : List Nat) : Option TrapInfo :=
  match ts.find? (fun t => t % 8 != 0) with
  | some t => some (mkTrapA .align 3 t)
  | none => (ts.find? (fun t => !canonical t)).map (fun t => mkTrapA .protect pNONCANON t)

/-- JAL (14 R307). -/
def execJal (h : Hdr) (f : YFields) (s : State) : Res :=
  let w := s.curWave
  let m := s.part h
  let t := w.spair f.a.toNat
  if m == 0 then .next (s.finish h)
  else match targetTrap [t] with
    | some x => .next (s.trap h x)
    | none => .next ((s.finish h).updCur (fun w =>
        (w.setSBlock f.d.toNat 2 (s.cur.pc + 8).toNat).gotoPrio m (BitVec.ofNat 64 t) (f.imm.setWidth 8)))

/-- JMP.S and JMP.V (14 R307). -/
def execJmp (h : Hdr) (f : YFields) (s : State) : Res :=
  let w := s.curWave
  let m := s.part h
  let tgt (l : Nat) : Nat := if f.sub == 0 then w.spair f.a.toNat else (w.lane l).vpair f.a.toNat
  if m == 0 then .next (s.finish h)
  else match targetTrap ((lanesOf m).map tgt) with
    | some x => .next (s.trap h x)
    | none => .next ((s.finish h).updCur (fun w => w.updLanes m (fun l ln =>
        { ln with pc := BitVec.ofNat 64 (tgt l), prio := f.imm.setWidth 8 })))

/-- SETPRIO (14 R307). -/
def execSetprio (h : Hdr) (f : YFields) (s : State) : Res :=
  .next ((s.finish h).updCur (fun w => w.updLanes (s.part h) (fun _ ln => { ln with prio := f.imm.setWidth 8 })))

/-! ### Convergence registers -/

/-- Members that have neither signed nor ended (14 R308). -/
def Wave.cvMissing (w : Wave) (n : Nat) : BitVec 64 :=
  let c := w.cvs.getD n { members := 0, signed := 0 }
  c.members &&& ~~~ c.signed &&& w.liveMask

/-- The lanes that wait at CVWAIT on a full register move on (14 R309). -/
def Wave.cvRelease (w : Wave) : Wave :=
  w.updLanes w.liveMask (fun _ ln => match ln.wait with
    | .cvwait n => if w.cvMissing n == 0 then { ln with pc := ln.pc + 8, wait := .none } else ln
    | _ => ln)

/-- CVSET (14 R309). -/
def execCvset (h : Hdr) (f : YFields) (s : State) : Res :=
  if s.part h == 0 then .next (s.finish h)
  else
    let w := s.curWave
    let m := BitVec.ofNat 64 (w.spair f.a.toNat % 2 ^ s.curTeam.width)
    .next ((s.updCur (fun w => ({ w with cvs := listSet w.cvs (f.d.toNat % 8) (fun _ => { members := m, signed := 0 }) } : Wave).cvRelease)).finish h)

/-- CVSIGN (14 R309). -/
def execCvsign (h : Hdr) (f : YFields) (s : State) : Res :=
  .next ((s.updCur (fun w => ({ w with
    cvs := listSet w.cvs (f.d.toNat % 8) (fun c => { c with signed := c.signed ||| (s.part h &&& c.members) }) } : Wave).cvRelease)).finish h)

/-- The participating lanes of the current issue wait at their PC, the others move on, the run ends (14 R299, 02 R36). -/
def State.waitPart (s : State) (h : Hdr) (wt : Wait) : State :=
  ((s.updCur (fun w => (w.goto (s.cur.mask &&& ~~~ s.part h) (s.nextPc h)).updLanes (s.part h) (fun _ ln => { ln with wait := wt }))).moved h).endRun

/-- CVWAIT (14 R309). -/
def execCvwait (h : Hdr) (f : YFields) (s : State) : Res :=
  if s.curWave.cvMissing (f.d.toNat % 8) == 0 then .next ((s.finish h).endRun)
  else .next (s.waitPart h (.cvwait (f.d.toNat % 8)))

/-! ### The Burrow -/

/-- What a deposited lane carries into its record (14 R314). -/
structure Dep where
  lane : Nat
  pc : Nat
  prio : Nat
  key : Nat
  pred : Nat
  regs : List Nat
  deriving DecidableEq, Repr

/-- The record of a lane that goes to `pc` with `prio`, carrying v0 to v(n-1). -/
def Dep.ofLane (ln : Lane) (lane : Nat) (pc : Word) (prio : BitVec 8) (key n : Nat) : Dep :=
  { lane := lane, pc := pc.toNat, prio := prio.toNat, key := key, pred := ln.p.toNat, regs := (List.range n).map ln.vr }

/-- Bytes of a record with `n` registers (14 R314). -/
def recordSize (n : Nat) : Nat := roundUp (32 + 4 * n) 64
/-- A record's bytes as a number (14 R314). -/
def Dep.word (d : Dep) (rank : Nat) : Nat :=
  (List.range d.regs.length).foldl (fun a k => a + d.regs.getD k 0 * 2 ^ (256 + 32 * k))
    (d.pc + d.pred * 2 ^ 64 + d.prio * 2 ^ 72 + d.key * 2 ^ 80 + d.regs.length * 2 ^ 96 + rank * 2 ^ 128)

/-- The lowest free places of a launch's Burrow for records of one size: they meet no record that it holds (14 R314, R315). -/
def Launch.places (l : Launch) (size need : Nat) : List Nat :=
  let tries := l.burrow.foldl (fun n r => n + r.bytes / size + 2) need
  (((List.range tries).map (fun j => l.block.burrow + size * j)).filter
    (fun a => !(l.burrow.any (fun r => decide (r.addr < a + size) && decide (a < r.addr + r.bytes))))).take need

/-- The mark of a write of the current wave by a lane that releases at a scope, and at those of the lane's release fences (13 R280). -/
def State.relTags (s : State) (lane scope : Nat) : List RelTag :=
  s.ownTags s.curRef lane s.curWave.core (addScope scope (s.curWave.lane lane).relScopes)

/-- Write bytes through a translation, at their home slice, with a mark (13 R276 for DEVICE scope). -/
def State.storeThrough (s : State) (x : Xlat) (bs : List Byte) (ts : List RelTag) : State :=
  let core := s.curWave.core
  let s : State := s.homeStore x.pa bs s.curTeam.launch ts
  (if x.mtype == .cached then (s.refreshCopy core x.pa bs.length).healLine core x.pa bs.length else s).notice core x.pa ts

/-- Deposit lanes in the Burrow of launch `id` (14 R313 to R315): BURROWFULL, the checks of the store, the records, then `k`.
`part`: the lanes a trap takes. -/
def State.deposit (s : State) (i : Instr) (h : Hdr) (part : BitVec 64) (id n : Nat) (deps : List Dep) (k : State → State) : State :=
  match s.launch? id with
  | none => s
  | some l =>
    let size := recordSize n
    let used := l.burrow.foldl (fun a r => a + r.bytes) 0
    let need := size * deps.length
    if need + used > l.block.bsize then s.trapLanes h part (mkTrap .task 1 need (l.block.bsize - used))
    else
      let slots := (l.places size deps.length).zip deps
      let pieces := slots.flatMap (fun p => (List.range (size / 64)).map (fun j => (p, j)))
      let reqs : List Req := pieces.map (fun q => { lane := q.1.2.lane, va := (q.1.1 + 64 * q.2 : Nat) })
      match s.memCheckAs (BitVec.ofNat 12 l.block.asn) i h part reqs 0 Need.write 1 (fun t => t != .io) with
      | .stop s => s
      | .ok s xs =>
        if s.engineWrites s.curRef s.curWave then s.hold i
        else s.afterRelease i 5 (fun s =>
          let rank := s.curTeam.rank
          let s : State := (pieces.zip xs).foldl (fun s q =>
            s.storeThrough q.2 (leBytes 64 (q.1.1.2.word rank / 2 ^ (512 * q.1.2))) (s.relTags q.1.1.2.lane 5)) s
          let recs : List BurrowRec := slots.map (fun p =>
            { addr := p.1, bytes := size, pc := BitVec.ofNat 64 p.2.pc, key := BitVec.ofNat 16 p.2.key, origin := some s.curRef })
          k ((s.updLaunch id (fun l => { l with burrow := l.burrow ++ recs })).always))

/-- SPAWN (14 R311, R313). -/
def execSpawn (h : Hdr) (f : YFields) (s : State) : Res :=
  let i := Instr.spawn h f
  let m := s.part h
  if m == 0 then .next ((s.finish h).endRun)
  else .next (s.afterResults i m (fun s =>
    let w := s.curWave
    let t := w.spair f.a.toNat
    match targetTrap [t] with
    | some x => s.trap h x
    | none =>
      if w.abandons m then s.raiseAbandon m
      else
        let n := s.curBlock.spawnRegs
        let deps := (lanesOf (m &&& ~~~ w.helper)).map (fun l => Dep.ofLane (w.lane l) l (BitVec.ofNat 64 t) (w.lane l).prio 0 n)
        s.deposit i h m s.curTeam.launch n deps (fun s => s.endHere h m)))

/-- REPACK (14 R312, R313). -/
def execRepack (h : Hdr) (f : YFields) (s : State) : Res :=
  let i := Instr.repack h f
  let m := s.part h
  let live := s.curWave.liveMask
  if m == 0 then .next ((s.finish h).endRun)
  else .next (s.afterResults i live (fun s =>
    let w := s.curWave
    if w.abandons live then s.raiseAbandon live
    else
      let n := s.curBlock.spawnRegs
      let deps := (lanesOf (live &&& ~~~ w.helper)).map (fun l =>
        let ln := w.lane l
        let pc := if s.cur.mask.getLsbD l then s.nextPc h else ln.pc
        Dep.ofLane ln l pc ln.prio (if m.getLsbD l then ln.vr f.a.toNat % 65536 else 0xFFFF) n)
      s.deposit i h m s.curTeam.launch n deps (fun s => s.endHere h live)))

/-- The minority of a BRS: the side with fewer lanes, the taken side on a tie; none when a side is empty (14 R305). -/
def brsMinority (taken mask : BitVec 64) : BitVec 64 :=
  let fall := mask &&& ~~~ taken
  if taken == 0 || fall == 0 then 0
  else if (lanesOf taken).length ≤ (lanesOf fall).length then taken else fall

/-- BRS (14 R305, R313). -/
def execBrs (h : Hdr) (f : BFields) (s : State) : Res :=
  let i := Instr.brs h f
  let t := brTaken f s.curWave s.cur.mask
  let mi := brsMinority t s.cur.mask
  if mi == 0 then .next (s.branch h f)
  else .next (s.afterResults i mi (fun s =>
    let w := s.curWave
    if w.abandons mi then s.raiseAbandon mi
    else
      let n := s.curBlock.spawnRegs
      let deps := (lanesOf (mi &&& ~~~ w.helper)).map (fun l =>
        if t.getLsbD l then Dep.ofLane (w.lane l) l (brTarget f s.cur.pc) f.tprio 0 n
        else Dep.ofLane (w.lane l) l (s.cur.pc + 8) f.fprio 0 n)
      s.deposit i h s.cur.mask s.curTeam.launch n deps (fun s => ((s.branch h f).endRun).endLanes mi)))

/-- A word that is no instruction: ILLEGAL for all lanes of the issue (02 R45, 18 R382). -/
def execNotAnInstruction (word : BitVec 64) (reason : Nat) (s : State) : Res :=
  .next (s.raiseAt s.curRef s.cur.mask s.cur.pc (mkTrap .illegal (word.toNat % 2 ^ 32) (word.toNat / 2 ^ 32) reason))

end Sys2Proof.Machine
end

