-- ==== Sys2Proof/Machine/Sync.lean ====
section
/-! DEFINITION. FENCE (13 R282), WAITW (14 R320), BAR (14 R321), TRAP (18 R387, R390), the delivery of pending traps (18 R383)
and the host's answers (18 R389). -/

namespace Sys2Proof.Machine

/-! ### FENCE -/

/-- Whether an out holds a read by a lane of a mask. -/
def Out.readsOf (o : Out) (m : BitVec 64) : Bool := o.accs.any (fun a => a.kind.reads && m.getLsbD a.lane)

/-- Write, oldest first, the results whose reads belong to some lanes and are performed: those reads return (13 R282). -/
def State.returnReads (s : State) (r : WaveRef) (m : BitVec 64) : Nat → State
  | 0 => s
  | n + 1 =>
    match ((s.wave? r).getD Wave.reset).outs.findIdx? (fun o => o.readsOf m && o.ready && o.accs.all (fun a => a.state == .done)) with
    | none => s
    | some k => (s.writeOut r k).returnReads r m n

/-- What an acquire fence does to its lanes: their earlier reads are judged (13 R280, R285). -/
def Wave.judge (w : Wave) (team : Nat) (m : BitVec 64) (scope : Nat) : Wave :=
  w.orFlags ((lanesOf m).foldl (fun f l => f ||| missFlag (w.lane l).seen team w.id w.core scope) 0)

/-- FENCE (13 R282): SUB 0 .ALL, 1 .LD, 2 .ST. -/
def execFence (h : Hdr) (f : YFields) (s : State) : Res :=
  let i := Instr.fence h f
  let m := s.part h
  let scope := f.imm.toNat % 8
  let acq := f.sub != 2
  let rel := f.sub != 1
  let s : State := if m != 0 && decide (scope ≥ 3) then s.always else s
  if m == 0 then .next (s.finish h)
  else .next (s.afterAccs i (fun a => ofLanes m a && (rel || a.kind.reads)) (fun s =>
    let s : State := if acq then s.returnReads s.curRef m s.curWave.outs.length else s
    let w := s.curWave
    if (acq && w.outs.any (fun o => o.readsOf m)) || (rel && s.engineWrites s.curRef w) then s.hold i
    else
      let go (s : State) : State :=
        let pair := s.curTeam.pair
        let s : State := s.updCur (fun w =>
          let w : Wave := if acq then w.judge s.cur.team m scope else w
          if rel then w.updLanes m (fun _ ln => { ln with relScopes := addScope scope ln.relScopes }) else w)
        (if acq then s.acquirePart w.core pair scope else s).finish h
      if rel then s.afterRelease i scope go else go s))

/-- Go on once the earlier reads of some lanes have returned, as an acquire waits for them (13 R282). -/
def State.afterReads (s : State) (i : Instr) (m : BitVec 64) (k : State → State) : State :=
  s.afterAccs i (fun a => ofLanes m a && a.kind.reads) (fun s =>
    let s : State := s.returnReads s.curRef m s.curWave.outs.length
    if s.curWave.outs.any (fun o => o.readsOf m) then s.hold i else k s)

/-! ### WAITW -/

/-- The word that WAITW watches, read at its point (14 R320). -/
def State.watchRead (s : State) (t : MType) (pa n : Nat) : Nat := if t == .io then s.devRead pa n else s.homeRead pa n

/-- The lanes of a WAITW move on. -/
def State.waitwDone (s : State) (r : WaveRef) (m : BitVec 64) : State :=
  s.updWave r (fun w => { w.updLanes m (fun _ ln => { ln with pc := ln.pc + 8 }) with park := .none })

/-- WAITW (14 R320): the first read; the wave parks while the word equals the compared value. -/
def execWaitw (h : Hdr) (f : YFields) (s : State) : Res :=
  let i := Instr.waitw h f
  let w := s.curWave
  let n := if f.sub == 0 then 4 else 8
  match lowestLane (s.part h) with
  | none => .next ((s.finish h).endRun)
  | some l =>
    let va := w.spair f.a.toNat
    match s.memCheck i h (s.part h) [{ lane := l, va := va }] (if n == 4 then 2 else 3) Need.read 0 (fun _ => true) with
    | .stop s => .next s
    | .ok s xs =>
      match xs with
      | [] => .next s
      | x :: _ =>
        let s : State := if s.isDev x.pa then s.record [(x.pa, n)] else s
        if s.isDev x.pa && s.poisoned x.pa n then .next (s.hwerr h 6 (x.pa / 8))
        else if s.readBusy s.curRef l x.mtype x.pa n then .next (s.hold i)
        else if s.watchRead x.mtype x.pa n != w.sblock f.d.toNat (n / 4) then .next ((s.finish h).endRun)
        else .next (((s.moved h).endRun).updCur (fun w => { w with
          park := .waitw va x.pa n x.mtype x.log2 (w.sblock f.d.toNat (n / 4)) f.imm.toNat s.cur.mask }))

/-- WAITW_WAKE: the word is read again (14 R320). -/
def execWaitwWake (r : WaveRef) (s : State) : Res :=
  match s.wave? r with
  | some w =>
    match w.park with
    | .waitw _ pa n t _ c _ m => if w.stop || (t == .host && s.hostLocked) || s.watchRead t pa n == c then .next s else .next (s.waitwDone r m)
    | _ => .next s
  | none => .next s

/-- WAITW_TIMEOUT (14 R320): never when the timeout is 0. -/
def execWaitwTimeout (r : WaveRef) (s : State) : Res :=
  match s.wave? r with
  | some w =>
    match w.park with
    | .waitw _ _ _ _ _ _ tmo m => if w.stop || tmo == 0 then .next s else .next (s.waitwDone r m)
    | _ => .next s
  | none => .next s

/-! ### BAR -/

def Team.barrier (t : Team) (b : Nat) : Barrier := t.barriers.getD b Barrier.reset
/-- Waves of the team that have not ended (14 R321). -/
def Team.liveWaves (t : Team) : Nat := (t.waves.filter (fun w => !w.ended)).length

/-- Lanes that wait at barrier `b` move on. -/
def Wave.barRelease (w : Wave) (b : Nat) : Wave :=
  w.updLanes w.liveMask (fun _ ln => if ln.wait == .barsync b then { ln with pc := ln.pc + 8, wait := .none } else ln)

/-- Complete each phase that every live wave has reached: the waiting lanes move on, an acquire at TEAM scope (14 R321). -/
def State.barCheck (s : State) (uid : Nat) : State :=
  (List.range 16).foldl (fun s b =>
    match s.team? uid with
    | none => s
    | some t =>
      let x := t.barrier b
      if x.count == 0 || x.count < t.liveWaves then s
      else
        let s : State := s.updTeam uid (fun t => { t with
          barriers := listSet t.barriers b (fun x => { phase := x.phase + 1, count := 0, marks := 0 })
          waves := t.waves.map (fun w => w.barRelease b) })
        if t.pair then (dedup (t.waves.map (·.core))).foldl (fun s c => s.discardClean c) s else s) s

/-- BAR.SYNC and BAR.ARRIVE (14 R321). -/
def execBar (h : Hdr) (f : YFields) (s : State) : Res :=
  let i := Instr.bar h f
  let m := s.part h
  let b := f.imm.toNat % 16
  if m == 0 then .next ((s.finish h).endRun)
  else .next (s.afterWrites i m 2 (fun s =>
    let id := s.curWave.id
    let s : State := if f.sub == 0 then s.waitPart h (.barsync b) else (s.finish h).endRun
    let s : State := s.updCurTeam (fun t => { t with barriers := listSet t.barriers b (fun x =>
      if x.marks.getLsbD id then x else { x with count := x.count + 1, marks := x.marks ||| (1#64 <<< id) }) })
    s.barCheck s.cur.team))

/-! ### TRAP and the host -/

/-- A system-call record (18 R390). -/
def callRecord (token service : BitVec 16) (launch : Nat) (w1 pc : Word) (w : Wave) (m : BitVec 64) : List Word :=
  [BitVec.ofNat 64 (token.toNat * 2 ^ 48 + service.toNat * 2 ^ 32 + launch), w1, pc,
   BitVec.ofNat 64 (w.spair 2), BitVec.ofNat 64 (w.spair 4), BitVec.ofNat 64 (w.spair 6), BitVec.ofNat 64 (w.spair 8), m]

/-- TRAP (18 R387, R390): the lanes park and a record goes to ring 2. -/
def execTrap (h : Hdr) (f : YFields) (s : State) : Res :=
  let i := Instr.trap h f
  let m := s.part h
  if m == 0 then .next ((s.finish h).endRun)
  else .next (s.afterLanes i (laneBit (lowestLane m)) (fun s =>
    let q := s.takeToken
    let t := s.curTeam
    let w := s.curWave
    let s : State := q.2.pushRecord 2 (callRecord q.1 f.imm t.launch (recordW1 t w) s.cur.pc w m)
    let s : State := s.updCur (fun w => { w.goto (s.cur.mask &&& ~~~ m) (s.nextPc h) with
      calls := w.calls ++ [{ token := q.1, mask := m, pc := s.cur.pc, service := f.imm }] })
    ((s.moved h).endRun).always))

/-- TRAP_DELIVERY (18 R382, R383): the wave's run has ended and its next pending trap is delivered. -/
def execTrapDelivery (r : WaveRef) (s : State) : Res := .next (s.deliver 64 r)

/-- FLTDONE with RETRY (18 R389, 04 R89). -/
def execFltdoneRetry (token : BitVec 16) (s : State) : Res := .next (s.fltdone token 1)
/-- FLTDONE with ABORT (18 R389, 04 R89). -/
def execFltdoneAbort (token : BitVec 16) (s : State) : Res := .next (s.fltdone token 2)
/-- SCDONE (18 R389, R390). -/
def execScdone (token status : BitVec 16) (s : State) : Res := .next (s.scdone token status)

end Sys2Proof.Machine
end

