-- ==== Sys2Proof/Machine/Loads.lean ====
section
/-! DEFINITION. Loads and stores (06 R121 to R125), PREF and CFLUSH (06 R126, R127), FIFO rings (06 R128, R129), BANKCFG (06 R117,
R118) and stream registers (06 R130 to R134); the Holly checks of an access (05 R109, R110). -/

namespace Sys2Proof.Machine

/-! ### Checks on accesses -/

/-- The cores of a team, its even core first. -/
def Team.cores (t : Team) : List Nat := if t.pair then [t.core, t.core + 1] else [t.core]

/-- The Holly entries of a team that an access overlaps, each with its index in its own core's table (05 R109). -/
def State.hollyHits (s : State) (t : Team) (sp : Space) (lo n : Nat) (writes : Bool) : List (Nat × Holly) :=
  t.cores.flatMap (fun c =>
    let l := (s.core c).holly
    (List.range l.length).filterMap (fun k => match l[k]? with
      | some (some e) =>
        if e.team == t.uid && e.space == sp && decide (lo < e.hi) && decide (e.lo < lo + n) && (!e.source || writes) then some (k, e) else none
      | _ => none))

/-- The one of them that holds the lowest overlapping address. Of several, the first is taken, the even core's table before the odd
core's, which 05 R110 leaves open (log entry 58, DESIGN CHOICE). -/
def State.hollyHit (s : State) (t : Team) (sp : Space) (lo n : Nat) (writes : Bool) : Option (Nat × Holly) :=
  (s.hollyHits t sp lo n writes).foldl (fun b p => match b with
    | none => some p
    | some q => if max lo p.2.lo < max lo q.2.lo then some p else some q) none

/-- The RANGELOCK trap of an access (05 R110). -/
def State.hollyTrap (s : State) (t : Team) (sp : Space) (lo n : Nat) (writes : Bool) : Option TrapInfo :=
  (s.hollyHit t sp lo n writes).map (fun p => mkTrapA .rangelock (p.1 % 256 + p.2.tag * 256 + b2n p.2.source * 2 ^ 14) (max lo p.2.lo))

/-- One global access of a lane after its checks. -/
structure GAccess where
  lane : Nat
  va : Nat
  x : Xlat
  deriving DecidableEq, Repr

/-- The types that an access of `n` bytes may meet (04 R75). -/
def ioSize (n : Nat) (t : MType) : Bool := t != .io || n == 4 || n == 8

/-- The checks of a global access of `n` bytes by some lanes, then `k` (06 R124, 04 R85, 05 R109, 18 R380). -/
def State.globalGo (s : State) (i : Instr) (h : Hdr) (reqs : List Req) (n align : Nat) (need : Need) (kind : Nat)
    (typeOk : MType → Bool) (k : State → List GAccess → State) : State :=
  match s.memCheck i h (s.part h) reqs align need kind typeOk with
  | .stop s => s
  | .ok s xs =>
    let gs : List GAccess := (reqs.zip xs).map (fun p => { lane := p.1.lane, va := p.1.va.toNat, x := p.2 })
    match gs.findSome? (fun g => s.hollyTrap s.curTeam .glob g.va n need.wr) with
    | some t => s.trap h t
    | none =>
      match if need.rd then gs.findSome? (fun g => s.badWord s.curWave.core (g.x.mtype == .cached) g.x.pa n) else none with
      | some (st, ix) => s.hwerr h st ix
      | none => k s gs

/-- The access of a lane as an outstanding one. -/
def GAccess.acc (g : GAccess) (f : MFields) (kind : AKind) (n data : Nat) : Acc :=
  { lane := g.lane, kind := kind, side := none, va := g.va, pa := g.x.pa, len := n, mtype := g.x.mtype, scope := f.scope.toNat,
    ord := f.ord.toNat, ch := f.ch.toNat, data := data, state := .todo, result := 0, log2 := g.x.log2 }

/-- ORD 1 to 3 at SCOPE 3 to 6 makes the team ALWAYS (17 R367). -/
def State.scoped (s : State) (f : MFields) : State := if f.ord != 0 && decide (f.scope.toNat ≥ 3) then s.always else s

/-- The device-memory bytes of accesses, as reads of the team (17 R365). -/
def State.recordAccs (s : State) (gs : List GAccess) (n : Nat) : State :=
  s.record ((gs.filter (fun g => s.isDev g.x.pa)).map (fun g => (g.x.pa, n)))

/-! ### Miss-status entries (06 R121) -/

/-- The 64-byte sectors of a range of which core `c` lacks a byte. -/
def State.lacking (s : State) (c pa n : Nat) : List Nat :=
  ((List.range ((pa + n - 1) / 64 - pa / 64 + 1)).map (fun j => pa / 64 + j)).filter (fun q =>
    (List.range 64).any (fun b => decide (pa ≤ 64 * q + b) && decide (64 * q + b < pa + n) && ((s.core c).cbyte? (64 * q + b)).isNone))

/-- The sectors of a CACHED load that miss in core `c`. -/
def State.missing (s : State) (c : Nat) (a : Acc) : List Nat :=
  let load := a.kind == .load || a.kind == .pref false
  if a.side.isSome || a.mtype != .cached || !load || !(s.core c).hasCache || a.state != .todo then [] else s.lacking c a.pa a.len

/-- The sectors in flight on a core. -/
def State.inFlight (s : State) (c : Nat) : List Nat :=
  dedup (s.teams.flatMap (fun t => t.waves.flatMap (fun w =>
    if w.core == c then (w.outs.filter (fun o => o.fin != .tile)).flatMap (fun o => o.accs.flatMap (s.missing c)) else [])))

/-- Whether the miss-status entries that some sectors need are free together on a core; a sector in flight needs none. -/
def State.sectorsFree (s : State) (c : Nat) (need : List Nat) : Bool :=
  let fly := s.inFlight c
  let more := need.filter (fun q => !fly.elem q)
  more.isEmpty || decide (fly.length + more.length ≤ 512)

/-- Whether an instruction of the current wave finds the miss-status entries it needs. -/
def State.mshrFree (s : State) (accs : List Acc) : Bool := s.sectorsFree s.curWave.core (dedup (accs.flatMap (s.missing s.curWave.core)))

/-- Issue an instruction of accesses: its out is outstanding and the lanes move on. -/
def State.issueAccs (s : State) (h : Hdr) (vlr : Bool) (fin : Fin) (accs : List Acc) : State :=
  if s.mshrFree accs then (s.addOut (Out.ofAccs s.cur.pc vlr fin accs)).finish h else s.blockIssue

/-! ### LD, ST, LDS, STS, LDCVT -/

/-- The requests of some lanes of a global instruction. -/
def State.globalReqs (s : State) (h : Hdr) (f : MFields) (lanes : List Nat) : List Req :=
  lanes.map (fun l => { lane := l, va := globalEa h f s.curWave (s.curWave.lane l) })

/-- Registers of an access (02 R28). -/
def regsOf (n : Nat) : Nat := max 1 (n / 4)

/-- A global load by some lanes (06 R124). -/
def State.loadGlobal (s : State) (i : Instr) (h : Hdr) (f : MFields) (lanes : List Nat) (n : Nat) (fin : Fin) : State :=
  if lanes.isEmpty then s.finish h
  else s.globalGo i h (s.globalReqs h f lanes) n f.size.toNat Need.read 0 (ioSize n) (fun s gs =>
    ((s.recordAccs gs n).scoped f).issueAccs h true fin (gs.map (fun g => g.acc f .load n 0)))

/-- LD (06 R124). -/
def execLd (h : Hdr) (f : MFields) (s : State) : Res :=
  .next (s.loadGlobal (.ld h f) h f (lanesOf (s.part h)) (sizeBytes f) (.load f.d.toNat false (f.sub == 1)))

/-- LDS: the acting lane's access, into scalar registers (06 R124). -/
def execLds (h : Hdr) (f : MFields) (s : State) : Res :=
  .next (s.loadGlobal (.lds h f) h f (s.actor h).toList (sizeBytes f) (.load f.d.toNat true (f.sub == 1)))

/-- LDCVT (06 R125). -/
def execLdcvt (h : Hdr) (f : MFields) (s : State) : Res :=
  let desc := s.curWave.sr (f.off.toNat % 256)
  let d := nfDesc desc
  let k := 8 * sizeBytes f / d.n
  let f0 : MFields := { f with off := 0 }
  if s.part h == 0 then .next (s.finish h)
  else if !d.valid || decide (k > 16) then .next (s.illegal h (.ldcvt h f) 8)
  else if s.badBlock f.d.toNat k then .next (s.illegal h (.ldcvt h f) 7)
  else .next (s.loadGlobal (.ldcvt h f) h f0 (lanesOf (s.part h)) (sizeBytes f) (.narrow f.d.toNat desc))

/-- The value a lane stores. -/
def storeData (f : MFields) (w : Wave) (scalar : Bool) (l : Nat) : Nat :=
  (if scalar then w.sblock f.d.toNat (regsOf (sizeBytes f)) else (w.lane l).vblock f.d.toNat (regsOf (sizeBytes f))) % 2 ^ (8 * sizeBytes f)

/-- A global store by some lanes (06 R124). -/
def State.storeGlobal (s : State) (i : Instr) (h : Hdr) (f : MFields) (lanes : List Nat) (scalar : Bool) : State :=
  let n := sizeBytes f
  if lanes.isEmpty then s.finish h
  else s.globalGo i h (s.globalReqs h f lanes) n f.size.toNat Need.write 1 (ioSize n) (fun s gs =>
    (s.scoped f).issueAccs h false .none (gs.map (fun g => g.acc f .store n (storeData f s.curWave scalar g.lane))))

/-- ST: helper lanes are skipped (06 R124). -/
def execSt (h : Hdr) (f : MFields) (s : State) : Res :=
  .next (s.storeGlobal (.st h f) h f (lanesOf (s.part h &&& ~~~ s.curWave.helper)) false)

/-- STS (06 R124). -/
def execSts (h : Hdr) (f : MFields) (s : State) : Res := .next (s.storeGlobal (.sts h f) h f (s.actor h).toList true)

/-! ### LDL, STL -/

/-- Bytes of a team's scratch allocation on one core (06 R119). -/
def Team.alloc (t : Team) : Nat := roundUp t.scratchBytes 4096

/-- Side and offset of a local range for a wave of side `own`; none: LOCAL (06 R119, R120). -/
def Team.localAt (t : Team) (own : Nat) (a : Int) (n : Nat) : Option (Nat × Nat) :=
  if a < 0 || a + n > (8388608 : Int) then none
  else
    let x := a.toNat
    if x < 4194304 then (if x + n ≤ t.alloc then some (own, x) else none)
    else if t.pair && decide (x - 4194304 + n ≤ t.alloc) then some (1 - own, x - 4194304)
    else none

/-- A local access of a lane after its checks: lane, side, offset. -/
structure LAccess where
  lane : Nat
  side : Nat
  off : Nat
  deriving DecidableEq, Repr

/-- The checks of a local access of `n` bytes by some lanes, then `k` (06 R120, R124, 05 R109, 18 R380). -/
def State.localGo (s : State) (h : Hdr) (f : MFields) (lanes : List Nat) (n : Nat) (writes reads : Bool)
    (k : State → List LAccess → State) : State :=
  let t := s.curTeam
  let w := s.curWave
  let own := t.sideOf w.core
  let eas := lanes.map (fun l => (l, localEa h f w (w.lane l)))
  match eas.find? (fun p => p.2 % (n : Int) != 0) with
  | some p => s.trap h (mkTrap .align f.size.toNat (wrap 32 p.2) 0)
  | none =>
    match eas.find? (fun p => (t.localAt own p.2 n).isNone) with
    | some p => s.trap h (mkTrap .protect pLOCAL (wrap 32 p.2) 0)
    | none =>
      let ls : List LAccess := eas.filterMap (fun p => (t.localAt own p.2 n).map (fun q => { lane := p.1, side := q.1, off := q.2 }))
      match ls.findSome? (fun a => s.hollyTrap t (.scratch a.side) a.off n writes) with
      | some x => s.trap h x
      | none =>
        match if reads then ls.findSome? (fun a => s.badSide t.uid a.side false a.off n) else none with
        | some (st, ix) => s.hwerr h st ix
        | none => k s ls

def LAccess.acc (g : LAccess) (f : MFields) (kind : AKind) (n data : Nat) : Acc :=
  { lane := g.lane, kind := kind, side := some g.side, va := g.off, pa := g.off, len := n, mtype := .homeonly, scope := f.scope.toNat,
    ord := f.ord.toNat, ch := 0, data := data, state := .todo, result := 0 }

/-- LDL (06 R124). -/
def execLdl (h : Hdr) (f : MFields) (s : State) : Res :=
  let n := sizeBytes f
  if s.part h == 0 then .next (s.finish h)
  else .next (s.localGo h f (lanesOf (s.part h)) n false true (fun s ls =>
    (s.scoped f).issueAccs h true (.load f.d.toNat false (f.sub == 1)) (ls.map (fun a => a.acc f .load n 0))))

/-- STL: helper lanes are skipped (06 R124). -/
def execStl (h : Hdr) (f : MFields) (s : State) : Res :=
  let n := sizeBytes f
  let lanes := lanesOf (s.part h &&& ~~~ s.curWave.helper)
  if lanes.isEmpty then .next (s.finish h)
  else .next (s.localGo h f lanes n true false (fun s ls =>
    (s.scoped f).issueAccs h false .none (ls.map (fun a => a.acc f .store n (storeData f s.curWave false a.lane)))))

/-! ### PREF, CFLUSH -/

/-- The accesses of one lane's prefetch, one for each sector that covers its bytes; none when one of them does not translate, may not be
read or is not CACHED (06 R126, 04 R75). -/
def State.prefAccs (s : State) (f : MFields) (l : Nat) (va : Int) (n : Nat) : List Acc × State :=
  let home := f.sub != 0
  let lo := va / 64 * 64
  let cnt := ((va + n - lo + 63) / 64).toNat
  let r := (List.range cnt).foldl (fun (acc : Option (List Acc) × State) (j : Nat) =>
    let a : Int := lo + 64 * (j : Int)
    if !vaOk a then (none, acc.2)
    else
      let q := acc.2.engineXlate s.curWave.core s.curAsn a.toNat
      match q.1, acc.1 with
      | .hit x, some as =>
        if x.perms.getLsbD 0 && x.mtype == .cached then
          (some (as ++ [{ lane := l, kind := .pref home, side := none, va := a.toNat, pa := x.pa, len := 64, mtype := x.mtype, scope := 0,
                          ord := 0, ch := f.ch.toNat, data := 0, state := .todo, result := 0, log2 := x.log2 }]), q.2)
        else (none, q.2)
      | _, _ => (none, q.2)) (some [], s)
  (r.1.getD [], r.2)

/-- PREF: never traps (06 R126); it waits for its walks, as every translating instruction does (04 R85). -/
def execPref (h : Hdr) (f : MFields) (s : State) : Res :=
  let w := s.curWave
  if s.part h != 0 && w.prog.isNone && s.shareFull w.core then .next s.blockWave
  else
  let q := (lanesOf (s.part h)).foldl (fun (acc : List Acc × State) l =>
    let r := acc.2.prefAccs f l (globalEa h f w (w.lane l)) (sizeBytes f)
    (acc.1 ++ r.1, r.2)) ([], s)
  if q.2.curWave.onWalk then .next ((s.hold (.pref h f)).orWait q.2)
  else if q.2.cur.whole then .next s.blockWave
  else if q.1.isEmpty then .next (q.2.finish h) else .next (q.2.issueAccs h false .none q.1)

/-- CFLUSH (06 R127): no permission needed, nothing on pages that are not CACHED. -/
def execCflush (h : Hdr) (f : MFields) (s : State) : Res :=
  let lanes := lanesOf (s.part h)
  if lanes.isEmpty then .next (s.finish h)
  else
    match s.memCheck (.cflush h f) h (s.part h) (s.globalReqs h f lanes) 0 Need.nothing 0 (fun _ => true) with
    | .stop s => .next s
    | .ok s xs =>
      let accs : List Acc := (((s.globalReqs h f lanes).zip xs).filter (fun p => p.2.mtype == .cached)).map (fun p =>
        { lane := p.1.lane, kind := .flush f.sub.toNat, side := none, va := p.1.va.toNat, pa := lineOf p.2.pa * 256, len := 256,
          mtype := .cached, scope := 0, ord := 0, ch := 0, data := 0, state := .todo, result := 0, log2 := p.2.log2 })
      if accs.isEmpty then .next (s.finish h) else .next (s.issueAccs h true .none accs)

/-! ### FIFO rings -/

def Core.ring? (c : Core) (bank : Nat) : Option Ring :=
  if c.banks.getD bank .scratch == .fifo then c.rings.find? (fun r => r.bank == bank) else none
def State.updRingOf (s : State) (core bank : Nat) (f : Ring → Ring) : State :=
  s.updCore core (fun c => { c with rings := c.rings.map (fun r => if r.bank == bank then f r else r) })
/-- Whether a registered entry still waits where it found its instruction blocked (14 R299). -/
def State.waitsAt (s : State) (x : WaveRef × Word) : Bool :=
  match s.wave? x.1 with
  | some w => w.lanes.any (fun ln => ln.live && ln.pc == x.2 && (match ln.stall with | some (pc, _) => pc == x.2 | none => false))
  | none => false
/-- Whether an entry is next in an order of waiting ones (06 R128). -/
def State.isNext (s : State) (l : List (WaveRef × Word)) (me : WaveRef × Word) : Bool :=
  match l.filter s.waitsAt with
  | [] => true
  | x :: _ => x == me
/-- An entry joins the end of an order of waiting ones, unless it stands there. -/
def joinOrder (l : List (WaveRef × Word)) (me : WaveRef × Word) : List (WaveRef × Word) := if l.elem me then l else l ++ [me]

/-- The checks of a FIFO instruction, then `k` with the bank and its ring (06 R128). -/
def State.fifoGo (s : State) (h : Hdr) (f : MFields) (k : Nat → Ring → State) : State :=
  let bank := f.off.toNat % 64
  match (s.core s.curWave.core).ring? bank with
  | none => s.trap h (mkTrap .protect pBANKMODE 0 0)
  | some g =>
    if decide (s.curTeam.width * sizeBytes f > g.slotBytes) then s.trap h (mkTrap .protect pSLOT 0 0) else k bank g

/-- The bytes that FIFOPUSH puts into its slot (06 R128). -/
def State.pushBytes (s : State) (h : Hdr) (f : MFields) (g : Ring) : List Byte :=
  let n := sizeBytes f
  let w := s.curWave
  let take := s.part h &&& ~~~ w.helper
  let data := (List.range s.curTeam.width).flatMap (fun l => if take.getLsbD l then leBytes n (storeData f w false l) else List.replicate n 0)
  data ++ List.replicate (g.slotBytes - data.length) 0

/-- FIFOPUSH: a release at core scope (06 R128, R129). -/
def execFifopush (h : Hdr) (f : MFields) (s : State) : Res :=
  if s.part h == 0 then .next (s.finish h)
  else .next (s.fifoGo h f (fun bank g =>
    let core := s.curWave.core
    let me := (s.curRef, s.cur.pc)
    if decide (g.slots.length ≥ g.nslot) || !s.isNext g.pushers me then
      (s.updRingOf core bank (fun g => { g with pushers := joinOrder g.pushers me })).blockIssue
    else s.afterWrites (.fifopush h f) s.curWave.liveMask 3 (fun s =>
      let bs := s.pushBytes h f g
      let ts := (lanesOf (s.part h)).flatMap (fun l => s.relTags l 3)
      ((s.updRingOf core bank (fun g => { g with
        slots := g.slots ++ [(bs, ts)], tail := (g.tail + 1) % g.nslot, pushers := g.pushers.filter (· != me) })).always).finish h)))

/-- FIFOPOP: an acquire at core scope (06 R128, R129). With SIZE 0 or 1 the spec does not say what the upper bits of the register hold; they
are zero (log entry 59, DESIGN CHOICE). -/
def execFifopop (h : Hdr) (f : MFields) (s : State) : Res :=
  if s.part h == 0 then .next (s.finish h)
  else .next (s.fifoGo h f (fun bank g =>
    let core := s.curWave.core
    let me := (s.curRef, s.cur.pc)
    match g.slots with
    | [] => (s.updRingOf core bank (fun g => { g with poppers := joinOrder g.poppers me })).blockIssue
    | slot :: rest =>
      if !s.isNext g.poppers me then (s.updRingOf core bank (fun g => { g with poppers := joinOrder g.poppers me })).blockIssue
      else
        let n := sizeBytes f
        let ws : List RegWrite := (lanesOf (s.part h)).flatMap (fun l =>
          let v := leNat ((slot.1.drop (l * n)).take n)
          (List.range (regsOf n)).map (fun i => { scalar := false, lane := l, reg := f.d.toNat + i, val := BitVec.ofNat 32 (v / 2 ^ (32 * i)) }))
        let s : State := s.updRingOf core bank (fun g => { g with
          slots := rest, head := (g.head + 1) % g.nslot, poppers := g.poppers.filter (· != me) })
        ((s.addOut (Out.ofWrites s.cur.pc ws 0)).always).finish h))

/-! ### BANKCFG -/

/-- The PROTECT reason of a configuration word's own fields (06 R117). -/
def bankcfgBad (v : Nat) : Bool :=
  let mode := bits v 7 6
  let nslot := bits v 51 40
  let slotsz := bits v 39 32
  bits v 63 52 != 0 || bits v 31 8 != 0 || mode == 3 || decide (bits v 5 0 > 47) ||
  (mode == 2 && (nslot == 0 || decide ((nslot + 1) * (slotsz + 1) * 16 > 65536))) || (mode != 2 && (nslot != 0 || slotsz != 0))

/-- Whether a team owns a unit of a bank of a core (06 R117, R119). -/
def State.bankOwned (s : State) (core bank : Nat) : Bool :=
  s.teams.any (fun t => t.cores.elem core && t.units.any (fun u => u.1 == t.sideOf core && u.2.1 == bank && u.2.2 != 0))

/-- BANKBUSY (06 R117). -/
def State.bankBusy (s : State) (core bank mode : Nat) : Bool :=
  match (s.core core).banks.getD bank .scratch with
  | .scratch => mode != 1 && s.bankOwned core bank
  | .fifo => match (s.core core).rings.find? (fun r => r.bank == bank) with
    | some g => !g.slots.isEmpty || (g.pushers ++ g.poppers).any s.waitsAt
    | none => false
  | .cache => false

/-- The bank changes mode (06 R118). `out`: the BANKCFG's outstanding completion. -/
def State.setBank (s : State) (core bank mode : Nat) (v : Nat) (out : Nat) : State :=
  let old := (s.core core).banks.getD bank .scratch
  let new : BankMode := if mode == 0 then .cache else if mode == 1 then .scratch else .fifo
  let s : State := if old == .cache && new != .cache then
      let s : State := s.flushNotices core
      s.updCore core (fun c => { c with
        cache := c.cache.filter (fun x => x.bank != bank)
        draining := c.draining ++ [{ bank := bank, wave := s.curRef, out := out, lines := c.cache.filter (fun x => x.bank == bank) }] })
    else s
  s.updCore core (fun c => { c with
    banks := listSet c.banks bank (fun _ => new)
    rings := c.rings.filter (fun r => r.bank != bank) ++ (if new == .fifo then
      [{ bank := bank, nslot := bits v 51 40 + 1, slotBytes := (bits v 39 32 + 1) * 16, head := 0, tail := 0, slots := [], pushers := [], poppers := [] }]
      else []) })

/-- BANKCFG (06 R117, R118). -/
def execBankcfg (h : Hdr) (f : MFields) (s : State) : Res :=
  let w := s.curWave
  let v := w.spair f.a.toNat
  let bank := bits v 5 0
  let mode := bits v 7 6
  if s.part h &&& ~~~ w.helper == 0 then .next (s.finish h)
  else if !w.hmode && !s.curBlock.bankOk then .next (s.trap h (mkTrap .priv 0x8B 0 0))
  else if bankcfgBad v then .next (s.trap h (mkTrap .protect pBANKCFG 0 0))
  else if s.bankBusy w.core bank mode then .next (s.trap h (mkTrap .protect pBANKBUSY 0 0))
  else
    let drains := (s.core w.core).banks.getD bank .scratch == .cache && mode != 0
    let o : Out := { id := 0, pc := s.cur.pc, vlr := true, ready := !drains, fin := .none, accs := [], writes := [], flags := 0 }
    let id := s.uid
    .next (((s.addOut o).setBank w.core bank mode v id).finish h)

/-- BANKCFG_DRAIN_DONE (06 R118): the lines of the bank go home as far as their budgets allow; once they have, the BANKCFG completes. -/
def execBankcfgDrainDone (core bank : Nat) (s : State) : Res :=
  match (s.core core).draining.find? (fun d => d.bank == bank) with
  | none => .next s
  | some d =>
    let mine (x : CLine) : Bool := d.lines.any (fun y => y.line == x.line)
    let s : State := s.cleanSome core mine
    if s.dirtyIn core mine then .next s
    else
      let s : State := s.updCore core (fun c => { c with draining := c.draining.filter (fun x => x.out != d.out) })
      .next (s.updWave d.wave (fun w => { w with outs := w.outs.map (fun o => if o.id == d.out then { o with ready := true } else o) }))

/-! ### Streams -/

/-- Steps of a stream's pattern (06 R130). -/
def Stream.steps (q : Stream) : Nat := q.extents.foldl (fun a e => a * e) 1
/-- The indices of a step, dimension 0 fastest. -/
def stepIndex : List Nat → Nat → List Nat
  | [], _ => []
  | e :: r, k => k % e :: stepIndex r (k / e)
/-- The exact address of a lane's element at a step (06 R130). -/
def Stream.addr (q : Stream) (step lane : Nat) : Int :=
  let ix := (stepIndex q.extents step).zip q.strides
  (q.base.toNat : Int) + lane * q.laneStride + ix.foldl (fun a p => a + (p.1 : Int) * p.2) 0
def Stream.bytes (q : Stream) : Nat := 4 * 2 ^ q.esize

def Wave.stream (w : Wave) (k : Nat) : Stream := w.streams.getD k Stream.reset
def Wave.updStream (w : Wave) (k : Nat) (f : Stream → Stream) : Wave := { w with streams := listSet w.streams k f }

/-- A COPY trap: reason, tag, address (05 R111). -/
def copyTrap (reason tag addr : Nat) : TrapInfo := mkTrapA .copy (reason + tag * 16) addr

/-- STRM (06 R130). -/
def execStrm (h : Hdr) (f : CFields) (s : State) : Res :=
  let w := s.curWave
  let nd := bits f.d.toNat 7 6 + 1
  let p := bits f.d.toNat 5 3
  let e (k : Nat) : Nat := bits (w.sr (f.e.toNat + k / 2)) (16 * (k % 2) + 15) (16 * (k % 2))
  let st (k : Nat) : Int := toSigned 32 (w.sr (f.b.toNat + k))
  let es := w.sr (f.e.toNat + 3)
  let ls : Int := toSigned 32 (w.sr (f.e.toNat + 2))
  let base := w.spair f.a.toNat
  let sz : Int := (4 * 2 ^ (es % 4) : Nat)
  if s.part h == 0 then .next (s.finish h)
  else if (List.range 4).any (fun k => if k < nd then e k == 0 else e k != 0 || st k != 0) || es % 4 == 3 || decide (es > 3) ||
      (p != 7 && decide (p + nd - 1 > 6)) then .next (s.trap h (copyTrap 1 0 0))
  else if (base : Int) % sz != 0 || ls % sz != 0 || (List.range 4).any (fun k => st k % sz != 0) then
    .next (s.trap h (mkTrapA .align (es % 4 + 2) base))
  else if !canonical base then .next (s.trap h (mkTrapA .protect pNONCANON base))
  else .next ((s.updCur (fun w => w.updStream (bits f.d.toNat 2 0) (fun _ =>
    { bound := true, base := BitVec.ofNat 64 base, strides := (List.range nd).map st, extents := (List.range nd).map e, laneStride := ls,
      esize := es % 4, pred := p, nd := nd, next := 0, fetched := 0, queue := [], stopped := false }))).finish h)

/-- STRMX (06 R133). -/
def execStrmx (h : Hdr) (f : CFields) (s : State) : Res :=
  if s.part h == 0 then .next (s.finish h)
  else .next ((s.updCur (fun w => w.updStream (bits f.d.toNat 2 0) (fun _ => Stream.reset))).finish h)

/-- QSTAT (06 R133). -/
def Stream.stat (q : Stream) : Nat :=
  q.queue.length + b2n q.bound * 32 + b2n (q.bound && q.next == q.steps) * 64 + b2n q.stopped * 128 + q.esize * 256

def execQstat (h : Hdr) (f : MFields) (s : State) : Res :=
  if s.part h == 0 then .next (s.finish h)
  else .next ((s.updCur (fun w => w.setS f.d.toNat (w.stream (f.off.toNat % 8)).stat)).finish h)

/-- The predicates that a QPOP writes in every lane of the wave (06 R132). -/
def Stream.setPreds (q : Stream) (ln : Lane) : Lane :=
  if q.pred == 7 then ln
  else
    let ix := stepIndex q.extents q.next
    (List.range q.nd).foldl (fun ln k =>
      ln.setPred (q.pred + k) ((List.range (k + 1)).all (fun j => ix.getD j 0 + 1 == q.extents.getD j 0))) ln

/-- The stream advances by one step, and the predicates are written; fetching stays held at a failing step that is not this one
(06 R131). -/
def State.popStream (s : State) (k : Nat) : State :=
  s.updCur (fun w =>
    let q := w.stream k
    ({ w with lanes := w.lanes.map q.setPreds } : Wave).updStream k (fun q => { q with
      next := q.next + 1, fetched := max q.fetched (q.next + 1), queue := q.queue.drop 1, stopped := q.stopped && !q.queue.isEmpty,
      paid := if q.queue.isEmpty then [] else q.paid }))

/-- QPOP (06 R131, R132): the fetched step, or the step read as a load; of two checks that fail, the lower code is reported (05 R111). -/
def execQpop (h : Hdr) (f : MFields) (s : State) : Res :=
  let k := f.off.toNat % 8
  let q := s.curWave.stream k
  let n := sizeBytes f
  let m := s.part h
  if m == 0 then .next (s.finish h)
  else if q.bound && n != q.bytes then .next (s.trap h (copyTrap 1 0 0))
  else if !q.bound || decide (q.next ≥ q.steps) then .next (s.trap h (copyTrap 10 0 0))
  else
    match q.queue with
    | data :: _ =>
      let elem (l : Nat) : Nat × Nat := data.getD l (0, 0)
      let ws : List RegWrite := (lanesOf m).flatMap (fun l => (List.range (regsOf n)).map (fun i =>
        { scalar := false, lane := l, reg := f.d.toNat + i, val := BitVec.ofNat 32 ((elem l).2 / 2 ^ (32 * i)) }))
      let s : State := s.record ((lanesOf m).map (fun l => ((elem l).1, n)))
      .next (((s.popStream k).addOut (Out.ofWrites s.cur.pc ws 0)).finish h)
    | [] =>
      let reqs : List Req := (lanesOf m).map (fun l => { lane := l, va := q.addr q.next l })
      match s.memCheck (.qpop h f) h m reqs 0 Need.read 0 (fun t => t != .io) with
      | .stop s => .next s
      | .ok s xs =>
        match xs.findSome? (fun x => s.badWord s.curWave.core (x.mtype == .cached) x.pa n) with
        | some (st, ix) => .next (s.hwerr h st ix)
        | none =>
          let gs : List GAccess := (reqs.zip xs).map (fun p => { lane := p.1.lane, va := p.1.va.toNat, x := p.2 })
          let accs := gs.map (fun g => g.acc { f with scope := 0, ord := 0, ch := 0 } .load n 0)
          if s.mshrFree accs then .next (((s.recordAccs gs n).popStream k).issueAccs h true (.load f.d.toNat false false) accs)
          else .next s.blockIssue

/-- The requests of a stream step, of `n` bytes at each physical address: for each line, the sectors that it touches and the core cache
lacks (06 R121, 19 R398). -/
def State.stepRequests (s : State) (core n : Nat) (d : List Nat) : List Request :=
  let lacks (a k : Nat) : Bool := decide (a % 256 / 64 ≤ k) && decide (k ≤ (a % 256 + n - 1) / 64) &&
    (List.range n).any (fun i => ((s.core core).cbyte? (a + i)).isNone)
  ((dedup (d.map lineOf)).map (fun l =>
    (256 * l, 64 * (List.range 4).countP (fun k => d.any (fun a => lineOf a == l && lacks a k)), false))).filter (fun x => x.2.1 != 0)

/-- What the translation of a stream step gives: an address in every lane, a reason to stop there, or a wait (06 R131). -/
inductive StepAt where
  | at (xs : List Xlat)
  | stop
  | wait
  deriving DecidableEq, Repr

/-- Translate and check the step that a stream fetches next. -/
def State.stepXlate (s : State) (r : WaveRef) (qn : Nat) (q : Stream) (core width : Nat) (asn : BitVec 12) : StepAt × State :=
  (List.range width).foldl (fun (acc : StepAt × State) l =>
    match acc.1 with
    | .stop => acc
    | p =>
      let a := q.addr q.fetched l
      if !vaOk a then (.stop, acc.2)
      else
        let y := acc.2.unitXlate (.stream r qn) [] core asn a.toNat
        match y.1, p with
        | .hit x, .at xs =>
          if !x.perms.getLsbD 0 || x.mtype == .io || (y.2.badWord core (x.mtype == .cached) x.pa q.bytes).isSome then (.stop, y.2)
          else if x.mtype == .host && y.2.hostLocked then (.wait, y.2)
          else (.at (xs ++ [x]), y.2)
        | .hit _, _ => (.wait, y.2)
        | .miss, _ => (.wait, y.2)
        | _, _ => (.stop, y.2)) (.at [], s)

/-- The values of a step's elements, each read through the core cache or at its home (13 R276). -/
def State.stepLoad (s : State) (core n : Nat) (xs : List Xlat) : StepData × State :=
  xs.foldl (fun (acc : StepData × State) x =>
    if x.mtype == .cached then
      let z := acc.2.cacheLoad core x.pa n 0
      (acc.1 ++ [(x.pa, z.1.1)], z.2)
    else (acc.1 ++ [(x.pa, acc.2.homeRead x.pa n)], acc.2)) ([], s)

/-- STREAM_FETCH (06 R131): the next step of a stream is fetched, or fetching stops there; a fetch waits for its walks, for miss-status
entries, for lines that a BANKCFG writes back, and for its budgets (06 R118, R121, 19 R399). -/
def execStreamFetch (r : WaveRef) (qn : BitVec 3) (s : State) : Res :=
  match s.team? r.team, s.wave? r with
  | some t, some w =>
    let q := w.stream qn.toNat
    let upd (s : State) (f : Stream → Stream) : State := s.updWave r (fun w => w.updStream qn.toNat f)
    if !q.bound || q.stopped || decide (q.queue.length ≥ 16) || decide (q.fetched ≥ q.steps) || w.ended || w.stop then .next s
    else
      let go := s.stepXlate r qn.toNat q w.core t.width (BitVec.ofNat 12 (s.block t.launch).asn)
      match go.1 with
      | .wait => .next go.2
      | .stop => .next (upd go.2 (fun q => { q with stopped := true }))
      | .at xs =>
        let s : State := go.2
        let near := xs.filter (fun x => x.mtype == .cached)
        let inDrain (x : CLine) : Bool := near.any (fun y => lineOf y.pa == x.line) &&
          (s.core w.core).draining.any (fun d => d.lines.any (fun y => y.line == x.line))
        let s : State := s.cleanSome w.core inDrain
        let need := if (s.core w.core).hasCache then dedup (near.flatMap (fun x => s.lacking w.core x.pa q.bytes)) else []
        if s.dirtyIn w.core inDrain || !s.sectorsFree w.core need then .next s
        else
          let reqs := s.stepRequests w.core q.bytes (xs.map (·.pa))
          let g := s.grant w.core q.paid reqs
          if !reqs.all (fun x => g.1.elem x) then .next (upd g.2 (fun q => { q with paid := g.1 }))
          else
            let y := g.2.stepLoad w.core q.bytes xs
            .next (upd y.2 (fun q => { q with queue := q.queue ++ [y.1], fetched := q.fetched + 1, paid := [] }))
  | _, _ => .next s

end Sys2Proof.Machine
end

