-- ==== Sys2Proof/Machine/Atomics.lean ====
section
/-! DEFINITION. The atomics ATOM, ATOMX, RED, ATOML and XRED (13 R289 to R293, 04 R91, R92). -/

namespace Sys2Proof.Machine

/-- The operation table of ATOM, RED and ATOML under CH 0 (03 R63). -/
def atomOp (sub : Nat) : AOp :=
  match sub with
  | 0 => .add
  | 1 => .minS
  | 2 => .maxS
  | 3 => .minU
  | 4 => .maxU
  | 5 => .and
  | 6 => .or
  | _ => .xor
/-- The operation table of ATOMX and ATOML under CH 1. -/
def atomxOp (sub : Nat) : AOp :=
  match sub with
  | 0 => .xchg
  | 1 => .cas
  | 2 => .fadd
  | 3 => .inc
  | _ => .dec

/-- A lane's operand block (13 R289): for CAS the compare value in the low bits. -/
def atomData (f : MFields) (op : AOp) (ln : Lane) : Nat :=
  match op with
  | .cas => ln.vblock f.d.toNat (2 * regsOf (sizeBytes f))
  | .xredF => ln.vr f.d.toNat
  | _ => ln.vblock f.d.toNat (regsOf (sizeBytes f))

/-- The zero that helper lanes receive (11 R243). -/
def helperZeros (f : MFields) (m : BitVec 64) : List RegWrite :=
  (lanesOf m).flatMap (fun l => (List.range (regsOf (sizeBytes f))).map (fun i => { scalar := false, lane := l, reg := f.d.toNat + i, val := 0 }))

/-- The out of an atomic: its old values come back when `ret`. -/
def atomOut (f : MFields) (pc : Word) (ret : Bool) (helpers : BitVec 64) (accs : List Acc) : Out :=
  { Out.ofAccs pc ret (if ret then .load f.d.toNat false false else .none) accs with writes := if ret then helperZeros f helpers else [] }

/-- ALWAYS of an atomic (17 R367). -/
def State.atomAlways (s : State) (f : MFields) : State :=
  if decide (f.scope.toNat ≥ 3) || (f.scope.toNat == 2 && s.curTeam.pair) then s.always else s.scoped f

/-- An atomic on global memory (13 R290): helper lanes are suppressed. `img`: an XRED. -/
def State.atomGlobal (s : State) (i : Instr) (h : Hdr) (f : MFields) (op : AOp) (ret img : Bool) : State :=
  let n := sizeBytes f
  let helpers := s.part h &&& s.curWave.helper
  let lanes := lanesOf (s.part h &&& ~~~ s.curWave.helper)
  if s.part h == 0 then s.finish h
  else if lanes.isEmpty then (if ret then (s.addOut (atomOut f s.cur.pc ret helpers [])).finish h else s.finish h)
  else s.globalGo i h (s.globalReqs h f lanes) n f.size.toNat Need.rw 2 (fun _ => true) (fun s gs =>
    match gs.find? (fun g => g.x.mtype == .io || (img && g.x.mtype == .host)) with
    | some g => s.trap h (mkTrapA .atomic (if g.x.mtype == .io then 1 else 2) g.va)
    | none =>
      let s : State := if ret then s.recordAccs gs n else s
      let accs := gs.map (fun g => { g.acc f (.atomic op) n (atomData f op (s.curWave.lane g.lane)) with ch := 0 })
      ((s.atomAlways f).addOut (atomOut f s.cur.pc ret helpers accs)).finish h)

/-- ATOM (13 R291). -/
def execAtom (h : Hdr) (f : MFields) (s : State) : Res := .next (s.atomGlobal (.atom h f) h f (atomOp f.sub.toNat) true false)
/-- ATOMX (13 R292). -/
def execAtomx (h : Hdr) (f : MFields) (s : State) : Res := .next (s.atomGlobal (.atomx h f) h f (atomxOp f.sub.toNat) true false)
/-- RED (13 R291): no result. -/
def execRed (h : Hdr) (f : MFields) (s : State) : Res := .next (s.atomGlobal (.red h f) h f (atomOp f.sub.toNat) false false)
/-- XRED (13 R293). -/
def execXred (h : Hdr) (f : MFields) (s : State) : Res :=
  .next (s.atomGlobal (.xred h f) h f (if f.sub == 0 then .xredF else .xredImg) false true)

/-- ATOML (13 R291, R292): scratch, with the table that CH selects. -/
def execAtoml (h : Hdr) (f : MFields) (s : State) : Res :=
  let n := sizeBytes f
  let op := if f.ch == 1 then atomxOp f.sub.toNat else atomOp f.sub.toNat
  let helpers := s.part h &&& s.curWave.helper
  let lanes := lanesOf (s.part h &&& ~~~ s.curWave.helper)
  if s.part h == 0 then .next (s.finish h)
  else if lanes.isEmpty then .next ((s.addOut (atomOut f s.cur.pc true helpers [])).finish h)
  else .next (s.localGo h f lanes n true true (fun s ls =>
    let accs := ls.map (fun a => a.acc f (.atomic op) n (atomData f op (s.curWave.lane a.lane)))
    ((s.scoped f).addOut (atomOut f s.cur.pc true helpers accs)).finish h))

end Sys2Proof.Machine
end

