-- ==== Sys2Proof/Machine/Flags.lean ====
section
/-! DEFINITION. Every condition and flag computation: integer conditions (03 R58), saturation (08 R160), floating comparisons
(09 R193) and the flags of a floating result. -/

namespace Sys2Proof.Machine

/-- The integer conditions of 03 R58 on `w`-bit values. -/
def intCond (code w a b : Nat) : Bool :=
  let sa := toSigned w a
  let sb := toSigned w b
  match code with
  | 0 => a == b
  | 1 => a != b
  | 2 => decide (sa < sb)
  | 3 => decide (sa ≤ sb)
  | 4 => decide (sa > sb)
  | 5 => decide (sa ≥ sb)
  | 6 => decide (a < b)
  | 7 => decide (a ≤ b)
  | 8 => decide (a > b)
  | 9 => decide (a ≥ b)
  | _ => false

/-- An exact integer result in a type: modulo 2^w, or clamped with SATD (08 R160). -/
def intResult (t : IFmt) (sat : Bool) (x : Int) : Nat × Flags :=
  if t.has x then (wrap t.w x, 0#8)
  else if sat then (wrap t.w (t.clamp x), fSATD)
  else (wrap t.w x, 0#8)

/-- The types of 03 R57: SUB 0 .I32, 1 .N32, 2 .I64, 3 .N64. -/
def intType (sub : BitVec 2) : IFmt := { w := if sub.getLsbD 1 then 64 else 32, signed := !sub.getLsbD 0 }
/-- Registers of a type. -/
def typeRegs (w : Nat) : Nat := if w == 64 then 2 else 1
/-- How an immediate feeds a width. -/
def immFor (w : Nat) : ImmTy := if w == 64 then .s64 else .plain
/-- Width of the forms that have .32 and .64. -/
def width2 (sub : BitVec 2) : Nat := if sub.getLsbD 0 then 64 else 32

/-- The conditions of FCMP (09 R193) on two values; the second component is NV. -/
def floatCond (code : Nat) (a b : Val) : Bool × Bool :=
  let un := a.isNaN || b.isNaN
  let snan := a.isSNaN || b.isSNaN
  let lt := a.ltB b
  let eq := a.eqB b
  let gt := b.ltB a
  match code with
  | 0 => (eq, snan)
  | 1 => (lt || gt, snan)
  | 2 => (lt, un)
  | 3 => (lt || eq, un)
  | 4 => (gt, un)
  | 5 => (gt || eq, un)
  | 6 => (un || eq, snan)
  | 7 => (un || lt || gt, snan)
  | 8 => (un || lt, un)
  | 9 => (un || lt || eq, un)
  | 10 => (un || gt, un)
  | 11 => (un || gt || eq, un)
  | 12 => (!un, snan)
  | _ => (un, snan)

/-- NV of a signalling NaN among arithmetic operands (07 R143). -/
def snanFlag (l : List Val) : Flags := flagIf (l.any Val.isSNaN) fNV

end Sys2Proof.Machine
end

