-- ==== Sys2Proof/Machine/Cross.lean ====
section
/-! DEFINITION. Conversion (08 R173 to R175) and the cross-lane instructions (08 R176 to R182). -/

namespace Sys2Proof.Machine

/-! ### Conversion -/

/-- A type code of CVT (08 R173). -/
inductive CvtType where
  | flt (f : Fmt)
  | int (t : IFmt)
  | nf
  deriving DecidableEq, Repr

def cvtType (c : Nat) : CvtType :=
  match c with
  | 0 => .flt .f32
  | 1 => .flt .f16
  | 2 => .flt .bf16
  | 3 => .flt .f64
  | 4 => .int { w := 8, signed := true }
  | 5 => .int { w := 16, signed := true }
  | 6 => .int { w := 32, signed := true }
  | 7 => .int { w := 64, signed := true }
  | 8 => .int { w := 8, signed := false }
  | 9 => .int { w := 16, signed := false }
  | 10 => .int { w := 32, signed := false }
  | 11 => .int { w := 64, signed := false }
  | _ => .nf

def CvtType.wide : CvtType → Bool
  | .flt f => f.width == 64
  | .int t => t.w == 64
  | .nf => false

/-- The exact value of a source, and NV of a signalling NaN (08 R173, 07 R143). -/
def cvtSource (t : CvtType) (desc : NfDesc) (fzi : Bool) (raw : Nat) : Val × Flags :=
  match t with
  | .flt f =>
    let v := fdecode f (flushIn f fzi (raw % 2 ^ f.width))
    (v, flagIf v.isSNaN fNV)
  | .int t => (Val.ofInt (t.read raw), 0#8)
  | .nf => (nfDecode desc raw, 0#8)

/-- The code a destination gets, extended to its register or pair, and flags (08 R173). -/
def cvtDest (t : CvtType) (desc : NfDesc) (m : Rnd) (fzo : Bool) (v : Val) : Nat × Flags :=
  match t with
  | .flt f => flushOut f fzo (roundTo f m v)
  | .int t => let r := roundInt t m v; (wrap (if t.w == 64 then 64 else 32) r.1, r.2)
  | .nf => nfEncode desc v m

def cvtOp (h : Hdr) (f : VFields) (w : Wave) (_l : Nat) (ln : Lane) : LaneOut :=
  let src := cvtType (f.c.toNat % 16)
  let dst := cvtType (f.c.toNat / 16 % 16)
  let desc := nfDesc (srcB h f w ln 1 .plain)
  let raw := srcA h f w ln (if src.wide then 2 else 1) (if src == .flt .f64 then .f64 else if src.wide then .s64 else .plain)
  let (v, fl) := cvtSource src desc f.fzi raw
  let (c, fl') := cvtDest dst desc f.rnd f.fzo v
  outRegs f.d (if dst.wide then 2 else 1) c (fl ||| fl')

/-- The reason for which a narrow-format instruction traps at issue, over the participating lanes: an invalid descriptor (8),
then a block that breaks 02 R26 (7) (07 R146, 08 R174). -/
def State.nfReason (s : State) (h : Hdr) (f : VFields) (block : Nat → Bool) : Option Nat :=
  let w := s.curWave
  let descs := (lanesOf (s.part h)).map (fun l => nfDesc (srcB h f w (w.lane l) 1 .plain))
  if descs.any (fun d => !d.valid) then some 8
  else if descs.any (fun d => block (32 / d.n)) then some 7
  else none

/-- CVT (08 R173). -/
def execCvt (h : Hdr) (f : VFields) (s : State) : Res :=
  let nf := f.c.toNat % 16 == 12 || f.c.toNat / 16 % 16 == 12
  match if nf then s.nfReason h f (fun _ => false) else none with
  | some r => .next (s.illegal h (.cvt h f) r)
  | none => .next (s.vecFixed h (cvtOp h f))

/-- PACK.NF's lane (08 R174). -/
def packNf (h : Hdr) (f : VFields) (w : Wave) (_l : Nat) (ln : Lane) : LaneOut :=
  let d := nfDesc (srcB h f w ln 1 .plain)
  let codes := (List.range (32 / d.n)).map (fun j =>
    let v := fdecode .f32 (flushIn .f32 f.fzi (ln.vr (f.a.toNat + j)))
    let r := nfEncode d v f.rnd
    (r.1 * 2 ^ (j * d.n), r.2 ||| flagIf v.isSNaN fNV))
  outRegs f.d 1 (codes.foldl (fun a c => a + c.1) 0) (codes.foldl (fun a c => a ||| c.2) 0)

/-- PACK.INT's lane (08 R174). -/
def packInt (f : VFields) (ln : Lane) : LaneOut :=
  let t : IFmt := { w := 2 ^ (f.c.toNat % 8), signed := f.c.getLsbD 3 }
  let fields := (List.range (32 / t.w)).map (fun j =>
    let x := toSigned 32 (ln.vr (f.a.toNat + j))
    let clamped := f.sat && !t.has x
    (wrap t.w (if clamped then t.clamp x else x) * 2 ^ (j * t.w), flagIf clamped fSATD))
  outRegs f.d 1 (fields.foldl (fun a c => a + c.1) 0) (fields.foldl (fun a c => a ||| c.2) 0)

/-- PACK (08 R174). -/
def execPack (h : Hdr) (f : VFields) (s : State) : Res :=
  if f.sub == 0#2 then
    match s.nfReason h f (fun k => s.badBlock f.a.toNat k) with
    | some r => .next (s.illegal h (.pack h f) r)
    | none => .next (s.vecFixed h (packNf h f))
  else .next (s.vecFixed h (fun _ _ ln => packInt f ln))

/-- UNPACK.NF's lane (08 R174). -/
def unpackNf (h : Hdr) (f : VFields) (w : Wave) (_l : Nat) (ln : Lane) : LaneOut :=
  let d := nfDesc (srcB h f w ln 1 .plain)
  let rs := (List.range (32 / d.n)).map (fun j =>
    let r := flushOut .f32 f.fzo (roundTo .f32 f.rnd (nfDecode d (ln.vr f.a.toNat / 2 ^ (j * d.n))))
    (f.d.toNat + j, r.1, r.2))
  { regs := rs.map (fun r => (r.1, r.2.1)), preds := [], flags := rs.foldl (fun a r => a ||| r.2.2) 0 }

/-- UNPACK.INT's lane (08 R174). -/
def unpackInt (f : VFields) (ln : Lane) : LaneOut :=
  let t : IFmt := { w := 2 ^ (f.c.toNat % 8), signed := f.c.getLsbD 3 }
  { regs := (List.range (32 / t.w)).map (fun j => (f.d.toNat + j, wrap 32 (t.read (ln.vr f.a.toNat / 2 ^ (j * t.w))))),
    preds := [], flags := 0 }

/-- UNPACK (08 R174). -/
def execUnpack (h : Hdr) (f : VFields) (s : State) : Res :=
  if f.sub == 0#2 then
    match s.nfReason h f (fun k => s.badBlock f.d.toNat k) with
    | some r => .next (s.illegal h (.unpack h f) r)
    | none => .next (s.vecFixed h (unpackNf h f))
  else .next (s.vecFixed h (fun _ _ ln => unpackInt f ln))

/-- The ternary digit of a sign (07 R149). -/
def triDigit (x : Int) : Nat := if x == 0 then 0 else if x > 0 then 1 else 2

/-- TRIPACK's lane (08 R175). -/
def tripackOp (f : VFields) (_w : Wave) (_l : Nat) (ln : Lane) : LaneOut :=
  let x (i : Nat) : Int := toSigned 32 (ln.vr (f.a.toNat + i))
  let byte (m : Nat) : Nat := (List.range 5).foldl (fun a j => a + triDigit (x (5 * m + j)) * 3 ^ j) 0
  outRegs f.d 1 ((List.range 4).foldl (fun a m => a + byte m * 256 ^ m) 0)
    (flagIf ((List.range 20).any (fun i => decide ((x i).natAbs > 1))) fSATD)

/-- TRIPACK (08 R175). -/
def execTripack (h : Hdr) (f : VFields) (s : State) : Res := .next (s.vecFixed h (tripackOp f))

/-- TRIUNPK's lane (08 R175). -/
def triunpkOp (f : VFields) (_w : Wave) (_l : Nat) (ln : Lane) : LaneOut :=
  let bytes := (List.range 4).map (fun m => triDecode (ln.vr f.a.toNat / 256 ^ m % 256))
  let vals := bytes.flatMap (·.1)
  { regs := (List.range 20).map (fun i => (f.d.toNat + i, wrap 32 (vals.getD i 0))), preds := [],
    flags := flagIf (bytes.any (·.2)) fBADCODE }

/-- TRIUNPK (08 R175). -/
def execTriunpk (h : Hdr) (f : VFields) (s : State) : Res := .next (s.vecFixed h (triunpkOp f))

/-! ### Cross-lane -/

/-- The contributors of PQRY, WRED, WSCAN and LPEER: the issue set without helper lanes (08 R176). -/
def State.contributors (s : State) (h : Hdr) : BitVec 64 := s.part h &&& ~~~ s.curWave.helper

/-- The source lane of LXCH (08 R177). -/
def lxchSource (mode : BitVec 2) (l b : Nat) : Int :=
  if mode == 0#2 then b else if mode == 1#2 then (l : Int) - b else if mode == 2#2 then (l : Int) + b else ((l ^^^ b : Nat) : Int)

def lxchOp (h : Hdr) (f : VFields) (width : Nat) (part : BitVec 64) (w : Wave) (l : Nat) (ln : Lane) : LaneOut :=
  let src := lxchSource f.sub l (srcB h f w ln 1 .plain)
  if decide (0 ≤ src) && decide (src < width) && part.getLsbD src.toNat then outRegs f.d 1 ((w.lane src.toNat).vr f.a.toNat)
  else outRegs f.d 1 (srcC f ln 1)

/-- LXCH (08 R177). -/
def execLxch (h : Hdr) (f : VFields) (s : State) : Res := .next (s.vecFixed h (lxchOp h f s.curTeam.width (s.part h)))

/-- PQRY (08 R178). -/
def execPqry (h : Hdr) (f : VFields) (s : State) : Res :=
  let w := s.curWave
  let val (l : Nat) : Bool := (w.lane l).pred (f.a.toNat % 8) != f.a.getLsbD 3
  let c := lanesOf (s.contributors h)
  let p := f.d.toNat % 8
  let out : LaneOut :=
    if f.sub == 0#2 then outPred p (c.all val)
    else if f.sub == 1#2 then outPred p (c.any val)
    else if f.sub == 2#2 then outRegs f.d 2 (ofBits 64 (fun l => c.elem l && val l))
    else outPred p (c.all val || c.all (fun l => !val l))
  .next (s.vecFixed h (fun _ _ _ => out))

/-- Integer reductions by code: 0 add, 1 signed min, 2 signed max, 3 unsigned min, 7 unsigned max (08 R179). -/
def intReduce (code a b : Nat) : Nat :=
  let lt := decide (toSigned 32 a < toSigned 32 b)
  match code with
  | 0 => (a + b) % 2 ^ 32
  | 1 => if lt then a else b
  | 2 => if lt then b else a
  | 3 => min a b
  | _ => max a b
def intIdentity (code : Nat) : Nat :=
  match code with
  | 0 => 0
  | 1 => 0x7FFFFFFF
  | 2 => 0x80000000
  | 3 => 0xFFFFFFFF
  | _ => 0

/-- minimumNumber or maximumNumber over codes, a NaN ignored unless all are NaN (08 R179). -/
def minMaxNum (f : Fmt) (mx : Bool) (a b : Nat) : Nat :=
  let x := fdecode f a
  let y := fdecode f b
  if x.isNaN then b else if y.isNaN then a
  else if x.ltZ y then (if mx then b else a) else (if mx then a else b)

/-- One level of the .FADD tree (08 R179). -/
def faddLevel (m : Rnd) (fzo : Bool) : List (Option Nat × Flags) → List (Option Nat × Flags)
  | (x, f) :: (y, g) :: r =>
    (match x, y with
      | some a, some b =>
        let v := Val.sum m [fdecode .f32 a, fdecode .f32 b]
        let c := flushOut .f32 fzo (roundTo .f32 m v.1)
        (some c.1, f ||| g ||| c.2 ||| flagIf v.2 fNV)
      | some a, none => (some a, f ||| g)
      | none, b => (b, f ||| g)) :: faddLevel m fzo r
  | l => l

/-- The reduction of WRED (08 R179). -/
def wredValue (f : VFields) (w : Wave) (c : List Nat) : Nat × Flags :=
  let v (l : Nat) : Nat := (w.lane l).vr f.a.toNat
  let snan := flagIf (c.any (fun l => (fdecode .f32 (flushIn .f32 f.fzi (v l))).isSNaN)) fNV
  if f.sub == 0#2 then
    let code := f.c.toNat % 8
    (c.foldl (fun a l => intReduce code a (v l)) (intIdentity code), 0)
  else if f.sub == 1#2 then
    let leaves : List (Option Nat × Flags) := (List.range 64).map (fun l => (if c.elem l then some (flushIn .f32 f.fzi (v l)) else none, 0#8))
    let top := (List.range 6).foldl (fun t _ => faddLevel f.rnd f.fzo t) leaves
    match top with
    | (some a, fl) :: _ =>
      let r := flushOut .f32 f.fzo (roundTo .f32 f.rnd (fdecode .f32 a))
      (r.1, fl ||| r.2 ||| snan)
    | _ => (0, 0)
  else if f.sub == 2#2 then
    if c.isEmpty then (0, 0)
    else
      let acc := c.foldl (fun a l => xaccAdd a (fdecode .f32 (flushIn .f32 f.fzi (v l)))) 0
      let r := xaccRound acc .f32 f.rnd f.fzo
      (r.1, r.2 ||| snan)
  else
    let r := c.foldl (fun a l => match a with
      | none => some (v l)
      | some x => some (minMaxNum .f32 (f.c.getLsbD 0) x (v l))) (none : Option Nat)
    match r with
    | none => (Fmt.f32.canonNaN, 0)
    | some x => (if (fdecode .f32 x).isNaN then Fmt.f32.canonNaN else x, snan)

/-- WRED (08 R179). -/
def execWred (h : Hdr) (f : VFields) (s : State) : Res :=
  let r := wredValue f s.curWave (lanesOf (s.contributors h))
  .next (s.vecFixed h (fun _ _ _ => outRegs f.d 1 r.1 r.2))

/-- WSCAN's lane (08 R180). -/
def wscanOp (f : VFields) (c : List Nat) (w : Wave) (l : Nat) (_ln : Lane) : LaneOut :=
  let code := f.c.toNat % 4
  let below := c.filter (fun k => if f.sub == 0#2 then decide (k ≤ l) else decide (k < l))
  outRegs f.d 1 (below.foldl (fun a k => intReduce code a ((w.lane k).vr f.a.toNat)) (intIdentity code))

/-- WSCAN (08 R180). -/
def execWscan (h : Hdr) (f : VFields) (s : State) : Res := .next (s.vecFixed h (wscanOp f (lanesOf (s.contributors h))))

/-- LPEER's lane (08 R181). -/
def lpeerOp (f : VFields) (c : List Nat) (w : Wave) (_l : Nat) (ln : Lane) : LaneOut :=
  let n := if f.sub == 1#2 then 2 else 1
  outRegs f.d 2 (ofBits 64 (fun k => c.elem k && (w.lane k).vblock f.a.toNat n == ln.vblock f.a.toNat n))

/-- LPEER (08 R181). -/
def execLpeer (h : Hdr) (f : VFields) (s : State) : Res := .next (s.vecFixed h (lpeerOp f (lanesOf (s.contributors h))))

/-- LREAD's lane (08 R182). -/
def lreadOp (h : Hdr) (f : VFields) (width : Nat) (w : Wave) (_l : Nat) (ln : Lane) : LaneOut :=
  let b := srcB h f w ln 1 .plain
  outRegs f.d 1 (if b < width then (w.lane b).vr f.a.toNat else 0)

/-- LREAD (08 R182). -/
def execLread (h : Hdr) (f : VFields) (s : State) : Res := .next (s.vecFixed h (lreadOp h f s.curTeam.width))

/-- LWRITE (08 R182): wave-wide; it writes the lane it names, whether or not that lane is in the issue. -/
def execLwrite (h : Hdr) (f : VFields) (s : State) : Res :=
  let w := s.curWave
  let a := srcA h f w Lane.reset 1 .plain
  let b := srcB h f w Lane.reset 1 .plain
  if s.part h == 0 || b ≥ s.curTeam.width then .next (s.finish h)
  else .next ((s.updCur (fun w => w.updLanes (1#64 <<< b) (fun _ ln => ln.setV f.d.toNat a))).finish h)

end Sys2Proof.Machine
end

