-- ==== Sys2Proof/Machine/Ord.lean ====
section
/-! DEFINITION. Ordered sections: ORDSEQ, ORDIN, ORDOUT (16 R342 to R349), stall detection (16 R354) and the Rowan commands
(16 R353). -/

namespace Sys2Proof.Machine

/-- The key that an ordered-section instruction names for a lane (16 R342). -/
def ordKey (f : VFields) (w : Wave) (ln : Lane) : Word := BitVec.ofNat 64 (readSrc f.ka f.a w ln 2 .plain 0)

/-- The lanes that an ordered-section instruction acts for: participating lanes that are not helper lanes (16 R343). -/
def State.ordLanes (s : State) (h : Hdr) : BitVec 64 := s.part h &&& ~~~ s.curWave.helper

/-- KEYZERO in a lane (16 R343). -/
def keyZeroTrap (k : Word) : Option TrapInfo := if keyZero k then some (orderTrap 1 k 0) else none

/-- NESTING (16 R347, R359). -/
def Lane.nesting (ln : Lane) (k : Word) : Option TrapInfo :=
  let n := ln.heldKeys.length
  let cls := b2n ln.held1.isSome
  if n == 2 || (n == 1 && decide (cls ≥ keyClass k)) then some (orderTrap 2 k (cls + 2 * n)) else none

/-- Traps of their own in some lanes; the other lanes of the issue move on (16 R352, 18 R382, R383). -/
def State.failLanes (s : State) (h : Hdr) (fails : List (Nat × TrapInfo)) : State :=
  if fails.isEmpty then s.finish h
  else
    let m := maskOf (fun l => fails.any (fun p => p.1 == l))
    let s : State := (s.updCur (fun w => w.goto (s.cur.mask &&& ~~~ m) (s.nextPc h))).moved h
    s.raiseEach s.curRef (fun l => (fails.find? (fun p => p.1 == l)).map (·.2))

/-! ### ORDSEQ -/

/-- A lane's answer in one number: the number it obtained, or the ORDER reason of its failure; and back. -/
def ordAnswer (l : Nat) : Except Nat (BitVec 32) → Nat
  | .ok n => l + 1024 * n.toNat
  | .error r => l + 64 * r
def answerLane (x : Nat) : Nat := x % 64
def answerReason (x : Nat) : Nat := x / 64 % 16
def answerNumber (x : Nat) : BitVec 32 := BitVec.ofNat 32 (x / 1024)

/-- One lane's fetch-and-increment of ALLOC: the number, or the reason of its failure (16 R344). -/
def State.ordTake (s : State) (l : Nat) (k : Word) : Except Nat (BitVec 32) × State :=
  match s.rowanEntry s.curAsn false k with
  | (.error r, s) => (.error r, s)
  | (.ok e, s) =>
    let s : State := s.rowanPut { e with alloc := e.alloc + 1 }
    (.ok e.alloc, s.updCur (fun w => w.updLanes (1#64 <<< l) (fun _ ln => { ln with pend := some (k, e.alloc) })))

/-- The lanes that name one key obtain their numbers at its slice, in lane order and at one instant (16 R344). -/
def State.ordTakeKey (s : State) (k : Word) (ls : List Nat) : List Nat × State :=
  ls.foldl (fun (acc : List Nat × State) l =>
    let q := acc.2.ordTake l k
    (acc.1 ++ [ordAnswer l q.1], q.2)) (([] : List Nat), s)

/-- The least of some keys. -/
def leastKey (ks : List Word) : Option Word := ks.foldl (fun a k => match a with
  | none => some k
  | some b => if k.toNat < b.toNat then some k else some b) none

/-- Every lane has its answer: the numbers are results, helper lanes receive 0, failed lanes trap (16 R343, R344, R352). -/
def State.ordseqEnd (s : State) (h : Hdr) (f : VFields) (xs : List Nat) : State :=
  let w := s.curWave
  let put (l : Nat) (v : Reg) : RegWrite := { scalar := false, lane := l, reg := f.d.toNat, val := v }
  let wins := (xs.filter (fun x => answerReason x == 0)).map (fun x => put (answerLane x) (answerNumber x))
  let fails := (xs.filter (fun x => answerReason x != 0)).map (fun x =>
    (answerLane x, rowanTrap s.curAsn (answerReason x) (ordKey f w (w.lane (answerLane x)))))
  (s.addOut (Out.ofWrites s.cur.pc (wins ++ (lanesOf (s.part h &&& w.helper)).map (fun l => put l 0)) 0)).failLanes h fails

/-- One step of an ORDSEQ: the lanes of the least key that has not answered yet; each slice decides the order on its own keys (16 R344). -/
def State.ordseqStep (s : State) (h : Hdr) (f : VFields) : State :=
  let w := s.curWave
  let act := lanesOf (s.ordLanes h)
  let done := if s.begun then (w.prog.map (·.data)).getD [] else []
  let rest := act.filter (fun l => !done.any (fun x => answerLane x == l))
  match leastKey (rest.map (fun l => ordKey f w (w.lane l))) with
  | none => s.ordseqEnd h f done
  | some k =>
    let q := s.ordTakeKey k (rest.filter (fun l => ordKey f w (w.lane l) == k))
    let xs := done ++ q.1
    if xs.length == act.length then (q.2.updCur (fun w => { w with prog := none })).ordseqEnd h f xs
    else q.2.begin (.ordseq h f) h (s.part h) [] xs

/-- ORDSEQ (16 R343, R344). -/
def execOrdseq (h : Hdr) (f : VFields) (s : State) : Res :=
  let w := s.curWave
  if s.part h == 0 then .next (s.finish h)
  else
    match (lanesOf (s.ordLanes h)).findSome? (fun l => keyZeroTrap (ordKey f w (w.lane l))) with
    | some t => .next (s.trap h t)
    | none => .next (s.always.ordseqStep h f)

/-! ### ORDIN -/

/-- A lane asks for admission: admitted at once, recorded as a waiter, or failed (16 R345). -/
def State.ordRequest (s : State) (l : Nat) (a : Await) : Option TrapInfo × State :=
  match s.rowanEntry s.curAsn false a.key with
  | (.error r, s) => (some (rowanTrap s.curAsn r a.key), s)
  | (.ok e, s) =>
    let me : Waiter := { team := s.cur.team, wave := s.cur.wave, lane := l }
    if !e.held && e.next == a.number then (none, (s.rowanPut { e with held := true }).letIn me a)
    else
      let s : State := s.rowanPut { e with waiters := e.waiters ++ [me] }
      (none, s.updCur (fun w =>
        (w.updLanes a.group (fun _ ln => { ln with wait := .ordin })).updLanes (1#64 <<< l) (fun _ ln => { ln with await := some a })))

/-- The requests of some lanes, in lane order; those admitted at once move on with this issue; failed lanes trap, and no lane that waits
for one of them moves (16 R345, R346, R352). -/
def State.ordRequests (s : State) (h : Hdr) (wide : Bool) (act : List Nat) (key : Nat → Word) (num : Nat → BitVec 32) : State :=
  let am := maskOf (fun l => act.elem l)
  let s : State := (s.updCur (fun w => if wide then w else w.goto (s.cur.mask &&& ~~~ am) (s.nextPc h))).moved h
  let r := act.foldl (fun (acc : List (Nat × TrapInfo) × State) l =>
    let a : Await :=
      { key := key l, number := num l, space := false, len := hdrLen h, group := if wide then s.cur.mask else 1#64 <<< l }
    match acc.2.ordRequest l a with
    | (none, s) => (acc.1, s)
    | (some t, s) => (acc.1 ++ [(l, t)], s)) (([] : List (Nat × TrapInfo)), s)
  let s : State := r.2.updCur Wave.enter
  if r.1.isEmpty then s else s.raiseEach s.curRef (fun l => (r.1.find? (fun p => p.1 == l)).map (·.2))

/-- ORDIN (16 R343, R345 to R347): an acquire, which waits for the earlier reads of its lanes (R349). -/
def execOrdin (h : Hdr) (f : VFields) (s : State) : Res :=
  let w := s.curWave
  let wide := f.ka == .sca && f.kb != .vec
  let act := if wide then (lanesOf (s.ordLanes h)).take 1 else lanesOf (s.ordLanes h)
  let key (l : Nat) : Word := ordKey f w (w.lane l)
  if act.isEmpty then .next (s.finish h)
  else
    match (act.findSome? (fun l => keyZeroTrap (key l))).or (act.findSome? (fun l => (w.lane l).nesting (key l))) with
    | some t => .next (s.trap h t)
    | none =>
      .next (s.always.afterReads (.ordin h f) (maskOf (fun l => act.elem l)) (fun s =>
        s.ordRequests h wide act key (fun l => BitVec.ofNat 32 (srcB h f s.curWave (s.curWave.lane l) 1 .plain))))

/-! ### ORDOUT -/

/-- The release of a lane's key, outstanding as a store is (16 R348, R349). -/
def ordoutAcc (l : Nat) (k : Word) : Acc :=
  { lane := l, kind := .ordout, side := some 0, va := 0, pa := 0, len := 0, mtype := .homeonly, scope := 5, ord := 2, ch := 0, data := k.toNat,
    state := .todo, result := 0 }

/-- ORDOUT (16 R343, R348, R349): its lanes hold their keys no longer and move on; their releases, which come after their earlier
accesses, are outstanding. -/
def execOrdout (h : Hdr) (f : VFields) (s : State) : Res :=
  let w := s.curWave
  let cand := lanesOf (s.ordLanes h)
  let key (l : Nat) : Word := ordKey f w (w.lane l)
  let act := if f.ka == .sca then (cand.filter (fun l => (w.lane l).holds (key l))).take 1 else cand
  if cand.isEmpty then .next (s.finish h)
  else
    let lost : Option TrapInfo :=
      if f.ka == .sca then (if act.isEmpty then (cand.head?).map (fun l => orderTrap 3 (key l) 0) else none)
      else (act.find? (fun l => !(w.lane l).holds (key l))).map (fun l => orderTrap 3 (key l) 0)
    match (cand.findSome? (fun l => keyZeroTrap (key l))).or lost with
    | some t => .next (s.trap h t)
    | none =>
      let bad (l : Nat) : Bool := (s.rowanFind s.curAsn false (key l)).1 == .badImage
      let good := act.filter (fun l => !bad l)
      let s : State := s.updCur (fun w => w.updLanes (maskOf (fun l => good.elem l)) (fun l ln => ln.drop (key l)))
      let s : State := if good.isEmpty then s else s.addOut (Out.ofAccs s.cur.pc false .none (good.map (fun l => ordoutAcc l (key l))))
      .next (s.failLanes h ((act.filter bad).map (fun l => (l, rowanTrap s.curAsn 7 (key l)))))

/-! ### Stall detection -/

/-- The timeout of a key, in microseconds; 0: no detection (16 R353); a key of SPACE 1 has class 0 (11 R245). -/
def State.ordTimeout (s : State) (key : Word) (space : Bool) : Nat := if key.getLsbD 63 && !space then bits s.regs.ordcfg.toNat 63 32 else bits s.regs.ordcfg.toNat 31 0

/-- Whether a key of SPACE 0 stalls (16 R354). -/
def State.stalled (s : State) (e : Rowan) : Bool :=
  let d := (e.alloc - e.next).toNat
  if d == 0 || decide (d ≥ 2 ^ 31) then true
  else s.teams.any (fun t => (s.block t.launch).asn == e.asn.toNat && t.waves.any (fun w => (List.range w.lanes.length).any (fun l =>
    (w.lane l).live && (w.lane l).pend == some (e.key, e.next) &&
    (match w.awaits l with
      | some a => decide (keyClass a.key ≤ keyClass e.key)
      | none => false))))

/-- Whether a wave waits in BLEND for admission: no lane of it that still runs can go on, nor could when last tried (11 R245). -/
def Wave.inBlend (w : Wave) : Bool :=
  match w.prog with
  | some p => p.begun && (match p.instr with | .blend _ _ => true | _ => false) && w.blocked && w.performed (fun _ => true) &&
      (p.lanes.filter MacLane.running).all (fun m => ((w.lane m.lane).await.map (·.space)).getD false)
  | none => false

/-- Whether a wave can bring nothing more to BLEND (16 R354): it waits in BLEND for admission, or every entry of its frontier is blocked,
and it is not parked. -/
def Wave.stuck (w : Wave) : Bool :=
  w.park == .none && (!w.runEnd || w.quiet) && w.calls.isEmpty && w.lanes.all (fun ln => ln.ptrap.isNone) && (w.inBlend || w.allBlocked)

/-- The number that a waiter waits with. -/
def State.numberOf (s : State) (x : Waiter) : Option (BitVec 32) :=
  ((s.wave? { team := x.team, wave := x.wave }).bind (fun w => (w.lane x.lane).await)).map (·.number)

/-- Whether a key of SPACE 1 stalls (16 R354): no waiter has brought NEXT, and the launches that hold waiters can bring it no more. -/
def State.blendStalled (s : State) (e : Rowan) : Bool :=
  let ids := dedup (e.waiters.map (fun w => ((s.team? w.team).getD Team.reset).launch))
  e.waiters.all (fun x => s.numberOf x != some e.next) &&
  ids.all (fun id => match s.launch? id with
    | none => true
    | some l => l.unplaced.isEmpty && l.returned.isEmpty && l.burrow.isEmpty && s.images.all (fun i => i.launch != id)) &&
  s.teams.all (fun t => !ids.elem t.launch || t.waves.all (fun w => w.ended || w.stuck))

/-- Lanes of a wave that wait on a stalled key trap where they wait (16 R354): the macro lanes of BLEND, or ORDIN's groups together. -/
def State.stallWave (s : State) (r : WaveRef) (space : Bool) (ls : List Nat) (t : TrapInfo) : State :=
  match s.wave? r with
  | none => s
  | some w =>
    let ls := ls.filter (fun l => (w.lane l).await.isSome)
    if space then s.updWave r (fun w => { w with
      prog := w.prog.map (fun p => { p with lanes := p.lanes.map (fun m => if ls.elem m.lane then { m with trap := some t } else m) })
      lanes := mapFrom (fun l ln => if ls.elem l then { ln with await := none, wait := .none } else ln) 0 w.lanes })
    else
      let m := ls.foldl (fun (a : BitVec 64) l => a ||| (((w.lane l).await.map (fun x => x.group)).getD 0)) 0
      s.raiseEach r (fun l => if m.getLsbD l && (w.lane l).wait == .ordin then some t else none)

/-- The waiters of a key trap STALL, wave by wave (16 R354). -/
def State.stall (s : State) (e : Rowan) : State :=
  let t := orderTrap 5 e.key e.next.toNat
  let ws := e.waiters
  let refs : List WaveRef := dedup (ws.map (fun x => { team := x.team, wave := x.wave }))
  refs.foldl (fun s r => s.stallWave r e.space ((ws.filter (fun x => x.team == r.team && x.wave == r.wave)).map (fun x => x.lane)) t)
    (s.rowanPut { e with waiters := [], extra := 0, mask := 0 })

/-- ORD_STALL_TIMEOUT (16 R354): the timer of a key reaches its timeout. -/
def execOrdStallTimeout (asn : BitVec 12) (key : Word) (space : Bool) (s : State) : Res :=
  match s.rowanFind asn space key with
  | (.badImage, _) => .next s
  | (.none, _) => .next s
  | (.entry e, s) =>
    if e.held || e.nwait == 0 || s.ordTimeout key space == 0 then .next s
    else if (if space then s.blendStalled e else s.stalled e) then .next (s.stall e)
    else .next s

/-- ORDQCMD OP 1 (16 R353). -/
def execOrdqQuery (value : Word) (s : State) : Res :=
  .next (s.regWrite64 0x5020 (value &&& 0x1FFF ||| 0x10000))
/-- ORDQCMD OP 2 (16 R353). -/
def execOrdqPurge (value : Word) (s : State) : Res :=
  .next (s.regWrite64 0x5020 (value &&& 0x1FFF ||| 0x20000))

end Sys2Proof.Machine
end

