-- ==== Sys2Proof/Machine/Copy.lean ====
section
/-! DEFINITION. The copy engine: COPY, COPYM, HALO (05 R93 to R103), GATHV (05 R104), the tag instructions (05 R105 to R107), the
pre-pass and the delivery of a command's bytes (05 R96, R97). -/

namespace Sys2Proof.Machine

/-! ### Sides of a command -/

/-- One side of a command at issue: the COPY reason it fails with (0: none), its space and the origin of its offsets (05 R95). -/
structure SideAt where
  code : Nat
  space : Space
  origin : Nat
  deriving DecidableEq, Repr

/-- Check one side (05 R95, R111): `v` is the scalar pair, `lo` and `hi` the lowest and the highest byte relative to it, `any` whether
the command moves bytes. -/
def State.copySide (s : State) (code v : Nat) (lo hi : Int) (any : Bool) : SideAt :=
  let t := s.curTeam
  let own := t.sideOf s.curWave.core
  let off : Nat := v % 2 ^ 32
  let high := v / 2 ^ 32
  let out (n : Nat) : Bool := any && (decide ((off : Int) + lo < 0) || decide ((off : Int) + hi ≥ (n : Int)))
  match code with
  | 0 => { code := 0, space := .glob, origin := v }
  | 1 => { code := if high != 0 || out t.alloc then 2 else 0, space := .scratch own, origin := off }
  | 2 => { code := if high != 0 || out t.alloc then 2 else if !t.pair then 3 else 0, space := .scratch (1 - own), origin := off }
  | _ =>
    let slot := high % 16
    match (t.side own).panel? slot with
    | none => { code := if high ≥ 16 then 2 else 4, space := .obuf own slot, origin := off }
    | some p => { code := if high ≥ 16 || out p.extent then 2 else 0, space := .obuf own slot, origin := p.base + off }

/-- A global range that is not canonical from end to end (05 R95, 04 R76). -/
def rangeBad (sp : Space) (origin : Nat) (lo hi : Int) (any : Bool) : Bool :=
  sp == .glob && any && !(vaOk (origin + lo) && vaOk (origin + hi) && bit (wrap 64 (origin + lo)) 55 == bit (wrap 64 (origin + hi)) 55)

/-- The issue failure of a command, source side first within one reason (05 R111). -/
def copyFail (tag shape : Nat) (sides : List (SideAt × Nat × Int × Int)) (teams any : Bool) : Option TrapInfo :=
  let codes := sides.map (fun q => (q.1.code, q.2.1))
  let has (c : Nat) : Option TrapInfo := (codes.find? (fun q => q.1 == c)).map (fun q => copyTrap c tag q.2)
  if shape != 0 then some (copyTrap 1 tag 0)
  else ((has 2).or ((has 3).or (has 4))).or
    (if teams then some (copyTrap 5 tag 0)
     else (sides.find? (fun q => rangeBad q.1.space q.1.origin q.2.2.1 q.2.2.2 any)).map (fun q =>
       mkTrapA .protect pNONCANON (wrap 64 (q.1.origin + q.2.2.1))))

/-! ### Acceptance -/

/-- Commands that a core's engine has accepted at most (05 R93). -/
def engineCmds : Nat := 64

/-- The pages of a byte range, as one interval of an access kind (05 R96). -/
def pageSpan (kind : Nat) (lo n : Nat) : List (Nat × Nat × Nat) := if n == 0 then [] else [(kind, pageOf lo, pageOf (lo + n - 1))]

/-- The physical ranges that a command reads, under translations of its pages: global source bytes and gather-list bytes (17 R365). -/
def Cmd.reads (c : Cmd) (xlat : Nat → Option Xlat) : List (Nat × Nat) :=
  let phys (a n : Nat) : List (Nat × Nat) :=
    if n == 0 then []
    else (List.range (pageOf (a + n - 1) - pageOf a + 1)).filterMap (fun j =>
      let lo := max a ((pageOf a + j) * 4096)
      let hi := min (a + n) ((pageOf a + j + 1) * 4096)
      (xlat lo).map (fun x => (x.pa, hi - lo)))
  (if c.src == .glob then c.pieces.flatMap (fun p => phys p.src p.len) else []) ++
    (match c.list with | some (a, n) => phys a (16 * n) | none => [])

/-- Enter what a command reads into its team's recorded set. -/
def State.recordCmd (s : State) (c : Cmd) (xlat : Nat → Option Xlat) : State :=
  s.recordFor c.team ((c.reads xlat).filter (fun r => s.isDev r.1))

/-- The translation that memory gives an address now: a TLB's, else the page tables' (17 R365). -/
def State.xlatNow (s : State) (core : Nat) (asn : BitVec 12) (va : Nat) : Option Xlat :=
  match s.look [] core asn va with
  | .hit x => some x
  | _ => match s.walk asn va with
    | .ok e => some (e.at va)
    | _ => none

/-- The pieces of a gather list, once its bytes can be read; none: malformed (05 R99, R111). -/
def State.readList (s : State) (core : Nat) (c : Cmd) (a n : Nat) : Option (List (Nat × Nat)) :=
  let rd (x : Nat) : Nat := leNat (s.cmdRead core { c with src := .glob } x 16)
  let es := (List.range n).map (fun k => rd (a + 16 * k))
  if a % 16 != 0 || es.any (fun x => bits x 127 96 != 0) || decide (es.foldl (fun t x => t + bits x 95 64) 0 ≥ 2 ^ 32) then none
  else some (es.map (fun x => (bits x 63 0, bits x 95 64)))

/-- The pieces of a list command, laid one after another at the destination (05 R99); none: one lies outside its space or is not canonical,
or the destination runs out of its space. Those cases, and a list address that is not 16-byte aligned, fail the tag with LIST, which the
spec leaves open (log entry 58, DESIGN CHOICE). -/
def State.listPieces (s : State) (c : Cmd) (es : List (Nat × Nat)) : Option (List Piece) :=
  let t := (s.team? c.team).getD Team.reset
  let limit (sp : Space) : Option (Nat × Nat) :=
    match sp with
    | .glob => none
    | .scratch _ => some (0, t.alloc)
    | .obuf k slot => match (t.side k).panel? slot with
      | some p => some (p.base, p.extent)
      | none => some (0, 0)
  let ps := es.foldl (fun (acc : List (Option Piece) × Nat) e =>
    let at' : Option Nat := match c.src with
      | .glob => if e.2 == 0 || (vaOk e.1 && vaOk (e.1 + e.2 - 1 : Nat)) then some e.1 else none
      | .scratch _ => if e.1 + e.2 ≤ t.alloc then some e.1 else none
      | .obuf k _ => match (t.side k).panel? (e.1 / 2 ^ 32 % 16) with
        | some p => if e.1 / 2 ^ 36 == 0 && e.1 % 2 ^ 32 + e.2 ≤ p.extent then some (p.base + e.1 % 2 ^ 32) else none
        | none => none
    (acc.1 ++ [at'.map (fun a => { src := a, dst := acc.2, len := e.2, recv := c.team, landed := [], absent := false })], acc.2 + e.2))
    (([] : List (Option Piece)), c.dstBase)
  let ok := match limit c.dst with
    | none => c.dstBase == ps.2 || (vaOk c.dstBase && vaOk (ps.2 - 1 : Nat))
    | some (lo, n) => decide (lo ≤ c.dstBase) && decide (ps.2 ≤ lo + n)
  if ok && ps.1.all (·.isSome) then some ((ps.1.filterMap id).filter (fun p => p.len != 0)) else none

/-- A list command with the pieces that its list names now, when it can be read (17 R365). -/
def State.withListed (s : State) (core : Nat) (c : Cmd) : Cmd :=
  match c.list with
  | none => c
  | some (a, n) =>
    if !c.pieces.isEmpty then c else
    let xl : List XEntry := (List.range (pageOf (a + 16 * n - 1) - pageOf a + 1)).filterMap (fun j =>
      (s.xlatNow core c.asn (4096 * (pageOf a + j))).map (fun x =>
        { asn := c.asn, page := pageOf a + j, fault := none, pa := x.pa, mtype := x.mtype, perms := x.perms, log2 := 12 }))
    match (s.readList core { c with xl := xl } a n).bind (s.listPieces c) with
    | some ps => { c with pieces := ps }
    | none => c

/-- Start moving: the reads, under the translations of the pre-pass, enter the trace, the bytes of absent receivers count as landed
(05 R97, R101, 17 R365). -/
def State.startCmd (s : State) (core : Nat) (c : Cmd) : State :=
  let s : State := s.recordCmd c c.xlat
  let lost := c.pieces.foldl (fun a p => if p.absent then a + p.len else a) 0
  let s : State := match c.sendTag with
    | some t => if lost == 0 then s else s.countTag c.team t lost
    | none => s
  (s.updCmd core c.id (fun c => { c with state := .moving })).settleCmd core c.id

/-- Accept a command, with its Holly entries by core; the entry is blocked while the engine or a table has no room (05 R93, R108).
A command of no bytes moves nothing (05 R99). -/
def State.accept (s : State) (h : Hdr) (c : Cmd) (empty : Bool) (es : List (Nat × Holly)) (k : State → State) : State :=
  let core := s.curWave.core
  if empty then (k s).finish h
  else if decide ((s.core core).cmds.length ≥ engineCmds) ||
      (dedup (es.map (·.1))).any (fun x => decide ((s.core x).hollyFree < (es.filter (fun e => e.1 == x)).length)) then s.blockIssue
  else
    let s : State := (dedup (es.map (·.1))).foldl (fun s x =>
      s.updCore x (fun q => { q with holly := hollyPut q.holly ((es.filter (fun e => e.1 == x)).map (·.2)) })) s
    let s : State := { s with uid := s.uid + 1 }
    let s : State := s.updCore core (fun q => { q with cmds := q.cmds ++ [c] })
    let s : State := s.recordCmd (s.withListed core c) (s.xlatNow core c.asn)
    let s : State := if c.pages.isEmpty && c.list.isNone then s.startCmd core c else s
    (k s).finish h

/-- The command that an instruction of the current issue would make. -/
def State.newCmd (s : State) (opc tag : Nat) (send : Option Nat) (src dst : Space) (pieces : List Piece) (pages : List (Nat × Nat × Nat)) : Cmd :=
  { id := s.uid, team := s.cur.team, launch := s.curTeam.launch, asn := s.curAsn, opc := opc, tag := tag, sendTag := send, src := src, dst := dst,
    list := none, dstBase := 0, pieces := pieces, state := .prepass, pages := pages, xl := [], toks := [], part := s.curWave.part, slot := s.curWave.slot }

/-- A Holly entry of a command about to be accepted. -/
def State.newHolly (s : State) (owner : Nat) (sp : Space) (lo n tag : Nat) (source : Bool) : Holly :=
  { cmd := s.uid, team := owner, space := sp, lo := lo, hi := lo + n, tag := tag, source := source, recv := owner }

/-- The core of a space of the issuing team: the partner core for the other side's scratch. -/
def State.spaceCore (s : State) (sp : Space) : Nat :=
  match sp with
  | .scratch k => s.curTeam.core + k
  | _ => s.curWave.core

/-! ### COPY -/

/-- Rows, planes and strides of COPY (05 R99, R100): row bytes, rows, planes, source strides, destination strides. -/
structure Shape where
  row : Nat
  rows : Nat
  planes : Nat
  srcRow : Int
  srcPlane : Int
  dstRow : Int
  dstPlane : Int
  deriving DecidableEq, Repr

def Shape.total (p : Shape) : Nat := p.row * p.rows * p.planes
/-- The relative offsets of every row, source and destination. -/
def Shape.offsets (p : Shape) : List (Int × Int) :=
  (List.range p.planes).flatMap (fun (k : Nat) => (List.range p.rows).map (fun (i : Nat) =>
    ((i : Int) * p.srcRow + (k : Int) * p.srcPlane, (i : Int) * p.dstRow + (k : Int) * p.dstPlane)))
/-- The least and the greatest of the four corner offsets, the latter with the row's last byte. -/
def Shape.span (p : Shape) (r k : Int) : Int × Int :=
  let i : Int := ((p.rows - 1 : Nat) : Int) * r
  let j : Int := ((p.planes - 1 : Nat) : Int) * k
  (min 0 i + min 0 j, max 0 i + max 0 j + ((p.row : Nat) : Int) - 1)

/-- The shape of a COPY from sE to sE+3; `global`: the source is global (05 R99). -/
def copyShape (sub : Nat) (global : Bool) (e0 e1 e2 e3 : Nat) : Shape :=
  match sub with
  | 0 => { row := e0, rows := 1, planes := 1, srcRow := 0, srcPlane := 0, dstRow := 0, dstPlane := 0 }
  | 1 => { row := e0, rows := e1, planes := 1, srcRow := toSigned 32 e2, srcPlane := 0, dstRow := toSigned 32 e3, dstPlane := 0 }
  | _ =>
    let dense : Int × Int := (e0, (e0 * (e1 % 65536) : Nat))
    let strided : Int × Int := (toSigned 32 e2, toSigned 32 e3)
    let sr := if global then strided else dense
    let dr := if global then dense else strided
    { row := e0, rows := e1 % 65536, planes := e1 / 65536, srcRow := sr.1, srcPlane := sr.2, dstRow := dr.1, dstPlane := dr.2 }

/-- The Holly entries of a one-team command: destination, and a source that is not global (05 R108). -/
def State.copyHolly (s : State) (tag : Nat) (src dst : Space) (slo sn dlo dn : Nat) : List (Nat × Holly) :=
  let me := s.cur.team
  (s.spaceCore dst, s.newHolly me dst dlo dn tag false) ::
    (if src == .glob then [] else [(s.spaceCore src, s.newHolly me src slo sn tag true)])

/-- COPY.LIST: the list is read by the pre-pass (05 R96, R99), so at issue the checks are those of the list's own range and of the place
where the destination begins; what the list names is checked when it is read. -/
def State.copyList (s : State) (h : Hdr) (f : CFields) (w : Wave) : State :=
  let e (k : Nat) : Nat := w.sr (f.e.toNat + k)
  let tag := f.tag.toNat
  let listAt := w.spair f.a.toNat
  let n := e 0
  let dst := s.copySide (f.mode.toNat % 4) (w.spair f.b.toNat) 0 0 (n != 0)
  let src := s.copySide (f.mode.toNat / 4) 0 0 0 false
  let vb := w.spair f.b.toNat
  let shape := if e 1 != 0 || e 2 != 0 || e 3 != 0 || n > 4096 then 1 else 0
  let srcFail : SideAt := { src with code := if src.code == 3 then 3 else 0, space := .glob, origin := listAt }
  match copyFail tag shape [(srcFail, listAt, 0, 16 * (n : Int) - 1), (dst, vb, 0, 0)] false (n != 0) with
  | some t => s.trap h t
  | none =>
    let c : Cmd := { s.newCmd 0xB0 tag none src.space dst.space [] (pageSpan 4 listAt (16 * n)) with list := some (listAt, n), dstBase := dst.origin }
    s.accept h c (n == 0) (s.copyHolly tag src.space dst.space 0 0 0 0) id

/-- COPY (05 R99, R100). -/
def execCopy (h : Hdr) (f : CFields) (s : State) : Res :=
  let i := Instr.copy h f
  match s.actor h with
  | none => .next (s.finish h)
  | some l => .next (s.afterUpdates i l (fun s =>
    let w := s.curWave
    if f.sub == 3 then s.copyList h f w
    else
      let e (k : Nat) : Nat := w.sr (f.e.toNat + k)
      let tag := f.tag.toNat
      let sm := f.mode.toNat / 4
      let p := copyShape f.sub.toNat (sm == 0) (e 0) (e 1) (e 2) (e 3)
      let any := p.total != 0
      let va := w.spair f.a.toNat
      let vb := w.spair f.b.toNat
      let ss := p.span p.srcRow p.srcPlane
      let ds := p.span p.dstRow p.dstPlane
      let src := s.copySide sm va ss.1 ss.2 any
      let dst := s.copySide (f.mode.toNat % 4) vb ds.1 ds.2 any
      let shape := if (f.sub == 0 && (e 1 != 0 || e 2 != 0 || e 3 != 0)) || decide (p.total ≥ 2 ^ 32) then 1 else 0
      match copyFail tag shape [(src, va, ss.1, ss.2), (dst, vb, ds.1, ds.2)] false any with
      | some t => s.trap h t
      | none =>
        let at' (o : Nat) (x : Int) : Nat := (((o : Nat) : Int) + x).toNat
        let pieces : List Piece := if !any then [] else p.offsets.map (fun q =>
          { src := at' src.origin q.1, dst := at' dst.origin q.2, len := p.row, recv := s.cur.team, landed := [], absent := false })
        let slo := at' src.origin ss.1
        let dlo := at' dst.origin ds.1
        let sn := (ss.2 - ss.1 + 1).toNat
        let dn := (ds.2 - ds.1 + 1).toNat
        let pages := (if src.space == .glob then pageSpan 4 slo sn else []) ++ (if dst.space == .glob then pageSpan 5 dlo dn else [])
        s.accept h (s.newCmd 0xB0 tag none src.space dst.space pieces pages) (!any) (s.copyHolly tag src.space dst.space slo sn dlo dn) id))

/-! ### COPYM and HALO -/

/-- A receiver of the launch by rank: its identity, whether it can receive, the core of the same side if it is resident and no save of
it has begun (05 R113, R114). -/
structure Receiver where
  uid : Nat
  absent : Bool
  core : Option Nat
  deriving DecidableEq, Repr

def State.receiver (s : State) (launch rank side : Nat) : Receiver :=
  match s.teams.find? (fun t => t.launch == launch && t.rank == rank && !t.formed) with
  | some t => if t.liveWaves == 0 then { uid := t.uid, absent := true, core := none }
    else { uid := t.uid, absent := false, core := if t.phase.isSaving then none else some (t.core + side) }
  | none =>
    match s.images.find? (fun i => i.launch == launch && i.rank == rank) with
    | some i => { uid := i.team, absent := false, core := none }
    | none => { uid := 0, absent := true, core := none }

/-- What a saved receiver takes of a sender's dependences, in its image: ESCAPE, and its record merged (05 R115, 17 R366, 18 R397). -/
def State.mergeImage (s : State) (me : Team) (i : Image) : State :=
  let r := readTeamRecord (2 ^ 32) (s.homeRead (i.base + 0x600) 512)
  let own := match r with
    | some (_, runs) => runs.flatMap (fun q => (List.range q.2).map (fun j => q.1 + j))
    | none => []
  let s : State := s.homeWrite (i.base + 0x00C) 4 (s.homeRead (i.base + 0x00C) 4 ||| 2) 0 []
  s.homeWrite (i.base + 0x600) 512 (teamRecord true ((r.map (·.1)).getD true || me.always) (own ++ me.recorded)) 0 []

/-- The escape of issuer and receivers, and the merging of recorded sets (05 R115, 17 R366, 18 R391). -/
def State.carry (s : State) (rs : List Receiver) : State :=
  let me := s.curTeam
  let s : State := (s.images.filter (fun i => rs.any (fun r => !r.absent && r.uid == i.team))).foldl (fun s i => s.mergeImage me i) s
  { s with teams := s.teams.map (fun t =>
      if t.uid == me.uid then { t with escape := true }
      else if rs.any (fun r => !r.absent && r.uid == t.uid) then
        { t with escape := true, recorded := dedup (t.recorded ++ me.recorded), always := t.always || me.always }
      else t) }

/-- The kernel's PROG class is concurrent (15 R323). -/
def Block.concurrent (b : Block) : Bool := b.prog == 0

/-- COPYM (05 R101). "More than 2^32 − 1 bytes" of 05 R111 counts the bytes to all receivers (log entry 58, DESIGN CHOICE). -/
def execCopym (h : Hdr) (f : CFields) (s : State) : Res :=
  let i := Instr.copym h f
  match s.actor h with
  | none => .next (s.finish h)
  | some l => .next (s.afterUpdates i l (fun s =>
    let w := s.curWave
    let t := s.curTeam
    let b := s.curBlock
    let e (k : Nat) : Nat := w.sr (f.e.toNat + k)
    let tag := f.tag.toNat
    let two := f.sub == 1
    let row := if two then e 0 % 65536 else e 0
    let rows := if two then e 0 / 65536 else 1
    let p : Shape := { row := row, rows := rows, planes := 1, srcRow := if two then toSigned 32 (e 1) else 0, srcPlane := 0, dstRow := (row : Nat), dstPlane := 0 }
    let ranks := (maskList 16 (e 3)).map (fun i => e 2 + i)
    let total := p.total * ranks.length
    let any := p.total != 0
    let va := w.spair f.a.toNat
    let vb := w.spair f.b.toNat
    let ss := p.span p.srcRow 0
    let src := s.copySide (f.mode.toNat / 4) va ss.1 ss.2 any
    let dst := s.copySide 1 vb 0 ((p.total : Nat) - 1) any
    let side := t.sideOf w.core
    let rs := ranks.map (fun r => s.receiver t.launch r side)
    let away := rs.any (fun r => match r.core with | some c => dieOf c != dieOf w.core | none => false)
    let shape := if (!two && e 1 != 0) || e 3 ≥ 65536 || decide (total ≥ 2 ^ 32) then 1 else 0
    let teams := !b.concurrent || ranks.any (fun r => decide (r ≥ b.grid)) || away
    match copyFail tag shape [(src, va, ss.1, ss.2), (dst, vb, 0, (p.total : Nat) - 1)] teams any with
    | some x => s.trap h x
    | none =>
      let at' (o : Nat) (x : Int) : Nat := (((o : Nat) : Int) + x).toNat
      let pieces : List Piece := if !any then [] else rs.flatMap (fun r => p.offsets.map (fun q =>
        { src := at' src.origin q.1, dst := at' dst.origin q.2, len := p.row, recv := r.uid, landed := [], absent := r.absent }))
      let sn := (ss.2 - ss.1 + 1).toNat
      let slo := at' src.origin ss.1
      let dests : List (Nat × Holly) := rs.filterMap (fun r => r.core.map (fun c => (c, s.newHolly r.uid dst.space dst.origin p.total tag false)))
      let es := dests ++ [(s.spaceCore src.space, s.newHolly s.cur.team src.space slo sn tag true)]
      s.accept h (s.newCmd 0xB1 tag (some (f.d.toNat % 64)) src.space dst.space pieces (if src.space == .glob then pageSpan 4 slo sn else []))
        (!any || ranks.isEmpty) es (fun s => s.carry (if any then rs else []))))

/-- Indices sent and written along one axis, and their number (05 R102). -/
def haloAxis (d : Int) (extent apron : Nat) : Nat × Nat × Nat :=
  if d > 0 then (extent, 0, apron) else if d < 0 then (apron, extent + apron, apron) else (apron, apron, extent)

/-- The neighbours of HALO: N4 or N8 (05 R102). -/
def haloOffsets (diagonals : Bool) : List (Int × Int) :=
  [(-1, -1), (0, -1), (1, -1), (-1, 0), (1, 0), (-1, 1), (0, 1), (1, 1)].filter (fun d => diagonals || d.1 == 0 || d.2 == 0)

/-- HALO (05 R102, R103). -/
def execHalo (h : Hdr) (f : CFields) (s : State) : Res :=
  let i := Instr.halo h f
  match s.actor h with
  | none => .next (s.finish h)
  | some l => .next (s.afterUpdates i l (fun s =>
    let w := s.curWave
    let t := s.curTeam
    let b := s.curBlock
    let e (k : Nat) : Nat := w.sr (f.e.toNat + k)
    let tag := f.tag.toNat
    let side := t.sideOf w.core
    let wd := e 0 % 65536
    let ht := e 0 / 65536
    let eb := e 1 % 256
    let ap := bits (e 1) 15 8
    let st := e 2
    let va := w.spair f.a.toNat
    let size := (ht + 2 * ap - 1) * st + (wd + 2 * ap) * eb
    let limits := 1 ≤ wd && wd ≤ 4096 && 1 ≤ ht && ht ≤ 4096 && [1, 2, 4, 8, 16].elem eb && 1 ≤ ap && ap ≤ 15 && ap ≤ wd && ap ≤ ht &&
      e 1 / 65536 == 0 && (wd + 2 * ap) * eb ≤ st && e 3 == 0
    let src := s.copySide 1 va 0 ((size : Int) - 1) true
    match copyFail tag (if limits then 0 else 1) [(src, va, 0, 0)] (!b.concurrent || b.gz != 1) true with
    | some x => s.trap h x
    | none =>
      let off := src.origin
      let near := (haloOffsets (f.sub == 1)).filter (fun d =>
        decide (0 ≤ (t.x : Int) + d.1) && decide ((t.x : Int) + d.1 < b.gx) && decide (0 ≤ (t.y : Int) + d.2) && decide ((t.y : Int) + d.2 < b.gy))
      let blocks := near.map (fun d =>
        let cx := haloAxis d.1 wd ap
        let cy := haloAxis d.2 ht ap
        let r := s.receiver t.launch (((t.x : Int) + d.1).toNat + b.gx * ((t.y : Int) + d.2).toNat) side
        let ps : List Piece := (List.range cy.2.2).map (fun j =>
          { src := off + (cy.1 + j) * st + cx.1 * eb, dst := off + (cy.2.1 + j) * st + cx.2.1 * eb, len := cx.2.2 * eb, recv := r.uid,
            landed := [], absent := r.absent })
        let lo := off + cy.2.1 * st + cx.2.1 * eb
        (r, ps, lo, (cy.2.2 - 1) * st + cx.2.2 * eb))
      let pieces := blocks.flatMap (·.2.1)
      let own : Nat × Holly := (w.core, s.newHolly s.cur.team (.scratch side) (off + ap * st + ap * eb) ((ht - 1) * st + wd * eb) tag true)
      let dests : List (Nat × Holly) := blocks.filterMap (fun q => q.1.core.map (fun c => (c, s.newHolly q.1.uid (.scratch side) q.2.2.1 q.2.2.2 tag false)))
      s.accept h (s.newCmd 0xB2 tag (some (f.d.toNat % 64)) (.scratch side) (.scratch side) pieces []) pieces.isEmpty (own :: dests)
        (fun s => s.carry (blocks.map (·.1)))))

/-! ### GATHV -/

/-- GATHV (05 R104). -/
def execGathv (h : Hdr) (f : CFields) (s : State) : Res :=
  let i := Instr.gathv h f
  let w := s.curWave
  let m := s.part h &&& ~~~ w.helper
  let n := w.sr f.e.toNat
  let tag := f.tag.toNat
  if m == 0 then .next (s.finish h)
  else if !([4, 8, 16, 32, 64].elem n) || (List.range 3).any (fun k => w.sr (f.e.toNat + 1 + k) != 0) || s.badBlock f.d.toNat (n / 4) then
    .next (s.trap h (copyTrap 1 tag 0))
  else
    let base : Int := w.spair f.a.toNat
    let reqs : List Req := (lanesOf m).flatMap (fun l => (List.range (n / 4)).map (fun (k : Nat) =>
      { lane := l, va := base + ((w.lane l).vr f.b.toNat : Nat) + 4 * (k : Int) }))
    match s.memCheck i h (s.part h) reqs 2 Need.read 0 (fun t => t != .io) (fun _ va => copyTrap 7 tag va) with
    | .stop s => .next s
    | .ok s xs =>
      match xs.findSome? (fun x => s.badWord s.curWave.core (x.mtype == .cached) x.pa 4) with
      | some (st, ix) => .next (s.hwerr h st ix)
      | none =>
        let accs : List Acc := (reqs.zip xs).zipIdx.map (fun q =>
          { lane := q.1.1.lane, kind := .load, side := none, va := q.1.1.va.toNat, pa := q.1.2.pa, len := 4, mtype := q.1.2.mtype, scope := 0,
            ord := 0, ch := 0, data := f.d.toNat + q.2 % (n / 4), state := .todo, result := 0, log2 := q.1.2.log2 })
        .next ((s.record ((xs.filter (fun x => s.isDev x.pa)).map (fun x => (x.pa, 4)))).issueAccs h true (.gath tag) accs)

/-! ### Tags -/

/-- TAGARM (05 R106). -/
def execTagarm (h : Hdr) (f : CFields) (s : State) : Res :=
  match s.actor h with
  | none => .next (s.finish h)
  | some _ =>
    let e := BitVec.ofNat 32 (s.curWave.sr f.a.toNat)
    .next ((s.updCurTeam (fun t => t.updTag f.tag.toNat (fun g => ({ g with armed := true, e := e } : Tag).check))).finish h)

/-- TAGCLR (05 R106). -/
def execTagclr (h : Hdr) (f : CFields) (s : State) : Res :=
  match s.actor h with
  | none => .next (s.finish h)
  | some _ =>
    let m := s.curWave.spair f.a.toNat
    .next ((s.updCurTeam (fun t => { t with tags := mapFrom (fun k g => if bit m k then Tag.reset else g) 0 t.tags })).finish h)

/-- The failed tag of a mask: its trap, told to wave `id` (05 R106, R111). -/
def Team.failedTag (t : Team) (m id : Nat) : Option (Nat × TrapInfo) :=
  ((List.range 64).find? (fun k => bit m k && (t.tag k).failed)).map (fun k =>
    let g := t.tag k
    let told := g.reason / 16
    (k, copyTrap (if told == 0 || told == id + 1 then g.reason % 16 else 9) k 0))
/-- The reason of a failed tag has been told to wave `id`. -/
def Tag.tell (g : Tag) (id : Nat) : Tag := if g.reason / 16 == 0 then { g with reason := g.reason + 16 * (id + 1) } else g

/-- TAGFF (05 R106, R107). -/
def execTagff (h : Hdr) (f : CFields) (s : State) : Res :=
  match s.actor h with
  | none => .next (s.finish h)
  | some _ =>
    let w := s.curWave
    let t := s.curTeam
    let m := w.spair f.a.toNat
    match t.failedTag m w.id with
    | some (k, x) => .next ((s.updCurTeam (fun t => t.updTag k (fun g => g.tell w.id))).trap h x)
    | none =>
      match (List.range 64).find? (fun k => bit m k && (t.tag k).ready) with
      | none => .next ((s.updCur (fun w => w.setS f.d.toNat 64)).finish h)
      | some k => .next (((s.acquirePart w.core t.pair 2).updCur (fun w => w.setS f.d.toNat k)).finish h)

/-- Whether a TAGWAIT completes (05 R106). -/
def Team.tagsReady (t : Team) (any : Bool) (m : Nat) : Bool :=
  m == 0 || (if any then (List.range 64).any (fun k => bit m k && (t.tag k).ready)
             else (List.range 64).all (fun k => !bit m k || (t.tag k).ready))

/-- A parked TAGWAIT is checked again: it traps, completes as an acquire at TEAM scope, or stays (05 R106, R107). -/
def State.tagwaitCheck (s : State) (r : WaveRef) : State :=
  match s.team? r.team, s.wave? r with
  | some t, some w =>
    match w.park with
    | .tagwait any tags mask part =>
      if w.stop then s
      else match t.failedTag tags.toNat w.id with
        | some (k, x) =>
          let s : State := s.updTeam r.team (fun t => t.updTag k (fun g => g.tell w.id))
          let pc := (w.lane ((lowestLane part).getD 0)).pc
          (s.updWave r (fun w => { w.goto (mask &&& ~~~ part) (pc + 8) with park := .none })).raiseAt r part pc x
        | none =>
          if t.tagsReady any tags.toNat then
            (s.updWave r (fun w => { w.updLanes mask (fun _ ln => { ln with pc := ln.pc + 8 }) with park := .none })).acquirePart w.core t.pair 2
          else s
    | _ => s
  | _, _ => s

/-- TAGWAIT (05 R106). -/
def execTagwait (h : Hdr) (f : CFields) (s : State) : Res :=
  match s.actor h with
  | none => .next ((s.finish h).endRun)
  | some _ =>
    let m := s.curWave.spair f.a.toNat
    .next ((((s.moved h).endRun).updCur (fun w => { w with
      park := .tagwait (f.sub == 1) (BitVec.ofNat 64 m) s.cur.mask (s.part h) })).tagwaitCheck s.curRef)

/-! ### The pre-pass -/

/-- What the pre-pass knows while it goes through a command's pages: the state, the command, the faults found, whether a page's walk is
still awaited, and the reason with which the command fails. -/
structure Pass where
  s : State
  c : Cmd
  faults : List (Nat × Nat × Nat × Nat)
  wait : Bool
  fail : Option Nat
  bad : Option Nat

/-- One page: a translation is kept; a missing permission or a forbidden type fails the command; a fault is noted; a miss is queued and
awaited (05 R96, 04 R84). -/
def Pass.page (p : Pass) (core kind page : Nat) : Pass :=
  if p.fail.isSome || p.wait || p.bad.isSome || decide (p.faults.length ≥ 4) || p.faults.any (fun f => f.2.1 == page) then p
  else
    let known := p.c.xl.any (fun e => e.page == page)
    let q := p.s.unitXlate (.cmd core p.c.id) p.c.xl core p.c.asn (4096 * page)
    match q.1 with
    | .hit x =>
      let need := if kind == 5 then Need.write else Need.read
      if (need.fails (fun t => t != .io) x).isSome then { p with s := q.2, fail := some 7 }
      else
        let e : XEntry := { asn := p.c.asn, page := page, fault := none, pa := x.pa - 4096 * page % 2 ^ x.log2, mtype := x.mtype, perms := x.perms, log2 := x.log2 }
        { p with s := q.2, c := if known then p.c else { p.c with xl := p.c.xl ++ [e] } }
    | .fault r l => { p with s := q.2, faults := p.faults ++ [(kind, page, r, l)] }
    | .miss => { p with s := q.2, wait := true }
    | .bad w => { p with s := q.2, bad := some w }

/-- The pages of one interval. -/
def Pass.span (p : Pass) (core : Nat) (g : Nat × Nat × Nat) : Pass :=
  (List.range (g.2.2 + 1 - g.2.1)).foldl (fun (p : Pass) j => p.page core g.1 (g.2.1 + j)) p

/-- W1 of a command's records: its team's rank, its core, and the partition and slot of its issuing wave; no WAVE_ID (18 R388). -/
def State.cmdW1 (s : State) (core : Nat) (c : Cmd) : Word :=
  BitVec.ofNat 64 (((s.team? c.team).getD Team.reset).rank * 2 ^ 32 + core * 2 ^ 24 + c.part * 2 ^ 19 + c.slot * 2 ^ 16)

/-- The first address of a page, canonical (04 R76). -/
def pageVa (page : Nat) : Word := (BitVec.ofNat 56 (4096 * page)).signExtend 64

/-- Write the records of a command's faults; the command waits for the host (05 R96, 18 R388). The address that a record carries is that of
its page's first byte, which the spec leaves open (log entry 58, DESIGN CHOICE). -/
def State.cmdFaults (s : State) (core : Nat) (c : Cmd) (fs : List (Nat × Nat × Nat × Nat)) : State :=
  let s : State := s.updCmd core c.id (fun c => { c with state := .waitHost, xl := c.xl.filter (fun e => e.fault.isNone) })
  fs.foldl (fun s f =>
    let q := s.takeToken
    let va := pageVa f.2.1
    let s : State := q.2.pushRecord 1 (faultRecord q.1 2 f.2.2.1 f.2.2.2 f.1 c.launch (s.cmdW1 core c) va c.asn.toNat 0 TrapInfo.none c.tag)
    s.updCmd core c.id (fun c => { c with toks := c.toks ++ [{ token := q.1, outcome := 0, reason := f.2.2.1, level := f.2.2.2, kind := f.1, va := va }] })) s

/-- A command meets an uncorrectable word: a record of kind HWERR, and the command fails with reason 8; the spec names no reason for it
(log entry 58, DESIGN CHOICE). -/
def State.cmdHwerr (s : State) (core : Nat) (c : Cmd) (store index : Nat) : State :=
  (s.pushRecord 1 (faultRecord 0 4 0 0 0 c.launch (s.cmdW1 core c) 0 c.asn.toNat 0 (hwerrTrap store index) 0)).failCmd core c 8

/-- Give the Holly entries of a list command the ranges that its list names. -/
def State.boundHolly (s : State) (id : Nat) (ps : List Piece) : State :=
  let slo := ps.foldl (fun a p => min a p.src) (2 ^ 64)
  let shi := ps.foldl (fun a p => max a (p.src + p.len)) 0
  let dlo := ps.foldl (fun a p => min a p.dst) (2 ^ 64)
  let dhi := ps.foldl (fun a p => max a (p.dst + p.len)) 0
  { s with cores := s.cores.map (fun k => { k with holly := k.holly.map (fun e => match e with
      | some x => if x.cmd == id then some (if x.source then { x with lo := slo, hi := shi } else { x with lo := dlo, hi := dhi }) else some x
      | none => none) }) }

/-- COPY_PREPASS (05 R96): translate what a command names, read its gather list, then let its bytes move. -/
def execCopyPrepass (core cmd : Nat) (s : State) : Res :=
  match (s.core core).cmd? cmd with
  | none => .next s
  | some c =>
    if c.state != .prepass then .next s
    else
      let p : Pass := c.pages.foldl (fun (p : Pass) g => p.span core g) { s := s, c := c, faults := [], wait := false, fail := none, bad := none }
      let s : State := p.s.updCmd core cmd (fun _ => p.c)
      match p.fail, p.bad with
      | some r, _ => .next (s.failCmd core p.c r)
      | none, some w => .next (s.cmdHwerr core p.c 6 w)
      | none, none =>
      if p.wait then .next s
      else if !p.faults.isEmpty then .next (s.cmdFaults core p.c p.faults)
      else
        match c.list with
        | none => .next (s.startCmd core p.c)
        | some (a, n) =>
          if !p.c.pieces.isEmpty then .next (s.startCmd core p.c)
          else
            match s.cmdBad core { p.c with src := .glob } a (16 * n), (s.readList core p.c a n).bind (s.listPieces p.c) with
            | some (st, ix), _ => .next (s.cmdHwerr core p.c st ix)
            | none, none => .next (s.failCmd core p.c 6)
            | none, some ps =>
              let before (a b : Nat × Nat × Nat) : Bool := decide (a.2.1 < b.2.1)
              let spans := (if c.src == .glob then sortBy before (ps.flatMap (fun q => pageSpan 4 q.src q.len)) else []) ++
                (if c.dst == .glob then ps.flatMap (fun q => pageSpan 5 q.dst q.len) else [])
              let c' : Cmd := { p.c with pieces := ps, pages := c.pages ++ spans }
              let s : State := (s.updCmd core cmd (fun _ => c')).boundHolly cmd ps
              if spans.isEmpty || ps.isEmpty then .next (s.startCmd core c') else .next s

/-- The requests of `n` bytes of a command from virtual address `a`: one for each line (19 R398). -/
def Cmd.requests (c : Cmd) (sp : Space) (a n : Nat) (writes : Bool) : List Request :=
  if sp != .glob || n == 0 then []
  else (List.range ((a + n - 1) / 256 - a / 256 + 1)).filterMap (fun j =>
    let lo := max a (256 * (a / 256 + j))
    (c.xlat lo).map (fun x => (x.pa, min (a + n) (256 * (a / 256 + j + 1)) - lo, writes)))

/-- COPY_DELIVER (05 R93, R97): `n` bytes of a piece land from offset `off`, in whole aligned 4-byte units. Its requests wait for their
budgets (19 R399), for lines that a BANKCFG writes back (06 R118) and for the lock of the host window (04 R91). A command that meets an uncorrectable source
word fails with ABORTED, be bytes of it landed or not (log entry 58, DESIGN CHOICE). -/
def execCopyDeliver (core cmd piece off n : Nat) (s : State) : Res :=
  match (s.core core).cmd? cmd with
  | none => .next s
  | some c =>
    match c.pieces[piece]? with
    | none => .next s
    | some p =>
      let whole := (off == 0 || (p.dst + off) % 4 == 0) && (off + n == p.len || (p.dst + off + n) % 4 == 0)
      let parts := (piece, off, n) :: c.beside piece off n
      let reqs := parts.flatMap (fun x => match c.pieces[x.1]? with
        | some p => c.requests c.src (p.src + x.2.1) x.2.2 false ++ c.requests c.dst (p.dst + x.2.1) x.2.2 true
        | none => [])
      let lines := reqs.map (fun x => lineOf x.1)
      let inDrain (x : CLine) : Bool := lines.elem x.line && (s.core core).draining.any (fun d => d.lines.any (fun y => y.line == x.line))
      if c.state != .moving || p.absent || n == 0 || off + n > p.len || !p.fresh off n || !whole ||
        (s.hostLocked && reqs.any (fun x => s.region x.1 == .host)) then .next s
      else if s.dirtyIn core inDrain then .next (s.cleanSome core inDrain)
      else
        let g := s.grant core c.paid reqs
        if !reqs.all (fun x => g.1.elem x) then .next (g.2.updCmd core cmd (fun c => { c with paid := g.1 }))
        else
          let s : State := g.2.updCmd core cmd (fun c => { c with paid := g.1.filter (fun x => !reqs.elem x) })
          match parts.findSome? (fun x => (c.pieces[x.1]?).bind (fun p => s.cmdBad core c (p.src + x.2.1) x.2.2)) with
          | some (st, ix) => .next (s.cmdHwerr core c st ix)
          | none => .next (parts.foldl (fun s x => s.deliverBytes core c x.1 x.2.1 x.2.2) s)

end Sys2Proof.Machine
end

