-- ==== Sys2Proof/Machine/Engine.lean ====
section
/-! DEFINITION. The matrix engine of a core: its queue (10 R211), the operands that an operation reads, the products and sums of an
MMA (10 R208, R213, R215), conversions of DRAIN (10 R221), and the operations themselves. -/

namespace Sys2Proof.Machine

/-- A MATRIX trap: reason, and the slot or tile concerned (10 R224). -/
def matrixTrap (reason which : Nat) : TrapInfo := mkTrap .matrix (reason + which % 16 * 16) 0 0

/-- The side of its team on which the current wave runs. -/
def State.curSide (s : State) : Nat := s.curTeam.sideOf s.curWave.core
def State.updSideOf (s : State) (uid k : Nat) (f : Side → Side) : State := s.updTeam uid (fun t => t.updSide k f)

/-! ### Uncorrectable words (18 R380) -/

def State.badAcc (s : State) (uid side n cnt : Nat) : Option Nat :=
  s.poisonRegs.findSome? (fun p => match p with
    | .acc u k t w => if u == uid && k == side && decide (n ≤ t) && decide (t < n + cnt) then some (4096 * t + w) else none
    | _ => none)
/-- Tile positions written whole lose their poison. -/
def State.clearAcc (s : State) (uid side n cnt : Nat) : State :=
  { s with poisonRegs := s.poisonRegs.filter (fun p => match p with
    | .acc u k t _ => !(u == uid && k == side && decide (n ≤ t) && decide (t < n + cnt))
    | _ => true) }

/-- Positions of a tile. -/
def tileSpan (ty : Nat) : Nat := if ty == 2 then 8 else 1

/-- A record of kind HWERR for what no wave reads: an element update, an image from a peer (18 R380). -/
def State.engineRecord (s : State) (launch store index : Nat) : State :=
  s.pushRecord 1 (faultRecord 0 4 0 0 0 launch 0 0 (s.block launch).asn 0 (hwerrTrap store index) 0)

/-! ### The queue (10 R211) -/

def engineDepth : Nat := 16
def State.engineFull (s : State) : Bool := decide ((s.core s.curWave.core).engine.length ≥ engineDepth)

/-- Queue an operation of the current issue. -/
def State.enqueue (s : State) (i : Instr) (m : BitVec 64) (out : Nat) (rows : List (Nat × Nat)) (panels : List Nat) : State :=
  let op : EngineOp := { team := s.cur.team, wave := s.cur.wave, out := out, instr := i, pc := s.cur.pc, mask := m,
                         helper := s.curWave.helper, rows := rows, panels := panels, xl := [] }
  s.updCore s.curWave.core (fun c => { c with engine := c.engine ++ [op] })

/-- Queue an operation whose completion is outstanding; its out is ready when the engine has done it (02 R34). -/
def State.engineIssue (s : State) (h : Hdr) (i : Instr) (m : BitVec 64) (fin : Fin) (accs : List Acc) (rows : List (Nat × Nat))
    (panels : List Nat) : State :=
  let o : Out := { id := 0, pc := s.cur.pc, vlr := true, ready := false, fin := fin, accs := accs, writes := [], flags := 0 }
  let id := s.uid
  ((s.enqueue i m id rows panels).addOut o).finish h

/-! ### Elements, products and sums -/

/-- The areas as the engine reads them: each 4-byte unit that `old` lists, with the value of one of those that they have held since the issue
(10 R215). -/
def mixUnits (now : Nat) (held : List Nat) (n : Nat) (old : List (Nat × Nat)) : Nat :=
  if old.isEmpty then now
  else leNat ((leBytes n now).zipIdx.map (fun q => match old.find? (fun x => x.1 == q.2 / 4) with
    | some x => BitVec.ofNat 8 (held.getD x.2 now / 256 ^ q.2)
    | none => q.1))

/-- One element of a row or column, scaled: value and whether it is invalid (10 R215). -/
def Panel.scaled (p : Panel) (x : Val × Bool) (scales k : Nat) : Val × Bool :=
  let y := x.1.mul (p.scaleAt scales (k / p.blen))
  (y.1, x.2 || y.2)

/-- The elements of a B column with its scales. -/
def Panel.bColumn (p : Panel) (fzi : Bool) (areas n : Nat) : List (Val × Bool) × Bool :=
  let c := p.storedColumn fzi (areas % 256 ^ p.bytes) n
  if p.blk == 0 then c
  else
    let row := areas / 256 ^ (p.scoff - p.base + n * p.scaleRow) % 256 ^ p.scaleRow
    (c.1.zipIdx.map (fun q => p.scaled q.1 row q.2), c.2)

/-- The bitmap of B column `n`. -/
def Panel.bBits (p : Panel) (areas n : Nat) : Nat := areas / 256 ^ (p.spoff - p.base + 8 * n) % 2 ^ 64

/-- The elements of an A row with its scales, from the registers read at issue; a helper lane's are zero (10 R208, R213, R215). -/
def Panel.aRow (p : Panel) (fzi sparse helper : Bool) (regs : Nat) : List (Val × Bool) × Bool :=
  let c : List (Val × Bool) × Bool :=
    if helper then (List.replicate p.kext (Val.zero, false), false) else p.column fzi (regs % 2 ^ 512)
  if p.asc then (c.1.zipIdx.map (fun q => p.scaled q.1 (regs / 2 ^ (512 + if sparse then 64 else 0)) q.2), c.2) else c

/-- The products of a row and a column; a masked one is +0 (10 R215). -/
def Panel.products (p : Panel) (a b : List (Val × Bool)) (mask : Option Nat) : List (Val × Bool) :=
  (a.zip b).zipIdx.map (fun q =>
    match mask with
    | some m => if bit m (q.2 / p.grain) then
        let y := q.1.1.1.mul q.1.2.1
        (y.1, y.2 || q.1.1.2 || q.1.2.2)
      else (Val.zero, false)
    | none =>
      let y := q.1.1.1.mul q.1.2.1
      (y.1, y.2 || q.1.1.2 || q.1.2.2))

/-- The groups of eight in order (07 R156). -/
def groups8 (l : List (Val × Bool)) : List (List (Val × Bool)) :=
  (List.range (l.length / 8)).map (fun g => (l.drop (8 * g)).take 8)

/-- One accumulator element after an MMA: its bits and flags (10 R215). -/
def accumulate (ty : Nat) (fzo sat : Bool) (acc : Nat) (prods : List (Val × Bool)) : Nat × Flags :=
  let nv := flagIf (prods.any (·.2)) fNV
  match ty with
  | 0 =>
    let r := (groups8 prods).foldl (fun (x : Nat × Flags) g => let y := f32Group x.1 fzo g; (y.1, x.2 ||| y.2)) (acc, nv)
    r
  | 1 =>
    let x : Int := prods.foldl (fun a q => a + q.1.snum) (toSigned 32 acc)
    let y := intResult { w := 32, signed := true } sat x
    (y.1, y.2 ||| nv)
  | _ => (prods.foldl (fun a q => xaccAdd a q.1) acc, nv)

/-- The value and flags of one element that DRAIN converts (10 R221): tile type, output type code, mode, FZO, SAT, descriptor. A
signalling NaN of the tile sets no NV: 07 R143 does not list DRAIN (log entry 59, DESIGN CHOICE). -/
def drainElem (ty out : Nat) (m : Rnd) (fzo sat : Bool) (desc x : Nat) : Nat × Flags :=
  let float (f : Fmt) : Nat × Flags :=
    let y := if ty == 2 then xaccRound x f m fzo
      else if ty == 1 then roundTo f m (.ofInt (toSigned 32 x))
      else flushOut f fzo (roundTo f m (fdecode .f32 x))
    (if sat then satClamp f y.1 else y.1, y.2)
  let int (w : Nat) (signed : Bool) : Nat × Flags :=
    let t : IFmt := { w := w, signed := signed }
    let y := if ty == 2 then xaccRoundInt x t m else roundInt t m (.ofInt (toSigned 32 x))
    (wrap w y.1, y.2)
  match out with
  | 0 => float .f32
  | 1 => float .f16
  | 2 => float .bf16
  | 4 => int 8 true
  | 5 => int 16 true
  | 6 => int 32 true
  | 8 => int 8 false
  | 9 => int 16 false
  | 10 => int 32 false
  | _ =>
    let d := nfDesc desc
    if ty == 2 then xaccRoundNf x d m
    else nfEncode d (if ty == 1 then .ofInt (toSigned 32 x) else fdecode .f32 x) m

/-- Bytes of a DRAIN output type; 0: no output type (10 R220, R221). -/
def drainBytes (out : Nat) : Nat :=
  match out with
  | 0 => 4 | 1 => 2 | 2 => 2 | 4 => 1 | 5 => 2 | 6 => 4 | 8 => 1 | 9 => 2 | 10 => 4 | 12 => 1
  | _ => 0

/-! ### The operations -/

/-- An engine operation has done its work: its out holds these writes and flags (02 R34). -/
def State.engineDone (s : State) (op : EngineOp) (ws : List RegWrite) (fl : Flags) : State :=
  s.updWave { team := op.team, wave := op.wave } (fun w => { w with
    outs := w.outs.map (fun o => if o.id == op.out then { o with ready := true, writes := ws, flags := fl } else o) })

/-- Flags reach MSTAT (10 R218). -/
def State.orMstat (s : State) (uid side : Nat) (fl : Flags) : State :=
  s.updSideOf uid side (fun d => { d with mstat := d.mstat ||| fl.setWidth 32 })

/-- MMA in the engine (10 R213, R215). -/
def State.runMma (s : State) (op : EngineOp) (f : VFields) (side : Nat) (old : List (Nat × Nat)) : State :=
  match (s.team? op.team).map (fun t => t.side side) with
  | none => s
  | some d =>
    let slot := f.b.toNat % 16
    match d.panel? slot with
    | none => s.engineDone op [] 0
    | some p =>
      let sparse := f.sub.getLsbD 0
      let ty := if f.sub.getLsbD 1 then 2 else p.tileType
      let n := f.d.toNat % 16
      let areas := mixUnits (d.areas p) op.panels p.extent old
      let cols := (List.range 64).map (fun j => (p.bColumn f.fzi areas j, p.bBits areas j))
      let bad0 := cols.any (fun c => c.1.2)
      let r := op.rows.foldl (fun (acc : Side × Flags) q =>
        let a := p.aRow f.fzi sparse (op.helper.getLsbD q.1) q.2
        let abits := q.2 / 2 ^ 512 % 2 ^ 64
        let row := (((acc.1.tileRow n ty q.1).zip cols).map (fun e =>
          accumulate ty f.fzo f.sat e.1 (p.products a.1 e.2.1.1 (if sparse then some (abits &&& e.2.2) else none))))
        (acc.1.putRow n ty q.1 (row.map (·.1)), row.foldl (fun fl e => fl ||| e.2) (acc.2 ||| flagIf a.2 fBADCODE))) (d, flagIf bad0 fBADCODE)
      let s : State := s.updSideOf op.team side (fun _ => r.1)
      (s.orMstat op.team side r.2).engineDone op [] 0

/-- ACCRD in the engine (10 R219). -/
def State.runAccrd (s : State) (op : EngineOp) (f : VFields) (ty side : Nat) : State :=
  match (s.team? op.team).map (fun t => t.side side) with
  | none => s
  | some d =>
    let g := f.b.toNat % 4
    let rows := (lanesOf op.mask).map (fun l =>
      (l, (((d.tileRow (f.a.toNat % 16) ty l).drop (16 * g)).take 16).map (fun v => if ty == 2 then xaccRound v .f32 f.rnd f.fzo else (v, (0 : Flags)))))
    let ws : List RegWrite := rows.flatMap (fun r => r.2.zipIdx.map (fun q =>
      { scalar := false, lane := r.1, reg := f.d.toNat + q.2, val := BitVec.ofNat 32 q.1.1 }))
    s.engineDone op ws (rows.foldl (fun fl r => r.2.foldl (fun fl q => fl ||| q.2) fl) 0)

/-- DRAIN.REG in the engine (10 R221). The op's rows hold the tile type, the conversion word and the descriptor. -/
def State.runDrainReg (s : State) (op : EngineOp) (f : XFields) (ty cv desc side : Nat) : State :=
  match (s.team? op.team).map (fun t => t.side side) with
  | none => s
  | some d =>
    let out := cv % 16
    let b := drainBytes out
    let rows := (lanesOf op.mask).map (fun l =>
      (l, (d.tileRow (f.b.toNat % 16) ty l).map (drainElem ty out (rndOf (BitVec.ofNat 2 (bits cv 5 4))) (bit cv 6) (bit cv 7) desc)))
    let ws : List RegWrite := rows.flatMap (fun r =>
      let v := leNat (r.2.flatMap (fun e => leBytes b e.1))
      (List.range (16 * b)).map (fun k => { scalar := false, lane := r.1, reg := f.a.toNat + k, val := BitVec.ofNat 32 (v / 2 ^ (32 * k)) }))
    let win : RegWrite := { scalar := true, lane := 0, reg := f.w.toNat, val := 0x140 }
    (s.orMstat op.team side (rows.foldl (fun fl r => r.2.foldl (fun fl q => fl ||| q.2) fl) 0)).engineDone op (ws ++ [win]) 0

/-- The elements that an ACCLD has read, as the words of its tile (10 R210). -/
def State.runAccld (s : State) (op : EngineOp) (n ty side : Nat) : State :=
  let r : WaveRef := { team := op.team, wave := op.wave }
  match s.outIndex r op.out with
  | none => s
  | some k =>
    let cnt := ((((s.wave? r).bind (fun w => w.outs[k]?)).map (fun o => o.accs.length)).getD 0)
    let s : State := (List.range cnt).foldl (fun s j => s.doAcc r k j) s
    match (s.wave? r).bind (fun w => w.outs[k]?) with
    | none => s.updCore ((s.wave? r).getD Wave.reset).core (fun c => { c with engine := c.engine.filter (fun e => e.out != op.out) })
    | some o =>
      if o.id != op.out then s.updCore ((s.wave? r).getD Wave.reset).core (fun c => { c with engine := c.engine.filter (fun e => e.out != op.out) })
      else if o.accs.any (fun a => a.state != .done) then s
      else
        let words : Cells 32 := (joinAccs o.accs).zipIdx.flatMap (fun q => (List.range 64).filterMap (fun i =>
          let v := BitVec.ofNat 32 (q.1.result / 2 ^ (32 * i))
          if v == 0 then none else some (4096 * n + 64 * q.2 + i, v)))
        let s : State := s.updSideOf op.team side (fun d =>
          { d with acc := cellSplice d.acc (4096 * n) (4096 * (n + tileSpan ty)) words })
        let s : State := s.clearAcc op.team side n (tileSpan ty)
        let s : State := s.engineDone op [] 0
        s.updCore ((s.wave? r).getD Wave.reset).core (fun c => { c with engine := c.engine.drop 1 })

/-- The uncorrectable word that an operation would read when it starts (18 R380): of its panel areas and its tile. -/
def State.opBad (s : State) (op : EngineOp) (side : Nat) : Option (Nat × Nat) :=
  let acc (n ty : Nat) : Option (Nat × Nat) := (s.badAcc op.team side n (tileSpan ty)).map (fun x => (5, x))
  let ty := (op.rows.getD 0 (0, 0)).2
  match op.instr with
  | .mma _ f =>
    match ((s.team? op.team).getD Team.reset |>.side side).panel? (f.b.toNat % 16) with
    | none => none
    | some p => (s.badSide op.team side true p.base p.extent).or (acc (f.d.toNat % 16) (if f.sub.getLsbD 1 then 2 else p.tileType))
  | .accrd _ f => acc (f.a.toNat % 16) ty
  | .drain _ f => if f.sub == 3 then acc (f.b.toNat % 16) ty else none
  | _ => none

/-- ENGINE_OP_START (10 R211, R215): the head operation of a core's engine starts; `old`: of the 4-byte units of its panel areas that
it reads with an earlier value, which of those they have held since the issue. -/
def execEngineOpStart (core : Nat) (old : List (Nat × Nat)) (s : State) : Res :=
  match (s.core core).engine with
  | [] => .next s
  | op :: _ =>
    let side := ((s.team? op.team).map (fun t => t.sideOf core)).getD 0
    let pop (s : State) : State := s.updCore core (fun c => { c with engine := c.engine.drop 1 })
    let par (k : Nat) : Nat := (op.rows.getD k (0, 0)).2
    let r : WaveRef := { team := op.team, wave := op.wave }
    match s.opBad op side, s.outIndex r op.out with
    | some (st, ix), some k => .next ((pop s).outHwerr r k op.mask st ix)
    | _, _ =>
    match op.instr with
    | .mma _ f => .next (pop (s.runMma op f side old))
    | .accrd _ f => .next (pop (s.runAccrd op f (par 0) side))
    | .accz _ _ =>
      let s : State := s.updSideOf op.team side (fun d => op.rows.foldl (fun d r => d.tileClear r.1 r.2) d)
      .next (pop (op.rows.foldl (fun s r => s.clearAcc op.team side r.1 r.2) s))
    | .accld _ f => .next (s.runAccld op (f.d.toNat % 16) (par 0) side)
    | .drain _ f => if f.sub == 3 then .next (pop (s.runDrainReg op f (par 0) (par 1) (par 2) side)) else .next s
    | _ => .next (pop s)

end Sys2Proof.Machine
end

