-- ==== Sys2Proof/Machine/Matrix.lean ====
section
/-! DEFINITION. The matrix instructions: OBRES, OBREL, OBLD (10 R202 to R207), MMA (10 R212 to R214), ACCZ, ACCLD (10 R209, R210),
ACCRD and MSTAT (10 R218, R219), DRAIN and its add-on-stores (10 R220 to R223). -/

namespace Sys2Proof.Machine

/-! ### Reservations -/

/-- The record that OBRES writes for areas from byte `base` (10 R203, R204). With SPB = 0 its SPOFF is zero (log entry 59, DESIGN CHOICE). -/
def Panel.record (p : Panel) (low base : Nat) : Nat :=
  let sp := base + roundUp p.bytes 256
  let sc := sp + roundUp p.bitmapBytes 256
  p.desc * 2 ^ 96 + p.sdesc * 2 ^ 64 + 2 ^ 63 + (if p.blk == 0 then 0 else sc / 256 * 2 ^ 51) + (if p.spb then sp / 256 * 2 ^ 39 else 0) +
    base / 256 * 2 ^ 27 + low % 2 ^ 21

/-- OBRES (10 R204). -/
def execObres (h : Hdr) (f : CFields) (s : State) : Res :=
  match s.actor h with
  | none => .next (s.finish h)
  | some _ =>
    let w := s.curWave
    let t := s.curTeam
    let side := s.curSide
    let d := t.side side
    let slot := f.tag.toNat % 16
    let e (k : Nat) : Nat := w.sr (f.e.toNat + k)
    let p := panelOf (e 0 % 2 ^ 21 + w.sr f.a.toNat * 2 ^ 96 + w.sr (f.a.toNat + 1) * 2 ^ 64)
    if (d.panel? slot).isSome then .next (s.trap h (matrixTrap 2 slot))
    else if p.badDesc (e 0) (e 1) (e 2) (e 3) then .next (s.trap h (matrixTrap 1 slot))
    else
      match d.place t.obufAlloc p.extent with
      | none => .next ((s.updCur (fun w => w.setS f.d.toNat 0xFFFFFFFF)).finish h)
      | some base =>
        let s : State := s.updSideOf s.cur.team side (fun d =>
          { d with slots := listSet d.slots slot (fun _ => BitVec.ofNat 128 (p.record (e 0) base)) })
        .next ((s.updCur (fun w => w.setS f.d.toNat base)).finish h)

/-- A command that names a slot of a side, or touches its areas (10 R206). A list names the slots of its pieces (05 R99), and any slot while
it cannot be read. -/
def Cmd.usesSlot (c : Cmd) (side slot : Nat) (p : Panel) : Bool :=
  let within (a n : Nat) : Bool := decide (a < p.base + p.extent) && decide (p.base < a + n)
  (match c.src with
    | .obuf k t => k == side && (c.pieces.any (fun q => within q.src q.len) || (if c.list.isNone then t == slot else c.pieces.isEmpty))
    | _ => false) ||
  (match c.dst with
    | .obuf k t => k == side && (t == slot || c.pieces.any (fun q => within q.dst q.len))
    | _ => false)

/-- OBREL (10 R206). -/
def execObrel (h : Hdr) (f : YFields) (s : State) : Res :=
  match s.actor h with
  | none => .next (s.finish h)
  | some _ =>
    let side := s.curSide
    let slot := f.imm.toNat % 16
    let core := s.core s.curWave.core
    match (s.curTeam.side side).panel? slot with
    | none => .next (s.trap h (matrixTrap 2 slot))
    | some p =>
      let copying := core.cmds.any (fun c => c.team == s.cur.team && (s.withListed s.curWave.core c).usesSlot side slot p)
      let reading := core.engine.any (fun o => o.team == s.cur.team && (match o.instr with | .mma _ g => g.b.toNat % 16 == slot | _ => false))
      if copying || reading then .next s.blockIssue
      else .next ((s.updSideOf s.cur.team side (fun d => { d with slots := listSet d.slots slot (fun _ => 0) })).finish h)

/-- One source of OBLD: its lines (address, offset in the allocation) and their length. -/
structure Feed where
  lines : List (Int × Nat)
  len : Nat
  deriving DecidableEq, Repr

def Feed.lo (q : Feed) : Int := match q.lines with | [] => 0 | x :: r => r.foldl (fun a y => min a y.1) x.1
def Feed.hi (q : Feed) : Int := match q.lines with | [] => 0 | x :: r => r.foldl (fun a y => max a y.1) x.1 + q.len - 1
def Feed.first (q : Feed) : Nat := (q.lines.head?.map (·.2)).getD 0
def Feed.bytes (q : Feed) : Nat := q.lines.length * q.len

/-- The sources that OBLD reads: panel, bitmap, scales (10 R207). -/
def Panel.feeds (p : Panel) (src scale bitmap : Nat) (stride sstride : Int) : List Feed :=
  let n := if p.tr then p.kext else 64
  let len := if p.tr then 8 * p.ebits else p.colBytes
  let lines (a : Nat) (st : Int) (o m l : Nat) : List (Int × Nat) := (List.range m).map (fun (k : Nat) => ((a : Int) + (k : Int) * st, o + k * l))
  { lines := lines src stride p.base n len, len := len } ::
    (if p.spb then [{ lines := [((bitmap : Int), p.spoff)], len := 512 }] else []) ++
    (if p.blk == 0 then [] else [{ lines := lines scale sstride p.scoff 64 p.scaleRow, len := p.scaleRow }])

/-- OBLD (10 R207). -/
def execObld (h : Hdr) (f : CFields) (s : State) : Res :=
  let i := Instr.obld h f
  match s.actor h with
  | none => .next (s.finish h)
  | some l => .next (s.afterUpdates i l (fun s =>
    let w := s.curWave
    let side := s.curSide
    let slot := f.d.toNat % 16
    let tag := f.tag.toNat
    match (s.curTeam.side side).panel? slot with
    | none => s.trap h (copyTrap 4 tag 0)
    | some p =>
      let fs := p.feeds (w.spair f.a.toNat) (w.spair f.b.toNat) (w.spair (f.e.toNat + 2)) (toSigned 32 (w.sr f.e.toNat)) (toSigned 32 (w.sr (f.e.toNat + 1)))
      match fs.find? (fun q => !(vaOk q.lo && vaOk q.hi && bit (wrap 64 q.lo) 55 == bit (wrap 64 q.hi) 55)) with
      | some q => s.trap h (mkTrapA .protect pNONCANON (wrap 64 q.lo))
      | none =>
        let pieces : List Piece := fs.flatMap (fun q => q.lines.map (fun x =>
          { src := x.1.toNat, dst := x.2, len := q.len, recv := s.cur.team, landed := [], absent := false }))
        let pages := fs.flatMap (fun q => pageSpan 4 q.lo.toNat (q.hi - q.lo + 1).toNat)
        let dst : Space := .obuf side slot
        let es := fs.map (fun q => (w.core, s.newHolly s.cur.team dst q.first q.bytes tag false))
        s.accept h (s.newCmd 0xC2 tag none .glob dst pieces pages) false es id))

/-! ### MMA -/

/-- Words of scales that an A row brings (10 R208). -/
def Panel.ascWords (p : Panel) : Nat := if p.asc then ceilDiv p.scaleRow 4 else 0

/-- MMA (10 R212 to R214). -/
def execMma (h : Hdr) (f : VFields) (s : State) : Res :=
  let w := s.curWave
  let t := s.curTeam
  let side := s.curSide
  let d := t.side side
  let slot := f.b.toNat % 16
  let n := f.d.toNat % 16
  let cv := f.c.toNat % 16
  let sparse := f.sub.getLsbD 0
  let cvd := w.cvs.getD cv { members := 0, signed := 0 }
  if s.part h == 0 then .next (s.finish h)
  else if (cv != 8 && w.cvMissing cv != 0) || s.engineFull then .next s.blockIssue
  else
    match d.panel? slot with
    | none => .next (s.trap h (matrixTrap 2 slot))
    | some p =>
      let ty := d.tileType n
      let regs := 16 + (if sparse then 2 else 0) + p.ascWords
      if t.badTile d n || ty != (if f.sub.getLsbD 1 then 2 else p.tileType) then .next (s.trap h (matrixTrap 3 n))
      else if (sparse && !p.spb) || (f.sat && ty != 1) then .next (s.trap h (matrixTrap 8 n))
      else if p.blk != 0 && p.axis != p.tr then .next (s.trap h (matrixTrap 4 slot))
      else if f.a.toNat + regs > t.vregs then .next (s.trap h (matrixTrap 5 n))
      else if cv != 8 && cvd.members &&& s.cur.mask == 0 then .next (s.trap h (matrixTrap 8 n))
      else
        match (s.badSide s.cur.team side true p.base p.extent), (s.badAcc s.cur.team side n (tileSpan ty)) with
        | some (st, ix), _ => .next (s.hwerr h st ix)
        | none, some ix => .next (s.hwerr h 5 ix)
        | none, none =>
          let rows := (lanesOf (if cv == 8 then s.part h else cvd.members &&& w.liveMask)).map (fun l => (l, (w.lane l).vblock f.a.toNat regs))
          let s : State := if cv == 8 then s else s.updCur (fun w => { w with cvs := listSet w.cvs cv (fun c => { c with signed := 0 }) })
          .next (s.engineIssue h (.mma h f) (s.part h) .regs [] rows [d.areas p])

/-! ### Tiles -/

/-- ACCZ (10 R209). -/
def execAccz (h : Hdr) (f : YFields) (s : State) : Res :=
  match s.actor h with
  | none => .next (s.finish h)
  | some _ =>
    let t := s.curTeam
    let side := s.curSide
    let n := f.d.toNat % 16
    let ty := f.imm.toNat % 4
    if decide (n ≥ t.tiles) || (ty == 2 && (n % 8 != 0 || decide (n + 7 ≥ t.tiles))) then .next (s.trap h (matrixTrap 3 n))
    else if s.engineFull then .next s.blockIssue
    else
      let span := (t.side side).zeroSpan n ty
      let s : State := s.updSideOf s.cur.team side (fun d => { d with types := d.zeroTypes n ty })
      .next ((s.enqueue (.accz h f) 0 0 [span] []).finish h)

/-- The 256-byte reads of an ACCLD, after its checks, then `k` (10 R210, 04 R85). -/
def State.tileReads (s : State) (h : Hdr) (f : MFields) (l bytes : Nat) (k : State → List Acc → State) : State :=
  let w := s.curWave
  let chunks := List.range (bytes / 256)
  let base : Acc := { lane := l, kind := .load, side := none, va := 0, pa := 0, len := 256, mtype := .homeonly, scope := f.scope.toNat,
                      ord := f.ord.toNat, ch := f.ch.toNat, data := 0, state := .todo, result := 0 }
  if f.sub == 1 then
    let ea := localEa h f w (w.lane l)
    if ea % 256 != 0 then s.trap h (mkTrap .align 8 (wrap 32 ea) 0)
    else
      match s.curTeam.localAt s.curSide ea bytes with
      | none => s.trap h (mkTrap .protect pLOCAL (wrap 32 ea) 0)
      | some (side, off) =>
        match s.badSide s.cur.team side false off bytes with
        | some (st, ix) => s.hwerr h st ix
        | none => k s (chunks.map (fun j => { base with side := some side, va := off + 256 * j, pa := off + 256 * j }))
  else
    let ea := globalEa h f w (w.lane l)
    let reqs : List Req := chunks.map (fun (j : Nat) => { lane := l, va := ea + 256 * (j : Int) })
    match s.memCheck (.accld h f) h (s.part h) reqs 8 Need.read 0 (fun t => t != .io) with
    | .stop s => s
    | .ok s xs =>
      match xs.findSome? (fun x => s.badWord w.core (x.mtype == .cached) x.pa 256) with
      | some (st, ix) => s.hwerr h st ix
      | none =>
        let s : State := s.record ((xs.filter (fun x => s.isDev x.pa)).map (fun x => (x.pa, 256)))
        k s ((reqs.zip xs).map (fun q => { base with va := q.1.va.toNat, pa := q.2.pa, mtype := q.2.mtype, log2 := q.2.log2 }))

/-- ACCLD (10 R210). -/
def execAccld (h : Hdr) (f : MFields) (s : State) : Res :=
  match s.actor h with
  | none => .next (s.finish h)
  | some l =>
    let d := s.curTeam.side s.curSide
    let n := f.d.toNat % 16
    let ty := d.tileType n
    if s.curTeam.badTile d n || (ty == 2) != (f.size.toNat == 5) then .next (s.trap h (matrixTrap 3 n))
    else if s.engineFull then .next s.blockIssue
    else .next (s.tileReads h f l (16384 * tileSpan ty) (fun s accs =>
      (s.scoped f).engineIssue h (.accld h f) (s.part h) .tile accs [(0, ty)] []))

/-- ACCRD (10 R219). -/
def execAccrd (h : Hdr) (f : VFields) (s : State) : Res :=
  let t := s.curTeam
  let d := t.side s.curSide
  let n := f.a.toNat % 16
  let ty := d.tileType n
  if s.part h == 0 then .next (s.finish h)
  else if t.badTile d n then .next (s.trap h (matrixTrap 3 n))
  else if ty != 2 && (f.rnd != .rn || f.fzo) then .next (s.trap h (matrixTrap 8 n))
  else if s.engineFull then .next s.blockIssue
  else
    match s.badAcc s.cur.team s.curSide n (tileSpan ty) with
    | some ix => .next (s.hwerr h 5 ix)
    | none => .next (s.engineIssue h (.accrd h f) (s.part h) .regs [] [(0, ty)] [])

/-- MSTAT and MSTAT.CLR (10 R218). -/
def execMstat (h : Hdr) (f : YFields) (s : State) : Res :=
  match s.actor h with
  | none => .next (s.finish h)
  | some _ =>
    let side := s.curSide
    let v := (s.curTeam.side side).mstat.toNat
    let s : State := if f.sub == 1 then s.updSideOf s.cur.team side (fun d => { d with mstat := 0 }) else s
    .next ((s.updCur (fun w => w.setS f.d.toNat v)).finish h)

/-! ### DRAIN -/

/-- What a DRAIN does: the fields of its word and window (10 R220). -/
structure Drain where
  sub : Nat
  tile : Nat
  ty : Nat
  isLocal : Bool
  row : Nat
  dest : Nat
  stride : Int
  out : Nat
  cv : Nat
  desc : Nat
  deriving DecidableEq, Repr

/-- Bytes of an element in memory (10 R221). -/
def Drain.ebytes (q : Drain) : Nat := if q.sub < 2 then (if q.ty == 2 then 32 else 4) else drainBytes q.out
/-- The exact address of row `r`. -/
def Drain.rowAt (q : Drain) (r : Nat) : Int := (q.dest : Int) + (r : Int) * q.stride
/-- One element as it is written, and its flags (10 R221). -/
def Drain.elem (q : Drain) (x : Nat) : Nat × Flags :=
  if q.sub < 2 then (x, 0) else drainElem q.ty q.out (rndOf (BitVec.ofNat 2 (bits q.cv 5 4))) (bit q.cv 6) (bit q.cv 7) q.desc x

/-- The DRAIN that an instruction of the current wave names. -/
def State.drainOf (s : State) (f : XFields) : Drain :=
  let w := s.curWave
  let win (k : Nat) : Nat := w.sr (f.w.toNat + k)
  let tile := f.b.toNat % 16
  let loc := bit f.b.toNat 4
  { sub := f.sub.toNat, tile := tile, ty := (s.curTeam.side s.curSide).tileType tile, isLocal := loc, row := win 0 % 128,
    dest := if loc then w.sr f.a.toNat else w.spair f.a.toNat, stride := toSigned 32 (win 1), out := win 2 % 16, cv := win 2, desc := win 3 }

/-- SHAPE (10 R220). -/
def Drain.badShape (q : Drain) (stride : Nat) : Bool :=
  if q.sub < 2 then q.cv != 0 || q.desc != 0
  else (q.sub == 3 && stride != 0) || drainBytes q.out == 0 || q.cv / 256 != 0 || (q.out != 12 && q.desc != 0) ||
    (q.out == 12 && nfRefused q.desc) || (q.ty == 0 && decide (4 ≤ q.out) && decide (q.out ≤ 11))

/-- The checks of DRAIN at issue (10 R220, R221). -/
def State.drainFails (s : State) (f : XFields) (q : Drain) : Option TrapInfo :=
  let w := s.curWave
  let t := s.curTeam
  let w0 := w.sr f.w.toNat
  let b := q.ebytes
  if w0 / 65536 != 0 || bit w0 7 || decide (q.row > 64) then some (matrixTrap 6 q.tile)
  else if q.badShape (w.sr (f.w.toNat + 1)) then some (matrixTrap 7 q.tile)
  else if t.badTile (t.side s.curSide) q.tile then some (matrixTrap 3 q.tile)
  else if q.sub == 3 then (if s.badBlock f.a.toNat (16 * b) then some (matrixTrap 5 q.tile) else none)
  else if q.dest % b != 0 || q.stride % (b : Int) != 0 then
    some (if q.isLocal then mkTrap .align (Nat.log2 b) q.dest 0 else mkTrapA .align (Nat.log2 b) q.dest)
  else none

/-- Where a row's elements lie, or why it cannot be written: a trap, translation faults, an uncorrectable word of a walk, or a walk still
awaited (10 R222). -/
inductive RowAt where
  | mem (xs : List (Nat × Xlat))
  | loc (side off : Nat)
  | trap (t : TrapInfo)
  | faults (fs : List (Nat × Nat × Nat))
  | bad (word : Nat)
  | wait

/-- Translate and check row `r` (10 R222, R223, 04 R85). -/
def State.rowCheck (s : State) (q : Drain) (r : Nat) : RowAt × State :=
  let b := q.ebytes
  let a := q.rowAt r
  if q.isLocal then
    match s.curTeam.localAt s.curSide a (64 * b) with
    | none => (.trap (mkTrap .protect pLOCAL (wrap 32 a) 0), s)
    | some (side, off) => (.loc side off, s)
  else
    let eas := (List.range 64).map (fun (j : Nat) => a + (b : Int) * (j : Int))
    match eas.find? (fun x => !vaOk x) with
    | some x => (.trap (mkTrapA .protect pNONCANON (wrap 64 x)), s)
    | none =>
      let z := eas.foldl (fun (acc : List (Nat × Look) × State) x =>
        let y := acc.2.engineXlate s.curWave.core s.curAsn x.toNat
        (acc.1 ++ [(x.toNat, y.1)], y.2)) (([] : List (Nat × Look)), s)
      let typeOk (t : MType) : Bool := t != .io && (q.sub != 1 || t != .host)
      if z.1.any (fun p => p.2 == .miss) then (.wait, z.2)
      else match z.1.findSome? (fun p => match p.2 with
          | .hit x => (Need.write.fails typeOk x).map (fun c => (p.1, c))
          | _ => none), z.1.findSome? (fun p => match p.2 with | .bad w => some w | _ => none) with
      | some (va, c), _ => (.trap (mkTrapA .protect c va), z.2)
      | none, some w => (.bad w, z.2)
      | none, none =>
        let fs := z.1.filterMap (fun p => match p.2 with | .fault c l => some (p.1, c, l) | _ => none)
        if fs.isEmpty then (.mem (z.1.filterMap (fun p => match p.2 with | .hit x => some (p.1, x) | _ => none)), z.2)
        else (.faults fs, z.2)

/-- The uncorrectable word of row `r` of a tile (18 R380). -/
def State.badRow (s : State) (q : Drain) (r : Nat) : Option Nat :=
  let lo := tileWord q.tile q.ty (64 * r)
  s.poisonRegs.findSome? (fun p => match p with
    | .acc u k t w => if u == s.cur.team && k == s.curSide && decide (lo ≤ 4096 * t + w) && decide (4096 * t + w < lo + 64 * elemWords q.ty) then
        some (4096 * t + w) else none
    | _ => none)

/-- The elements of row `r`, read from the tile now (10 R222). -/
def State.drainRow (s : State) (q : Drain) (r : Nat) : List (Nat × Flags) :=
  ((s.curTeam.side s.curSide).tileRow q.tile q.ty r).map q.elem

/-- The DRAIN in progress leaves the engine, its window's progress is written, its flags reach MSTAT and its run ends (10 R220). -/
def State.drainStop (s : State) (h : Hdr) (f : XFields) (val : Nat) : State :=
  let p := s.curWave.prog
  let id := ((p.map (·.data)).getD []).getD 0 0
  let fl : Flags := (p.map (·.flags)).getD 0
  let s : State := s.updCore s.curWave.core (fun c => { c with engine := c.engine.filter (fun o => o.out != id || !o.storing) })
  (((s.orMstat s.cur.team s.curSide fl).updCur (fun w => w.setS f.w.toNat val)).moved h).endRun

/-- Write row `r` of a DRAIN as plain stores by the acting lane (10 R222). -/
def State.drainPut (s : State) (l : Nat) (q : Drain) (r : Nat) (p : RowAt) : State :=
  let es := s.drainRow q r
  let b := q.ebytes
  let acc : Acc := { lane := l, kind := .store, side := none, va := 0, pa := 0, len := b, mtype := .homeonly, scope := 0, ord := 0, ch := 0,
                     data := 0, state := .todo, result := 0 }
  let accs : List Acc := match p with
    | .mem xs => (xs.zip es).map (fun z => { acc with va := z.1.1, pa := z.1.2.pa, mtype := z.1.2.mtype, data := z.2.1, log2 := z.1.2.log2 })
    | .loc side off => es.zipIdx.map (fun z => { acc with side := some side, va := off + b * z.2, pa := off + b * z.2, data := z.1.1 })
    | _ => []
  let s : State := s.addOut (Out.ofAccs s.cur.pc false .drain accs)
  s.updCur (fun w => { w with prog := w.prog.map (fun g => { g with flags := es.foldl (fun a e => a ||| e.2) g.flags }) })

/-- The progress of a DRAIN: its operation, the next row, the type that its tile had at issue. -/
def setProgRow (w : Wave) (r : Nat) : Wave :=
  { w with prog := w.prog.map (fun g => { g with data := [g.data.getD 0 0, r, g.data.getD 2 0] }) }

/-- The element updates of an add-on-store (10 R223). -/
def State.drainUpdates (s : State) (l : Nat) (q : Drain) (id : Nat) (rows : List (Nat × RowAt)) : List AddOn :=
  let core := s.curWave.core
  let rel := s.ownTags s.curRef l core (s.curWave.lane l).relScopes
  let mk (side : Option Nat) (pa v va log2 : Nat) : AddOn :=
    { drain := id, team := s.cur.team, launch := s.curTeam.launch, side := side, pa := pa, isInt := q.ty == 1, exact := q.ty == 2, val := v,
      wave := s.cur.wave, rel := rel, va := va, log2 := log2, lane := l }
  rows.flatMap (fun x =>
    let es := s.drainRow q x.1
    match x.2 with
    | .mem xs => (xs.zip es).map (fun z => mk none z.1.2.pa z.2.1 z.1.1 z.1.2.log2)
    | .loc side off => es.zipIdx.map (fun z => mk (some side) (off + q.ebytes * z.2) z.1.1 0 12)
    | _ => [])

/-- Write the core's dirty bytes of some lines back, then go on; a step that has only written some of them back is kept (19 R399). -/
def State.macClean (s : State) (lines : List Nat) (k : State → State) : State :=
  let core := s.curWave.core
  let mine (x : CLine) : Bool := lines.elem x.line
  let t : State := s.cleanSome core mine
  if !t.dirtyIn core mine then k t
  else if ((t.core core).dirtyLines mine).length < ((s.core core).dirtyLines mine).length then t
  else s.blockIssue

/-- Queue the updates of an add-on-store, once the core has written back and dropped its copies of the range (10 R223, 13 R286), then go on. -/
def State.drainAdd (s : State) (n : Nat) (ups : List AddOn) (k : State → State) : State :=
  let core := s.curWave.core
  s.macClean (dedup ((ups.filter (fun u => u.side.isNone)).map (fun u => lineOf u.pa))) (fun s =>
    let s : State := ups.foldl (fun s u => if u.side.isNone then s.dropRange core u.pa n else s) s
    k (s.updCore core (fun c => { c with addons := c.addons ++ ups })))

/-- The store and index of an uncorrectable word that an add-on-store would read (18 R380). -/
def State.addPoison (s : State) (q : Drain) (rows : List (Nat × RowAt)) : Option (Nat × Nat) :=
  rows.findSome? (fun x => match x.2 with
    | .mem xs => xs.findSome? (fun z => s.badWord s.curWave.core (z.2.mtype == .cached) z.2.pa q.ebytes)
    | .loc side off => s.badSide s.cur.team side false off (64 * q.ebytes)
    | _ => none)

/-- DRAIN.ADD once it heads the engine: all rows are checked, then its updates are queued (10 R223). -/
def State.drainAll (s : State) (h : Hdr) (f : XFields) (l id : Nat) (q : Drain) (part : BitVec 64) : State :=
  let z := (List.range 64).foldl (fun (acc : List (Nat × RowAt) × Option (RowAt × Nat) × State) r =>
    if acc.2.1.isSome then acc
    else
      let y := acc.2.2.rowCheck q r
      match y.1 with
      | .trap t => (acc.1, some (.trap t, r), y.2)
      | .faults fs => (acc.1, some (.faults fs, r), y.2)
      | .bad w => (acc.1, some (.bad w, r), y.2)
      | .wait => (acc.1, some (.wait, r), y.2)
      | p => (acc.1 ++ [(r, p)], none, y.2)) (([] : List (Nat × RowAt)), (none : Option (RowAt × Nat)), s)
  let s : State := z.2.2
  match z.2.1 with
  | some (.trap t, _) => (s.drainStop h f (s.curWave.sr f.w.toNat)).raiseAt s.curRef part s.cur.pc t
  | some (.faults fs, _) => (s.drainStop h f 0x200).parkFaults part s.curAsn 7 fs
  | some (.bad w, _) => (s.drainStop h f (s.curWave.sr f.w.toNat)).hwerr h 6 w
  | some (.wait, _) => s
  | _ =>
    let rows := z.1.filter (fun x => decide (q.row ≤ x.1))
    match (s.addPoison q rows).or ((s.badAcc s.cur.team s.curSide q.tile (tileSpan q.ty)).map (fun x => (5, x))) with
    | some (st, ix) => (s.drainStop h f (s.curWave.sr f.w.toNat)).hwerr h st ix
    | none => s.drainAdd q.ebytes (s.drainUpdates l q id rows) (fun s => (s.drainStop h f 0x140).updCur (fun w => w.goto part (s.nextPc h)))

/-- One step of a DRAIN to memory: a stop, the next row, or DONE (10 R222). -/
def State.drainStep (s : State) (h : Hdr) (f : XFields) (l : Nat) : State :=
  let w := s.curWave
  let data := (w.prog.map (·.data)).getD []
  let id := data.getD 0 0
  let row := data.getD 1 0
  let part := s.cur.mask
  let q : Drain := { s.drainOf f with row := row, ty := data.getD 2 0 }
  let head := match (s.core w.core).engine with | o :: _ => o.out == id && o.storing | [] => false
  if w.stop then s.drainStop h f (0x300 + row)
  else if !head then s.blockIssue
  else if q.sub == 1 then s.drainAll h f l id q part
  else if row ≥ 64 then (s.drainStop h f 0x140).updCur (fun w => w.goto part (s.nextPc h))
  else
    let y := s.rowCheck q row
    let s : State := y.2
    let stop := s.drainStop h f (setBits (s.curWave.sr f.w.toNat) 6 0 row)
    match y.1, s.badRow q row with
    | .wait, _ => s
    | .trap t, _ => stop.raiseAt s.curRef part s.cur.pc t
    | .bad w, _ => stop.hwerr h 6 w
    | .faults fs, _ => (s.drainStop h f (0x200 + row)).parkFaults part s.curAsn 7 fs
    | _, some ix => stop.hwerr h 5 ix
    | p, none => (s.drainPut l q row p).updCur (fun w => setProgRow w (row + 1))

/-- DRAIN (10 R220 to R223). -/
def execDrain (h : Hdr) (f : XFields) (s : State) : Res :=
  let i := Instr.drain h f
  let l := (s.actor h).getD 0
  let q := s.drainOf f
  if s.begun then .next (s.orWait (s.drainStep h f l))
  else if (if f.sub == 3 then s.part h == 0 else (s.actor h).isNone) then .next ((s.finish h).endRun)
  else
    match s.drainFails f q with
    | some t => .next (s.trap h t)
    | none =>
      if s.engineFull then .next s.blockIssue
      else
        match s.badAcc s.cur.team s.curSide q.tile (tileSpan q.ty) with
        | some ix => .next (s.hwerr h 5 ix)
        | none =>
          if f.sub == 3 then .next ((s.engineIssue h i (s.part h) .regs [] [(0, q.ty), (0, q.cv), (0, q.desc)] []).endRun)
          else
            let id := s.uid
            let s : State := { s.enqueue i (s.part h) id [] [] with uid := id + 1 }
            .next (s.begin i h (s.part h) [] [id, q.row, q.ty])

/-- Bytes of an element update. -/
def AddOn.bytes (u : AddOn) : Nat := if u.exact then 32 else 4
/-- Whether two element updates write a byte in common. -/
def AddOn.meets (u v : AddOn) : Bool :=
  u.side == v.side && (u.side.isNone || u.team == v.team) && decide (u.pa < v.pa + v.bytes) && decide (v.pa < u.pa + u.bytes)

/-- Whether update `u` of a core may take place (10 R223, 13 R280, R281): no other add-on-store with a byte in common with its own has begun
and not ended, and what its lane has issued before it is done: an update or an access of the same bytes, an acquire. -/
def State.addReady (s : State) (core : Nat) (u : AddOn) : Bool :=
  let all := s.cores.flatMap (·.addons)
  let mine := all.filter (fun v => v.drain == u.drain)
  let begun (d : Nat) : Bool := all.any (fun v => v.drain == d && v.applied)
  !u.applied &&
  (begun u.drain || all.all (fun v => v.drain == u.drain || !begun v.drain || !mine.any v.meets)) &&
  all.all (fun v => v.applied || !(decide (v.drain < u.drain) && v.team == u.team && v.wave == u.wave && v.lane == u.lane && v.meets u)) &&
  (match s.wave? { team := u.team, wave := u.wave } with
    | some w => w.outs.all (fun o => decide (o.id ≥ u.drain) || o.accs.all (fun a => a.state == .done || a.lane != u.lane ||
        !(a.acquires || (a.side == u.side && decide (a.pa < u.pa + u.bytes) && decide (u.pa < a.pa + a.len)))))
    | none => true) && (s.core core).addons.elem u

/-- Update `k` of a core has been applied; once every one of its DRAIN has, they leave. -/
def State.addApplied (s : State) (core k drain : Nat) : State :=
  s.updCore core (fun c =>
    let l := listSet c.addons k (fun u => { u with applied := true })
    { c with addons := if l.all (fun u => u.drain != drain || u.applied) then l.filter (fun u => u.drain != drain) else l })

/-- The new value of an element, and its flags (10 R223). -/
def AddOn.new (u : AddOn) (old : Nat) : Nat × Flags :=
  if u.exact then (xaccAddImage old u.val, 0)
  else if u.isInt then ((old + u.val) % 2 ^ 32, 0)
  else
    let z := Val.sum .rn [fdecode .f32 old, fdecode .f32 u.val]
    let y := roundTo .f32 .rn z.1
    (y.1, y.2 ||| flagIf z.2 fNV ||| snanFlag [fdecode .f32 old, fdecode .f32 u.val])

/-- ADD_ON_STORE_APPLY (10 R223): element update `k` of a core takes place at its home slice or bank. One that would read a word that has
become uncorrectable since its checks is dropped beside a record of kind HWERR (log entry 7). -/
def execAddOnStoreApply (core k : Nat) (s : State) : Res :=
  match (s.core core).addons[k]? with
  | none => .next s
  | some u =>
    if !s.addReady core u then .next s
    else
      let side := ((s.team? u.team).map (fun t => t.sideOf core)).getD 0
      let n := u.bytes
      match u.side with
      | some d =>
        match s.badSide u.team d false u.pa n with
        | some (st, ix) => .next ((s.engineRecord u.launch st ix).addApplied core k u.drain)
        | none =>
          let y := u.new (s.sideRead u.team d u.pa n)
          .next (((s.sideWrite u.team d u.pa n y.1 u.rel).orMstat u.team side y.2).addApplied core k u.drain)
      | none =>
        match s.badWord core false u.pa n with
        | some (st, ix) => .next ((s.engineRecord u.launch st ix).addApplied core k u.drain)
        | none =>
          let y := u.new (s.homeRead u.pa n)
          .next (((s.homeStore u.pa (leBytes n y.1) u.launch u.rel).orMstat u.team side y.2).addApplied core k u.drain)

end Sys2Proof.Machine
end

