-- ==== Sys2Proof/Machine/Macro.lean ====
section
/-! DEFINITION. The macro convention (11 R226 to R232): windows, stops, traps; and the parts shared by RAST, BLEND, BIN, MCALL, TRAV
and FILT. -/

namespace Sys2Proof.Machine

/-! ### Windows -/

/-- Word `k` of a window. -/
def winWord (win k : Nat) : Nat := win / 2 ^ (32 * k) % 2 ^ 32
/-- Replace word `k` of a window. -/
def setWin (win k v : Nat) : Nat := setBits win (32 * k + 31) (32 * k) v
/-- A window word as I32. -/
def winInt (win k : Nat) : Int := toSigned 32 (winWord win k)

/-- A MACRO trap: reason, lane, the header found there (11 R232). -/
def macroTrap (reason lane header : Nat) : TrapInfo := mkTrap .macroG (reason + lane % 64 * 16) header 0
/-- The reasons of 11 R232. -/
def mSIGNATURE : Nat := 1
def mWINDOW : Nat := 2
def mEMPTYSLOT : Nat := 3
def mREVISION : Nat := 4
def mOPERAND : Nat := 5
def mWIDTH : Nat := 6
def mBINSET : Nat := 7

/-- The first lane whose window's signature is not `sig`, as a trap (11 R227). -/
def signatureTrap (sig : Nat) (ws : List (Nat × Nat)) : Option TrapInfo :=
  (ws.find? (fun p => bits (winWord p.2 0) 31 24 != sig)).map (fun p => macroTrap mSIGNATURE p.1 (winWord p.2 0))

/-- The windows of some lanes: `n` vector registers from `r` (11 R226). -/
def State.windows (s : State) (m : BitVec 64) (r n : Nat) : List (Nat × Nat) := (lanesOf m).map (fun l => (l, (s.curWave.lane l).vblock r n))

/-- A lane at the start of its macro. -/
def MacLane.start (p : Nat × Nat) : MacLane := { lane := p.1, win := p.2, reason := 0, target := none, trap := none, fault := none }
/-- A lane of a BIN at its start: NEXT counts on past the 16 bits of STATE (11 R238). -/
def MacLane.startBin (p : Nat × Nat) : MacLane := { MacLane.start p with next := winWord p.2 0 % 65536 }
/-- A lane stops with a reason; it goes to a target, or stays (11 R228). -/
def MacLane.stop (m : MacLane) (reason : Nat) (target : Option Word) : MacLane := { m with reason := reason, target := target }

def State.macLanes (s : State) : List MacLane := (s.curWave.prog.map (·.lanes)).getD []
def State.updMac (s : State) (f : MacLane → MacLane) : State :=
  s.updCur (fun w => { w with prog := w.prog.map (fun p => { p with lanes := p.lanes.map f }) })
/-- Store the new state of one lane. -/
def State.setMac (s : State) (m : MacLane) : State := s.updMac (fun x => if x.lane == m.lane then m else x)
def State.macFlags (s : State) (fl : Flags) : State :=
  s.updCur (fun w => { w with prog := w.prog.map (fun p => { p with flags := p.flags ||| fl }) })
/-- Add to a counter of the current team (11 R247). -/
def State.count (s : State) (k n : Nat) : State :=
  s.updCurTeam (fun t => { t with stats := listSet t.stats k (fun x => x + BitVec.ofNat 64 n) })

/-- The callback target of the current issue (11 R228). -/
def State.callback (s : State) (f : XFields) : Word := s.cur.pc + BitVec.ofInt 64 (8 * toSigned 13 f.cboff.toNat)

/-! ### Stops -/

/-- Where a macro's windows lie, and which words a stop writes (11 R229): scalar windows act once per issue. -/
structure MacForm where
  reg : Nat
  scalar : Bool
  kind : Nat
  words : MacLane → List Nat
  /-- whether a requested stop stops a lane here (11 R231). -/
  stops : MacLane → Bool := fun _ => true

/-- Write the words of one lane's window that its stop writes, with REASON in the header. -/
def MacForm.put (q : MacForm) (m : MacLane) (w : Wave) : Wave :=
  let win := if m.reason == 0 then m.win else setBits m.win 23 16 m.reason
  (q.words m).foldl (fun w k =>
    if q.scalar then w.setS (q.reg + k) (winWord win k) else w.updLanes (1#64 <<< m.lane) (fun _ ln => ln.setV (q.reg + k) (winWord win k))) w

/-- The lanes of the issue that a macro's lane stands for. -/
def State.macMask (s : State) (q : MacForm) (m : MacLane) : BitVec 64 := if q.scalar then s.cur.mask else 1#64 <<< m.lane

def TrapInfo.isProtect (t : TrapInfo) : Bool := t.cause.toNat % 256 == Group.protect.code

/-- Every lane of the macro has stopped: windows, PCs, flags, then traps or fault records (11 R228, R229, 12 R267). -/
def State.macroFinish (s : State) (h : Hdr) (q : MacForm) : State :=
  let ms := s.macLanes
  let fl : Flags := (s.curWave.prog.map (·.flags)).getD 0
  let pc := s.cur.pc
  let s : State := ms.foldl (fun s m => s.updCur (q.put m)) s
  let s : State := ms.foldl (fun s m => match m.target with
    | some t => s.updCur (fun w => w.goto (s.macMask q m) t)
    | none => s) s
  let s : State := ((s.updCur (fun w => w.orFlags fl)).moved h).endRun
  match ms.findSome? (fun m => m.trap.bind (fun t => if t.isProtect then some t else none)) with
  | some t => s.raiseAt s.curRef (ms.foldl (fun a m => if m.target.isNone then a ||| s.macMask q m else a) 0) pc t
  | none =>
    let fs := ms.filterMap (fun m => m.fault)
    if !fs.isEmpty then
      s.parkFaults (ms.foldl (fun a m => if m.fault.isSome then a ||| s.macMask q m else a) 0) s.curAsn q.kind fs
    else if ms.any (fun m => m.trap.isSome) then
      s.raiseEach s.curRef (fun l => (ms.find? (fun m => m.lane == l)).bind (fun m => m.trap))
    else s

/-- The lanes still running stop with SLICE, and leave the key they wait on (11 R231, R245). -/
def State.macroSlice (s : State) : State :=
  let ms := s.macLanes
  let waits (l : Nat) : Bool := match (s.curWave.lane l).await with | some a => a.space | none => false
  let s : State := if ms.any (fun m => waits m.lane) then
      (s.withdraw (fun x => x.team == s.cur.team && x.wave == s.cur.wave)).updCur (fun w =>
        w.updLanes (maskOf waits) (fun _ ln => { ln with await := none, wait := .none }))
    else s
  s.updMac (fun m => if m.running then m.stop 3 none else m)

/-- A lane meets a failed permission or type: it stops with FAULT, the others with SLICE (11 R238, 12 R267). -/
def State.macroProtect (s : State) (l : Nat) (t : TrapInfo) : State :=
  s.updMac (fun m => if m.lane == l then { m with reason := 2, trap := some t } else if m.running then m.stop 3 none else m)
/-- A lane meets a translation fault: it stops with FAULT (11 R228). -/
def State.macroFault (s : State) (l va reason level : Nat) : State :=
  s.updMac (fun m => if m.lane == l then { m with reason := 2, fault := some (va, reason, level) } else m)

/-- One step of a macro in progress: a stop that is due, or the next step of its first running lane, unless that meets a miss or must
wait; then the end, once every lane has stopped (11 R229 to R231). -/
def State.macroTick (s : State) (h : Hdr) (q : MacForm) (step : State → MacLane → State) : State :=
  let s : State :=
    if s.curWave.stop && (s.macLanes.filter MacLane.running).all q.stops then s.macroSlice
    else match s.macLanes.find? MacLane.running with
      | none => s
      | some m => s.orWait (step s m)
  if s.macLanes.any MacLane.running then s else s.macroFinish h q

/-! ### Memory of macros -/

/-- What a macro's access to an address meets: the translation, a trap, a fault, an uncorrectable word of its walk, or a miss, which
`macroTick` waits for. -/
inductive MacX where
  | ok (x : Xlat)
  | trap (t : TrapInfo)
  | fault (reason level : Nat)
  | bad (word : Nat)
  | wait

/-- Translate and check an access of a macro (04 R76, R81, R75). -/
def State.macXlate (s : State) (va : Nat) (need : Need) (typeOk : MType → Bool) : MacX × State :=
  if !vaOk va then (.trap (mkTrapA .protect pNONCANON (va % 2 ^ 64)), s)
  else
    let y := s.engineXlate s.curWave.core s.curAsn va
    match y.1 with
    | .hit x => match need.fails typeOk x with
      | some r => (.trap (mkTrapA .protect r va), y.2)
      | none => (.ok x, y.2)
    | .fault r l => (.fault r l, y.2)
    | .bad w => (.bad w, y.2)
    | .miss => (.wait, y.2)

/-- Lane `l`'s read has met release marks (13 R285). -/
def State.meet (s : State) (l : Nat) (ts : List RelTag) : State :=
  if ts.isEmpty then s else s.updCur (fun w => w.updLanes (1#64 <<< l) (fun _ ln => { ln with seen := tagSet (ln.seen ++ ts) }))

/-- A relaxed read of `n` bytes by lane `l` of the current wave (13 R287). -/
def State.loadAs (s : State) (l : Nat) (x : Xlat) (n : Nat) : Nat × State :=
  if x.mtype == .cached then
    let q := s.cacheLoad s.curWave.core x.pa n 0
    (q.1.1, q.2.meet l q.1.2)
  else if x.mtype == .io then (s.devRead x.pa n, s)
  else (s.homeRead x.pa n, s.meet l (s.relsIn x.pa n))
/-- The same, entered into the team's recorded set (17 R365). -/
def State.macRead (s : State) (l : Nat) (x : Xlat) (n : Nat) : Nat × State :=
  (if s.isDev x.pa then s.record [(x.pa, n)] else s).loadAs l x n

/-- A lane's read meets an uncorrectable word: a record of kind HWERR, and the lane stops (18 R380). -/
def State.macHwerr (s : State) (l store index : Nat) : State :=
  let t := hwerrTrap store index
  (s.pushRecord 1 (faultRecord 0 4 0 0 0 s.curTeam.launch (recordW1 s.curTeam s.curWave) 0 s.curAsn.toNat s.cur.pc t 0)).macroProtect l t

/-- Whether an earlier access of a lane must be performed before it touches a range of scratch (13 R280). -/
def Wave.scratchBusy (w : Wave) (l side a n : Nat) : Bool :=
  w.accList.any (fun x => x.2.2.lane == l && x.2.2.state != .done &&
    (x.2.2.acquires || (x.2.2.side == some side && decide (x.2.2.pa < a + n) && decide (a < x.2.2.pa + x.2.2.len))))

/-- The release mark of a lane's plain write, from its release fences (13 R280). -/
def State.fenceTags (s : State) (l : Nat) : List RelTag := s.ownTags s.curRef l s.curWave.core (s.curWave.lane l).relScopes

/-- The LOCAL trap of a range of scratch that the team does not hold (06 R120). -/
def State.localOr (s : State) (a n : Nat) : Except TrapInfo (Nat × Nat) :=
  match s.curTeam.localAt s.curSide a n with
  | some p => .ok p
  | none => .error (mkTrap .protect pLOCAL (a % 2 ^ 32) 0)

/-! ### Queues in memory (11 R237, R238) -/

/-- A bin-set descriptor. -/
structure BinSet where
  qbase : Nat
  cap : Nat
  bw : Nat
  bh : Nat
  deriving DecidableEq, Repr

def binSetOf (raw : Nat) : BinSet := { qbase := bits raw 127 64, cap := bits raw 63 32, bh := bits raw 31 16, bw := bits raw 15 0 }
/-- A malformed descriptor (11 R237). -/
def BinSet.bad (b : BinSet) (raw : Nat) : Bool :=
  bits raw 511 128 != 0 || b.qbase % 4096 != 0 || decide (b.cap < 16) || decide (b.cap > 2 ^ 20) || b.cap &&& (b.cap - 1) != 0 ||
  decide (b.bw < 1) || decide (b.bw > 512) || decide (b.bh < 1) || decide (b.bh > 512)
/-- The exact address of the queue of a bin. -/
def BinSet.queue (b : BinSet) (bx by' : Nat) : Nat := b.qbase + (by' * b.bw + bx) * 64 * (b.cap + 1)

/-- A read at the home slice at DEVICE scope, once the core's dirty bytes of the line are there (13 R276, R284). -/
def State.homeLoad (s : State) (x : Xlat) (n : Nat) : Nat × State :=
  let core := s.curWave.core
  let s : State := if x.mtype == .cached then s.cleanLine core (lineOf x.pa) else s
  if x.mtype == .cached && s.dirtyIn core (fun y => y.line == lineOf x.pa) then (0, s.blockWave)
  else
    let s : State := s.promoteFor x.pa n (some core)
    (s.homeRead x.pa n, if x.mtype == .cached then s.refreshCopy core x.pa n else s)
/-- A write at the home slice with release marks. -/
def State.homePut (s : State) (x : Xlat) (bs : List Byte) (ts : List RelTag) : State :=
  let core := s.curWave.core
  let s : State := s.homeStore x.pa bs s.curTeam.launch ts
  (if x.mtype == .cached then (s.refreshCopy core x.pa bs.length).healLine core x.pa bs.length else s).notice core x.pa ts

/-- Go on once a DEVICE-scope release of the current wave's macro has written its core's dirty bytes back; a step that has only written
some of them back is kept (13 R282, 19 R399). -/
def State.macRelease (s : State) (k : State → State) : State :=
  let core := s.curWave.core
  let t : State := s.cleanAll core
  if !t.dirtyIn core (fun _ => true) then k t
  else if ((t.core core).dirtyLines (fun _ => true)).length < ((s.core core).dirtyLines (fun _ => true)).length then t
  else s.blockIssue

/-- HEAD and TAIL of a queue header. -/
def queueFull (hdr cap : Nat) : Bool := decide ((bits hdr 127 64 + 2 ^ 64 - bits hdr 63 0) % 2 ^ 64 ≥ cap)
/-- The address of the slot that TAIL names. -/
def slotVa (q hdr cap : Nat) : Nat := q + 64 + 64 * (bits hdr 127 64 % cap)

/-- Push a record: the slot is written and TAIL advances, as a release at DEVICE scope by lane `l`, whose write-backs are done
(11 R238). -/
def State.pushSlot (s : State) (l : Nat) (hx sx : Xlat) (hdr rec : Nat) : State :=
  let ts := s.ownTags s.curRef l s.curWave.core (addScope 5 (s.curWave.lane l).relScopes)
  let s : State := s.homePut sx (leBytes 64 rec) ts
  s.homePut hx (leBytes 16 (bits hdr 63 0 + (bits hdr 127 64 + 1) % 2 ^ 64 * 2 ^ 64)) ts

end Sys2Proof.Machine
end

