-- ==== Sys2Proof/Machine/Raster.lean ====
section
/-! DEFINITION. RAST (11 R239 to R242), BLEND (11 R244 to R246), BIN (11 R238) and MCALL (11 R234 to R236). -/

namespace Sys2Proof.Machine

/-! ### RAST -/

def vertX (win k : Nat) : Int := winInt win (1 + 2 * (k % 3))
def vertY (win k : Nat) : Int := winInt win (2 + 2 * (k % 3))
/-- The signed area (11 R240). -/
def rastArea (win : Nat) : Int :=
  (vertX win 1 - vertX win 0) * (vertY win 2 - vertY win 0) - (vertY win 1 - vertY win 0) * (vertX win 2 - vertX win 0)

/-- The window checks of RAST.SET (11 R239). -/
def rastBadFixed (win : Nat) : Bool :=
  (List.range 6).any (fun k => decide (winInt win (1 + k) < -8388608) || decide (winInt win (1 + k) > 8388607)) ||
  winWord win 7 % 8 != 0 || winWord win 7 / 65536 % 8 != 0 || winWord win 8 % 64 != 0 ||
  (List.range 4).any (fun k => winWord win (12 + k) != 0)
/-- The further window checks of RAST (11 R239). -/
def rastBadState (win : Nat) : Bool :=
  let st := winWord win 0 % 65536
  let row := st % 16
  let cov := winWord win 9 + winWord win 10 * 2 ^ 32
  bits st 15 10 != 0 || bits st 7 4 != 0 || decide (row > 8) || cov / 2 ^ (8 * row) != 0 || winWord win 11 / 2048 != 0 ||
  bit st 8 != decide (rastArea win < 0) || bit st 9 != decide (rastArea win = 0)

/-- RAST.SET (11 R240). -/
def execRastSet (h : Hdr) (f : XFields) (s : State) : Res :=
  match s.actor h with
  | none => .next (s.finish h)
  | some _ =>
    let win := s.curWave.sblock f.w.toNat 16
    if rastBadFixed win then .next (s.trap h (macroTrap mWINDOW 0 (winWord win 0)))
    else
      match s.localOr (winWord win 8) 512 with
      | .error t => .next (s.trap h t)
      | .ok _ =>
        let a := rastArea win
        let w (k v : Nat) : RegWrite := { scalar := true, lane := 0, reg := f.w.toNat + k, val := BitVec.ofNat 32 v }
        let hdr := 0x52000000 + b2n (decide (a = 0)) * 512 + b2n (decide (a < 0)) * 256
        .next ((s.addOut (Out.ofWrites s.cur.pc [w 0 hdr, w 9 0, w 10 0, w 11 0] 0)).finish h)

/-- One pixel of a row: covered, and the two weights (11 R241). -/
def rastPixel (win x y : Nat) : Bool × Nat × Nat :=
  let st := winWord win 0
  let sg : Int := if bit st 8 then -1 else 1
  let px : Int := 256 * (toSigned 16 (winWord win 7) + (x : Int)) + 128
  let py : Int := 256 * (toSigned 16 (winWord win 7 / 65536) + (y : Int)) + 128
  let dx (k : Nat) : Int := vertX win (k + 1) - vertX win k
  let dy (k : Nat) : Int := vertY win (k + 1) - vertY win k
  let e (k : Nat) : Int := sg * (dx k * (py - vertY win k) - dy k * (px - vertX win k))
  let tl (k : Nat) : Bool := decide (sg * dy k < 0) || (dy k == 0 && decide (sg * dx k > 0))
  let inside := !bit st 9 && (List.range 3).all (fun k => decide (e k > 0) || (e k == 0 && tl k))
  let area := (rastArea win).natAbs
  (inside, if inside then (rint .rn (e 2 * 32768) area).toNat else 0, if inside then (rint .rn (e 0 * 32768) area).toNat else 0)

/-- The coverage byte and the 64 bytes of a row record (11 R241). -/
def rastRow (win y : Nat) : Nat × List Byte :=
  let ps := (List.range 8).map (fun x => rastPixel win x y)
  let cov := ofBits 8 (fun x => match ps[x]? with | some p => p.1 | none => false)
  (cov, leBytes 8 cov ++ ps.flatMap (fun p => leBytes 2 p.2.1 ++ leBytes 2 p.2.2) ++ List.replicate 24 0)

/-- The pixels of live quads (11 R242). -/
def liveQuads (cov : Nat) : Nat :=
  ofBits 64 (fun i =>
    let x := i % 8 / 2 * 2
    let y := i / 8 / 2 * 2
    bit cov (8 * y + x) || bit cov (8 * y + x + 1) || bit cov (8 * y + 8 + x) || bit cov (8 * y + 9 + x))

/-- The EMIT step (11 R242). -/
def State.rastEmit (s : State) (p cov : Nat) : State :=
  let live := liveQuads cov
  let helpers := ofBits 64 (fun i => bit live i && !bit cov i)
  let s : State := s.updCur (fun w => { w with
    lanes := mapFrom (fun i ln => ln.setPred p (bit live i)) 0 w.lanes
    helper := BitVec.ofNat 64 helpers })
  s.count 6 (popcount 64 helpers)

/-- One step of RAST (11 R241). -/
def State.rastStep (h : Hdr) (f : XFields) (s : State) (m : MacLane) : State :=
  let row := winWord m.win 0 % 16
  if row ≥ 8 then
    let cov := winWord m.win 9 + winWord m.win 10 * 2 ^ 32
    let s : State := if bit f.var.toNat 1 then s.rastEmit (f.a.toNat % 8) cov else s
    s.setMac (m.stop 1 (some (s.nextPc h)))
  else
    match s.localOr (winWord m.win 8) 512 with
    | .error t => s.setMac { m with trap := some t }
    | .ok (side, off) =>
      let r := rastRow m.win row
      let acc : Acc := { lane := m.lane, kind := .store, side := some side, va := off + 64 * row, pa := off + 64 * row, len := 64,
                         mtype := .homeonly, scope := 0, ord := 0, ch := 0, data := leNat r.2, state := .todo, result := 0 }
      let s : State := s.addOut (Out.ofAccs s.cur.pc false .none [acc])
      let cov := (winWord m.win 9 + winWord m.win 10 * 2 ^ 32) + r.1 * 2 ^ (8 * row)
      let win := setWin (setWin (setWin (setBits m.win 3 0 (row + 1)) 9 (cov % 2 ^ 32)) 10 (cov / 2 ^ 32)) 11 (r.1 + row * 256)
      let s : State := (s.count 2 1).count 3 (popcount 8 r.1)
      let m : MacLane := { m with win := win }
      s.setMac (if bit f.var.toNat 0 && r.1 != 0 then m.stop 16 (some (s.callback f)) else m)

/-- What a stop of RAST writes; at row 8 a requested stop no longer stops it (11 R241). -/
def rastForm (f : XFields) : MacForm :=
  { reg := f.w.toNat, scalar := true, kind := 7, words := fun _ => [0, 9, 10, 11], stops := fun m => decide (winWord m.win 0 % 16 < 8) }

/-- RAST (11 R239, R241, R242). -/
def execRast (h : Hdr) (f : XFields) (s : State) : Res :=
  if s.begun then .next (s.macroTick h (rastForm f) (State.rastStep h f))
  else
    match s.actor h with
    | none => .next ((s.finish h).endRun)
    | some l =>
      let win := s.curWave.sblock f.w.toNat 16
      match signatureTrap 0x52 [(0, win)] with
      | some t => .next (s.trap h t)
      | none =>
        if rastBadFixed win || rastBadState win then .next (s.trap h (macroTrap mWINDOW 0 (winWord win 0)))
        else
          match s.localOr (winWord win 8) 512 with
          | .error t => .next (s.trap h t)
          | .ok _ =>
            if bit f.var.toNat 1 && s.curTeam.width != 64 then .next (s.trap h (macroTrap mWIDTH 0 (winWord win 0)))
            else .next (s.begin (.rast h f) h (s.part h) [MacLane.start (l, win)] [])

/-! ### BLEND -/

/-- Bytes of a pixel format (11 R244). -/
def pixelBytes (fm : Nat) : Nat := 4 * 2 ^ fm

/-- The checks of BLEND and BLEND.SET for a pixel of `n` bytes: WINDOW, then LOCAL; the reserved bits of STATE are not checked
(11 R244). -/
def State.blendTrap (s : State) (n : Nat) (ws : List (Nat × Nat)) : Option TrapInfo :=
  match ws.find? (fun p =>
      decide (winWord p.2 0 % 16 > 6) || winWord p.2 1 % n != 0) with
  | some p => some (macroTrap mWINDOW p.1 (winWord p.2 0))
  | none => ws.findSome? (fun p => match s.localOr (winWord p.2 1) n with
      | .error t => some t
      | .ok _ => none)

/-- BLEND.SET (11 R244). -/
def execBlendSet (h : Hdr) (f : XFields) (s : State) : Res :=
  let ws := s.windows (s.part h) f.w.toNat 2
  if s.part h == 0 then .next (s.finish h)
  else
    match s.blendTrap 4 ws with
    | some t => .next (s.trap h t)
    | none =>
      let rs : List RegWrite := ws.map (fun p =>
        { scalar := false, lane := p.1, reg := f.w.toNat, val := BitVec.ofNat 32 (0x42000000 + winWord p.2 0 % 65536) })
      .next ((s.addOut (Out.ofWrites s.cur.pc rs 0)).finish h)

/-- The channels of a pixel (11 R244, R246). -/
def pixelDecode (fm x : Nat) : List Val :=
  (List.range 4).map (fun c => match fm with
    | 0 => .fin false (x / 256 ^ c % 256) 255
    | 1 => fdecode .f16 (x / 65536 ^ c % 65536)
    | _ => fdecode .f32 (x / 2 ^ (32 * c) % 2 ^ 32))
/-- One channel's code and flags (11 R246). -/
def channelEncode (fm : Nat) (v : Val) : Nat × Flags :=
  match fm with
  | 0 =>
    match v with
    | .nan _ => (0, fNV)
    | .inf neg => (if neg then 0 else 255, 0)
    | .fin neg n d =>
      if neg then (0, 0)
      else if n ≥ d then (255, 0)
      else
        let k := (rint .rn ((255 * n : Nat) : Int) d).toNat
        (k, flagIf (k * d != 255 * n) fNX)
  | 1 => roundTo .f16 .rn v
  | _ => roundTo .f32 .rn v

/-- minimumNumber or maximumNumber of two values (09 R190). -/
def valMinMax (mx : Bool) (x y : Val) : Val := if x.isNaN then y else if y.isNaN then x else if x.ltZ y != mx then x else y

/-- One channel of a blend: exact value, and whether an invalid operation took part (11 R246): source and destination channel, source
alpha; an alpha channel is its own source alpha. -/
def blendChannel (op : Nat) (cs cd as : Val) (alpha : Bool) : Val × Bool :=
  let om := (Val.sum .rn [.fin false 1 1, as.negate]).1
  let onto (a b : Val) : Val × Bool :=
    let x := a.mul b
    let y := cd.mul om
    let z := Val.sum .rn [x.1, y.1]
    (z.1, x.2 || y.2 || z.2 || a.isSNaN || b.isSNaN || cd.isSNaN)
  match op with
  | 0 => (cs, cs.isSNaN)
  | 1 => if alpha then onto cs (.fin false 1 1) else onto cs as
  | 2 =>
    let r := onto cs (.fin false 1 1)
    (r.1, r.2 || as.isSNaN)
  | 3 =>
    let z := Val.sum .rn [cs, cd]
    (z.1, z.2 || cs.isSNaN || cd.isSNaN)
  | 4 => (valMinMax false cs cd, cs.isSNaN || cd.isSNaN)
  | _ => (valMinMax true cs cd, cs.isSNaN || cd.isSNaN)

/-- The pixel after a blend, and its flags (11 R246). -/
def blendPixel (op fm : Nat) (src : List Val) (old : Nat) : Nat × Flags :=
  let d := pixelDecode fm old
  let cw := 8 * pixelBytes fm / 4
  let a := src.getD 3 Val.zero
  (List.range 4).foldl (fun acc c =>
    let r := blendChannel op (src.getD c Val.zero) (d.getD c Val.zero) a (c == 3)
    let e := channelEncode fm r.1
    (acc.1 + e.1 * 2 ^ (cw * c), acc.2 ||| e.2 ||| flagIf r.2 fNV)) (0, 0)

/-- The key and number of a lane's implicit section (11 R245). -/
def blendKey (win : Nat) : Word := BitVec.ofNat 64 (winWord win 2 * 2 ^ 32 + winWord win 1)
def blendNumber (win : Nat) : BitVec 32 := BitVec.ofNat 32 (winWord win 3)

/-- An admitted lane updates its pixel and advances the key's number, in one step (11 R245, R246). -/
def State.blendCommit (s : State) (h : Hdr) (fm : Nat) (m : MacLane) (e : Rowan) : State :=
  let st := winWord m.win 0 % 65536
  let n := pixelBytes fm
  let s : State :=
    if st % 16 == 6 || s.curWave.helper.getLsbD m.lane then s
    else
      match s.localOr (winWord m.win 1) n with
      | .error _ => s
      | .ok (side, off) =>
        let src := (List.range 4).map (fun c => fdecode .f32 (winWord m.win (4 + c)))
        let r := blendPixel (st % 16) fm src (s.sideRead s.cur.team side off n)
        let s : State := s.sideWrite s.cur.team side off n r.1 (s.fenceTags m.lane)
        ((s.macFlags r.2).count 4 1).count 5 (b2n (bit st 4))
  let me : Waiter := { team := s.cur.team, wave := s.cur.wave, lane := m.lane }
  let s : State := s.rowanPut { e with next := if bit st 5 then 0 else e.next + 1, waiters := e.waiters.filter (· != me) }
  let s : State := s.updCur (fun w => w.updLanes (1#64 <<< m.lane) (fun _ ln => { ln with await := none, wait := .none }))
  s.setMac (m.stop 1 (some (s.nextPc h)))

/-- The waiters of an entry that await a number, oldest first. -/
def State.numberWaiters (s : State) (e : Rowan) (n : BitVec 32) : List Waiter :=
  e.waiters.filter (fun x => s.numberOf x == some n)

/-- Whether a running lane of a BLEND can do something now: ask for admission, or go through as the first waiter (11 R245). -/
def State.blendCan (s : State) (fm : Nat) (m : MacLane) : Bool :=
  let busy := match s.localOr (winWord m.win 1) (pixelBytes fm) with
    | .ok (side, off) => s.curWave.scratchBusy m.lane side off (pixelBytes fm)
    | .error _ => false
  m.running && !busy &&
  (match (s.curWave.lane m.lane).await with
    | none => true
    | some a => match (s.rowanFind s.curAsn true a.key).1 with
      | .entry e => e.next == a.number && (s.numberWaiters e a.number).head? == some { team := s.cur.team, wave := s.cur.wave, lane := m.lane }
      | .badImage => true
      | .none => true)

/-- The uncorrectable word of the pixel that a lane would read (18 R380). -/
def State.blendBad (s : State) (fm : Nat) (m : MacLane) : Option (Nat × Nat) :=
  if s.curWave.helper.getLsbD m.lane then none
  else match s.localOr (winWord m.win 1) (pixelBytes fm) with
    | .ok (side, off) => s.badSide s.cur.team side false off (pixelBytes fm)
    | .error _ => none

/-- One lane of a BLEND asks for admission, or is admitted (11 R245, 16 R351). -/
def State.blendLane (h : Hdr) (f : XFields) (s : State) (m : MacLane) : State :=
  let key := blendKey m.win
  let num := blendNumber m.win
  let me : Waiter := { team := s.cur.team, wave := s.cur.wave, lane := m.lane }
  let waiting := (s.curWave.lane m.lane).await.isSome
  match s.rowanEntry s.curAsn true key with
  | (.error r, s) => s.setMac { m with trap := some (rowanTrap s.curAsn r key) }
  | (.ok e, s) =>
    if e.next == num && (waiting || (s.numberWaiters e num).isEmpty) then
      match s.blendBad f.var.toNat m with
      | some (st, ix) => (s.engineRecord s.curTeam.launch st ix).setMac { m with trap := some (hwerrTrap st ix) }
      | none => s.blendCommit h f.var.toNat m e
    else
      let a : Await := { key := key, number := num, space := true, len := 8, group := 0 }
      let s : State := s.rowanPut { e with waiters := e.waiters.filter (· != me) ++ [me] }
      s.updCur (fun w => w.updLanes (1#64 <<< m.lane) (fun _ ln => { ln with await := some a, wait := .blend }))

/-- The next step of a BLEND; when every lane waits, none. -/
def State.blendStep (h : Hdr) (f : XFields) (s : State) (_m : MacLane) : State :=
  let s : State := s.performSome s.curRef (ofLanes s.cur.mask)
  match s.macLanes.find? (s.blendCan f.var.toNat) with
  | none => s.blockIssue
  | some m => s.blendLane h f m

def blendForm (f : XFields) : MacForm := { reg := f.w.toNat, scalar := false, kind := 7, words := fun m => if m.trap.isSome then [] else [0] }

/-- BLEND (11 R244 to R246). -/
def execBlend (h : Hdr) (f : XFields) (s : State) : Res :=
  let fm := f.var.toNat
  let ws := s.windows (s.part h) f.w.toNat 8
  if s.begun then .next (s.macroTick h (blendForm f) (State.blendStep h f))
  else if s.part h == 0 then .next ((s.finish h).endRun)
  else
    match (signatureTrap 0x42 ws).or (s.blendTrap (pixelBytes fm) ws) with
    | some t => .next (s.trap h t)
    | none =>
      match ws.findSome? (fun p => match s.localOr (winWord p.2 1) (pixelBytes fm) with
          | .ok (side, off) => s.badSide s.cur.team side false off (pixelBytes fm)
          | .error _ => none) with
      | some (st, ix) => .next (s.hwerr h st ix)
      | none => .next (s.always.begin (.blend h f) h (s.part h) (ws.map MacLane.start) [])

/-! ### BIN -/

/-- The bins that a lane's bounds meet, by-major (11 R238). -/
def binList (b : BinSet) (win : Nat) : List (Nat × Nat) :=
  let xs := (List.range 3).map (fun k => winInt win (2 + 2 * k))
  let ys := (List.range 3).map (fun k => winInt win (3 + 2 * k))
  let lo (l : List Int) : Int := max 0 (Int.fdiv (l.foldl min (l.getD 0 0)) 16384)
  let hi (l : List Int) (n : Nat) : Int := min ((n : Int) - 1) (Int.fdiv (l.foldl max (l.getD 0 0)) 16384)
  let span (l : List Int) (n : Nat) : List Nat := (List.range n).filter (fun k => decide (lo l ≤ (k : Int)) && decide ((k : Int) ≤ hi l n))
  (span ys b.bh).flatMap (fun y => (span xs b.bw).map (fun x => (x, y)))

/-- The 64-byte record of a lane for a bin (11 R238). -/
def binRecord (win bx by' : Nat) : Nat :=
  winWord win 1 + (bx + by' * 65536) * 2 ^ 32 + win / 2 ^ 64 % 2 ^ 448 * 2 ^ 64

/-- One step of a BIN: a push of its first running lane, or that lane's end (11 R238). Of NEXT, STATE holds the low 16 bits (log
entry 59, DESIGN CHOICE). -/
def State.binStep (h : Hdr) (b : BinSet) (s : State) (m : MacLane) : State :=
  let l := binList b m.win
  match l[m.next]? with
  | none =>
    let m : MacLane := if l.isEmpty then { m with win := setBits m.win 15 0 0 } else m
    (s.count 0 (b2n (!l.isEmpty && m.next != 0))).setMac (m.stop 1 (some (s.nextPc h)))
  | some (bx, by') =>
    let q := b.queue bx by'
    let s : State := s.performSome s.curRef (ofLanes (1#64 <<< m.lane))
    let core := s.curWave.core
    if !s.curWave.performed (ofLanes (1#64 <<< m.lane)) || s.engineWrites s.curRef s.curWave then s.blockIssue
    else
      match s.macXlate q Need.write (fun t => t != .io) with
      | (.wait, s) => s
      | (.bad w, s) => s.macHwerr m.lane 6 w
      | (.trap t, s) => s.macroProtect m.lane t
      | (.fault r l, s) => s.macroFault m.lane q r l
      | (.ok hx, s) =>
        match s.badWord core (hx.mtype == .cached) hx.pa 16 with
        | some (st, ix) => s.macHwerr m.lane st ix
        | none =>
          let y := s.homeLoad hx 16
          if queueFull y.1 b.cap then y.2.blockIssue
          else
            match y.2.macXlate (slotVa q y.1 b.cap) Need.write (fun t => t != .io) with
            | (.wait, s) => s
            | (.bad w, s) => s.macHwerr m.lane 6 w
            | (.trap t, s) => s.macroProtect m.lane t
            | (.fault r l, s) => s.macroFault m.lane (slotVa q y.1 b.cap) r l
            | (.ok sx, s) => s.macRelease (fun s =>
              let s : State := (s.pushSlot m.lane hx sx y.1 (binRecord m.win bx by')).count 1 1
              let m : MacLane := { m with win := setBits m.win 15 0 (m.next + 1), next := m.next + 1 }
              if m.next ≥ l.length then (s.count 0 1).setMac (m.stop 1 (some (s.nextPc h))) else s.setMac m)

/-- The descriptor of a BIN in progress. -/
def State.binSet (s : State) : BinSet := binSetOf (((s.curWave.prog.map (·.data)).getD []).getD 0 0)
def binForm (f : XFields) : MacForm := { reg := f.w.toNat, scalar := false, kind := 7, words := fun _ => [0] }
/-- The next step of a BIN in progress. -/
def State.binTick (s : State) (h : Hdr) (f : XFields) : State := s.macroTick h (binForm f) (State.binStep h s.binSet)

/-- Windows of lanes that stop with FAULT before any lane acts (11 R238). -/
def State.faultWindows (s : State) (r : WaveRef) (m : BitVec 64) (reg : Nat) : State :=
  match s.wave? r with
  | none => s
  | some w =>
    match w.park with
    | .faults _ _ => s.updWave r (fun w => { w.updLanes m (fun _ ln => ln.setV reg (setBits (ln.vr reg) 23 16 2)) with runEnd := true })
    | _ => s

/-- BIN (11 R238). -/
def execBin (h : Hdr) (f : XFields) (s : State) : Res :=
  let i := Instr.bin h f
  let act := s.part h &&& ~~~ s.curWave.helper
  if s.begun then .next (s.binTick h f)
  else
    match signatureTrap 0x49 (s.windows (s.part h) f.w.toNat 1) with
    | some t => .next (s.trap h t)
    | none =>
      match s.windows act f.w.toNat 16 with
      | [] => .next ((s.finish h).endRun)
      | p :: ps =>
        let va := s.curWave.spair f.a.toNat
        let bad := macroTrap mBINSET p.1 (winWord p.2 0)
        if va % 64 != 0 then .next (s.trapLanes h act bad)
        else
          match s.memCheck i h act [{ lane := p.1, va := va }] 0 Need.read 6 (fun t => t != .io) with
          | .stop s' => .next (s'.faultWindows s.curRef act f.w.toNat)
          | .ok s xs =>
            match xs with
            | [] => .next s
            | x :: _ =>
              match s.badWord s.curWave.core (x.mtype == .cached) x.pa 64 with
              | some (st, ix) => .next (s.hwerr h st ix)
              | none =>
                if s.readBusy s.curRef p.1 x.mtype x.pa 64 then .next s.blockWave
                else
                  let y := s.macRead p.1 x 64
                  if (binSetOf y.1).bad y.1 then .next (y.2.trapLanes h act bad)
                  else .next (y.2.always.begin i h act ((p :: ps).map MacLane.startBin) [y.1])

/-- BIN_QUEUE_PUSH (11 R238): the BIN in progress of a wave takes its next step. -/
def execBinQueuePush (r : WaveRef) (s : State) : Res :=
  match (s.wave? r).bind (·.prog) with
  | some p =>
    match p.instr with
    | .bin h f => if p.begun then .next (({ s with cur := { team := r.team, wave := r.wave, mask := p.mask, pc := p.pc, blocked := false } } : State).binTick h f) else .next s
    | _ => .next s
  | none => .next s

/-! ### MCALL -/

def State.mcImage (s : State) (slot : Nat) : Option Microcode := s.micro.find? (fun m => m.slot == slot)

/-- Whether an MCALL operand agrees with its declared kind (11 R235, R236). -/
def mcOperandOk (kind idx vregs : Nat) : Bool :=
  match kind with
  | 0 => idx == 0
  | 1 => decide (idx < vregs)
  | _ => decide (idx < 192)

/-- The checks of MCALL (11 R236). -/
def State.mcallTrap (s : State) (f : XFields) (img : Option Microcode) (ws : List (Nat × Nat)) : Option TrapInfo :=
  match ws with
  | [] => none
  | p :: _ =>
    let hdr := winWord p.2 0
    match img with
    | none => some (macroTrap mEMPTYSLOT p.1 hdr)
    | some m =>
      if !(mcOperandOk m.akind f.a.toNat s.curTeam.vregs && mcOperandOk m.bkind f.b.toNat s.curTeam.vregs) then some (macroTrap mOPERAND p.1 hdr)
      else if f.w.toNat + m.wsize > s.curTeam.vregs then some (macroTrap mWINDOW p.1 hdr)
      else (signatureTrap (0x80 + f.var.toNat) ws).or
        ((ws.find? (fun q => bits (winWord q.2 0) 15 8 != m.rev)).map (fun q => macroTrap mREVISION q.1 (winWord q.2 0)))

/-- The reasons with which microcode may end a lane, DONE first (11 R228, R235). -/
def Microcode.ends (img : Microcode) : List Nat := 1 :: (List.range 256).filter (fun r => bit img.rsnmap r && !bit img.cbmap r)

/-- What a lane's microcode leaves: window words and reason that nothing constrains but 11 R235 (log entry 11); a reason that the
image does not declare traps WINDOW; with CBOFF13 zero, where no callback reason may stand, an end reason takes its place (11 R228). -/
def State.mcallLane (h : Hdr) (f : XFields) (img : Microcode) (s : State) (m : MacLane) : State :=
  let q := s.takeFree
  let s : State := q.2
  let r0 := Config.microcodeReason img.slot q.1
  let r := if decide (r0 < 256) && bit img.cbmap r0 && f.cboff == 0 then img.ends.getD (q.1 % img.ends.length) 1 else r0
  let fresh (k : Nat) : Nat := (Config.microcodeWord img.slot q.1 m.lane k).toNat
  let hdr := winWord m.win 0 / 256 * 256 + fresh 0 % 256
  let win := (List.range (img.wsize - 1)).foldl (fun a k => setWin a (k + 1) (fresh (k + 1))) (setWin m.win 0 hdr)
  let m : MacLane := { m with win := win }
  if r == 1 then s.setMac (m.stop 1 (some (s.nextPc h)))
  else if decide (r < 256) && bit img.rsnmap r then
    s.setMac (m.stop r (some (if bit img.cbmap r then s.callback f else s.nextPc h)))
  else s.setMac { m with trap := some (macroTrap mWINDOW m.lane hdr) }

/-- What a stop of MCALL writes: the whole window of a lane that its microcode has left, the header of one cut by SLICE. -/
def mcallForm (f : XFields) (n : Nat) : MacForm :=
  { reg := f.w.toNat, scalar := false, kind := 6, words := fun m => if m.reason == 3 then [0] else List.range n }
/-- The window size of a slot's image. -/
def State.mcSize (s : State) (slot : Nat) : Nat := match s.mcImage slot with | some m => m.wsize | none => 4

/-- MCALL (11 R234 to R236). -/
def execMcall (h : Hdr) (f : XFields) (s : State) : Res :=
  let slot := f.var.toNat
  let img := s.mcImage slot
  let n := s.mcSize slot
  let form := mcallForm f n
  let ws := s.windows (s.part h) f.w.toNat n
  if s.begun then
    match img with
    | some m => .next (s.macroTick h form (State.mcallLane h f m))
    | none => .next (s.macroFinish h form)
  else if s.part h == 0 then .next ((s.finish h).endRun)
  else
    match s.mcallTrap f img ws with
    | some t => .next (s.trap h t)
    | none => .next (s.begin (.mcall h f) h (s.part h) (ws.map MacLane.start) [])

end Sys2Proof.Machine
end

