-- ==== Sys2Proof/Machine/Geometry.lean ====
section
/-! DEFINITION. Exact geometry of TRAV: rationals, rays, the slab, triangle and voxel tests (12 R259 to R261). -/

namespace Sys2Proof.Machine

/-- An exact fraction: numerator and positive denominator. -/
abbrev Frac := Int × Nat

def fracOf (v : Val) : Option Frac :=
  match v with
  | .fin _ _ _ => some (v.snum, v.sden)
  | _ => none
/-- The fraction of an F32 code; none: a NaN or an infinity. -/
def fracF32 (code : Nat) : Option Frac := fracOf (fdecode .f32 (code % 2 ^ 32))
def fracVal (x : Frac) : Val := .fin (decide (x.1 < 0)) x.1.natAbs x.2
def fracInt (n : Int) : Frac := (n, 1)
def fracSub (a b : Frac) : Frac := addFrac a (-b.1, b.2)
def fracMul (a b : Frac) : Frac := (a.1 * b.1, a.2 * b.2)
/-- a / b, for b not zero. -/
def fracDiv (a b : Frac) : Frac := if b.1 < 0 then (-(a.1 * b.2), a.2 * b.1.natAbs) else (a.1 * b.2, a.2 * b.1.natAbs)
def fracLt (a b : Frac) : Bool := decide (a.1 * b.2 < b.1 * a.2)
def fracLe (a b : Frac) : Bool := decide (a.1 * b.2 ≤ b.1 * a.2)
def fracMin (a b : Frac) : Frac := if fracLt b a then b else a
def fracMax (a b : Frac) : Frac := if fracLt a b then b else a
/-- x × 2^e. -/
def fracScale (x : Frac) (e : Int) : Frac := if e < 0 then (x.1, x.2 * 2 ^ (-e).toNat) else (x.1 * (2 ^ e.toNat : Nat), x.2)
/-- rint(32,768 x, RN) (12 R260). -/
def fracN16 (x : Frac) : Nat := (rint .rn (x.1 * 32768) x.2).toNat
/-- round_to(F32, RN, x). -/
def fracRound (x : Frac) : Nat := (roundTo .f32 .rn (fracVal x)).1
/-- The flags of these two roundings (07 R138, R144). -/
def fracFlags (x : Frac) : Flags := (roundTo .f32 .rn (fracVal x)).2
def fracN16Flags (x : Frac) : Flags := flagIf (x.1 * 32768 % (x.2 : Int) != 0) fNX

/-- A point or direction. -/
structure V3 where
  x : Frac
  y : Frac
  z : Frac
  deriving DecidableEq, Repr

def V3.get (v : V3) (a : Nat) : Frac := match a with | 0 => v.x | 1 => v.y | _ => v.z
def V3.sub (a b : V3) : V3 := { x := fracSub a.x b.x, y := fracSub a.y b.y, z := fracSub a.z b.z }
def V3.dot (a b : V3) : Frac := addFrac (addFrac (fracMul a.x b.x) (fracMul a.y b.y)) (fracMul a.z b.z)
def V3.cross (a b : V3) : V3 :=
  { x := fracSub (fracMul a.y b.z) (fracMul a.z b.y), y := fracSub (fracMul a.z b.x) (fracMul a.x b.z),
    z := fracSub (fracMul a.x b.y) (fracMul a.y b.x) }
def V3.isZero (v : V3) : Bool := v.x.1 == 0 && v.y.1 == 0 && v.z.1 == 0
/-- Three F32 codes in the low 96 bits. -/
def v3Of (x : Nat) : Option V3 :=
  match fracF32 x, fracF32 (x / 2 ^ 32), fracF32 (x / 2 ^ 64) with
  | some a, some b, some c => some { x := a, y := b, z := c }
  | _, _, _ => none

/-- A ray of a structure, and the interval of t. -/
structure Ray where
  o : V3
  d : V3
  tmin : Val
  tmax : Val

def valMax (a b : Val) : Val := if a.ltB b then b else a
def valMin (a b : Val) : Val := if b.ltB a then b else a

/-- The slab test: te, or none for a miss (12 R259). -/
def Ray.slab (r : Ray) (lo hi : V3) : Option Val :=
  let q := (List.range 3).foldl (fun (acc : Option (Val × Val)) a =>
    match acc with
    | none => none
    | some (te, tx) =>
      let o := r.o.get a
      let d := r.d.get a
      if d.1 == 0 then (if fracLe (lo.get a) o && fracLe o (hi.get a) then some (te, tx) else none)
      else
        let t1 := fracDiv (fracSub (lo.get a) o) d
        let t2 := fracDiv (fracSub (hi.get a) o) d
        some (valMax te (fracVal (fracMin t1 t2)), valMin tx (fracVal (fracMax t1 t2)))) (some (r.tmin, r.tmax))
  match q with
  | some (te, tx) => if te.leB tx then some te else none
  | none => none

/-- The triangle test: t, u and v (12 R260). -/
def Ray.triangle (r : Ray) (v0 v1 v2 : V3) (cull : Bool) : Option (Frac × Frac × Frac) :=
  let e1 := v1.sub v0
  let e2 := v2.sub v0
  let p := r.d.cross e2
  let det := e1.dot p
  let t' := r.o.sub v0
  let q := t'.cross e1
  if det.1 == 0 || (cull && decide (det.1 < 0)) then none
  else
    let u := fracDiv (t'.dot p) det
    let v := fracDiv (r.d.dot q) det
    let t := fracDiv (e2.dot q) det
    let tv := fracVal t
    if decide (u.1 < 0) || decide (v.1 < 0) || fracLt (1, 1) (addFrac u v) || !(r.tmin.leB tv && tv.ltB r.tmax) then none
    else some (t, u, v)

/-! ### Bricks (12 R252, R261) -/

structure Brick where
  origin : V3
  size : Frac
  occ : Nat

/-- The corner of voxel (x, y, z). -/
def Brick.corner (b : Brick) (x y z : Nat) : V3 :=
  let at' (o : Frac) (k : Nat) : Frac := addFrac o (fracMul (k, 1) b.size)
  { x := at' b.origin.x x, y := at' b.origin.y y, z := at' b.origin.z z }

/-- Entry of the ray into the grid and the first voxel (12 R261). -/
def Brick.enter (b : Brick) (r : Ray) : Option (Frac × Nat) :=
  match (r.slab (b.corner 0 0 0) (b.corner 8 8 8)).bind fracOf with
  | none => none
  | some t0 =>
    let vox (a : Nat) : Nat :=
      let p := fracDiv (fracSub (addFrac (r.o.get a) (fracMul t0 (r.d.get a))) (b.origin.get a)) b.size
      (max 0 (min 7 (Int.fdiv p.1 p.2))).toNat
    some (t0, vox 0 + 8 * vox 1 + 64 * vox 2)

/-- The faces of a voxel on an axis, and its exact t entry and exit there; none: the ray does not move on that axis. -/
def Brick.span (b : Brick) (r : Ray) (v a : Nat) : Option (Frac × Frac) :=
  let k := v / 8 ^ a % 8
  let d := r.d.get a
  if d.1 == 0 then none
  else
    let at' (k : Nat) : Frac := fracDiv (fracSub (addFrac (b.origin.get a) (fracMul (k, 1) b.size)) (r.o.get a)) d
    some (fracMin (at' k) (at' (k + 1)), fracMax (at' k) (at' (k + 1)))

/-- The exact t at which the ray enters a voxel: t0 for the first one (12 R261). -/
def Brick.tAt (b : Brick) (r : Ray) (t0 : Frac) (first v : Nat) : Frac :=
  if v == first then t0
  else
    match (List.range 3).filterMap (fun a => (b.span r v a).map (·.1)) with
    | [] => t0
    | x :: l => l.foldl fracMax x

/-- The neighbour across the face with the least exit t, x before y before z; none: it leaves the grid (12 R261). -/
def Brick.move (b : Brick) (r : Ray) (v : Nat) : Option Nat :=
  let es := (List.range 3).filterMap (fun a => (b.span r v a).map (fun q => (a, q.2)))
  match es with
  | [] => none
  | x :: l =>
    let a := (l.foldl (fun m y => if fracLt y.2 m.2 then y else m) x).1
    let k := v / 8 ^ a % 8
    if (r.d.get a).1 < 0 then (if k == 0 then none else some (v - 8 ^ a))
    else (if k == 7 then none else some (v + 8 ^ a))

end Sys2Proof.Machine
end

