-- ==== Sys2Proof/Machine/Trav.lean ====
section
/-! DEFINITION. TRAV (12 R248 to R267): node formats, the window, the walk. -/

namespace Sys2Proof.Machine

/-! ### Reading -/

/-- The pieces of a byte range, one for each 64-byte line. -/
def linePieces (va n : Nat) : List (Nat × Nat) :=
  if n == 0 then []
  else (List.range ((va + n - 1) / 64 - va / 64 + 1)).map (fun j =>
    let lo := max va ((va / 64 + j) * 64)
    (lo, min (va + n) ((va / 64 + j + 1) * 64) - lo))

/-- Read pieces for lane `l` of a macro, then go on with the number they hold; a failure stops the lane before the step (12 R267). -/
def State.macPieces (s : State) (l : Nat) (typeOk : MType → Bool) : List (Nat × Nat) → Nat → Nat → (Nat → State → State) → State
  | [], acc, _, k => k acc s
  | (va, n) :: r, acc, sh, k =>
    match s.macXlate va Need.read typeOk with
    | (.wait, s) => s
    | (.bad w, s) => s.macHwerr l 6 w
    | (.trap t, s) => s.macroProtect l t
    | (.fault c lv, s) => s.macroFault l va c lv
    | (.ok x, s) =>
      match s.badWord s.curWave.core (x.mtype == .cached) x.pa n with
      | some (st, ix) => s.macHwerr l st ix
      | none =>
        if s.readBusy s.curRef l x.mtype x.pa n then s.blockWave
        else
          let y := s.macRead l x n
          State.macPieces y.2 l typeOk r (acc + y.1 * 256 ^ sh) (sh + n) k

/-- The types that a read of `n` bytes at an address may meet: IO allows aligned accesses of 4 and 8 bytes (04 R75). -/
def readType (va n : Nat) (t : MType) : Bool := t != .io || ((n == 4 || n == 8) && va % n == 0)

/-- Read `n` bytes at an address (12 R266). -/
def State.macGet (s : State) (l va n : Nat) (k : Nat → State → State) : State := s.macPieces l (readType va n) (linePieces va n) 0 0 k

/-! ### References and the window (12 R248, R255) -/

def refType (r : Nat) : Nat := bits r 30 28
def refLevel (r : Nat) : Nat := bits r 31 31
def refOff (r : Nat) : Nat := r % 2 ^ 28
/-- A stored reference at a level (12 R248). -/
def refAt (r lvl : Nat) : Nat := r % 2 ^ 31 + lvl * 2 ^ 31
def refMake (type lvl off : Nat) : Nat := lvl * 2 ^ 31 + type * 2 ^ 28 + off
/-- Types that CUR and stack entries must not have (12 R256). -/
def refBad (r : Nat) : Bool := refType r == 0 || decide (refType r ≥ 6)

def tvPd (w : Nat) : Nat := bits w 12 8
def tvSp (w : Nat) : Nat := bits w 7 4
def tvNext (w : Nat) : Nat := bits w 2 0
def tvHit (w : Nat) : Bool := bit w 15
def tvAcc (w : Nat) : Bool := bit w 14
def tvPend (w : Nat) : Bool := bit w 13
def tvDda (w : Nat) : Bool := bit w 3
def tvCur (w : Nat) : Nat := winWord w 12
def tvInst (w : Nat) : Nat := winWord w 13
def tvRoot (w : Nat) : Nat := winWord w 10 + winWord w 11 * 2 ^ 32
def tvStack (w i : Nat) : Nat := winWord w (14 + i)
/-- Parent depth and index of stack entry `i`. -/
def tvMeta (w i : Nat) : Nat × Nat := (bits w (32 * 22 + 8 * i + 4) (32 * 22 + 8 * i), bits w (32 * 22 + 8 * i + 7) (32 * 22 + 8 * i + 5))
def tvTrail (w d : Nat) : Nat := bits w (32 * 24 + 3 * d + 2) (32 * 24 + 3 * d)
def tvDropped (w : Nat) : Bool := bit w (32 * 24 + 63)
def tvWalk (w : Nat) : Bool := bit w (32 * 31 + 31)
def tvWalkd (w : Nat) : Nat := bits w (32 * 31 + 20) (32 * 31 + 16)
def tvVox (w : Nat) : Nat := bits w (32 * 31 + 8) (32 * 31)
def setTrail (w d j : Nat) : Nat := setBits w (32 * 24 + 3 * d + 2) (32 * 24 + 3 * d) j
def setDropped (w : Nat) (b : Bool) : Nat := setBits w (32 * 24 + 63) (32 * 24 + 63) (b2n b)
def setWalk (w : Nat) (b : Bool) : Nat := setBits w (32 * 31 + 31) (32 * 31 + 31) (b2n b)
def setWalkd (w d : Nat) : Nat := setBits w (32 * 31 + 20) (32 * 31 + 16) d
def setVox (w v : Nat) : Nat := setBits w (32 * 31 + 8) (32 * 31) v
def setNext (w n : Nat) : Nat := setBits w 2 0 n
def setPd (w d : Nat) : Nat := setBits w 12 8 d
def setDda (w : Nat) (b : Bool) : Nat := setBits w 3 3 (b2n b)

/-- The window checks of TRAV (12 R256). -/
def travBad (w : Nat) : Bool :=
  let sp := tvSp w
  winWord w 9 / 2 ^ 18 != 0 || bits (tvRoot w) 5 3 != 0 || bits w (32 * 24 + 62) (32 * 24 + 60) != 0 ||
  bits (winWord w 31) 30 21 != 0 || bits (winWord w 31) 15 9 != 0 ||
  decide (tvPd w > 20) || decide (sp > 8) || decide (tvNext w > 4) || refBad (tvCur w) ||
  (List.range sp).any (fun i => refBad (tvStack w i) || decide ((tvMeta w i).1 > 19) || (tvMeta w i).2 == 0) ||
  !canonical (tvRoot w) || tvRoot w % 8 == 0 || decide (tvRoot w % 8 ≥ 6) ||
  (tvPend w && refType (tvCur w) != 3) || (tvDda w && refType (tvCur w) != 4) || (tvWalk w && decide (tvWalkd w ≥ tvPd w))

/-- A push (12 R263). -/
def travPush (w ref d j : Nat) : Nat :=
  let w := if tvSp w == 8 then
      let w' := (List.range 7).foldl (fun a i => setWin a (14 + i) (tvStack w (i + 1))) w
      let w' := setWin (setWin w' 22 ((winWord w 22 + winWord w 23 * 2 ^ 32) / 256 % 2 ^ 32)) 23 ((winWord w 22 + winWord w 23 * 2 ^ 32) / 256 / 2 ^ 32)
      setBits (setDropped w' true) 7 4 7
    else w
  let i := tvSp w
  let w := setWin w (14 + i) ref
  let w := setBits w (32 * 22 + 8 * i + 7) (32 * 22 + 8 * i) (d + 32 * j)
  setBits w 7 4 (i + 1)

/-- Push L[j] for j from |L| − 1 down to `lo`. -/
def travPushAll (w : Nat) (l : List Nat) (lo d : Nat) : Nat :=
  ((List.range l.length).filter (fun j => decide (lo ≤ j))).reverse.foldl (fun w j => travPush w (l.getD j 0) d j) w

/-- A pop: the new window, or the reason with which the lane ends (12 R263). -/
def travPop (w : Nat) : Except Nat Nat :=
  let sp := tvSp w
  if sp > 0 then
    let i := sp - 1
    let ref := tvStack w i
    let d := (tvMeta w i).1
    let w' := setTrail (setBits w 7 4 i) d (tvMeta w i).2
    let w' := ((List.range 20).filter (fun e => decide (e > d))).foldl (fun a e => setTrail a e 0) w'
    let w' := setDda (setNext (setWin (setPd w' (d + 1)) 12 ref) 0) false
    .ok (if refLevel ref == 0 then setWin w' 13 0 else w')
  else if tvDropped w then
    .ok (setWin (setWin (setWalkd (setWalk (setDropped w false) true) 0) 12 (refMake (tvRoot w % 8) 0 0)) 13 0)
  else .error (if tvHit w then 16 else 17)

/-- Commit a hit (12 R262). -/
def travCommit (w t uv prim kind : Nat) : Nat :=
  let w' := setWin (setWin (setWin (setWin w 8 t) 26 uv) 27 (tvCur w)) 28 (tvInst w)
  setBits (setBits w' (32 * 9 + 17) (32 * 9 + 8) (kind * 512 + prim)) 15 15 1

/-! ### Nodes -/

/-- A malformed instance node (12 R250, R254). -/
def instBad (n : Nat) : Bool := bits n 479 456 != 0 || bits n 389 387 != 0 || !([1, 3, 4, 5].elem (bits n 386 384))
/-- The base of an instance's bottom structure, and its root's reference. -/
def instBase (n : Nat) : Nat := bits n 447 390 * 64
def instRoot (n : Nat) : Nat := refMake (bits n 386 384) 1 0

/-- The ray of the top level; none: every test would miss (12 R256, R259). -/
def topRay (w : Nat) : Option Ray :=
  match v3Of (w / 2 ^ 32), v3Of (w / 2 ^ 128) with
  | some o, some d => if d.isZero then none else some { o := o, d := d, tmin := fdecode .f32 (winWord w 7), tmax := fdecode .f32 (winWord w 8) }
  | _, _ => none

/-- The ray of a bottom structure, and the flags of its roundings (12 R259, 07 R143, R144). -/
def instRay (w n : Nat) : Option Ray × Flags :=
  let mt (r c : Nat) : Val := fdecode .f32 (n / 2 ^ (32 * (4 * r + c)) % 2 ^ 32)
  let o (k : Nat) : Val := fdecode .f32 (winWord w (1 + k))
  let d (k : Nat) : Val := fdecode .f32 (winWord w (4 + k))
  let sum (ps : List (Val × Bool)) : Nat × Flags :=
    let z := Val.sum .rn (ps.map (·.1))
    let y := roundTo .f32 .rn z.1
    (y.1, y.2 ||| flagIf (z.2 || ps.any (·.2)) fNV)
  let row (r : Nat) (v : Nat → Val) : List (Val × Bool) := (List.range 3).map (fun k =>
    let y := (mt r k).mul (v k)
    (y.1, y.2 || (mt r k).isSNaN || (v k).isSNaN))
  let po := (List.range 3).map (fun r => sum (row r o ++ [(mt r 3, (mt r 3).isSNaN)]))
  let pd := (List.range 3).map (fun r => sum (row r d))
  let pack (l : List (Nat × Flags)) : Nat := leNat (l.flatMap (fun x => leBytes 4 x.1))
  (match v3Of (pack po), v3Of (pack pd) with
    | some o, some d => if d.isZero then none else some { o := o, d := d, tmin := fdecode .f32 (winWord w 7), tmax := fdecode .f32 (winWord w 8) }
    | _, _ => none,
    (po ++ pd).foldl (fun a x => a ||| x.2) 0)

/-- The lane ends. -/
def State.macEnd (s : State) (h : Hdr) (m : MacLane) (reason : Nat) : State := s.setMac (m.stop reason (some (s.nextPc h)))

/-- The instance node that a reference names, read once for each issue and lane (12 R259). -/
def State.instGet (s : State) (m : MacLane) (ref : Nat) (k : Nat → State → State) : State :=
  let tag := (m.lane + 1) * 2 ^ 544 + ref * 2 ^ 512
  let data := (s.curWave.prog.map (·.data)).getD []
  match data.find? (fun x => x / 2 ^ 512 * 2 ^ 512 == tag) with
  | some x => k (x % 2 ^ 512) s
  | none => s.macGet m.lane (tvRoot m.win / 64 * 64 + 64 * refOff ref) 64 (fun n s =>
      k n (s.updCur (fun w => { w with prog := w.prog.map (fun p => { p with
        data := p.data.filter (fun x => x / 2 ^ 544 != m.lane + 1) ++ [tag + n] }) })))

/-- The base and the ray of the structure of a level (12 R248, R259). -/
def State.structGet (s : State) (h : Hdr) (m : MacLane) (lvl : Nat) (k : Nat → Option Ray → State → State) : State :=
  if lvl == 0 then k (tvRoot m.win / 64 * 64) (topRay m.win) s
  else s.instGet m (tvInst m.win) (fun n s =>
    if instBad n then s.macEnd h { m with win := setWin m.win 12 (tvInst m.win) } 20
    else
      let r := instRay m.win n
      k (instBase n) r.1 (s.macFlags r.2))

/-- The child list of a box node; none: malformed (12 R249, R254, R259). -/
def boxList (n lvl : Nat) (ray : Option Ray) : Option (List Nat) :=
  let child (j : Nat) : Nat := bits n (512 + 32 * j + 31) (512 + 32 * j)
  let q (j b : Nat) : Nat := bits n (128 + 48 * j + 8 * b + 7) (128 + 48 * j + 8 * b)
  let js := (List.range 8).filter (fun j => refType (child j) != 0)
  let bad := bits n 127 120 != 0 || js.any (fun j => decide (refType (child j) ≥ 6) || (lvl == 1 && refType (child j) == 2) ||
    (List.range 3).any (fun a => decide (q j a > q j (a + 3))))
  match v3Of n with
  | none => none
  | some o =>
    if bad then none
    else
      match ray with
      | none => some []
      | some r =>
        let at' (a v : Nat) : Frac := addFrac (o.get a) (fracScale (v, 1) (toSigned 8 (bits n (103 + 8 * a) (96 + 8 * a))))
        let corner (j b : Nat) : V3 := { x := at' 0 (q j b), y := at' 1 (q j (b + 1)), z := at' 2 (q j (b + 2)) }
        let hits := js.filterMap (fun j => (r.slab (corner j 0) (corner j 3)).map (fun te => (te, refAt (child j) lvl)))
        some ((sortBy (fun (a b : Val × Nat) => a.1.ltB b.1) hits).map (·.2))

/-- The list L of a node; the lane ends BADNODE when it is malformed (12 R259, R264). -/
def State.travList (s : State) (h : Hdr) (m : MacLane) (k : List Nat → State → State) : State :=
  let cur := tvCur m.win
  let lvl := refLevel cur
  match refType cur with
  | 1 => s.structGet h m lvl (fun base ray s => s.macGet m.lane (base + 64 * refOff cur) 128 (fun n s =>
      match boxList n lvl ray with
      | none => s.macEnd h m 20
      | some l => k l s))
  | 2 =>
    if lvl == 1 then s.macEnd h m 20
    else s.instGet m cur (fun n s =>
      if instBad n then s.macEnd h m 20
      else k (if bits n 455 448 &&& winWord m.win 9 % 256 == 0 then [] else [instRoot n]) s)
  | _ => k [] s

/-- Keep a lane running with a new window. -/
def State.macWin (s : State) (m : MacLane) (win : Nat) : State := s.setMac { m with win := win }
/-- Pop, or end. -/
def State.travPopLane (s : State) (h : Hdr) (m : MacLane) (win : Nat) : State :=
  match travPop win with
  | .ok w => s.macWin m w
  | .error r => s.macEnd h { m with win := win } r

/-- Descend to L[0] or L[k]: CUR, and INST when an instance is entered. -/
def travDescend (w ref : Nat) : Nat :=
  setWin (if refType (tvCur w) == 2 then setWin w 13 (tvCur w) else w) 12 ref

/-- The publication word of an unbuilt node, read as a device-scope acquire, then the published reference (none: unpublished); the lane
ends BADNODE when node or word is malformed (12 R253, R266). -/
def State.pubGet (s : State) (h : Hdr) (m : MacLane) (k : Nat → Option Nat → State → State) : State :=
  let cur := tvCur m.win
  let lvl := refLevel cur
  s.structGet h m lvl (fun base _ s =>
    let node := base + 64 * refOff cur
    s.macGet m.lane node 16 (fun n s =>
      let pub := bits n 127 64
      if bits n 63 32 != 0 || pub % 8 != 0 then s.macEnd h m 20
      else
        match s.macXlate pub Need.read (fun _ => true) with
        | (.wait, s) => s
        | (.bad w, s) => s.macHwerr m.lane 6 w
        | (.trap t, s) => s.macroProtect m.lane t
        | (.fault c lv, s) => s.macroFault m.lane pub c lv
        | (.ok x, s) =>
          let core := s.curWave.core
          match s.badWord core (x.mtype == .cached) x.pa 8 with
          | some (st, ix) => s.macHwerr m.lane st ix
          | none =>
            if s.readBusy s.curRef m.lane x.mtype x.pa 8 then s.blockWave
            else
              let s : State := if s.isDev x.pa then s.record [(x.pa, 8)] else s
              let y := if x.mtype == .io then (s.devRead x.pa 8, s) else s.homeLoad x 8
              let ts := y.2.relsIn x.pa 8
              let s : State := ((y.2.meet m.lane ts).macFlags (missFlag ts s.cur.team s.curWave.id core 5)).discardClean core
              let v := y.1
              if v == 0 then k node none s
              else
                let a := v / 64 * 64
                if bits v 5 3 != 0 || v % 8 == 0 || decide (v % 8 > 5) || (lvl == 1 && v % 8 == 2) || decide (a < base) || decide ((a - base) / 64 ≥ 2 ^ 28) then
                  s.macEnd h m 20
                else k node (some (refMake (v % 8) lvl ((a - base) / 64))) s))

/-! ### Steps -/

/-- A walk step (12 R264); when it ends, WALKD reads zero, as chapter 23 prints the window (log entry 8). A published node that is
itself unbuilt is replaced in the walk's next step. -/
def State.travWalk (s : State) (h : Hdr) (m : MacLane) : State :=
  let go (m : MacLane) (l : List Nat) (s : State) : State :=
    let d := tvWalkd m.win
    let k := tvTrail m.win d
    if k ≥ l.length then s.travPopLane h m (setWalkd (setWalk m.win false) 0)
    else
      let w := travPushAll m.win l (k + 1) d
      if d + 1 < tvPd m.win then s.macWin m (setWalkd (travDescend w (l.getD k 0)) (d + 1))
      else s.travPopLane h m (setWalkd (setWalk w false) 0)
  if refType (tvCur m.win) == 5 then
    s.pubGet h m (fun _ p s => match p with
      | some ref =>
        let m : MacLane := { m with win := setWin m.win 12 ref }
        if refType ref == 5 then s.setMac m else s.travList h m (go m)
      | none => go m [] s)
  else s.travList h m (go m)

/-- A triangle step (12 R260, R262, R265). -/
def State.travTriangle (s : State) (h : Hdr) (f : XFields) (m : MacLane) : State :=
  let w := m.win
  let cur := tvCur w
  let i := tvNext w
  s.structGet h m (refLevel cur) (fun base ray s => s.macGet m.lane (base + 64 * refOff cur) 16 (fun n s =>
    let count := n % 8
    if bits n 31 12 != 0 || bits n 7 3 != 0 || count == 0 || decide (count > 4) then s.macEnd h m 20
    else if i ≥ count then s.travPopLane h m (setNext w 0)
    else s.macGet m.lane (base + 64 * refOff cur + 16 + 36 * i) 36 (fun v s =>
      let hit := match ray, v3Of v, v3Of (v / 2 ^ 96), v3Of (v / 2 ^ 192) with
        | some r, some a, some b, some c => r.triangle a b c (bit f.var.toNat 2)
        | _, _, _, _ => none
      match hit with
      | none => s.macWin m (setNext w (i + 1))
      | some (t, u, v) =>
        let s : State := s.macFlags (fracFlags t ||| fracN16Flags u ||| fracN16Flags v)
        let tr := fracRound t
        let uv := fracN16 u + fracN16 v * 65536
        if bit n (8 + i) || !bit f.var.toNat 0 then
          let w' := setNext (travCommit w tr uv i 0) (i + 1)
          if bit f.var.toNat 1 then s.macEnd h { m with win := w' } 16 else s.macWin m w'
        else
          s.setMac (({ m with win := setBits (setWin (setWin w 29 tr) 30 uv) 13 13 1 } : MacLane).stop 18 (some (s.callback f))))))

/-- A brick step: one voxel (12 R252, R254, R261). -/
def State.travBrick (s : State) (h : Hdr) (f : XFields) (m : MacLane) : State :=
  let w := m.win
  let cur := tvCur w
  s.structGet h m (refLevel cur) (fun base ray s => s.macGet m.lane (base + 64 * refOff cur) 128 (fun n s =>
    match v3Of (n / 2 ^ 512), fracF32 (n / 2 ^ 608) with
    | some o, some size =>
      if bits n 1023 704 != 0 || decide (size.1 ≤ 0) then s.macEnd h m 20
      else
        let b : Brick := { origin := o, size := size, occ := n % 2 ^ 512 }
        let leave (w : Nat) : State := s.travPopLane h m (setDda w false)
        match ray.bind (fun r => (b.enter r).map (fun e => (r, e))) with
        | none => leave w
        | some (r, t0, first) =>
          let v := if tvDda w then tvVox w else first
          let tc := b.tAt r t0 first v
          let tv := fracVal tc
          if !(tv.ltB r.tmax) && !r.tmax.isNaN then leave w
          else if bit b.occ v && tv.ltB r.tmax then
            let s : State := s.macFlags (fracFlags tc)
            let w' := setDda (travCommit w (fracRound tc) 0 (popcount v (b.occ % 2 ^ v)) 1) false
            if bit f.var.toNat 1 then
              match travPop w' with
              | .ok w'' => s.macEnd h { m with win := w'' } 16
              | .error _ => s.macEnd h { m with win := w' } 16
            else s.travPopLane h m w'
          else
            match b.move r v with
            | none => leave w
            | some v' => s.macWin m (setVox (setDda w true) v')
    | _, _ => s.macEnd h m 20))

/-- One step of a lane of TRAV (12 R262). -/
def State.travStep (h : Hdr) (f : XFields) (s : State) (m : MacLane) : State :=
  let w := m.win
  let cur := tvCur w
  if tvPend w then
    let com := tvAcc w
    let w' := if com then travCommit w (winWord w 29) (winWord w 30) (tvNext w) 0 else w
    let w' := setNext (setBits w' 14 13 0) (tvNext w + 1)
    if bit f.var.toNat 1 && com then s.macEnd h { m with win := w' } 16 else s.macWin m w'
  else if tvWalk w then s.travWalk h m
  else
    match refType cur with
    | 3 => s.travTriangle h f m
    | 4 => s.travBrick h f m
    | 5 => s.pubGet h m (fun node p s => match p with
        | some ref => s.macWin m (setWin w 12 ref)
        | none => s.setMac (({ m with win := setWin (setWin w 29 (node % 2 ^ 32)) 30 (node / 2 ^ 32) } : MacLane).stop 19
            (some (if f.cboff == 0 then s.nextPc h else s.callback f))))
    | _ => s.travList h m (fun l s =>
        match l with
        | [] => s.travPopLane h m w
        | r :: _ =>
          if tvPd w == 20 then s.macEnd h m 21
          else
            let w' := setTrail (travPushAll w l 1 (tvPd w)) (tvPd w) 0
            s.macWin m (setPd (travDescend w' r) (tvPd w + 1)))

/-- A lane whose ray values end it MISS at its first step (12 R256). -/
def travNoRay (w : Nat) : Bool :=
  let a := fdecode .f32 (winWord w 7)
  let b := fdecode .f32 (winWord w 8)
  (topRay w).isNone || !(a.leB b)

def travForm (f : XFields) : MacForm := { reg := f.w.toNat, scalar := false, kind := 6, words := fun _ => [0, 8, 9] ++ (List.range 20).map (· + 12) }

/-- TRAV (12 R255 to R267): helper lanes take no part (11 R243). -/
def execTrav (h : Hdr) (f : XFields) (s : State) : Res :=
  let act := s.part h &&& ~~~ s.curWave.helper
  let ws := s.windows act f.w.toNat 32
  if s.begun then .next (s.macroTick h (travForm f) (State.travStep h f))
  else if act == 0 then .next ((s.finish h).endRun)
  else
    match (signatureTrap 0x54 ws).or ((ws.find? (fun p => travBad p.2)).map (fun p => macroTrap mWINDOW p.1 (winWord p.2 0))) with
    | some t => .next (s.trapLanes h act t)
    | none =>
      let start (p : Nat × Nat) : MacLane := if travNoRay p.2 then (MacLane.start p).stop 17 (some (s.nextPc h)) else MacLane.start p
      .next (s.begin (.trav h f) h act (ws.map start) [])

/-- TRAV.SET (12 R258). -/
def execTravSet (h : Hdr) (f : XFields) (s : State) : Res :=
  let act := s.part h &&& ~~~ s.curWave.helper
  let ws := s.windows act f.w.toNat 32
  match ws.find? (fun p => winWord p.2 9 / 2 ^ 18 != 0 || bits (tvRoot p.2) 5 3 != 0 || !canonical (tvRoot p.2) ||
      tvRoot p.2 % 8 == 0 || decide (tvRoot p.2 % 8 ≥ 6)) with
  | some p => .next (s.trapLanes h act (macroTrap mWINDOW p.1 (winWord p.2 0)))
  | none =>
    let rs : List RegWrite := ws.flatMap (fun p =>
      let w (k v : Nat) : RegWrite := { scalar := false, lane := p.1, reg := f.w.toNat + k, val := BitVec.ofNat 32 v }
      [w 0 0x54000000, w 9 (winWord p.2 9 % 256), w 12 (refMake (tvRoot p.2 % 8) 0 0), w 13 0] ++
        (List.range 18).map (fun k => w (14 + k) 0))
    if act == 0 then .next (s.finish h) else .next ((s.addOut (Out.ofWrites s.cur.pc rs 0)).finish h)

end Sys2Proof.Machine
end

