-- ==== Sys2Proof/Machine/Filt.lean ====
section
/-! DEFINITION. FILT (12 R268 to R272, 07 R158), and the stop of a macro at the end of a time slice (11 R231). -/

namespace Sys2Proof.Machine

/-- A texture descriptor (12 R268). -/
structure Texture where
  base : Nat
  w : Nat
  h : Nat
  nlev : Nat
  fmt : Nat
  wrapU : Bool
  wrapV : Bool
  deriving DecidableEq, Repr

def textureOf (d : Nat) : Texture :=
  { base := bits d 63 0, w := bits d 79 64 + 1, h := bits d 95 80 + 1, nlev := bits d 99 96, fmt := bits d 102 100, wrapU := bit d 103, wrapV := bit d 104 }
/-- BADDESC (12 R268). -/
def Texture.bad (t : Texture) (d : Nat) : Bool :=
  bits d 255 105 != 0 || decide (t.fmt ≥ 5) || t.base % 256 != 0 || !canonical t.base || decide (t.nlev > Nat.log2 (max t.w t.h))

def Texture.texelBytes (t : Texture) : Nat := match t.fmt with | 0 => 4 | 1 => 8 | 2 => 8 | 3 => 16 | _ => 2
def Texture.wAt (t : Texture) (l : Nat) : Nat := max 1 (t.w / 2 ^ l)
def Texture.hAt (t : Texture) (l : Nat) : Nat := max 1 (t.h / 2 ^ l)
def Texture.pitch (t : Texture) (l : Nat) : Nat := roundUp (t.wAt l * t.texelBytes) 256
/-- Address of level `l` (12 R269). -/
def Texture.levelAt (t : Texture) (l : Nat) : Nat := (List.range l).foldl (fun a k => a + t.pitch k * t.hAt k) t.base
def wrapIndex (wrap : Bool) (i : Int) (n : Nat) : Nat := if wrap then (i % (n : Int)).toNat else (max 0 (min ((n : Int) - 1) i)).toNat
/-- Address of a texel (12 R269). -/
def Texture.texel (t : Texture) (l : Nat) (i j : Int) : Nat :=
  t.levelAt l + wrapIndex t.wrapV j (t.hAt l) * t.pitch l + wrapIndex t.wrapU i (t.wAt l) * t.texelBytes

/-- The four channels of a texel (12 R269). -/
def Texture.decode (t : Texture) (x : Nat) : List Val :=
  match t.fmt with
  | 0 => (List.range 4).map (fun c => .fin false (x / 256 ^ c % 256) 255)
  | 1 => (List.range 4).map (fun c => .fin false (x / 65536 ^ c % 65536) 65535)
  | 2 => (List.range 4).map (fun c => fdecode .f16 (x / 65536 ^ c % 65536))
  | 3 => (List.range 4).map (fun c => fdecode .f32 (x / 2 ^ (32 * c) % 2 ^ 32))
  | _ => [.fin false (x % 65536) 65535, .fin false (x % 65536) 65535, .fin false (x % 65536) 65535, .fin false 1 1]

/-- Floor and 4,096ths of a coordinate (07 R158). -/
def coordSplit (s : Frac) : Int × Nat :=
  let i := Int.fdiv s.1 s.2
  (i, (rint .rn ((s.1 - i * s.2) * 4096) s.2).toNat)

/-- A tap: exact weight, and where its texel lies. -/
structure Tap where
  weight : Frac
  va : Nat

/-- One bilinear set with a factor; taps of weight zero are left out (12 R271). -/
def Texture.bilinear (t : Texture) (l : Nat) (factor u v : Frac) : List Tap :=
  let cu := coordSplit (fracSub (fracMul u (t.wAt l, 1)) (1, 2))
  let cv := coordSplit (fracSub (fracMul v (t.hAt l, 1)) (1, 2))
  let tap (di dj wu wv : Nat) : Tap :=
    { weight := fracMul factor ((wu * wv : Nat), 4096 * 4096), va := t.texel l (cu.1 + (di : Int)) (cv.1 + (dj : Int)) }
  if factor.1 == 0 then []
  else [tap 0 0 (4096 - cu.2) (4096 - cv.2), tap 1 0 cu.2 (4096 - cv.2), tap 0 1 (4096 - cu.2) cv.2, tap 1 1 cu.2 cv.2].filter
    (fun q => q.weight.1 != 0)

/-- The levels of a sample and their factors, from l0 and the 4,096ths of λ above it (12 R271). -/
def Texture.levels (t : Texture) (l0 q : Nat) : List (Nat × Frac) :=
  if l0 ≥ t.nlev then [(t.nlev, (1, 1))] else [(l0, ((4096 - q : Nat), 4096)), (l0 + 1, ((q : Nat), 4096))]
/-- The levels for λ (12 R271). -/
def Texture.triLevels (t : Texture) (lam : Val) : List (Nat × Frac) :=
  match lam with
  | .fin neg n d =>
    if neg || n == 0 then [(0, (1, 1))]
    else
      let c := coordSplit ((n : Int), d)
      t.levels c.1.toNat c.2
  | .inf neg => if neg then [(0, (1, 1))] else [(t.nlev, (1, 1))]
  | .nan _ => []
/-- The levels for λ = ½ log2 x with x = A2 / N² (12 R271): the least integer bounds of an exact logarithm. -/
def Texture.logLevels (t : Texture) (x : Frac) : List (Nat × Frac) :=
  if fracLe x (1, 1) then [(0, (1, 1))]
  else
    let n := x.1.natAbs
    let l0 := (ilog2 n x.2 / 2).toNat
    if l0 ≥ t.nlev then [(t.nlev, (1, 1))]
    else
      let d := x.2 * 4 ^ l0
      t.levels l0 (((ilog2 (n ^ 4096) (d ^ 4096) + 1) / 2).toNat)

/-- The taps of a sample: mode, window; none: it is the canonical NaN with NV (12 R271). -/
def Texture.taps (t : Texture) (mode win : Nat) : Option (List Tap) :=
  match fracF32 (winWord win 1), fracF32 (winWord win 2) with
  | some u, some v =>
    match mode with
    | 0 => some (t.bilinear (min (winWord win 3) t.nlev) (1, 1) u v)
    | 1 =>
      let lam := fdecode .f32 (winWord win 3)
      if lam.isNaN then none else some ((t.triLevels lam).flatMap (fun l => t.bilinear l.1 l.2 u v))
    | _ =>
      match fracF32 (winWord win 4), fracF32 (winWord win 5), fracF32 (winWord win 6), fracF32 (winWord win 7) with
      | some ux, some vx, some uy, some vy =>
        let sq (p q : Frac) : Frac :=
          let a := fracMul p (t.w, 1)
          let b := fracMul q (t.h, 1)
          addFrac (fracMul a a) (fracMul b b)
        let a := sq ux vx
        let b := sq uy vy
        let aMajor := fracLe b a
        let du := if aMajor then ux else uy
        let dv := if aMajor then vx else vy
        let a2 := if aMajor then a else b
        let b2 := if aMajor then b else a
        let n := (([1, 2, 4, 8].find? (fun (k : Nat) => fracLe a2 (fracMul ((k * k : Nat), 1) b2)))).getD 16
        let lv := t.logLevels (fracMul a2 (1, n * n))
        some ((List.range n).flatMap (fun (i : Nat) =>
          let c : Frac := (2 * (i : Int) + 1 - n, 2 * n)
          lv.flatMap (fun l => t.bilinear l.1 (fracMul l.2 (1, n)) (addFrac u (fracMul c du)) (addFrac v (fracMul c dv)))))
      | _, _, _, _ => none
  | _, _ => none

/-- Read the texels of some taps for a lane, then go on with their channels (12 R272). -/
def State.readTexels (s : State) (l : Nat) (t : Texture) : List Tap → List (Frac × List Val) → (List (Frac × List Val) → State → State) → State
  | [], acc, k => k acc s
  | q :: r, acc, k => s.macGet l q.va t.texelBytes (fun x s => State.readTexels s l t r (acc ++ [(q.weight, t.decode x)]) k)

/-- A weighted channel, rounded once (07 R158). -/
def filtChannel (ts : List (Frac × List Val)) (c : Nat) : Nat × Flags :=
  let vs := ts.map (fun q => q.2.getD c Val.zero)
  let s := Val.sum .rn (ts.map (fun q => ((fracVal q.1).mul (q.2.getD c Val.zero)).1))
  let r := roundTo .f32 .rn s.1
  (r.1, r.2 ||| snanFlag vs ||| flagIf s.2 fNV)

/-- A lane of FILT: its sample as one step (12 R271, R272). -/
def State.filtStep (h : Hdr) (f : XFields) (s : State) (m : MacLane) : State :=
  let done (s : State) (m : MacLane) : State := s.setMac (m.stop 1 (some (s.nextPc h)))
  let put (win : Nat) (rs : List Nat) : Nat := rs.zipIdx.foldl (fun w q => setWin w (8 + q.2) q.1) win
  s.macGet m.lane (winWord m.win 12 + winWord m.win 13 * 2 ^ 32) 32 (fun d s =>
    let t := textureOf d
    if t.bad d then s.setMac (m.stop 16 (some (s.nextPc h)))
    else
      match t.taps f.var.toNat m.win with
      | none => done (s.macFlags fNV) { m with win := put m.win (List.replicate 4 Fmt.f32.canonNaN) }
      | some taps => s.readTexels m.lane t taps [] (fun ts s =>
          let rs := (List.range 4).map (filtChannel ts)
          done (s.macFlags (rs.foldl (fun a r => a ||| r.2) 0)) { m with win := put m.win (rs.map (·.1)) }))

/-- The window checks of FILT (12 R270). -/
def filtBad (w : Nat) : Bool := winWord w 0 % 65536 != 0 || winWord w 14 != 0 || winWord w 15 != 0 || winWord w 12 % 32 != 0
def filtForm (f : XFields) : MacForm :=
  { reg := f.w.toNat, scalar := false, kind := 6, words := fun m => if m.reason == 1 then [0, 8, 9, 10, 11] else [0] }
def filtTrap (ws : List (Nat × Nat)) : Option TrapInfo := (ws.find? (fun p => filtBad p.2)).map (fun p => macroTrap mWINDOW p.1 (winWord p.2 0))

/-- FILT (12 R270 to R272). -/
def execFilt (h : Hdr) (f : XFields) (s : State) : Res :=
  let ws := s.windows (s.part h) f.w.toNat 16
  if s.begun then .next (s.macroTick h (filtForm f) (State.filtStep h f))
  else if s.part h == 0 then .next ((s.finish h).endRun)
  else
    match (signatureTrap 0x46 ws).or (filtTrap ws) with
    | some t => .next (s.trap h t)
    | none => .next (s.begin (.filt h f) h (s.part h) (ws.map MacLane.start) [])

/-- FILT.SET (12 R270). -/
def execFiltSet (h : Hdr) (f : XFields) (s : State) : Res :=
  let ws := s.windows (s.part h) f.w.toNat 16
  if s.part h == 0 then .next (s.finish h)
  else
    match filtTrap ws with
    | some t => .next (s.trap h t)
    | none =>
      let rs : List RegWrite := ws.map (fun p => { scalar := false, lane := p.1, reg := f.w.toNat, val := BitVec.ofNat 32 0x46000000 })
      .next ((s.addOut (Out.ofWrites s.cur.pc rs 0)).finish h)

/-! ### Slice stops -/

/-- Carry out a stop that is due in a macro or DRAIN in progress. -/
def State.sliceStop (s : State) (p : Prog) : State :=
  match p.instr with
  | .drain h f => s.drainStep h f ((s.actor h).getD 0)
  | .rast h f => s.macroTick h (rastForm f) (fun s _ => s)
  | .blend h f => s.macroTick h (blendForm f) (fun s _ => s)
  | .bin h f => s.macroTick h (binForm f) (fun s _ => s)
  | .trav h f => s.macroTick h (travForm f) (fun s _ => s)
  | .filt h f => s.macroTick h (filtForm f) (fun s _ => s)
  | .mcall h f => s.macroTick h (mcallForm f (s.mcSize f.var.toNat)) (fun s _ => s)
  | _ => s

/-- MACRO_SLICE_STOP (11 R231): a wave whose stop is requested stops its macro at this progress point. -/
def execMacroSliceStop (r : WaveRef) (s : State) : Res :=
  match s.wave? r with
  | some w =>
    match w.prog with
    | some p =>
      if w.stop && p.begun then
        .next (({ s with cur := { team := r.team, wave := r.wave, mask := p.mask, pc := p.pc, blocked := false } } : State).sliceStop p)
      else .next s
    | none => .next s
  | none => .next s

end Sys2Proof.Machine
end

