-- ==== Sys2Proof/Machine/Place.lean ====
section
/-! DEFINITION. Where teams and waves go (14 R295, R301, 15 R330 to R333, 06 R119, 10 R201), the Warren's groups and windows
(14 R316, 15 R339), and the placing of a team. -/

namespace Sys2Proof.Machine

/-! ### What a core can hold -/

/-- A present core (01 R18). -/
def State.present (s : State) (c : Nat) : Bool := decide (c < 256) && bit (s.flash.yCore.getD (c / 64) 0).toNat (c % 64)
def State.presentCores (s : State) : List Nat := (List.range 256).filter s.present

/-- The wave places taken on a core: partition, slot, registers, launch. A wave keeps its place until its team leaves. -/
def State.seats (s : State) (core : Nat) : List (Nat × Nat × Nat × Nat) :=
  s.teams.flatMap (fun t => (t.waves.filter (fun w => w.core == core)).map (fun w => (w.part, w.slot, t.width * t.vregs, t.launch)))

/-- The place of one wave of `regs` registers: the lowest partition with a free place and enough registers (14 R295). -/
def seatOne (limit regs launch : Nat) (l : List (Nat × Nat × Nat × Nat)) : Option (Nat × Nat) :=
  (List.range 32).findSome? (fun p =>
    let here := l.filter (fun x => x.1 == p)
    if decide (here.length < 8) && decide ((here.filter (fun x => x.2.2.2 == launch)).length < limit) &&
        decide (here.foldl (fun a x => a + x.2.2.1) 0 + regs ≤ 32768) then
      ((List.range 8).find? (fun k => !here.any (fun x => x.2.1 == k))).map (fun k => (p, k))
    else none)

/-- The places of `n` waves, in order. -/
def seatAll (limit regs launch : Nat) : Nat → List (Nat × Nat × Nat × Nat) → Option (List (Nat × Nat))
  | 0, _ => some []
  | n + 1, l =>
    match seatOne limit regs launch l with
    | none => none
    | some p => (seatAll limit regs launch n (l ++ [(p.1, p.2, regs, launch)])).map (fun r => p :: r)

/-- Units of 4 KiB taken on a core in a bank. -/
def State.unitsUsed (s : State) (core bank : Nat) : Nat :=
  s.teams.foldl (fun a t => a + t.units.foldl (fun a u => a + if t.core + u.1 == core && u.2.1 == bank then u.2.2 else 0) 0) 0

/-- `need` units of a core's SCRATCH banks, lowest bank first: side, bank, count (06 R119). -/
def State.takeUnits (s : State) (core side : Nat) : List Nat → Nat → Option (List (Nat × Nat × Nat))
  | _, 0 => some []
  | [], _ + 1 => none
  | b :: r, n + 1 =>
    let free := if (s.core core).banks.getD b .scratch == .scratch then 16 - s.unitsUsed core b else 0
    let k := min free (n + 1)
    if k == 0 then s.takeUnits core side r (n + 1) else (s.takeUnits core side r (n + 1 - k)).map (fun l => (side, b, k) :: l)

def State.teamsOn (s : State) (core : Nat) : List Team := s.teams.filter (fun t => t.cores.elem core)

/-- A core's pool accepts teams of a class (01 R16, 15 R331, R332, 19 R402). -/
def State.poolOpen (s : State) (core cls : Nat) : Bool :=
  let d := s.die (dieOf core)
  d.opclass == cls && d.reassign.isNone && !d.sat

/-- Where a team stands: its core, the partition and slot of each wave, its scratch units. -/
structure Place where
  core : Nat
  seats : List (Nat × Nat × Nat)
  units : List (Nat × Nat × Nat)
  deriving DecidableEq, Repr

/-- One core's part of a team: the places of `n` waves and its scratch units (15 R331). -/
def State.fitOn (s : State) (b : Block) (launch core side n : Nat) : Option (List (Nat × Nat × Nat) × List (Nat × Nat × Nat)) :=
  let ts := s.teamsOn core
  let regs := b.width * b.vregs
  if !s.present core || !s.poolOpen core b.opclass || decide (ts.length ≥ 16) ||
      decide (ts.foldl (fun a t => a + roundUp t.obufBytes 4096) 0 + roundUp b.obuf 4096 > 1048576) ||
      decide (ts.foldl (fun a t => a + t.tiles) 0 + b.tiles > 16) then none
  else
    match seatAll (min 8 (32768 / regs)) regs launch n (s.seats core), s.takeUnits core side (List.range 48) (ceilDiv b.scratch 4096) with
    | some p, some u => some (p.map (fun q => (core, q.1, q.2)), u)
    | _, _ => none

/-- A team of `n` waves on a core, or on the pair that it begins (15 R331, 14 R295). -/
def State.fitAt (s : State) (b : Block) (launch n core : Nat) : Option Place :=
  if b.pair then
    if core % 2 == 1 then none
    else match s.fitOn b launch core 0 (min 32 n), s.fitOn b launch (core + 1) 1 (n - 32) with
      | some x, some y => some { core := core, seats := x.1 ++ y.1, units := x.2 ++ y.2 }
      | _, _ => none
  else (s.fitOn b launch core 0 n).map (fun x => { core := core, seats := x.1, units := x.2 })

/-- The place that the distributor chooses: the lowest-numbered core or pair where the team fits (15 R331). -/
def State.findPlace (s : State) (b : Block) (launch n : Nat) : Option Place := (List.range 256).findSome? (s.fitAt b launch n)

/-! ### New waves and teams -/

/-- A wave at its place, with the argument pointer in s0:s1 (02 R40). -/
def newWave (b : Block) (id stamp : Nat) (seat : Nat × Nat × Nat) (lanes : List Lane) : Wave :=
  { Wave.reset with
    id := id
    core := seat.1
    part := seat.2.1
    slot := seat.2.2
    lanes := lanes
    sregs := (Wave.reset.setSBlock 0 2 b.arg).sregs
    placed := stamp }

/-- The lanes of an ordinary wave: at the entry with the entry priority (14 R301). -/
def entryLanes (b : Block) : List Lane :=
  List.replicate b.width { Lane.reset with live := true, pc := BitVec.ofNat 64 (b.q 0), prio := BitVec.ofNat 8 b.eprio }

/-- A team at its place (02 R40, 06 R119, 10 R201). `ids`: TEAM_ID_X, Y, Z. -/
def newTeam (b : Block) (uid launch rank : Nat) (ids : Nat × Nat × Nat) (p : Place) (formed : Bool) (waves : List Wave) : Team :=
  { Team.reset with
    uid := uid
    launch := launch
    rank := rank
    x := ids.1
    y := ids.2.1
    z := ids.2.2
    core := p.core
    pair := b.pair
    width := b.width
    vregs := b.vregs
    scratchBytes := b.scratch
    units := p.units
    obufBytes := b.obuf
    tiles := b.tiles
    formed := formed
    waves := waves
    sides := List.replicate (coresOf b.pair) Side.reset
    placedAt := uid }

/-- TEAM_ID_X, Y, Z of a rank (02 R42). -/
def Block.ids (b : Block) (rank : Nat) : Nat × Nat × Nat := (rank % b.gx, rank / b.gx % b.gy, rank / b.gx / b.gy)

/-- The acquire with which a team's start begins (15 R328). -/
def State.freshCores (s : State) (p : Place) : State := (dedup (p.seats.map (·.1))).foldl State.discardClean s

/-- A team of a launch that has never run becomes resident (15 R330). -/
def State.placeTeam (s : State) (l : Launch) (rank : Nat) (p : Place) : State :=
  let b := l.block
  let waves := (List.range p.seats.length).map (fun i => newWave b i s.uid (p.seats.getD i (0, 0, 0)) (entryLanes b))
  let s : State := s.freshCores p
  let s : State := { s with teams := s.teams ++ [newTeam b s.uid l.id rank (b.ids rank) p false waves] }
  { s.updLaunch l.id (fun x => { x with unplaced := x.unplaced.filter (· != rank), age := 0, lastPlaced := s.uid }) with uid := s.uid + 1 }

/-- A lane from its record of `n` registers; a record with a reserved bit or another NREG forms a BADREC lane (14 R314, R316). -/
def laneOfRecord (n addr r : Nat) : Lane :=
  let bad := bits r 255 160 != 0 || bits r 127 104 != 0 || bit r 71 || bits r 103 96 != n
  { ((Lane.reset.setBlock 0 n (r / 2 ^ 256)) : Lane) with
    live := true
    outside := true
    pc := BitVec.ofNat 64 (bits r 63 0)
    prio := BitVec.ofNat 8 (bits r 79 72)
    p := BitVec.ofNat 7 (bits r 70 64)
    spawnKey := BitVec.ofNat 16 (bits r 95 80)
    badRec := if bad then some (BitVec.ofNat 64 addr) else none }

/-- A team of one wave that the Warren forms from records becomes resident (14 R316). -/
def State.standFormed (s : State) (l : Launch) (x : Formed) (p : Place) : State :=
  let b := l.block
  let n := if l.task.isSome then 16 else b.spawnRegs
  let lanes := x.recs.map (fun v => laneOfRecord n v.1 v.2) ++ List.replicate (b.width - x.recs.length) Lane.reset
  let s : State := s.freshCores p
  let wave := newWave b 0 s.uid (p.seats.getD 0 (p.core, 0, 0)) lanes
  let t : Team := { newTeam b s.uid l.id x.rank x.ids p true [wave.fillFrontier 16] with recs := x.recs }
  { s with teams := s.teams ++ [t], uid := s.uid + 1 }

/-- A formed team that a flush returned becomes resident again (18 R393). -/
def State.placeFormed (s : State) (l : Launch) (x : Formed) (p : Place) : State :=
  (s.standFormed l x p).updLaunch l.id (fun y => { y with returned := y.returned.erase x, age := 0, lastPlaced := s.uid })

/-- The teams of a launch that have never run and have no place, by rank: those of its grid, and those of the Warren that a flush has
returned (15 R330, 18 R393). -/
def Launch.waiting (l : Launch) : List (Nat × Option Formed) :=
  let grid := l.unplaced.map (fun r => (r, none))
  if l.returned.isEmpty then grid
  else sortBy (fun a b => decide (a.1 < b.1)) (l.returned.map (fun x => (x.rank, some x)) ++ grid)

/-- Some such teams become resident, or none does (15 R333). -/
def State.placeAll (s : State) (l : Launch) : List (Nat × Option Formed) → Option State
  | [] => some s
  | (r, none) :: rs =>
    match s.findPlace l.block l.id l.block.waves with
    | none => none
    | some p => (s.placeTeam l r p).placeAll l rs
  | (_, some x) :: rs =>
    match s.findPlace l.block l.id 1 with
    | none => none
    | some p => (s.placeFormed l x p).placeAll l rs

/-- The teams that a launch places in one step: all of a concurrent launch, the first of another; none: they do not fit now. -/
def State.placeNext (s : State) (l : Launch) : Option State :=
  if l.waiting.isEmpty || s.images.any (fun i => i.launch == l.id) then none
  else if l.block.prog == 0 then s.placeAll l l.waiting
  else s.placeAll l (l.waiting.take 1)

/-- The state with teams of `n` waves each standing somewhere, to see whether they fit together. -/
def State.ghosts (s : State) (l : Launch) : List Nat → Option State
  | [] => some s
  | n :: ns =>
    match s.findPlace l.block l.id n with
    | none => none
    | some p =>
      let waves := (List.range p.seats.length).map (fun i => newWave l.block i 0 (p.seats.getD i (0, 0, 0)) [])
      ({ s with teams := s.teams ++ [newTeam l.block 0 l.id 0 (0, 0, 0) p false waves] } : State).ghosts l ns

/-- Whether a launch could be placed on an empty module at its class (15 R333): one team, or all of a concurrent launch. -/
def State.placeable (s : State) (l : Launch) : Bool :=
  let e : State := { s with
    teams := []
    images := []
    dies := s.dies.map (fun d => { d with opclass := l.block.opclass, reassign := none, sat := false }) }
  if l.block.prog == 0 then decide (l.unplaced.length ≤ 4096) && (e.ghosts l (l.unplaced.map (fun _ => l.block.waves))).isSome
  else (e.findPlace l.block l.id l.block.waves).isSome

/-- The saved teams of a launch, by rank. -/
def State.imagesOf (s : State) (l : Launch) : List Image :=
  sortBy (fun a b => decide (a.rank < b.rank)) (s.images.filter (fun i => i.launch == l.id))
/-- Whether the saved teams of a launch that are restored together fit now (15 R333, 18 R395). -/
def State.restorable (s : State) (l : Launch) : Bool :=
  let is := s.imagesOf l
  let is := if l.block.prog == 0 then is else is.take 1
  !is.isEmpty && (s.ghosts l (is.map (fun i => s.imageWaves i.base))).isSome

/-! ### Priorities (15 R330) -/

def Launch.effPrio (l : Launch) : Nat := min 7 (l.block.prio + l.age)
/-- The distributor's order: effective priority highest first, then turns in order of admission. -/
def Launch.before (a b : Launch) : Bool :=
  decide (a.effPrio > b.effPrio) || (a.effPrio == b.effPrio &&
    (decide (a.lastPlaced < b.lastPlaced) || (a.lastPlaced == b.lastPlaced && decide (a.order < b.order))))

/-! ### The Warren's groups (15 R339) -/

/-- The group that a record belongs to: all records of a task launch, or those of one PC. -/
def Launch.inGroup (l : Launch) (pc : Word) (r : BurrowRec) : Bool := l.task.isSome || r.pc == pc
/-- The forming window: the 1,024 oldest records of the group, sorted by key, arrival order among equal keys. -/
def Launch.window (l : Launch) (pc : Word) : List BurrowRec :=
  sortBy (fun a b => decide (a.key.toNat < b.key.toNat)) ((l.burrow.filter (l.inGroup pc)).take 1024)
/-- The groups of a launch, by a PC of each. -/
def Launch.groups (l : Launch) : List Word := if l.task.isSome then (l.burrow.take 1).map (·.pc) else dedup (l.burrow.map (·.pc))

/-- A wave that is parked (04 R88, 05 R106, 14 R320, 18 R387): the whole wave, or each of its live lanes in a system call. -/
def Wave.parked (w : Wave) : Bool :=
  match w.park with
  | .faults _ _ => true
  | .waitw _ _ _ _ _ _ _ _ => true
  | .tagwait _ _ _ _ => true
  | _ => w.liveMask != 0 && (lanesOf w.liveMask).all (fun l => w.calls.any (fun c => c.mask.getLsbD l))
/-- Whether a partial wave of a group is due without its timeout: every depositor has ended, is parked or is blocked (15 R339). -/
def State.depositorsIdle (s : State) (l : Launch) (pc : Word) : Bool :=
  (l.burrow.filter (l.inGroup pc)).all (fun r => match r.origin with
    | none => true
    | some o => match s.wave? o with
      | none => true
      | some w => w.ended || w.parked || w.allBlocked)

/-- Whether a wave of a group can be formed now, apart from its place. -/
def State.formable (s : State) (l : Launch) (pc : Word) : Bool :=
  let n := (l.window pc).length
  n != 0 && (decide (n ≥ l.block.width) || s.depositorsIdle l pc)

/-- A launch has a team that waits for a place: one unplaced, one saved, or a wave to form (15 R330, R334). -/
def State.wantsPlace (s : State) (l : Launch) : Bool :=
  !l.waiting.isEmpty || s.images.any (fun i => i.launch == l.id) || l.groups.any (s.formable l)

/-- Whether a launch has a team that fits now. -/
def State.placesNow (s : State) (l : Launch) : Bool :=
  (s.placeNext l).isSome || s.restorable l || (l.groups.any (s.formable l) && (s.findPlace l.block l.id 1).isSome)
/-- Whether no launch that ranks higher has a team that fits now (15 R330). -/
def State.firstChoice (s : State) (l : Launch) : Bool :=
  s.launches.all (fun x => !x.before l || !s.placesNow x)

/-! ### Admission (15 R330, R430) -/

def nextLaunchId (used : List Nat) : Nat → BitVec 32 → BitVec 32
  | 0, t => t
  | n + 1, t => if t == 0 || used.elem t.toNat then nextLaunchId used n (t + 1) else t

/-- A launch as it is admitted. -/
def newLaunch (b : Block) (id replay node order : Nat) (unplaced : List Nat) : Launch :=
  { id := id, block := b, replay := replay, node := node, task := none, relaunch := false, unplaced := unplaced, age := 0,
    order := order, lastPlaced := 0, trapped := false, failed := 0, burrow := [], formed := 0, pushers := [], heldKeys := [] }

/-- Admit a launch: it receives its LAUNCH_ID (15 R430); the answer holds the number. -/
def State.admitLaunch (s : State) (b : Block) (replay node : Nat) (unplaced : List Nat) : Nat × State :=
  let id := nextLaunchId (s.launches.map (·.id)) (s.launches.length + 2) s.nextLaunch
  let l := newLaunch b id.toNat replay node s.uid unplaced
  (id.toNat, { s with launches := s.launches ++ [l], nextLaunch := id + 1, uid := s.uid + 1 })

/-- A launch fails with a status of 15 R328, unless an earlier cause has fixed its status. -/
def Launch.fail (l : Launch) (st : Nat) : Launch := if l.trapped || l.failed != 0 then l else { l with failed := st }

/-- The check at admission: a launch that can never be placed runs no team and ends with NOFIT (15 R333). -/
def State.checkFit (s : State) (id : Nat) : State :=
  match s.launch? id with
  | none => s
  | some l => if s.placeable l then s else s.updLaunch id (fun l => { (l.fail 4) with unplaced := [], burrow := [], returned := [] })

end Sys2Proof.Machine
end

