-- ==== Sys2Proof/Machine/Warren.lean ====
section
/-! DEFINITION. Tasks and hardware queues: TASKPUSH (15 R336 to R338), HQPUSH and HQPOP (15 R340), and the waves that the Warren
forms (14 R316, 15 R339). -/

namespace Sys2Proof.Machine

/-! ### Reading a parameter block (15 R337) -/

/-- Read the parameter block at an address as a load does, once per issue, then `k`. -/
def State.blockAt (s : State) (i : Instr) (h : Hdr) (l va : Nat) (k : State → Block → State) : State :=
  let reqs : List Req := [{ lane := l, va := va }, { lane := l, va := va + 64 }]
  match s.memCheck i h (s.part h) reqs 6 Need.read 0 (fun t => t != .io) with
  | .stop s => s
  | .ok s xs =>
    match xs.findSome? (fun x => s.badWord s.curWave.core (x.mtype == .cached) x.pa 64) with
    | some (st, ix) => s.hwerr h st ix
    | none =>
      let r := xs.foldl (fun (acc : List Nat × State) x =>
        let q := acc.2.loadAs l x 64
        (acc.1 ++ [q.1], q.2)) (([] : List Nat), s)
      k r.2 ((List.range 16).map (fun j => BitVec.ofNat 64 (r.1.getD (j / 8) 0 / 2 ^ (64 * (j % 8)))))

/-! ### TASKPUSH -/

/-- The trap of a task reason without detail. -/
def taskTrap (reason : Nat) : TrapInfo := mkTrap .task reason 0 0

/-- The active task launch of a block (15 R338). -/
def State.taskOf (s : State) (va : Nat) (asn : BitVec 12) : Option Launch := s.launches.find? (fun l => l.task == some (va, asn))

/-- Push one record for each of some lanes into a task launch (15 R337). -/
def State.taskRecords (s : State) (i : Instr) (h : Hdr) (f : VFields) (id : Nat) : State :=
  let w := s.curWave
  let b := s.block id
  let act := s.part h &&& ~~~ w.helper
  let deps : List Dep := (lanesOf act).map (fun l =>
    let ln := w.lane l
    { lane := l, pc := b.q 0, prio := b.eprio, key := if f.sub == 1 then ln.vr f.c.toNat % 65536 else 0, pred := 0,
      regs := (List.range 16).map (fun k => ln.vr (f.a.toNat + k)) })
  let me := s.curTeam.launch
  let replay := (s.launch? me).map (·.replay)
  s.deposit i h (s.part h) id 16 deps (fun s =>
    let add (l : Launch) : Bool := !l.pushers.elem me && l.id != me && replay == some l.replay
    (s.updLaunch id (fun l => { l with pushers := if add l then l.pushers ++ [me] else l.pushers })).finish h)

/-- A new task launch whose first push did not take place is not created. -/
def State.orUndo (s old : State) (id : Nat) : State :=
  match s.launch? id with
  | some l => if l.burrow.isEmpty then { s with launches := s.launches.filter (fun x => x.id != id), nextLaunch := old.nextLaunch, uid := old.uid } else s
  | none => s

/-- A task launch that could never be placed runs no team; its pusher's launch ends with NOFIT (15 R333). -/
def State.taskFit (s : State) (id : Nat) : State :=
  match s.launch? id with
  | none => s
  | some l =>
    if l.burrow.isEmpty || s.placeable l then s
    else (s.updLaunch id (fun l => { l with burrow := [] })).updLaunch s.curTeam.launch (fun l => l.fail 4)

/-- TASKPUSH (15 R336 to R338). -/
def execTaskpush (h : Hdr) (f : VFields) (s : State) : Res :=
  let i := Instr.taskpush h f
  let m := s.part h
  match lowestLane m with
  | none => .next (s.finish h)
  | some l => .next (s.afterWrites i m 5 (fun s =>
      let va := s.curWave.spair f.b.toNat
      s.blockAt i h l va (fun s b =>
        if b.malformed || b.waves != 1 || b.prog != 1 then s.trap h (taskTrap 2)
        else if m &&& ~~~ s.curWave.helper == 0 then s.always.finish h
        else
          match s.taskOf va s.curAsn with
          | some t => s.taskRecords i h f t.id
          | none =>
            let mine := s.launch? s.curTeam.launch
            let q := s.admitLaunch b ((mine.map (·.replay)).getD 0) ((mine.map (·.node)).getD 0) []
            let s1 : State := q.2.updLaunch q.1 (fun x => { x with task := some (va, s.curAsn) })
            ((s1.taskRecords i h f q.1).orUndo s q.1).taskFit q.1)))

/-! ### HQPUSH and HQPOP -/

/-- Read and check the bin-set descriptor that a queue instruction names, then `k` (15 R340, 11 R237). -/
def State.binSetAt (s : State) (i : Instr) (h : Hdr) (f : MFields) (l : Nat) (k : State → BinSet → State) : State :=
  let va := globalEa h f s.curWave (s.curWave.lane l)
  let bad := macroTrap mBINSET l 0
  if va % 64 != 0 then s.trap h bad
  else
    match s.memCheck i h (s.part h) [{ lane := l, va := va }] 0 Need.read 0 (fun t => t != .io) with
    | .stop s => s
    | .ok s xs =>
      match xs with
      | [] => s
      | x :: _ =>
        match s.badWord s.curWave.core (x.mtype == .cached) x.pa 64 with
        | some (st, ix) => s.hwerr h st ix
        | none =>
          if s.readBusy s.curRef l x.mtype x.pa 64 then s.hold i
          else
            let y := s.loadAs l x 64
            if (binSetOf y.1).bad y.1 then y.2.trap h bad else k y.2 (binSetOf y.1)

/-- A queue as a push finds it: bin, translated header, header bytes, and the slot after the records that the lanes before have pushed. -/
structure Pushed where
  lane : Nat
  bx : Nat
  by' : Nat
  hx : Xlat
  hdr : Nat
  slot : Nat
  full : Bool
  deriving DecidableEq, Repr

/-- Which lanes find room: headers are read in lane order, and each push fills a slot (11 R238). -/
def pushPlan (b : BinSet) (hs : List (Nat × (Nat × Nat) × Xlat × Nat)) : List Pushed :=
  hs.foldl (fun (acc : List Pushed) x =>
    let q := b.queue x.2.1.1 x.2.1.2
    let before := (acc.filter (fun p => !p.full && b.queue p.bx p.by' == q)).length
    let hdr := bits x.2.2.2 63 0 + (bits x.2.2.2 127 64 + before) % 2 ^ 64 * 2 ^ 64
    acc ++ [{ lane := x.1, bx := x.2.1.1, by' := x.2.1.2, hx := x.2.2.1, hdr := hdr, slot := slotVa q hdr b.cap, full := queueFull hdr b.cap }]) []

/-- HQPUSH (15 R340). -/
def execHqpush (h : Hdr) (f : MFields) (s : State) : Res :=
  let i := Instr.hqpush h f
  let m := s.part h
  match lowestLane m with
  | none => .next (s.finish h)
  | some l0 => .next (s.afterWrites i m 5 (fun s => s.binSetAt i h f l0 (fun s b =>
      let w := s.curWave
      let act := lanesOf (m &&& ~~~ w.helper)
      let bin (l : Nat) : Nat × Nat := let v := (w.lane l).vr (f.d.toNat + 1); (v % 65536, v / 65536)
      if act.any (fun l => decide ((bin l).1 ≥ b.bw) || decide ((bin l).2 ≥ b.bh)) then s.trap h (taskTrap 4)
      else
        let hreqs : List Req := act.map (fun l => { lane := l, va := b.queue (bin l).1 (bin l).2 })
        match s.memCheck i h m hreqs 0 Need.write 2 (fun t => t != .io) with
        | .stop s => s
        | .ok s hxs =>
          let r := (act.zip hxs).foldl (fun (acc : List (Nat × (Nat × Nat) × Xlat × Nat) × State) p =>
            let y := acc.2.homeLoad p.2 16
            (acc.1 ++ [(p.1, bin p.1, p.2, y.1)], y.2)) (([] : List (Nat × (Nat × Nat) × Xlat × Nat)), s)
          let plan := pushPlan b r.1
          let go := plan.filter (fun p => !p.full)
          let sreqs : List Req := go.map (fun p => { lane := p.lane, va := p.slot })
          match r.2.memCheck i h m sreqs 0 Need.write 1 (fun t => t != .io) with
          | .stop s => s
          | .ok s sxs =>
            match hxs.findSome? (fun x => s.badWord s.curWave.core false x.pa 16) with
            | some (st, ix) => s.hwerr h st ix
            | none =>
              let s : State := (go.zip sxs).foldl (fun s p => s.pushSlot p.1.lane p.1.hx p.2 p.1.hdr ((w.lane p.1.lane).vblock f.d.toNat 16)) s
              let lost := maskOf (fun l => plan.any (fun p => p.full && p.lane == l))
              let s : State := s.always
              if lost == 0 then s.finish h
              else s.trap h (mkTrap .task 3 (lost.toNat % 2 ^ 32) (lost.toNat / 2 ^ 32)))))

/-- The bins that a core owns, in index order (11 R237). -/
def State.ownedBins (s : State) (b : BinSet) (core : Nat) : List (Nat × Nat) :=
  let cs := s.presentCores
  ((List.range (b.bw * b.bh)).map (fun i => (i % b.bw, i / b.bw))).filter (fun p =>
    cs.getD ((40503 * p.1 + 12289 * p.2) % cs.length) 256 == core)

/-- A record that a pop takes: its queue's translated header, and its slot. -/
structure Popped where
  hx : Xlat
  slot : Nat
  deriving DecidableEq, Repr

/-- Find up to `n` head records among queues, in index order, checking each header that is read; then `k`. -/
def State.popScan (s : State) (i : Instr) (h : Hdr) (l : Nat) (b : BinSet) (acc : List Popped) (n : Nat) (k : State → List Popped → State) :
    List (Nat × Nat) → State
  | [] => k s acc
  | p :: r =>
    if n == 0 then k s acc
    else
      let q := b.queue p.1 p.2
      match s.memCheck i h (s.part h) [{ lane := l, va := q }] 0 Need.rw 2 (fun t => t != .io) with
      | .stop s => s
      | .ok s xs =>
        match xs with
        | [] => s
        | x :: _ =>
          match s.badWord s.curWave.core false x.pa 16 with
          | some (st, ix) => s.hwerr h st ix
          | none =>
            if s.readBusy s.curRef l x.mtype x.pa 16 then s.hold i
            else s.afterClean i (if x.mtype == .cached then [lineOf x.pa] else []) (fun s =>
              let y := s.homeLoad x 16
              let head := bits y.1 63 0
              let have' := min n ((bits y.1 127 64 + 2 ^ 64 - head) % 2 ^ 64)
              let got : List Popped := (List.range have').map (fun j => { hx := x, slot := q + 64 + 64 * ((head + j) % 2 ^ 64 % b.cap) })
              y.2.popScan i h l b (acc ++ got) (n - have') k r)

/-- Take one record: the slot is read, HEAD advances, an acquire at DEVICE scope (15 R340). -/
def State.takeRecord (s : State) (l : Nat) (p : Popped) (sx : Xlat) : Nat × State :=
  let y := s.homeLoad sx 64
  let z := y.2.homeLoad p.hx 16
  let ts := tagSet (y.2.relsIn sx.pa 64 ++ z.2.relsIn p.hx.pa 16)
  let s : State := z.2.homePut p.hx (leBytes 16 ((bits z.1 63 0 + 1) % 2 ^ 64 + bits z.1 127 64 * 2 ^ 64)) (z.2.relsIn p.hx.pa 16)
  let c := s.curWave.core
  let s : State := s.updCur (fun w => (w.updLanes (1#64 <<< l) (fun _ ln => { ln with seen := tagSet (ln.seen ++ ts) })).orFlags
    (missFlag ts s.cur.team s.cur.wave c 5))
  (y.1, s.discardClean c)

/-- What a lane with no record receives (15 R340). -/
def emptyRecord : Nat := 0xFFFFFFFFFFFFFFFF

/-- HQPOP (15 R340). -/
def execHqpop (h : Hdr) (f : MFields) (s : State) : Res :=
  let i := Instr.hqpop h f
  let m := s.part h
  match lowestLane m with
  | none => .next (s.finish h)
  | some l0 => .next (s.binSetAt i h f l0 (fun s b =>
      let w := s.curWave
      let act := lanesOf (m &&& ~~~ w.helper)
      s.popScan i h l0 b [] act.length (fun s ps =>
        let sreqs : List Req := (act.zip ps).map (fun p => { lane := p.1, va := p.2.slot })
        match s.memCheck i h m sreqs 0 Need.read 0 (fun t => t != .io) with
        | .stop s => s
        | .ok s sxs =>
          match sxs.findSome? (fun x => s.badWord s.curWave.core false x.pa 64) with
          | some (st, ix) => s.hwerr h st ix
          | none =>
            let takes := (act.zip ps).zip sxs
            if takes.any (fun p => s.readBusy s.curRef p.1.1 p.2.mtype p.2.pa 64 || s.readBusy s.curRef p.1.1 p.1.2.hx.mtype p.1.2.hx.pa 16) then s.hold i
            else s.afterClean i (takes.flatMap (fun p => (if p.2.mtype == .cached then [lineOf p.2.pa] else []) ++
                (if p.1.2.hx.mtype == .cached then [lineOf p.1.2.hx.pa] else []))) (fun s =>
              let r := takes.foldl (fun (acc : List (Nat × Nat) × State) p =>
                let y := acc.2.takeRecord p.1.1 p.1.2 p.2
                (acc.1 ++ [(p.1.1, y.1)], y.2)) (([] : List (Nat × Nat)), s)
              let val (l : Nat) : Nat := match r.1.find? (fun p => p.1 == l) with
                | some p => p.2
                | none => if w.helper.getLsbD l then 0 else emptyRecord
              let ws : List RegWrite := (lanesOf m).flatMap (fun l => (List.range 16).map (fun k =>
                ({ scalar := false, lane := l, reg := f.d.toNat + k, val := BitVec.ofNat 32 (val l / 2 ^ (32 * k)) } : RegWrite)))
              (r.2.always.addOut (Out.ofWrites s.cur.pc ws 0)).finish h))
        (s.ownedBins b w.core)))

/-! ### Formed waves -/

/-- A Burrow record read back, when its address translates; the Warren waits otherwise. An uncorrectable record reads as one with a
reserved bit, so that its lane traps BADREC (log entry 7). -/
def State.burrowRead (s : State) (core : Nat) (asn : BitVec 12) (r : BurrowRec) : Option Nat × State :=
  let z := (List.range (r.bytes / 64)).foldl (fun (acc : Option (Nat × Bool) × State) j =>
    match acc.1 with
    | none => acc
    | some v =>
      let y := acc.2.warrenXlate core asn (r.addr + 64 * j)
      match y.1 with
      | .hit x => (some (v.1 + y.2.homeRead x.pa 64 * 2 ^ (512 * j), v.2 || s.poisoned x.pa 64), y.2)
      | _ => (none, y.2)) (some (0, false), s)
  (z.1.map (fun v => if v.2 then r.pc.toNat + 2 ^ 255 else v.1), z.2)

/-- Form a wave from the first `n` records of a window and place it: a single-wave team of the launch (14 R316). -/
def State.formWave (s : State) (l : Launch) (pc : Word) (n : Nat) : State :=
  let b := l.block
  match s.findPlace b l.id 1 with
  | none => s
  | some p =>
    let recs := (l.window pc).take n
    let r := recs.foldl (fun (acc : Option (List (Nat × Nat)) × State) x =>
      match acc.1 with
      | none => acc
      | some vs =>
        let y := acc.2.burrowRead p.core (BitVec.ofNat 12 b.asn) x
        (y.1.map (fun v => vs ++ [(x.addr, v)]), y.2)) ((some [] : Option (List (Nat × Nat))), s)
    match r.1 with
    | none => r.2
    | some vs =>
      let rank := bits ((vs.head?.map (·.2)).getD 0) 159 128
      let ids := if l.task.isSome then (l.formed % 2 ^ 32, 0, 0) else b.ids rank
      (r.2.standFormed l { rank := rank, ids := ids, recs := vs } p).updLaunch l.id (fun x => { x with
          burrow := (x.burrow.filter (fun q => !recs.any (fun y => y.addr == q.addr))).map (fun q =>
            if l.inGroup pc q then { q with origin := none } else q)
          formed := x.formed + 1
          age := 0
          lastPlaced := r.2.uid })

/-- WAVE_FORM (15 R339): a full wave, or a partial one once every depositor has ended, is parked or is blocked. -/
def execWaveForm (launch : Nat) (pc : BitVec 64) (s : State) : Res :=
  match s.launch? launch with
  | none => .next s
  | some l =>
    if s.formable l pc && s.firstChoice l then .next (s.formWave l pc (min l.block.width (l.window pc).length)) else .next s

/-- PARTIAL_WAVE_TIMEOUT (15 R339): 2 µs have passed since the oldest record of the window arrived. -/
def execPartialWaveTimeout (launch : Nat) (pc : BitVec 64) (s : State) : Res :=
  match s.launch? launch with
  | none => .next s
  | some l =>
    let n := (l.window pc).length
    if n != 0 && s.firstChoice l then .next (s.formWave l pc (min l.block.width n)) else .next s

end Sys2Proof.Machine
end

