-- ==== Sys2Proof/Machine/Trace.lean ====
section
/-! DEFINITION. The dependence trace: trace areas, records and the parameter hash (17 R363, R364, R374), TRMARK (17 R368), RELAUNCH
(17 R372), the start of a relaunch (17 R373) and of a traced kernel (17 R374), a team's record at its end (17 R369). -/

namespace Sys2Proof.Machine

/-! ### Areas and records -/

/-- The trace area's header (17 R363); a reserved bit set reads as VALID = 0. -/
structure TraceHdr where
  valid : Bool
  lastok : Bool
  act : Bool
  nteam : Nat
  hash : Nat
  deriving DecidableEq, Repr

def TraceHdr.of (r : Nat) : TraceHdr :=
  { valid := bit r 0 && bits r 63 3 == 0 && bits r 255 128 == 0, lastok := bit r 1, act := bit r 2, nteam := bits r 127 64, hash := bits r 511 256 }
def TraceHdr.word (t : TraceHdr) : Nat :=
  b2n t.valid + 2 * b2n t.lastok + 4 * b2n t.act + t.nteam % 2 ^ 64 * 2 ^ 64 + t.hash % 2 ^ 256 * 2 ^ 256

def State.traceHdr (s : State) (set : Nat) : TraceHdr := TraceHdr.of (s.homeRead (descArea s.mem (s.setDesc set)) 64)
def State.putTraceHdr (s : State) (set writer : Nat) (t : TraceHdr) : State :=
  s.homeWrite (descArea s.mem (s.setDesc set)) 64 t.word writer []

/-- Bytes of the rerun bitmap. -/
def bitmapLen (cap : Nat) : Nat := ceilDiv cap 512 * 64
/-- Address of the team record of a rank. -/
def State.teamRecAt (s : State) (set rank : Nat) : Nat :=
  let d := s.setDesc set
  descArea s.mem d + 64 + bitmapLen (descCap s.mem d) + 512 * rank

/-- A bit of a map buffer. -/
def State.mapBit (s : State) (d : Nat) (act : Bool) (k : Nat) : Bool :=
  bit (s.homeRead (descMap s.mem d + (if act then mapBytes (granules (regionsAt s.mem d)) else 0) + k / 8) 1) (k % 8)
/-- Clear a map buffer. -/
def State.clearMap (s : State) (d writer : Nat) (act : Bool) : State :=
  let n := mapBytes (granules (regionsAt s.mem d))
  s.homeStore (descMap s.mem d + if act then n else 0) (List.replicate n 0) writer []

/-- The parameter hash (17 R374). -/
def State.traceHash (s : State) (b : Block) (d : Nat) : Nat :=
  let neutral (i : Nat) : Bool := (i == 4 || i == 5 || i == 6 || i == 7 || i == 9) && bit (b.q 8) (48 + i)
  sha3Nat ((List.range 16).flatMap (fun i => leBytes 8 (if neutral i then 0 else b.q i)) ++ cellBytes s.mem d 160)

/-- Whether a block's trace set cannot be used: a malformed descriptor, or a grid above CAP (17 R362). -/
def State.badSet (s : State) (b : Block) : Bool :=
  b.tset != 0 && (!s.descOk (s.setDesc b.tset) || decide (b.grid > descCap s.mem (s.setDesc b.tset)))

/-! ### Starting a traced launch -/

/-- A kernel node that names a set clears both buffers, sets ACT = 0, writes HASH and NTEAM and clears LASTOK (17 R374). -/
def State.startTraced (s : State) (b : Block) (id : Nat) : State :=
  if b.tset == 0 then s
  else
    let d := s.setDesc b.tset
    let t := s.traceHdr b.tset
    ((s.clearMap d id false).clearMap d id true).putTraceHdr b.tset id
      { t with act := false, lastok := false, nteam := b.grid, hash := s.traceHash b d }

/-- Whether a relaunch's run is full (17 R374). -/
def State.fullRun (s : State) (b : Block) : Bool :=
  let t := s.traceHdr b.tset
  !t.valid || !t.lastok || t.nteam != b.grid || t.hash != s.traceHash b (s.setDesc b.tset)

/-- The ranks that a relaunch reruns (17 R373). -/
def State.rerunSet (s : State) (b : Block) : List Nat :=
  let d := s.setDesc b.tset
  let full := s.fullRun b
  let act := (s.traceHdr b.tset).act
  let g := granules (regionsAt s.mem d)
  (List.range b.grid).filter (fun r => full ||
    (match readTeamRecord g (s.homeRead (s.teamRecAt b.tset r) 512) with
      | none => true
      | some (always, runs) => always || runs.any (fun q => (List.range q.2).any (fun j => s.mapBit d act (q.1 + j)))))

/-- Steps 1 to 3 of a relaunch: ACT is inverted, the rerun bitmap written, the snapshot cleared (17 R373). -/
def State.relaunchSteps (s : State) (b : Block) (id : Nat) (rerun : List Nat) : State :=
  let d := s.setDesc b.tset
  let t := s.traceHdr b.tset
  let hash := s.traceHash b d
  let n := bitmapLen (descCap s.mem d)
  let s : State := s.putTraceHdr b.tset id { t with act := !t.act, lastok := false, nteam := b.grid, hash := hash }
  let s : State := s.homeStore (descArea s.mem d + 64) ((List.range n).map (fun i =>
    BitVec.ofNat 8 (ofBits 8 (fun k => rerun.elem (8 * i + k))))) id []
  s.clearMap d id t.act

/-- A traced launch that ends with status DONE sets VALID and LASTOK together (17 R374). -/
def State.endTraced (s : State) (l : Launch) (done : Bool) : State :=
  if l.block.tset == 0 || l.task.isSome || !done then s
  else s.putTraceHdr l.block.tset l.id { s.traceHdr l.block.tset with valid := true, lastok := true }

/-- A team of a traced launch ends: its record is written with VALID = 1 (17 R369). -/
def State.writeTeamRecord (s : State) (t : Team) : State :=
  let b := s.block t.launch
  if b.tset == 0 || t.formed || decide (t.rank ≥ descCap s.mem (s.setDesc b.tset)) then s
  else s.homeWrite (s.teamRecAt b.tset t.rank) 512 (teamRecord true t.always t.recorded) t.launch []

/-! ### TRMARK -/

/-- The pieces of a range by 4 KiB page: address and bytes. -/
def pagesOf (va n : Nat) : List (Nat × Nat) :=
  if n == 0 then []
  else (List.range ((va + n - 1) / 4096 - va / 4096 + 1)).map (fun j =>
    let lo := max va ((va / 4096 + j) * 4096)
    (lo, min (va + n) ((va / 4096 + j + 1) * 4096) - lo))

/-- TRMARK (17 R368). -/
def execTrmark (h : Hdr) (f : YFields) (s : State) : Res :=
  match s.actor h with
  | none => .next (s.finish h)
  | some l =>
    let w := s.curWave
    let n := w.sr f.d.toNat
    if n == 0xFFFFFFFF then .next ((if s.curBlock.tset == 0 then s else s.updCurTeam (fun t => { t with always := true })).finish h)
    else
      let ps := pagesOf (w.spair f.a.toNat) n
      match s.memCheck (.trmark h f) h (s.part h) (ps.map (fun p => { lane := l, va := (p.1 : Nat) })) 0 Need.nothing 0 (fun _ => true) with
      | .stop s => .next s
      | .ok s xs =>
        let rs := ((ps.zip xs).filter (fun p => p.2.mtype == .cached || p.2.mtype == .homeonly)).map (fun p => (p.2.pa, p.1.2))
        .next ((s.record (rs.filter (fun r => s.isDev r.1))).finish h)

/-! ### RELAUNCH -/

/-- The trap of a trace reason (17 R372). -/
def traceTrap (reason : Nat) : TrapInfo := mkTrap .trace reason 0 0

/-- The reason for which RELAUNCH traps: BADBLOCK, then UNTRACED, then SELF (17 R372). -/
def relaunchBad (b own : Block) : Option Nat :=
  if b.malformed then some 3 else if b.tset == 0 then some 1 else if b.tset == own.tset then some 2 else none

/-- RELAUNCH (17 R372). -/
def execRelaunch (h : Hdr) (f : YFields) (s : State) : Res :=
  let i := Instr.relaunch h f
  match s.actor h with
  | none => .next (s.finish h)
  | some l =>
    if decide (s.replays.length ≥ 64) then .next s.blockIssue
    else .next (s.afterWrites i (laneBit (some l)) 5 (fun s =>
      s.blockAt i h l (s.curWave.spair f.a.toNat) (fun s b =>
        match relaunchBad b s.curBlock with
        | some r => s.trap h (traceTrap r)
        | none =>
          let mine := s.launch? s.curTeam.launch
          let q : Relaunch := { id := s.uid, replay := (mine.map (·.replay)).getD 0, node := (mine.map (·.node)).getD 0, block := b, issuer := s.curTeam.launch }
          let s : State := { s with relaunches := s.relaunches ++ [q], uid := s.uid + 1 }
          s.always.finish h)))

/-- The set's previous launch has completed: none is admitted (17 R364, R373). -/
def State.setFree (s : State) (n : Nat) : Bool := n == 0 || (s.setLaunch n).isNone

/-- The first launch admitted for a node: the node's own. -/
def State.nodeLaunch (s : State) (replay node : Nat) : Option Launch :=
  s.launches.find? (fun l => l.replay == replay && l.node == node && l.task.isNone)

/-- A relaunch that cannot start: its node fails, or the node of its issuing launch, once that launch has run to its end (17 R372). -/
def State.relaunchFails (s : State) (q : Relaunch) (st : Nat) : State :=
  let s : State := { s with relaunches := s.relaunches.filter (fun x => x.id != q.id) }
  if q.issuer == 0 then s.endNode q.replay q.node (.failed st)
  else match s.nodeLaunch q.replay q.node with
    | some m => s.updLaunch m.id (fun l => l.fail st)
    | none => s

/-- RELAUNCH_START (17 R373): relaunch `id` is admitted, takes its snapshot and waits for the places of its rerun teams. -/
def execRelaunchStart (id : Nat) (s : State) : Res :=
  match s.relaunches.find? (fun q => q.id == id) with
  | none => .next s
  | some q =>
    if !s.setFree q.block.tset then .next s
    else if s.badSet q.block then .next (s.relaunchFails q 3)
    else
      let rerun := s.rerunSet q.block
      let s : State := { s with relaunches := s.relaunches.filter (fun x => x.id != id) }
      let r := s.admitLaunch q.block q.replay q.node rerun
      let s : State := (r.2.updLaunch r.1 (fun l => { l with relaunch := true })).relaunchSteps q.block r.1 rerun
      .next (if rerun.isEmpty then s else s.checkFit r.1)

end Sys2Proof.Machine
end

