-- ==== Sys2Proof/Machine/Dist.lean ====
section
/-! DEFINITION. The distributor: LAUNCH (15 R329), the nodes of a replay (15 R328), the completion of launches (14 R316, 15 R338, 16 R358),
placing, ageing and pools (15 R330 to R332), and the choice of a pre-emption (15 R334, 18 R391, R392). -/

namespace Sys2Proof.Machine

/-! ### LAUNCH (15 R327, R329) -/

/-- The pieces of a patch table by page, translated for the issuing launch, then `k` with a reader of the table. -/
def State.tableAt (s : State) (i : Instr) (h : Hdr) (l va n : Nat) (k : State → (Nat → Nat → Nat) → State) : State :=
  let ps := pagesOf va n
  match s.memCheck i h (s.part h) (ps.map (fun p => { lane := l, va := (p.1 : Nat) })) 0 Need.read 0 (fun t => t != .io) with
  | .stop s => s
  | .ok s xs =>
    match (ps.zip xs).findSome? (fun m => s.badWord s.curWave.core false m.2.pa m.1.2) with
    | some (st, ix) => s.hwerr h st ix
    | none =>
    let ms := ps.zip xs
    let byte (a : Nat) : Byte := match ms.find? (fun m => decide (m.1.1 ≤ a) && decide (a < m.1.1 + m.1.2)) with
      | some m => cellGet s.mem (m.2.pa + (a - m.1.1))
      | none => 0
    k (ms.foldl (fun s m => s.promoteRange m.2.pa m.1.2) s) (fun a m => leNat ((List.range m).map (fun j => byte (a + j))))

/-- LAUNCH (15 R327, R329). -/
def execLaunch (h : Hdr) (f : YFields) (s : State) : Res :=
  let i := Instr.launch h f
  match s.actor h with
  | none => .next (s.finish h)
  | some l =>
    if decide (s.replays.length ≥ 64) then .next s.blockIssue
    else .next (s.afterWrites i (laneBit (some l)) 5 (fun s =>
      let kick := BitVec.ofNat 64 (s.curWave.spair f.a.toNat)
      let va := wrap 64 (toSigned 48 kick.toNat)
      if bits kick.toNat 47 0 == 0 then ((s.startReplay kick true (fun _ _ => 0) 0).always).finish h
      else s.tableAt i h l va 16 (fun s rd0 =>
        let n := min 4096 (bits (rd0 va 16) 15 0)
        s.tableAt i h l va (16 + 16 * n) (fun s rd => ((s.startReplay kick true rd va).always).finish h))))

/-! ### The completion of launches -/

/-- Every dirty byte of every core goes home (15 R328: completion is a release at SYSTEM scope). -/
def State.cleanCores (s : State) : State :=
  (List.range s.cores.length).foldl (fun s c =>
    let k := s.core c
    if k.cache.isEmpty && k.draining.isEmpty then s else s.cleanAll c) s

/-- A launch has no team to place, resident or saved, and no record in its Burrow (14 R316). -/
def State.drained (s : State) (l : Launch) : Bool :=
  l.unplaced.isEmpty && l.returned.isEmpty && l.burrow.isEmpty && s.teams.all (fun t => t.launch != l.id) && s.images.all (fun i => i.launch != l.id)

/-- A launch is drained and so is, in turn, every launch that pushed to it (15 R338). -/
def State.taskOver (s : State) : Nat → Nat → Bool
  | 0, _ => true
  | n + 1, id => match s.launch? id with
    | none => true
    | some l => s.drained l && l.pushers.all (fun p => s.taskOver n p)

/-- The status of a launch that has ended (15 R328, 18 R384). -/
def Launch.status (l : Launch) : Nat := if l.failed != 0 then l.failed else if l.trapped then 6 else 0

/-- A launch ends: keys still held are released, its waiters' registrations leave, its trace set is updated, it is no longer
admitted; the status of a launch started from another goes to the node's own (16 R358, 17 R374). -/
def State.closeLaunch (s : State) (l : Launch) : State :=
  let asn := BitVec.ofNat 12 l.block.asn
  let s : State := l.heldKeys.foldl (fun s k => s.releaseKey asn k) s
  let s : State := (s.endTraced l (l.status == 0)).cleanCores
  let s : State := { s with launches := s.launches.filter (fun x => x.id != l.id) }
  match s.nodeLaunch l.replay l.node with
  | some m => if l.status == 6 then s.updLaunch m.id (fun x => { x with trapped := true }) else if l.status != 0 then s.updLaunch m.id (fun x => x.fail l.status) else s
  | none => s

/-- Whether a task launch, or a relaunch that a wave started, has completed (15 R338, 17 R372). -/
def State.launchOver (s : State) (l : Launch) : Bool :=
  if l.task.isSome then s.taskOver (s.launches.length + 1) l.id
  else l.relaunch && (s.nodeLaunch l.replay l.node).map (·.id) != some l.id && s.drained l && s.launches.all (fun x => !x.pushers.elem l.id)

/-- Task launches and relaunches of waves that have completed are closed. -/
def State.closeOver (s : State) : State :=
  s.launches.foldl (fun s l => match s.launch? l.id with
    | some x => if s.launchOver x then s.closeLaunch x else s
    | none => s) s

/-- Whether a core still holds a dirty byte. -/
def State.anyDirty (s : State) : Bool := (List.range s.cores.length).any (fun c => s.dirtyIn c (fun _ => true))

/-- KERNEL_NODE_COMPLETE (15 R328): a kernel or relaunch node whose launches have all completed; a release at SYSTEM scope, whose
write-backs wait for their budgets (19 R399). -/
def execKernelNodeComplete (replay node : Nat) (s : State) : Res :=
  match s.nodeLaunch replay node with
  | none => .next s
  | some l =>
    if s.drained l && s.launches.all (fun x => x.id == l.id || x.replay != replay || x.node != node) &&
        s.relaunches.all (fun q => q.replay != replay || q.node != node) then
      let s : State := s.cleanCores
      if s.anyDirty then .next s
      else .next ((s.closeLaunch l).endNode replay node (if l.status == 0 then .done else .failed l.status))
    else .next s

/-! ### Nodes (15 R328) -/

/-- A node that may start: it waits, and all of its predecessors have completed. -/
def State.nodeReady (s : State) (replay node : Nat) : Option (Replay × Node) :=
  match s.replay? replay with
  | none => none
  | some r => match r.nodes[node]? with
    | none => none
    | some nd =>
      if !r.ended && nd.state == .waiting && nd.preds.all (fun p => match r.nodes[p]? with | some q => q.state == .done | none => false)
      then some (r, nd) else none

/-- A kernel node starts: its launch is admitted (15 R330), once no launch of its trace set is (17 R364). -/
def State.startKernel (s : State) (replay node : Nat) (b : Block) : State :=
  if b.malformed || s.badSet b then s.endNode replay node (.failed 3)
  else if !s.setFree b.tset then s
  else
    let s : State := s.updNode replay node (fun nd => { nd with state := .running })
    let r := s.admitLaunch b replay node (List.range b.grid)
    (r.2.startTraced b r.1).checkFit r.1

/-- A relaunch node starts with the body of its kernel node (17 R372). -/
def State.startRelaunchNode (s : State) (r : Replay) (node : Nat) (nd : Node) : State :=
  match r.nodes[Block.q nd.body 0]? with
  | none => s.endNode r.id node (.failed 3)
  | some k =>
    let b : Block := k.body
    if b.malformed || b.tset == 0 then s.endNode r.id node (.failed 3)
    else
      let s : State := s.updNode r.id node (fun nd => { nd with state := .running })
      { s with relaunches := s.relaunches ++ [{ id := s.uid, replay := r.id, node := node, block := b, issuer := 0 }], uid := s.uid + 1 }

/-- The completion record of a host signal (19 R408); the two words after it, which are not written, name replay and node. -/
def signalRecord (r : Replay) (node : Nat) (value : Word) : List Word :=
  [BitVec.ofNat 64 (r.handle.toNat * 2 ^ 48 + 2 * 2 ^ 40 + node), 0, value, r.kick, 0, 0, 0, 0, BitVec.ofNat 64 r.id, BitVec.ofNat 64 node]

/-- NODE_START (15 R328). A host signal completes when its record has been written (19 R407). -/
def execNodeStart (replay node : Nat) (s : State) : Res :=
  match s.nodeReady replay node with
  | none => .next s
  | some (r, nd) =>
    if nd.type == 0 then .next (s.startKernel replay node nd.body)
    else if !nd.bodyOk r.nodes node then .next (s.endNode replay node (.failed 3))
    else if nd.type == 2 then .next (s.startRelaunchNode r node nd)
    else
      let s : State := s.updNode replay node (fun nd => { nd with state := .running })
      if nd.type == 3 then .next (s.pushRecord 0 (signalRecord r node (nd.body.getD 0 0))) else .next s

/-- A running node of a type with no record outstanding. -/
def State.nodeRunning (s : State) (replay node type : Nat) : Option (Replay × Node) :=
  match s.replay? replay with
  | none => none
  | some r => match r.nodes[node]? with
    | none => none
    | some nd => if nd.state == .running && nd.type == type && nd.toks.isEmpty then some (r, nd) else none

/-- A node's access: translated by a walk and checked (04 R75, R76, R81). -/
def State.nodeXlate (s : State) (asn : BitVec 12) (va : Nat) (need : Need) (typeOk : MType → Bool) : MacX :=
  if !vaOk va then .trap (mkTrapA .protect pNONCANON (va % 2 ^ 64))
  else match s.walk asn va with
    | .ok e => match need.fails typeOk (e.at va) with
      | some r => .trap (mkTrapA .protect r va)
      | none => .ok (e.at va)
    | .fault r l => .fault r l
    | .bad w => .bad w

/-- A node's access meets an uncorrectable word: a record of kind HWERR, and the node fails with ABORTED (18 R380, log entry 58, DESIGN CHOICE). -/
def State.nodeHwerr (s : State) (replay node word : Nat) (asn : BitVec 12) : State :=
  (s.pushRecord 1 (faultRecord 0 4 0 0 0 0 0 0 asn.toNat 0 (hwerrTrap 6 word) 0)).endNode replay node (.failed 5)

/-- The record of a node's translation fault (18 R388, kind 5). -/
def State.nodeFault (s : State) (replay node va reason level kind : Nat) (asn : BitVec 12) : State :=
  let q := s.takeToken
  let v := BitVec.ofNat 64 va
  (q.2.pushRecord 1 (faultRecord q.1 5 reason level kind 0 0 v asn.toNat 0 TrapInfo.none node)).updNode replay node (fun nd =>
    { nd with toks := nd.toks ++ [{ token := q.1, outcome := 0, reason := reason, level := level, kind := kind, va := v }] })

/-- COPY_NODE_DONE (15 R328): a copy node moves its next bytes, within a line of its source, and completes with its last byte. -/
def execCopyNodeDone (replay node : Nat) (s : State) : Res :=
  match s.nodeRunning replay node 1 with
  | none => .next s
  | some (_, nd) =>
    let q (i : Nat) : Nat := Block.q nd.body i
    let asn := BitVec.ofNat 12 (q 3)
    let src := q 0 + nd.moved
    let dst := q 1 + nd.moved
    let n := min (q 2 - nd.moved) (min (256 - src % 256) (4096 - dst % 4096))
    if n == 0 then .next (s.endNode replay node .done)
    else
      match s.nodeXlate asn src Need.read (fun t => t != .io), s.nodeXlate asn dst Need.write (fun t => t != .io) with
      | .trap _, _ => .next (s.endNode replay node (.failed 5))
      | .fault r l, _ => .next (s.nodeFault replay node src r l 4 asn)
      | .bad w, _ => .next (s.nodeHwerr replay node w asn)
      | .wait, _ => .next s
      | _, .trap _ => .next (s.endNode replay node (.failed 5))
      | _, .fault r l => .next (s.nodeFault replay node dst r l 5 asn)
      | _, .bad w => .next (s.nodeHwerr replay node w asn)
      | _, .wait => .next s
      | .ok x, .ok y =>
        if s.poisoned x.pa n then .next (s.nodeHwerr replay node (x.pa / 8) asn)
        else if s.hostLocked && (x.mtype == .host || y.mtype == .host) then .next s
        else
        let s : State := s.promoteRange x.pa n
        let s : State := s.homeStore y.pa (cellBytes s.mem x.pa n) 0 []
        let s : State := s.updNode replay node (fun nd => { nd with moved := nd.moved + n })
        if nd.moved + n ≥ q 2 then .next (s.endNode replay node .done) else .next s

/-- WAIT_NODE_CHECK (15 R328): the word is read again, at SYSTEM scope. -/
def execWaitNodeCheck (replay node : Nat) (s : State) : Res :=
  match s.nodeRunning replay node 4 with
  | none => .next s
  | some (_, nd) =>
    let va := Block.q nd.body 0
    let asn := BitVec.ofNat 12 (Block.q nd.body 2)
    match s.nodeXlate asn va Need.read (fun _ => true) with
    | .trap _ => .next (s.endNode replay node (.failed 5))
    | .fault r l => .next (s.nodeFault replay node va r l 0 asn)
    | .bad w => .next (s.nodeHwerr replay node w asn)
    | .wait => .next s
    | .ok x =>
      if s.poisoned x.pa 8 then .next (s.nodeHwerr replay node (x.pa / 8) asn)
      else if s.hostLocked && x.mtype == .host then .next s
      else
      let s : State := if s.isDev x.pa then s.promoteFor x.pa 8 none else s
      let v := if x.mtype == .io then s.devRead x.pa 8 else s.homeRead x.pa 8
      if v ≥ Block.q nd.body 1 then .next (s.endNode replay node .done) else .next s

/-! ### Placing, ageing, pools -/

/-- TEAM_PLACE (15 R330): the launch that ranks first among those with a team that fits places it. -/
def execTeamPlace (s : State) : Res :=
  match (sortBy Launch.before s.launches).find? s.placesNow with
  | none => .next s
  | some l => .next ((s.placeNext l).getD s)

/-- LAUNCH_AGEING (15 R330): 10 ms pass for a launch with a team that waits for a place. -/
def execLaunchAgeing (launch : Nat) (s : State) : Res :=
  match s.launch? launch with
  | none => .next s
  | some l =>
    if s.wantsPlace l then .next (s.updLaunch launch (fun l => { l with age := l.age + 1 })) else .next s

/-- Whether a die holds a team. -/
def State.poolBusy (s : State) (d : Nat) : Bool := s.teams.any (fun t => dieOf t.core == d)

/-- The launches that wait for room on any pool at their class, in the distributor's order (15 R332). -/
def State.waitingLaunches (s : State) : List Launch :=
  (sortBy Launch.before s.launches).filter (fun l => s.wantsPlace l && !s.placesNow l)

/-- POOL_REASSIGN (15 R332): an empty pool goes to the class of the first waiting launch for whose class none is on its way. -/
def execPoolReassign (s : State) : Res :=
  match s.waitingLaunches.find? (fun l => s.dies.all (fun d => d.reassign != some l.block.opclass)) with
  | none => .next s
  | some l =>
    match (List.range s.dies.length).find? (fun d => !s.poolBusy d && (s.die d).reassign.isNone && (s.die d).opclass != l.block.opclass) with
    | none => .next s
    | some d => .next (s.updDie d (fun x => { x with reassign := some l.block.opclass }))

/-- POOL_REASSIGN_DONE (15 R332): the pool is at its new class; STEP is 0 and every balance is at the new budget (19 R399, R402). -/
def execPoolReassignDone (pool : Nat) (s : State) : Res :=
  match (s.die pool).reassign with
  | none => .next s
  | some c =>
    let cls := (s.regs.metcls.getD c 0).toNat
    let s : State := s.updDie pool (fun x => { x with opclass := c, reassign := none, step := 0 })
    .next { s with cores := mapFrom (fun i k => if dieOf i == pool then
      { k with hsb := meterBudget (bits cls 31 0), fmb := meterBudget (bits cls 63 32), meter := [] } else k) 0 s.cores }

/-! ### The choice of a pre-emption -/

/-- The team that R333 protects: the lowest-ranked unfinished team of a weakly parallel launch. -/
def State.protected' (s : State) (t : Team) : Bool :=
  match s.launch? t.launch with
  | none => false
  | some l => l.block.prog == 2 && !t.formed && l.unplaced.all (fun r => decide (t.rank ≤ r)) &&
      s.teams.all (fun x => x.launch != t.launch || x.formed || decide (t.rank ≤ x.rank)) &&
      s.images.all (fun i => i.launch != t.launch || decide (t.rank ≤ i.rank))

/-- A lane that holds or awaits a section (18 R391). -/
def Lane.inSection (ln : Lane) : Bool := ln.held0.isSome || ln.held1.isSome || ln.await.isSome
def Team.inSection (t : Team) : Bool := t.waves.any (fun w => w.lanes.any Lane.inSection)

def State.dbudget (s : State) : Nat := bits s.regs.precfg.toNat 63 32
/-- Whether a team drains (18 R391). -/
def State.drains (s : State) (b : Block) (t : Team) : Bool :=
  b.prog != 0 && b.expect != 0 && decide (10 * t.retired ≥ 9 * b.expect) && decide (b.expect - t.retired ≤ s.dbudget)
/-- Whether a team may be flushed and restarted (18 R391, 05 R115). -/
def Team.flushable (b : Block) (t : Team) : Bool := b.idem && !t.inSection && !t.escape

/-- Bytes that an image takes of the pool, in units of 64 KiB (18 R396). -/
def State.imageNeed (s : State) (t : Team) : Nat := roundUp (imageSize (s.block t.launch) t.waves.length) 65536
/-- Places of the pool that images and saves in progress leave free, for `n` bytes: the lowest address first (18 R396). -/
def State.poolPlace (s : State) (n : Nat) : Option Nat :=
  let base := bits s.regs.ctxbase.toNat 51 16 * 65536
  let units := s.regs.ctxsize.toNat * 16
  (List.range units).map (fun k => base + 65536 * k) |>.find? (fun a =>
    decide (a + n ≤ base + 65536 * units) && s.images.all (fun i => decide (i.base + roundUp i.bytes 65536 ≤ a) || decide (a + n ≤ i.base)))
/-- Whether the pool has room for the images of some teams beside those of saves in progress. -/
def State.poolRoom (s : State) (ts : List Team) : Bool :=
  let all := (s.teams.filter (fun t => t.phase.isSaving)) ++ ts
  (all.foldl (fun (acc : Option State) t => match acc with
    | none => none
    | some s => (s.poolPlace (s.imageNeed t)).map (fun a =>
        ({ s with images := s.images ++ [{ id := 0, launch := 0, rank := 0, base := a, bytes := s.imageNeed t, team := 0, ids := (0, 0, 0), formed := false, parks := [], calls := [] }] } : State)))
    (some s)).isSome

/-- A team is asked to stop, or to drain: its waves end their runs; for a save or a flush they stop (02 R36, 18 R392 to R394). -/
def State.setPhase (s : State) (uid : Nat) (p : Phase) : State :=
  s.updTeam uid (fun t => { t with
    phase := p
    leavesFor := if p == .running then 0 else t.leavesFor
    waves := t.waves.map (fun w => { w with runEnd := true, stop := p != .draining && p != .running }) })

/-- Pre-empt a team, with all of a concurrent launch (18 R391); `drain`: the DRAIN row applies. None: no room to save. -/
def State.preempt (s : State) (t : Team) (drain : Bool) : Option State :=
  let b := s.block t.launch
  let all := if b.prog == 0 then s.teams.filter (fun x => x.launch == t.launch) else [t]
  if drain && s.drains b t then some (s.setPhase t.uid .draining)
  else if all.all (Team.flushable b) then some (all.foldl (fun s x => s.setPhase x.uid .flushing) s)
  else if s.regs.ctxsize != 0 && s.poolRoom all then some (all.foldl (fun s x => s.setPhase x.uid (.saving s.uid)) s)
  else none

/-- The sliceable teams that may be pre-empted for a waiting launch, in order (15 R334). -/
def State.victims (s : State) (l : Launch) : List Team :=
  let prio (t : Team) : Nat := ((s.launch? t.launch).map Launch.effPrio).getD 0
  let ok (t : Team) : Bool := t.sliceable && t.phase == .running && !s.protected' t && decide (prio t ≤ l.effPrio) &&
    (s.die (dieOf t.core)).opclass == l.block.opclass
  sortBy (fun a b => decide (prio a < prio b) || (prio a == prio b && decide (a.placedAt < b.placedAt))) (s.teams.filter ok)

/-- Teams of a waiting launch that have no place. -/
def State.waiters (s : State) (l : Launch) : Nat := l.waiting.length + (s.imagesOf l).length + (l.groups.filter (s.formable l)).length

/-- What leaves for a waiting launch: teams, and concurrent launches as a whole (15 R334). -/
def State.leaving (s : State) (id : Nat) : Nat :=
  (dedup ((s.teams.filter (fun t => t.leavesFor == id)).map (fun t => if (s.block t.launch).prog == 0 then (0, t.launch) else (1, t.uid)))).length

/-- Pre-empt a sliceable team for launch `id`. -/
def State.preemptFor (s : State) (id : Nat) (v : Team) : Option State :=
  let whole := (s.block v.launch).prog == 0
  (s.preempt v true).map (fun (s : State) => { s with teams := s.teams.map (fun t =>
    if t.uid == v.uid || (whole && t.launch == v.launch) then { t with leavesFor := id } else t) })

/-- One pre-emption for each team that a waiting launch cannot place, as far as sliceable teams go (15 R334). -/
def State.serve (l : Launch) : Nat → State → State
  | 0, s => s
  | n + 1, s =>
    if s.leaving l.id ≥ s.waiters l then s
    else match (s.victims l).findSome? (s.preemptFor l.id) with
      | some s => State.serve l n s
      | none => s

/-- TIME_SLICE_EXPIRY (15 R334): a team has been resident for a time slice while a launch of no lower priority waits for room on its
pool; it becomes sliceable, and the waiting launches are served in order. -/
def execTimeSliceExpiry (team : Nat) (s : State) : Res :=
  match s.team? team with
  | none => .next s
  | some t =>
    let own := ((s.launch? t.launch).map Launch.effPrio).getD 0
    match s.waitingLaunches.find? (fun l => decide (own ≤ l.effPrio) && (s.die (dieOf t.core)).opclass == l.block.opclass) with
    | none => .next s
    | some _ =>
      if s.regs.tslice == 0 then .next s
      else
        let s : State := s.updTeam team (fun t => { t with sliceable := true })
        .next (s.waitingLaunches.foldl (fun s l => State.serve l s.teams.length s) s)

/-- DRAIN_TIMEOUT (18 R392): a draining team has not ended in time. -/
def execDrainTimeout (team : Nat) (s : State) : Res :=
  match s.team? team with
  | none => .next s
  | some t => if t.phase == .draining then .next ((s.preempt t false).getD (s.setPhase team .running)) else .next s

end Sys2Proof.Machine
end

