-- ==== Sys2Proof/Machine/Context.lean ====
section
/-! DEFINITION. Context images (18 R397), saving (18 R394, 05 R113), flushing (18 R393) and restoring a team (18 R395). -/

namespace Sys2Proof.Machine

/-! ### Writing an image -/

/-- Fields at an address: offset, bytes, value. -/
def State.putFields (s : State) (a : Nat) (l : List (Nat × Nat × Nat)) : State :=
  l.foldl (fun s x => s.homeWrite (a + x.1) x.2.1 x.2.2 0 []) s

/-- The pending trap of a lane; a BADREC lane that has not issued has its trap pending. -/
def Lane.owed (ln : Lane) : Option TrapInfo :=
  match ln.ptrap with
  | some t => some t
  | none => ln.badRec.map (fun a => mkTrapA .task 5 a.toNat)

/-- The code of what a lane waits for; 0 for none. -/
def Wait.code : Wait → Nat
  | .ordin => 1
  | .cvwait _ => 2
  | .barsync _ => 3
  | .blend => 5
  | .entered _ => 0
  | .none => 0
/-- Code of a lane's wait state: what it waits for, or how it last found its instruction blocked. -/
def Lane.waitCode (ln : Lane) : Nat :=
  match ln.wait, ln.stall with
  | .none, some (pc, c) => if pc == ln.pc then c else 0
  | w, _ => w.code

/-- A lane record (18 R397). -/
def Lane.toImage (ln : Lane) (helper : Bool) (ordstat : Nat) : Nat :=
  let t := ln.owed.getD TrapInfo.none
  let flags := b2n ln.live + 2 * b2n helper + 4 * b2n ln.outside + 8 * b2n ln.marked + 16 * ln.waitCode + 128 * b2n ln.handler + 256 * b2n ln.owed.isSome
  let pend := ln.pend.getD (0, 0)
  ln.pc.toNat + ln.prio.toNat * 2 ^ 64 + ln.p.toNat * 2 ^ 72 + flags * 2 ^ 80 + ln.spawnKey.toNat * 2 ^ 96 + ordstat * 2 ^ 112 +
    (ln.held0.getD 0).toNat * 2 ^ 128 + (ln.held1.getD 0).toNat * 2 ^ 192 + pend.1.toNat * 2 ^ 256 + pend.2.toNat * 2 ^ 320 +
    t.cause.toNat * 2 ^ 352 + t.d0.toNat * 2 ^ 384 + t.d1.toNat * 2 ^ 416 + t.d2.toNat * 2 ^ 448

/-- A lane from its record: it waits again at CVWAIT or BAR.SYNC, as it did (14 R301, R322), or is admitted and yet to move on (16 R427),
and issues any other waiting instruction again (16 R357); `m`: what it keeps beside the image. -/
def Lane.ofImage (r : Nat) (m : LaneMarks) : Lane :=
  let opt (b : Bool) (v : Nat) : Option Word := if b then some (BitVec.ofNat 64 v) else none
  { Lane.reset with
    live := bit r 80
    pc := BitVec.ofNat 64 r
    prio := BitVec.ofNat 8 (bits r 71 64)
    p := BitVec.ofNat 7 (bits r 78 72)
    outside := bit r 82
    marked := bit r 83
    handler := bit r 87
    ptrap := if bit r 88 then some { cause := BitVec.ofNat 32 (bits r 383 352), d0 := BitVec.ofNat 32 (bits r 415 384),
                                     d1 := BitVec.ofNat 32 (bits r 447 416), d2 := BitVec.ofNat 32 (bits r 479 448) } else none
    spawnKey := BitVec.ofNat 16 (bits r 111 96)
    held0 := opt (bit r 112) (bits r 191 128)
    held1 := opt (bit r 113) (bits r 255 192)
    pend := if bit r 117 then some (BitVec.ofNat 64 (bits r 319 256), BitVec.ofNat 32 (bits r 351 320)) else none
    wait := if bits r 86 84 % 4 != 1 && m.wait.code == bits r 86 84 then m.wait else .none
    relScopes := m.scopes
    seen := m.tags }

/-- What a wave's lanes keep beside their images. -/
def Wave.marks (w : Wave) : List LaneMarks :=
  (List.range w.lanes.length).filterMap (fun l =>
    let ln := w.lane l
    if ln.wait == .none && ln.relScopes.isEmpty && ln.seen.isEmpty then none
    else some { wave := w.id, lane := l, wait := ln.wait, scopes := ln.relScopes, tags := ln.seen })

/-- A stream's 64 bytes (18 R397, 06 R134). -/
def Stream.toImage (q : Stream) : Nat :=
  if !q.bound then 0
  else
    let st (k : Nat) : Nat := wrap 32 (q.strides.getD k 0)
    let ex (k : Nat) : Nat := q.extents.getD k 0
    q.base.toNat + (List.range 4).foldl (fun a k => a + st k * 2 ^ (64 + 32 * k) + ex k * 2 ^ (192 + 16 * k)) 0 +
      wrap 32 q.laneStride * 2 ^ 256 + q.esize * 2 ^ 288 +
      (1 + 2 * b2n (q.next == q.steps) + 4 * q.pred + 32 * (q.nd - 1)) * 2 ^ 320 + q.next * 2 ^ 352

/-- A stream from an image: its queue is empty and fetching begins again at the next unpopped step (06 R134). -/
def Stream.ofImage (r : Nat) : Stream :=
  if !bit r 320 then Stream.reset
  else
    let nd := bits r 326 325 + 1
    { bound := true
      base := BitVec.ofNat 64 r
      strides := (List.range nd).map (fun k => toSigned 32 (bits r (95 + 32 * k) (64 + 32 * k)))
      extents := (List.range nd).map (fun k => bits r (207 + 16 * k) (192 + 16 * k))
      laneStride := toSigned 32 (bits r 287 256)
      esize := bits r 289 288
      pred := bits r 324 322
      nd := nd
      next := bits r 415 352
      fetched := bits r 415 352
      queue := []
      stopped := false }

/-- The host wait of a wave: tokens, with their outcomes (18 R397). -/
def Wave.hostWait (w : Wave) : Nat × List (Nat × Nat) :=
  if !w.toks.isEmpty then (1, w.toks.map (fun t => (t.token.toNat, t.outcome)))
  else if !w.calls.isEmpty then (2, (w.calls.take 4).map (fun c => (c.token.toNat, 0)))
  else (0, [])

/-- Write a wave block (18 R397). -/
def State.saveWave (s : State) (a width vregs : Nat) (w : Wave) : State :=
  let hw := w.hostWait
  let s : State := (s.homeStore a (List.replicate (waveBlockBytes width vregs) 0) 0 []).putHostWait a (b2n w.hmode) hw.1 hw.2
  let s : State := s.putFields a
    [(0x000, 4, w.id), (0x004, 4, w.wstat.toNat),
     (0x00C, 4, w.tprio.toNat), (0x010, 8, w.tpc.toNat), (0x018, 4, w.tcause.toNat), (0x01C, 4, w.tdet0.toNat), (0x020, 4, w.tdet1.toNat),
     (0x024, 4, w.tdet2.toNat), (0x030, 8, w.helper.toNat)]
  let s : State := s.putFields a ((List.range 8).flatMap (fun n =>
    let c := w.cvs.getD n { members := 0, signed := 0 }
    [(0x040 + 16 * n, 16, c.members.toNat + c.signed.toNat * 2 ^ 64), (0x100 + 64 * n, 64, (w.stream n).toImage)]))
  let s : State := s.homeStore (a + 0x300) ((List.range 192).flatMap (fun k => leBytes 4 (w.sr k))) 0 []
  (List.range width).foldl (fun s l =>
    let ln := w.lane l
    let s : State := s.homeWrite (a + 0x600 + 64 * l) 64 (ln.toImage (w.helper.getLsbD l) (w.ordstat l)) 0 []
    s.homeStore (a + 0x600 + 64 * width + 4 * vregs * l) ((List.range vregs).flatMap (fun k => leBytes 4 (ln.vr k))) 0 []) s

/-- Tile types as 2 bits a position: every position of an exact tile has code 2 (18 R397). -/
def Side.typeBits (d : Side) (tiles : Nat) : Nat :=
  (List.range tiles).foldl (fun a n => a + (if d.tileType n == 3 then 2 else d.tileType n) * 4 ^ n) 0

/-- Write a team's image at an address (18 R397). -/
def State.saveImage (s : State) (t : Team) (a : Nat) : State :=
  let b := s.block t.launch
  let n := t.waves.length
  let side (k : Nat) : Side := t.side k
  let two (f : Side → Nat) : Nat × Nat := (f (side 0), if t.pair then f (side 1) else 0)
  let ty := two (fun d => d.typeBits t.tiles)
  let s : State := s.homeStore a (List.replicate 0xA00 0) 0 []
  let s : State := s.putFields a
    [(0x000, 4, 0x53570001), (0x004, 4, t.launch), (0x008, 4, t.rank),
     (0x00C, 4, b2n t.pair + 2 * b2n t.escape + 4 * b2n t.inSection + 8 * b2n t.wdOff + 256 * n),
     (0x010, 8, t.retired), (0x018, 8, imageSize b n), (0x020, 4, t.scratchBytes), (0x024, 4, t.obufBytes), (0x028, 4, t.tiles),
     (0x02C, 4, (two (fun d => d.mstat.toNat)).1), (0x030, 4, (two (fun d => d.mstat.toNat)).2), (0x034, 4, ty.1), (0x038, 4, ty.2),
     (0x03C, 4, t.vregs), (0x600, 512, teamRecord true t.always t.recorded)]
  let s : State := s.putFields a ((List.range 8).map (fun k => (0x040 + 8 * k, 8, (t.stats.getD k 0).toNat)))
  let s : State := s.putFields a ((List.range 64).map (fun k => (0x100 + 16 * k, 16, (t.tag k).toImage)))
  let s : State := s.putFields a ((List.range 16).map (fun k =>
    let x := t.barrier k
    (0x500 + 16 * k, 16, x.phase.toNat + x.count * 2 ^ 32 + x.marks.toNat * 2 ^ 64)))
  let s : State := (List.range (coresOf t.pair)).foldl (fun s c =>
    let d := side c
    let s : State := s.putFields a ((List.range 16).map (fun k => (0x800 + 256 * c + 16 * k, 16, (d.slots.getD k 0).toNat)))
    let s : State := s.homeStore (a + imageScratchOff b n + c * roundUp b.scratch 4096) (cellBytes d.scratch 0 (roundUp b.scratch 4096)) 0 []
    let s : State := s.homeStore (a + imageObufOff b n + c * roundUp b.obuf 4096) (cellBytes d.obuf 0 (roundUp b.obuf 4096)) 0 []
    s.homeStore (a + imageTilesOff b n + c * (b.tiles * 16384)) ((List.range (4096 * b.tiles)).flatMap (fun k => leBytes 4 (cellGet d.acc k).toNat)) 0 []) s
  t.waves.foldl (fun s w => s.saveWave (a + 0xA00 + w.id * waveBlockBytes b.width b.vregs) b.width b.vregs w) s

/-! ### Leaving a core -/

/-- A team leaves its core: it waits on no ring and no key, and holds no Holly entry (06 R129, 16 R357, 05 R113). -/
def State.leave (s : State) (uid : Nat) : State :=
  let s : State := (s.withdraw (fun w => w.team == uid)).releaseHolly (fun e => e.team == uid)
  { s with
    teams := s.teams.filter (fun t => t.uid != uid)
    cores := s.cores.map (fun k => if k.rings.isEmpty then k else { k with rings := k.rings.map (fun g =>
      { g with pushers := g.pushers.filter (fun r => r.1.team != uid), poppers := g.poppers.filter (fun r => r.1.team != uid) }) }) }

/-- Uncorrectable words of a team's stores are gone with it. -/
def State.dropSites (s : State) (uid : Nat) : State :=
  if s.poisonRegs.isEmpty then s
  else { s with poisonRegs := s.poisonRegs.filter (fun p => match p with
    | .vecReg w _ _ => w.team != uid
    | .scaReg w _ => w.team != uid
    | .scratch u _ _ => u != uid
    | .opBuf u _ _ => u != uid
    | .acc u _ _ _ => u != uid
    | _ => true) }

/-- Nothing of a team is under way: no result, access, operation, update or command of its own (05 R113, 10 R225, 18 R393). -/
def State.teamStill (s : State) (t : Team) : Bool :=
  t.waves.all (fun w => w.outs.isEmpty && w.prog.isNone) &&
  s.cores.all (fun c => c.cmds.all (fun d => d.team != t.uid) && c.engine.all (fun o => o.team != t.uid) && c.addons.all (fun a => a.team != t.uid))

/-- A flushed team in its launch: as one that has never run, with the records of which the Warren formed it (18 R393). -/
def Launch.takeBack (l : Launch) (t : Team) : Launch :=
  if t.formed then { l with returned := l.returned ++ [{ rank := t.rank, ids := (t.x, t.y, t.z), recs := t.recs }] }
  else { l with unplaced := insertBy (fun a b => decide (a < b)) t.rank l.unplaced }

/-- TEAM_FLUSH (18 R393): what the team holds is discarded, and it returns to its launch as one that has never run. -/
def execTeamFlush (team : Nat) (s : State) : Res :=
  match s.team? team with
  | none => .next s
  | some t =>
    if t.phase != .flushing || !s.teamStill t then .next s
    else .next (((s.leave team).dropSites team).updLaunch t.launch (fun l => l.takeBack t))

/-- Bytes for the team that were accepted before its save began have all landed (05 R113). -/
def State.landedFor (s : State) (uid since : Nat) : Bool :=
  s.cores.all (fun c => c.cmds.all (fun d => decide (d.id ≥ since) || d.pieces.all (fun p => p.absent || p.recv != uid || p.done)))

/-- TEAM_SAVE (18 R394): the core writes back, the image is written, the team leaves its core. -/
def execTeamSave (team : Nat) (s : State) : Res :=
  match s.team? team with
  | none => .next s
  | some t =>
    match t.phase with
    | .saving since =>
      if !s.teamStill t || !s.landedFor team since then .next s
      else
        match s.poolPlace (s.imageNeed t) with
        | none => .next s
        | some a =>
          let s : State := t.cores.foldl State.cleanFree s
          let s : State := s.saveImage t a
          let parks := (t.waves.filter (fun w => !w.toks.isEmpty)).map (fun w =>
            let p : BitVec 64 × Word := match w.park with
              | .faults part pc => (part, pc)
              | _ => (0, w.tpc)
            (w.id, p.1, p.2, w.toks))
          let img : Image :=
            { id := s.uid, launch := t.launch, rank := t.rank, base := a, bytes := imageSize (s.block t.launch) t.waves.length, team := team,
              ids := (t.x, t.y, t.z), formed := t.formed, parks := parks, calls := t.waves.flatMap (fun w => w.calls.map (fun c => (w.id, c)))
              marks := t.sides.map (·.srels), seen := t.waves.flatMap Wave.marks, recs := t.recs }
          let s : State := s.leave team
          let s : State := { s with images := s.images ++ [img], uid := s.uid + 1 }
          .next (img.calls.foldl (fun s c => match c.2.reply with
            | some a => s.imageReply img c.1 c.2 a.1 a.2.1 a.2.2
            | none => s) s)
    | _ => .next s

/-! ### Restoring -/

/-- A wave from its block, at a place (18 R395). -/
def State.loadWave (s : State) (a width vregs stamp : Nat) (seat : Nat × Nat × Nat) (mstat : Reg) (parks : List (Nat × BitVec 64 × Word × List Token))
    (calls : List (Nat × SysCall)) (seen : List LaneMarks) : Wave :=
  let rd (off n : Nat) : Nat := s.homeRead (a + off) n
  let id := rd 0 4
  let r32 (off : Nat) : Reg := BitVec.ofNat 32 (rd off 4)
  let lanes := (List.range width).map (fun l =>
    let m : LaneMarks := (seen.find? (fun x => x.wave == id && x.lane == l)).getD { wave := id, lane := l, wait := .none, scopes := [], tags := [] }
    { Lane.ofImage (rd (0x600 + 64 * l) 64) m with v := cellsBelow vregs (fun k => r32 (0x600 + 64 * width + 4 * (vregs * l + k))) })
  let park := parks.find? (fun p => p.1 == id)
  { Wave.reset with
    id := id
    core := seat.1
    part := seat.2.1
    slot := seat.2.2
    ended := lanes.all (fun ln => !ln.live)
    lanes := lanes
    sregs := cellsBelow 192 (fun k => r32 (0x300 + 4 * k))
    wstat := r32 0x004
    helper := BitVec.ofNat 64 (rd 0x030 8)
    cvs := (List.range 8).map (fun n => { members := BitVec.ofNat 64 (rd (0x040 + 16 * n) 8), signed := BitVec.ofNat 64 (rd (0x048 + 16 * n) 8) })
    streams := (List.range 8).map (fun n => Stream.ofImage (rd (0x100 + 64 * n) 64))
    tcause := r32 0x018
    tdet0 := r32 0x01C
    tdet1 := r32 0x020
    tdet2 := r32 0x024
    tpc := BitVec.ofNat 64 (rd 0x010 8)
    tprio := BitVec.ofNat 8 (rd 0x00C 4)
    hmode := bit (rd 0x008 4) 0
    mstatShadow := mstat
    park := match park with
      | some p => if lanes.all (fun ln => !ln.live) then .none else .faults p.2.1 p.2.2.1
      | none => .none
    toks := match park with
      | some p => p.2.2.2
      | none => []
    calls := (calls.filter (fun c => c.1 == id)).map (·.2)
    placed := stamp }

/-- One core's part of a team from its image. -/
def State.loadSide (s : State) (a c n : Nat) (b : Block) (marks : List (Nat × List RelTag)) : Side :=
  let types := s.homeRead (a + 0x034 + 4 * c) 4
  { scratch := cellStore [] 0 (cellBytes s.mem (a + imageScratchOff b n + c * roundUp b.scratch 4096) (roundUp b.scratch 4096))
    srels := marks
    obuf := cellStore [] 0 (cellBytes s.mem (a + imageObufOff b n + c * roundUp b.obuf 4096) (roundUp b.obuf 4096))
    slots := (List.range 16).map (fun k => BitVec.ofNat 128 (s.homeRead (a + 0x800 + 256 * c + 16 * k) 16))
    acc := cellsBelow (4096 * b.tiles) (fun k => BitVec.ofNat 32 (s.homeRead (a + imageTilesOff b n + c * (b.tiles * 16384) + 4 * k) 4))
    types := (List.range 16).map (fun k => let y := bits types (2 * k + 1) (2 * k); if y == 2 && k % 8 != 0 then 3 else y)
    mstat := BitVec.ofNat 32 (s.homeRead (a + 0x02C + 4 * c) 4) }

/-- A team from its image, at a place (18 R395, R397). -/
def State.loadTeam (s : State) (i : Image) (p : Place) : Team :=
  let b := s.block i.launch
  let a := i.base
  let n := s.imageWaves a
  let rd (off k : Nat) : Nat := s.homeRead (a + off) k
  let flags := rd 0x00C 4
  let rec' := readTeamRecord (2 ^ 32) (rd 0x600 512)
  let sides := (List.range (coresOf b.pair)).map (fun c => s.loadSide a c n b (i.marks.getD c []))
  let wave (k : Nat) : Wave :=
    let seat := p.seats.getD k (p.core, 0, 0)
    s.loadWave (a + 0xA00 + k * waveBlockBytes b.width b.vregs) b.width b.vregs s.uid seat ((sides.getD (seat.1 - p.core) Side.reset).mstat) i.parks i.calls i.seen
  { (newTeam b i.team i.launch i.rank i.ids p i.formed ((List.range n).map wave)) with
    sides := sides
    tags := (List.range 64).map (fun k => Tag.ofImage (rd (0x100 + 16 * k) 16))
    barriers := (List.range 16).map (fun k =>
      let x := rd (0x500 + 16 * k) 16
      { phase := BitVec.ofNat 32 x, count := bits x 39 32, marks := BitVec.ofNat 64 (bits x 127 64) })
    stats := (List.range 8).map (fun k => BitVec.ofNat 64 (rd (0x040 + 8 * k) 8))
    recorded := match rec' with
      | some (_, runs) => runs.flatMap (fun q => (List.range q.2).map (fun j => q.1 + j))
      | none => []
    always := (rec'.map (·.1)).getD false
    retired := rd 0x010 8
    wdOff := bit flags 3
    escape := bit flags 1
    recs := i.recs
    placedAt := s.uid }

/-- The stored word of a team that the 4-byte word at offset `o` of its image fills; none: a word of the header or of a head (18 R397). -/
def imageSite (b : Block) (n uid o : Nat) : Option Site :=
  let wb := waveBlockBytes b.width b.vregs
  let at' (base size : Nat) (f : Nat → Nat → Site) : Option Site :=
    if base ≤ o && o < base + coresOf b.pair * size then some (f ((o - base) / size) ((o - base) % size / 4)) else none
  if 0xA00 ≤ o && o < imageScratchOff b n then
    let r : WaveRef := { team := uid, wave := (o - 0xA00) / wb }
    let q := (o - 0xA00) % wb
    let k := (q - (0x600 + 64 * b.width)) / 4
    if 0x300 ≤ q && q < 0x600 then some (.scaReg r ((q - 0x300) / 4))
    else if 0x600 + 64 * b.width ≤ q && k < b.width * b.vregs then some (.vecReg r (k / b.vregs) (k % b.vregs))
    else none
  else (at' (imageScratchOff b n) (roundUp b.scratch 4096) (fun c w => .scratch uid c w)).or
    ((at' (imageObufOff b n) (roundUp b.obuf 4096) (fun c w => .opBuf uid c w)).or
      (at' (imageTilesOff b n) (b.tiles * 16384) (fun c w => .acc uid c (w / 4096) (w % 4096))))

/-- The stored words of a restored team whose image words are uncorrectable: no restore delivers them as data (18 R380). -/
def State.imageBad (s : State) (i : Image) : List Site :=
  (s.poison.filter (fun p => decide (i.base ≤ p) && decide (p < i.base + i.bytes))).flatMap (fun p =>
    [p - i.base, p - i.base + 4].filterMap (imageSite (s.block i.launch) (s.imageWaves i.base) i.team))

/-- Handler lanes of a restored wave whose system call was answered with an error: their traps are undelivered (18 R384, R387). -/
def State.lateTraps : Nat → WaveRef → State → State
  | 0, _, s => s
  | n + 1, r, s =>
    match s.wave? r with
    | none => s
    | some w =>
      let late (l : Nat) : Bool := w.hmode && (w.lane l).live && (w.lane l).handler && (w.lane l).ptrap.isSome
      match (List.range w.lanes.length).find? late with
      | none => s
      | some l =>
        let m := maskOf (fun k => late k && (w.lane k).ptrap == (w.lane l).ptrap && (w.lane k).pc == (w.lane l).pc)
        State.lateTraps n r (s.undelivered r m (w.lane l).pc ((w.lane l).ptrap.getD TrapInfo.none))

def State.late (s : State) (r : WaveRef) : State := State.lateTraps 64 r s

/-- Restore one team where it fits (18 R395); its waves whose records are all answered go on. -/
def State.restoreOne (s : State) (i : Image) : Option State :=
  match s.findPlace (s.block i.launch) i.launch (s.imageWaves i.base) with
  | none => none
  | some p =>
    let t := s.loadTeam i p
    let s : State := s.freshCores p
    let s : State := { s with teams := s.teams ++ [t], images := s.images.filter (fun x => x.id != i.id), uid := s.uid + 1, poisonRegs := dedup (s.poisonRegs ++ s.imageBad i) }
    let s : State := s.updLaunch i.launch (fun l => { l with age := 0, lastPlaced := s.uid })
    some ((List.range t.waves.length).foldl (fun s k => (s.answered { team := i.team, wave := k }).late { team := i.team, wave := k }) s)

/-- TEAM_RESTORE (18 R395, 15 R330, R333): the saved team of the lowest rank of a launch, with all of a concurrent one. -/
def execTeamRestore (image : Nat) (s : State) : Res :=
  match s.images.find? (fun i => i.id == image) with
  | none => .next s
  | some i =>
    match s.launch? i.launch with
    | none => .next s
    | some l =>
      let all := s.imagesOf l
      if !s.firstChoice l || (l.block.prog != 0 && (all.head?.map (·.id)) != some image) then .next s
      else
        let is := if l.block.prog == 0 then all else [i]
        .next ((is.foldl (fun (acc : Option State) x => acc.bind (fun s => s.restoreOne x)) (some s)).getD s)

end Sys2Proof.Machine
end

