-- ==== Sys2Proof/Machine/Devices.lean ====
section
/-! DEFINITION. The device events: walks and invalidation (04 R83 to R87), host rings (19 R406, R407), register writes of the host
(19 R404), BAR2 (19 R405, 13 R288), Tabez Link (19 R410 to R413), start and recovery (19 R414, R415), attestation (19 R417),
sentinels (19 R402), soft errors (18 R380). An event that is not enabled leaves the state as it is (log entry 1). -/

namespace Sys2Proof.Machine

/-- Whether the device runs: a start is complete and recovery mode is off (19 R414, R415). -/
def State.runs (s : State) : Bool := s.regs.ready && !s.regs.recov

/-! ### Walks and invalidation -/

/-- WALK_DISPATCH (04 R84): the oldest queued miss goes to a free walker. -/
def execWalkDispatch (die : Nat) (s : State) : Res :=
  match (s.die die).missq with
  | [] => .next s
  | m :: r =>
    if (s.die die).walks.length < 512 then
      .next (s.updDie die (fun d => { d with missq := r, walks := d.walks ++ [{ m with pos := some s.walkStart }] }))
    else .next s

/-- A waiting wave learns what a walk gave for one page. -/
def Wave.learn (w : Wave) (page : Nat) (e : XEntry) : Wave :=
  match w.park with
  | .walk ps =>
    let rest := ps.filter (· != page)
    if ps.elem page then { w with xl := w.xl ++ [e], park := if rest.isEmpty then .none else .walk rest } else w
  | _ => w

/-- A copy command or a stream learns what a walk gave for one page: a command keeps it; a stream whose next step has a lane there stops at
a fault, which fetches nothing (05 R96, 06 R131). -/
def State.engineLearns (s : State) (page : Nat) (x : XEntry) : Engine → State
  | .cmd core id => s.updCmd core id (fun c => { c with xl := c.xl.filter (fun y => y.page != page) ++ [x] })
  | .stream r q => s.updWave r (fun w => w.updStream q (fun q =>
      if (x.fault.isSome || x.bad.isSome) && (List.range w.lanes.length).any (fun l => pageOf (q.addr q.fetched l).toNat == page) then
        { q with stopped := true } else q))

/-- A walk has ended: its translation is installed on the cores that wait for it, and its waiters learn the outcome. -/
def State.walkEnds (s : State) (die k : Nat) (m : Miss) (res : Walk) : State :=
  let s : State := s.updDie die (fun d => { d with walks := listDrop d.walks k })
  let cores := dedup (m.core :: m.waiters.map (fun r => ((s.wave? r).getD Wave.reset).core))
  let s : State := match res with
    | .ok e => cores.foldl (fun s c => s.installTlb c e) s
    | _ => s
  let x := res.entry m.asn m.page
  let s : State := m.waiters.foldl (fun s r => s.updWave r (fun w => w.learn m.page x)) s
  m.engines.foldl (fun s e => s.engineLearns m.page x e) s

/-- TLB_WALK_COMPLETE (04 R83): walk `walk.1` of a die reads its next `walk.2` entries, or all that are left where no number is given; when
they give a translation or a fault, it ends. -/
def execTlbWalkComplete (die : Nat) (walk : Nat × Option Nat) (s : State) : Res :=
  let k := walk.1
  match (s.die die).walks[k]? with
  | none => .next s
  | some m =>
    let p := m.pos.getD s.walkStart
    match s.walkGo m.asn (m.page * 4096) (walk.2.getD 5) p.1 p.2 with
    | .go level table =>
      if walk.2.isNone then .next (s.walkEnds die k m (.fault xMALFORMED level))
      else .next (s.updDie die (fun d => { d with walks := listSet d.walks k (fun m => { m with pos := some (level, table) }) }))
    | .done w => .next (s.walkEnds die k m w)

/-- TLBICMD (04 R87). -/
def execTlbicmd (value : BitVec 64) (s : State) : Res := .next (s.regWrite64 0x2010 value)

/-- TLB_INVALIDATION_DONE (04 R87). -/
def execTlbInvalidationDone (s : State) : Res :=
  if s.regs.tlbiBusy && s.tlbiQuiet then .next (s.updRegs (fun r => { r with tlbiBusy := false })) else .next s

/-! ### Microcode and graphs -/

/-- MICROCODE_LOAD (11 R234): MCCMD OP 1. -/
def execMicrocodeLoad (slot : BitVec 6) (s : State) : Res := .next (s.regWrite64 0x3008 (BitVec.ofNat 64 (2 ^ 8 + slot.toNat)))

/-- MICROCODE_UNLOAD (11 R234): MCCMD OP 2. -/
def execMicrocodeUnload (slot : BitVec 6) (s : State) : Res := .next (s.regWrite64 0x3008 (BitVec.ofNat 64 (2 * 2 ^ 8 + slot.toNat)))

/-- MICROCODE_REPLACE (11 R234): once no MCALL of the slot is in progress. -/
def execMicrocodeReplace (s : State) : Res :=
  match s.regs.mcpend with
  | none => .next s
  | some p => if s.mcallBusy p.1 then .next s else .next s.mcReplace

/-- KICK (15 R327). -/
def execKick (value : BitVec 64) (s : State) : Res := .next (s.regWrite64 0x4000 value)

/-- GRAPH_UPLOAD (15 R326): GCMD OP 1. -/
def execGraphUpload (s : State) : Res := .next (s.regWrite64 0x4018 (BitVec.ofNat 64 (2 ^ 16)))

/-- GRAPH_FREE (15 R326): GCMD OP 2. -/
def execGraphFree (handle : BitVec 16) (s : State) : Res := .next (s.regWrite64 0x4018 (BitVec.ofNat 64 (2 * 2 ^ 16 + handle.toNat)))

/-! ### Host rings -/

/-- What follows a written record: a ninth word alone names the replay that ends; a tenth, the host-signal node that completes. -/
def State.recordWritten (s : State) (rec : List Word) : State :=
  match rec[8]?, rec[9]? with
  | some r, some n => s.endNode r.toNat n.toNat .done
  | some r, none => ({ s with replays := s.replays.filter (fun x => x.id != r.toNat) } : State).releaseGraphs
  | _, _ => s

/-- The 64 bytes of record `i` of a ring of N entries: PHASE is 1 on the first pass and alternates (19 R407). -/
def ringBytes (rec : List Word) (i n : Nat) : List Byte :=
  ((listSet (rec.take 8) 1 (fun w => BitVec.ofNat 64 (w.toNat / 2 * 2 + (if i / n % 2 == 0 then 1 else 0)))).map (fun w => leBytes 8 w.toNat)).flatten

/-- RING_RECORD_WRITE (19 R407): the oldest waiting record of a ring with room; a release at SYSTEM scope. -/
def execRingRecordWrite (ring : Nat) (s : State) : Res :=
  let g := s.ring ring
  match g.waiting with
  | [] => .next s
  | rec :: rest =>
    if !s.runs || ring ≥ 3 || g.full || s.hostLocked then .next s
    else
      let s1 : State := if ring == 0 then s else s.cleanFree (bits (Block.q rec 1) 31 24)
      let pa := hostBase + (g.base.toNat / 4096 * 4096 + 64 * (g.tail.toNat % g.size))
      let s2 : State := s1.homeStore pa (ringBytes rec g.tail.toNat g.size) 0 []
      .next ((s2.updRing ring (fun g => { g with waiting := rest, tail := g.tail + 1, pending := true })).recordWritten rec)

/-- RCFG_ENABLE (19 R406). -/
def execRcfgEnable (ring : Nat) (log2n : BitVec 5) (s : State) : Res :=
  if ring < 3 then .next (s.regWrite64 (0x7008 + 0x20 * ring) (BitVec.ofNat 64 (2 ^ 8 + log2n.toNat))) else .next s

/-- RCFG_DISABLE (19 R406). -/
def execRcfgDisable (ring : Nat) (s : State) : Res := if ring < 3 then .next (s.regWrite64 (0x7008 + 0x20 * ring) 0) else .next s

/-- RHEAD_WRITE (19 R406). -/
def execRheadWrite (ring : Nat) (value : BitVec 32) (s : State) : Res :=
  if ring < 3 then .next (s.regWrite64 (0x7010 + 0x20 * ring) (value.setWidth 64)) else .next s

/-- REGISTER_WRITE (19 R404): a host write through BAR0. -/
def execRegisterWrite (pa n : Nat) (value : BitVec 64) (s : State) : Res := .next (s.hostRegWrite pa n value)

/-! ### PCI Express -/

/-- The physical address of a BAR2 offset (19 R405). -/
def State.bar2 (s : State) (off : Nat) : Nat := bits s.regs.bar2win.toNat 51 30 * 2 ^ 30 + off

/-- Whether a BAR2 access of `n` bytes is performed: BAR2 is not idle, and the access lies inside it and in device memory (19 R405). -/
def State.bar2Ok (s : State) (off n : Nat) : Bool :=
  s.runs && n != 0 && off + n ≤ 2 ^ s.pcie.bar2Log2 && s.devRange (s.bar2 off) n

/-- HOST_BAR2_WRITE (19 R405, 13 R288): a SYSTEM-scope release write at the home slice. -/
def execHostBar2Write (off : Nat) (data : List (BitVec 8)) (s : State) : Res :=
  if s.bar2Ok off data.length then .next (s.homeStore (s.bar2 off) data 0 [hostTag]) else .next s

/-- HOST_BAR2_READ (19 R405, 13 R288): a SYSTEM-scope acquire read; it promotes what it meets (13 R284). -/
def execHostBar2Read (off n : Nat) (s : State) : Res :=
  if s.bar2Ok off n then .next (s.promoteRange (s.bar2 off) n) else .next s

/-- PCIE_CONFIG_WRITE (04 R91, 19 R403): AtomicOp Requester Enable, and the resized size of BAR2. -/
def execPcieConfigWrite (reg : PcieReg) (s : State) : Res :=
  match reg with
  | .atomicOpEnable on => .next { s with pcie := { s.pcie with atomicOp := on } }
  | .bar2Log2 k => if 30 ≤ k && k ≤ 41 then .next { s with pcie := { s.pcie with bar2Log2 := k } } else .next s

/-! ### Tabez Link -/

/-- LKCTL as it reads (19 R410). -/
def Port.ctl (p : Port) : Nat := p.tail.toNat * 2 ^ 32 + p.wreq.toNat * 2 ^ 8 + b2n p.en

/-- LKCTL_TAIL (19 R410): the other fields of the register are written as they stand. -/
def execLkctlTail (port : Nat) (tail : BitVec 32) (s : State) : Res :=
  if port < 12 then .next (s.regWrite64 (0xA108 + 0x20 * port) (BitVec.ofNat 64 ({ s.port port with tail := tail } : Port).ctl)) else .next s

/-- LKCTL_ENABLE (19 R410). -/
def execLkctlEnable (port : Nat) (en : Bool) (s : State) : Res :=
  if port < 12 then .next (s.regWrite64 (0xA108 + 0x20 * port) (BitVec.ofNat 64 ({ s.port port with en := en } : Port).ctl)) else .next s

/-- The widest width code that a port can run now (19 R413). -/
def State.portWidest (s : State) (p : Nat) : Nat := min (s.port p).wreq.toNat (s.portLanes p)

/-- LINK_TRAINED (19 R410): the port trains with its peer at a width. -/
def execLinkTrained (port : Nat) (width : BitVec 2) (s : State) : Res :=
  if s.runs && port < 12 && !(s.port port).up && width != 0 && width.toNat ≤ s.portWidest port then
    .next (s.updPort port (fun p => { p with up := true, width := width, pause := false }))
  else .next s

/-- LINK_WIDTH_CHANGE (19 R413): a change in progress ends at a width, or a port that drops a lane begins one. -/
def execLinkWidthChange (port : Nat) (width : BitVec 2) (s : State) : Res :=
  let p := s.port port
  if !s.runs || port ≥ 12 || !p.up || width == 0 then .next s
  else if p.pause then
    if width.toNat ≤ s.portWidest port then .next (s.updPort port (fun p => { p with width := width, pause := false })) else .next s
  else if width.toNat < p.width.toNat then .next (s.updPort port (fun p => { p with pause := true }))
  else .next s

/-- Where descriptor HEAD of a port lies (19 R410). -/
def Port.headAt (p : Port) : Nat := bits p.ring.toNat 51 12 * 4096 + 64 * (p.head.toNat % 2 ^ bits p.ring.toNat 3 0)

/-- Whether a descriptor obeys the layout of 19 R411. -/
def State.linkDescOk (s : State) (d : Nat) : Bool :=
  let op := bits d 3 0
  let len := bits d 223 192
  let src := bits d 127 64
  let dst := bits d 191 128
  (op == 1 || op == 2) && bits d 63 4 == 0 && bits d 511 224 == 0 && 1 ≤ len && len ≤ 2 ^ 24 &&
    (op == 1 || (len % 32 == 0 && src % 32 == 0 && dst % 32 == 0)) && s.devRange src len

/-- Set a bit of the first word of a port's oldest descriptor and advance HEAD, a release at SYSTEM scope (19 R411). -/
def State.linkMark (s : State) (port : Nat) (k : Option Nat) : State :=
  let a := (s.port port).headAt
  let s : State := match k with
    | some b => s.homeWrite a 8 (s.homeRead a 8 ||| 2 ^ b) 0 [hostTag]
    | none => s
  s.updPort port (fun p => { p with head := p.head + 1, inflight := none })

/-- LINK_DESCRIPTOR_SEND (19 R411): the port reads its next descriptor and sends its bytes, or completes a malformed one. -/
def execLinkDescriptorSend (port : Nat) (s : State) : Res :=
  let p := s.port port
  let k := bits p.ring.toNat 3 0
  if !s.runs || port ≥ 12 || !p.en || !p.up || p.pause || p.head == p.tail || p.inflight.isSome || !(4 ≤ k && k ≤ 12) ||
      s.region p.headAt != .near then .next s
  else
    let d := s.homeRead p.headAt 64
    if s.linkDescOk d then
      let len := bits d 223 192
      .next ((s.promoteRange (bits d 127 64) len).updPort port (fun p => { p with inflight := some (ceilDiv len 256) }))
    else .next (s.linkMark port (some 63))

/-- LINK_ACK (19 R411): the peer has performed a descriptor's last byte; bit 62 tells a rejection. -/
def execLinkAck (port : Nat) (rejected : Bool) (s : State) : Res :=
  if s.runs && port < 12 && (s.port port).inflight.isSome then .next (s.linkMark port (if rejected then some 62 else none)) else .next s

/-- Add an image to 32 bytes at their home slice (19 R412, 07 R153); an uncorrectable word there is not read, and the image is lost beside a
record of kind HWERR (18 R380, log entry 7). -/
def State.linkImage (s : State) (pa v : Nat) : State :=
  let s : State := s.promoteFor pa 32 none
  if s.poisoned pa 32 then s.engineRecord 0 6 (pa / 8) else
  s.homeWrite pa 32 (xaccAddImage (s.homeRead pa 32) v) 0 [hostTag]

/-- A flit of `n` bytes has arrived on a virtual channel, `bad`: some of them are rejected. A descriptor counts once (19 R411): at its first
rejected byte. A flit of fewer than 256 bytes is the last of its descriptor, an empty one ends it too (log entry 46). -/
def Port.flitIn (p : Port) (vc n : Nat) (bad : Bool) : Port :=
  { p with
    rej := if bad && !p.badIn.elem vc then p.rej + 1 else p.rej
    badIn := if n < 256 then p.badIn.filter (· != vc) else if bad then dedup (p.badIn ++ [vc]) else p.badIn }

/-- LINK_FLIT_RECEIVE (19 R411, R412): a flit from the peer: VC0 writes, VC2 adds images; bytes outside near and far memory are discarded
and its descriptor counts as rejected. -/
def execLinkFlitReceive (port vc pa : Nat) (data : List (BitVec 8)) (s : State) : Res :=
  let n := data.length
  if !s.runs || port ≥ 12 || !(s.port port).up || n > 256 || !(vc == 0 || (vc == 2 && n % 32 == 0 && pa % 32 == 0)) then .next s
  else
    let step := if vc == 0 then 1 else 32
    let parts := (List.range (n / step)).map (fun i => (pa + step * i, (data.drop (step * i)).take step))
    let good := parts.filter (fun q => s.isDev q.1)
    let s1 : State := good.foldl (fun s q => if vc == 0 then s.homeStore q.1 q.2 0 [hostTag] else s.linkImage q.1 (leNat q.2)) s
    .next (s1.updPort port (fun p => p.flitIn vc n (good.length != parts.length)))

/-! ### Metering and sentinels -/

/-- METER_TICK (19 R399). -/
def execMeterTick (s : State) : Res := if s.runs then .next s.meterTick else .next s

/-- SENTINEL_WARNING (19 R402). -/
def execSentinelWarning (die : Nat) (s : State) : Res :=
  if s.runs then
    .next (s.updDie die (fun d =>
      if d.step < 6 then { d with step := d.step + 1, warns := d.warns + 1 } else { d with sat := true, warns := d.warns + 1 }))
  else .next s

/-- SENTINEL_DECAY (19 R402). -/
def execSentinelDecay (die : Nat) (s : State) : Res := if s.runs then .next (s.updDie die (fun d => { d with step := d.step - 1 })) else .next s

/-! ### Start, recovery, attestation -/

/-- POWER_ON (19 R414). -/
def execPowerOn (s : State) : Res := .next (s.beginStart false)

/-- FUNCTION_LEVEL_RESET (19 R414). -/
def execFunctionLevelReset (s : State) : Res := .next (s.beginStart true)

/-- RSTCMD_WARM (19 R414). -/
def execRstcmdWarm (key : BitVec 16) (s : State) : Res := .next (s.regWrite64 0x0008 (BitVec.ofNat 64 (key.toNat * 2 ^ 48 + 1)))

/-- RSTCMD_COLD (19 R414). -/
def execRstcmdCold (key : BitVec 16) (s : State) : Res := .next (s.regWrite64 0x0008 (BitVec.ofNat 64 (key.toNat * 2 ^ 48 + 2)))

/-- START_STAGE (19 R414, R415): the stage in progress ends; `ok`: what the hardware of the stage reports. In recovery mode the
verification in progress ends (log entry 48). -/
def execStartStage (ok : Bool) (s : State) : Res :=
  let n := s.regs.stage.toNat
  if s.regs.recov && s.regs.recBusy then .next s.recVerify
  else if s.regs.ready || n == 0 then .next s
  else if ok && s.stageCheck n then .next (s.passStage n)
  else .next (s.failStage n)

/-- RECCMD (19 R415). -/
def execReccmd (value : BitVec 64) (s : State) : Res := .next (s.regWrite64 0x0010 value)

/-- ATTEST_REPORT (19 R417): a requested report is written. -/
def execAttestReport (s : State) : Res := if s.regs.attBusy then .next s.writeReport else .next s

/-! ### Soft errors -/

/-- Whether a word exists. -/
def State.siteExists (s : State) (x : Site) : Bool :=
  match x with
  | .vecReg r l k => match s.team? r.team, s.wave? r with
    | some t, some w => decide (l < w.lanes.length) && decide (k < t.vregs)
    | _, _ => false
  | .scaReg r k => (s.wave? r).isSome && decide (k < 192)
  | .scratch u k w => match s.team? u with
    | some t => decide (k < t.sides.length) && decide (4 * w < t.scratchBytes)
    | none => false
  | .opBuf u k w => match s.team? u with
    | some t => decide (k < t.sides.length) && decide (4 * w < t.obufBytes)
    | none => false
  | .acc u k i w => match s.team? u with
    | some t => decide (k < t.sides.length) && decide (i < t.tiles) && decide (w < 4096)
    | none => false
  | .home w => s.isDev (8 * w)
  | .cache c w => match (s.core c).line? (lineOf (8 * w)) with
    | some x => x.bytes.any (fun b => b.off / 8 == 8 * w % 256 / 8)
    | none => false

/-- SOFT_ERROR (18 R380): one flipped bit is corrected, two poison the word; what reads it from now on traps, instructions that have issued
among them (log entry 7). -/
def execSoftError (site : Site) (bits : Nat) (s : State) : Res :=
  if bits < 2 || !s.siteExists site then .next s
  else match site with
    | .home w => .next { s with poison := dedup (s.poison ++ [8 * w]) }
    | .cache c w => .next (s.updLine c (lineOf (8 * w)) (fun x => { x with poison := dedup (x.poison ++ [8 * w % 256 / 8]) }))
    | x => .next { s with poisonRegs := dedup (s.poisonRegs ++ [x]) }

end Sys2Proof.Machine
end

