-- ==== Sys2Proof/Machine/Transcend.lean ====
section
/-! DEFINITION. Exact functions of 09 R194 as values that round correctly: square roots, and 2^a, log2 a, sin(πa), cos(πa) in
fixed point of 512 fraction bits. A value that is no dyadic fraction is given as a truncation with one extra low bit set
(sticky), so that rounding to any format meets no tie and no exact case. -/

namespace Sys2Proof.Machine

/-- Fraction bits of the fixed-point series. -/
def fxK : Nat := 512
def fxOne : Nat := 2 ^ fxK

/-- The integer square root, bit by bit from bit `n - 1` down. -/
def isqrtFrom : Nat → Nat → Nat → Nat
  | 0, _, r => r
  | n + 1, x, r => isqrtFrom n x (if (r + 2 ^ n) * (r + 2 ^ n) ≤ x then r + 2 ^ n else r)
def isqrt (x : Nat) : Nat := isqrtFrom (Nat.log2 x / 2 + 1) x 0

/-- √(n/d) for n, d positive: exact when it is a dyadic fraction, sticky otherwise. -/
def sqrtVal (n d : Nat) : Val :=
  let k := 1200
  let s := isqrt (n * 4 ^ k / d)
  if s * s * d == n * 4 ^ k then .fin false s (2 ^ k) else .fin false (2 * s + 1) (2 ^ (k + 1))

/-- Σ term over a series whose next term comes from the last by `next`, started at index `i`. -/
def series (next : Nat → Int → Int) : Nat → Nat → Int → Int
  | 0, _, _ => 0
  | n + 1, i, t => t + series next n (i + 1) (next i t)

/-- e^x - 1 for a fixed-point x below 1. -/
def fxExpm1 (x : Int) : Int := series (fun i t => (t * x).fdiv ((fxOne : Int) * (i + 1))) 120 1 x
/-- Σ z^(2k+1)/(2k+1) (sign −1: arctangent, +1: its hyperbolic counterpart) for a fixed-point z at most 1/3. -/
def fxAtan (sign : Int) (z : Int) : Int :=
  let z2 := (z * z).fdiv fxOne
  (List.range 180).foldl (fun (acc : Int × Int) (k : Nat) => (acc.1 + acc.2.fdiv (2 * k + 1), sign * (acc.2 * z2).fdiv fxOne)) ((0 : Int), z) |>.1
/-- ln 2 and π. -/
def fxLn2 : Int := 2 * fxAtan 1 (fxOne / 3 : Nat)
def fxPi : Int := 16 * fxAtan (-1) (fxOne / 5 : Nat) - 4 * fxAtan (-1) (fxOne / 239 : Nat)
/-- sin x and cos x for a fixed-point x in [0, 2). -/
def fxSin (x : Int) : Int :=
  let x2 := (x * x).fdiv fxOne
  series (fun i t => -((t * x2).fdiv ((fxOne : Int) * ((2 * i) * (2 * i + 1))))) 80 1 x
def fxCos (x : Int) : Int :=
  let x2 := (x * x).fdiv fxOne
  series (fun i t => -((t * x2).fdiv ((fxOne : Int) * ((2 * i - 1) * (2 * i))))) 80 1 fxOne

/-- A fixed-point approximation as a sticky value. Its error is far below 2^-460: it is cut to 460 fraction bits. -/
def fxVal (x : Int) : Val :=
  let y := x.natAbs / 2 ^ 52
  .fin (decide (x < 0)) (2 * y + 1) (2 ^ 461)

/-- 2^(n/d) for a finite n/d (09 R194), for arguments of any size. -/
def exp2Val (n : Int) (d : Nat) : Val :=
  let q := n.fdiv d
  let r := n - q * d
  let e : Int := max (-5000) (min 5000 q)
  if r == 0 then .dyadic false 1 e
  else
    let f := (r * fxOne).fdiv d
    let x := fxOne + fxExpm1 ((f * fxLn2).fdiv fxOne)
    match fxVal x with
    | .fin _ a b => if e < 0 then .fin false a (b * 2 ^ (-e).toNat) else .fin false (a * 2 ^ e.toNat) b
    | v => v

/-- log2(n/d) for n, d positive (09 R194). -/
def log2Val (n d : Nat) : Val :=
  let e := ilog2 n d
  let (a, b) := if e < 0 then (n * 2 ^ (-e).toNat, d) else (n, d * 2 ^ e.toNat)
  if a == b then .ofInt e
  else
    let z : Int := (((a : Int) - b) * fxOne).fdiv ((a + b : Nat) : Int)
    let l := (2 * fxAtan 1 z * fxOne).fdiv fxLn2
    fxVal (e * fxOne + l)

/-- sin(π·a) of a finite a = n/d that is not an integer, by quadrants of a mod 2 (09 R194). -/
def sinVal (n : Int) (d : Nat) : Val :=
  let m := (n.fmod (2 * d)).toNat
  let neg := decide (m > d)
  let r := if neg then m - d else m
  let r := if 2 * r > d then d - r else r
  if 2 * r == d then .fin neg 1 1
  else if 6 * r == d then .fin neg 1 2
  else
    match if 4 * r ≤ d then fxVal (fxSin (r * fxPi / d)) else fxVal (fxCos (fxPi / 2 - r * fxPi / d)) with
    | .fin _ a b => .fin neg a b
    | v => v

end Sys2Proof.Machine
end

