-- ==== Sys2Proof/Machine/Float.lean ====
section
/-! DEFINITION. The floating-point instructions (09 R183 to R200). -/

namespace Sys2Proof.Machine

/-- The format of a type code and the number of its elements in an operand (03 R59, 09 R183). -/
def floatFmt (sub : BitVec 2) : Fmt := if sub == 0#2 then .f32 else if sub == 1#2 then .f16 else if sub == 2#2 then .bf16 else .f64
def floatElems (sub : BitVec 2) : Nat := if sub == 1#2 || sub == 2#2 then 2 else 1
def floatRegs (sub : BitVec 2) : Nat := if sub == 3#2 then 2 else 1
def floatImm (sub : BitVec 2) : ImmTy := if sub == 3#2 then .f64 else .plain

/-- Element j of a raw operand. -/
def elemOf (f : Fmt) (raw j : Nat) : Nat := raw / 2 ^ (f.width * j) % 2 ^ f.width

/-- A raw result from element results, and the flags ORed (09 R186). -/
def joinElems (f : Fmt) (l : List (Nat × Flags)) : Nat × Flags :=
  l.foldr (fun r acc => (r.1 + 2 ^ f.width * acc.1, r.2 ||| acc.2)) (0, 0#8)

/-- A floating lane: each element's function of the flushed sources (09 R183, R184). -/
def floatOp (h : Hdr) (f : VFields) (g : Fmt → Nat → Nat → Nat → Nat × Flags) (w : Wave) (_l : Nat) (ln : Lane) : LaneOut :=
  let t := floatFmt f.sub
  let n := floatRegs f.sub
  let a := srcA h f w ln n (floatImm f.sub)
  let b := srcB h f w ln n (floatImm f.sub)
  let c := srcC f ln n
  let fl (x j : Nat) : Nat := flushIn t f.fzi (elemOf t x j)
  let r := joinElems t ((List.range (floatElems f.sub)).map (fun j => g t (fl a j) (fl b j) (fl c j)))
  outRegs f.d n r.1 r.2

/-- Round an exact result once, flush and clamp it (09 R184, R185, R189). -/
def deliver (f : VFields) (t : Fmt) (m : Rnd) (x : Val) (fl : Flags) : Nat × Flags :=
  let y := flushOut t f.fzo (roundTo t m x)
  (if f.sat then satClamp t y.1 else y.1, y.2 ||| fl)

/-- The exact sum of addends with the NV that 09 R188 gives. -/
def exactSum (f : VFields) (t : Fmt) (ops : List Val) (inv : Bool) (l : List Val) : Nat × Flags :=
  let x := Val.sum f.rnd l
  deliver f t f.rnd x.1 (snanFlag ops ||| flagIf (x.2 || inv) fNV)

def faddElem (f : VFields) (neg : Bool) (t : Fmt) (a b _c : Nat) : Nat × Flags :=
  let x := fdecode t a
  let y := fdecode t b
  exactSum f t [x, y] false [x, if neg then y.negate else y]
/-- FADD (09 R189). -/
def execFadd (h : Hdr) (f : VFields) (s : State) : Res := .next (s.vecFixed h (floatOp h f (faddElem f false)))
/-- FSUB (09 R189). -/
def execFsub (h : Hdr) (f : VFields) (s : State) : Res := .next (s.vecFixed h (floatOp h f (faddElem f true)))

def fmulElem (f : VFields) (t : Fmt) (a b _c : Nat) : Nat × Flags :=
  let x := fdecode t a
  let y := fdecode t b
  let p := x.mul y
  deliver f t f.rnd p.1 (snanFlag [x, y] ||| flagIf p.2 fNV)
/-- FMUL (09 R189). -/
def execFmul (h : Hdr) (f : VFields) (s : State) : Res := .next (s.vecFixed h (floatOp h f (fmulElem f)))

def fmaElem (f : VFields) (t : Fmt) (a b c : Nat) : Nat × Flags :=
  let x := fdecode t a
  let y := fdecode t b
  let z := fdecode t c
  let p := x.mul y
  exactSum f t [x, y, z] p.2 [p.1, z]
/-- FMA (09 R189): one rounding. -/
def execFma (h : Hdr) (f : VFields) (s : State) : Res := .next (s.vecFixed h (floatOp h f (fmaElem f)))

/-- An operand delivered unrounded: a NaN as the canonical NaN, then flush_out (09 R190 to R192). -/
def deliverCode (f : VFields) (t : Fmt) (code : Nat) (fl : Flags) : Nat × Flags :=
  flushOut t f.fzo (if (fdecode t code).isNaN then t.canonNaN else code, fl)

def fminmaxElem (f : VFields) (mx : Bool) (t : Fmt) (a b _c : Nat) : Nat × Flags :=
  let x := fdecode t a
  let y := fdecode t b
  let r := if x.isNaN then b else if y.isNaN then a else if x.ltZ y != mx then a else b
  deliverCode f t r (snanFlag [x, y])
/-- FMIN (09 R190). -/
def execFmin (h : Hdr) (f : VFields) (s : State) : Res := .next (s.vecFixed h (floatOp h f (fminmaxElem f false)))
/-- FMAX (09 R190). -/
def execFmax (h : Hdr) (f : VFields) (s : State) : Res := .next (s.vecFixed h (floatOp h f (fminmaxElem f true)))

def fmed3Elem (f : VFields) (t : Fmt) (a b c : Nat) : Nat × Flags :=
  let vs := [fdecode t a, fdecode t b, fdecode t c]
  if vs.any Val.isNaN then (t.canonNaN, snanFlag vs)
  else
    let l := sortBy (fun x y => (fdecode t x).ltZ (fdecode t y)) [a, b, c]
    deliverCode f t (l.getD 1 0) 0
/-- FMED3 (09 R191). -/
def execFmed3 (h : Hdr) (f : VFields) (s : State) : Res := .next (s.vecFixed h (floatOp h f (fmed3Elem f)))

def fnegElem (f : VFields) (clear : Bool) (t : Fmt) (a _b _c : Nat) : Nat × Flags :=
  let top := 2 ^ (t.width - 1)
  deliverCode f t (if clear || decide (a ≥ top) then a % top else a + top) 0
/-- FNEG (09 R192). -/
def execFneg (h : Hdr) (f : VFields) (s : State) : Res := .next (s.vecFixed h (floatOp h f (fnegElem f false)))
/-- FABS (09 R192). -/
def execFabs (h : Hdr) (f : VFields) (s : State) : Res := .next (s.vecFixed h (floatOp h f (fnegElem f true)))

/-- FCMP's lane: one predicate an element (09 R193). -/
def fcmpOp (h : Hdr) (f : VFields) (w : Wave) (_l : Nat) (ln : Lane) : LaneOut :=
  let t := floatFmt f.sub
  let n := floatRegs f.sub
  let a := srcA h f w ln n (floatImm f.sub)
  let b := srcB h f w ln n (floatImm f.sub)
  let v (x j : Nat) : Val := fdecode t (flushIn t f.fzi (elemOf t x j))
  let rs := (List.range (floatElems f.sub)).map (fun j => floatCond (f.c.toNat % 16) (v a j) (v b j))
  { regs := [], preds := (List.range rs.length).map (fun j => (f.d.toNat % 8 + j, (rs.getD j (false, false)).1)),
    flags := flagIf (rs.any (·.2)) fNV }
/-- FCMP (09 R193). -/
def execFcmp (h : Hdr) (f : VFields) (s : State) : Res := .next (s.vecFixed h (fcmpOp h f))

/-- The quotient of two values (09 R194): value, NV, DZ. -/
def quotient (x y : Val) : Val × Flags :=
  match x, y with
  | .nan _, _ => (.nan false, 0#8)
  | _, .nan _ => (.nan false, 0#8)
  | .inf _, .inf _ => (.nan false, fNV)
  | .inf a, .fin b _ _ => (.inf (a != b), 0#8)
  | .fin a _ _, .inf b => (.fin (a != b) 0 1, 0#8)
  | .fin a n d, .fin b m e =>
    if m == 0 then (if n == 0 then (.nan false, fNV) else (.inf (a != b), fDZ))
    else (.fin (a != b) (n * e) (d * m), 0#8)

def fdivElem (f : VFields) (t : Fmt) (a b _c : Nat) : Nat × Flags :=
  let x := fdecode t a
  let y := fdecode t b
  let q := quotient x y
  deliver f t f.rnd q.1 (q.2 ||| snanFlag [x, y])
/-- FDIV (09 R194): a variable-latency result. -/
def execFdiv (h : Hdr) (f : VFields) (s : State) : Res := .next (s.vecVar h (floatOp h f (fdivElem f)))

/-- A correctly rounded function of one operand: exact value and flags (09 R194). -/
def funcElem (f : VFields) (g : Val → Val × Flags) (t : Fmt) (a _b _c : Nat) : Nat × Flags :=
  let x := fdecode t a
  let r := if x.isNaN then (.nan false, snanFlag [x]) else g x
  deliver f t f.rnd r.1 r.2

def sqrtFn (x : Val) : Val × Flags :=
  match x with
  | .inf s => if s then (.nan false, fNV) else (x, 0#8)
  | .fin s n d => if n == 0 then (x, 0#8) else if s then (.nan false, fNV) else (sqrtVal n d, 0#8)
  | _ => (.nan false, 0#8)
def rcpFn (x : Val) : Val × Flags := quotient (.fin false 1 1) x
def rsqFn (x : Val) : Val × Flags :=
  match x with
  | .inf s => if s then (.nan false, fNV) else (.zero, 0#8)
  | .fin s n d => if n == 0 then (.inf s, fDZ) else if s then (.nan false, fNV) else (sqrtVal d n, 0#8)
  | _ => (.nan false, 0#8)
def ex2Fn (x : Val) : Val × Flags :=
  match x with
  | .inf s => if s then (.zero, 0#8) else (x, 0#8)
  | .fin _ _ d => (exp2Val x.snum d, 0#8)
  | _ => (.nan false, 0#8)
def lg2Fn (x : Val) : Val × Flags :=
  match x with
  | .inf s => if s then (.nan false, fNV) else (x, 0#8)
  | .fin s n d => if n == 0 then (.inf true, fDZ) else if s then (.nan false, fNV) else (log2Val n d, 0#8)
  | _ => (.nan false, 0#8)
def sinFn (x : Val) : Val × Flags :=
  match x with
  | .fin s n d => if n % d == 0 then (.fin s 0 1, 0#8) else (sinVal x.snum d, 0#8)
  | .inf _ => (.nan false, fNV)
  | _ => (.nan false, 0#8)
/-- cos(πa) = sin(π(a + ½)), with +0 at every n + ½. -/
def cosFn (x : Val) : Val × Flags :=
  match x with
  | .fin _ n d =>
    if n == 0 then (.fin false 1 1, 0#8)
    else if (2 * n) % (2 * d) == d then (.zero, 0#8)
    else (sinVal (2 * x.snum + d) (2 * d), 0#8)
  | .inf _ => (.nan false, fNV)
  | _ => (.nan false, 0#8)

/-- FSQRT (09 R194). -/
def execFsqrt (h : Hdr) (f : VFields) (s : State) : Res := .next (s.vecVar h (floatOp h f (funcElem f sqrtFn)))
/-- FRCP (09 R194). -/
def execFrcp (h : Hdr) (f : VFields) (s : State) : Res := .next (s.vecVar h (floatOp h f (funcElem f rcpFn)))
/-- FRSQ (09 R194). -/
def execFrsq (h : Hdr) (f : VFields) (s : State) : Res := .next (s.vecVar h (floatOp h f (funcElem f rsqFn)))
/-- FEX2 (09 R194). -/
def execFex2 (h : Hdr) (f : VFields) (s : State) : Res := .next (s.vecVar h (floatOp h f (funcElem f ex2Fn)))
/-- FLG2 (09 R194). -/
def execFlg2 (h : Hdr) (f : VFields) (s : State) : Res := .next (s.vecVar h (floatOp h f (funcElem f lg2Fn)))
/-- FSIN (09 R194). -/
def execFsin (h : Hdr) (f : VFields) (s : State) : Res := .next (s.vecVar h (floatOp h f (funcElem f sinFn)))
/-- FCOS (09 R194). -/
def execFcos (h : Hdr) (f : VFields) (s : State) : Res := .next (s.vecVar h (floatOp h f (funcElem f cosFn)))

def frndElem (f : VFields) (t : Fmt) (a _b _c : Nat) : Nat × Flags :=
  match fdecode t a with
  | .nan sig => (t.canonNaN, flagIf sig fNV)
  | .inf _ => (a, 0#8)
  | .fin s n d => flushOut t f.fzo (fencode t (.fin s (rintMag f.rnd s n d) 1), 0#8)
/-- FRND (09 R195). -/
def execFrnd (h : Hdr) (f : VFields) (s : State) : Res := .next (s.vecFixed h (floatOp h f (frndElem f)))

def ffracElem (f : VFields) (t : Fmt) (a _b _c : Nat) : Nat × Flags :=
  match fdecode t a with
  | .nan sig => (t.canonNaN, flagIf sig fNV)
  | .inf _ => (t.canonNaN, fNV)
  | .fin s n d => flushOut t f.fzo (roundTo t .rz (.fin false (((Val.fin s n d).snum.fmod d).toNat) d))
/-- FFRAC (09 R196). -/
def execFfrac (h : Hdr) (f : VFields) (s : State) : Res := .next (s.vecFixed h (floatOp h f (ffracElem f)))

/-- a × 2^n; beyond ±5000 the exponent makes no difference to any format (09 R197). -/
def scaleVal (x : Val) (n : Int) : Val :=
  let e := max (-5000) (min 5000 n)
  match x with
  | .fin s m d => if e < 0 then .fin s m (d * 2 ^ (-e).toNat) else .fin s (m * 2 ^ e.toNat) d
  | v => v

def fldexpOp (h : Hdr) (f : VFields) (w : Wave) (_l : Nat) (ln : Lane) : LaneOut :=
  let t := floatFmt f.sub
  let n := floatRegs f.sub
  let a := srcA h f w ln n (floatImm f.sub)
  let b := srcB h f w ln 1 .plain
  let e (j : Nat) : Int := if floatElems f.sub == 2 then toSigned 16 (b / 2 ^ (16 * j)) else toSigned 32 b
  let r := joinElems t ((List.range (floatElems f.sub)).map (fun j =>
    let x := fdecode t (flushIn t f.fzi (elemOf t a j))
    deliver f t f.rnd (scaleVal x (e j)) (snanFlag [x])))
  outRegs f.d n r.1 r.2
/-- FLDEXP (09 R197). -/
def execFldexp (h : Hdr) (f : VFields) (s : State) : Res := .next (s.vecFixed h (fldexpOp h f))

/-- The class mask of a code (09 R198). -/
def classMask (t : Fmt) (code : Nat) : Nat :=
  match fdecode t code with
  | .nan sig => if sig then 2 ^ 8 else 2 ^ 9
  | .inf s => if s then 2 ^ 0 else 2 ^ 7
  | .fin s n _ =>
    if n == 0 then (if s then 2 ^ 3 else 2 ^ 4)
    else if isSubnormal t code then (if s then 2 ^ 2 else 2 ^ 5)
    else (if s then 2 ^ 1 else 2 ^ 6)

def fclassOp (h : Hdr) (f : VFields) (w : Wave) (_l : Nat) (ln : Lane) : LaneOut :=
  let t := floatFmt f.sub
  let a := srcA h f w ln (floatRegs f.sub) (floatImm f.sub)
  outRegs f.d 1 ((List.range (floatElems f.sub)).foldl (fun acc j => acc + classMask t (elemOf t a j) * 2 ^ (16 * j)) 0)
/-- FCLASS (09 R198): the mask takes one register whatever the type. -/
def execFclass (h : Hdr) (f : VFields) (s : State) : Res := .next (s.vecFixed h (fclassOp h f))

def fdot2Op (h : Hdr) (f : VFields) (w : Wave) (_l : Nat) (ln : Lane) : LaneOut :=
  let t := floatFmt f.sub
  let a := srcA h f w ln 1 .plain
  let b := srcB h f w ln 1 .plain
  let e (x j : Nat) : Val := fdecode t (flushIn t f.fzi (elemOf t x j))
  let c := fdecode .f32 (flushIn .f32 f.fzi (srcC f ln 1))
  let p0 := (e a 0).mul (e b 0)
  let p1 := (e a 1).mul (e b 1)
  let r := exactSum f .f32 [e a 0, e a 1, e b 0, e b 1, c] (p0.2 || p1.2) [p0.1, p1.1, c]
  outRegs f.d 1 r.1 r.2
/-- FDOT2 (09 R199). -/
def execFdot2 (h : Hdr) (f : VFields) (s : State) : Res := .next (s.vecFixed h (fdot2Op h f))

def flerpElem (f : VFields) (t : Fmt) (a b c : Nat) : Nat × Flags :=
  let x := fdecode t a
  let y := fdecode t b
  let z := fdecode t c
  if f.kc && (y.isNaN || y.isInf) then deliver f t f.rnd x (snanFlag [x, y])
  else
    let omt := Val.sum f.rnd [.fin false 1 1, z.negate]
    let p := x.mul omt.1
    let q := y.mul z
    exactSum f t [x, y, z] (p.2 || q.2) [p.1, q.1]
/-- FLERP (09 R200). -/
def execFlerp (h : Hdr) (f : VFields) (s : State) : Res := .next (s.vecFixed h (floatOp h f (flerpElem f)))

end Sys2Proof.Machine
end

