-- ==== Sys2Proof/Machine/Integer.lean ====
section
/-! DEFINITION. The integer vector instructions (08 R159 to R169). -/

namespace Sys2Proof.Machine

/-- Read A and B as values of a type and answer a function of them (08 R161). -/
def intArith (h : Hdr) (f : VFields) (x : Int → Int → Int → Int) (w : Wave) (_l : Nat) (ln : Lane) : LaneOut :=
  let t := intType f.sub
  let n := typeRegs t.w
  let a := t.read (srcA h f w ln n (immFor t.w))
  let b := t.read (srcB h f w ln n (immFor t.w))
  let c := t.read (srcC f ln n)
  let r := intResult t f.sat (x a b c)
  outRegs f.d n r.1 r.2

/-- IADD (08 R161). -/
def execIadd (h : Hdr) (f : VFields) (s : State) : Res := .next (s.vecFixed h (intArith h f (fun a b _ => a + b)))
/-- ISUB (08 R161). -/
def execIsub (h : Hdr) (f : VFields) (s : State) : Res := .next (s.vecFixed h (intArith h f (fun a b _ => a - b)))
/-- IMUL (08 R161). -/
def execImul (h : Hdr) (f : VFields) (s : State) : Res := .next (s.vecFixed h (intArith h f (fun a b _ => a * b)))
/-- IMAD (08 R161). -/
def execImad (h : Hdr) (f : VFields) (s : State) : Res := .next (s.vecFixed h (intArith h f (fun a b c => a * b + c)))
/-- IMIN (08 R161). -/
def execImin (h : Hdr) (f : VFields) (s : State) : Res := .next (s.vecFixed h (intArith h f (fun a b _ => min a b)))
/-- IMAX (08 R161). -/
def execImax (h : Hdr) (f : VFields) (s : State) : Res := .next (s.vecFixed h (intArith h f (fun a b _ => max a b)))
/-- IABS (08 R161). -/
def execIabs (h : Hdr) (f : VFields) (s : State) : Res := .next (s.vecFixed h (intArith h f (fun a _ _ => (a.natAbs : Int))))

/-- Quotient and remainder of 08 R162, with its corner cases. -/
def intDivRem (t : IFmt) (sat : Bool) (a b : Int) : (Nat × Flags) × (Nat × Flags) :=
  if b == 0 then ((2 ^ t.w - 1, fDZ), (wrap t.w a, fDZ))
  else if t.signed && a == t.lo && b == -1 then
    (if sat then (wrap t.w t.hi, fSATD) else (wrap t.w t.lo, 0#8), (0, 0#8))
  else ((wrap t.w (a.tdiv b), 0#8), (wrap t.w (a.tmod b), 0#8))

def divOp (h : Hdr) (f : VFields) (rem : Bool) (w : Wave) (_l : Nat) (ln : Lane) : LaneOut :=
  let t := intType f.sub
  let n := typeRegs t.w
  let p := intDivRem t f.sat (t.read (srcA h f w ln n (immFor t.w))) (t.read (srcB h f w ln n (immFor t.w)))
  let r := if rem then p.2 else p.1
  outRegs f.d n r.1 r.2

/-- IDIV (08 R162): a variable-latency result. -/
def execIdiv (h : Hdr) (f : VFields) (s : State) : Res := .next (s.vecVar h (divOp h f false))
/-- IREM (08 R162): a variable-latency result. -/
def execIrem (h : Hdr) (f : VFields) (s : State) : Res := .next (s.vecVar h (divOp h f true))

/-- IADDC's lane (08 R163). -/
def iaddcOp (h : Hdr) (f : VFields) (w : Wave) (_l : Nat) (ln : Lane) : LaneOut :=
  let wd := width2 f.sub
  let n := typeRegs wd
  let p := f.c.toNat % 8
  let sum := srcA h f w ln n (immFor wd) + srcB h f w ln n (immFor wd) + b2n (f.c.getLsbD 3 && ln.pred p)
  { outRegs f.d n (sum % 2 ^ wd) with preds := [(p, decide (sum ≥ 2 ^ wd))] }

/-- IADDC (08 R163). -/
def execIaddc (h : Hdr) (f : VFields) (s : State) : Res := .next (s.vecFixed h (iaddcOp h f))

/-- A function of A and B on .32 or .64 values. -/
def bitOp (h : Hdr) (f : VFields) (g : Nat → Nat → Nat → Nat) (w : Wave) (_l : Nat) (ln : Lane) : LaneOut :=
  let wd := width2 f.sub
  let n := typeRegs wd
  outRegs f.d n (g wd (srcA h f w ln n (immFor wd)) (srcB h f w ln n (immFor wd)))

/-- AND (08 R164). -/
def execAnd (h : Hdr) (f : VFields) (s : State) : Res := .next (s.vecFixed h (bitOp h f (fun _ a b => a &&& b)))
/-- OR (08 R164). -/
def execOr (h : Hdr) (f : VFields) (s : State) : Res := .next (s.vecFixed h (bitOp h f (fun _ a b => a ||| b)))
/-- XOR (08 R164). -/
def execXor (h : Hdr) (f : VFields) (s : State) : Res := .next (s.vecFixed h (bitOp h f (fun _ a b => a ^^^ b)))

/-- BMIX's function of three inputs under a table (08 R164). -/
def bmix (table w a b d : Nat) : Nat :=
  ofBits w (fun i => bit table (b2n (bit a i) + 2 * b2n (bit b i) + 4 * b2n (bit d i)))

def bmixOp (h : Hdr) (f : VFields) (w : Wave) (_l : Nat) (ln : Lane) : LaneOut :=
  let wd := width2 f.sub
  let n := typeRegs wd
  outRegs f.d n (bmix (f.c.toNat % 256) wd (srcA h f w ln n (immFor wd)) (srcB h f w ln n (immFor wd)) (ln.vblock f.d.toNat n))

/-- BMIX (08 R164): the previous value of vD is the third input. -/
def execBmix (h : Hdr) (f : VFields) (s : State) : Res := .next (s.vecFixed h (bmixOp h f))

/-- a shifted left by n in w bits (08 R165). -/
def shlVal (w a n : Nat) : Nat := if n ≥ w then 0 else a * 2 ^ n % 2 ^ w
/-- a shifted right by n, by the sign of a when signed (08 R165). -/
def shrVal (t : IFmt) (a n : Nat) : Nat :=
  if n ≥ t.w then (if t.signed && decide (toSigned t.w a < 0) then 2 ^ t.w - 1 else 0)
  else wrap t.w ((t.read a).fdiv ((2 ^ n : Nat) : Int))
/-- a rotated left by n mod w (08 R165). -/
def rotVal (w a n : Nat) : Nat := let k := n % w; (a * 2 ^ k + a / 2 ^ (w - k)) % 2 ^ w

/-- A shift: A of the form's width, the count B from one register. -/
def shiftOp (h : Hdr) (f : VFields) (wd : Nat) (g : Nat → Nat → Nat) (w : Wave) (_l : Nat) (ln : Lane) : LaneOut :=
  let n := typeRegs wd
  outRegs f.d n (g (srcA h f w ln n (immFor wd)) (srcB h f w ln 1 .plain))

/-- SHL (08 R165). -/
def execShl (h : Hdr) (f : VFields) (s : State) : Res := .next (s.vecFixed h (shiftOp h f (width2 f.sub) (shlVal (width2 f.sub))))
/-- The types of SHR: SUB 0 .N32, 1 .I32, 2 .N64, 3 .I64 (03 R57). -/
def shrType (sub : BitVec 2) : IFmt := { w := if sub.getLsbD 1 then 64 else 32, signed := sub.getLsbD 0 }
/-- SHR (08 R165). -/
def execShr (h : Hdr) (f : VFields) (s : State) : Res := .next (s.vecFixed h (shiftOp h f (shrType f.sub).w (shrVal (shrType f.sub))))
/-- ROT (08 R165). -/
def execRot (h : Hdr) (f : VFields) (s : State) : Res := .next (s.vecFixed h (shiftOp h f (width2 f.sub) (rotVal (width2 f.sub))))

/-- A 32-bit function of three sources. -/
def op3 (h : Hdr) (f : VFields) (g : Nat → Nat → Nat → Nat) (w : Wave) (_l : Nat) (ln : Lane) : LaneOut :=
  outRegs f.d 1 (g (srcA h f w ln 1 .plain) (srcB h f w ln 1 .plain) (srcC f ln 1))

/-- FUNNEL's value: .L the high word of the left shift, .R the low word of the right shift (08 R165). -/
def funnelVal (right : Bool) (a b c : Nat) : Nat :=
  let v := a * 2 ^ 32 + b
  if right then v / 2 ^ (c % 32) % 2 ^ 32 else v * 2 ^ (c % 32) / 2 ^ 32 % 2 ^ 32

/-- FUNNEL (08 R165). -/
def execFunnel (h : Hdr) (f : VFields) (s : State) : Res := .next (s.vecFixed h (op3 h f (funnelVal (f.sub == 1#2))))

/-- BFE's value (08 R166). -/
def bfeVal (signed : Bool) (a b c : Nat) : Nat :=
  let pos := min (b % 256) 32
  let len := min (c % 256) 32
  let v := if signed then wrap 64 (toSigned 32 a) else a
  if len == 0 then 0
  else
    let x := v / 2 ^ pos % 2 ^ len
    if signed then wrap 32 (toSigned len x) else x

/-- BFE (08 R166). -/
def execBfe (h : Hdr) (f : VFields) (s : State) : Res := .next (s.vecFixed h (op3 h f (bfeVal (f.sub == 1#2))))

/-- BFI's value (08 R166). -/
def bfiVal (a b c : Nat) : Nat :=
  let pos := min (c % 256) 32
  let len := min (c / 256 % 256) 32
  let m := ((2 ^ len - 1) * 2 ^ pos) % 2 ^ 32
  (a &&& (2 ^ 32 - 1 - m)) ||| ((b * 2 ^ pos) &&& m)

/-- BFI (08 R166). -/
def execBfi (h : Hdr) (f : VFields) (s : State) : Res := .next (s.vecFixed h (op3 h f bfiVal))

/-- A function of A whose result is one register. -/
def unary32 (h : Hdr) (f : VFields) (g : Nat → Nat → Nat) (w : Wave) (_l : Nat) (ln : Lane) : LaneOut :=
  let wd := width2 f.sub
  outRegs f.d 1 (g wd (srcA h f w ln (typeRegs wd) (immFor wd)))

/-- POPC (08 R167). -/
def execPopc (h : Hdr) (f : VFields) (s : State) : Res := .next (s.vecFixed h (unary32 h f popcount))
/-- CLZ (08 R167). -/
def execClz (h : Hdr) (f : VFields) (s : State) : Res := .next (s.vecFixed h (unary32 h f leadingZeros))

/-- A function of A in the form's own width. -/
def unaryOp (h : Hdr) (f : VFields) (g : Nat → Nat → Nat) (w : Wave) (_l : Nat) (ln : Lane) : LaneOut :=
  let wd := width2 f.sub
  outRegs f.d (typeRegs wd) (g wd (srcA h f w ln (typeRegs wd) (immFor wd)))

/-- BREV (08 R167). -/
def execBrev (h : Hdr) (f : VFields) (s : State) : Res := .next (s.vecFixed h (unaryOp h f bitReverse))
/-- MOV (08 R168). -/
def execMov (h : Hdr) (f : VFields) (s : State) : Res := .next (s.vecFixed h (unaryOp h f (fun _ a => a)))

def icmpOp (h : Hdr) (f : VFields) (w : Wave) (_l : Nat) (ln : Lane) : LaneOut :=
  let wd := width2 f.sub
  let n := typeRegs wd
  outPred (f.d.toNat % 8) (intCond (f.c.toNat % 16) wd (srcA h f w ln n (immFor wd)) (srcB h f w ln n (immFor wd)))

/-- ICMP (08 R168). -/
def execIcmp (h : Hdr) (f : VFields) (s : State) : Res := .next (s.vecFixed h (icmpOp h f))

def selOp (h : Hdr) (f : VFields) (w : Wave) (_l : Nat) (ln : Lane) : LaneOut :=
  let wd := width2 f.sub
  let n := typeRegs wd
  outRegs f.d n (if ln.pred (f.c.toNat % 8) != f.c.getLsbD 3 then srcA h f w ln n (immFor wd) else srcB h f w ln n (immFor wd))

/-- SEL (08 R168). -/
def execSel (h : Hdr) (f : VFields) (s : State) : Res := .next (s.vecFixed h (selOp h f))

def leaOp (h : Hdr) (f : VFields) (w : Wave) (_l : Nat) (ln : Lane) : LaneOut :=
  let wd := width2 f.sub
  let n := typeRegs wd
  let b := srcB h f w ln 1 .plain
  let b' : Int := if wd == 64 then toSigned 32 b else (b : Int)
  outRegs f.d n (wrap wd ((srcA h f w ln n (immFor wd) : Nat) + b' * ((2 ^ (f.c.toNat % 64) : Nat) : Int)))

/-- LEA (08 R169). -/
def execLea (h : Hdr) (f : VFields) (s : State) : Res := .next (s.vecFixed h (leaOp h f))

/-- Field j of `w` bits of a register, read as signed or not. -/
def fieldOf (w : Nat) (signed : Bool) (x j : Nat) : Int :=
  let v := x / 2 ^ (w * j) % 2 ^ w
  if signed then toSigned w v else (v : Int)

def idp4Op (h : Hdr) (f : VFields) (w : Wave) (_l : Nat) (ln : Lane) : LaneOut :=
  let t : IFmt := { w := 32, signed := f.sub != 1#2 }
  let a := srcA h f w ln 1 .plain
  let b := srcB h f w ln 1 .plain
  let dot := (List.range 4).foldl (fun (acc : Int) j => acc + fieldOf 8 (f.sub != 1#2) a j * fieldOf 8 (f.sub == 0#2) b j) 0
  let r := intResult t f.sat (t.read (srcC f ln 1) + dot)
  outRegs f.d 1 r.1 r.2

/-- IDP4 (08 R169). -/
def execIdp4 (h : Hdr) (f : VFields) (s : State) : Res := .next (s.vecFixed h (idp4Op h f))

def sadOp (h : Hdr) (f : VFields) (w : Wave) (_l : Nat) (ln : Lane) : LaneOut :=
  let fw := if f.sub == 0#2 then 8 else 16
  let a := srcA h f w ln 1 .plain
  let b := srcB h f w ln 1 .plain
  let sum := (List.range (32 / fw)).foldl (fun acc j => acc + (fieldOf fw false a j - fieldOf fw false b j).natAbs) 0
  let r := intResult { w := 32, signed := false } f.sat ((srcC f ln 1 + sum : Nat) : Int)
  outRegs f.d 1 r.1 r.2

/-- SAD (08 R169). -/
def execSad (h : Hdr) (f : VFields) (s : State) : Res := .next (s.vecFixed h (sadOp h f))

end Sys2Proof.Machine
end

