-- ==== Sys2Proof/Machine/Scalar.lean ====
section
/-! DEFINITION. The scalar instructions (08 R170 to R172): each takes place once per issue (02 R41). -/

namespace Sys2Proof.Machine

def wideS (f : SFields) : Bool := f.sub == 1#2
def widthS (f : SFields) : Nat := if wideS f then 64 else 32

/-- SADD (08 R171). -/
def execSadd (h : Hdr) (f : SFields) (s : State) : Res :=
  .next (s.scalar h f (wideS f) (fun w => (scaA f w (wideS f) + scaB h f w (wideS f) false) % 2 ^ widthS f))
/-- SSUB (08 R171). -/
def execSsub (h : Hdr) (f : SFields) (s : State) : Res :=
  .next (s.scalar h f (wideS f) (fun w => wrap (widthS f) ((scaA f w (wideS f) : Int) - scaB h f w (wideS f) false)))
/-- SMUL (08 R171). -/
def execSmul (h : Hdr) (f : SFields) (s : State) : Res :=
  .next (s.scalar h f (wideS f) (fun w => scaA f w (wideS f) * scaB h f w (wideS f) false % 2 ^ widthS f))
/-- SAND (08 R171); IMM16 is zero-extended. -/
def execSand (h : Hdr) (f : SFields) (s : State) : Res :=
  .next (s.scalar h f (wideS f) (fun w => scaA f w (wideS f) &&& scaB h f w (wideS f) true))
/-- SOR (08 R171). -/
def execSor (h : Hdr) (f : SFields) (s : State) : Res :=
  .next (s.scalar h f (wideS f) (fun w => scaA f w (wideS f) ||| scaB h f w (wideS f) true))
/-- SXOR (08 R171). -/
def execSxor (h : Hdr) (f : SFields) (s : State) : Res :=
  .next (s.scalar h f (wideS f) (fun w => scaA f w (wideS f) ^^^ scaB h f w (wideS f) true))
/-- SSHL (08 R171): the count is b's low 32 bits. -/
def execSshl (h : Hdr) (f : SFields) (s : State) : Res :=
  .next (s.scalar h f (wideS f) (fun w => shlVal (widthS f) (scaA f w (wideS f)) (scaB h f w (wideS f) false % 2 ^ 32)))
/-- SSHR (08 R171): SUB 0 .N32, SUB 1 .I32. -/
def execSshr (h : Hdr) (f : SFields) (s : State) : Res :=
  .next (s.scalar h f false (fun w => shrVal { w := 32, signed := f.sub == 1#2 } (scaA f w false) (scaB h f w false false)))
/-- SMOV (08 R171). -/
def execSmov (h : Hdr) (f : SFields) (s : State) : Res :=
  .next (s.scalar h f (wideS f) (fun w => scaB h f w (wideS f) false))
/-- SSEL (08 R171): selects on the predicate of the lowest lane of the issue. -/
def execSsel (h : Hdr) (f : SFields) (s : State) : Res :=
  .next (s.scalar h f (wideS f) (fun w =>
    let p := match lowestLane s.cur.mask with
      | some l => (w.lane l).pred (f.imm.toNat % 8)
      | none => false
    if p then scaA f w (wideS f) else w.sblock f.b.toNat (if wideS f then 2 else 1)))
/-- SBFE (08 R171): pos = b[7:0], len = b[15:8]. -/
def execSbfe (h : Hdr) (f : SFields) (s : State) : Res :=
  .next (s.scalar h f false (fun w =>
    let b := scaB h f w false true
    bfeVal (f.sub == 1#2) (scaA f w false) b (b / 256)))
/-- SFF1 (08 R171). -/
def execSff1 (h : Hdr) (f : SFields) (s : State) : Res :=
  .next (s.scalar h f (wideS f) (fun w => lowestOne (widthS f) (scaA f w (wideS f))))
/-- SPOPC (08 R171). -/
def execSpopc (h : Hdr) (f : SFields) (s : State) : Res :=
  .next (s.scalar h f (wideS f) (fun w => popcount (widthS f) (scaA f w (wideS f))))
/-- SLEA (08 R171). -/
def execSlea (h : Hdr) (f : SFields) (s : State) : Res :=
  .next (s.scalar h f (wideS f) (fun w =>
    (scaA f w (wideS f) + w.sblock f.b.toNat (if wideS f then 2 else 1) * 2 ^ (f.imm.toNat % 64)) % 2 ^ widthS f))
/-- SCMP (08 R172): writes pD in every lane of the issue, whatever their guards. -/
def execScmp (h : Hdr) (f : SFields) (s : State) : Res :=
  let w := s.curWave
  let b := intCond (f.d.toNat / 8 % 16) (widthS f) (scaA f w (wideS f)) (scaB h f w (wideS f) false)
  .next ((s.updCur (fun w => w.updLanes s.cur.mask (fun _ ln => ln.setPred (f.d.toNat % 8) b))).finish h)

end Sys2Proof.Machine
end

