-- ==== Sys2Proof/Machine/Dispatch.lean ====
section
/-! DEFINITION. The dispatch: one arm for each constructor of `Instr`, each one call of its meaning. -/

namespace Sys2Proof.Machine

/-- The meaning of an instruction or of another step of the device, in a state whose current issue is `cur`. -/
def exec (i : Instr) (s : State) : Host.Outcome State Fault Refusal :=
  match i with
  | .nop h f => Sys2Proof.Machine.execNop h f s
  | .exit h f => Sys2Proof.Machine.execExit h f s
  | .yield h f => Sys2Proof.Machine.execYield h f s
  | .trap h f => Sys2Proof.Machine.execTrap h f s
  | .tret h f => Sys2Proof.Machine.execTret h f s
  | .bkpt h f => Sys2Proof.Machine.execBkpt h f s
  | .sysrd h f => Sys2Proof.Machine.execSysrd h f s
  | .syswr h f => Sys2Proof.Machine.execSyswr h f s
  | .fence h f => Sys2Proof.Machine.execFence h f s
  | .waitw h f => Sys2Proof.Machine.execWaitw h f s
  | .bar h f => Sys2Proof.Machine.execBar h f s
  | .br h f => Sys2Proof.Machine.execBr h f s
  | .bru h f => Sys2Proof.Machine.execBru h f s
  | .brs h f => Sys2Proof.Machine.execBrs h f s
  | .jal h f => Sys2Proof.Machine.execJal h f s
  | .jmp h f => Sys2Proof.Machine.execJmp h f s
  | .setprio h f => Sys2Proof.Machine.execSetprio h f s
  | .cvset h f => Sys2Proof.Machine.execCvset h f s
  | .cvsign h f => Sys2Proof.Machine.execCvsign h f s
  | .cvwait h f => Sys2Proof.Machine.execCvwait h f s
  | .spawn h f => Sys2Proof.Machine.execSpawn h f s
  | .repack h f => Sys2Proof.Machine.execRepack h f s
  | .iadd h f => Sys2Proof.Machine.execIadd h f s
  | .isub h f => Sys2Proof.Machine.execIsub h f s
  | .imul h f => Sys2Proof.Machine.execImul h f s
  | .imad h f => Sys2Proof.Machine.execImad h f s
  | .imin h f => Sys2Proof.Machine.execImin h f s
  | .imax h f => Sys2Proof.Machine.execImax h f s
  | .iabs h f => Sys2Proof.Machine.execIabs h f s
  | .idiv h f => Sys2Proof.Machine.execIdiv h f s
  | .irem h f => Sys2Proof.Machine.execIrem h f s
  | .iaddc h f => Sys2Proof.Machine.execIaddc h f s
  | .and h f => Sys2Proof.Machine.execAnd h f s
  | .or h f => Sys2Proof.Machine.execOr h f s
  | .xor h f => Sys2Proof.Machine.execXor h f s
  | .bmix h f => Sys2Proof.Machine.execBmix h f s
  | .shl h f => Sys2Proof.Machine.execShl h f s
  | .shr h f => Sys2Proof.Machine.execShr h f s
  | .rot h f => Sys2Proof.Machine.execRot h f s
  | .funnel h f => Sys2Proof.Machine.execFunnel h f s
  | .bfe h f => Sys2Proof.Machine.execBfe h f s
  | .bfi h f => Sys2Proof.Machine.execBfi h f s
  | .popc h f => Sys2Proof.Machine.execPopc h f s
  | .clz h f => Sys2Proof.Machine.execClz h f s
  | .brev h f => Sys2Proof.Machine.execBrev h f s
  | .icmp h f => Sys2Proof.Machine.execIcmp h f s
  | .sel h f => Sys2Proof.Machine.execSel h f s
  | .mov h f => Sys2Proof.Machine.execMov h f s
  | .lea h f => Sys2Proof.Machine.execLea h f s
  | .idp4 h f => Sys2Proof.Machine.execIdp4 h f s
  | .sad h f => Sys2Proof.Machine.execSad h f s
  | .fadd h f => Sys2Proof.Machine.execFadd h f s
  | .fsub h f => Sys2Proof.Machine.execFsub h f s
  | .fmul h f => Sys2Proof.Machine.execFmul h f s
  | .fma h f => Sys2Proof.Machine.execFma h f s
  | .fmin h f => Sys2Proof.Machine.execFmin h f s
  | .fmax h f => Sys2Proof.Machine.execFmax h f s
  | .fneg h f => Sys2Proof.Machine.execFneg h f s
  | .fabs h f => Sys2Proof.Machine.execFabs h f s
  | .fcmp h f => Sys2Proof.Machine.execFcmp h f s
  | .fdiv h f => Sys2Proof.Machine.execFdiv h f s
  | .fsqrt h f => Sys2Proof.Machine.execFsqrt h f s
  | .frcp h f => Sys2Proof.Machine.execFrcp h f s
  | .frsq h f => Sys2Proof.Machine.execFrsq h f s
  | .fex2 h f => Sys2Proof.Machine.execFex2 h f s
  | .flg2 h f => Sys2Proof.Machine.execFlg2 h f s
  | .fsin h f => Sys2Proof.Machine.execFsin h f s
  | .fcos h f => Sys2Proof.Machine.execFcos h f s
  | .frnd h f => Sys2Proof.Machine.execFrnd h f s
  | .ffrac h f => Sys2Proof.Machine.execFfrac h f s
  | .fldexp h f => Sys2Proof.Machine.execFldexp h f s
  | .fclass h f => Sys2Proof.Machine.execFclass h f s
  | .fdot2 h f => Sys2Proof.Machine.execFdot2 h f s
  | .flerp h f => Sys2Proof.Machine.execFlerp h f s
  | .fmed3 h f => Sys2Proof.Machine.execFmed3 h f s
  | .cvt h f => Sys2Proof.Machine.execCvt h f s
  | .pack h f => Sys2Proof.Machine.execPack h f s
  | .unpack h f => Sys2Proof.Machine.execUnpack h f s
  | .tripack h f => Sys2Proof.Machine.execTripack h f s
  | .triunpk h f => Sys2Proof.Machine.execTriunpk h f s
  | .lxch h f => Sys2Proof.Machine.execLxch h f s
  | .pqry h f => Sys2Proof.Machine.execPqry h f s
  | .wred h f => Sys2Proof.Machine.execWred h f s
  | .wscan h f => Sys2Proof.Machine.execWscan h f s
  | .lpeer h f => Sys2Proof.Machine.execLpeer h f s
  | .lread h f => Sys2Proof.Machine.execLread h f s
  | .lwrite h f => Sys2Proof.Machine.execLwrite h f s
  | .sadd h f => Sys2Proof.Machine.execSadd h f s
  | .ssub h f => Sys2Proof.Machine.execSsub h f s
  | .smul h f => Sys2Proof.Machine.execSmul h f s
  | .sand h f => Sys2Proof.Machine.execSand h f s
  | .sor h f => Sys2Proof.Machine.execSor h f s
  | .sxor h f => Sys2Proof.Machine.execSxor h f s
  | .sshl h f => Sys2Proof.Machine.execSshl h f s
  | .sshr h f => Sys2Proof.Machine.execSshr h f s
  | .scmp h f => Sys2Proof.Machine.execScmp h f s
  | .smov h f => Sys2Proof.Machine.execSmov h f s
  | .ssel h f => Sys2Proof.Machine.execSsel h f s
  | .sbfe h f => Sys2Proof.Machine.execSbfe h f s
  | .sff1 h f => Sys2Proof.Machine.execSff1 h f s
  | .spopc h f => Sys2Proof.Machine.execSpopc h f s
  | .slea h f => Sys2Proof.Machine.execSlea h f s
  | .ld h f => Sys2Proof.Machine.execLd h f s
  | .st h f => Sys2Proof.Machine.execSt h f s
  | .ldl h f => Sys2Proof.Machine.execLdl h f s
  | .stl h f => Sys2Proof.Machine.execStl h f s
  | .lds h f => Sys2Proof.Machine.execLds h f s
  | .sts h f => Sys2Proof.Machine.execSts h f s
  | .ldcvt h f => Sys2Proof.Machine.execLdcvt h f s
  | .pref h f => Sys2Proof.Machine.execPref h f s
  | .cflush h f => Sys2Proof.Machine.execCflush h f s
  | .fifopush h f => Sys2Proof.Machine.execFifopush h f s
  | .fifopop h f => Sys2Proof.Machine.execFifopop h f s
  | .bankcfg h f => Sys2Proof.Machine.execBankcfg h f s
  | .qpop h f => Sys2Proof.Machine.execQpop h f s
  | .qstat h f => Sys2Proof.Machine.execQstat h f s
  | .strm h f => Sys2Proof.Machine.execStrm h f s
  | .strmx h f => Sys2Proof.Machine.execStrmx h f s
  | .atom h f => Sys2Proof.Machine.execAtom h f s
  | .atomx h f => Sys2Proof.Machine.execAtomx h f s
  | .red h f => Sys2Proof.Machine.execRed h f s
  | .atoml h f => Sys2Proof.Machine.execAtoml h f s
  | .xred h f => Sys2Proof.Machine.execXred h f s
  | .copy h f => Sys2Proof.Machine.execCopy h f s
  | .copym h f => Sys2Proof.Machine.execCopym h f s
  | .halo h f => Sys2Proof.Machine.execHalo h f s
  | .gathv h f => Sys2Proof.Machine.execGathv h f s
  | .tagarm h f => Sys2Proof.Machine.execTagarm h f s
  | .tagwait h f => Sys2Proof.Machine.execTagwait h f s
  | .tagff h f => Sys2Proof.Machine.execTagff h f s
  | .tagclr h f => Sys2Proof.Machine.execTagclr h f s
  | .obres h f => Sys2Proof.Machine.execObres h f s
  | .obrel h f => Sys2Proof.Machine.execObrel h f s
  | .obld h f => Sys2Proof.Machine.execObld h f s
  | .mma h f => Sys2Proof.Machine.execMma h f s
  | .accz h f => Sys2Proof.Machine.execAccz h f s
  | .accld h f => Sys2Proof.Machine.execAccld h f s
  | .drain h f => Sys2Proof.Machine.execDrain h f s
  | .accrd h f => Sys2Proof.Machine.execAccrd h f s
  | .mstat h f => Sys2Proof.Machine.execMstat h f s
  | .rast h f => Sys2Proof.Machine.execRast h f s
  | .rastSet h f => Sys2Proof.Machine.execRastSet h f s
  | .blend h f => Sys2Proof.Machine.execBlend h f s
  | .blendSet h f => Sys2Proof.Machine.execBlendSet h f s
  | .trav h f => Sys2Proof.Machine.execTrav h f s
  | .travSet h f => Sys2Proof.Machine.execTravSet h f s
  | .filt h f => Sys2Proof.Machine.execFilt h f s
  | .filtSet h f => Sys2Proof.Machine.execFiltSet h f s
  | .bin h f => Sys2Proof.Machine.execBin h f s
  | .mcall h f => Sys2Proof.Machine.execMcall h f s
  | .taskpush h f => Sys2Proof.Machine.execTaskpush h f s
  | .hqpush h f => Sys2Proof.Machine.execHqpush h f s
  | .hqpop h f => Sys2Proof.Machine.execHqpop h f s
  | .ordin h f => Sys2Proof.Machine.execOrdin h f s
  | .ordout h f => Sys2Proof.Machine.execOrdout h f s
  | .ordseq h f => Sys2Proof.Machine.execOrdseq h f s
  | .trmark h f => Sys2Proof.Machine.execTrmark h f s
  | .relaunch h f => Sys2Proof.Machine.execRelaunch h f s
  | .launch h f => Sys2Proof.Machine.execLaunch h f s
  | .variableLatencyResult w k evict => Sys2Proof.Machine.execVariableLatencyResult w k evict s
  | .trapDelivery w => Sys2Proof.Machine.execTrapDelivery w s
  | .tlbWalkComplete die walk => Sys2Proof.Machine.execTlbWalkComplete die walk s
  | .walkDispatch die => Sys2Proof.Machine.execWalkDispatch die s
  | .ringRecordWrite ring => Sys2Proof.Machine.execRingRecordWrite ring s
  | .fltdoneRetry token => Sys2Proof.Machine.execFltdoneRetry token s
  | .fltdoneAbort token => Sys2Proof.Machine.execFltdoneAbort token s
  | .scdone token status => Sys2Proof.Machine.execScdone token status s
  | .tlbicmd value => Sys2Proof.Machine.execTlbicmd value s
  | .tlbInvalidationDone => Sys2Proof.Machine.execTlbInvalidationDone s
  | .microcodeLoad slot => Sys2Proof.Machine.execMicrocodeLoad slot s
  | .microcodeUnload slot => Sys2Proof.Machine.execMicrocodeUnload slot s
  | .microcodeReplace => Sys2Proof.Machine.execMicrocodeReplace s
  | .kick value => Sys2Proof.Machine.execKick value s
  | .graphUpload => Sys2Proof.Machine.execGraphUpload s
  | .graphFree handle => Sys2Proof.Machine.execGraphFree handle s
  | .nodeStart replay node => Sys2Proof.Machine.execNodeStart replay node s
  | .copyNodeDone replay node => Sys2Proof.Machine.execCopyNodeDone replay node s
  | .waitNodeCheck replay node => Sys2Proof.Machine.execWaitNodeCheck replay node s
  | .kernelNodeComplete replay node => Sys2Proof.Machine.execKernelNodeComplete replay node s
  | .relaunchStart launch => Sys2Proof.Machine.execRelaunchStart launch s
  | .teamPlace => Sys2Proof.Machine.execTeamPlace s
  | .launchAgeing launch => Sys2Proof.Machine.execLaunchAgeing launch s
  | .poolReassign => Sys2Proof.Machine.execPoolReassign s
  | .poolReassignDone pool => Sys2Proof.Machine.execPoolReassignDone pool s
  | .timeSliceExpiry team => Sys2Proof.Machine.execTimeSliceExpiry team s
  | .drainTimeout team => Sys2Proof.Machine.execDrainTimeout team s
  | .teamFlush team => Sys2Proof.Machine.execTeamFlush team s
  | .teamSave team => Sys2Proof.Machine.execTeamSave team s
  | .teamRestore image => Sys2Proof.Machine.execTeamRestore image s
  | .macroSliceStop w => Sys2Proof.Machine.execMacroSliceStop w s
  | .waveForm launch pc => Sys2Proof.Machine.execWaveForm launch pc s
  | .partialWaveTimeout launch pc => Sys2Proof.Machine.execPartialWaveTimeout launch pc s
  | .copyDeliver core cmd piece off n => Sys2Proof.Machine.execCopyDeliver core cmd piece off n s
  | .copyPrepass core cmd => Sys2Proof.Machine.execCopyPrepass core cmd s
  | .streamFetch w q => Sys2Proof.Machine.execStreamFetch w q s
  | .bankcfgDrainDone core bank => Sys2Proof.Machine.execBankcfgDrainDone core bank s
  | .accessPerform w k j part => Sys2Proof.Machine.execAccessPerform w k j part s
  | .promotionNotice core k => Sys2Proof.Machine.execPromotionNotice core k s
  | .engineOpStart core old => Sys2Proof.Machine.execEngineOpStart core old s
  | .addOnStoreApply core k => Sys2Proof.Machine.execAddOnStoreApply core k s
  | .binQueuePush w => Sys2Proof.Machine.execBinQueuePush w s
  | .ordStallTimeout asn key space => Sys2Proof.Machine.execOrdStallTimeout asn key space s
  | .ordqQuery value => Sys2Proof.Machine.execOrdqQuery value s
  | .ordqPurge value => Sys2Proof.Machine.execOrdqPurge value s
  | .waitwWake w => Sys2Proof.Machine.execWaitwWake w s
  | .waitwTimeout w => Sys2Proof.Machine.execWaitwTimeout w s
  | .meterTick => Sys2Proof.Machine.execMeterTick s
  | .sentinelWarning die => Sys2Proof.Machine.execSentinelWarning die s
  | .sentinelDecay die => Sys2Proof.Machine.execSentinelDecay die s
  | .hostBar2Write off data => Sys2Proof.Machine.execHostBar2Write off data s
  | .hostBar2Read off n => Sys2Proof.Machine.execHostBar2Read off n s
  | .registerWrite pa n value => Sys2Proof.Machine.execRegisterWrite pa n value s
  | .rcfgEnable ring log2n => Sys2Proof.Machine.execRcfgEnable ring log2n s
  | .rcfgDisable ring => Sys2Proof.Machine.execRcfgDisable ring s
  | .rheadWrite ring value => Sys2Proof.Machine.execRheadWrite ring value s
  | .lkctlTail port tail => Sys2Proof.Machine.execLkctlTail port tail s
  | .lkctlEnable port en => Sys2Proof.Machine.execLkctlEnable port en s
  | .linkWidthChange port width => Sys2Proof.Machine.execLinkWidthChange port width s
  | .linkDescriptorSend port => Sys2Proof.Machine.execLinkDescriptorSend port s
  | .linkFlitReceive port vc pa data => Sys2Proof.Machine.execLinkFlitReceive port vc pa data s
  | .linkAck port rejected => Sys2Proof.Machine.execLinkAck port rejected s
  | .powerOn => Sys2Proof.Machine.execPowerOn s
  | .functionLevelReset => Sys2Proof.Machine.execFunctionLevelReset s
  | .rstcmdWarm key => Sys2Proof.Machine.execRstcmdWarm key s
  | .rstcmdCold key => Sys2Proof.Machine.execRstcmdCold key s
  | .startStage ok => Sys2Proof.Machine.execStartStage ok s
  | .reccmd value => Sys2Proof.Machine.execReccmd value s
  | .attestReport => Sys2Proof.Machine.execAttestReport s
  | .notAnInstruction word reason => Sys2Proof.Machine.execNotAnInstruction word reason s
  | .softError site bits => Sys2Proof.Machine.execSoftError site bits s
  | .pcieCompletion k ok => Sys2Proof.Machine.execPcieCompletion k ok s
  | .completionTimeout k => Sys2Proof.Machine.execCompletionTimeout k s
  | .pcieConfigWrite reg => Sys2Proof.Machine.execPcieConfigWrite reg s
  | .linkTrained port width => Sys2Proof.Machine.execLinkTrained port width s

end Sys2Proof.Machine
end

