-- ==== Sys2Proof/Machine/Issue.lean ====
section
/-! DEFINITION. Issue: fetching the words at a PC (02 R22, 13 R276), the registers an instruction reads and writes (18 R380), the
watchdog (18 R381), the choice of an entry (14 R299, R300) and of a wave (15 R335, 14 R297). -/

namespace Sys2Proof.Machine

/-! ### Registers read and written (18 R380, 02 R37) -/

/-- Blocks of vector and scalar registers: first register and count. -/
structure RegUse where
  vec : List (Nat × Nat)
  sca : List (Nat × Nat)
  deriving DecidableEq, Repr

def RegUse.nothing : RegUse := { vec := [], sca := [] }
def vecUse (l : List (Nat × Nat)) : RegUse := { vec := l, sca := [] }
def scaUse (l : List (Nat × Nat)) : RegUse := { vec := [], sca := l }
def RegUse.or (a b : RegUse) : RegUse := { vec := a.vec ++ b.vec, sca := a.sca ++ b.sca }
def inBlock (k : Nat) (b : Nat × Nat) : Bool := decide (b.1 ≤ k) && decide (k < b.1 + b.2)

/-- What a source field of Format V reads. -/
def SrcUse.use (u : SrcUse) (k idx : Nat) : RegUse :=
  match u with
  | .regs n _ _ _ _ => if k == 0 then vecUse [(idx, n)] else if k == 1 then scaUse [(idx, n)] else RegUse.nothing
  | _ => RegUse.nothing
def CUse.use (u : CUse) (kc idx : Nat) : RegUse :=
  match u with
  | .src n => if kc == 0 then vecUse [(idx, n)] else RegUse.nothing
  | .vecOnly n => vecUse [(idx, n)]
  | _ => RegUse.nothing
def DUse.use (u : DUse) (d : Nat) : RegUse :=
  match u with
  | .vec n => vecUse [(d, n)]
  | _ => RegUse.nothing

/-- BMIX (0x2D) reads its destination as well (08 R164). -/
def RegUse.also (u : RegUse × RegUse) (w : Nat) : RegUse × RegUse := if bits w 63 56 == 0x2D then (u.1.or u.2, u.2) else u

/-- The registers that a word of Format V reads, and those it writes at issue. -/
def vUse (w : Nat) : RegUse × RegUse :=
  match vRowOf (bits w 63 56) (bits w 1 0) (bits w 20 12) (bits w 47 39) with
  | none => (RegUse.nothing, RegUse.nothing)
  | some r =>
    RegUse.also (((r.a.use (bits w 11 10) (bits w 38 30)).or (r.b.use (bits w 9 8) (bits w 29 21))).or (r.c.use (bits w 7 7) (bits w 20 12)),
      r.d.use (bits w 47 39)) w

def sUse (w : Nat) : RegUse × RegUse :=
  let o := bits w 63 56
  let n := if bits w 1 0 == 1 && o != 0x77 && o != 0x7B then 2 else 1
  let a := if o == 0x79 then [] else [(bits w 38 30, n)]
  let b := if bit w 4 || o == 0x7C || o == 0x7D then [] else [(bits w 29 21, n)]
  (scaUse (a ++ b), if o == 0x78 then RegUse.nothing else scaUse [(bits w 47 39, n)])

def mUse (w : Nat) : RegUse × RegUse :=
  let o := bits w 63 56
  let d := bits w 47 39
  let a := bits w 38 30
  let size := bits w 28 26
  let loc := o == 0x82 || o == 0x83 || o == 0xA3 || (o == 0xC5 && bits w 18 16 == 1)
  let n := if loc then 1 else 2
  let base : RegUse := if o == 0x89 || o == 0x8A || o == 0x8C || o == 0x8D then RegUse.nothing
    else if bit w 29 then scaUse [(a, n)] else vecUse [(a, n)]
  let data : RegUse := match o with
    | 0x81 => vecUse [(d, sizeRegs size)]
    | 0x83 => vecUse [(d, sizeRegs size)]
    | 0x85 => scaUse [(d, sizeRegs size)]
    | 0x86 => scaUse [(bits w 7 0, 1)]
    | 0x89 => vecUse [(d, sizeRegs size)]
    | 0xA4 => vecUse [(d, if bits w 18 16 == 1 then 8 else 1)]
    | 0xE1 => vecUse [(d, 16)]
    | _ => if 0xA0 ≤ o && o ≤ 0xA3 then vecUse [(d, atomRegs o size (bits w 20 19) (bits w 18 16))] else RegUse.nothing
  (base.or data, if o == 0x8D then scaUse [(d, 1)] else RegUse.nothing)

def cUse (w : Nat) : RegUse × RegUse :=
  let o := bits w 63 56
  let d := bits w 47 39
  let a := bits w 38 30
  let b := bits w 29 21
  let e := bits w 20 12
  match o with
  | 0xB0 => (scaUse [(a, 2), (b, 2), (e, 4)], RegUse.nothing)
  | 0xB1 => (scaUse [(a, 2), (b, 2), (e, 4)], RegUse.nothing)
  | 0xB2 => (scaUse [(a, 2), (e, 4)], RegUse.nothing)
  | 0xB3 => ((scaUse [(a, 2), (e, 4)]).or (vecUse [(b, 1)]), RegUse.nothing)
  | 0xB4 => (scaUse [(a, 1)], RegUse.nothing)
  | 0xB5 => (scaUse [(a, 2)], RegUse.nothing)
  | 0xB6 => (scaUse [(a, 2)], scaUse [(d, 1)])
  | 0xB7 => (scaUse [(a, 2)], RegUse.nothing)
  | 0xB8 => (scaUse [(a, 2), (b, 4), (e, 4)], RegUse.nothing)
  | 0xC0 => (scaUse [(a, 2), (e, 4)], scaUse [(d, 1)])
  | 0xC2 => (scaUse [(a, 2), (b, 2), (e, 4)], RegUse.nothing)
  | _ => (RegUse.nothing, RegUse.nothing)

def xUse (w : Nat) : RegUse × RegUse :=
  let o := bits w 63 56
  let win := bits w 47 39
  let a := bits w 38 30
  let sub := bits w 1 0
  match o with
  | 0xC6 => ((scaUse [(win, 4)]).or (if sub == 3 then RegUse.nothing else scaUse [(a, if bit (bits w 29 21) 4 then 1 else 2)]), RegUse.nothing)
  | 0xD0 => (scaUse [(win, 16)], RegUse.nothing)
  | 0xD1 => (vecUse [(win, 8)], RegUse.nothing)
  | 0xD2 => (vecUse [(win, 32)], RegUse.nothing)
  | 0xD3 => (vecUse [(win, 16)], RegUse.nothing)
  | 0xD4 => ((vecUse [(win, 16)]).or (scaUse [(a, 2)]), RegUse.nothing)
  | 0xD5 => (vecUse [(win, 4)], RegUse.nothing)
  | _ => (RegUse.nothing, RegUse.nothing)

def yUse (w : Nat) : RegUse × RegUse :=
  let o := bits w 63 56
  let imm := bits w 47 32
  let d := bits w 31 23
  let a := bits w 22 14
  let sub := bits w 1 0
  let wide := match sysReg imm with
    | some r => r.n
    | none => 1
  let lane := match sysReg imm with
    | some r => r.lane
    | none => false
  match o with
  | 0x06 => (RegUse.nothing, if lane then vecUse [(d, 1)] else scaUse [(d, wide)])
  | 0x07 => (scaUse [(a, wide)], RegUse.nothing)
  | 0x09 => (scaUse [(a, 2), (d, if sub == 1 then 2 else 1)], RegUse.nothing)
  | 0x11 => (scaUse [(a, 2)], scaUse [(d, 2)])
  | 0x12 => (if sub == 1 then vecUse [(a, 2)] else scaUse [(a, 2)], RegUse.nothing)
  | 0x14 => (scaUse [(a, 2)], RegUse.nothing)
  | 0x17 => (scaUse [(a, 2)], RegUse.nothing)
  | 0x18 => (vecUse [(a, 1)], RegUse.nothing)
  | 0xC8 => (RegUse.nothing, scaUse [(d, 1)])
  | 0xE6 => (scaUse [(a, 2), (d, 1)], RegUse.nothing)
  | 0xE7 => (scaUse [(a, 2)], RegUse.nothing)
  | 0xE8 => (scaUse [(a, 2)], RegUse.nothing)
  | _ => (RegUse.nothing, RegUse.nothing)

/-- The registers that a word reads, and those it writes at issue. -/
def regUse (w : Nat) : RegUse × RegUse :=
  match formatOf (bits w 63 56) with
  | some .V => vUse w
  | some .S => sUse w
  | some .M => mUse w
  | some .C => cUse w
  | some .X => xUse w
  | some .Y => yUse w
  | _ => (RegUse.nothing, RegUse.nothing)

/-- The words of an instruction as a number; 0 for a step that is none. -/
def instrWord (i : Instr) : Nat := match layoutOf i with | some l => l.word.toNat | none => 0
/-- The guard of an instruction. -/
def instrHdr (i : Instr) : Hdr := readHdr (BitVec.ofNat 64 (instrWord i)) 0

/-- The lanes whose vector registers an instruction reads: the participating ones; LREAD, the lane it names (08 R176, R182). -/
def State.readLanes (s : State) (i : Instr) : BitVec 64 :=
  match i with
  | .lread h f => if s.part h == 0 then 0 else 1#64 <<< srcB h f s.curWave Lane.reset 1 .plain
  | _ => s.part (instrHdr i)

/-- The uncorrectable register that an instruction of the current issue would read: HWERR store and index (18 R379, R380). -/
def State.badReg (s : State) (i : Instr) : Option (Nat × Nat) :=
  if s.poisonRegs.isEmpty || s.part (instrHdr i) == 0 then none
  else
    let u := (regUse (instrWord i)).1
    let m := s.readLanes i
    s.poisonRegs.findSome? (fun p => match p with
      | .vecReg r l k => if r == s.curRef && m.getLsbD l && u.vec.any (inBlock k) then some (1, 512 * l + k) else none
      | .scaReg r k => if r == s.curRef && u.sca.any (inBlock k) then some (2, k) else none
      | _ => none)

/-- The lanes of the current issue that completed their instruction: they moved on and trapped nothing. -/
def State.movedOn (s : State) (before : Wave) (h : Hdr) : BitVec 64 :=
  maskOf (fun l => s.cur.mask.getLsbD l && (before.lane l).passes h &&
    (let ln := s.curWave.lane l
     ln.pc != (before.lane l).pc && ln.ptrap.isNone && ln.handler == (before.lane l).handler))

/-- Registers that an instruction has overwritten whole lose their poison (18 R380). -/
def State.healIssue (s : State) (before : Wave) (i : Instr) : State :=
  if s.poisonRegs.isEmpty || s.curWave.outs.length != before.outs.length then s
  else
    let u := (regUse (instrWord i)).2
    let m := s.movedOn before (instrHdr i)
    s.healRegs (fun p => match p with
      | .vecReg r l k => r == s.curRef && m.getLsbD l && u.vec.any (inBlock k)
      | .scaReg r k => r == s.curRef && m != 0 && u.sca.any (inBlock k)
      | _ => false)

/-! ### The operand latch (02 R37) -/

/-- The operand that a word keeps: position, first register, count. -/
def keptOperand (w : Nat) : Option (Nat × Nat × Nat) :=
  let one (u : RegUse) (pos : Nat) : Option (Nat × Nat × Nat) := u.vec.head?.map (fun b => (pos, b.1, b.2))
  if formatOf (bits w 63 56) != some .V then none
  else match vRowOf (bits w 63 56) (bits w 1 0) (bits w 20 12) (bits w 47 39) with
    | none => none
    | some r => match bits w 53 52 with
      | 1 => one (r.a.use (bits w 11 10) (bits w 38 30)) 1
      | 2 => one (r.b.use (bits w 9 8) (bits w 29 21)) 2
      | 3 => one (r.c.use (bits w 7 7) (bits w 20 12)) 3
      | _ => none

/-- The registers of it that the latch holds: at most 16. -/
def latched (w : Nat) : Option (Nat × Nat × Nat) := (keptOperand w).map (fun k => (k.1, k.2.1, min 16 k.2.2))

/-- The latch after an instruction of the current wave: a kept operand enters the partition's latch, any other instruction of the
wave releases it, and so does a write of a latched register. -/
def State.latchAfter (s : State) (i : Instr) : State :=
  let w := s.curWave
  let r := s.curRef
  let samePart (x : WaveRef) : Bool := match s.wave? x with
    | some y => y.core == w.core && y.part == w.part
    | none => true
  let wrote (e : WaveRef × Nat × Nat × Nat) : Bool :=
    e.1 == r && (regUse (instrWord i)).2.vec.any (fun b => decide (b.1 < e.2.2.1 + e.2.2.2) && decide (e.2.2.1 < b.1 + b.2))
  s.updCore w.core (fun c =>
    match latched (instrWord i) with
    | some k =>
      let l := c.latch.filter (fun e => !samePart e.1 || (e.1 == r && e.2 == k))
      { c with latch := (if l.any (fun e => e.1 == r) then l else l ++ [(r, k)]).filter (fun e => !wrote e) }
    | none => if c.latch.isEmpty then c else { c with latch := c.latch.filter (fun e => e.1 != r) })

/-! ### Fetch -/

/-- A header with no guard, for what acts on every lane of an issue. -/
def Hdr.plain : Hdr := { sw := false, keep := 0, gn := false, gp := 7, x := none }

/-- What a fetch answers: it stopped (a trap, a fault record, a walk), or a word. -/
inductive Fetched where
  | stop (s : State)
  | word (s : State) (w : Word)

/-- Fetch the 8-byte word at an address (04 R75, R76, R81, R85, 13 R276, 18 R380): a fetch stands for every lane of the issue, and waits for
their earlier acquires (13 R280). -/
def State.fetchWord (s : State) (pc : Word) : Fetched :=
  if !s.curWave.performed (fun a => a.acquires && s.cur.mask.getLsbD a.lane) then .stop s.blockWave
  else match s.memCheck (.notAnInstruction 0 0) Hdr.plain s.cur.mask [{ lane := (lowestLane s.cur.mask).getD 0, va := pc.toNat }] 3 Need.exec 3
      (fun t => t == .cached || t == .homeonly) with
  | .stop s => .stop (s.updCur (fun w => { w with prog := none }))
  | .ok s xs =>
    match xs with
    | [] => .stop s
    | x :: _ => if s.poisoned x.pa 8 then .stop (s.hwerr Hdr.plain 6 (x.pa / 8)) else .word s (BitVec.ofNat 64 (s.homeRead x.pa 8))

/-- The instruction at the PC of the current issue: its word, and the extension word when XW is set (02 R22, R33). -/
inductive Next where
  | stop (s : State)
  | instr (s : State) (i : Instr)

/-- What a word and its extension word are in the current kernel. -/
def State.decodeHere (s : State) (w x : Word) : Instr :=
  match decode w x s.curTeam.vregs with
  | .ok i => i
  | .error r => .notAnInstruction w r

def State.fetch (s : State) : Next :=
  match s.fetchWord s.cur.pc with
  | .stop s => .stop s
  | .word s w =>
    if needsExt w.toNat s.curTeam.vregs then
      match s.fetchWord (s.cur.pc + 8) with
      | .stop s => .stop s
      | .word s x => .instr s (s.decodeHere w x)
    else .instr s (s.decodeHere w 0)

/-! ### One issue -/

/-- Whether an outcome's instruction is blocked (14 R299). -/
def Res.blocked : Res → Bool
  | .next s => s.cur.blocked
  | _ => false

/-- The next issue of a team would take its retired count above the watchdog's limit (18 R381). -/
def State.watchdogDue (s : State) : Bool :=
  let t := s.curTeam
  let k := bits s.regs.precfg.toNat 3 0
  let e := s.curBlock.expect
  k != 0 && e != 0 && !t.wdOff && decide (t.retired + 1 > e * 2 ^ k)

/-- The WATCHDOG trap, for the lanes that pass the guard, or for all when none does (18 R379, R381). -/
def State.watchdogTrap (s : State) (h : Hdr) : State :=
  let t := mkTrap .watchdog (s.curTeam.retired % 2 ^ 32) (s.curTeam.retired / 2 ^ 32) (bits s.regs.precfg.toNat 3 0)
  if s.part h == 0 then s.trapLanes h s.cur.mask t else s.trap h t

/-- The issue counts: for the watchdog, for the wave's place in the selection order; the marks of 14 R300 clear, and its lanes no longer
stand blocked. -/
def State.countIssue (s : State) : State :=
  let n := s.issues + 1
  { (s.updCurTeam (fun t => { t with retired := t.retired + 1 })).updCur (fun w =>
      { (w.updLanes w.liveMask (fun _ ln => { ln with marked := false })).updLanes s.cur.mask (fun _ ln => { ln with stall := none }) with
        lastIssue := n, prog := w.prog.map (fun p => { p with issued := true }) }) with issues := n }

/-- The shared unit that serves a macro, 0 for none (01 R15). -/
def unitOf (i : Instr) : Nat :=
  match i with
  | .rast _ _ => 1
  | .blend _ _ => 2
  | .trav _ _ => 3
  | .filt _ _ => 4
  | _ => 0

/-- The macro in progress of the current wave sends its unit its next request, behind those that have come before (01 R15). -/
def State.queueUnit (s : State) : State :=
  match s.curWave.prog with
  | some p =>
    if !p.begun || unitOf p.instr == 0 then s
    else { s.updCur (fun w => { w with prog := some { p with turn := s.uid } }) with uid := s.uid + 1 }
  | none => s

/-- Instructions that make their team ALWAYS from the moment they issue, though they wait before they act (17 R367). -/
def alwaysAtIssue (i : Instr) : Bool :=
  match i with
  | .fifopush _ _ => true
  | .bin _ _ => true
  | .hqpush _ _ => true
  | .hqpop _ _ => true
  | .taskpush _ _ => true
  | .launch _ _ => true
  | .relaunch _ _ => true
  | .spawn _ _ => true
  | .repack _ _ => true
  | .brs _ _ => true
  | .trap _ _ => true
  | _ => false

/-- An instruction that has issued and waits has its effect of 17 R367. -/
def State.heldAlways (s : State) : State :=
  match s.curWave.prog with
  | some p => if alwaysAtIssue p.instr then s.always else s
  | none => s

/-- After an instruction `i` of the current issue has gone from `before` to `after`: an issue is counted once, unless the wave still
waits for a walk; the watchdog takes the issue's place when it is due. -/
def State.account (before after : State) (i : Instr) : State :=
  let was := match before.curWave.prog with
    | some p => p.issued
    | none => false
  if after.curWave.onWalk then after
  else if was then (after.updCur (fun w => { w with prog := w.prog.map (fun p => { p with issued := true }) })).queueUnit
  else if before.watchdogDue then (before.watchdogTrap (instrHdr i)).countIssue
  else ((after.healIssue before.curWave i).latchAfter i).countIssue.heldAlways.queueUnit

/-- Execute an instruction for the current issue. -/
def State.runInstr (s : State) (i : Instr) : Res :=
  match s.badReg i with
  | some (st, ix) => .next (s.account (s.hwerr (instrHdr i) st ix) i)
  | none =>
    match exec i s with
    | .next t => if t.cur.blocked then .next t else .next (s.account t i)
    | r => r

/-- Lanes formed from bad records trap at their first issue (14 R314), which counts as any issue (18 R381). -/
def State.badRecords (s : State) : Option State :=
  let w := s.curWave
  if (lanesOf s.cur.mask).any (fun l => (w.lane l).badRec.isSome) then
    if s.watchdogDue then some (s.watchdogTrap Hdr.plain).countIssue
    else
      let s1 : State := s.updCur (fun w => w.updLanes s.cur.mask (fun _ ln => { ln with badRec := none }))
      some (s1.raiseEach s.curRef (fun l => if s.cur.mask.getLsbD l then (w.lane l).badRec.map (fun a => mkTrapA .task 5 a.toNat) else none)).countIssue
  else none

/-- Begin an issue of lanes `m` of a wave at a PC. -/
def State.atIssue (s : State) (r : WaveRef) (m : BitVec 64) (pc : Word) : State :=
  { s with cur := { team := r.team, wave := r.wave, mask := m, pc := pc, blocked := false } }

/-- Issue an entry: fetch, decode, execute. -/
def State.issueEntry (s : State) (r : WaveRef) (m : BitVec 64) (pc : Word) : Res :=
  let s : State := s.atIssue r m pc
  match s.badRecords with
  | some t => .next t
  | none =>
    match s.fetch with
    | .stop t => .next t
    | .instr t i => t.runInstr i

/-! ### Choosing an entry and a wave -/

/-- The lanes of each frontier entry that may issue, in rank order. -/
def Wave.issuable (w : Wave) : List (BitVec 64 × Word) :=
  (w.frontier.map (fun e => (maskOf (fun l => e.mask.getLsbD l && w.canIssue l), BitVec.ofNat 64 e.pc))).filter (fun p => p.1 != 0)

/-- A wave that is neither parked nor ended, that waits for no result of its run, and that no save or flush has stopped. -/
def Wave.mayIssue (w : Wave) : Bool :=
  !w.ended && w.park == .none && !(w.runEnd && !w.quiet) && (!w.stop || w.prog.isSome) &&
  (w.hmode || w.prog.isSome || !w.lanes.any (fun ln => ln.live && ln.ptrap.isSome))

/-- An issue that a wave can make: lanes, PC, and what follows. -/
structure Turn where
  mask : BitVec 64
  pc : Word
  after : Res

/-- The code of 18 R397 for a blocked entry: 4 for an MMA whose convergence register lacks signatures, 5 for any other instruction. -/
def State.stallCode (s : State) : Nat :=
  match s.fetch with
  | .instr s (.mma _ f) => if f.c.toNat % 16 != 8 && s.curWave.cvMissing (f.c.toNat % 16) != 0 then 4 else 5
  | _ => 5

/-- What a blocked attempt of an entry leaves of the state `t` that it gave: its place in a ring's order, and in its lanes the PC and the code
of 18 R397. -/
def State.keepBlocked (s t : State) (r : WaveRef) (m : BitVec 64) (pc : Word) : State :=
  let code := (s.atIssue r m pc).stallCode
  let core := ((s.wave? r).getD Wave.reset).core
  (s.updCore core (fun c => { c with rings := (t.core core).rings })).updWave r (fun w =>
    w.updLanes m (fun _ ln => { ln with stall := some (pc, code) }))

/-- Try the entries of a wave in rank order (14 R299): what the blocked ones leave, and the issue of the first that is not blocked; none: every
one is, or the wave must wait as a whole (04 R84). -/
def State.firstEntry (s : State) (r : WaveRef) : List (BitVec 64 × Word) → State × Option Turn
  | [] => (s.updWave r (fun w => { w with blocked := true }), none)
  | e :: rest =>
    match s.issueEntry r e.1 e.2 with
    | .next t =>
      if !t.cur.blocked then (s, some { mask := e.1, pc := e.2, after := .next t })
      else if t.cur.whole then (s, none)
      else (s.keepBlocked t r e.1 e.2).firstEntry r rest
    | o => (s, some { mask := e.1, pc := e.2, after := o })

/-- A wave's admitted lanes move on as it issues, and its frontier takes them (16 R427, 14 R299). -/
def Wave.enterSettled (w : Wave) : Wave :=
  let m := maskOf (fun l => (w.lane l).live && (w.lane l).isEntered)
  if m == 0 then w else w.enter.settle m
def State.enter (s : State) (r : WaveRef) : State := s.updWave r Wave.enterSettled

/-- What an attempt that came to no issue keeps of the state `t` that it gave, in which the admitted lanes had moved on. -/
def State.keepTries (s t : State) (r : WaveRef) : State :=
  match s.wave? r, t.wave? r with
  | some w, some x =>
    if !w.lanes.any Lane.isEntered then t
    else (s.updCore w.core (fun c => { c with rings := (t.core w.core).rings })).updWave r (fun w => { w with
      blocked := x.blocked, prog := x.prog, lanes := mapFrom (fun l ln => { ln with stall := (x.lane l).stall }) 0 w.lanes })
  | _, _ => s

/-- The next issue of a wave whose admitted lanes have moved on, and what its blocked entries leave. An instruction that waited for its walks
and then finds no room is blocked as any other. -/
def State.attemptEntered (s : State) (r : WaveRef) (w : Wave) : State × Option Turn :=
  match w.prog with
  | none => s.firstEntry r w.issuable
  | some p =>
    match (s.atIssue r p.mask p.pc).runInstr p.instr with
    | .next t =>
      if !t.cur.blocked then (s, some { mask := p.mask, pc := p.pc, after := .next t })
      else if t.cur.whole then (s, none)
      else if p.begun || p.issued then (s.updWave r (fun w => { w with blocked := true }), none)
      else (s.updWave r (fun w => { w with prog := none })).firstEntry r w.issuable
    | o => (s, some { mask := p.mask, pc := p.pc, after := o })

/-- The next issue of a wave, if it is eligible (15 R335), and what its blocked entries leave. -/
def State.attempt (s : State) (r : WaveRef) : State × Option Turn :=
  match (s.enter r).wave? r with
  | none => (s, none)
  | some w =>
    if !w.mayIssue then (s, none)
    else
      let q := (s.enter r).attemptEntered r w
      (s.keepTries q.1 r, q.2)

/-- Whether a wave is inside an instruction that has issued: its next step is no issue. -/
def Wave.inside (w : Wave) : Bool := match w.prog with | some p => p.begun || p.issued | none => false

/-- The place of a wave in the selection order of its partition (15 R335): last issue, WAVE_ID, placement. -/
def Wave.key (w : Wave) : Nat × Nat × Nat := (w.lastIssue, w.id, w.placed)
def keyBefore (a b : Nat × Nat × Nat) : Bool :=
  decide (a.1 < b.1) || (a.1 == b.1 && (decide (a.2.1 < b.2.1) || (a.2.1 == b.2.1 && decide (a.2.2 < b.2.2))))
def Wave.before (a b : Wave) : Bool := keyBefore a.key b.key

/-- The eligible waves of a partition that come before one of its waves, with their issues. -/
def State.rivals (s : State) (w : Wave) : List (Team × Wave × Turn) :=
  s.teams.flatMap (fun t => (t.waves.filter (fun x => x.core == w.core && x.part == w.part && !x.inside && x.before w)).filterMap (fun x =>
    (s.attempt { team := t.uid, wave := x.id }).2.map (fun e => (t, x, e))))

/-- The slices that an entry covers (14 R296). -/
def slices (m : BitVec 64) : Nat := (List.range 16).countP (fun k => m.extractLsb' (4 * k) 4 != 0#4)

/-- Whether a wave of a launch fits the clock of a pack with its issue: the same launch and PC, and at most four slices together
(14 R297). -/
def Pack.fits (k : Pack) (launch : Nat) (e : Turn) : Bool := k.launch == launch && k.pc == e.pc && decide (k.used + slices e.mask ≤ 4)

/-- The clock that an issue of a wave is part of, none when it may not issue now: a clock of its own when its partition prefers no eligible wave
to it, or the last clock, to which waves are added in selection order (14 R297, 15 R335). -/
def State.packFor (s : State) (t : Team) (w : Wave) (e : Turn) : Option Pack :=
  let rs := s.rivals w
  if rs.isEmpty then some { part := w.part, launch := t.launch, pc := e.pc, used := slices e.mask, last := w.key }
  else (s.core w.core).packs.findSome? (fun k =>
    if k.part == w.part && k.fits t.launch e && keyBefore k.last w.key && rs.all (fun x => !keyBefore k.last x.2.1.key || !k.fits x.1.launch x.2.2) then
      some { k with used := k.used + slices e.mask, last := w.key }
    else none)

/-- The clock of a partition's last issue. -/
def State.putPack (s : State) (core : Nat) (k : Pack) : State :=
  s.updCore core (fun c => { c with packs := c.packs.filter (fun x => x.part != k.part) ++ [k] })

/-- Whether the unit that serves a wave's macro has no earlier request that it can serve (01 R15). -/
def State.unitTurn (s : State) (w : Wave) : Bool :=
  match w.prog with
  | none => true
  | some p => !p.begun || unitOf p.instr == 0 || s.teams.all (fun t => t.waves.all (fun x =>
      x.core != w.core || (match x.prog with
        | some q => !(q.begun && unitOf q.instr == unitOf p.instr && decide (q.turn < p.turn)) || (s.attempt { team := t.uid, wave := x.id }).2.isNone
        | none => true)))

/-- An attempt that came to no issue: what it leaves; when every entry is blocked, outside lanes may enter (14 R300). -/
def State.probed (s : State) (r : WaveRef) : State :=
  (s.updWave r (fun w =>
    if w.blocked && w.prog.isNone && w.lanes.any (fun ln => ln.live && ln.outside && !ln.marked) then { w.exchange with blocked := false } else w)).blockIssue

/-- A wave's partition issues it, or its unit serves it. -/
def State.issue (s : State) (r : WaveRef) : Res :=
  match s.team? r.team, s.wave? r with
  | some tm, some w =>
    match s.attempt r with
    | (k, none) => .next (k.probed r)
    | (_, some e) =>
      if w.inside then (if s.unitTurn w then e.after else .next s)
      else match s.packFor tm w e with
        | none => .next s
        | some p => match e.after with
          | .next t => .next (t.putPack w.core p)
          | o => o
  | _, _ => .next s

end Sys2Proof.Machine
end

