-- ==== Sys2Proof/Machine/Settle.lean ====
section
/-! DEFINITION. What follows every step at once: ended waves and teams (14 R294, R318, R321, 11 R247, 17 R369, 16 R358), the frontier
(14 R299, R300), convergence registers and tags (14 R308, 05 R106), the end of runs (02 R34, R37, R42), completed task launches
(15 R338), saturated pools (19 R402). -/

namespace Sys2Proof.Machine

/-! ### Waves -/

/-- The lanes whose pair is new since the wave `o`. -/
def Wave.movedSince (w o : Wave) : BitVec 64 :=
  maskOf (fun l => let a := o.lane l
                   let b := w.lane l
                   b.live && (!a.live || a.pc != b.pc || a.prio != b.prio))

/-- The frontier after a step (14 R299, R300): of a wave that was resident before, of one that has just come. -/
def Wave.settleSince (w : Wave) (o : Option Wave) : Wave :=
  let w : Wave := if w.lanes.any (fun ln => match ln.wait with | .cvwait _ => true | _ => false) then w.cvRelease else w
  match o with
  | some o =>
    let m := w.movedSince o
    if m == 0 && w.liveMask == o.liveMask then w else w.settle m
  | none => if w.frontier.length > 16 then w.settle w.liveMask else w

/-- The PC of the last live lane of a wave that has just lost its lanes. -/
def Wave.deathPc (w o : Wave) : Wave :=
  if o.liveMask != 0 && w.liveMask == 0 then
    match lowestLane o.liveMask with
    | some l => { w with tpc := (o.lane l).pc }
    | none => w
  else w

/-- A wave ends once it has no live lane and its outstanding results are written (14 R294, R318). -/
def Wave.endNow (w : Wave) : Wave := if w.liveMask == 0 && w.outs.isEmpty && w.prog.isNone then { w with ended := true } else w

/-- A run ends once every result of it is written; MSTAT_SHADOW takes the matrix status (02 R34, R42). -/
def Wave.closeRun (w : Wave) (mstat : Reg) : Wave := if w.runEnd && w.quiet then { w with runEnd := false, mstatShadow := mstat } else w

/-- The wave of the same name in an earlier state. -/
def State.was (old : State) (t : Team) (w : Wave) : Option Wave := old.wave? { team := t.uid, wave := w.id }

def State.mapWaves (s : State) (f : Team → Wave → Wave) : State := { s with teams := s.teams.map (fun t => { t with waves := t.waves.map (f t) }) }

/-- Waves that have ended since `old`, and the barriers that their end completes (14 R321). -/
def State.endWaves (s old : State) : State :=
  let s1 : State := s.mapWaves (fun t w => if w.ended then w else (match old.was t w with
    | some o => w.deathPc o
    | none => w).endNow)
  let us := (s1.teams.filter (fun t => t.waves.any (fun w => w.ended && ((old.was t w).map (fun o => !o.ended)).getD true))).map (·.uid)
  us.foldl State.barCheck s1

/-- Waves parked at TAGWAIT look at their tags again. -/
def State.checkTags (s : State) : State :=
  (s.teams.flatMap (fun t => (t.waves.filter (fun w => match w.park with | .tagwait _ _ _ _ => true | _ => false)).map (fun w =>
    ({ team := t.uid, wave := w.id } : WaveRef)))).foldl State.tagwaitCheck s

/-- Latches of waves whose run ends now, or which are gone, are released (02 R37). -/
def State.releaseLatches (s : State) : State :=
  if s.cores.all (fun c => c.latch.isEmpty) then s
  else { s with cores := s.cores.map (fun c => { c with latch := c.latch.filter (fun e =>
    match s.wave? e.1 with
    | some w => !(w.runEnd && w.quiet)
    | none => false) }) }

/-! ### Teams -/

/-- Every wave of a team has ended and nothing of it is under way. -/
def State.teamOver (s : State) (t : Team) : Bool := !t.waves.isEmpty && t.waves.all (·.ended) && s.teamStill t

/-- The team's last wave: the one that issued last. -/
def Team.lastWave (t : Team) : Wave := t.waves.foldl (fun a w => if w.lastIssue > a.lastIssue then w else a) (t.waves.headD Wave.reset)

/-- The commit is discarded: an undelivered trap of the team's last wave (11 R247), beside a record of kind HWERR for an uncorrectable
word (18 R380). -/
def State.dropStats (s : State) (t : Team) (x : TrapInfo) : State :=
  let w := t.lastWave
  let s : State := if x.cause.toNat % 256 == Group.hwerr.code then
      s.pushRecord 1 (faultRecord 0 4 0 0 0 t.launch (recordW1 t w) 0 (s.block t.launch).asn w.tpc x 0) else s
  (s.undelivered { team := t.uid, wave := w.id } 0 w.tpc x).updTeam t.uid (fun t => { t with stats := [] })

/-- The team's counters are added into its statistics area (11 R247): whether the team may leave, and the state after. -/
def State.commitStats (s : State) (t : Team) : Bool × State :=
  let b := s.block t.launch
  let a := b.stats
  let w := t.lastWave
  if a == 0 || t.stats.isEmpty then (true, s)
  else if !w.toks.isEmpty then (false, s)
  else if !canonical a then (true, s.dropStats t (mkTrapA .protect pNONCANON a))
  else
    let q := s.warrenXlate w.core (BitVec.ofNat 12 b.asn) a
    let s : State := q.2
    match q.1 with
    | .miss => (false, s)
    | .bad x => (true, s.dropStats t (hwerrTrap 6 x))
    | .fault r l =>
      let k := s.takeToken
      let s : State := k.2.pushRecord 1 (faultRecord k.1 1 r l 2 t.launch (recordW1 t w) (BitVec.ofNat 64 a) b.asn w.tpc TrapInfo.none 0)
      (false, s.updWave { team := t.uid, wave := w.id } (fun w => { w with
        park := .faults 0 w.tpc, toks := [{ token := k.1, outcome := 0, reason := r, level := l, kind := 2, va := BitVec.ofNat 64 a }] }))
    | .hit x =>
      match Need.rw.fails (fun t => t != .io) x with
      | some r => (true, s.dropStats t (mkTrapA .protect r a))
      | none =>
        if s.isDev x.pa && s.poisoned x.pa 64 then (true, s.dropStats t (hwerrTrap 6 (x.pa / 8)))
        else
          let s : State := if x.mtype == .cached then s.cleanLine w.core (lineOf x.pa) else s
          if x.mtype == .cached && s.dirtyIn w.core (fun y => y.line == lineOf x.pa) then (false, s)
          else
          let s : State := s.promoteFor x.pa 64 (some w.core)
          let bs := ((List.range 8).map (fun i => leBytes 8 ((s.homeRead (x.pa + 8 * i) 8 + (t.stats.getD i 0).toNat) % 2 ^ 64))).flatten
          let s : State := s.homeStore x.pa bs t.launch []
          (true, if x.mtype == .cached then (s.refreshCopy w.core x.pa 64).healLine w.core x.pa 64 else s)

/-- The keys that a team's lanes still hold. -/
def Team.keysHeld (t : Team) : List Word := t.waves.flatMap (fun w => w.lanes.flatMap Lane.heldKeys)

/-- A team ends: its counters are committed, its trace record written, its keys stay with its launch (11 R247, 17 R369, 16 R358). -/
def State.endTeam (s : State) (t : Team) : State :=
  match s.commitStats t with
  | (false, s) => s
  | (true, s) =>
    ((((s.writeTeamRecord t).updLaunch t.launch (fun l => { l with heldKeys := l.heldKeys ++ t.keysHeld })).leave t.uid).dropSites t.uid)

def State.endTeams (s : State) : State := (s.teams.filter s.teamOver).foldl State.endTeam s

/-- A saturated pool that holds no team returns to step 0 (19 R402). -/
def State.restPools (s : State) : State :=
  { s with dies := mapFrom (fun d x => if x.sat && !s.poolBusy d then { x with sat := false, step := 0 } else x) 0 s.dies }

/-- Everything that follows a step from `old` to `s`. -/
def State.settle (old s : State) : State :=
  let s : State := (s.endWaves old).checkTags
  let s : State := s.mapWaves (fun t w => w.settleSince (old.was t w))
  let s : State := s.releaseLatches.mapWaves (fun t w => w.closeRun (t.side (t.sideOf w.core)).mstat)
  ((s.endTeams).closeOver).restPools

end Sys2Proof.Machine
end

