-- ==== Sys2Proof/Machine/Sched.lean ====
section
/-! DEFINITION. The schedule: what runs when the agenda names nothing (log entry 1). The order of these moves is the model's choice;
every order that the spec allows is an agenda. -/

namespace Sys2Proof.Machine

/-- Whether a constructor is a step of the device that an agenda may name: not an instruction, which only an issue runs. -/
def isEvent (i : Instr) : Bool :=
  match i with
  | .notAnInstruction _ _ => false
  | i => (layoutOf i).isNone

/-- What a move does. -/
def State.doMove (s : State) (m : Move) : Res :=
  match m with
  | .issue r => s.issue r
  | .event i => if isEvent i then exec i s else .next s

/-- Every resident wave. -/
def State.waveRefs (s : State) : List (WaveRef × Wave) :=
  s.teams.flatMap (fun t => t.waves.map (fun w => (({ team := t.uid, wave := w.id } : WaveRef), w)))

/-- The next bytes of a piece that have not landed: offset and number (05 R97). -/
def Piece.nextBytes (p : Piece) : Nat × Nat :=
  let ls := sortBy (fun (a b : Nat × Nat) => decide (a.1 < b.1)) p.landed
  let off := ls.foldl (fun o r => if r.1 ≤ o then max o (r.1 + r.2) else o) 0
  let top := (ls.find? (fun r => decide (r.1 > off))).map (·.1) |>.getD p.len
  (off, if top - off ≤ 4096 then top - off else 4096 - (p.dst + off) % 4)

/-- The moves of waves: deliveries of traps, results, accesses, wakes, pushes (18 R382, 02 R35, 13 R276, 14 R320, 11 R238). -/
def State.waveMoves (s : State) : List Move :=
  s.waveRefs.flatMap (fun p =>
    let r := p.1
    let w := p.2
    (if w.lanes.any (fun ln => ln.ptrap.isSome) then [Move.event (.trapDelivery r)] else []) ++
    (List.range w.outs.length).flatMap (fun k =>
      (if s.outReady r k then [Move.event (.variableLatencyResult r k none)] else []) ++
      (match w.outs[k]? with
        | some o => (List.range o.accs.length).filterMap (fun j => if s.accReady r k j then some (Move.event (.accessPerform r k j (.whole none))) else none)
        | none => [])) ++
    (match w.park with
      | .waitw _ _ _ _ _ _ _ _ => [Move.event (.waitwWake r)]
      | _ => []) ++
    (if w.stop && w.prog.isSome then [Move.event (.macroSliceStop r)] else []))

/-- The moves of dies and cores. -/
def State.unitMoves (s : State) : List Move :=
  (List.range s.dies.length).flatMap (fun d =>
    (if (s.die d).walks.isEmpty then [] else [Move.event (.tlbWalkComplete d (0, none))]) ++
    (if (s.die d).missq.isEmpty then [] else [Move.event (.walkDispatch d)])) ++
  (List.range s.cores.length).flatMap (fun c =>
    let k := s.core c
    k.cmds.flatMap (fun x =>
      (if x.state == .prepass then [Move.event (.copyPrepass c x.id)] else []) ++
      (if x.state == .moving then (List.range x.pieces.length).filterMap (fun i => match x.pieces[i]? with
          | some p => let q := p.nextBytes
            if p.absent || q.2 == 0 then none else some (Move.event (.copyDeliver c x.id i q.1 q.2))
          | none => none) else [])) ++
    (if k.engine.isEmpty then [] else [Move.event (.engineOpStart c [])]) ++
    (List.range k.addons.length).map (fun i => Move.event (.addOnStoreApply c i)) ++
    k.draining.map (fun x => Move.event (.bankcfgDrainDone c x.bank)) ++
    (if k.notices.isEmpty then [] else [Move.event (.promotionNotice c 0)])) ++
  (if s.hostAtomics.isEmpty then [] else [Move.event (.pcieCompletion 0 true)]) ++
  [Move.event (.ringRecordWrite 0), Move.event (.ringRecordWrite 1), Move.event (.ringRecordWrite 2)]

/-- The moves of the distributor, the Warren and the management processor. -/
def State.deviceMoves (s : State) : List Move :=
  s.replays.flatMap (fun r => (List.range r.nodes.length).flatMap (fun i =>
    [Move.event (.kernelNodeComplete r.id i), Move.event (.nodeStart r.id i), Move.event (.copyNodeDone r.id i), Move.event (.waitNodeCheck r.id i)])) ++
  s.relaunches.map (fun q => Move.event (.relaunchStart q.id)) ++
  s.teams.flatMap (fun t => match t.phase with
    | .flushing => [Move.event (.teamFlush t.uid)]
    | .saving _ => [Move.event (.teamSave t.uid)]
    | _ => []) ++
  (if s.launches.isEmpty then [] else
    s.images.map (fun i => Move.event (.teamRestore i.id)) ++ [Move.event .teamPlace] ++
    s.launches.flatMap (fun l => l.groups.map (fun pc => Move.event (.waveForm l.id pc))) ++ [Move.event .poolReassign]) ++
  ((List.range s.dies.length).filter (fun d => (s.die d).reassign.isSome)).map (fun d => Move.event (.poolReassignDone d)) ++
  (if s.regs.mcpend.isSome then [Move.event .microcodeReplace] else []) ++
  (if s.regs.tlbiBusy then [Move.event .tlbInvalidationDone] else []) ++
  (if s.regs.attBusy then [Move.event .attestReport] else []) ++
  (if s.regs.ready && !s.regs.recBusy then [] else [Move.event (.startStage true)])

/-- Issues, in the order in which the waves last issued; then a tick of the meters, when some balance is low. -/
def State.issueMoves (s : State) : List Move :=
  (sortBy (fun (a b : WaveRef × Wave) => a.2.before b.2) (s.waveRefs.filter (fun p => p.2.mayIssue))).map (fun p => Move.issue p.1) ++
  (if s.cores.any (fun c => !c.meter.isEmpty) then [Move.event .meterTick] else [])

/-- Whether a move changes the state, beside the record of the issue in progress; `probes`: also one that only finds a wave blocked. -/
def State.acts (s : State) (probes : Bool) (m : Move) : Bool :=
  match s.doMove m with
  | .next t => { t with cur := s.cur } != s && (probes || !t.cur.blocked)
  | _ => true

/-- The move of a state whose agenda is empty; none: nothing is left to do. -/
def State.nextMove (s : State) : Option Move :=
  match (s.waveMoves ++ s.unitMoves ++ s.deviceMoves ++ s.issueMoves).find? (s.acts false) with
  | some m => some m
  | none => s.issueMoves.find? (s.acts true)

/-- No issue is in progress. -/
def State.idle (s : State) : State := { s with cur := { s.cur with blocked := false, whole := false } }
/-- Something has changed: what waves have found blocked may no longer be (14 R299). -/
def State.unblock (s : State) : State := s.mapWaves (fun _ w => { w with blocked := false })

/-- The state before an issue of a wave whose admitted lanes have moved on with it (16 R427). -/
def State.entered (s t : State) (r : WaveRef) : State :=
  if ((t.wave? r).getD Wave.reset).lanes.any Lane.isEntered then s else s.enter r
/-- The state to which what follows a move compares the state `t` after it. -/
def State.before (s t : State) : Move → State
  | .issue r => s.entered t r
  | _ => s

/-- Do a move, and what follows it at once; an attempt to issue that finds a wave blocked changes nothing else. -/
def State.moveAndSettle (s : State) (m : Move) : Res :=
  match s.idle.doMove m with
  | .next t =>
    match m, t.cur.blocked with
    | .issue _, true => .next t.idle
    | m, _ => .next (State.settle (s.before t m) t.idle.unblock)
  | r => r

end Sys2Proof.Machine
end

