-- ==== Sys2Proof/Machine/Step.lean ====
section
/-! DEFINITION. One step: the next move of the agenda, else the move that the default schedule chooses; and the placing of an
instruction where the next step fetches. -/

namespace Sys2Proof.Machine

/-- One step of the device. -/
def step (s : State) : Host.Outcome State Fault Refusal :=
  match s.agenda with
  | m :: rest => ({ s with agenda := rest } : State).moveAndSettle m
  | [] =>
    match s.nextMove with
    | some m => s.moveAndSettle m
    | none => .next s

/-- The virtual and physical address at which `withFetchWord` places an instruction. -/
def fetchPage : Nat := 0x10000

/-- The parameter block of the launch that `withFetchWord` installs: width 8, 512 vector registers, one wave, the code at `fetchPage`. -/
def fetchBlock : Block :=
  [BitVec.ofNat 64 fetchPage, 0x0000000100010001, 0x000000003C010000, 0, 0, 0, 0, 0, 0, 0, 0, 0, 0, 0, 0, 0]

/-- The launch, team and translation that make the next step issue the instruction at `fetchPage`. -/
def State.withFetchTeam (s : State) : State :=
  let l : Launch := newLaunch fetchBlock 1 0 0 0 []
  let p : Place := { core := 0, seats := [(0, 0, 0)], units := [] }
  let t : Team := newTeam fetchBlock 1 1 0 (0, 0, 0) p false [newWave fetchBlock 0 0 (0, 0, 0) (entryLanes fetchBlock)]
  let e : TlbEntry := { asn := 0, page := fetchPage / 4096, log2 := 12, pa := fetchPage, mtype := .cached, perms := 7 }
  { s.updCore 0 (fun c => { c with tlb := [e] }) with
    teams := [t]
    launches := [l]
    agenda := [.issue { team := 1, wave := 0 }] }

/-- `s` with an instruction placed where the next step fetches it: its words at `fetchPage`, least significant first. -/
def State.withFetchWord (s : State) (_nbits w : Nat) : State :=
  ({ s with mem := cellStore s.mem fetchPage (leBytes 16 w), poison := [], poisonRegs := [] } : State).withFetchTeam

end Sys2Proof.Machine
end

