-- ==== Sys2Proof/Safety.lean ====
section
/-! DEFINITION. What the claims are stated in: the current issue and the lanes that take part in it (02 R24), what one issue leaves of
its wave and of everything else, and the ways in which an instruction's results arrive (02 R35, R41). -/

namespace Sys2Proof.Safety

open Sys2Proof Sys2Proof.Machine

/-! ### The current issue -/

/-- The current issue is one of the resident wave `w`. -/
abbrev Issuing (s : State) (w : Wave) : Prop := s.wave? s.curRef = some w

/-- Lane `l` takes part: it is in the issue and its guard passes (02 R24). -/
def takes (s : State) (h : Hdr) (w : Wave) (l : Nat) : Bool :=
  s.cur.mask.getLsbD l && (h.gp == 7#3 || (w.lane l).pred h.gp.toNat != h.gn)

/-- Some lane takes part. -/
abbrev Someone (s : State) (h : Hdr) (w : Wave) : Prop := ∃ l, takes s h w l = true

/-- The address at which execution continues (02 R22). -/
def after (s : State) (h : Hdr) : Word := s.cur.pc + (if h.x.isSome then 16#64 else 8#64)

/-! ### What is left alone -/

/-- A team without its waves. -/
def bare (t : Team) : Team := { t with waves := [] }

/-- Everything outside the current wave is as before: every field of the state but the teams, every team but for its waves, every
other wave; so every byte of memory. -/
structure Elsewhere (s t : State) : Prop where
  rest : { t with teams := s.teams } = s
  teams : t.teams.map bare = s.teams.map bare
  waves : ∀ q, q ≠ s.curRef → t.wave? q = s.wave? q
  bytes : ∀ a, cellGet t.mem a = cellGet s.mem a

/-- The lanes of the issue continue after the instruction, guards notwithstanding; of a lane nothing but its vector registers, its
predicates and where it stands is touched (02 R22, R24). -/
structure Moves (s : State) (h : Hdr) (w w' : Wave) : Prop where
  count : w'.lanes.length = w.lanes.length
  pc : ∀ l, l < w.lanes.length → (w'.lane l).pc = if s.cur.mask.getLsbD l then after s h else (w.lane l).pc
  lane : ∀ l, l < w.lanes.length →
    { w'.lane l with v := (w.lane l).v, p := (w.lane l).p, pc := (w.lane l).pc, wait := (w.lane l).wait } = w.lane l

/-- SW ends the run (02 R34); nothing of the instruction is left in progress. -/
structure Ends (h : Hdr) (w w' : Wave) : Prop where
  run : w'.runEnd = (w.runEnd || h.sw)
  prog : w'.prog = none

/-- No vector register and no predicate of any lane changes. -/
structure LanesKept (w w' : Wave) : Prop where
  regs : ∀ l r, l < w.lanes.length → (w'.lane l).vr r = (w.lane l).vr r
  preds : ∀ l p, l < w.lanes.length → (w'.lane l).pred p = (w.lane l).pred p

/-- No scalar register changes. -/
abbrev ScalarsKept (w w' : Wave) : Prop := ∀ r, w'.sr r = w.sr r

/-! ### Register results -/

/-- A value of `n` registers from `d`: what register `r` gets of it (02 R26). -/
def block (d n v : Nat) (r : Nat) : Option Nat := if d ≤ r ∧ r < d + n then some (v / 2 ^ (32 * (r - d)) % 2 ^ 32) else none
/-- Values of one register each from `d`. -/
def row (d : Nat) (vs : List Nat) (r : Nat) : Option Nat := if d ≤ r then vs[r - d]? else none
/-- A predicate result; p7 is no destination (02 R26, R39). -/
def onePred (d : Nat) (b : Bool) (p : Nat) : Option Bool := if p = d ∧ p < 7 then some b else none

/-- A vector instruction with fixed-latency results (02 R35): in each lane that takes part, register `r` becomes `reg l r` and
predicate `p` becomes `pred l p`, where given; the flags of those lanes are ORed into WSTAT (02 R44); nothing else changes. -/
structure Computes (s : State) (h : Hdr) (w : Wave) (reg : Nat → Nat → Option Nat) (pred : Nat → Nat → Option Bool)
    (fl : Nat → Flags) (t : State) (w' : Wave) : Prop where
  here : t.wave? s.curRef = some w'
  regs : ∀ l r, l < w.lanes.length →
    (w'.lane l).vr r = if takes s h w l then (reg l r).getD ((w.lane l).vr r) else (w.lane l).vr r
  preds : ∀ l p, l < w.lanes.length →
    (w'.lane l).pred p = if takes s h w l then (pred l p).getD ((w.lane l).pred p) else (w.lane l).pred p
  wstat : ∀ i, w'.wstat.getLsbD i = true ↔
    w.wstat.getLsbD i = true ∨ (i < 8 ∧ ∃ l, takes s h w l = true ∧ (fl l).getLsbD i = true)
  moves : Moves s h w w'
  ends : Ends h w w'
  wave : { w' with lanes := w.lanes, wstat := w.wstat, runEnd := w.runEnd, prog := w.prog, xl := w.xl } = w
  elsewhere : Elsewhere s t

/-- No predicate is written. -/
def noPred (_ _ : Nat) : Option Bool := none
/-- No register is written. -/
def noReg (_ _ : Nat) : Option Nat := none
/-- No flag is set. -/
def noFlag (_ : Nat) : Flags := 0#8

/-- Register writes of one result, given to any wave: what each lane's registers become. -/
def Delivers (ws : List RegWrite) (s : State) (h : Hdr) (w : Wave) (reg : Nat → Nat → Option Nat) : Prop :=
  ∀ x : Wave, x.lanes.length = w.lanes.length → ∀ l r, l < w.lanes.length →
    ((ws.foldl Wave.write x).lane l).vr r = if takes s h w l then (reg l r).getD ((x.lane l).vr r) else (x.lane l).vr r

/-- A vector instruction with a variable-latency result (02 R35): the lanes move on, no register changes yet, and the wave has one
more outstanding result, complete, whose writes are those of `reg` and whose flags are those of the lanes that take part. -/
structure Promises (s : State) (h : Hdr) (w : Wave) (reg : Nat → Nat → Option Nat) (fl : Nat → Flags)
    (t : State) (w' : Wave) (o : Out) : Prop where
  here : t.wave? s.curRef = some w'
  outs : w'.outs = w.outs ++ [o]
  out : o.vlr = true ∧ o.ready = true ∧ o.fin = .regs ∧ o.accs = [] ∧ o.pc = s.cur.pc ∧ o.id = s.uid
  writes : Delivers o.writes s h w reg
  flags : ∀ i, o.flags.getLsbD i = true ↔ ∃ l, takes s h w l = true ∧ (fl l).getLsbD i = true
  lanes : LanesKept w w'
  moves : Moves s h w w'
  ends : Ends h w w'
  wave : { w' with lanes := w.lanes, outs := w.outs, runEnd := w.runEnd, prog := w.prog, xl := w.xl } = w
  elsewhere : Elsewhere { s with uid := s.uid + 1 } t

/-- A scalar instruction (02 R41): it takes place once, whatever lanes are in the issue; `n` registers from `d` take the value. -/
structure ScalarStep (s : State) (h : Hdr) (w : Wave) (d n v : Nat) (t : State) (w' : Wave) : Prop where
  here : t.wave? s.curRef = some w'
  regs : ∀ r, w'.sr r = (block d n v r).getD (w.sr r)
  lanes : LanesKept w w'
  moves : Moves s h w w'
  ends : Ends h w w'
  wave : { w' with lanes := w.lanes, sregs := w.sregs, runEnd := w.runEnd, prog := w.prog, xl := w.xl } = w
  elsewhere : Elsewhere s t

/-! ### Lanes that move, end and trap -/

/-- A lane that goes to a place with a priority; it waits for nothing. -/
def placed (ln : Lane) (pc : Word) (prio : BitVec 8) : Lane := { ln with pc := pc, prio := prio, wait := .none }
/-- A lane that continues after the instruction and keeps its priority. -/
def onward (s : State) (h : Hdr) (ln : Lane) : Lane := placed ln (after s h) ln.prio
/-- Lane `l` after an instruction that only moves its lanes on. -/
def onwards (s : State) (h : Hdr) (w : Wave) (l : Nat) : Lane := if s.cur.mask.getLsbD l then onward s h (w.lane l) else w.lane l
/-- A lane that has ended; it keeps its registers. -/
def ended (ln : Lane) : Lane :=
  { ln with live := false, wait := .none, ptrap := none, handler := false, outside := false, marked := false, pend := none,
             await := none }

/-- The current wave becomes `x` apart from its lanes, which become `lane`, and its run end, which becomes `e`; nothing of the
instruction stays in progress, and nothing else changes. -/
structure Becomes (s : State) (w x : Wave) (lane : Nat → Lane) (e : Bool) (t : State) (w' : Wave) : Prop where
  here : t.wave? s.curRef = some w'
  count : w'.lanes.length = w.lanes.length
  lanes : ∀ l, l < w.lanes.length → w'.lane l = lane l
  run : w'.runEnd = e
  prog : w'.prog = none
  wave : { w' with lanes := x.lanes, runEnd := x.runEnd, prog := x.prog, xl := x.xl } = x
  elsewhere : Elsewhere s t

/-- `l` is the lowest lane that has a property. -/
def Lowest (p : Nat → Prop) (l : Nat) : Prop := p l ∧ ∀ k, k < l → ¬ p k

/-- The next state is that of a trap in the lanes of the issue that `m` holds. -/
def Traps (i : Instr) (h : Hdr) (s : State) (m : Nat → Bool) (x : TrapInfo) : Prop :=
  ∃ k : BitVec 64, (∀ l < 64, k.getLsbD l = m l) ∧ exec i s = .next (s.trapLanes h k x)

/-- A trap of a cause group with its three detail words (18 R378, R379). -/
def cause (group d0 d1 d2 : Nat) : TrapInfo :=
  { cause := BitVec.ofNat 32 group, d0 := BitVec.ofNat 32 d0, d1 := BitVec.ofNat 32 d1, d2 := BitVec.ofNat 32 d2 }
/-- The same with an address in TDET1:TDET2. -/
def causeAt (group d0 : Nat) (va : BitVec 64) : TrapInfo :=
  { cause := BitVec.ofNat 32 group, d0 := BitVec.ofNat 32 d0, d1 := va.setWidth 32, d2 := (va >>> 32).setWidth 32 }

/-- Every team but for its waves, and every wave but `r`, is as before. -/
def OthersSame (r : WaveRef) (s t : State) : Prop := t.teams.map bare = s.teams.map bare ∧ ∀ q, q ≠ r → t.wave? q = s.wave? q

/-- Lane `l` is live and has a trap to deliver. -/
def pending (w : Wave) (l : Nat) : Bool := decide (l < w.lanes.length) && (w.lane l).live && (w.lane l).ptrap.isSome
/-- The place of lane `a` ranks before that of lane `b`: the frontier before the lanes outside, then the higher priority, then the
lower PC (14 R298, 18 R383). -/
def ranksBefore (a b : Lane) : Bool :=
  (!a.outside && b.outside) || (a.outside == b.outside &&
    (decide (b.prio.toNat < a.prio.toNat) || (a.prio == b.prio && decide (a.pc.toNat < b.pc.toNat))))
/-- Lane `k` is the lowest pending lane of the highest-ranked place that has one (18 R383). -/
def NextTrap (w : Wave) (k : Nat) : Prop :=
  pending w k = true ∧ ∀ j, pending w j = true →
    ranksBefore (w.lane j) (w.lane k) = false ∧ (k ≤ j ∨ ranksBefore (w.lane k) (w.lane j) = true)
/-- A lane that has entered the handler (18 R382). -/
def inHandler (hd : Word) (ln : Lane) : Lane := { ln with pc := hd, prio := 255#8, handler := true, ptrap := none, wait := .none }

/-- The wave's registers of a trap: TPC, TPRIO, TCAUSE, TDET and handler mode. -/
structure TrapRegs (w' : Wave) (pc : Word) (prio : BitVec 8) (x : TrapInfo) : Prop where
  pc : w'.tpc = pc
  prio : w'.tprio = prio
  cause : w'.tcause = x.cause
  detail : w'.tdet0 = x.d0 ∧ w'.tdet1 = x.d1 ∧ w'.tdet2 = x.d2
  mode : w'.hmode = true

/-- An undelivered trap (18 R384): a record of kind UNDELIVERED waits for ring 1, and the launch is TRAPPED. -/
structure Undelivered (s : State) (r : WaveRef) (w : Wave) (tm : Team) (pc : Word) (x : TrapInfo) (t : State) : Prop where
  ring : ∀ g, s.rings[1]? = some g → t.rings = s.rings.set 1 { g with waiting := g.waiting ++ [
    [BitVec.ofNat 64 (3 * 2 ^ 44 + tm.launch),
      BitVec.ofNat 64 (tm.rank * 2 ^ 32 + w.core * 2 ^ 24 + w.part * 2 ^ 19 + w.slot * 2 ^ 16 + w.id * 2 ^ 8), 0#64,
      BitVec.ofNat 64 (((s.block tm.launch).getD 2 0).toNat / 2 ^ 48 % 2 ^ 12), pc, x.d0 ++ x.cause, x.d2 ++ x.d1, 0#64]] }
  launch : t.launches = s.launches.map (fun l => if l.id = tm.launch then { l with trapped := true } else l)
  rest : { t with teams := s.teams, rings := s.rings, launches := s.launches } = s
  others : OthersSame r s t

/-! ### Memory instructions -/

/-- An outstanding result or group of accesses, as an issue leaves it (02 R34, R35). -/
def outOf (s : State) (vlr : Bool) (fin : Fin) (writes : List RegWrite) (accs : List Acc) : Out :=
  { id := s.uid, pc := s.cur.pc, vlr := vlr, ready := true, fin := fin, accs := accs, writes := writes, flags := 0#8 }

/-- A memory instruction has issued: its lanes move on, no register changes yet, and the wave has one more outstanding group `o`.
Besides, only TLBs, the team's recorded reads and its escape change. -/
structure Issues (s : State) (h : Hdr) (w : Wave) (o : Out) (t : State) (w' : Wave) : Prop where
  here : t.wave? s.curRef = some w'
  outs : w'.outs = w.outs ++ [o]
  lanes : LanesKept w w'
  moves : Moves s h w w'
  ends : Ends h w w'
  wave : { w' with lanes := w.lanes, outs := w.outs, runEnd := w.runEnd, prog := w.prog, xl := w.xl } = w
  uid : t.uid = s.uid + 1
  rest : { t with teams := s.teams, cores := s.cores, uid := s.uid } = s
  cores : t.cores.map (fun c => { c with tlb := [] }) = s.cores.map (fun c => { c with tlb := [] })
  teams : t.teams.map (fun x => { bare x with recorded := [], always := false, escape := false }) =
    s.teams.map (fun x => { bare x with recorded := [], always := false, escape := false })
  others : ∀ q, q ≠ s.curRef → t.wave? q = s.wave? q

/-- A global memory instruction: the lanes that access, their exact addresses, bytes, log2 of the alignment, the permissions and
types it needs, and the access and the outstanding result that it leaves (06 R124, 13 R290, 04 R85). -/
structure GlobalForm where
  i : Instr
  lanes : List Nat
  ea : Nat → Int
  n : Nat
  align : Nat
  rd : Bool
  wr : Bool
  types : MType → Bool
  room : Bool
  acc : Nat → Xlat → Acc
  out : List Acc → Out

/-- The PROTECT reason that a translation meets: NOREAD, NOWRITE, then TYPE (04 R81, 18 R379). -/
def GlobalForm.reason (q : GlobalForm) (x : Xlat) : Option Nat :=
  if q.rd && !x.perms.getLsbD 0 then some 2 else if q.wr && !x.perms.getLsbD 1 then some 3
  else if !q.types x.mtype then some 5 else none
def GlobalForm.aligned (q : GlobalForm) (l : Nat) : Prop := ((2 ^ q.align : Nat) : Int) ∣ q.ea l
/-- The address is one of the 64-bit space and canonical (04 R76). -/
def GlobalForm.canon (q : GlobalForm) (l : Nat) : Prop := 0 ≤ q.ea l ∧ q.ea l < (2 ^ 64 : Nat) ∧ canonical (q.ea l).toNat = true
/-- The translation of lane `l` is known. -/
def GlobalForm.known (q : GlobalForm) (s : State) (w : Wave) (x : Nat → Xlat) (l : Nat) : Prop :=
  s.look w.xl w.core s.curAsn (q.ea l).toNat = .hit (x l)

/-- No Holly entry of the team locks a range of `n` bytes; a source entry lets reads pass (05 R109). -/
def Unlocked (s : State) (tm : Team) (sp : Space) (lo n : Nat) (writes : Bool) : Prop :=
  ∀ c, c = tm.core ∨ (tm.pair = true ∧ c = tm.core + 1) → ∀ e, some e ∈ (s.core c).holly → e.team = tm.uid → e.space = sp →
    lo + n ≤ e.lo ∨ e.hi ≤ lo ∨ (e.source = true ∧ writes = false)
/-- No uncorrectable word of memory or of the core's cache meets a range (18 R380). -/
def Sound (s : State) (core pa n : Nat) : Prop :=
  (∀ p ∈ s.poison, pa + n ≤ p ∨ p + 8 ≤ pa) ∧
  ∀ x ∈ (s.core core).cache, ∀ k ∈ x.poison, pa + n ≤ 256 * x.line + 8 * k ∨ 256 * x.line + 8 * k + 8 ≤ pa

/-- No release has left a mark in a range of memory (13 R284). -/
def Unmarked (s : State) (pa n : Nat) : Prop := ∀ e ∈ s.rels, e.1 < pa ∨ pa + n ≤ e.1

/-- Every check of the instruction passes, with the translations `x`. -/
def GlobalForm.Clear (q : GlobalForm) (s : State) (w : Wave) (tm : Team) (x : Nat → Xlat) : Prop :=
  ∀ l ∈ q.lanes, q.aligned l ∧ q.canon l ∧ q.known s w x l ∧ q.reason (x l) = none ∧
    Unlocked s tm .glob (q.ea l).toNat q.n q.wr ∧ (q.rd = true → Sound s w.core (x l).pa q.n)

/-- The core of a wave has fewer than 256 misses queued, so it may issue an instruction that translates; one that is in progress already
goes on in any case (04 R84). -/
def WalkRoom (s : State) (w : Wave) : Prop :=
  w.prog ≠ none ∨ ((s.die (w.core / 32)).missq.filter (fun m => m.core == w.core)).length < 256

/-- The instruction issues when every check passes and, for a load or store, its miss-status entries are free (06 R121). -/
def GlobalForm.Goes (q : GlobalForm) (s : State) (h : Hdr) (w : Wave) (tm : Team) : Prop :=
  ∀ x, WalkRoom s w → q.Clear s w tm x → (q.room = true → s.mshrFree (q.lanes.map (fun l => q.acc l (x l))) = true) →
    ∃ (t : State) (w' : Wave), exec q.i s = .next t ∧ Issues s h w (q.out (q.lanes.map (fun l => q.acc l (x l)))) t w'

/-- The traps of 04 R85, in its order: the lowest misaligned lane; the lowest address that is not canonical; once every translation is
known, the lowest lane without a permission or with a forbidden type. While the core's share of the miss queue is full, nothing issues
and nothing else changes (04 R84). -/
def GlobalForm.Checks (q : GlobalForm) (s : State) (h : Hdr) (w : Wave) : Prop :=
  (∀ l, Lowest (fun l => l ∈ q.lanes ∧ ¬ q.aligned l) l → Traps q.i h s (takes s h w) (causeAt 4 q.align (BitVec.ofInt 64 (q.ea l)))) ∧
  (∀ l, (∀ k ∈ q.lanes, q.aligned k) → Lowest (fun l => l ∈ q.lanes ∧ ¬ q.canon l) l →
    Traps q.i h s (takes s h w) (causeAt 3 1 (BitVec.ofInt 64 (q.ea l)))) ∧
  (∀ x l r, WalkRoom s w → (∀ k ∈ q.lanes, q.aligned k ∧ q.canon k ∧ q.known s w x k) →
    Lowest (fun l => l ∈ q.lanes ∧ q.reason (x l) ≠ none) l → q.reason (x l) = some r →
    Traps q.i h s (takes s h w) (causeAt 3 r (BitVec.ofInt 64 (q.ea l)))) ∧
  (¬ WalkRoom s w → q.lanes ≠ [] → (∀ k ∈ q.lanes, q.aligned k ∧ q.canon k) → ∃ t : State, exec q.i s = .next t ∧ { t with cur := s.cur } = s)

/-- The lanes of a test, rising. -/
def lanesThat (p : Nat → Bool) : List Nat := (List.range 64).filter p
/-- The lowest lane of a test. -/
def lowestThat (p : Nat → Bool) : List Nat := ((List.range 64).find? p).toList

/-- One access to memory by lane `l`, not performed yet. -/
def accAt (f : MFields) (kind : AKind) (ch n data : Nat) (l : Nat) (va : Int) (x : Xlat) : Acc :=
  { lane := l, kind := kind, side := none, va := va.toNat, pa := x.pa, len := n, mtype := x.mtype, scope := f.scope.toNat,
    ord := f.ord.toNat, ch := ch, data := data, state := .todo, result := 0, log2 := x.log2 }
/-- One access to scratch of a side. -/
def accIn (f : MFields) (kind : AKind) (n data : Nat) (l side off : Nat) : Acc :=
  { lane := l, kind := kind, side := some side, va := off, pa := off, len := n, mtype := .homeonly, scope := f.scope.toNat,
    ord := f.ord.toNat, ch := 0, data := data, state := .todo, result := 0 }

/-- A local memory instruction: lanes, whether it writes and reads, and its access and outstanding result (06 R124, 13 R289). -/
structure LocalForm where
  i : Instr
  lanes : List Nat
  wr : Bool
  rd : Bool
  room : Bool
  acc : Nat → Nat → Nat → Acc
  out : List Acc → Out

/-- A local range of `n` bytes at `a` lies in the allocation of the wave's own core, or, from 4 MiB, of the pair's other core: its side
and offset (06 R119, R120). -/
def InScratch (tm : Team) (w : Wave) (a : Int) (n : Nat) (p : Nat × Nat) : Prop :=
  let own := if tm.pair = true ∧ w.core ≠ tm.core then 1 else 0
  0 ≤ a ∧ a + n ≤ 8388608 ∧ (p.2 : Int) + n ≤ ((tm.scratchBytes + 4095) / 4096 * 4096 : Nat) ∧
    (a < 4194304 ∧ p = (own, a.toNat) ∨ 4194304 ≤ a ∧ tm.pair = true ∧ p = (1 - own, a.toNat - 4194304))

/-- What a local instruction does: the ALIGN and the LOCAL trap of the lowest lane; otherwise, with no locked range and no
uncorrectable word, its accesses are outstanding. -/
def LocalForm.Works (q : LocalForm) (s : State) (h : Hdr) (f : MFields) (w : Wave) (tm : Team) : Prop :=
  let n : Nat := 2 ^ f.size.toNat
  let ea (l : Nat) : Int := localEa h f w (w.lane l)
  (∀ l, Lowest (fun l => l ∈ q.lanes ∧ ¬ (n : Int) ∣ ea l) l →
    Traps q.i h s (takes s h w) (cause 4 f.size.toNat (BitVec.ofInt 32 (ea l)).toNat 0)) ∧
  (∀ l, (∀ k ∈ q.lanes, (n : Int) ∣ ea k) → Lowest (fun l => l ∈ q.lanes ∧ ∀ p, ¬ InScratch tm w (ea l) n p) l →
    Traps q.i h s (takes s h w) (cause 3 6 (BitVec.ofInt 32 (ea l)).toNat 0)) ∧
  ∀ p : Nat → Nat × Nat, q.lanes ≠ [] →
    (∀ l ∈ q.lanes, (n : Int) ∣ ea l ∧ InScratch tm w (ea l) n (p l) ∧ Unlocked s tm (.scratch (p l).1) (p l).2 n q.wr) →
    (q.rd = true → ∀ k side j, Site.scratch k side j ∉ s.poisonRegs) →
    (q.room = true → s.mshrFree (q.lanes.map (fun l => q.acc l (p l).1 (p l).2)) = true) →
    ∃ (t : State) (w' : Wave), exec q.i s = .next t ∧ Issues s h w (q.out (q.lanes.map (fun l => q.acc l (p l).1 (p l).2))) t w'

/-- A write of `n` bytes at `pa` touches no live trace set and no descriptor of one, so no map bit is set (17 R362, R370). -/
def Untraced (s : State) (pa n : Nat) : Prop :=
  ∀ i < 15, let d := s.regs.trbase.toNat / 2 ^ 12 % 2 ^ 40 * 2 ^ 12 + 256 * i
    (cellGet s.mem d).getLsbD 0 = false ∧ (d < pa ∨ pa + n ≤ d)

/-- Access `j` of outstanding group `k` has been performed with result `v`; the wave and every other wave are otherwise as before, but
for the release marks that its lane has met. -/
def AccessDone (s : State) (r : WaveRef) (w : Wave) (k j : Nat) (a : Acc) (v : Nat) (t : State) : Prop :=
  (∃ w' : Wave, t.wave? r = some w' ∧
    (∀ o, w.outs[k]? = some o → w'.outs = w.outs.set k { o with accs := o.accs.set j { a with state := .done, result := v } }) ∧
    w'.lanes.length = w.lanes.length ∧ (∀ l < w.lanes.length, { w'.lane l with seen := (w.lane l).seen } = w.lane l) ∧
    { w' with lanes := w.lanes, outs := w.outs } = w) ∧ ∀ q, q ≠ r → t.wave? q = s.wave? q

/-- The bytes of a store: byte `x` of memory afterwards, where `n` bytes of `v` were stored at `pa`. -/
def storedByte (old : Nat → Byte) (pa n v x : Nat) : Byte := if pa ≤ x ∧ x < pa + n then BitVec.ofNat 8 (v / 2 ^ (8 * (x - pa))) else old x
/-- The number that `n` bytes of a map hold from `a`, lowest address least significant (00 R2). -/
def littleEndian (m : Nat → Byte) (a n : Nat) : Nat := ((List.range n).map (fun i => (m (a + i)).toNat * 2 ^ (8 * i))).sum

/-- What core `c` reads at an address below PAIR scope: its own copy where it holds one, else memory (13 R276, 06 R122). -/
def coreByte (s : State) (c x : Nat) : Byte :=
  match (s.core c).cbyte? x with
  | some b => b.val
  | none => cellGet s.mem x

/-- The new value of an atomic on `w` bits (13 R291 to R293), from the old value and the operand; CAS has its compare value in the low
bits of the operand. -/
def atomicValue (op : AOp) (w old v : Nat) : Nat :=
  let x := v % 2 ^ w
  let s : IFmt := { w := w, signed := true }
  match op with
  | .add => (old + x) % 2 ^ w
  | .minS => if s.read old < s.read x then old else x
  | .maxS => if s.read old < s.read x then x else old
  | .minU => if old < x then old else x
  | .maxU => if old < x then x else old
  | .and => old &&& x
  | .or => old ||| x
  | .xor => old ^^^ x
  | .xchg => x
  | .cas => if old = x then v / 2 ^ w % 2 ^ w else old
  | .fadd => (roundTo .f32 .rn (Val.sum .rn [fdecode .f32 old, fdecode .f32 x]).1).1
  | .inc => if old < x then old + 1 else 0
  | .dec => if old = 0 ∨ x < old then x else old - 1
  | .xredF => xaccAdd old (fdecode .f32 (v % 2 ^ 32))
  | .xredImg => xaccAddImage old v

/-- The current wave becomes `x` apart from its lanes, which become `lane`, and its run end, which becomes `e`; nothing of the
instruction stays in progress, and no other wave changes. What becomes of the rest of the state is said beside it. -/
structure Turns (s : State) (w x : Wave) (lane : Nat → Lane) (e : Bool) (t : State) (w' : Wave) : Prop where
  here : t.wave? s.curRef = some w'
  count : w'.lanes.length = w.lanes.length
  lanes : ∀ l, l < w.lanes.length → w'.lane l = lane l
  run : w'.runEnd = e
  prog : w'.prog = none
  wave : { w' with lanes := x.lanes, runEnd := x.runEnd, prog := x.prog, xl := x.xl } = x
  others : ∀ q, q ≠ s.curRef → t.wave? q = s.wave? q

/-- The team of the current issue is as before but for its waves, its tags and its barriers. -/
def TeamRest (s : State) (tm tm' : Team) (t : State) : Prop :=
  t.team? s.cur.team = some tm' ∧ { tm' with waves := [], tags := [], barriers := [] } = { tm with waves := [], tags := [], barriers := [] } ∧
    ∀ u, u ≠ s.cur.team → t.team? u = s.team? u

/-- A core's cache holds each byte at most once, clean bytes in whole 4-byte units (04 R90), and nothing of it waits to be written back or
noticed (06 R122). -/
structure PlainCache (s : State) (c : Nat) : Prop where
  lines : ((s.core c).cache.map CLine.line).Nodup
  bytes : ∀ x ∈ (s.core c).cache, (x.bytes.map CByte.off).Nodup ∧ ∀ b ∈ x.bytes, b.off < 256
  idle : (s.core c).notices = [] ∧ (s.core c).draining = []
  dirty : ∀ x ∈ (s.core c).cache, ∀ b ∈ x.bytes, b.dirty = true → Untraced s (256 * x.line + b.off) 1
  whole : ∀ x ∈ (s.core c).cache, ∀ b ∈ x.bytes, b.dirty = false → ∀ i < 4, ∃ d ∈ x.bytes, d.off = b.off / 4 * 4 + i

/-- No budget holds the requests of core `c` up (19 R398). -/
def Unmetered (s : State) (c : Nat) : Prop := (s.core c).hsb = 0 ∧ (s.core c).fmb = 0

/-- No element update of an add-on-store is still to come (10 R223). -/
def NoUpdates (s : State) : Prop := ∀ c ∈ s.cores, c.addons = []

/-- Nothing that wave `r` has issued before keeps a read of its lanes waiting, and no split atomic locks the host window (13 R280, R281,
04 R91). -/
structure ReadsAtOnce (s : State) (r : WaveRef) (w : Wave) : Prop where
  accesses : ∀ o ∈ w.outs, ∀ a ∈ o.accs, a.state = .done
  updates : ∀ c ∈ s.cores, ∀ u ∈ c.addons, u.applied = true ∨ u.team ≠ r.team ∨ u.wave ≠ r.wave
  host : ∀ a ∈ s.hostAtomics, a.split = false

/-- The current step has met no wait, and the wave waits for no walk. -/
def StartsFresh (s : State) (w : Wave) : Prop := s.cur.whole = false ∧ ∀ ps, w.park ≠ .walk ps

/-- A blocked entry still stands where it found its instruction blocked (06 R128, 14 R299). -/
def StillWaits (s : State) (x : WaveRef × Word) : Prop :=
  ∃ w, s.wave? x.1 = some w ∧ ∃ ln ∈ w.lanes, ln.live = true ∧ ln.pc = x.2 ∧ ∃ p, ln.stall = some p ∧ p.1 = x.2
/-- The entry `me` is next in an order of waiting ones: the first that still waits, or none does. -/
def IsTurn (s : State) (l : List (WaveRef × Word)) (me : WaveRef × Word) : Prop :=
  ∀ pre x post, l = pre ++ x :: post → (∀ y ∈ pre, ¬ StillWaits s y) → StillWaits s x → x = me

/-- What memory holds at `x` once core `c` has written its dirty bytes back (13 R282). -/
def writtenBack (s : State) (c x : Nat) : Byte :=
  match (s.core c).cbyte? x with
  | some b => if b.dirty then b.val else cellGet s.mem x
  | none => cellGet s.mem x

/-- Tags of a scalar mask, lowest first. -/
def lowestTag (p : Nat → Prop) (m : Nat) : Option Nat → Prop
  | none => ∀ k < 64, m.testBit k = true → ¬ p k
  | some k => k < 64 ∧ Lowest (fun k => m.testBit k = true ∧ p k) k

/-- The side of its team on which a wave runs: 1 on the odd core of a pair (14 R295). -/
def ownSide (tm : Team) (w : Wave) : Nat := if tm.pair = true ∧ w.core ≠ tm.core then 1 else 0

/-- The lowest lane that passes its guard and is no helper lane exists (05 R94, 10 R202). -/
abbrev Acting (s : State) (h : Hdr) (w : Wave) : Prop := ∃ l, takes s h w l = true ∧ w.helper.getLsbD l = false

/-- One side of the current team becomes `d`; the lanes move on; nothing else changes but what is said of `x`. -/
def SideStep (s : State) (h : Hdr) (w x : Wave) (tm : Team) (d : Side) (t : State) : Prop :=
  ∃ w' : Wave, Turns s w x (onwards s h w) (w.runEnd || h.sw) t w' ∧ { t with teams := s.teams } = s ∧
    ∃ tm' : Team, t.team? s.cur.team = some tm' ∧ { tm' with waves := [], sides := [] } = { tm with waves := [], sides := [] } ∧
      tm'.sides = tm.sides.set (ownSide tm w) d

/-- An operation of the current issue as the engine's queue holds it (10 R211). -/
def opOf (s : State) (w : Wave) (i : Instr) (m : BitVec 64) (out : Nat) (rows : List (Nat × Nat)) (panels : List Nat) : EngineOp :=
  { team := s.cur.team, wave := s.cur.wave, out := out, instr := i, pc := s.cur.pc, mask := m, helper := w.helper, rows := rows, panels := panels, xl := [] }

/-- A matrix instruction has issued: the engine's queue ends with its operation, whose completion is outstanding (02 R34, 10 R211). -/
structure Queued (s : State) (h : Hdr) (w : Wave) (i : Instr) (fin : Fin) (accs : List Acc) (rows : List (Nat × Nat)) (panels : List Nat) (e : Bool)
    (t : State) (w' : Wave) : Prop where
  turns : Turns s w { w with outs := w.outs ++ [{ outOf s true fin [] accs with ready := false }] } (onwards s h w) e t w'
  queue : ∃ m : BitVec 64, (∀ l < 64, m.getLsbD l = takes s h w l) ∧
    (t.core w.core).engine = (s.core w.core).engine ++ [opOf s w i m s.uid rows panels]
  uid : t.uid = s.uid + 1
  memory : t.mem = s.mem

/-- The engine of a core has room (10 R211). -/
abbrev EngineRoom (s : State) (w : Wave) : Prop := w.core < s.cores.length ∧ (s.core w.core).engine.length < 16

/-- The engine has done its head operation: its wave has the out, ready, with these writes and flags; no other wave changes. -/
structure Finished (s : State) (core : Nat) (op : EngineOp) (rest : List EngineOp) (w : Wave) (ws : List RegWrite) (fl : Flags) (t : State) : Prop where
  queue : (t.core core).engine = rest
  wave : t.wave? { team := op.team, wave := op.wave } = some { w with
    outs := w.outs.map (fun o => if o.id = op.out then { o with ready := true, writes := ws, flags := fl } else o) }
  others : ∀ q, q ≠ { team := op.team, wave := op.wave } → t.wave? q = s.wave? q
  memory : t.mem = s.mem

/-- Only the tile positions from `n` differ between two sides of a team, and MSTAT; `keep` tells the words that stay. -/
def TileOnly (d d' : Side) (n cnt : Nat) : Prop :=
  { d' with acc := d.acc, mstat := d.mstat } = d ∧ ∀ k, k < 4096 * n ∨ 4096 * (n + cnt) ≤ k → cellGet d'.acc k = cellGet d.acc k

/-- A free range of `n` bytes from `a` in an allocation of an operand buffer (10 R204). -/
def FreeAt (d : Side) (alloc n a : Nat) : Prop :=
  a + n ≤ alloc ∧ ∀ k q, k < 16 → d.panel? k = some q → a + n ≤ q.base ∨ q.base + q.extent ≤ a

/-- A range of a copy command, from `lo` to `hi` relative to the scalar pair `v`, lies in a space at origin `o` (05 R95). -/
def RangeIn (tm : Team) (w : Wave) (code v : Nat) (lo hi : Int) (sp : Space) (o : Nat) : Prop :=
  let own := ownSide tm w
  let alloc : Int := ((tm.scratchBytes + 4095) / 4096 * 4096 : Nat)
  match code with
  | 0 => sp = .glob ∧ o = v ∧ 0 ≤ v + lo ∧ lo ≤ hi ∧ v + hi < (2 ^ 64 : Nat) ∧ canonical (v + lo).toNat = true ∧ canonical (v + hi).toNat = true ∧
      (v + lo).toNat.testBit 55 = (v + hi).toNat.testBit 55
  | 1 => sp = .scratch own ∧ o = v ∧ v < 2 ^ 32 ∧ 0 ≤ v + lo ∧ v + hi < alloc
  | 2 => tm.pair = true ∧ sp = .scratch (1 - own) ∧ o = v ∧ v < 2 ^ 32 ∧ 0 ≤ v + lo ∧ v + hi < alloc
  | _ => v < 2 ^ 36 ∧ sp = .obuf own (v / 2 ^ 32) ∧ ∃ d p, tm.sides[own]? = some d ∧ d.panel? (v / 2 ^ 32) = some p ∧ o = p.base + v % 2 ^ 32 ∧
      0 ≤ ((v % 2 ^ 32 : Nat) : Int) + lo ∧ ((v % 2 ^ 32 : Nat) : Int) + hi < (p.extent : Int)

/-- The lowest and the highest relative byte of `planes` planes of `rows` rows of `row` bytes (05 R95). -/
def lowByte (rows planes : Nat) (rs ps : Int) : Int := min 0 (((rows - 1 : Nat) : Int) * rs) + min 0 (((planes - 1 : Nat) : Int) * ps)
def highByte (row rows planes : Nat) (rs ps : Int) : Int :=
  max 0 (((rows - 1 : Nat) : Int) * rs) + max 0 (((planes - 1 : Nat) : Int) * ps) + row - 1

/-- A copy command of the current issue. -/
def cmdOf (s : State) (w : Wave) (tm : Team) (opc tag : Nat) (send : Option Nat) (src dst : Space) (pieces : List Piece) (pages : List (Nat × Nat × Nat)) : Cmd :=
  { id := s.uid, team := s.cur.team, launch := tm.launch, asn := s.curAsn, opc := opc, tag := tag, sendTag := send, src := src, dst := dst, list := none, dstBase := 0, pieces := pieces, state := if pages = [] then .moving else .prepass, pages := pages, xl := [], toks := [], part := w.part, slot := w.slot, paid := [] }
/-- The pages of `n` bytes from `a` as an interval of an access kind. -/
def pagesOf (kind a n : Nat) : Nat × Nat × Nat := (kind, a % 2 ^ 56 / 4096, (a + n - 1) % 2 ^ 56 / 4096)
/-- A range lock of the current issue's command (05 R108). -/
def lockOf (s : State) (owner : Nat) (sp : Space) (lo n tag : Nat) (source : Bool) : Holly :=
  { cmd := s.uid, team := owner, space := sp, lo := lo, hi := lo + n, tag := tag, source := source, recv := owner }

/-- The engine and every range-lock table have room (05 R93, R108). -/
def CopyRoom (s : State) (w : Wave) : Prop :=
  w.core < s.cores.length ∧ (s.core w.core).cmds.length < 64 ∧ ∀ c ∈ s.cores, 20 ≤ (c.holly.filter (fun e => e.isNone)).length

/-- A copy command has been accepted: the lanes move on, no byte of memory changes, the engine holds the command and the tables its
range locks, by core (05 R93, R96, R108). -/
structure Accepted (s : State) (h : Hdr) (w : Wave) (c : Cmd) (locks : List (Nat × Holly)) (t : State) (w' : Wave) : Prop where
  turns : Turns s w w (onwards s h w) (w.runEnd || h.sw) t w'
  held : (t.core w.core).cmds = (s.core w.core).cmds ++ [c]
  locked : ∀ k < s.cores.length, ∀ e, some e ∈ (t.core k).holly ↔ some e ∈ (s.core k).holly ∨ (k, e) ∈ locks
  memory : t.mem = s.mem
  uid : t.uid = s.uid + 1

/-- The bytes of a command's side that a byte address names now: memory through its translations, scratch or the operand buffer. -/
def sourceByte (s : State) (core : Nat) (c : Cmd) (tm : Team) (x : Nat → Xlat) (a : Nat) : Byte :=
  match c.src with
  | .glob => if (x a).mtype = .cached then coreByte s core (x a).pa else cellGet s.mem (x a).pa
  | .scratch k => cellGet (tm.sides.getD k Side.reset).scratch a
  | .obuf k _ => cellGet (tm.sides.getD k Side.reset).obuf a

/-- A tag after `n` more bytes (05 R105). -/
def Tag.counted (g : Tag) (n : Nat) : Tag :=
  let m := min (2 ^ 40 - 1) (g.n.toNat + n)
  { g with n := BitVec.ofNat 40 m, ready := g.ready || (g.armed && !g.failed && decide (g.e.toNat ≤ m)) }

/-! ### Macros -/

/-- Word `k` of a window. -/
def word (win k : Nat) : Nat := win / 2 ^ (32 * k) % 2 ^ 32

/-- A macro has begun: its acting lanes stay at the PC with their windows as `lanes` says, the other lanes of the issue move on, and no
register and no byte of memory has changed (11 R229). -/
structure Begins (s : State) (h : Hdr) (w : Wave) (i : Instr) (act : Nat → Bool) (lanes : List MacLane) (t : State) (w' : Wave) : Prop where
  here : t.wave? s.curRef = some w'
  prog : ∃ p : Prog, w'.prog = some p ∧ p.instr = i ∧ p.pc = s.cur.pc ∧ p.begun = true ∧ p.flags = 0#8 ∧ p.lanes = lanes ∧
    ∀ l < 64, p.mask.getLsbD l = act l
  count : w'.lanes.length = w.lanes.length
  stay : ∀ l < w.lanes.length, w'.lane l = if s.cur.mask.getLsbD l && !act l then onward s h (w.lane l) else w.lane l
  wave : { w' with lanes := w.lanes, prog := w.prog, xl := w.xl } = w
  others : ∀ q, q ≠ s.curRef → t.wave? q = s.wave? q
  memory : t.mem = s.mem

/-- The windows of some lanes at the start of a macro: `n` registers from `r` each. -/
def windowsAt (w : Wave) (act : Nat → Bool) (r n : Nat) : List MacLane :=
  (lanesThat act).map (fun l => { lane := l, win := (w.lane l).vblock r n, reason := 0, target := none, trap := none, fault := none })

/-- The macro that the current wave carries out, and its first lane that has not stopped (11 R229). -/
structure MacroRuns (s : State) (w : Wave) (i : Instr) (p : Prog) (m : MacLane) : Prop where
  prog : w.prog = some p
  instr : p.instr = i
  begun : p.begun = true
  goes : w.stop = false
  fresh : StartsFresh s w
  first : p.lanes.find? (fun x => x.reason == 0 && x.trap.isNone && x.fault.isNone) = some m
  distinct : (p.lanes.map MacLane.lane).Nodup

/-- A lane of a macro whose windows lie in vector registers has taken a step to `m'`, with flags `fl`: while some lane still runs,
nothing but the macro's progress changes; when every lane has stopped without a trap or a fault, each lane's window words that a stop
writes are written, REASON in the header, each lane goes where its stop says, and the run ends (11 R228, R229). -/
def MacroTicks (s : State) (w : Wave) (p : Prog) (reg : Nat) (words : MacLane → List Nat) (m' : MacLane) (fl : Flags) (t : State) : Prop :=
  let ls := p.lanes.map (fun x => if x.lane = m'.lane then m' else x)
  let running (x : MacLane) : Prop := x.reason = 0 ∧ x.trap = none ∧ x.fault = none
  ∃ w' : Wave, t.wave? s.curRef = some w' ∧ (∀ q, q ≠ s.curRef → t.wave? q = s.wave? q) ∧
    ((∃ x ∈ ls, running x) → ∃ p' : Prog, w'.prog = some p' ∧ { p' with lanes := p.lanes, flags := p.flags, data := p.data } = p ∧ p'.lanes = ls ∧
      p'.flags = p.flags ||| fl ∧ { w' with prog := w.prog, xl := w.xl } = w) ∧
    ((∀ x ∈ ls, x.reason ≠ 0 ∧ x.trap = none ∧ x.fault = none) →
      w'.prog = none ∧ w'.runEnd = true ∧ (∀ i, w'.wstat.getLsbD i = true ↔ w.wstat.getLsbD i = true ∨ (i < 8 ∧ (p.flags ||| fl).getLsbD i = true)) ∧
      w'.lanes.length = w.lanes.length ∧
      { w' with lanes := w.lanes, prog := w.prog, runEnd := w.runEnd, wstat := w.wstat, xl := w.xl } = w ∧
      (∀ l < w.lanes.length, (∀ x ∈ ls, x.lane ≠ l) → w'.lane l = w.lane l) ∧
      ∀ x ∈ ls, x.lane < w.lanes.length → x.lane < 64 →
        { w'.lane x.lane with v := (w.lane x.lane).v, pc := (w.lane x.lane).pc, wait := (w.lane x.lane).wait } = w.lane x.lane ∧
        (w'.lane x.lane).pc = x.target.getD (w.lane x.lane).pc ∧
        ∀ r, (w'.lane x.lane).vr r = if reg ≤ r ∧ r - reg ∈ words x then
          (if r = reg then word x.win 0 / 2 ^ 24 * 2 ^ 24 + x.reason % 256 * 2 ^ 16 + word x.win 0 % 2 ^ 16 else word x.win (r - reg))
          else (w.lane x.lane).vr r)

/-- The core's TLB translates every byte of a range for reading, from memory at its home, and the bytes hold `v`. -/
def Reads (s : State) (w : Wave) (va n v : Nat) : Prop :=
  (∀ e ∈ (s.core w.core).tlb, 12 ≤ e.log2) ∧ (∀ e ∈ w.xl, 12 ≤ e.log2) ∧ ReadsAtOnce s s.curRef w ∧ ∃ x : Nat → Xlat, (∀ i < n, va + i < 2 ^ 64 ∧ canonical (va + i) = true ∧ s.look w.xl w.core s.curAsn (va + i) = .hit (x i) ∧
    (s.core w.core).tlb.find? (fun e => e.covers s.curAsn (va + i)) ≠ none ∧ (x i).perms.getLsbD 0 = true ∧
    ((x i).mtype = .homeonly ∨ (x i).mtype = .host) ∧ Sound s w.core (x i).pa 1 ∧ Unmarked s (x i).pa 1) ∧
    v = ((List.range n).map (fun i => (cellGet s.mem (x i).pa).toNat * 256 ^ i)).sum

/-- The REASON of the MACRO trap and the lane: TDET0, with the header found in TDET1 (11 R232). -/
def macroCause (reason lane header : Nat) : TrapInfo := cause 9 (reason + 16 * lane) header 0

/-- The step indices of a stream's pattern, dimension 0 fastest (06 R130). -/
def dimIndex (extents : List Nat) (step k : Nat) : Nat := step / (extents.take k).prod % extents.getD k 1
/-- The exact address of a lane's element at a step (06 R130). -/
def streamAddr (q : Stream) (step l : Nat) : Int :=
  q.base.toNat + l * q.laneStride + ((List.range q.strides.length).map (fun k => (dimIndex q.extents step k : Int) * q.strides.getD k 0)).sum

/-! ### The Burrow, ordered sections and launches -/

/-- A lane holds and awaits no ordered section (14 R313). -/
def Loose (ln : Lane) : Prop := ln.held0 = none ∧ ln.held1 = none ∧ ln.await = none ∧ ln.wait ≠ .ordin
/-- Bytes of a Burrow record of `n` registers (14 R314). -/
def recordBytes (n : Nat) : Nat := (32 + 4 * n + 63) / 64 * 64
/-- Word `k` of a record: PC in words 0 and 1; PRED, PRIO and KEY in word 2; NREG; the rank; then the registers (14 R314). -/
def recordWord (d : Dep) (rank k : Nat) : Nat :=
  if k = 0 then d.pc % 2 ^ 32 else if k = 1 then d.pc / 2 ^ 32 else if k = 2 then d.pred + 2 ^ 8 * d.prio + 2 ^ 16 * d.key
  else if k = 3 then d.regs.length else if k = 4 then rank else if k < 8 then 0 else d.regs.getD (k - 8) 0
/-- The pieces of 64 bytes of records of `n` registers at some addresses. -/
def piecesOf (n : Nat) (as : List Nat) : List Nat := as.flatMap (fun a => (List.range (recordBytes n / 64)).map (fun k => a + 64 * k))

/-- A record of `size` bytes at `a` meets no record of a launch's Burrow (14 R314). -/
def FreeRecord (l : Launch) (size a : Nat) : Prop := ∀ r ∈ l.burrow, a + size ≤ r.addr ∨ r.addr + r.bytes ≤ a
/-- `as` are the lowest free record places of a launch's Burrow (14 R314). -/
structure FreePlaces (l : Launch) (n : Nat) (as : List Nat) : Prop where
  order : as.Pairwise (· < ·)
  free : ∀ a ∈ as, ∃ k, a = l.block.burrow + recordBytes n * k ∧ FreeRecord l (recordBytes n) a
  lowest : ∀ k, FreeRecord l (recordBytes n) (l.block.burrow + recordBytes n * k) → l.block.burrow + recordBytes n * k ∉ as →
    ∀ a ∈ as, a < l.block.burrow + recordBytes n * k

/-- Bytes that the records of a launch's Burrow take. -/
def burrowUsed (l : Launch) : Nat := (l.burrow.map BurrowRec.bytes).sum

/-- The deposit of records of `n` registers at places `as` can take place: they fit, and every piece translates, with write permission,
to a place of its own. -/
structure MayDeposit (s : State) (w : Wave) (l : Launch) (n : Nat) (as : List Nat) (x : Nat → Xlat) : Prop where
  places : FreePlaces l n as
  fits : recordBytes n * as.length + burrowUsed l ≤ l.block.bsize
  reach : ∀ va ∈ piecesOf n as, va < 2 ^ 64 ∧ canonical va = true ∧ s.look w.xl w.core (BitVec.ofNat 12 l.block.asn) va = .hit (x va) ∧
    (x va).perms.getLsbD 1 = true ∧ (x va).mtype ≠ .io ∧ Untraced s (x va).pa 64
  apart : (piecesOf n as).Pairwise (fun a b => (x a).pa + 64 ≤ (x b).pa ∨ (x b).pa + 64 ≤ (x a).pa)
  cache : PlainCache s w.core
  room : WalkRoom s w
  quiet : NoUpdates s ∧ Unmetered s w.core

/-- The records have gone to the Burrow of launch `l`: its list ends with them, memory holds them as 14 R314 lays them out, and every
other byte of memory is as before but for the core's dirty bytes, which the release has written back (14 R313). -/
structure Deposited (s : State) (w : Wave) (rank : Nat) (l : Launch) (n : Nat) (as : List Nat) (ds : List Dep) (x : Nat → Xlat)
    (pushers : List Nat) (t : State) : Prop where
  launch : t.launch? l.id = some { l with pushers := pushers, burrow := l.burrow ++ (as.zip ds).map (fun p =>
    { addr := p.1, bytes := recordBytes n, pc := BitVec.ofNat 64 p.2.pc, key := BitVec.ofNat 16 p.2.key, origin := some s.curRef }) }
  records : ∀ (j a : Nat) (d : Dep), as[j]? = some a → ds[j]? = some d → ∀ k, 4 * k < recordBytes n →
    littleEndian (cellGet t.mem) ((x (a + 64 * (k / 16))).pa + 4 * (k % 16)) 4 = recordWord d rank k
  kept : ∀ b, (∀ va ∈ piecesOf n as, b < (x va).pa ∨ (x va).pa + 64 ≤ b) → cellGet t.mem b = writtenBack s w.core b

/-- What a lane takes to its record (14 R314). -/
def depOf (ln : Lane) (l : Nat) (pc : Word) (prio : BitVec 8) (key n : Nat) : Dep :=
  { lane := l, pc := pc.toNat, prio := prio.toNat, key := key, pred := ln.p.toNat, regs := (List.range n).map ln.vr }

/-- `n` bytes at `va`, in memory at their home, that the wave may read and that hold `v`. -/
def Holds (s : State) (w : Wave) (va n v : Nat) : Prop :=
  ∃ x : Xlat, va < 2 ^ 64 ∧ canonical va = true ∧ s.look w.xl w.core s.curAsn va = .hit x ∧ x.perms.getLsbD 0 = true ∧
    (x.mtype = .homeonly ∨ x.mtype = .host) ∧ Sound s w.core x.pa n ∧ Unmarked s x.pa n ∧ v = littleEndian (cellGet s.mem) x.pa n

/-- A well-formed bin-set descriptor (11 R237). -/
def binFormed (v : Nat) : Prop :=
  v < 2 ^ 128 ∧ v / 2 ^ 64 % 4096 = 0 ∧ (∃ k, 4 ≤ k ∧ k ≤ 20 ∧ v / 2 ^ 32 % 2 ^ 32 = 2 ^ k) ∧
    1 ≤ v % 2 ^ 16 ∧ v % 2 ^ 16 ≤ 512 ∧ 1 ≤ v / 2 ^ 16 % 2 ^ 16 ∧ v / 2 ^ 16 % 2 ^ 16 ≤ 512
/-- Slots of each queue of a bin set, and the address of a queue (11 R237). -/
def binCap (d : Nat) : Nat := d / 2 ^ 32 % 2 ^ 32
def binQueue (d bx by' : Nat) : Nat := d / 2 ^ 64 % 2 ^ 64 + (by' * (d % 2 ^ 16) + bx) * 64 * (binCap d + 1)

/-- The wave reads and writes the queues of some bins, each piece of 64 bytes at a place of its own, and no core cache is in the way. -/
structure QueueReach (s : State) (w : Wave) (d : Nat) (bins : List (Nat × Nat)) (x : Nat → Xlat) : Prop where
  hit : ∀ b ∈ bins, ∀ k ≤ binCap d, let va := binQueue d b.1 b.2 + 64 * k
    va < 2 ^ 64 ∧ canonical va = true ∧ s.look w.xl w.core s.curAsn va = .hit (x va) ∧ (x va).perms.getLsbD 0 = true ∧
      (x va).perms.getLsbD 1 = true ∧ (x va).mtype ≠ .io ∧ Untraced s (x va).pa 64 ∧ Sound s w.core (x va).pa 64
  apart : ∀ b ∈ bins, ∀ c ∈ bins, ∀ j ≤ binCap d, ∀ k ≤ binCap d, let p := binQueue d b.1 b.2 + 64 * j
    let q := binQueue d c.1 c.2 + 64 * k
    p ≠ q → (x p).pa + 64 ≤ (x q).pa ∨ (x q).pa + 64 ≤ (x p).pa
  cache : (s.core w.core).cache = [] ∧ (s.core w.core).draining = [] ∧ (s.core w.core).notices = []
  quiet : s.promo = [] ∧ s.rels = []

/-- The header of a queue in a map of bytes: HEAD and TAIL. -/
def queueHead (x : Nat → Xlat) (m : Nat → Byte) (q : Nat) : Nat := littleEndian m (x q).pa 8
def queueTail (x : Nat → Xlat) (m : Nat → Byte) (q : Nat) : Nat := littleEndian m ((x q).pa + 8) 8
/-- A queue holds as many records as it has slots. -/
def queueFullAt (d : Nat) (x : Nat → Xlat) (m : Nat → Byte) (q : Nat) : Bool :=
  decide (binCap d ≤ (queueTail x m q + 2 ^ 64 - queueHead x m q) % 2 ^ 64)
/-- One push of a record of 64 bytes: the slot that TAIL names, then TAIL (11 R238). -/
def pushInto (d : Nat) (x : Nat → Xlat) (m : Nat → Byte) (q rec : Nat) : Nat → Byte :=
  let slot := q + 64 + 64 * (queueTail x m q % binCap d)
  storedByte (storedByte m (x slot).pa 64 rec) ((x q).pa + 8) 8 ((queueTail x m q + 1) % 2 ^ 64)
/-- The pushes of some lanes in order, with the lanes that find their queue full (15 R340). -/
def pushEach (d : Nat) (x : Nat → Xlat) (queue rec : Nat → Nat) : (Nat → Byte) → List Nat → (Nat → Byte) × List Nat
  | m, [] => (m, [])
  | m, l :: r =>
    if queueFullAt d x m (queue l) then let y := pushEach d x queue rec m r; (y.1, l :: y.2)
    else pushEach d x queue rec (pushInto d x m (queue l) (rec l)) r
/-- The pops of some lanes in order: each takes the head record of the first queue that holds one (15 R340). -/
def popEach (d : Nat) (x : Nat → Xlat) (queues : List Nat) : (Nat → Byte) → List Nat → (Nat → Byte) × List (Nat × Option Nat)
  | m, [] => (m, [])
  | m, l :: r =>
    match queues.find? (fun q => queueHead x m q != queueTail x m q) with
    | none => let y := popEach d x queues m r; (y.1, (l, none) :: y.2)
    | some q =>
      let slot := q + 64 + 64 * (queueHead x m q % binCap d)
      let y := popEach d x queues (storedByte m (x q).pa 8 ((queueHead x m q + 1) % 2 ^ 64)) r
      (y.1, (l, some (littleEndian m (x slot).pa 64)) :: y.2)

/-- A trap of cause group ORDER (16 R359). -/
def orderCause (reason : Nat) (key : Word) (d2 : Nat) : TrapInfo := cause (10 + 256 * reason) (key.toNat % 2 ^ 32) (key.toNat / 2 ^ 32) d2

/-- The entry of a key of SPACE 0; a key without one stands at NEXT = ALLOC = 0 (16 R351). -/
def entryOf (s : State) (asn : BitVec 12) (key : Word) : Rowan :=
  (s.rowans.find? (fun e => e.asn == asn && e.space == false && e.key == key)).getD
    { asn := asn, space := false, key := key, next := 0#32, alloc := 0#32, held := false, waiters := [] }
/-- The Rowan slices have room, no entry lies in the backing area, and none counts fewer waiters than it has (16 R351, R352). -/
def RowanRoom (s : State) : Prop := s.rowanOut = [] ∧ s.rowans.length + 64 ≤ 4096 ∧ ∀ e ∈ s.rowans, 0 ≤ e.extra

/-- The byte at `a` of a number stored from `va`. -/
def numberByte (v va a : Nat) : Byte := BitVec.ofNat 8 (v / 256 ^ (a - va))
/-- A patch table at `a` of a map of bytes, for a graph of `n` nodes: its count, and each entry's node, word and value (15 R327). -/
structure PatchTable (m : Nat → Byte) (a n : Nat) (ps : List (Nat × Nat × Word)) : Prop where
  place : a % 64 = 0
  count : ps.length ≤ 4096 ∧ littleEndian m a 16 = ps.length
  entries : ∀ (i : Nat) (p : Nat × Nat × Word), ps[i]? = some p → p.1 < n ∧ p.1 < 2 ^ 16 ∧ p.2.1 < 16 ∧
    littleEndian m (a + 16 + 16 * i) 8 = p.1 + 2 ^ 16 * p.2.1 ∧ littleEndian m (a + 24 + 16 * i) 8 = p.2.2.toNat
/-- The nodes of a replay: those of its graph, with every entry applied in table order (15 R327). -/
def patched (nodes : List Node) (ps : List (Nat × Nat × Word)) : List Node :=
  ps.foldl (fun ns p => ns.modify p.1 (fun nd => { nd with body := nd.body.set p.2.1 p.2.2 })) nodes
/-- Host ring `i` has one more record to write, and no other ring changes. -/
def RingGets (s t : State) (i : Nat) (rec : List Word) : Prop :=
  ∀ g, s.rings[i]? = some g → t.rings = s.rings.set i { g with waiting := g.waiting ++ [rec] }
/-- The completion record of a replay (19 R408). -/
def completion (handle : BitVec 16) (status node : Nat) (kick : Word) (id : Nat) : List Word :=
  [BitVec.ofNat 64 (handle.toNat * 2 ^ 48 + status * 2 ^ 44 + 2 ^ 40 + node), 0#64, 0#64, kick, 0#64, 0#64, 0#64, 0#64, BitVec.ofNat 64 id]
/-- A KICK value starts a replay with some nodes. -/
def ReplayBegins (s : State) (kick : Word) (nodes : List Node) (t : State) : Prop :=
  t.replays = s.replays ++ [{ id := s.uid, handle := kick.extractLsb' 48 16, kick := kick, nodes := nodes, ended := false }] ∧ t.rings = s.rings
/-- A KICK value ends its replay at once with a status. -/
def ReplayFails (s : State) (kick : Word) (st : Nat) (t : State) : Prop :=
  t.replays = s.replays ++ [{ id := s.uid, handle := kick.extractLsb' 48 16, kick := kick, nodes := [], ended := true }] ∧
    RingGets s t 0 (completion (kick.extractLsb' 48 16) st 0 kick s.uid)
/-- What a KICK value does, with the patch table that a map of bytes holds at `a` (15 R327). -/
def Replays (s : State) (kick : Word) (readable : Prop) (m : Nat → Byte) (a : Nat) (t : State) : Prop :=
  match s.graphs.find? (fun g => g.handle == kick.extractLsb' 48 16 && !g.freeing) with
  | none => ReplayFails s kick 1 t
  | some g => (a = 0 → ReplayBegins s kick g.nodes t) ∧
    (∀ ps, a ≠ 0 → readable → PatchTable m a g.nodes.length ps → ReplayBegins s kick (patched g.nodes ps) t) ∧
    (a ≠ 0 → ¬ (readable ∧ ∃ ps, PatchTable m a g.nodes.length ps) → ReplayFails s kick 2 t)
/-- No promotion is held at a home slice and none is under way (13 R283). -/
def NoPromotion (s : State) : Prop := s.promo = [] ∧ ∀ c ∈ s.cores, c.notices = []
/-- Core `c` holds nothing in its cache. -/
def BareCore (s : State) (c : Nat) : Prop := (s.core c).cache = [] ∧ (s.core c).draining = [] ∧ (s.core c).notices = []
/-- The device takes commands: a start is complete and recovery mode is off (19 R414, R415). -/
def Running (s : State) : Prop := s.regs.ready = true ∧ s.regs.recov = false

/-- A node that has failed or is barred; a node that is over (15 R328). -/
def nodeLost (nd : Node) : Bool := match nd.state with
  | .failed _ => true
  | .barred => true
  | _ => false
def nodeOver (nd : Node) : Bool := nodeLost nd || nd.state == .done
/-- The end of a replay: its status and node are those of the lowest node that failed (15 R328). -/
def EndStatus (nodes : List Node) (st i : Nat) : Prop :=
  (st = 0 ∧ i = 0 ∧ ∀ nd ∈ nodes, ∀ x, nd.state ≠ .failed x) ∨
  ((∃ nd, nodes[i]? = some nd ∧ nd.state = .failed st) ∧ ∀ k nd x, k < i → nodes[k]? = some nd → nd.state ≠ .failed x)

/-- Node `i` of replay `r` has come to state `st`: every waiting node that depends on a lost one is barred, no other node changes, and once
every node is over the replay ends and its completion record waits for ring 0 (15 R328). -/
structure NodeEnds (s : State) (r : Replay) (i : Nat) (st : NodeState) (t : State) : Prop where
  nodes : ∃ r', t.replays.find? (fun x => x.id == r.id) = some r' ∧ { r' with nodes := r.nodes, ended := r.ended } = r ∧ r'.nodes.length = r.nodes.length ∧
    (∀ (k : Nat) (nd nd' : Node), r.nodes[k]? = some nd → r'.nodes[k]? = some nd' → { nd' with state := nd.state, toks := nd.toks } = nd ∧
      (k = i → nd'.state = st) ∧
      (let bars : Prop := nd.state = .waiting ∧ ∃ p ∈ nd.preds, ∃ q, r'.nodes[p]? = some q ∧ nodeLost q = true
       k ≠ i → (bars → nd'.state = .barred) ∧ (¬ bars → nd'.state = nd.state))) ∧
    ((∀ nd ∈ r'.nodes, nodeOver nd = true) → r'.ended = true ∧ ∃ x k, EndStatus r'.nodes x k ∧ RingGets s t 0 (completion r.handle x k r.kick r.id)) ∧
    ((∃ nd ∈ r'.nodes, nodeOver nd = false) → r'.ended = false ∧ t.rings = s.rings)
  others : ∀ q, q ≠ r.id → t.replays.find? (fun x => x.id == q) = s.replays.find? (fun x => x.id == q)

/-- Replay `r` is in flight and its nodes depend on earlier ones (15 R325). -/
structure InFlight (s : State) (r : Replay) : Prop where
  there : s.replays.find? (fun x => x.id == r.id) = some r
  open' : r.ended = false
  order : ∀ (k : Nat) (nd : Node), r.nodes[k]? = some nd → ∀ p ∈ nd.preds, p < k

/-- Only node `i` of replay `r` differs, and is `nd`. -/
def NodeIs (s : State) (r : Replay) (i : Nat) (nd : Node) (t : State) : Prop :=
  t.replays.find? (fun x => x.id == r.id) = some { r with nodes := r.nodes.set i nd } ∧
    ∀ q, q ≠ r.id → t.replays.find? (fun x => x.id == q) = s.replays.find? (fun x => x.id == q)

/-- A launch as it is admitted, with the next LAUNCH_ID (15 R330, R430). -/
def admitted (s : State) (b : Block) (replay node : Nat) (unplaced : List Nat) : Launch :=
  { id := s.nextLaunch.toNat, block := b, replay := replay, node := node, task := none, relaunch := false, unplaced := unplaced, age := 0,
    order := s.uid, lastPlaced := 0, trapped := false, failed := 0, burrow := [], formed := 0, pushers := [], heldKeys := [] }
/-- The granules of a descriptor's eight regions; its ranges: regions, trace area and map buffers, as (address, bytes) (17 R362, R363). -/
def granuleSum (s : State) (d : Nat) : Nat := ((List.range 8).map (fun i => littleEndian (cellGet s.mem) (d + 40 + 16 * i) 8)).sum
def traceRanges (s : State) (d : Nat) : List (Nat × Nat) :=
  let cap := littleEndian (cellGet s.mem) (d + 28) 4
  (List.range 8).map (fun i => (littleEndian (cellGet s.mem) (d + 32 + 16 * i) 8, 16384 * littleEndian (cellGet s.mem) (d + 40 + 16 * i) 8)) ++
    [(littleEndian (cellGet s.mem) (d + 8) 8, 64 + (cap + 511) / 512 * 64 + 512 * cap),
     (littleEndian (cellGet s.mem) (d + 16) 8, 2 * ((granuleSum s d + 511) / 512 * 64))]
/-- The descriptor at `d` is well formed: V alone in its first word, AREA and MAP in whole 64-byte units, a CAP in range, eight regions of
whole granules and zeros after them; the regions, the trace area and the two map buffers lie in device memory, pairwise apart (17 R362, R363). -/
structure DescFormed (s : State) (d : Nat) : Prop where
  valid : littleEndian (cellGet s.mem) d 8 = 1
  area : littleEndian (cellGet s.mem) (d + 8) 8 < 2 ^ 52 ∧ littleEndian (cellGet s.mem) (d + 8) 8 % 64 = 0
  map : littleEndian (cellGet s.mem) (d + 16) 8 < 2 ^ 52 ∧ littleEndian (cellGet s.mem) (d + 16) 8 % 64 = 0
  cap : littleEndian (cellGet s.mem) (d + 24) 4 = 0 ∧ 1 ≤ littleEndian (cellGet s.mem) (d + 28) 4 ∧ littleEndian (cellGet s.mem) (d + 28) 4 ≤ 2 ^ 20
  regions : ∀ i < 8, littleEndian (cellGet s.mem) (d + 32 + 16 * i) 8 < 2 ^ 52 ∧ littleEndian (cellGet s.mem) (d + 32 + 16 * i) 8 % 16384 = 0 ∧
    littleEndian (cellGet s.mem) (d + 40 + 16 * i) 8 < 2 ^ 27
  rest : ∀ k < 96, cellGet s.mem (d + 160 + k) = 0#8
  size : granuleSum s d ≤ 2 ^ 28
  inside : ∀ r ∈ traceRanges s d, ∀ x, r.1 ≤ x → x < r.1 + r.2 → s.isDev x = true
  apart : (traceRanges s d).Pairwise (fun a b => a.2 = 0 ∨ b.2 = 0 ∨ a.1 + a.2 ≤ b.1 ∨ b.1 + b.2 ≤ a.1)
/-- The trace set that a block names cannot be used: a malformed descriptor, or more teams than CAP (17 R362). -/
def SetBad (s : State) (b : Block) : Prop :=
  b.tset ≠ 0 ∧ (¬ DescFormed s (s.setDesc b.tset) ∨ littleEndian (cellGet s.mem) (s.setDesc b.tset + 28) 4 < b.grid)
/-- What the parameter hash digests: the block's 128 bytes, with the words of Q4 to Q7 and Q9 that NEUTRAL marks as zero, and the first
160 bytes of the descriptor (17 R374). -/
def hashInput (s : State) (b : Block) (d : Nat) : List Byte :=
  (List.range 128).map (fun k => if [4, 5, 6, 7, 9].contains (k / 8) && (b.getD 8 0#64).getLsbD (48 + k / 8) then 0#8
    else (b.getD (k / 8) 0#64).extractLsb' (8 * (k % 8)) 8) ++ (List.range 160).map (fun k => cellGet s.mem (d + k))
/-- The next LAUNCH_ID is free. -/
def FreshLaunch (s : State) : Prop := s.nextLaunch ≠ 0#32 ∧ ∀ l ∈ s.launches, l.id ≠ s.nextLaunch.toNat

/-- The waves on partition `q` of core `c`, registers and launch of each: the resident ones, and the first `k` of a place `p` for launch `id`. -/
def wavesOn (s : State) (b : Block) (id : Nat) (p : Place) (k c q : Nat) : List (Nat × Nat) :=
  s.teams.flatMap (fun t => (t.waves.filter (fun w => w.core == c && w.part == q)).map (fun _ => (t.width * t.vregs, t.launch))) ++
    ((p.seats.take k).filter (fun x => x.1 == c && x.2.1 == q)).map (fun _ => (b.width * b.vregs, id))
/-- A partition with the waves `xs` takes one more wave of launch `id`: at most 8 waves, at most min(8, ⌊32,768 / (W × n)⌋ of the launch, and
32,768 registers in all (14 R295). -/
def takesOne (b : Block) (id : Nat) (xs : List (Nat × Nat)) : Prop :=
  xs.length < 8 ∧ (xs.filter (fun x => x.2 == id)).length < min 8 (32768 / (b.width * b.vregs)) ∧ (xs.map Prod.fst).sum + b.width * b.vregs ≤ 32768
/-- A team of `n` waves fits at a place: its core, or the two cores of its pair, are present, in an open pool of its class, with fewer than 16
teams and room in operand buffer and tiles; each wave has a free place on a partition that takes it, waves 32 and up of a pair on the odd
core; its scratch is in free units of SCRATCH banks (15 R331, 14 R295, 06 R119, 10 R201). -/
structure Fits (s : State) (b : Block) (id n : Nat) (p : Place) : Prop where
  even : b.pair = true → p.core % 2 = 0
  cores : ∀ c, c = p.core ∨ b.pair = true ∧ c = p.core + 1 → s.present c = true ∧ (s.die (c / 32)).opclass = b.opclass ∧ (s.die (c / 32)).reassign = none ∧
    (s.die (c / 32)).sat = false ∧ (s.teamsOn c).length < 16 ∧
    ((s.teamsOn c).map (fun t => (t.obufBytes + 4095) / 4096 * 4096)).sum + (b.obuf + 4095) / 4096 * 4096 ≤ 2 ^ 20 ∧
    ((s.teamsOn c).map Team.tiles).sum + b.tiles ≤ 16
  waves : p.seats.length = n ∧ ∀ (k c q z : Nat), p.seats[k]? = some (c, q, z) → c = (if b.pair = true ∧ 32 ≤ k then p.core + 1 else p.core) ∧
    q < 32 ∧ z < 8 ∧ takesOne b id (wavesOn s b id p k c q) ∧ (∀ t ∈ s.teams, ∀ w ∈ t.waves, ¬ (w.core = c ∧ w.part = q ∧ w.slot = z)) ∧
    ∀ j < k, p.seats[j]? ≠ some (c, q, z)
  units : ∀ u ∈ p.units, (u.1 = 0 ∨ b.pair = true ∧ u.1 = 1) ∧ u.2.1 < 48 ∧ (s.core (p.core + u.1)).banks.getD u.2.1 .scratch = .scratch ∧
    (s.teams.flatMap (fun t => (t.units.filter (fun v => t.core + v.1 == p.core + u.1 && v.2.1 == u.2.1)).map (fun v => v.2.2))).sum + u.2.2 ≤ 16
  banks : (p.units.map (fun u => (u.1, u.2.1))).Nodup
  scratch : ∀ i, i = 0 ∨ b.pair = true ∧ i = 1 → ((p.units.filter (fun u => u.1 == i)).map (fun u => u.2.2)).sum = (b.scratch + 4095) / 4096
/-- The effective priority of a launch, and the order in which the distributor serves two launches: the higher priority first, then the one
that placed a team longer ago, then the one admitted earlier (15 R330). -/
def effective (l : Launch) : Nat := min 7 (l.block.prio + l.age)
def ranksAbove (a b : Launch) : Prop := effective b < effective a ∨ (effective a = effective b ∧
  (a.lastPlaced < b.lastPlaced ∨ (a.lastPlaced = b.lastPlaced ∧ a.order < b.order)))
/-- The records of a group are all of waves that have ended, are parked, or have every frontier entry blocked (15 R339). -/
def depositorsDone (s : State) (l : Launch) (pc : Word) : Prop :=
  ∀ r ∈ l.burrow, (l.task.isSome = true ∨ r.pc = pc) → ∀ o w, r.origin = some o → s.wave? o = some w → w.ended = true ∨
    (∃ m p, w.park = .faults m p) ∨ (∃ a b c d e f g h, w.park = .waitw a b c d e f g h) ∨ (∃ a b c d, w.park = .tagwait a b c d) ∨
    (∃ l, w.liveMask.getLsbD l = true) ∧ (∀ l < 64, w.liveMask.getLsbD l = true → ∃ c ∈ w.calls, c.mask.getLsbD l = true) ∨ w.allBlocked = true
/-- A team that has just been placed: its launch, rank and identities, its waves at their places, every lane at the entry, the argument
pointer in s0:s1 and zero everywhere else (02 R40, R42, 14 R301, 15 R331). -/
structure JustPlaced (s : State) (l : Launch) (rank : Nat) (p : Place) (tm : Team) : Prop where
  who : tm.uid = s.uid ∧ tm.launch = l.id ∧ tm.rank = rank ∧ tm.core = p.core ∧ tm.pair = l.block.pair ∧ tm.width = l.block.width ∧ tm.vregs = l.block.vregs
  ids : tm.x = rank % l.block.gx ∧ tm.y = rank / l.block.gx % l.block.gy ∧ tm.z = rank / l.block.gx / l.block.gy
  room : tm.scratchBytes = l.block.scratch ∧ tm.obufBytes = l.block.obuf ∧ tm.tiles = l.block.tiles ∧ tm.units = p.units
  fresh : tm.formed = false ∧ tm.phase = .running ∧ tm.retired = 0 ∧ tm.recorded = [] ∧ tm.always = false ∧ tm.escape = false ∧
    (∀ g ∈ tm.tags, g = Tag.reset) ∧ (∀ b ∈ tm.barriers, b = Barrier.reset) ∧ (∀ d ∈ tm.sides, d = Side.reset) ∧ tm.sides.length = if l.block.pair then 2 else 1
  count : tm.waves.length = p.seats.length
  waves : ∀ (k : Nat) (w : Wave) (c q z : Nat), tm.waves[k]? = some w → p.seats[k]? = some (c, q, z) → w.id = k ∧ w.core = c ∧ w.part = q ∧ w.slot = z ∧
    (∀ r, w.sr r = (block 0 2 l.block.arg r).getD 0) ∧ w.wstat = 0#32 ∧ w.outs = [] ∧ w.hmode = false ∧ w.lanes.length = l.block.width ∧
    ∀ ln ∈ w.lanes, { ln with pc := 0#64, prio := 0#8 } = { Lane.reset with live := true } ∧ ln.pc = BitVec.ofNat 64 (l.block.q 0) ∧
      ln.prio = BitVec.ofNat 8 l.block.eprio

/-- A wave block of a context image holds a wave (18 R397). -/
structure WaveHolds (m : Nat → Byte) (a width vregs : Nat) (w : Wave) : Prop where
  id : littleEndian m a 4 = w.id
  wstat : littleEndian m (a + 0x004) 4 = w.wstat.toNat
  hmode : (m (a + 0x008)).getLsbD 0 = w.hmode
  trap : littleEndian m (a + 0x00C) 4 % 256 = w.tprio.toNat ∧ littleEndian m (a + 0x010) 8 = w.tpc.toNat ∧ littleEndian m (a + 0x018) 4 = w.tcause.toNat ∧
    littleEndian m (a + 0x01C) 4 = w.tdet0.toNat ∧ littleEndian m (a + 0x020) 4 = w.tdet1.toNat ∧ littleEndian m (a + 0x024) 4 = w.tdet2.toNat
  helper : littleEndian m (a + 0x030) 8 = w.helper.toNat
  cvs : ∀ n < 8, let c := w.cvs.getD n { members := 0#64, signed := 0#64 }
    littleEndian m (a + 0x040 + 16 * n) 8 = c.members.toNat ∧ littleEndian m (a + 0x048 + 16 * n) 8 = c.signed.toNat
  scalars : ∀ r < 192, littleEndian m (a + 0x300 + 4 * r) 4 = w.sr r
  lanes : ∀ l < width, let q := a + 0x600 + 64 * l
    let ln := w.lane l
    littleEndian m q 8 = ln.pc.toNat ∧ littleEndian m (q + 0x08) 1 = ln.prio.toNat ∧ littleEndian m (q + 0x09) 1 % 128 = ln.p.toNat ∧
    (m (q + 0x0A)).getLsbD 0 = ln.live ∧ (m (q + 0x0A)).getLsbD 2 = ln.outside ∧ (m (q + 0x0A)).getLsbD 3 = ln.marked ∧
    (m (q + 0x0A)).getLsbD 7 = ln.handler ∧ (m (q + 0x0B)).getLsbD 0 = ln.ptrap.isSome ∧ littleEndian m (q + 0x0C) 2 = ln.spawnKey.toNat ∧
    (m (q + 0x0E)).getLsbD 0 = ln.held0.isSome ∧ (m (q + 0x0E)).getLsbD 1 = ln.held1.isSome ∧ (m (q + 0x0E)).getLsbD 5 = ln.pend.isSome ∧
    (∀ k, ln.held0 = some k → littleEndian m (q + 0x10) 8 = k.toNat) ∧ (∀ k, ln.held1 = some k → littleEndian m (q + 0x18) 8 = k.toNat) ∧
    (∀ k n, ln.pend = some (k, n) → littleEndian m (q + 0x20) 8 = k.toNat ∧ littleEndian m (q + 0x28) 4 = n.toNat) ∧
    (∀ t, ln.ptrap = some t → littleEndian m (q + 0x2C) 4 = t.cause.toNat ∧ littleEndian m (q + 0x30) 4 = t.d0.toNat ∧
      littleEndian m (q + 0x34) 4 = t.d1.toNat ∧ littleEndian m (q + 0x38) 4 = t.d2.toNat)
  vectors : ∀ l < width, ∀ r < vregs, littleEndian m (a + 0x600 + 64 * width + 4 * (vregs * l + r)) 4 = (w.lane l).vr r

/-- The stream record at `p`: BOUND; of a bound stream its base, strides, extents, lane stride, element size, predicate, dimensions and
next step (18 R397). -/
def StreamHolds (m : Nat → Byte) (p : Nat) (q : Stream) : Prop :=
  (m (p + 40)).getLsbD 0 = q.bound ∧ (q.bound = true → littleEndian m p 8 = q.base.toNat ∧
    (∀ k < q.nd, littleEndian m (p + 8 + 4 * k) 4 = (q.strides.getD k 0 % 2 ^ 32).toNat ∧ littleEndian m (p + 24 + 2 * k) 2 = q.extents.getD k 0) ∧
    littleEndian m (p + 32) 4 = (q.laneStride % 2 ^ 32).toNat ∧ littleEndian m (p + 36) 4 % 4 = q.esize ∧
    littleEndian m (p + 40) 1 / 4 % 8 = q.pred ∧ littleEndian m (p + 40) 1 / 32 % 4 + 1 = q.nd ∧ littleEndian m (p + 44) 8 = q.next)
/-- The code of what a lane waits for in its record: 1 ORDIN, 2 CVWAIT, 3 BAR.SYNC, 5 BLEND, or the code with which its instruction was last
found blocked where it stands, 4 for MMA under a cv and 5 for any other (18 R397, 14 R299). -/
def waitTold (ln : Lane) : Nat → Prop
  | 0 => (ln.wait = .none ∧ ∀ c, ln.stall ≠ some (ln.pc, c)) ∨ ∃ n, ln.wait = .entered n
  | 1 => ln.wait = .ordin
  | 2 => ∃ n, ln.wait = .cvwait n
  | 3 => ∃ n, ln.wait = .barsync n
  | c => (c = 5 ∧ ln.wait = .blend) ∨ ln.wait = .none ∧ ln.stall = some (ln.pc, c)
/-- What a saved wave's block tells besides what a restore reads: the host wait with its tokens and outcomes, the streams' DONE bits, and each
lane's HELPER bit, wait state and ORDSTAT (18 R397, 16 R360). -/
structure WaveTells (m : Nat → Byte) (a width : Nat) (w : Wave) : Prop where
  host : littleEndian m (a + 0x008) 1 / 4 % 4 = (if w.toks ≠ [] then 1 else if w.calls ≠ [] then 2 else 0) ∧
    littleEndian m (a + 0x008) 1 / 16 % 8 = (if w.toks ≠ [] then min 4 w.toks.length else min 4 w.calls.length)
  tokens : ∀ (k : Nat) (t : Token), k < 4 → w.toks[k]? = some t → littleEndian m (a + 0x028 + 2 * k) 2 = t.token.toNat ∧
    littleEndian m (a + 0x009) 1 / 4 ^ k % 4 = t.outcome % 4
  calls : ∀ (k : Nat) (c : SysCall), k < 4 → w.toks = [] → w.calls[k]? = some c → littleEndian m (a + 0x028 + 2 * k) 2 = c.token.toNat
  streams : ∀ n < 8, let q := w.streams.getD n Stream.reset
    StreamHolds m (a + 0x100 + 64 * n) q ∧ (q.bound = true → (m (a + 0x100 + 64 * n + 40)).getLsbD 1 = decide (q.next = q.steps))
  lanes : ∀ l < width, let p := a + 0x600 + 64 * l
    (m (p + 0x0A)).getLsbD 1 = w.helper.getLsbD l ∧ waitTold (w.lane l) (littleEndian m (p + 0x0A) 1 / 16 % 8) ∧
    (m (p + 0x0E)).getLsbD 3 = (w.awaits l).isSome ∧ (m (p + 0x0E)).getLsbD 4 = (w.awaits l).any (fun x => x.key.getLsbD 63) ∧
    (m (p + 0x0E)).getLsbD 2 = false
/-- What a saved team's image tells besides: LAUNCH_ID and rank, the flags, sizes and counts, tile types, the failure reasons of its tags,
and its recorded set as a team record, with ALWAYS in place of more than 32 runs (18 R397, 17 R364). -/
structure ImageTells (m : Nat → Byte) (a : Nat) (b : Block) (tm : Team) : Prop where
  who : littleEndian m (a + 0x004) 4 = tm.launch % 2 ^ 32 ∧ littleEndian m (a + 0x008) 4 = tm.rank % 2 ^ 32
  flags : (m (a + 0x00C)).getLsbD 0 = tm.pair ∧ (m (a + 0x00C)).getLsbD 2 =
    tm.waves.any (fun w => w.lanes.any (fun ln => ln.held0.isSome || ln.held1.isSome || ln.await.isSome))
  sizes : littleEndian m (a + 0x018) 8 = imageSize b tm.waves.length ∧ littleEndian m (a + 0x020) 4 = tm.scratchBytes ∧
    littleEndian m (a + 0x024) 4 = tm.obufBytes ∧ littleEndian m (a + 0x028) 4 = tm.tiles ∧ littleEndian m (a + 0x03C) 4 = tm.vregs
  types : ∀ c, c < (if tm.pair then 2 else 1) → ∀ n < tm.tiles,
    littleEndian m (a + 0x034 + 4 * c) 4 / 4 ^ n % 4 = min 2 ((tm.sides.getD c Side.reset).types.getD n 0)
  reasons : ∀ k < 64, littleEndian m (a + 0x100 + 16 * k + 12) 4 = (tm.tags.getD k Tag.reset).reason % 16
  recorded : littleEndian m (a + 0x600) 1 % 2 = 1 ∧ ∃ (runs : List (Nat × Nat)), runs.length = littleEndian m (a + 0x601) 1 ∧ runs.length ≤ 32 ∧
    (∀ (i : Nat) (r : Nat × Nat), runs[i]? = some r → 0 < r.2 ∧ littleEndian m (a + 0x620 + 8 * i) 4 = r.1 ∧ littleEndian m (a + 0x624 + 8 * i) 4 = r.2) ∧
    runs.Pairwise (fun x y => x.1 + x.2 < y.1) ∧
    (((m (a + 0x600)).getLsbD 1 = tm.always ∧ ∀ k, k ∈ tm.recorded ↔ ∃ r ∈ runs, r.1 ≤ k ∧ k < r.1 + r.2) ∨
      ((m (a + 0x600)).getLsbD 1 = true ∧ runs = [] ∧ ∃ ks : List Nat, ks.Nodup ∧ 32 < ks.length ∧ ∀ k ∈ ks, k ∈ tm.recorded ∧ (k = 0 ∨ k - 1 ∉ tm.recorded)))
  waves : ∀ (k : Nat) (w : Wave), tm.waves[k]? = some w → WaveTells m (a + 0xA00 + k * waveBlockBytes b.width b.vregs) b.width w
/-- A context image at `a` holds a team (18 R397). -/
structure ImageHolds (m : Nat → Byte) (a : Nat) (b : Block) (tm : Team) : Prop where
  head : littleEndian m (a + 0x010) 8 = tm.retired % 2 ^ 64 ∧ (m (a + 0x00C)).getLsbD 1 = tm.escape ∧ (m (a + 0x00C)).getLsbD 3 = tm.wdOff ∧
    (m (a + 0x00D)).toNat = tm.waves.length
  stats : ∀ k < 8, littleEndian m (a + 0x040 + 8 * k) 8 = (tm.stats.getD k 0#64).toNat
  tags : ∀ k < 64, let g := tm.tags.getD k Tag.reset
    let p := a + 0x100 + 16 * k
    littleEndian m p 5 = g.n.toNat ∧ (m (p + 5)).getLsbD 0 = g.armed ∧ (m (p + 5)).getLsbD 1 = g.failed ∧ (m (p + 5)).getLsbD 2 = g.ready ∧
    littleEndian m (p + 8) 4 = g.e.toNat
  barriers : ∀ k < 16, let x := tm.barriers.getD k Barrier.reset
    let p := a + 0x500 + 16 * k
    littleEndian m p 4 = x.phase.toNat ∧ littleEndian m (p + 4) 1 = x.count ∧ littleEndian m (p + 8) 8 = x.marks.toNat
  waves : ∀ (k : Nat) (w : Wave), tm.waves[k]? = some w → WaveHolds m (a + 0xA00 + k * waveBlockBytes b.width b.vregs) b.width b.vregs w
  sides : ∀ c, c < (if b.pair then 2 else 1) → let d := tm.sides.getD c Side.reset
    let n := tm.waves.length
    (∀ k < 16, littleEndian m (a + 0x800 + 256 * c + 16 * k) 16 = (d.slots.getD k 0#128).toNat) ∧
    (∀ o, o < (b.scratch + 4095) / 4096 * 4096 → m (a + imageScratchOff b n + c * ((b.scratch + 4095) / 4096 * 4096) + o) = cellGet d.scratch o) ∧
    (∀ o, o < (b.obuf + 4095) / 4096 * 4096 → m (a + imageObufOff b n + c * ((b.obuf + 4095) / 4096 * 4096) + o) = cellGet d.obuf o) ∧
    (∀ o, o < 4096 * b.tiles → littleEndian m (a + imageTilesOff b n + c * (b.tiles * 16384) + 4 * o) 4 = (cellGet d.acc o).toNat) ∧
    littleEndian m (a + 0x02C + 4 * c) 4 = d.mstat.toNat

/-- Nothing of a team is under way, and every byte sent to it has landed (18 R393, R394, 05 R113). -/
def Still (s : State) (tm : Team) : Prop :=
  (∀ w ∈ tm.waves, w.outs = [] ∧ w.prog = none) ∧
  ∀ c ∈ s.cores, (∀ d ∈ c.cmds, d.team ≠ tm.uid ∧ ∀ p ∈ d.pieces, p.recv ≠ tm.uid) ∧ (∀ o ∈ c.engine, o.team ≠ tm.uid) ∧ ∀ x ∈ c.addons, x.team ≠ tm.uid

/-- The lanes of a formed wave come from Burrow records (14 R314, R316): lane `j` of record `j`, read at its address in a map of bytes. -/
def FormedLanes (m : Nat → Byte) (n : Nat) (pas : List Nat) (w : Wave) : Prop :=
  ∀ (j a : Nat), pas[j]? = some a → let ln := w.lane j
    ln.live = true ∧ littleEndian m a 8 = ln.pc.toNat ∧ littleEndian m (a + 8) 1 % 128 = ln.p.toNat ∧ littleEndian m (a + 9) 1 = ln.prio.toNat ∧
    littleEndian m (a + 10) 2 = ln.spawnKey.toNat ∧ ∀ k < n, littleEndian m (a + 32 + 4 * k) 4 = ln.vr k

/-! ### Page tables (04 R77 to R81, R88) -/

/-- Near memory or the present far tier. -/
def InDevice (s : State) (pa : Nat) : Prop := s.region pa = .near ∨ s.region pa = .far
/-- Whether a leaf's TYPE agrees with the range of its address (04 R74, R79). -/
def TypeFits (s : State) (pa type : Nat) : Prop :=
  match s.region pa with
  | .near | .far => type < 2
  | .host => type = 2
  | .io => type = 3
  | .hole => True
/-- log2 of the page of a leaf at a level. -/
def pageLog (level e : Nat) : Nat := if level = 2 then 30 else if level = 1 then 21 else if e.testBit 5 then 16 else 12
/-- A valid entry that breaks 04 R79 at a level. -/
def BadEntry (s : State) (level e : Nat) : Prop :=
  let pa := e / 2 ^ 12 % 2 ^ 40 * 2 ^ 12
  let leaf : Prop := e.testBit 4 = true
  2 ^ 60 ≤ e ∨ e / 2 ^ 52 % 2 ^ 6 ≠ 0 ∨ e / 2 ^ 6 % 4 ≠ 0 ∨ (leaf ∧ level = 3) ∨ (¬ leaf ∧ level = 0) ∨
  (e.testBit 5 = true ∧ (level ≠ 0 ∨ ¬ leaf)) ∨ (¬ leaf ∧ (e / 2 ^ 58 % 4 ≠ 0 ∨ e / 2 % 8 ≠ 0 ∨ ¬ InDevice s pa)) ∨
  (leaf ∧ (pa % 2 ^ pageLog level e ≠ 0 ∨ ¬ TypeFits s pa (e / 2 ^ 58 % 4)))
/-- The address of the entry for an address in a table of a level. -/
def entryPlace (va level table : Nat) : Nat := table + 8 * (if level = 3 then va / 2 ^ 39 % 2 ^ 17 else va / 2 ^ (12 + 9 * level) % 2 ^ 9)
/-- That entry. -/
def entryAt (s : State) (va level table : Nat) : Nat :=
  littleEndian (cellGet s.mem) (entryPlace va level table) 8
/-- An uncorrectable word meets the 8 bytes at an address (18 R380). -/
def Spoiled (s : State) (a : Nat) : Prop := ∃ p ∈ s.poison, p < a + 8 ∧ a < p + 8
/-- What a walk from a table of a level comes to. -/
inductive WalkEnds (s : State) (asn : BitVec 12) (va : Nat) : Nat → Nat → Walk → Prop where
  | spoiled (level table : Nat) : Spoiled s (entryPlace va level table) → WalkEnds s asn va level table (.bad (entryPlace va level table / 8))
  | invalid (level table : Nat) : ¬ Spoiled s (entryPlace va level table) → (entryAt s va level table).testBit 0 = false → WalkEnds s asn va level table (.fault 1 level)
  | bad (level table : Nat) : ¬ Spoiled s (entryPlace va level table) → (entryAt s va level table).testBit 0 = true → BadEntry s level (entryAt s va level table) →
      WalkEnds s asn va level table (.fault 2 level)
  | down (level table e : Nat) (r : Walk) : ¬ Spoiled s (entryPlace va (level + 1) table) → e = entryAt s va (level + 1) table →
      e.testBit 0 = true → ¬ BadEntry s (level + 1) e → e.testBit 4 = false → WalkEnds s asn va level (e / 2 ^ 12 % 2 ^ 40 * 2 ^ 12) r →
      WalkEnds s asn va (level + 1) table r
  | absent (level table e : Nat) : ¬ Spoiled s (entryPlace va level table) → e = entryAt s va level table →
      e.testBit 0 = true → ¬ BadEntry s level e → e.testBit 4 = true → s.region (e / 2 ^ 12 % 2 ^ 40 * 2 ^ 12) = .hole →
      WalkEnds s asn va level table (.fault 3 level)
  | leaf (level table e : Nat) (x : TlbEntry) : ¬ Spoiled s (entryPlace va level table) → e = entryAt s va level table →
      e.testBit 0 = true → ¬ BadEntry s level e → e.testBit 4 = true → s.region (e / 2 ^ 12 % 2 ^ 40 * 2 ^ 12) ≠ .hole →
      x.asn = asn → x.log2 = pageLog level e → x.page = va % 2 ^ 56 / 2 ^ pageLog level e → x.pa = e / 2 ^ 12 % 2 ^ 40 * 2 ^ 12 →
      x.mtype = [MType.cached, .homeonly, .host, .io].getD (e / 2 ^ 58 % 4) .cached → x.perms.toNat = e / 2 % 8 →
      WalkEnds s asn va level table (.ok x)
/-- What a walk of an address comes to: the entry of its address space first. -/
def WalkComesTo (s : State) (asn : BitVec 12) (va : Nat) (r : Walk) : Prop :=
  let p := s.regs.astbase.toNat / 2 ^ 15 % 2 ^ 37 * 2 ^ 15 + 8 * asn.toNat
  let e := littleEndian (cellGet s.mem) p 8
  let root := e / 2 ^ 20 % 2 ^ 32 * 2 ^ 20
  let bad : Prop := e / 2 ^ 52 % 2 ^ 11 ≠ 0 ∨ e % 2 ^ 20 ≠ 0 ∨ ¬ InDevice s root
  (Spoiled s p ∧ r = .bad (p / 8)) ∨
  (¬ Spoiled s p ∧ ((e.testBit 63 = false ∧ r = .fault 4 4) ∨ (e.testBit 63 = true ∧ bad ∧ r = .fault 2 4) ∨
    (e.testBit 63 = true ∧ ¬ bad ∧ WalkEnds s asn va 3 root r)))

/-! ### Device registers -/

/-- A page meets the range of an invalidation (04 R86, R87): its address space, and a byte of it from VA for NPAGE pages of 4 KiB. -/
def Invalidates (cmd va : Word) (asn : BitVec 12) (page log2 : Nat) : Prop :=
  let first := va.toNat % 2 ^ 56 / 2 ^ 12 * 2 ^ 12
  let n := cmd.toNat % 2 ^ 32
  cmd.toNat / 2 ^ 52 = asn.toNat ∧ (n = 0 ∨ ∃ a, page * 2 ^ log2 ≤ a ∧ a < (page + 1) * 2 ^ log2 ∧ first ≤ a ∧ a < first + 4096 * n)
/-- An access, a copy command or an add-on-store, by identity, is under way through a translation that an invalidation removes (04 R87). -/
def UsesRemoved (s : State) (cmd va : Word) (i : Nat) : Prop :=
  let asn (launch : Nat) : BitVec 12 := BitVec.ofNat 12 (s.block launch).asn
  (∃ t ∈ s.teams, ∃ w ∈ t.waves, ∃ o ∈ w.outs, o.id = i ∧ ∃ a ∈ o.accs, a.side = none ∧ a.state ≠ .done ∧
    Invalidates cmd va (asn t.launch) (a.va % 2 ^ 56 / 2 ^ a.log2) a.log2) ∨
  ∃ c ∈ s.cores, (∃ d ∈ c.cmds, d.id = i ∧ ∃ e ∈ d.xl, e.fault = none ∧ e.bad = none ∧ Invalidates cmd va e.asn (e.page * 4096 / 2 ^ e.log2) e.log2) ∨
    ∃ u ∈ c.addons, u.drain = i ∧ u.side = none ∧ Invalidates cmd va (asn u.launch) (u.va % 2 ^ 56 / 2 ^ u.log2) u.log2
/-- A microcode header that 11 R235 calls malformed. -/
def McMalformed (h : Nat) : Prop :=
  let f (hi lo : Nat) : Nat := h / 2 ^ lo % 2 ^ (hi + 1 - lo)
  f 31 0 ≠ 0x4D435331 ∨ f 47 45 ≠ 0 ∨ f 95 52 ≠ 0 ∨ f 255 128 ≠ 0 ∨ f 2047 768 ≠ 0 ∨ f 44 40 < 4 ∨ 32 < f 44 40 ∨ f 49 48 = 3 ∨ f 51 50 = 3 ∨
  f 319 256 ≠ 0 ∨ (∃ i < 256, h.testBit (512 + i) = true ∧ h.testBit (256 + i) = false) ∨ f 127 96 % 8 ≠ 0 ∨ f 127 96 < 8
/-- Bytes at an address of a map. -/
def bytesAt (m : Nat → Byte) (a n : Nat) : List Byte := (List.range n).map (fun i => m (a + i))
/-- A host write of a whole register (19 R404). -/
def hostWrites (off : Nat) (v : Word) : Instr := .registerWrite (0x0F0000000000 + off) 8 v
/-- The widest width code of a port: what WREQ asks, within the lanes that ULINK shows (19 R410, R413). -/
def widest (s : State) (p : Nat) (q : Port) : Nat :=
  let n := s.flash.yLink.toNat / 16 ^ p % 16
  min q.wreq.toNat (if n = 8 then 3 else if n = 4 then 2 else if n = 2 then 1 else 0)
/-- A link descriptor that keeps to the layout of 19 R411 and names a source in device memory. -/
def LinkDescriptor (s : State) (d : Nat) : Prop :=
  let op := d % 16
  let src := d / 2 ^ 64 % 2 ^ 64
  let dst := d / 2 ^ 128 % 2 ^ 64
  let len := d / 2 ^ 192 % 2 ^ 32
  (op = 1 ∨ op = 2) ∧ d / 2 ^ 4 % 2 ^ 60 = 0 ∧ d / 2 ^ 224 = 0 ∧ 1 ≤ len ∧ len ≤ 2 ^ 24 ∧
    (op = 2 → len % 32 = 0 ∧ src % 32 = 0 ∧ dst % 32 = 0) ∧ InDevice s src ∧ s.region (src + len - 1) = s.region src
/-- What a start discards is gone, and the device is not ready (19 R414). -/
def Discarded (s t : State) : Prop :=
  t.teams = [] ∧ t.launches = [] ∧ t.replays = [] ∧ t.graphs = [] ∧ t.micro = [] ∧ t.rowans = [] ∧ t.rowanOut = [] ∧ t.images = [] ∧ t.relaunches = [] ∧
  t.cores = List.replicate 256 Core.reset ∧ t.dies = List.replicate 8 Die.reset ∧ t.flash = s.flash ∧ t.pcie = s.pcie ∧ t.regs.ready = false ∧
  t.regs.fails = s.regs.fails ∧ t.regs.err = s.regs.err ∧ t.regs.recov = s.regs.recov ∧
  t.regs.recBusy = false ∧ t.regs.vec3 = s.regs.vec3 + (if s.regs.ready = true then 1 else 0) ∧
  (s.regs.recov = false → t.regs.stage = 1#8) ∧ (s.regs.recov = true → t.regs.stage = 0#8 ∧ t.mem = s.mem)
/-- A cold start begins; a warm start begins. -/
def ColdStart (s t : State) : Prop := Discarded s t ∧ t.regs.warm = false ∧
  (s.regs.recov = false → ∀ a, cellGet t.mem a = if a < 0x080000000000 then 0#8 else cellGet s.mem a)
def WarmStart (s t : State) : Prop := Discarded s t ∧ (s.regs.recov = false → t.regs.warm = true) ∧ t.mem = s.mem

/-- What every state of a device keeps to: the numbers of its parts, and the ranges of its small counters. -/
structure DeviceLimits (s : State) : Prop where
  memory : Memory.wf s.mem = true
  cores : s.cores.length = 256
  dies : s.dies.length = 8
  rings : s.rings.length = 3
  ports : s.ports.length = 12
  steps : ∀ d ∈ s.dies, d.step ≤ 6
  fails : s.regs.fails.toNat ≤ 3

/-! ### Integers -/

def i32 : IFmt := { w := 32, signed := true }
def n32 : IFmt := { w := 32, signed := false }
def i64 : IFmt := { w := 64, signed := true }
def n64 : IFmt := { w := 64, signed := false }

/-- Sources A, B and C of lane `l` as an operation on integers of `wd` bits reads them (02 R25, R26, 08 R159). -/
def intA (h : Hdr) (f : VFields) (w : Wave) (wd l : Nat) : Nat := srcA h f w (w.lane l) (wd / 32) (if wd = 64 then .s64 else .plain)
def intB (h : Hdr) (f : VFields) (w : Wave) (wd l : Nat) : Nat := srcB h f w (w.lane l) (wd / 32) (if wd = 64 then .s64 else .plain)
def intC (f : VFields) (w : Wave) (wd l : Nat) : Nat := srcC f (w.lane l) (wd / 32)

/-- The code `v` and the flags `fl` of an exact integer `x` in a type, with SAT or without (08 R160): in range, the code of `x`; out
of range, the nearest end and SATD, or `x` modulo 2^w. -/
structure IntResult (t : IFmt) (sat : Bool) (x : Int) (v : Nat) (fl : Flags) : Prop where
  code : v < 2 ^ t.w
  inside : t.has x = true → t.read v = x ∧ fl = 0#8
  wraps : t.has x = false → sat = false → ((2 ^ t.w : Nat) : Int) ∣ (v : Int) - x ∧ fl = 0#8
  clamps : t.has x = false → sat = true → t.read v = (if x < t.lo then t.lo else t.hi) ∧ fl = fSATD

/-- The code `v` and the flags of IDIV, or of IREM (08 R162). -/
structure DivResult (t : IFmt) (sat rem : Bool) (a b : Int) (v : Nat) (fl : Flags) : Prop where
  code : v < 2 ^ t.w
  zero : b = 0 → fl = fDZ ∧ (if rem then t.read v = a else v = 2 ^ t.w - 1)
  corner : t.signed = true → a = t.lo → b = -1 →
    if rem then v = 0 ∧ fl = 0#8
    else if sat then t.read v = t.hi ∧ fl = fSATD else t.read v = t.lo ∧ fl = 0#8
  plain : b ≠ 0 → ¬ (t.signed = true ∧ a = t.lo ∧ b = -1) →
    fl = 0#8 ∧ ∃ q r : Int, a = q * b + r ∧ r.natAbs < b.natAbs ∧ (r = 0 ∨ r.sign = a.sign) ∧ t.read v = if rem then r else q

/-- The conditions of 03 R58 on two `wd`-bit codes. -/
def condHolds (code wd a b : Nat) : Bool :=
  let x := BitVec.ofNat wd a
  let y := BitVec.ofNat wd b
  [x == y, x != y, x.slt y, x.sle y, y.slt x, y.sle x, x.ult y, x.ule y, y.ult x, y.ule x].getD code false

/-! ### Floating point -/

/-- The types of 03 R59: SUB, format, elements in an operand, registers of an operand. -/
def fltTypes : List (BitVec 2 × Fmt × Nat × Nat) := [(0#2, .f32, 1, 1), (1#2, .f16, 2, 1), (2#2, .bf16, 2, 1), (3#2, .f64, 1, 2)]

/-- Sources A, B and C of lane `l` as a floating instruction reads them (09 R183). -/
def fltA (h : Hdr) (f : VFields) (w : Wave) (t : Fmt) (l : Nat) : Nat :=
  if t = .f64 then srcA h f w (w.lane l) 2 .f64 else srcA h f w (w.lane l) 1 .plain
def fltB (h : Hdr) (f : VFields) (w : Wave) (t : Fmt) (l : Nat) : Nat :=
  if t = .f64 then srcB h f w (w.lane l) 2 .f64 else srcB h f w (w.lane l) 1 .plain
def fltC (f : VFields) (w : Wave) (t : Fmt) (l : Nat) : Nat := srcC f (w.lane l) (if t = .f64 then 2 else 1)

/-- Element `j` of an operand, flushed (07 R136, R141). -/
def fltIn (f : VFields) (t : Fmt) (x j : Nat) : Nat := flushIn t f.fzi (x / 2 ^ (t.width * j) % 2 ^ t.width)

/-- The clamp of 09 R185 takes code `c` to code `c'`. -/
def Clamped (t : Fmt) (c c' : Nat) : Prop :=
  ((fdecode t c).isNaN = true ∨ (fdecode t c).isNeg = true → c' = 0) ∧
  ((Val.fin false 1 1).ltB (fdecode t c) = true → c' = t.one) ∧
  ((fdecode t c).isNaN = false → (fdecode t c).isNeg = false → (Val.fin false 1 1).ltB (fdecode t c) = false → c' = c)

/-- An exact value delivered (09 R184, R185, R189): rounded once, flushed, clamped when SAT is 1; `nv`: an invalid case. -/
def Delivered (f : VFields) (t : Fmt) (x : Val) (nv : Bool) (r : Nat × Flags) : Prop :=
  let y := flushOut t f.fzo (roundTo t f.rnd x)
  (if f.sat then Clamped t y.1 r.1 else r.1 = y.1) ∧ r.2 = y.2 ||| (if nv then fNV else 0#8)

/-- A code and flags made of one or two elements (07 R136): element 0 in the low bits, the flags ORed (09 R186). -/
def Packed (t : Fmt) (n : Nat) (e : Nat → Nat × Flags) (v : Nat) (fl : Flags) : Prop :=
  v = (e 0).1 + (if n = 2 then 2 ^ t.width * (e 1).1 else 0) ∧ fl = (e 0).2 ||| (if n = 2 then (e 1).2 else 0#8)

/-- Some of the values is a signalling NaN (07 R143). -/
def anySNaN (l : List Val) : Bool := l.any Val.isSNaN

/-- A floating vector instruction of fixed latency: per element `e l j` of lane `l`, as `elem` relates it to the flushed elements. -/
def FloatStep (i : Instr) (h : Hdr) (f : VFields) (s : State) (w : Wave) (t : Fmt) (n k : Nat)
    (elem : Nat → Nat → Nat → Nat × Flags → Prop) : Prop :=
  ∃ (u : State) (w' : Wave) (v : Nat → Nat) (fl : Nat → Flags) (e : Nat → Nat → Nat × Flags), exec i s = .next u ∧
    Computes s h w (fun l => block f.d.toNat k (v l)) noPred fl u w' ∧ ∀ l, Packed t n (e l) (v l) (fl l) ∧
      ∀ j < n, elem (fltIn f t (fltA h f w t l) j) (fltIn f t (fltB h f w t l) j) (fltIn f t (fltC f w t l) j) (e l j)

/-- The same for a variable-latency result. -/
def FloatPromise (i : Instr) (h : Hdr) (f : VFields) (s : State) (w : Wave) (t : Fmt) (n k : Nat)
    (elem : Nat → Nat → Nat → Nat × Flags → Prop) : Prop :=
  ∃ (u : State) (w' : Wave) (o : Out) (v : Nat → Nat) (fl : Nat → Flags) (e : Nat → Nat → Nat × Flags), exec i s = .next u ∧
    Promises s h w (fun l => block f.d.toNat k (v l)) fl u w' o ∧ ∀ l, Packed t n (e l) (v l) (fl l) ∧
      ∀ j < n, elem (fltIn f t (fltA h f w t l) j) (fltIn f t (fltB h f w t l) j) (fltIn f t (fltC f w t l) j) (e l j)

/-- The rational that a finite value is. -/
def Val.rat (v : Val) : Rat := mkRat v.snum v.sden
/-- Two values are the same number, signs of zeros and infinities included. -/
def SameValue : Val → Val → Prop
  | .inf s, .inf t => s = t
  | .fin s n d, .fin t m e => s = t ∧ n * e = m * d
  | _, _ => False
/-- A value is the finite number of magnitude `y` and sign `s`. -/
def IsNumber (v : Val) (s : Bool) (y : Rat) : Prop := ∃ n d : Nat, 0 < d ∧ v = .fin s n d ∧ mkRat n d = y
/-- 2 to an integer power. -/
def twoTo (k : Int) : Rat := if k < 0 then mkRat 1 (2 ^ k.natAbs) else mkRat (2 ^ k.toNat) 1
/-- `y` is the magnitude x > 0 of a value of sign `neg`, rounded to precision p with least exponent emin, without an upper bound (07 R138). -/
def Rounds (p : Nat) (emin : Int) (m : Rnd) (neg : Bool) (x y : Rat) : Prop :=
  ∃ (e : Int) (n d : Nat), twoTo e ≤ x ∧ x < twoTo (e + 1) ∧ 0 < d ∧ x = mkRat n d * twoTo (max e emin - p + 1) ∧
    y = mkRat (rintMag m neg n d) 1 * twoTo (max e emin - p + 1)
/-- The flags of a rounding that does not overflow (07 R138). -/
def roundingFlags (emin : Int) (x y : Rat) : Flags := if y = x then 0#8 else if y < twoTo emin then fNX ||| fUF else fNX
/-- An overflow gives the infinity under a mode and a sign (07 R139). -/
def toInfinity : Rnd → Bool → Bool
  | .rn, _ => true
  | .rz, _ => false
  | .rp, neg => !neg
  | .rm, neg => neg

/-! ### Conversion and lanes -/

/-- The type codes 0 to 12 of 08 R173. -/
def cvtCodes : List (Nat × CvtType) :=
  [(0, .flt .f32), (1, .flt .f16), (2, .flt .bf16), (3, .flt .f64), (4, .int { w := 8, signed := true }),
   (5, .int { w := 16, signed := true }), (6, .int i32), (7, .int i64), (8, .int { w := 8, signed := false }),
   (9, .int { w := 16, signed := false }), (10, .int n32), (11, .int n64), (12, .nf)]

/-- The bits of a code or value of a type. -/
def cvtBits : CvtType → Nat
  | .flt t => t.width
  | .int t => t.w
  | .nf => 8

/-- A lane contributes to a cross-lane instruction: it takes part and is no helper lane (08 R176). -/
def gives (s : State) (h : Hdr) (w : Wave) (l : Nat) : Bool := takes s h w l && !w.helper.getLsbD l

/-- `v` is the code, among those of the contributors, that no other is better than; or the stated value when there is none. -/
def BestOf (c : Nat → Bool) (x : Nat → Nat) (le : Nat → Nat → Bool) (none v : Nat) : Prop :=
  ((∀ l, c l = false) → v = none) ∧ ((∃ l, c l = true) → (∃ l, c l = true ∧ v = x l) ∧ ∀ l, c l = true → le v (x l) = true)

/-- Signed order on 32-bit codes. -/
def sle32 (a b : Nat) : Bool := decide (i32.read a ≤ i32.read b)

/-- A node of the tree of 08 R179, by level and index: empty, or a code; with the flags of the additions below it. -/
def addTree (m : Rnd) (fzo : Bool) (leaf : Nat → Option Nat) : Nat → Nat → Option Nat × Flags
  | 0, i => (leaf i, 0#8)
  | k + 1, i =>
    let x := addTree m fzo leaf k (2 * i)
    let y := addTree m fzo leaf k (2 * i + 1)
    match x.1, y.1 with
    | none, none => (none, x.2 ||| y.2)
    | some a, none => (some a, x.2 ||| y.2)
    | none, some b => (some b, x.2 ||| y.2)
    | some a, some b =>
      let v := Val.sum m [fdecode .f32 a, fdecode .f32 b]
      let c := flushOut .f32 fzo (roundTo .f32 m v.1)
      (some c.1, x.2 ||| y.2 ||| c.2 ||| (if v.2 then fNV else 0#8))

/-! ### Products and sums of an MMA (10 R203, R205, R208, R213, R215) -/

/-- Bits of an element of a panel; bytes of a stored column; bytes of a scale, and of a row of scales. -/
def elemSize (p : Panel) : Nat := if p.itype ≤ 1 then 16 else if p.itype ≤ 4 then 8 else if p.itype ≤ 7 then 4 else 8
def columnSize (p : Panel) : Nat := if p.itype = 8 then p.kext / 5 else p.kext * elemSize p / 8
def scaleSize (p : Panel) : Nat := if p.sfmt = 1 then 2 else 1
def scaleRowSize (p : Panel) : Nat := if p.blk = 0 then 0 else p.kext / (8 * 2 ^ p.blk) * scaleSize p
/-- A description that OBRES accepts, as far as the products need it (10 R204). -/
def PanelFormed (p : Panel) : Prop :=
  p.itype ≤ 8 ∧ p.kext % (if p.itype = 8 then 40 else 8) = 0 ∧ p.kext ≤ (if p.itype = 8 then 320 else 512 / elemSize p) ∧
    (p.tr = true → p.itype ≠ 8)
/-- The dense tile type of a panel is I32 (10 R203). -/
def denseInt (p : Panel) : Bool := [2, 3, 5, 6, 8].contains p.itype && p.blk == 0

/-- The value of an element from its code, and whether it is a signalling NaN. -/
def codeValue (p : Panel) (fzi : Bool) (code : Nat) : Val × Bool :=
  let flt (t : Fmt) : Val × Bool := (fdecode t (flushIn t fzi code), (fdecode t (flushIn t fzi code)).isSNaN)
  match p.itype with
  | 0 => flt .f16
  | 1 => flt .bf16
  | 2 => (.ofInt (IFmt.read { w := 8, signed := true } code), false)
  | 3 => (.ofInt code, false)
  | 5 => (.ofInt (IFmt.read { w := 4, signed := true } code), false)
  | 6 => (.ofInt code, false)
  | _ => (nfDecode (nfDesc p.desc) code, false)
/-- Element `k` of a packed column `x`; a ternary byte holds five, and a reserved one zeros (07 R149). -/
def packedValue (p : Panel) (fzi : Bool) (x k : Nat) : Val × Bool :=
  if p.itype = 8 then
    let b := x / 256 ^ (k / 5) % 256
    (.ofInt (if b < 243 then ([0, 1, -1] : List Int).getD (b / 3 ^ (k % 5) % 3) 0 else 0), false)
  else codeValue p fzi (x / 2 ^ (k * elemSize p) % 2 ^ elemSize p)
/-- A scale from its code (07 R150). -/
def scaleValue (p : Panel) (code : Nat) : Val :=
  match p.sfmt with
  | 0 => if code = 255 then .nan false else if code < 127 then .fin false 1 (2 ^ (127 - code)) else .fin false (2 ^ (code - 127)) 1
  | 1 => fdecode .f16 code
  | _ => nfDecode (nfDesc p.sdesc) code
/-- A value times the scale of its block in a row of scales, exactly (07 R151). -/
def timesScale (p : Panel) (x : Val × Bool) (row k : Nat) : Val × Bool :=
  let y := x.1.mul (scaleValue p (row / 256 ^ (k / (8 * 2 ^ p.blk) * scaleSize p) % 256 ^ scaleSize p))
  (y.1, x.2 || y.2)
/-- Element `k` of the A row in some registers; a helper lane's is zero. -/
def rowValue (p : Panel) (fzi sparse helper : Bool) (regs k : Nat) : Val × Bool :=
  let x := if helper then (.fin false 0 1, false) else packedValue p fzi regs k
  if p.asc then timesScale p x (regs / 2 ^ (512 + if sparse then 64 else 0)) k else x
/-- Element `k` of column `n` of the areas. -/
def columnValue (p : Panel) (fzi : Bool) (areas n k : Nat) : Val × Bool :=
  let x := if p.tr then codeValue p fzi (areas / 2 ^ ((64 * k + n) * elemSize p) % 2 ^ elemSize p)
    else packedValue p fzi (areas / 256 ^ (n * columnSize p)) k
  if p.blk = 0 then x else timesScale p x (areas / 256 ^ (p.scoff - p.base + n * scaleRowSize p)) k
/-- Product `k` of a row and a column, and whether it is invalid; one under a clear bitmap bit is +0. -/
def productOf (p : Panel) (fzi sparse helper : Bool) (regs areas n k : Nat) : Val × Bool :=
  let bit := k / (if p.itype ≤ 4 then 1 else if p.itype ≤ 7 then 2 else 5)
  if sparse && !((regs / 2 ^ 512 % 2 ^ 64).testBit bit && (areas / 256 ^ (p.spoff - p.base + 8 * n) % 2 ^ 64).testBit bit) then
    (.fin false 0 1, false)
  else
    let a := rowValue p fzi sparse helper regs k
    let b := columnValue p fzi areas n k
    let y := a.1.mul b.1
    (y.1, y.2 || a.2 || b.2)
/-- The canonical order (07 R156): groups of eight products in increasing k, one rounding a group. -/
def groupSteps (fzo : Bool) (prod : Nat → Val) (acc : Nat) : Nat → Nat × Flags
  | 0 => (acc, 0#8)
  | g + 1 =>
    let x := groupSteps fzo prod acc g
    let y := flushOut .f32 fzo (roundTo .f32 .rn (Val.sum .rn (fdecode .f32 x.1 :: (List.range 8).map (fun i => prod (8 * g + i)))).1)
    (y.1, x.2 ||| y.2)
/-- The sum of an accumulator element of an MMA and its flags: exact in an exact tile, an integer in an I32 tile, the canonical order in an
F32 tile. -/
def SumOf (p : Panel) (f : VFields) (prod : Nat → Val × Bool) (old new : Nat) (fl : Flags) : Prop :=
  let nv : Flags := if (List.range p.kext).any (fun k => (prod k).2) then fNV else 0#8
  if f.sub.getLsbD 1 then new = ((List.range p.kext).foldl (fun a k => xaccAdd a (prod k).1) old) % 2 ^ 256 ∧ fl = nv
  else if denseInt p then ∃ g, IntResult { w := 32, signed := true } f.sat
    (IFmt.read { w := 32, signed := true } old + ((List.range p.kext).map (fun k => (prod k).1.snum)).sum) new g ∧ fl = g ||| nv
  else new = (groupSteps f.fzo (fun k => (prod k).1) old (p.kext / 8)).1 ∧ fl = (groupSteps f.fzo (fun k => (prod k).1) old (p.kext / 8)).2 ||| nv
/-- A byte of a ternary column is reserved (07 R149). -/
def reservedTrit (p : Panel) (x : Nat) : Prop := p.itype = 8 ∧ ∃ y < p.kext / 5, 243 ≤ x / 256 ^ y % 256

/-! ### Pixels, texels and rays (11 R246, 12 R249 to R271) -/

/-- A value is finite, and is the rational `y`. -/
def Finite (v : Val) (y : Rat) : Prop := (∃ s n d, v = .fin s n d) ∧ Val.rat v = y

/-- Channel `c` of a pixel of a format (11 R244). -/
def channelValue (fm pixel c : Nat) : Val :=
  if fm = 0 then .fin false (pixel / 2 ^ (8 * c) % 2 ^ 8) 255
  else if fm = 1 then fdecode .f16 (pixel / 2 ^ (16 * c) % 2 ^ 16) else fdecode .f32 (pixel / 2 ^ (32 * c) % 2 ^ 32)

/-- The exact result of one channel: source, destination, source alpha; `alpha`: the channel is alpha itself (11 R246). -/
def blendExact (op : Nat) (cs cd as : Rat) (alpha : Bool) : Rat :=
  if op = 0 then cs
  else if op = 1 then (if alpha then cs else cs * as) + cd * (1 - as)
  else if op = 2 then cs + cd * (1 - as)
  else if op = 3 then cs + cd
  else if op = 4 then min cs cd else max cs cd

/-- The code and the flags of a channel whose exact result is `x` (11 R246). -/
def ChannelTakes (fm : Nat) (x : Rat) (e : Nat × Flags) : Prop :=
  if fm = 0 then
    let y : Rat := 255 * max 0 (min 1 x)
    e.1 = (rint .rn y.num y.den).toNat ∧ e.2 = (if (e.1 : Rat) = y then 0#8 else fNX)
  else ∃ v, Finite v x ∧ e = roundTo (if fm = 1 then .f16 else .f32) .rn v

/-- A pixel `new` is the blend of a source with the pixel `old`, with its flags: channel by channel the exact result in the format's
code; a NaN gives 0 in RGBA8 and the canonical NaN elsewhere, but MIN and MAX take the other operand (11 R246, 09 R188, R190). -/
def BlendOf (op fm : Nat) (cs : Nat → Val) (old new : Nat) (fl : Flags) : Prop :=
  ∃ e : Nat → Nat × Flags, new = ((List.range 4).map (fun c => (e c).1 * 2 ^ (8 * 2 ^ fm * c))).sum ∧ fl = (e 0).2 ||| (e 1).2 ||| (e 2).2 ||| (e 3).2 ∧
    ∀ c < 4,
      let cd := channelValue fm old c
      let used : List Val := if op = 0 then [cs c] else if op = 1 ∨ op = 2 then [cs c, cd, cs 3] else [cs c, cd]
      let nv : Flags := if used.any Val.isSNaN = true then fNV else 0#8
      (∀ x y z, Finite (cs c) x → Finite cd y → Finite (cs 3) z → ChannelTakes fm (blendExact op x y z (c == 3)) (e c)) ∧
      (op < 4 → used.any Val.isNaN = true → e c = (if fm = 0 then (0, fNV) else (if fm = 1 then 0x7E00 else 0x7FC00000, nv))) ∧
      (4 ≤ op → ∀ x, ((cs c).isNaN = true ∧ Finite cd x) ∨ (cd.isNaN = true ∧ Finite (cs c) x) → ∃ k, ChannelTakes fm x ((e c).1, k) ∧ (e c).2 = k ||| nv)

/-- A texture's width, height, levels but one, format and base, from its descriptor (12 R268). -/
def texWidth (d : Nat) : Nat := d / 2 ^ 64 % 2 ^ 16 + 1
def texHeight (d : Nat) : Nat := d / 2 ^ 80 % 2 ^ 16 + 1
def texTop (d : Nat) : Nat := d / 2 ^ 96 % 16
def texFormat (d : Nat) : Nat := d / 2 ^ 100 % 8
/-- A malformed descriptor (12 R268). -/
def texMalformed (d : Nat) : Prop :=
  2 ^ 105 ≤ d ∨ 5 ≤ texFormat d ∨ d % 256 ≠ 0 ∨ canonical (d % 2 ^ 64) = false ∨ Nat.log2 (max (texWidth d) (texHeight d)) < texTop d
def texelSize (d : Nat) : Nat := [4, 8, 8, 16, 2].getD (texFormat d) 2
/-- Texels of level `l` along an axis of `n`, the bytes of its rows, and where it begins (12 R269). -/
def levelSize (n l : Nat) : Nat := max 1 (n / 2 ^ l)
def levelPitch (d l : Nat) : Nat := (levelSize (texWidth d) l * texelSize d + 255) / 256 * 256
def levelStart (d l : Nat) : Nat := d % 2 ^ 64 + ((List.range l).map (fun k => levelPitch d k * levelSize (texHeight d) k)).sum
def texelIndex (wrap : Bool) (i : Int) (n : Nat) : Int := if wrap then Int.emod i n else max 0 (min ((n : Int) - 1) i)
/-- The address of texel (i, j) of level `l` (12 R269). -/
def texelPlace (d l : Nat) (i j : Int) : Int :=
  levelStart d l + texelIndex (d.testBit 104) j (levelSize (texHeight d) l) * levelPitch d l + texelIndex (d.testBit 103) i (levelSize (texWidth d) l) * texelSize d
/-- Channel `c` of a texel (12 R269). -/
def texelChannel (d x c : Nat) : Val :=
  match texFormat d with
  | 0 => .fin false (x / 2 ^ (8 * c) % 2 ^ 8) 255
  | 1 => .fin false (x / 2 ^ (16 * c) % 2 ^ 16) 65535
  | 2 => fdecode .f16 (x / 2 ^ (16 * c) % 2 ^ 16)
  | 3 => fdecode .f32 (x / 2 ^ (32 * c) % 2 ^ 32)
  | _ => if c = 3 then .fin false 1 1 else .fin false (x % 2 ^ 16) 65535

/-- A rational as a multiple of 1/4,096, to nearest even (07 R158). -/
def parts4096 (x : Rat) : Int := rint .rn (x * 4096).num (x * 4096).den
/-- The two texels along one axis of `n` texels and their weights (12 R271). -/
def alongAxis (x : Rat) (n : Nat) : List (Int × Rat) :=
  let s := x * n - 1 / 2
  let q : Rat := parts4096 (s - s.floor)
  [(s.floor, (4096 - q) / 4096), (s.floor + 1, q / 4096)]
/-- One bilinear set at level `l` and point (u, v) with a tap factor: weights and addresses; taps of weight zero are left out (12 R271). -/
def bilinearSet (d l : Nat) (factor u v : Rat) : List (Rat × Int) :=
  ((alongAxis v (levelSize (texHeight d) l)).flatMap (fun b => (alongAxis u (levelSize (texWidth d) l)).map (fun a =>
    (factor * a.2 * b.2, texelPlace d l a.1 b.1)))).filter (fun q => q.1 ≠ 0)
/-- The levels and factors that l0 and the 4,096ths above it select (12 R271). -/
def levelPair (d l0 : Nat) (q : Int) : List (Nat × Rat) :=
  if texTop d ≤ l0 then [(texTop d, 1)] else [(l0, (4096 - q) / 4096), (l0 + 1, q / 4096)]
/-- The levels of .TRI for λ (12 R271). -/
def triLevels (d : Nat) (lam : Val) : List (Nat × Rat) :=
  match lam with
  | .inf neg => if neg then [(0, 1)] else [(texTop d, 1)]
  | _ => if Val.rat lam ≤ 0 then [(0, 1)] else levelPair d (Val.rat lam).floor.toNat (parts4096 (Val.rat lam - (Val.rat lam).floor))
/-- The levels of .FP for λ = ½ log2 x, by powers: 4,096 λ lies within one half of 4,096 l0 + q (12 R271). -/
def FpLevels (d : Nat) (x : Rat) (l : List (Nat × Rat)) : Prop :=
  (x ≤ 1 → l = [(0, 1)]) ∧
  (1 < x → ∃ l0 q : Nat, (4 : Rat) ^ l0 ≤ x ∧ x < 4 ^ (l0 + 1) ∧ twoTo (2 * (4096 * l0 + q) - 1) ≤ x ^ 4096 ∧ x ^ 4096 < twoTo (2 * (4096 * l0 + q) + 1) ∧
    l = levelPair d l0 q)
/-- A sample whose coordinates are not finite, or whose λ is a NaN (12 R271). -/
def NoSample (mode win : Nat) : Prop :=
  let v (k : Nat) : Val := fdecode .f32 (word win k)
  let lost (k : Nat) : Prop := (v k).isNaN = true ∨ (v k).isInf = true
  lost 1 ∨ lost 2 ∨ (mode = 1 ∧ (v 3).isNaN = true) ∨ (mode = 2 ∧ ∃ k < 4, lost (4 + k))
/-- The taps of a sample: mode, window (12 R271). -/
def SampleTaps (d mode win : Nat) (taps : List (Rat × Int)) : Prop :=
  let y (k : Nat) : Rat := Val.rat (fdecode .f32 (word win k))
  ¬ NoSample mode win ∧
  (mode = 0 → taps = bilinearSet d (min (word win 3) (texTop d)) 1 (y 1) (y 2)) ∧
  (mode = 1 → taps = (triLevels d (fdecode .f32 (word win 3))).flatMap (fun l => bilinearSet d l.1 l.2 (y 1) (y 2))) ∧
  (mode = 2 →
    let sq (a b : Rat) : Rat := (a * texWidth d) ^ 2 + (b * texHeight d) ^ 2
    let major : Nat := if sq (y 6) (y 7) ≤ sq (y 4) (y 5) then 4 else 6
    let a2 := max (sq (y 4) (y 5)) (sq (y 6) (y 7))
    let b2 := min (sq (y 4) (y 5)) (sq (y 6) (y 7))
    let n : Nat := ([1, 2, 4, 8].find? (fun (k : Nat) => a2 ≤ (k : Rat) ^ 2 * b2)).getD 16
    ∃ l, FpLevels d (a2 / (n : Rat) ^ 2) l ∧ taps = (List.range n).flatMap (fun (i : Nat) =>
      let c : Rat := (2 * (i : Rat) + 1 - n) / (2 * n)
      l.flatMap (fun q => bilinearSet d q.1 (q.2 / n) (y 1 + c * y major) (y 2 + c * y (major + 1)))))
/-- A weighted sum of one channel, rounded once (07 R158). -/
def Weighted (ts : List (Rat × Val)) (e : Nat × Flags) : Prop :=
  let inf (neg : Bool) : Prop := ∃ q ∈ ts, q.2 = .inf neg
  ((∃ q ∈ ts, q.2.isNaN = true) → e = (0x7FC00000, if ts.any (fun q => q.2.isSNaN) = true then fNV else 0#8)) ∧
  ((∀ q ∈ ts, q.2.isNaN = false) → (inf true ∧ inf false → e = (0x7FC00000, fNV)) ∧ (inf false ∧ ¬ inf true → e = (0x7F800000, 0#8)) ∧
    (inf true ∧ ¬ inf false → e = (0xFF800000, 0#8)) ∧
    (¬ inf true ∧ ¬ inf false → ∃ v, Finite v (ts.map (fun q => q.1 * Val.rat q.2)).sum ∧ e = roundTo .f32 .rn v))

/-- The order of numbers and infinities. -/
def atMost (a b : Val) : Bool :=
  match a, b with
  | .inf true, _ => true
  | _, .inf false => true
  | .inf false, _ => false
  | _, .inf true => false
  | a, b => decide (Val.rat a ≤ Val.rat b)
/-- A rational as a value. -/
def numVal (y : Rat) : Val := .fin (decide (y < 0)) y.num.natAbs y.den
def dot3 (a b : Nat → Rat) : Rat := a 0 * b 0 + a 1 * b 1 + a 2 * b 2
def cross3 (a b : Nat → Rat) (k : Nat) : Rat := a ((k + 1) % 3) * b ((k + 2) % 3) - a ((k + 2) % 3) * b ((k + 1) % 3)
/-- The ray of the top structure, from a window (12 R256, R259). -/
def RayOf (win : Nat) (o d : Nat → Rat) : Prop :=
  (∀ k < 3, Finite (fdecode .f32 (word win (1 + k))) (o k) ∧ Finite (fdecode .f32 (word win (4 + k))) (d k)) ∧ (∃ k < 3, d k ≠ 0) ∧
  (fdecode .f32 (word win 7)).isNaN = false ∧ (fdecode .f32 (word win 8)).isNaN = false
/-- A triangle is hit at t, u, v (12 R260). -/
def TriangleHit (o d v0 v1 v2 : Nat → Rat) (tmin tmax : Val) (cull : Bool) (t u v : Rat) : Prop :=
  let e1 (k : Nat) : Rat := v1 k - v0 k
  let e2 (k : Nat) : Rat := v2 k - v0 k
  let p := cross3 d e2
  let a (k : Nat) : Rat := o k - v0 k
  let q := cross3 a e1
  let det := dot3 e1 p
  det ≠ 0 ∧ (cull = true → 0 < det) ∧ u * det = dot3 a p ∧ v * det = dot3 d q ∧ t * det = dot3 e2 q ∧ 0 ≤ u ∧ 0 ≤ v ∧ u + v ≤ 1 ∧
    atMost tmin (numVal t) = true ∧ atMost tmax (numVal t) = false

/-- Fields of a box node: child reference, bound byte, bound on an axis (12 R249). -/
def boxChild (v j : Nat) : Nat := v / 2 ^ (512 + 32 * j) % 2 ^ 31
def boxByte (v j b : Nat) : Nat := v / 2 ^ (128 + 48 * j + 8 * b) % 2 ^ 8
def boxBound (v j b : Nat) : Rat :=
  Val.rat (fdecode .f32 (v / 2 ^ (32 * (b % 3)) % 2 ^ 32)) + boxByte v j b * twoTo (IFmt.read { w := 8, signed := true } (v / 2 ^ (96 + 8 * (b % 3)) % 2 ^ 8))
/-- A well-formed box node of the top structure (12 R249, R254). -/
def BoxFormed (v : Nat) : Prop :=
  v / 2 ^ 120 % 2 ^ 8 = 0 ∧ (∀ k < 3, ∃ y, Finite (fdecode .f32 (v / 2 ^ (32 * k) % 2 ^ 32)) y) ∧
  ∀ j < 8, boxChild v j / 2 ^ 28 ≠ 0 → boxChild v j / 2 ^ 28 < 6 ∧ ∀ a < 3, boxByte v j a ≤ boxByte v j (a + 3)
/-- Where a ray enters and leaves child `j` of a box node by the slab test (12 R259). -/
def slabTimes (v j : Nat) (o d : Nat → Rat) (tmin tmax : Val) : Val × Val :=
  let at' (a b : Nat) : Rat := (boxBound v j b - o a) / d a
  let axes := (List.range 3).filter (fun a => d a ≠ 0)
  (axes.foldl (fun m a => let y := numVal (min (at' a a) (at' a (a + 3))); if atMost m y then y else m) tmin,
    axes.foldl (fun m a => let y := numVal (max (at' a a) (at' a (a + 3))); if atMost y m then y else m) tmax)
/-- Child `j` is not empty and is hit (12 R259). -/
def ChildHit (v j : Nat) (o d : Nat → Rat) (tmin tmax : Val) : Prop :=
  boxChild v j / 2 ^ 28 ≠ 0 ∧ (∀ a < 3, d a = 0 → boxBound v j a ≤ o a ∧ o a ≤ boxBound v j (a + 3)) ∧
  atMost (slabTimes v j o d tmin tmax).1 (slabTimes v j o d tmin tmax).2 = true
/-- The child list of a box node: its hit children, by where the ray enters them and then by slot (12 R259). -/
def ChildList (v : Nat) (o d : Nat → Rat) (tmin tmax : Val) (l : List Nat) : Prop :=
  ∃ js : List Nat, (∀ j, j ∈ js ↔ j < 8 ∧ ChildHit v j o d tmin tmax) ∧ l = js.map (boxChild v) ∧
    js.Pairwise (fun i j => atMost (slabTimes v i o d tmin tmax).1 (slabTimes v j o d tmin tmax).1 = true ∧
      (atMost (slabTimes v j o d tmin tmax).1 (slabTimes v i o d tmin tmax).1 = true → i < j))
/-- A reference that CUR and the stack may hold (12 R256). -/
def refFormed (r : Nat) : Prop := 1 ≤ r / 2 ^ 28 % 8 ∧ r / 2 ^ 28 % 8 ≤ 5
/-- A window that TRAV accepts (12 R255, R256). -/
def TravFormed (x : Nat) : Prop :=
  let st := word x 0
  let root := word x 10 + 2 ^ 32 * word x 11
  let entry (i : Nat) : Nat := word x (22 + i / 4) / 2 ^ (8 * (i % 4)) % 2 ^ 8
  word x 9 < 2 ^ 18 ∧ root / 8 % 8 = 0 ∧ word x 25 / 2 ^ 28 % 8 = 0 ∧ word x 31 / 2 ^ 21 % 2 ^ 10 = 0 ∧ word x 31 / 2 ^ 9 % 2 ^ 7 = 0 ∧
  st / 2 ^ 8 % 32 ≤ 20 ∧ st / 2 ^ 4 % 16 ≤ 8 ∧ st % 8 ≤ 4 ∧ refFormed (word x 12) ∧
  (∀ i < st / 2 ^ 4 % 16, refFormed (word x (14 + i)) ∧ entry i % 32 ≤ 19 ∧ 1 ≤ entry i / 32) ∧
  canonical root = true ∧ 1 ≤ root % 8 ∧ root % 8 ≤ 5 ∧
  (st.testBit 13 = true → word x 12 / 2 ^ 28 % 8 = 3) ∧ (st.testBit 3 = true → word x 12 / 2 ^ 28 % 8 = 4) ∧
  ((word x 31).testBit 31 = true → word x 31 / 2 ^ 16 % 32 < st / 2 ^ 8 % 32)

end Sys2Proof.Safety
end

