-- ==== Sys2Proof/Certificates/Slice0/Obligations.lean ====
section
/-! DEFINITION. The statements about the model that are to be proved. -/

open Sys2Proof Sys2Proof.Machine Sys2Proof.Safety

/-! ### Integer vector instructions (08 R161 to R169) -/

/-- The instructions of 08 R161 and their exact results over the integers. -/
def Sys2Proof.Safety.intOps (h : Hdr) (f : VFields) : List (Instr × (Int → Int → Int → Int)) :=
  [(.iadd h f, fun a b _ => a + b), (.isub h f, fun a b _ => a - b), (.imul h f, fun a b _ => a * b),
   (.imad h f, fun a b c => a * b + c), (.imin h f, fun a b _ => min a b), (.imax h f, fun a b _ => max a b),
   (.iabs h f, fun a _ _ => a.natAbs)]

/-- 08 R161 with R160: IADD, ISUB, IMUL, IMAD, IMIN, IMAX and IABS in every type give each lane that takes part the code of the exact
result, or of the nearest end of the range with SATD; nothing else changes. -/
def Sys2Proof.Claims.IntegerArithmetic : Prop :=
  ∀ (h : Hdr) (f : VFields) (s : State) (w : Wave) (t : IFmt), Issuing s w →
    (f.sub, t) ∈ [(0#2, i32), (1#2, n32), (2#2, i64), (3#2, n64)] →
    ∀ q ∈ intOps h f, ∃ (u : State) (w' : Wave) (v : Nat → Nat) (fl : Nat → Flags), exec q.1 s = .next u ∧
      Computes s h w (fun l => block f.d.toNat (t.w / 32) (v l)) noPred fl u w' ∧
      ∀ l, IntResult t f.sat (q.2 (t.read (intA h f w t.w l)) (t.read (intB h f w t.w l)) (t.read (intC f w t.w l))) (v l) (fl l)

/-- 08 R162: IDIV and IREM leave an outstanding result with the quotient truncated toward zero, or the remainder with the sign of the
dividend; division by zero and the one overflow as the table gives them. -/
def Obligations.IntegerDivision : Prop :=
  ∀ (h : Hdr) (f : VFields) (s : State) (w : Wave) (t : IFmt), Issuing s w →
    (f.sub, t) ∈ [(0#2, i32), (1#2, n32), (2#2, i64), (3#2, n64)] →
    ∀ q ∈ [(Instr.idiv h f, false), (Instr.irem h f, true)], ∃ (u : State) (w' : Wave) (o : Out) (v : Nat → Nat) (fl : Nat → Flags), exec q.1 s = .next u ∧
      Promises s h w (fun l => block f.d.toNat (t.w / 32) (v l)) fl u w' o ∧
      ∀ l, DivResult t f.sat q.2 (t.read (intA h f w t.w l)) (t.read (intB h f w t.w l)) (v l) (fl l)

/-- 08 R163: IADDC adds with carry: D = s mod 2^w and pC = (s ≥ 2^w), where the carry in is the old pC when C[3] is 1. -/
def Sys2Proof.Claims.AddWithCarry : Prop :=
  ∀ (h : Hdr) (f : VFields) (s : State) (w : Wave) (wd : Nat), Issuing s w → (f.sub, wd) ∈ [(0#2, 32), (1#2, 64)] →
    ∃ u w', exec (.iaddc h f) s = .next u ∧
      let sum (l : Nat) : Nat := intA h f w wd l + intB h f w wd l +
        (if f.c.getLsbD 3 = true ∧ (w.lane l).pred (f.c.toNat % 8) = true then 1 else 0)
      Computes s h w (fun l => block f.d.toNat (wd / 32) (sum l % 2 ^ wd))
        (fun l => onePred (f.c.toNat % 8) (decide (2 ^ wd ≤ sum l))) noFlag u w'

/-- IADD, ISUB, IMUL, IMAD, IMIN, IMAX, IABS and IADDC: results, flags, completion and frame: all of the statements just named hold. -/
def Obligations.IntegerSums : Prop :=
  Claims.IntegerArithmetic ∧ Claims.AddWithCarry

/-- 08 R164: AND, OR, XOR and BMIX, bit by bit; BMIX looks its table up at a_i + 2·b_i + 4·d_i, where d is the old destination. -/
def Sys2Proof.Claims.BitwiseFunctions : Prop :=
  ∀ (h : Hdr) (f : VFields) (s : State) (w : Wave) (wd : Nat), Issuing s w → (f.sub, wd) ∈ [(0#2, 32), (1#2, 64)] →
    ∀ q ∈ [(Instr.and h f, fun a b _ => a && b), (Instr.or h f, fun a b _ => a || b), (Instr.xor h f, fun a b _ => a != b),
        (Instr.bmix h f, fun a b d => f.c.getLsbD ((if a then 1 else 0) + (if b then 2 else 0) + (if d then 4 else 0)))],
      ∃ (u : State) (w' : Wave) (v : Nat → Nat), exec q.1 s = .next u ∧ Computes s h w (fun l => block f.d.toNat (wd / 32) (v l)) noPred noFlag u w' ∧
        ∀ l, v l < 2 ^ wd ∧ ∀ i < wd, (v l).testBit i =
          q.2 ((intA h f w wd l).testBit i) ((intB h f w wd l).testBit i) (((w.lane l).vblock f.d.toNat (wd / 32)).testBit i)

/-- 08 R165: SHL, SHR, ROT and FUNNEL at every count, the count of the first three from one register. -/
def Sys2Proof.Claims.ShiftsAndRotates : Prop :=
  ∀ (h : Hdr) (f : VFields) (s : State) (w : Wave), Issuing s w →
    let n (l : Nat) : Nat := intB h f w 32 l
    (∀ wd, (f.sub, wd) ∈ [(0#2, 32), (1#2, 64)] → ∃ u w', exec (.shl h f) s = .next u ∧
      Computes s h w (fun l => block f.d.toNat (wd / 32) (intA h f w wd l * 2 ^ n l % 2 ^ wd)) noPred noFlag u w') ∧
    (∀ t : IFmt, (f.sub, t) ∈ [(0#2, n32), (1#2, i32), (2#2, n64), (3#2, i64)] → ∃ (u : State) (w' : Wave) (v : Nat → Nat), exec (.shr h f) s = .next u ∧
      Computes s h w (fun l => block f.d.toNat (t.w / 32) (v l)) noPred noFlag u w' ∧
      ∀ l, v l < 2 ^ t.w ∧ t.read (v l) = t.read (intA h f w t.w l) / 2 ^ n l) ∧
    (∀ wd, (f.sub, wd) ∈ [(0#2, 32), (1#2, 64)] → ∃ (u : State) (w' : Wave) (v : Nat → Nat), exec (.rot h f) s = .next u ∧
      Computes s h w (fun l => block f.d.toNat (wd / 32) (v l)) noPred noFlag u w' ∧
      ∀ l, v l < 2 ^ wd ∧ ∀ i < wd, (v l).testBit ((i + n l) % wd) = (intA h f w wd l).testBit i) ∧
    (∀ low, (f.sub, low) ∈ [(0#2, 32), (1#2, 0)] → ∃ u w', exec (.funnel h f) s = .next u ∧
      Computes s h w (fun l => block f.d.toNat 1
        (let x := intA h f w 32 l * 2 ^ 32 + n l
         let k := intC f w 32 l % 32
         (if low = 32 then x * 2 ^ k else x / 2 ^ k) / 2 ^ low % 2 ^ 32)) noPred noFlag u w')

/-- 08 R166: BFE takes bits pos to pos + len − 1 of a, a bit above 31 reading as the type gives it, extended from the field's top bit
or by zeros; BFI puts the low bits of b in their place. Position and length are clamped to 32. -/
def Sys2Proof.Claims.BitFields : Prop :=
  ∀ (h : Hdr) (f : VFields) (s : State) (w : Wave), Issuing s w →
    (∀ sg : Bool, (f.sub, sg) ∈ [(0#2, false), (1#2, true)] → ∃ (u : State) (w' : Wave) (v : Nat → Nat), exec (.bfe h f) s = .next u ∧
      Computes s h w (fun l => block f.d.toNat 1 (v l)) noPred noFlag u w' ∧
      ∀ l, v l < 2 ^ 32 ∧ ∀ i < 32, (v l).testBit i =
        (let a := intA h f w 32 l
         let pos := min (intB h f w 32 l % 256) 32
         let len := min (intC f w 32 l % 256) 32
         let src (k : Nat) : Bool := if k < 32 then a.testBit k else sg && a.testBit 31
         if i < len then src (pos + i) else len != 0 && sg && src (pos + len - 1))) ∧
    (f.sub = 0#2 → ∃ (u : State) (w' : Wave) (v : Nat → Nat), exec (.bfi h f) s = .next u ∧
      Computes s h w (fun l => block f.d.toNat 1 (v l)) noPred noFlag u w' ∧
      ∀ l, v l < 2 ^ 32 ∧ ∀ i < 32, (v l).testBit i =
        (let pos := min (intC f w 32 l % 256) 32
         let len := min (intC f w 32 l / 256 % 256) 32
         if pos ≤ i ∧ i < pos + len then (intB h f w 32 l).testBit (i - pos) else (intA h f w 32 l).testBit i))

/-- 08 R167: POPC counts one bits, CLZ leading zero bits, both into one register; BREV reverses the order of the bits. -/
def Sys2Proof.Claims.BitCounts : Prop :=
  ∀ (h : Hdr) (f : VFields) (s : State) (w : Wave) (wd : Nat), Issuing s w → (f.sub, wd) ∈ [(0#2, 32), (1#2, 64)] →
    (∃ u w', exec (.popc h f) s = .next u ∧
      Computes s h w (fun l => block f.d.toNat 1 ((List.range wd).countP (intA h f w wd l).testBit)) noPred noFlag u w') ∧
    (∃ (u : State) (w' : Wave) (v : Nat → Nat), exec (.clz h f) s = .next u ∧ Computes s h w (fun l => block f.d.toNat 1 (v l)) noPred noFlag u w' ∧
      ∀ l, v l ≤ wd ∧ (∀ i < v l, (intA h f w wd l).testBit (wd - 1 - i) = false) ∧
        (v l < wd → (intA h f w wd l).testBit (wd - 1 - v l) = true)) ∧
    (∃ (u : State) (w' : Wave) (v : Nat → Nat), exec (.brev h f) s = .next u ∧ Computes s h w (fun l => block f.d.toNat (wd / 32) (v l)) noPred noFlag u w' ∧
      ∀ l, v l < 2 ^ wd ∧ ∀ i < wd, (v l).testBit i = (intA h f w wd l).testBit (wd - 1 - i))

/-- Bitwise functions, shifts and rotates, bit fields and bit counts, with their frame: all of the statements just named hold. -/
def Obligations.BitFunctions : Prop :=
  Claims.BitwiseFunctions ∧ Claims.ShiftsAndRotates ∧ Claims.BitFields ∧ Claims.BitCounts

/-- 08 R168: ICMP writes pD with the condition of 03 R58, SEL takes a or b by a predicate that C[3] negates, MOV copies A. -/
def Sys2Proof.Claims.CompareSelectMove : Prop :=
  ∀ (h : Hdr) (f : VFields) (s : State) (w : Wave) (wd : Nat), Issuing s w → (f.sub, wd) ∈ [(0#2, 32), (1#2, 64)] →
    (∃ u w', exec (.icmp h f) s = .next u ∧
      Computes s h w noReg (fun l => onePred (f.d.toNat % 8)
        (condHolds (f.c.toNat % 16) wd (intA h f w wd l) (intB h f w wd l))) noFlag u w') ∧
    (∃ u w', exec (.sel h f) s = .next u ∧
      Computes s h w (fun l => block f.d.toNat (wd / 32)
        (if (w.lane l).pred (f.c.toNat % 8) ≠ f.c.getLsbD 3 then intA h f w wd l else intB h f w wd l)) noPred noFlag u w') ∧
    (∃ u w', exec (.mov h f) s = .next u ∧
      Computes s h w (fun l => block f.d.toNat (wd / 32) (intA h f w wd l)) noPred noFlag u w')

/-- 08 R169: LEA, IDP4 and SAD. LEA.64 sign-extends its 32-bit b; a dot product or a sum of differences is exact before SAT. -/
def Sys2Proof.Claims.AddressDotAndDifference : Prop :=
  ∀ (h : Hdr) (f : VFields) (s : State) (w : Wave), Issuing s w →
    (∀ wd, (f.sub, wd) ∈ [(0#2, 32), (1#2, 64)] → ∃ (u : State) (w' : Wave) (v : Nat → Nat), exec (.lea h f) s = .next u ∧
      Computes s h w (fun l => block f.d.toNat (wd / 32) (v l)) noPred noFlag u w' ∧
      ∀ l, v l < 2 ^ wd ∧ ((2 ^ wd : Nat) : Int) ∣
        (v l : Int) - (intA h f w wd l + (if wd = 64 then i32.read (intB h f w 32 l) else (intB h f w 32 l : Int)) * 2 ^ (f.c.toNat % 64))) ∧
    (∀ sa sb : Bool, (f.sub, sa, sb) ∈ [(0#2, true, true), (1#2, false, false), (2#2, true, false)] →
      let t : IFmt := if sa then i32 else n32
      let byte (sg : Bool) (x j : Nat) : Int := ({ w := 8, signed := sg } : IFmt).read (x / 2 ^ (8 * j))
      let dot (a b : Nat) : Int := byte sa a 0 * byte sb b 0 + byte sa a 1 * byte sb b 1 + byte sa a 2 * byte sb b 2 + byte sa a 3 * byte sb b 3
      ∃ (u : State) (w' : Wave) (v : Nat → Nat) (fl : Nat → Flags), exec (.idp4 h f) s = .next u ∧ Computes s h w (fun l => block f.d.toNat 1 (v l)) noPred fl u w' ∧
        ∀ l, IntResult t f.sat (t.read (intC f w 32 l) + dot (intA h f w 32 l) (intB h f w 32 l)) (v l) (fl l)) ∧
    (∀ k, (f.sub, k) ∈ [(0#2, 8), (1#2, 16)] →
      let part (x j : Nat) : Int := ((x / 2 ^ (k * j) % 2 ^ k : Nat) : Int)
      let diff (a b : Nat) : Int := ((List.range (32 / k)).map (fun j => ((part a j - part b j).natAbs : Int))).sum
      ∃ (u : State) (w' : Wave) (v : Nat → Nat) (fl : Nat → Flags), exec (.sad h f) s = .next u ∧ Computes s h w (fun l => block f.d.toNat 1 (v l)) noPred fl u w' ∧
        ∀ l, IntResult n32 f.sat (intC f w 32 l + diff (intA h f w 32 l) (intB h f w 32 l)) (v l) (fl l))

/-- ICMP, SEL, MOV, LEA, IDP4 and SAD: all of the statements just named hold. -/
def Obligations.ComparesMovesAddresses : Prop :=
  Claims.CompareSelectMove ∧ Claims.AddressDotAndDifference

/-! ### Operand forms and scalar instructions (02 R25 to R28, 08 R170 to R172) -/

/-- The F64 operand that an F32 immediate stands for (02 R26): the same value, and a NaN with its sign and its 23 fraction bits on top. -/
def Sys2Proof.Safety.WidenedImm (x : BitVec 32) (v : Nat) : Prop :=
  ((fdecode .f32 x.toNat).isNaN = false → v < 2 ^ 64 ∧ SameValue (fdecode .f64 v) (fdecode .f32 x.toNat)) ∧
  ((fdecode .f32 x.toNat).isNaN = true → v = (x.extractLsb' 31 1 ++ 0x7FF#11 ++ x.extractLsb' 0 23 ++ 0#29).toNat)

/-- What a source of Format V reads under its kind (02 R25, R26): `r` gives one register, `x` its half of the extension word. -/
def Sys2Proof.Safety.SourceReads (k : Kind) (v s : Nat → Nat) (x : Option (BitVec 32)) (r : Nat → ImmTy → Nat) : Prop :=
  (k = .vec → ∀ ty, r 1 ty = v 0 ∧ r 2 ty = v 0 + 2 ^ 32 * v 1) ∧
  (k = .sca → ∀ ty, r 1 ty = s 0 ∧ r 2 ty = s 0 + 2 ^ 32 * s 1) ∧
  (k = .zero → ∀ n ty, r n ty = 0) ∧
  ∀ i, k = .imm → x = some i → r 1 .plain = i.toNat ∧ r 2 .s64 = (i.signExtend 64).toNat ∧ WidenedImm i (r 2 .f64)

/-- 02 R25 and R26: what a source of Format V reads under each kind: a block of vector registers, a block of scalar registers, zero, or
the immediate of the extension word, A from X[31:0] and B from X[63:32], sign-extended for a 64-bit integer operation and converted for an
F64 one; the register kinds and zero whether or not there is an extension word. 02 R27: source B of Format S is a register or a pair, or
IMM16, sign-extended or zero-extended, or the extension word's X[31:0] in its stead. -/
def Sys2Proof.Claims.OperandKinds : Prop :=
  (∀ (h : Hdr) (f : VFields) (w : Wave) (ln : Lane),
    SourceReads f.ka (fun k => ln.vr (f.a.toNat + k)) (fun k => w.sr (f.a.toNat + k)) (h.x.map (fun x => x.extractLsb' 0 32)) (srcA h f w ln) ∧
    SourceReads f.kb (fun k => ln.vr (f.b.toNat + k)) (fun k => w.sr (f.b.toNat + k)) (h.x.map (fun x => x.extractLsb' 32 32)) (srcB h f w ln) ∧
    (f.kc = true → ∀ n, srcC f ln n = 0) ∧
    (f.kc = false → srcC f ln 1 = ln.vr f.c.toNat ∧ srcC f ln 2 = ln.vr f.c.toNat + 2 ^ 32 * ln.vr (f.c.toNat + 1))) ∧
  (∀ (h : Hdr) (f : SFields) (w : Wave) (wide zx : Bool),
    scaA f w wide = w.sr f.a.toNat + (if wide then 2 ^ 32 * w.sr (f.a.toNat + 1) else 0) ∧
    (f.ik = false → scaB h f w wide zx = w.sr f.b.toNat + (if wide then 2 ^ 32 * w.sr (f.b.toNat + 1) else 0)) ∧
    (f.ik = true → h.x = none → scaB h f w wide zx =
      if zx then f.imm.toNat else if wide then (f.imm.signExtend 64).toNat else (f.imm.signExtend 32).toNat) ∧
    ∀ x : Word, f.ik = true → h.x = some x → scaB h f w wide zx =
      if wide then ((x.extractLsb' 0 32).signExtend 64).toNat else (x.extractLsb' 0 32).toNat)

/-- The address of Format M: the base, a pair for a global and one register for a local address, and the signed offset of the word or
of the extension word (02 R28, 06 R120). -/
def Sys2Proof.Claims.AddressForms : Prop :=
  ∀ (h : Hdr) (f : MFields) (w : Wave) (ln : Lane),
    let off : Int := match h.x with
      | some x => (x.extractLsb' 0 32).toInt
      | none => f.off.toInt
    globalEa h f w ln = (if f.ak then w.sr f.a.toNat + 2 ^ 32 * w.sr (f.a.toNat + 1)
      else ln.vr f.a.toNat + 2 ^ 32 * ln.vr (f.a.toNat + 1) : Nat) + off ∧
    localEa h f w ln = (if f.ak then w.sr f.a.toNat else ln.vr f.a.toNat : Nat) + off

/-- What each operand kind of Format V reads, and the address of Format M: all of the statements just named hold. -/
def Obligations.OperandForms : Prop :=
  Claims.OperandKinds ∧ Claims.AddressForms

/-- The scalar instructions of 08 R171 that have two sources, with their exact results modulo 2^w. -/
def Sys2Proof.Safety.scaOps (h : Hdr) (f : SFields) : List (Instr × (Int → Int → Int)) :=
  [(.sadd h f, fun a b => a + b), (.ssub h f, fun a b => a - b), (.smul h f, fun a b => a * b), (.smov h f, fun _ b => b),
   (.sshl h f, fun a b => a * 2 ^ (b.toNat % 2 ^ 32))]

/-- 08 R170 and R171: SADD, SSUB, SMUL, SMOV and SSHL wrap modulo 2^w; once per issue, whatever lanes are in it. -/
def Sys2Proof.Claims.ScalarArithmetic : Prop :=
  ∀ (h : Hdr) (f : SFields) (s : State) (w : Wave) (wd : Nat), Issuing s w → (f.sub, wd) ∈ [(0#2, 32), (1#2, 64)] →
    ∀ q ∈ scaOps h f, ∃ (u : State) (w' : Wave) (v : Nat), exec q.1 s = .next u ∧
      ScalarStep s h w f.d.toNat (wd / 32) v u w' ∧ v < 2 ^ wd ∧
      ((2 ^ wd : Nat) : Int) ∣ (v : Int) - q.2 (scaA f w (wd = 64)) (scaB h f w (wd = 64) false)

/-- 08 R171: SAND, SOR and SXOR bit by bit, with a zero-extended IMM16. -/
def Sys2Proof.Claims.ScalarBitwise : Prop :=
  ∀ (h : Hdr) (f : SFields) (s : State) (w : Wave) (wd : Nat), Issuing s w → (f.sub, wd) ∈ [(0#2, 32), (1#2, 64)] →
    ∀ q ∈ [(Instr.sand h f, fun a b => a && b), (Instr.sor h f, fun a b => a || b), (Instr.sxor h f, fun a b => a != b)],
      ∃ (u : State) (w' : Wave) (v : Nat), exec q.1 s = .next u ∧ ScalarStep s h w f.d.toNat (wd / 32) v u w' ∧
        ∀ i, v.testBit i = q.2 ((scaA f w (wd = 64)).testBit i) ((scaB h f w (wd = 64) true).testBit i)

/-- 08 R171: SSHR, SBFE, SFF1, SPOPC, SLEA and SSEL; SSEL takes a by the predicate of the lowest lane of the issue. -/
def Sys2Proof.Claims.ScalarBitsAndSelect : Prop :=
  ∀ (h : Hdr) (f : SFields) (s : State) (w : Wave), Issuing s w →
    (∀ t : IFmt, (f.sub, t) ∈ [(0#2, n32), (1#2, i32)] →
      (∃ (u : State) (w' : Wave) (v : Nat), exec (.sshr h f) s = .next u ∧ ScalarStep s h w f.d.toNat 1 v u w' ∧
        v < 2 ^ 32 ∧ t.read v = t.read (scaA f w false) / 2 ^ scaB h f w false false) ∧
      (∃ (u : State) (w' : Wave) (v : Nat), exec (.sbfe h f) s = .next u ∧ ScalarStep s h w f.d.toNat 1 v u w' ∧
        v < 2 ^ 32 ∧ ∀ i < 32, v.testBit i =
          (let b := scaB h f w false true
           let pos := min (b % 256) 32
           let len := min (b / 256 % 256) 32
           let src (k : Nat) : Bool := if k < 32 then (scaA f w false).testBit k else t.signed && (scaA f w false).testBit 31
           if i < len then src (pos + i) else len != 0 && t.signed && src (pos + len - 1)))) ∧
    (∀ wd, (f.sub, wd) ∈ [(0#2, 32), (1#2, 64)] →
      let a : Nat := scaA f w (wd = 64)
      let b : Nat := w.sblock f.b.toNat (wd / 32)
      (∃ (u : State) (w' : Wave) (v : Nat), exec (.sff1 h f) s = .next u ∧ ScalarStep s h w f.d.toNat (wd / 32) v u w' ∧
        v ≤ wd ∧ (∀ i < v, a.testBit i = false) ∧ (v < wd → a.testBit v = true)) ∧
      (∃ (u : State) (w' : Wave), exec (.spopc h f) s = .next u ∧
        ScalarStep s h w f.d.toNat (wd / 32) ((List.range wd).countP a.testBit) u w') ∧
      (∃ (u : State) (w' : Wave), exec (.slea h f) s = .next u ∧
        ScalarStep s h w f.d.toNat (wd / 32) ((a + b * 2 ^ (f.imm.toNat % 64)) % 2 ^ wd) u w') ∧
      (∀ l, s.cur.mask.getLsbD l = true → (∀ k < l, s.cur.mask.getLsbD k = false) →
        ∃ (u : State) (w' : Wave), exec (.ssel h f) s = .next u ∧
          ScalarStep s h w f.d.toNat (wd / 32) (if (w.lane l).pred (f.imm.toNat % 8) then a else b) u w'))

/-- 08 R172: SCMP writes pD in every lane of the issue, whatever their guards (a lane of the issue takes part as if GP were 7), and in no
other lane. -/
def Sys2Proof.Claims.ScalarCompare : Prop :=
  ∀ (h : Hdr) (f : SFields) (s : State) (w : Wave) (wd : Nat), Issuing s w → (f.sub, wd) ∈ [(0#2, 32), (1#2, 64)] →
    ∃ (u : State) (w' : Wave), exec (.scmp h f) s = .next u ∧
      Computes s { h with gp := 7 } w noReg (fun _ => onePred (f.d.toNat % 8)
        (condHolds (f.d.toNat / 8 % 16) wd (scaA f w (wd = 64)) (scaB h f w (wd = 64) false))) noFlag u w'

/-- The scalar instructions write once per issue; SCMP writes its predicate in the lanes of the issue: all of the statements just named hold. -/
def Obligations.ScalarInstructions : Prop :=
  Claims.ScalarArithmetic ∧ Claims.ScalarBitwise ∧ Claims.ScalarBitsAndSelect ∧ Claims.ScalarCompare

/-! ### Rounding and exact values (07 R135 to R139, 09 R187, R188) -/

/-- 07 R138: rint takes a magnitude n/d to a neighbouring integer: nearest with ties to even under RN, toward zero under RZ, upward
under RP and downward under RM by the sign of the value. -/
def Sys2Proof.Claims.RintRounds : Prop :=
  ∀ (neg : Bool) (n d : Nat), 0 < d →
    (let r := rintMag .rn neg n d
     2 * ((r * d : Nat) - (n : Int)).natAbs ≤ d ∧ (2 * ((r * d : Nat) - (n : Int)).natAbs = d → r % 2 = 0)) ∧
    (let r := rintMag .rz neg n d
     r * d ≤ n ∧ n < (r + 1) * d) ∧
    (∀ m, (m, neg) ∈ [(Rnd.rp, false), (Rnd.rm, true)] → n ≤ rintMag m neg n d * d ∧ rintMag m neg n d * d < n + d) ∧
    (∀ m, (m, neg) ∈ [(Rnd.rp, true), (Rnd.rm, false)] → rintMag m neg n d = rintMag .rz neg n d)

/-- 07 R135: every code of a floating format that is no NaN is the code of its own value. -/
def Sys2Proof.Claims.FormatRoundTrip : Prop :=
  ∀ (t : Fmt) (c : Nat), c < 2 ^ t.width → (fdecode t c).isNaN = false → fencode t (fdecode t c) = c

/-- 07 R135, R138, R139 and R142: round_to of an exact value in every floating format: NaN, infinities and zeros; a non-zero value gives the code
of its rounding with NX and UF, or beyond the largest finite value the overflow result of its mode with OF and NX. -/
def Sys2Proof.Claims.RoundedResults : Prop :=
  ∀ (t : Fmt) (m : Rnd), (∀ q, roundTo t m (.nan q) = (t.canonNaN, 0#8)) ∧ t.canonNaN / 2 ^ (t.width - 1) = 0 ∧ fdecode t t.canonNaN = .nan false ∧
    (∀ s, roundTo t m (.inf s) = (t.infCode s, 0#8) ∧ fdecode t (t.infCode s) = .inf s) ∧
    (∀ s d, roundTo t m (.fin s 0 d) = (if s then 2 ^ (t.width - 1) else 0, 0#8)) ∧
    ∀ (s : Bool) (n d : Nat), 0 < n → 0 < d → ∃ y : Rat, Rounds (t.frac + 1) t.emin m s (mkRat n d) y ∧
      let top : Rat := twoTo (t.bias + 1) - twoTo (t.bias - t.frac)
      let r := roundTo t m (.fin s n d)
      r.1 < 2 ^ t.width ∧
      (y ≤ top → IsNumber (fdecode t r.1) s y ∧ r.2 = roundingFlags t.emin (mkRat n d) y) ∧
      (top < y → (if toInfinity m s then fdecode t r.1 = .inf s else IsNumber (fdecode t r.1) s top) ∧ r.2 = fOF ||| fNX)

/-- 07 R141: flush_in and flush_out change a subnormal code alone, to the zero of its sign; only flush_out adds flags, UF and NX. -/
def Sys2Proof.Claims.Flushing : Prop :=
  ∀ (t : Fmt) (z : Bool) (c : Nat) (fl : Flags), c < 2 ^ t.width →
    let small : Prop := ∃ s y, IsNumber (fdecode t c) s y ∧ 0 < y ∧ y < twoTo t.emin
    let naught : Nat := c / 2 ^ (t.width - 1) * 2 ^ (t.width - 1)
    (z = true → small → flushIn t z c = naught ∧ flushOut t z (c, fl) = (naught, fl ||| fUF ||| fNX)) ∧
    (¬ (z = true ∧ small) → flushIn t z c = c ∧ flushOut t z (c, fl) = (c, fl))

/-- 07 R147: a code of a valid narrow format whose value is no NaN encodes from its own value, in every mode and without a flag, unless it is
one of the codes that SUBN = 0 makes zeros. -/
def Sys2Proof.Claims.NarrowRoundTrip : Prop :=
  ∀ (d : NfDesc) (m : Rnd) (c : Nat), d.valid = true → d.s < 2 → d.e < 8 → d.m < 8 → c < 2 ^ d.n → (nfDecode d c).isNaN = false →
    (d.e = 0 ∨ d.subn = true ∨ c % 2 ^ d.m = 0 ∨ c / 2 ^ d.m % 2 ^ d.e ≠ 0) → nfEncode d (nfDecode d c) m = (c, 0#8)

/-- 07 R148: nf_encode into a valid format with an exponent: NaN, negative values without a sign, infinities; a finite value rounds to a
neighbour, below 2^emin without subnormals to zero or 2^emin, and beyond the largest finite value as SAT and SPEC direct. -/
def Sys2Proof.Claims.NarrowEncoding : Prop :=
  ∀ (d : NfDesc) (m : Rnd), d.valid = true → d.s < 2 → 0 < d.e → d.e < 8 → d.m < 8 →
    let emin : Int := 1 - d.bias
    let topCode : Nat := if d.spec = 1 then 2 ^ (d.e + d.m) - 2 else if d.spec = 2 then 2 ^ (d.e + d.m) - 2 ^ d.m - 1 else 2 ^ (d.e + d.m) - 1
    let signed (s : Bool) (c : Nat) : Nat := if s = true ∧ d.s = 1 then c + 2 ^ (d.e + d.m) else c
    let nan : Nat := if d.spec = 1 then 2 ^ (d.e + d.m) - 1 else 2 ^ (d.e + d.m) - 2 ^ d.m + 2 ^ (d.m - 1)
    let inf : Nat := 2 ^ (d.e + d.m) - 2 ^ d.m
    (∀ q, nfEncode d (.nan q) m = if d.spec = 1 ∨ (d.spec = 2 ∧ 0 < d.m) then (nan, 0#8) else (0, fNV)) ∧
    (∀ s, nfEncode d (.inf s) m = if s = true ∧ d.s = 0 then (0, fNV) else if d.spec = 2 then (signed s inf, 0#8)
      else if d.sat = 0 ∨ d.spec = 0 then (signed s topCode, fNV) else (nan, fNV)) ∧
    (∀ s k, nfEncode d (.fin s 0 k) m = (signed s 0, 0#8)) ∧
    ∀ (s : Bool) (n k : Nat), 0 < n → 0 < k →
      let x : Rat := mkRat n k
      let r := nfEncode d (.fin s n k) m
      (s = true → d.s = 0 → r = (0, fNV)) ∧
      ((s = true → d.s = 1) → d.subn = false → x < twoTo emin →
        let up : Bool := match m with
          | .rn => decide (twoTo (emin - 1) < x)
          | .rz => false
          | .rp => !s
          | .rm => s
        if up then IsNumber (nfDecode d r.1) s (twoTo emin) ∧ r.2 = fNX else r = (signed s 0, fNX ||| fUF)) ∧
      ((s = true → d.s = 1) → (d.subn = true ∨ twoTo emin ≤ x) → ∃ y top : Rat, Rounds (d.m + 1) emin m s x y ∧ IsNumber (nfDecode d topCode) false top ∧
        (y ≤ top → IsNumber (nfDecode d r.1) s y ∧ r.2 = roundingFlags emin x y) ∧
        (top < y → r.2 = fOF ||| fNX ∧ r.1 = if d.sat = 0 ∨ d.spec = 0 ∨ toInfinity m s = false then signed s topCode
          else if d.spec = 1 then nan else signed s inf))

/-- 07 R148, step 4: a narrow format without an exponent takes x × 2^BIAS rounded to an integer, with NX, or the nearest end with NV. -/
def Sys2Proof.Claims.NarrowFixedPoint : Prop :=
  ∀ (d : NfDesc) (m : Rnd) (s : Bool) (n k : Nat), d.valid = true → d.s < 2 → d.e = 0 → d.m < 8 → 0 < k →
    let t : IFmt := { w := d.n, signed := d.s == 1 }
    let x : Rat := mkRat n k * twoTo d.bias
    let r := nfEncode d (.fin s n k) m
    (s = true → d.s = 0 → n ≠ 0 → r = (0, fNV)) ∧
    ((s = true → d.s = 1 ∨ n = 0) → ∃ a b : Nat, 0 < b ∧ x = mkRat a b ∧
      let z : Int := if s then -(rintMag m s a b : Int) else rintMag m s a b
      r.1 < 2 ^ d.n ∧ t.read r.1 = (if z < t.lo then t.lo else if t.hi < z then t.hi else z) ∧
      r.2 = if t.has z then (if mkRat (rintMag m s a b) 1 = x then 0#8 else fNX) else fNV)

/-- 07 R155: xacc_round takes the first row of its table that matches; otherwise FIELD × 2^−112 is rounded and flushed, with NX when UNF is
set. -/
def Sys2Proof.Claims.ExactAccumulatorRounding : Prop :=
  ∀ (t : Fmt) (m : Rnd) (z : Bool) (acc : Nat),
    let r := xaccRound acc t m z
    let field : Int := ((2 ^ 223 + acc) % 2 ^ 224 : Nat) - (2 ^ 223 : Int)
    if acc / 2 ^ 229 % 2 ^ 27 ≠ 0 then r = (t.canonNaN, fNV)
    else if acc.testBit 226 then r = (t.canonNaN, 0#8)
    else if acc.testBit 227 && acc.testBit 228 then r = (t.canonNaN, fNV)
    else if acc.testBit 227 then r = (t.infCode false, 0#8)
    else if acc.testBit 228 then r = (t.infCode true, 0#8)
    else if acc.testBit 225 then r = (t.canonNaN, fNV)
    else ∃ v : Val, v = .fin (decide (field < 0)) field.natAbs (2 ^ 112) ∧
      let q := flushOut t z (roundTo t m v)
      r = (q.1, q.2 ||| (if acc.testBit 224 then fNX else 0#8))

/-- 09 R187 and R188: a sum of finite addends is exact, and a zero sum has the sign of the rule; a NaN addend gives a NaN, opposed
infinities an invalid NaN, any other infinity itself. -/
def Sys2Proof.Claims.ExactSums : Prop :=
  ∀ (m : Rnd) (l : List Val),
    ((∀ v ∈ l, ∃ sg n d, v = .fin sg n d ∧ 0 < d) → ∃ sg n d, Val.sum m l = (.fin sg n d, false) ∧ 0 < d ∧
      Safety.Val.rat (.fin sg n d) = (l.map Safety.Val.rat).sum ∧
      (n = 0 → ∀ z, l ≠ [] → (∀ v ∈ l, v.isZero = true ∧ v.isNeg = z) → sg = z) ∧
      (n = 0 → ¬ (l ≠ [] ∧ ∃ z, ∀ v ∈ l, v.isZero = true ∧ v.isNeg = z) → (sg = true ↔ m = .rm))) ∧
    ((∃ v ∈ l, v.isNaN = true) → Val.sum m l = (.nan false, false)) ∧
    ((∀ v ∈ l, v.isNaN = false) → .inf true ∈ l → .inf false ∈ l → Val.sum m l = (.nan false, true)) ∧
    (∀ z, (∀ v ∈ l, v.isNaN = false) → .inf z ∈ l → .inf (!z) ∉ l → Val.sum m l = (.inf z, false))

/-! ### Floating-point instructions (09 R189 to R200) -/

/-- 09 R189: FADD, FSUB, FMUL and FMA in every type deliver the exact sum or product of the flushed sources, rounded once; NV for a
signalling NaN, opposed infinities or 0 × ∞. -/
def Sys2Proof.Claims.FloatArithmetic : Prop :=
  ∀ (h : Hdr) (f : VFields) (s : State) (w : Wave) (t : Fmt) (n k : Nat), Issuing s w → (f.sub, t, n, k) ∈ fltTypes →
    FloatStep (.fadd h f) h f s w t n k (fun a b _ r =>
      let x := Val.sum f.rnd [fdecode t a, fdecode t b]
      Delivered f t x.1 (anySNaN [fdecode t a, fdecode t b] || x.2) r) ∧
    FloatStep (.fsub h f) h f s w t n k (fun a b _ r =>
      let x := Val.sum f.rnd [fdecode t a, (fdecode t b).negate]
      Delivered f t x.1 (anySNaN [fdecode t a, fdecode t b] || x.2) r) ∧
    FloatStep (.fmul h f) h f s w t n k (fun a b _ r =>
      let x := (fdecode t a).mul (fdecode t b)
      Delivered f t x.1 (anySNaN [fdecode t a, fdecode t b] || x.2) r) ∧
    FloatStep (.fma h f) h f s w t n k (fun a b c r =>
      let p := (fdecode t a).mul (fdecode t b)
      let x := Val.sum f.rnd [p.1, fdecode t c]
      Delivered f t x.1 (anySNaN [fdecode t a, fdecode t b, fdecode t c] || p.2 || x.2) r)

/-- 09 R190 to R192: FMIN, FMAX and FMED3 choose among the flushed operands, −0 below +0, a NaN as each rule says; FNEG and FABS change
the sign alone and make a NaN canonical. None rounds; flush_out applies. -/
def Sys2Proof.Claims.FloatSelections : Prop :=
  ∀ (h : Hdr) (f : VFields) (s : State) (w : Wave) (t : Fmt) (n k : Nat), Issuing s w → (f.sub, t, n, k) ∈ fltTypes →
    let le (x y : Nat) : Bool := !(fdecode t y).ltZ (fdecode t x)
    let num (x : Nat) : Bool := !(fdecode t x).isNaN
    let sn (l : List Nat) : Flags := if anySNaN (l.map (fdecode t)) then fNV else 0#8
    (∀ q ∈ [(Instr.fmin h f, le), (Instr.fmax h f, fun x y => le y x)], FloatStep q.1 h f s w t n k (fun a b _ r => ∃ c,
      r = flushOut t f.fzo (c, sn [a, b]) ∧
      (num a = true → num b = true → (c = a ∧ q.2 a b = true) ∨ (c = b ∧ q.2 b a = true)) ∧
      (num a = true → num b = false → c = a) ∧ (num a = false → num b = true → c = b) ∧
      (num a = false → num b = false → c = t.canonNaN))) ∧
    FloatStep (.fmed3 h f) h f s w t n k (fun a b c r =>
      (num a = true → num b = true → num c = true → ∃ m, r = flushOut t f.fzo (m, 0#8) ∧
        ∃ x y, [x, m, y].Perm [a, b, c] ∧ le x m = true ∧ le m y = true) ∧
      (num a = false ∨ num b = false ∨ num c = false → r = (t.canonNaN, sn [a, b, c]))) ∧
    FloatStep (.fneg h f) h f s w t n k (fun a _ _ r =>
      r = flushOut t f.fzo (if num a then a ^^^ 2 ^ (t.width - 1) else t.canonNaN, 0#8)) ∧
    FloatStep (.fabs h f) h f s w t n k (fun a _ _ r =>
      r = flushOut t f.fzo (if num a then a % 2 ^ (t.width - 1) else t.canonNaN, 0#8))

/-- 09 R193: FCMP writes one predicate an element by the fourteen conditions, with NV for a signalling NaN under every code and for a
quiet one under the ordering codes; and R198: FCLASS sets one bit an element in one register and no flag. -/
def Sys2Proof.Claims.FloatCompareAndClass : Prop :=
  ∀ (h : Hdr) (f : VFields) (s : State) (w : Wave) (t : Fmt) (n k : Nat), Issuing s w → (f.sub, t, n, k) ∈ fltTypes →
    let va (l j : Nat) : Val := fdecode t (fltIn f t (fltA h f w t l) j)
    let vb (l j : Nat) : Val := fdecode t (fltIn f t (fltB h f w t l) j)
    let code : Nat := f.c.toNat % 16
    let holds (a b : Val) : Bool :=
      let un := a.isNaN || b.isNaN
      let lt := a.ltB b
      let gt := b.ltB a
      let eq := !un && !lt && !gt
      [eq, lt || gt, lt, lt || eq, gt, gt || eq, un || eq, un || lt || gt, un || lt, un || lt || eq, un || gt, un || gt || eq, !un, un].getD code false
    (code < 14 → ∃ (u : State) (w' : Wave) (fl : Nat → Flags), exec (.fcmp h f) s = .next u ∧
      Computes s h w noReg (fun l p => if p < 7 ∧ f.d.toNat % 8 ≤ p ∧ p < f.d.toNat % 8 + n then
        some (holds (va l (p - f.d.toNat % 8)) (vb l (p - f.d.toNat % 8))) else none) fl u w' ∧
      ∀ l, fl l = if ∃ j < n, anySNaN [va l j, vb l j] = true ∨
        ((va l j).isNaN || (vb l j).isNaN) = true ∧ code ∈ [2, 3, 4, 5, 8, 9, 10, 11] then fNV else 0#8) ∧
    (let raw (l j : Nat) : Nat := fltA h f w t l / 2 ^ (t.width * j) % 2 ^ t.width
     let cls (c : Nat) : Nat :=
       let v := fdecode t c
       if v.isNaN then (if v.isSNaN then 8 else 9)
       else if v.isInf then (if v.isNeg then 0 else 7)
       else if v.isZero then (if v.isNeg then 3 else 4)
       else if isSubnormal t c then (if v.isNeg then 2 else 5)
       else (if v.isNeg then 1 else 6)
     ∃ (u : State) (w' : Wave), exec (.fclass h f) s = .next u ∧
       Computes s h w (fun l => block f.d.toNat 1 (2 ^ cls (raw l 0) + if n = 2 then 2 ^ (16 + cls (raw l 1)) else 0)) noPred noFlag u w')

/-- FADD, FSUB, FMUL, FMA, FMIN, FMAX, FMED3, FNEG, FABS, FCMP and FCLASS in every type: all of the statements just named hold. -/
def Obligations.FloatArithmetic : Prop :=
  Claims.FloatArithmetic ∧ Claims.FloatSelections ∧ Claims.FloatCompareAndClass

/-- 09 R194: FDIV, FSQRT, FRCP, FRSQ, FEX2, FLG2, FSIN and FCOS leave an outstanding result with the special values, NV and DZ of the
table; a quotient is exact before its one rounding, and an irrational value is the model's enclosure of it (log entry 9). -/
def Sys2Proof.Claims.FloatFunctions : Prop :=
  ∀ (h : Hdr) (f : VFields) (s : State) (w : Wave) (t : Fmt) (n k : Nat), Issuing s w → (f.sub, t, n, k) ∈ fltTypes → f.sat = false →
    let nan (fl : Flags) (r : Nat × Flags) : Prop := r = (t.canonNaN, fl)
    let is (x : Val) (fl : Flags) (r : Nat × Flags) : Prop :=
      let y := flushOut t f.fzo (roundTo t f.rnd x)
      r = (y.1, y.2 ||| fl)
    let sn (l : List Val) : Flags := if anySNaN l then fNV else 0#8
    FloatPromise (.fdiv h f) h f s w t n k (fun a b _ r => match fdecode t a, fdecode t b with
      | .nan p, y => nan (sn [.nan p, y]) r
      | x, .nan p => nan (sn [x, .nan p]) r
      | .inf _, .inf _ => nan fNV r
      | .inf p, .fin q _ _ => is (.inf (p != q)) 0#8 r
      | .fin p _ _, .inf q => is (.fin (p != q) 0 1) 0#8 r
      | .fin p m d, .fin q o e =>
        if o = 0 then (if m = 0 then nan fNV r else is (.inf (p != q)) fDZ r) else is (.fin (p != q) (m * e) (d * o)) 0#8 r) ∧
    FloatPromise (.frcp h f) h f s w t n k (fun a _ _ r => match fdecode t a with
      | .nan p => nan (sn [.nan p]) r
      | .inf p => is (.fin p 0 1) 0#8 r
      | .fin p m d => if m = 0 then is (.inf p) fDZ r else is (.fin p d m) 0#8 r) ∧
    FloatPromise (.fsqrt h f) h f s w t n k (fun a _ _ r => match fdecode t a with
      | .nan p => nan (sn [.nan p]) r
      | .inf p => if p then nan fNV r else is (.inf false) 0#8 r
      | .fin p m d => if m = 0 then is (.fin p m d) 0#8 r else if p then nan fNV r else is (sqrtVal m d) 0#8 r) ∧
    FloatPromise (.frsq h f) h f s w t n k (fun a _ _ r => match fdecode t a with
      | .nan p => nan (sn [.nan p]) r
      | .inf p => if p then nan fNV r else is (.fin false 0 1) 0#8 r
      | .fin p m d => if m = 0 then is (.inf p) fDZ r else if p then nan fNV r else is (sqrtVal d m) 0#8 r) ∧
    FloatPromise (.fex2 h f) h f s w t n k (fun a _ _ r => match fdecode t a with
      | .nan p => nan (sn [.nan p]) r
      | .inf p => is (if p then .fin false 0 1 else .inf false) 0#8 r
      | .fin p m d => (m = 0 → is (.fin false 1 1) 0#8 r) ∧ is (exp2Val (Val.fin p m d).snum d) 0#8 r) ∧
    FloatPromise (.flg2 h f) h f s w t n k (fun a _ _ r => match fdecode t a with
      | .nan p => nan (sn [.nan p]) r
      | .inf p => if p then nan fNV r else is (.inf false) 0#8 r
      | .fin p m d => if m = 0 then is (.inf true) fDZ r else if p then nan fNV r else is (log2Val m d) 0#8 r) ∧
    FloatPromise (.fsin h f) h f s w t n k (fun a _ _ r => match fdecode t a with
      | .nan p => nan (sn [.nan p]) r
      | .inf _ => nan fNV r
      | .fin p m d => if m % d = 0 then is (.fin p 0 1) 0#8 r else is (sinVal (Val.fin p m d).snum d) 0#8 r) ∧
    FloatPromise (.fcos h f) h f s w t n k (fun a _ _ r => match fdecode t a with
      | .nan p => nan (sn [.nan p]) r
      | .inf _ => nan fNV r
      | .fin p m d => if m = 0 then is (.fin false 1 1) 0#8 r
        else if 2 * m % (2 * d) = d then is (.fin false 0 1) 0#8 r else is (sinVal (2 * (Val.fin p m d).snum + d) (2 * d)) 0#8 r)

/-- The model's square root (log entry 9): exact where √(n/d) is a fraction with a power of two below it, else an odd numerator whose
neighbours enclose it, so that no rounding of 07 R138 can tell the two apart. -/
def Sys2Proof.Claims.SquareRootEnclosed : Prop :=
  ∀ n d : Nat, 0 < n → 0 < d → ∃ a b, sqrtVal n d = .fin false a b ∧
    (a * a * d = n * (b * b) ∨
      (a % 2 = 1 ∧ b = 2 ^ 1201 ∧ (a - 1) * (a - 1) * d < n * (b * b) ∧ n * (b * b) < (a + 1) * (a + 1) * d))

/-- 09 R194: where 2^a, log2 a, sin(πa) and cos(πa) are rational the model's values are exact: 2^k, the logarithm of a power of two, and a sine of
a quarter or a twelfth of a turn; the rest are the model's enclosures (log entry 9). -/
def Sys2Proof.Claims.ExactFunctionValues : Prop :=
  (∀ (k : Int) (d : Nat), 0 < d → k.natAbs ≤ 5000 → IsNumber (exp2Val (k * d) d) false (twoTo k)) ∧
  (∀ (k : Int) (n d : Nat), 0 < n → 0 < d → mkRat n d = twoTo k → log2Val n d = .fin (decide (k < 0)) k.natAbs 1) ∧
  ∀ (n j : Int) (d : Nat), 0 < d →
    (2 * n = (4 * j + 1) * d → sinVal n d = .fin false 1 1) ∧ (2 * n = (4 * j + 3) * d → sinVal n d = .fin true 1 1) ∧
    (6 * n = (12 * j + 1) * d ∨ 6 * n = (12 * j + 5) * d → sinVal n d = .fin false 1 2) ∧
    (6 * n = (12 * j + 7) * d ∨ 6 * n = (12 * j + 11) * d → sinVal n d = .fin true 1 2)

/-- FDIV, FSQRT, FRCP, FRSQ, FEX2, FLG2, FSIN and FCOS; an irrational value is the model's enclosure (log entry 9): all of the statements just
named hold. -/
def Obligations.FloatFunctions : Prop :=
  Claims.FloatFunctions ∧ Claims.SquareRootEnclosed ∧ Claims.ExactFunctionValues

/-- 09 R195 to R197: FRND rounds to an integer of the type with the sign kept, FFRAC takes a − ⌊a⌋ toward zero, FLDEXP scales by 2^n
with the integer operand as the type reads it. -/
def Sys2Proof.Claims.FloatIntegers : Prop :=
  ∀ (h : Hdr) (f : VFields) (s : State) (w : Wave) (t : Fmt) (n k : Nat), Issuing s w → (f.sub, t, n, k) ∈ fltTypes →
    FloatStep (.frnd h f) h f s w t n k (fun a _ _ r => match fdecode t a with
      | .nan p => r = (t.canonNaN, if p then fNV else 0#8)
      | .inf _ => r = (a, 0#8)
      | .fin p m d => r = flushOut t f.fzo (fencode t (.fin p (rintMag f.rnd p m d) 1), 0#8)) ∧
    FloatStep (.ffrac h f) h f s w t n k (fun a _ _ r => match fdecode t a with
      | .nan p => r = (t.canonNaN, if p then fNV else 0#8)
      | .inf _ => r = (t.canonNaN, fNV)
      | .fin p m d => ∃ m' : Nat, 0 < d → (m' : Int) = (Val.fin p m d).snum - (Val.fin p m d).snum / d * d ∧
          r = flushOut t f.fzo (roundTo t .rz (.fin false m' d))) ∧
    (f.sat = false → ∃ (u : State) (w' : Wave) (v : Nat → Nat) (fl : Nat → Flags) (e : Nat → Nat → Nat × Flags),
      exec (.fldexp h f) s = .next u ∧ Computes s h w (fun l => block f.d.toNat k (v l)) noPred fl u w' ∧
      ∀ l, Packed t n (e l) (v l) (fl l) ∧ ∀ j < n,
        let b := srcB h f w (w.lane l) 1 .plain
        let x := fdecode t (fltIn f t (fltA h f w t l) j)
        let z : Int := if n = 2 then ({ w := 16, signed := true } : IFmt).read (b / 2 ^ (16 * j)) else i32.read b
        ∃ y, e l j = (let q := flushOut t f.fzo (roundTo t f.rnd y); (q.1, q.2 ||| if x.isSNaN then fNV else 0#8)) ∧
          (x.isNaN = true ∨ x.isInf = true → y = x) ∧
          (∀ p m d, x = .fin p m d → z.natAbs ≤ 5000 →
            y = if z < 0 then .fin p m (d * 2 ^ z.natAbs) else .fin p (m * 2 ^ z.natAbs) d))

/-- 09 R199 and R200: FDOT2 adds two exact products and an F32 addend, FLERP forms a × (1 − t) + b × t exactly, each product one addend,
each rounded once; with KC = 1 the weight is +0, and an infinite or NaN b then leaves the value of a (log entry 10). -/
def Sys2Proof.Claims.FloatDotAndInterpolation : Prop :=
  ∀ (h : Hdr) (f : VFields) (s : State) (w : Wave) (t : Fmt) (n k : Nat), Issuing s w → (f.sub, t, n, k) ∈ fltTypes →
    (n = 2 → ∃ (u : State) (w' : Wave) (v : Nat → Nat) (fl : Nat → Flags), exec (.fdot2 h f) s = .next u ∧
      Computes s h w (fun l => block f.d.toNat 1 (v l)) noPred fl u w' ∧ ∀ l,
        let va (j : Nat) : Val := fdecode t (fltIn f t (fltA h f w t l) j)
        let vb (j : Nat) : Val := fdecode t (fltIn f t (fltB h f w t l) j)
        let c : Val := fdecode .f32 (flushIn .f32 f.fzi (fltC f w .f32 l))
        let x := Val.sum f.rnd [((va 0).mul (vb 0)).1, ((va 1).mul (vb 1)).1, c]
        Delivered f .f32 x.1 (anySNaN [va 0, va 1, vb 0, vb 1, c] || ((va 0).mul (vb 0)).2 || ((va 1).mul (vb 1)).2 || x.2) (v l, fl l)) ∧
    FloatStep (.flerp h f) h f s w t n k (fun a b c r =>
      let m := (Val.sum f.rnd [.fin false 1 1, (fdecode t c).negate]).1
      let p := (fdecode t a).mul m
      let q := (fdecode t b).mul (fdecode t c)
      let x := Val.sum f.rnd [p.1, q.1]
      let special := (fdecode t b).isNaN || (fdecode t b).isInf
      (f.kc = false ∨ special = false →
        Delivered f t x.1 (anySNaN [fdecode t a, fdecode t b, fdecode t c] || p.2 || q.2 || x.2) r) ∧
      (f.kc = true → special = true → Delivered f t (fdecode t a) (anySNaN [fdecode t a, fdecode t b]) r))

/-- FRND, FFRAC, FLDEXP, FDOT2 and FLERP (KC = 1 with an infinite or NaN b: log entry 10): all of the statements just named hold. Where the spec
leaves a point open this is the model's choice (log entries 52, 59). -/
def Obligations.FloatIntegersAndDots : Prop :=
  Claims.FloatIntegers ∧ Claims.FloatDotAndInterpolation

/-! ### Conversion and cross-lane instructions (07 R146, R153, 08 R173 to R182) -/

/-- 07 R146: the descriptors that are invalid. -/
def Sys2Proof.Claims.NarrowDescriptors : Prop :=
  ∀ x : BitVec 32, let n := (x.extractLsb' 6 1).toNat + (x.extractLsb' 0 3).toNat + (x.extractLsb' 3 3).toNat
    let spec := x.extractLsb' 16 2
    let e := x.extractLsb' 0 3
    let m := x.extractLsb' 3 3
    ((nfDesc x.toNat).valid = false ↔
      x.extractLsb' 21 11 ≠ 0#11 ∨ x.getLsbD 7 = true ∨ 8 < n ∨ n = 0 ∨ spec = 3#2 ∨ x.getLsbD 20 = true ∨
      (e = 0#3 ∧ (spec ≠ 0#2 ∨ x.getLsbD 18 = true)) ∨ (spec = 1#2 ∧ e.toNat + m.toNat < 2) ∨ (spec = 2#2 ∧ e.toNat < 2))

/-- 07 R153: additions into an exact accumulator give the same image in either order, so in any order. -/
def Sys2Proof.Claims.ExactAccumulatorOrder : Prop :=
  (∀ (a : Nat) (x y : Val), xaccAdd (xaccAdd a x) y = xaccAdd (xaccAdd a y) x) ∧
  ∀ (acc : Nat),
    let c := if acc / 2 ^ 229 % 2 ^ 27 ≠ 0 then acc % 2 ^ 229 ||| 2 ^ 226 else acc
    (∀ g, xaccAdd acc (.nan g) = c ||| 2 ^ 226) ∧ xaccAdd acc (.inf false) = c ||| 2 ^ 227 ∧ xaccAdd acc (.inf true) = c ||| 2 ^ 228 ∧
    ∀ (g : Bool) (n d : Nat), 0 < d →
      let q : Int := (n * 2 ^ 112 / d : Nat)
      let t : Int := if g then -q else q
      let u := if d ∣ n * 2 ^ 112 then c else c ||| 2 ^ 224
      xaccAdd acc (.fin g n d) = if t < -(2 ^ 223 : Int) ∨ (2 ^ 223 : Int) ≤ t then u ||| 2 ^ 225
        else u / 2 ^ 224 % 32 * 2 ^ 224 + (((u % 2 ^ 224 : Nat) + t) % (2 ^ 224 : Int)).toNat

/-- Rounding, flushing, number formats, narrow encodings, exact sums, and exact accumulation with its rounding: all of the statements just named
hold. -/
def Obligations.NumberFormats : Prop :=
  Claims.RintRounds ∧ Claims.FormatRoundTrip ∧ Claims.RoundedResults ∧ Claims.Flushing ∧ Claims.NarrowRoundTrip ∧
  Claims.NarrowEncoding ∧ Claims.NarrowFixedPoint ∧ Claims.ExactAccumulatorRounding ∧ Claims.ExactSums ∧ Claims.NarrowDescriptors ∧
  Claims.ExactAccumulatorOrder

/-- 08 R173: CVT converts the exact value of its source, rounded once into the destination type; 08 R174, 07 R146: with an invalid
descriptor in a lane that takes part it traps with cause group ILLEGAL, reason 8, and writes nothing. -/
def Obligations.Conversion : Prop :=
  ∀ (h : Hdr) (f : VFields) (s : State) (w : Wave) (src dst : CvtType), Issuing s w →
    (f.c.toNat % 16, src) ∈ cvtCodes → (f.c.toNat / 16 % 16, dst) ∈ cvtCodes → ¬ (src = .nf ∧ dst = .nf) →
    let desc (l : Nat) : NfDesc := nfDesc (srcB h f w (w.lane l) 1 .plain)
    ((src ≠ .nf ∧ dst ≠ .nf ∨ ∀ l, takes s h w l = true → (desc l).valid = true) →
      ∃ (u : State) (w' : Wave) (v : Nat → Nat) (fl : Nat → Flags), exec (.cvt h f) s = .next u ∧
        Computes s h w (fun l => block f.d.toNat (if cvtBits dst = 64 then 2 else 1) (v l)) noPred fl u w' ∧ ∀ l,
          let raw : Nat := srcA h f w (w.lane l) (if cvtBits src = 64 then 2 else 1)
            (if src = .flt .f64 then .f64 else if cvtBits src = 64 then .s64 else .plain)
          let x : Val := match src with
            | .flt t => fdecode t (flushIn t f.fzi (raw % 2 ^ t.width))
            | .int t => .fin (decide (t.read raw < 0)) (t.read raw).natAbs 1
            | .nf => nfDecode (desc l) raw
          let sn : Flags := match src with
            | .flt _ => if x.isSNaN then fNV else 0#8
            | _ => 0#8
          match dst with
          | .flt t => let y := flushOut t f.fzo (roundTo t f.rnd x)
            v l = y.1 ∧ fl l = sn ||| y.2
          | .int t => ((2 ^ (if t.w = 64 then 64 else 32) : Nat) : Int) ∣ (v l : Int) - (roundInt t f.rnd x).1 ∧
            v l < 2 ^ (if t.w = 64 then 64 else 32) ∧ fl l = sn ||| (roundInt t f.rnd x).2
          | .nf => v l = (nfEncode (desc l) x f.rnd).1 ∧ fl l = sn ||| (nfEncode (desc l) x f.rnd).2) ∧
    (src = .nf ∨ dst = .nf → (∃ l, takes s h w l = true ∧ (desc l).valid = false) →
      exec (.cvt h f) s = .next (s.illegal h (.cvt h f) 8))

/-- 08 R174: PACK and UNPACK move between k registers and one register of k fields, code or field j at bit jn; the .NF forms check the
descriptor (reason 8), then the block (reason 7), over the lanes that take part. -/
def Sys2Proof.Claims.PackAndUnpack : Prop :=
  ∀ (h : Hdr) (f : VFields) (s : State) (w : Wave), Issuing s w →
    let desc (l : Nat) : NfDesc := nfDesc (srcB h f w (w.lane l) 1 .plain)
    let per (l : Nat) : Nat := 32 / (desc l).n
    let a (l j : Nat) : Nat := (w.lane l).vr (f.a.toNat + j)
    let good (idx : Nat) : Prop := ∀ l, takes s h w l = true → (desc l).valid = true ∧ s.badBlock idx (per l) = false
    let bad (idx : Nat) (i : Instr) : Prop :=
      ((∃ l, takes s h w l = true ∧ (desc l).valid = false) → exec i s = .next (s.illegal h i 8)) ∧
      ((∀ l, takes s h w l = true → (desc l).valid = true) → (∃ l, takes s h w l = true ∧ s.badBlock idx (per l) = true) →
        exec i s = .next (s.illegal h i 7))
    (f.sub = 0#2 → bad f.a.toNat (.pack h f) ∧ bad f.d.toNat (.unpack h f) ∧
      (good f.a.toNat → ∃ (u : State) (w' : Wave) (v : Nat → Nat) (fl : Nat → Flags), exec (.pack h f) s = .next u ∧
        Computes s h w (fun l => block f.d.toNat 1 (v l)) noPred fl u w' ∧ ∀ l,
          let x (j : Nat) : Val := fdecode .f32 (flushIn .f32 f.fzi (a l j))
          v l = ((List.range (per l)).map (fun j => (nfEncode (desc l) (x j) f.rnd).1 * 2 ^ (j * (desc l).n))).sum ∧
          ∀ i, (fl l).getLsbD i = true ↔ ∃ j < per l,
            ((nfEncode (desc l) (x j) f.rnd).2 ||| if (x j).isSNaN then fNV else 0#8).getLsbD i = true) ∧
      (good f.d.toNat → ∃ (u : State) (w' : Wave) (fl : Nat → Flags), exec (.unpack h f) s = .next u ∧
        let y (l j : Nat) : Nat × Flags :=
          flushOut .f32 f.fzo (roundTo .f32 f.rnd (nfDecode (desc l) (a l 0 / 2 ^ (j * (desc l).n))))
        Computes s h w (fun l => row f.d.toNat ((List.range (per l)).map (fun j => (y l j).1 % 2 ^ 32))) noPred fl u w' ∧
        ∀ l i, (fl l).getLsbD i = true ↔ ∃ j < per l, (y l j).2.getLsbD i = true)) ∧
    (f.sub = 1#2 →
      let t : IFmt := { w := 2 ^ (f.c.toNat % 8), signed := f.c.getLsbD 3 }
      let cl (x : Int) : Int := if x < t.lo then t.lo else if t.hi < x then t.hi else x
      (∃ (u : State) (w' : Wave), exec (.pack h f) s = .next u ∧
        Computes s h w (fun l => block f.d.toNat 1 (((List.range (32 / t.w)).map (fun j =>
            ((if f.sat then cl (i32.read (a l j)) else i32.read (a l j)) % ((2 ^ t.w : Nat) : Int)).toNat * 2 ^ (j * t.w))).sum))
          noPred (fun l => if f.sat && (List.range (32 / t.w)).any (fun j => !t.has (i32.read (a l j))) then fSATD else 0#8) u w') ∧
      (∃ (u : State) (w' : Wave), exec (.unpack h f) s = .next u ∧
        Computes s h w (fun l => row f.d.toNat ((List.range (32 / t.w)).map (fun j =>
          (t.read (a l 0 / 2 ^ (j * t.w)) % 2 ^ 32).toNat))) noPred noFlag u w'))

/-- 08 R175 with 07 R149: TRIPACK packs the signs of twenty registers as base-3 digits, five to a byte, with SATD for a magnitude above
1; TRIUNPK is its inverse, a reserved byte giving zeros and BADCODE. -/
def Sys2Proof.Claims.TernaryBytes : Prop :=
  ∀ (h : Hdr) (f : VFields) (s : State) (w : Wave), Issuing s w →
    let x (l j : Nat) : Int := i32.read ((w.lane l).vr (f.a.toNat + j))
    let digit (z : Int) : Nat := if z = 0 then 0 else if 0 < z then 1 else 2
    let byte (l m : Nat) : Nat := (w.lane l).vr f.a.toNat / 256 ^ m % 256
    let value (d : Nat) : Nat := if d = 0 then 0 else if d = 1 then 1 else 2 ^ 32 - 1
    (∃ (u : State) (w' : Wave), exec (.tripack h f) s = .next u ∧
      Computes s h w (fun l => block f.d.toNat 1 (((List.range 20).map (fun j => digit (x l j) * 3 ^ (j % 5) * 256 ^ (j / 5))).sum))
        noPred (fun l => if (List.range 20).any (fun j => decide (1 < (x l j).natAbs)) then fSATD else 0#8) u w') ∧
    (∃ (u : State) (w' : Wave), exec (.triunpk h f) s = .next u ∧
      Computes s h w (fun l => row f.d.toNat ((List.range 20).map (fun j =>
          if byte l (j / 5) < 243 then value (byte l (j / 5) / 3 ^ (j % 5) % 3) else 0)))
        noPred (fun l => if (List.range 4).any (fun m => decide (243 ≤ byte l m)) then fBADCODE else 0#8) u w')

/-- PACK, UNPACK, TRIPACK and TRIUNPK: all of the statements just named hold. -/
def Obligations.PackedBlocks : Prop :=
  Claims.PackAndUnpack ∧ Claims.TernaryBytes

/-- 08 R177 and R182: LXCH gives each lane the register of its source lane, or its fill where that lane is outside the wave or the issue
set; LREAD gives every lane the register of one named lane, or 0 past the width; LWRITE writes one register of the lane it names, whether
or not it is in the issue, and nothing past the width or when no lane takes part. -/
def Sys2Proof.Claims.LaneExchange : Prop :=
  ∀ (h : Hdr) (f : VFields) (s : State) (w : Wave), Issuing s w → s.curTeam.width ≤ 64 →
    (∀ src : Nat → Nat → Int,
      (f.sub, src) ∈ [(0#2, fun (_ b : Nat) => (b : Int)), (1#2, fun (l b : Nat) => (l : Int) - b), (2#2, fun (l b : Nat) => (l : Int) + b),
        (3#2, fun (l b : Nat) => ((l ^^^ b : Nat) : Int))] →
      let k (l : Nat) : Int := src l (intB h f w 32 l)
      ∃ (u : State) (w' : Wave), exec (.lxch h f) s = .next u ∧
        Computes s h w (fun l => block f.d.toNat 1
          (if 0 ≤ k l ∧ k l < s.curTeam.width ∧ takes s h w (k l).toNat = true then (w.lane (k l).toNat).vr f.a.toNat else intC f w 32 l))
          noPred noFlag u w') ∧
    (∃ (u : State) (w' : Wave), exec (.lread h f) s = .next u ∧
      Computes s h w (fun l => block f.d.toNat 1
        (if intB h f w 32 l < s.curTeam.width then (w.lane (intB h f w 32 l)).vr f.a.toNat else 0)) noPred noFlag u w') ∧
    (f.ka ≠ .vec → f.kb ≠ .vec → ∃ (u : State) (w' : Wave), exec (.lwrite h f) s = .next u ∧ u.wave? s.curRef = some w' ∧
      (∀ l r, l < w.lanes.length → (w'.lane l).vr r =
        if (List.range 64).any (takes s h w) = true ∧ l = intB h f w 32 0 ∧ l < s.curTeam.width ∧ r = f.d.toNat then intA h f w 32 0 % 2 ^ 32
        else (w.lane l).vr r) ∧
      (∀ l p, l < w.lanes.length → (w'.lane l).pred p = (w.lane l).pred p) ∧
      Moves s h w w' ∧ Ends h w w' ∧
      { w' with lanes := w.lanes, runEnd := w.runEnd, prog := w.prog, xl := w.xl } = w ∧ Elsewhere s u)

/-- 08 R178: PQRY over the contributors: ALL, ANY and SAME write a predicate, MASK a pair with bit i for a lane i that contributes a 1. -/
def Sys2Proof.Claims.PredicateQueries : Prop :=
  ∀ (h : Hdr) (f : VFields) (s : State) (w : Wave), Issuing s w →
    let val (l : Nat) : Prop := ((w.lane l).pred (f.a.toNat % 8) ≠ f.a.getLsbD 3)
    let c (l : Nat) : Prop := gives s h w l = true
    (∀ P : Prop, (f.sub = 0#2 ∧ (P ↔ ∀ l, c l → val l)) ∨ (f.sub = 1#2 ∧ (P ↔ ∃ l, c l ∧ val l)) ∨
        (f.sub = 3#2 ∧ (P ↔ ∀ l m, c l → c m → (val l ↔ val m))) →
      ∃ (u : State) (w' : Wave) (b : Bool), exec (.pqry h f) s = .next u ∧
        Computes s h w noReg (fun _ => onePred (f.d.toNat % 8) b) noFlag u w' ∧ (b = true ↔ P)) ∧
    (f.sub = 2#2 → ∃ (u : State) (w' : Wave) (v : Nat), exec (.pqry h f) s = .next u ∧
      Computes s h w (fun _ => block f.d.toNat 2 v) noPred noFlag u w' ∧ v < 2 ^ 64 ∧
      ∀ l < 64, v.testBit l = true ↔ c l ∧ val l)

/-- LXCH, LREAD, LWRITE and PQRY across the lanes of a wave: all of the statements just named hold. -/
def Obligations.LaneExchange : Prop :=
  Claims.LaneExchange ∧ Claims.PredicateQueries

/-- 08 R179: WRED gives every lane that takes part the reduction over the contributors: an integer sum modulo 2^32, an integer minimum or
maximum, the fixed addition tree, or the exact accumulator rounded once. -/
def Sys2Proof.Claims.WaveReductions : Prop :=
  ∀ (h : Hdr) (f : VFields) (s : State) (w : Wave), Issuing s w →
    let x (l : Nat) : Nat := (w.lane l).vr f.a.toNat
    let c : Nat → Bool := gives s h w
    let gives (v : Nat) (fl : Flags) : Prop := ∃ (u : State) (w' : Wave), exec (.wred h f) s = .next u ∧
      Computes s h w (fun _ => block f.d.toNat 1 v) noPred (fun _ => fl) u w'
    let sn : Flags := if (List.range 64).any (fun l => c l && (fdecode .f32 (flushIn .f32 f.fzi (x l))).isSNaN) then fNV else 0#8
    (f.sub = 0#2 → f.c.toNat % 8 = 0 → gives ((((List.range 64).filter c).map x).sum % 2 ^ 32) 0#8) ∧
    (∀ le none, (f.c.toNat % 8, le, none) ∈ [(1, sle32, 0x7FFFFFFF), (2, fun a b => sle32 b a, 0x80000000),
        (3, fun a b => decide (a ≤ b), 0xFFFFFFFF), (7, fun a b => decide (b ≤ a), 0)] → f.sub = 0#2 →
      ∃ v, BestOf c x le none v ∧ gives v 0#8) ∧
    (f.sub = 1#2 →
      let root := addTree f.rnd f.fzo (fun l => if c l then some (flushIn .f32 f.fzi (x l)) else none) 6 0
      match root.1 with
      | none => gives 0 0#8
      | some a => gives (flushOut .f32 f.fzo (roundTo .f32 f.rnd (fdecode .f32 a))).1
          (root.2 ||| (flushOut .f32 f.fzo (roundTo .f32 f.rnd (fdecode .f32 a))).2 ||| sn)) ∧
    (f.sub = 2#2 →
      let acc := ((List.range 64).filter c).foldl (fun a l => xaccAdd a (fdecode .f32 (flushIn .f32 f.fzi (x l)))) 0
      ((∃ l, c l = true) → gives (xaccRound acc .f32 f.rnd f.fzo).1 ((xaccRound acc .f32 f.rnd f.fzo).2 ||| sn)) ∧
      ((∀ l, c l = false) → gives 0 0#8)) ∧
    (f.sub = 3#2 → ((∀ l, c l = true → (fdecode .f32 (x l)).isNaN = true) → gives Fmt.f32.canonNaN sn) ∧
      ((∃ l, c l = true ∧ (fdecode .f32 (x l)).isNaN = false) → ∃ v, gives v sn ∧
        (∃ l, c l = true ∧ v = x l ∧ (fdecode .f32 v).isNaN = false) ∧
        ∀ l, c l = true → (fdecode .f32 (x l)).isNaN = false →
          (if f.c.getLsbD 0 then (fdecode .f32 v).ltZ (fdecode .f32 (x l)) else (fdecode .f32 (x l)).ltZ (fdecode .f32 v)) = false))

/-- 08 R180 and R181: WSCAN combines the contributors at or below each lane (or below it); LPEER gives each lane the mask of the
contributors whose register, or pair, equals its own. -/
def Sys2Proof.Claims.ScansAndPeers : Prop :=
  ∀ (h : Hdr) (f : VFields) (s : State) (w : Wave), Issuing s w →
    let c : Nat → Bool := gives s h w
    (∀ inc : Bool, (f.sub, inc) ∈ [(0#2, true), (1#2, false)] →
      let x (l : Nat) : Nat := (w.lane l).vr f.a.toNat
      let below (l k : Nat) : Bool := c k && (if inc then decide (k ≤ l) else decide (k < l))
      ∃ (u : State) (w' : Wave) (v : Nat → Nat), exec (.wscan h f) s = .next u ∧
        Computes s h w (fun l => block f.d.toNat 1 (v l)) noPred noFlag u w' ∧ ∀ l,
          (f.c.toNat % 4 = 0 → v l = (((List.range 64).filter (below l)).map x).sum % 2 ^ 32) ∧
          (f.c.toNat % 4 = 1 → BestOf (below l) x sle32 0x7FFFFFFF (v l)) ∧
          (f.c.toNat % 4 = 2 → BestOf (below l) x (fun a b => sle32 b a) 0x80000000 (v l))) ∧
    (∀ n, (f.sub, n) ∈ [(0#2, 1), (1#2, 2)] → ∃ (u : State) (w' : Wave) (v : Nat → Nat), exec (.lpeer h f) s = .next u ∧
      Computes s h w (fun l => block f.d.toNat 2 (v l)) noPred noFlag u w' ∧ ∀ l, v l < 2 ^ 64 ∧ ∀ k < 64,
        ((v l).testBit k = true ↔ c k = true ∧ (w.lane k).vblock f.a.toNat n = (w.lane l).vblock f.a.toNat n))

/-- WRED, WSCAN and LPEER over the contributors: all of the statements just named hold. -/
def Obligations.LaneReductions : Prop :=
  Claims.WaveReductions ∧ Claims.ScansAndPeers

/-! ### Control (14 R302 to R319) -/

/-- 14 R303, R304: each lane of the issue goes to PC + 8 × OFF24 with TPRIO when its condition is 1, to PC + 8 with FPRIO otherwise;
BRU traps with cause group UNIFORM when the condition differs between lanes. -/
def Sys2Proof.Claims.Branches : Prop :=
  ∀ (h : Hdr) (f : BFields) (s : State) (w : Wave), Issuing s w →
    let c (l : Nat) : Bool := f.cp == 7#3 || ((w.lane l).pred f.cp.toNat != f.cn)
    let dest (l : Nat) : Lane := if !s.cur.mask.getLsbD l then w.lane l
      else if c l then placed (w.lane l) (s.cur.pc + BitVec.ofInt 64 (8 * f.off.toInt)) f.tprio
      else placed (w.lane l) (s.cur.pc + 8#64) f.fprio
    (∃ (t : State) (w' : Wave), exec (.br h f) s = .next t ∧ Becomes s w w dest (w.runEnd || h.sw) t w') ∧
    (∀ b : Bool, (∀ l, s.cur.mask.getLsbD l = true → c l = b) →
      ∃ (t : State) (w' : Wave), exec (.bru h f) s = .next t ∧ Becomes s w w dest (w.runEnd || h.sw) t w') ∧
    ((∃ k l, s.cur.mask.getLsbD k = true ∧ s.cur.mask.getLsbD l = true ∧ c k ≠ c l) →
      ∃ k : BitVec 64, (∀ l, k.getLsbD l = (s.cur.mask.getLsbD l && c l)) ∧
        exec (.bru h f) s = .next (s.trapLanes h s.cur.mask (cause 6 (k.toNat % 2 ^ 32) (k.toNat / 2 ^ 32) 1)))

/-- 14 R307: JAL, JMP.S, JMP.V and SETPRIO; a target that is no multiple of 8 traps with ALIGN, then one that is not canonical with
PROTECT, NONCANON, before any lane moves. -/
def Sys2Proof.Claims.Jumps : Prop :=
  ∀ (h : Hdr) (f : YFields) (s : State) (w : Wave), Issuing s w →
    let prio : BitVec 8 := f.imm.extractLsb' 0 8
    let sTarget : Nat := w.sr f.a.toNat + 2 ^ 32 * w.sr (f.a.toNat + 1)
    let vTarget (l : Nat) : Nat := (w.lane l).vr f.a.toNat + 2 ^ 32 * (w.lane l).vr (f.a.toNat + 1)
    let dest (g : Nat → Nat) (l : Nat) : Lane :=
      if takes s h w l then placed (w.lane l) (BitVec.ofNat 64 (g l)) prio else onwards s h w l
    let good (g : Nat → Nat) : Prop := ∀ l, takes s h w l = true → g l % 8 = 0 ∧ canonical (g l) = true
    let traps (g : Nat → Nat) (i : Instr) : Prop :=
      (∀ l, Lowest (fun l => takes s h w l = true ∧ g l % 8 ≠ 0) l → Traps i h s (takes s h w) (causeAt 4 3 (BitVec.ofNat 64 (g l)))) ∧
      (∀ l, (∀ k, takes s h w k = true → g k % 8 = 0) → Lowest (fun l => takes s h w l = true ∧ canonical (g l) = false) l →
        Traps i h s (takes s h w) (causeAt 3 1 (BitVec.ofNat 64 (g l))))
    (Someone s h w → good (fun _ => sTarget) → ∃ (t : State) (w' : Wave), exec (.jal h f) s = .next t ∧
      Becomes s w { w with sregs := w'.sregs } (dest (fun _ => sTarget)) (w.runEnd || h.sw) t w' ∧
      ∀ r, w'.sr r = (block f.d.toNat 2 (s.cur.pc + 8#64).toNat r).getD (w.sr r)) ∧
    traps (fun _ => sTarget) (.jal h f) ∧
    (∀ g : Nat → Nat, (f.sub, g) ∈ [(0#2, fun _ => sTarget), (1#2, vTarget)] →
      (Someone s h w → good g →
        ∃ (t : State) (w' : Wave), exec (.jmp h f) s = .next t ∧ Becomes s w w (dest g) (w.runEnd || h.sw) t w') ∧
      traps g (.jmp h f)) ∧
    ∃ (t : State) (w' : Wave), exec (.setprio h f) s = .next t ∧ Becomes s w w
      (fun l => if takes s h w l then placed (w.lane l) (after s h) prio else onwards s h w l) (w.runEnd || h.sw) t w'

/-- NOP moves its lanes on (14 R317); YIELD does, and ends the run (14 R319); EXIT ends the lanes that take part, the others move on
(14 R318), where no lane that takes part holds or awaits a section and the wave has no trap to deliver. -/
def Sys2Proof.Claims.NopYieldExit : Prop :=
  ∀ (h : Hdr) (f : YFields) (s : State) (w : Wave), Issuing s w →
    (∃ (t : State) (w' : Wave), exec (.nop h f) s = .next t ∧ Becomes s w w (onwards s h w) (w.runEnd || h.sw) t w') ∧
    (∃ (t : State) (w' : Wave), exec (.yield h f) s = .next t ∧ Becomes s w w (onwards s h w) true t w') ∧
    (w.hmode = false → (∀ l, (w.lane l).ptrap = none) →
      (∀ l, takes s h w l = true → (w.lane l).held0 = none ∧ (w.lane l).held1 = none ∧ (w.lane l).await = none) →
      ∃ (t : State) (w' : Wave), exec (.exit h f) s = .next t ∧
        Becomes s w w (fun l => if takes s h w l then ended (w.lane l) else onwards s h w l) true t w')

/-- BR, BRU, JAL, JMP, SETPRIO, NOP, YIELD and EXIT: where each lane goes, and the traps: all of the statements just named hold. -/
def Obligations.ControlTransfers : Prop :=
  Claims.Branches ∧ Claims.Jumps ∧ Claims.NopYieldExit

/-- 14 R308, R309: CVSET writes the member mask below the width and clears the signatures; CVSIGN signs for the members that take part;
either lets the lanes go on that wait on a register whose live members have all signed. CVWAIT goes on at once in that case; otherwise
its lanes that take part wait at the PC. Where the spec leaves a point open this is the model's choice (log entry 43). -/
def Obligations.ConvergenceRegisters : Prop :=
  ∀ (h : Hdr) (f : YFields) (s : State) (w : Wave) (n : Nat) (c : Cv), Issuing s w → w.lanes.length ≤ 64 →
    n = f.d.toNat % 8 → w.cvs.length = 8 → w.cvs[n]? = some c →
    let full (cs : List Cv) (k : Nat) : Prop := ∀ e, cs[k]? = some e →
      ∀ l, e.members.getLsbD l = true → e.signed.getLsbD l = true ∨ (w.lane l).live = false
    let after (cs : List Cv) (l : Nat) (ln : Lane) : Prop := ln = (if s.cur.mask.getLsbD l then onward s h (w.lane l) else w.lane l) ∧
        (s.cur.mask.getLsbD l = true ∨ ∀ k, (w.lane l).live = true → (w.lane l).wait = .cvwait k → ¬ full cs k) ∨
      ln = { w.lane l with pc := (w.lane l).pc + 8#64, wait := .none } ∧ s.cur.mask.getLsbD l = false ∧
        ∃ k, (w.lane l).live = true ∧ (w.lane l).wait = .cvwait k ∧ full cs k
    (Someone s h w → ∀ m : BitVec 64, (∀ i < 64, m.getLsbD i =
        (decide (i < s.curTeam.width) && (w.sr f.a.toNat + 2 ^ 32 * w.sr (f.a.toNat + 1)).testBit i)) →
      ∃ (t : State) (w' : Wave), exec (.cvset h f) s = .next t ∧
        Becomes s w { w with cvs := w.cvs.set n { members := m, signed := 0#64 } } (fun l => w'.lane l) (w.runEnd || h.sw) t w' ∧
        ∀ l < w.lanes.length, after (w.cvs.set n { members := m, signed := 0#64 }) l (w'.lane l)) ∧
    (∀ m : BitVec 64, (∀ l, m.getLsbD l = (takes s h w l && c.members.getLsbD l)) →
      ∃ (t : State) (w' : Wave), exec (.cvsign h f) s = .next t ∧
        Becomes s w { w with cvs := w.cvs.set n { c with signed := c.signed ||| m } } (fun l => w'.lane l) (w.runEnd || h.sw) t w' ∧
        ∀ l < w.lanes.length, after (w.cvs.set n { c with signed := c.signed ||| m }) l (w'.lane l)) ∧
    (full w.cvs n → ∃ (t : State) (w' : Wave), exec (.cvwait h f) s = .next t ∧ Becomes s w w (onwards s h w) true t w') ∧
    (¬ full w.cvs n → ∃ (t : State) (w' : Wave), exec (.cvwait h f) s = .next t ∧
      Becomes s w w (fun l => if takes s h w l then { w.lane l with wait := .cvwait n } else onwards s h w l) true t w')

/-! ### Traps, system registers and the host's answers (18 R378 to R390, 02 R42, R43, R45) -/

/-- 18 R382, R383: a trap in some lanes of the issue. With no result of the run outstanding and a handler, they go to HANDLER with
priority 255, TPC and TPRIO take their place, TCAUSE and TDET are written, and the other lanes of the issue move on; with a result
outstanding they keep the trap where they stand. BKPT (18 R387) and a word that is no instruction (02 R45) raise theirs so. -/
def Sys2Proof.Claims.TrapEntry : Prop :=
  (∀ (h : Hdr) (s : State) (w : Wave) (tm : Team) (hd : Word) (m : BitVec 64) (x : TrapInfo) (p : BitVec 8), Issuing s w →
    s.team? s.cur.team = some tm → (s.block tm.launch)[5]? = some hd → w.hmode = false → w.lanes.length ≤ 64 →
    (∀ l, (w.lane l).ptrap = none) → (∃ l, m.getLsbD l = true) →
    (∀ l, m.getLsbD l = true → s.cur.mask.getLsbD l = true ∧ l < w.lanes.length ∧ (w.lane l).live = true ∧
      (w.lane l).outside = false ∧ (w.lane l).pc = s.cur.pc ∧ (w.lane l).prio = p) →
    let rest (w' : Wave) : Prop := w'.runEnd = true ∧ w'.prog = none ∧ w'.park = .none ∧
      { w' with lanes := w.lanes, tpc := w.tpc, tprio := w.tprio, tcause := w.tcause, tdet0 := w.tdet0, tdet1 := w.tdet1, tdet2 := w.tdet2, hmode := w.hmode, runEnd := w.runEnd, prog := w.prog, park := w.park, xl := w.xl } = w
    ((∀ o ∈ w.outs, o.vlr = false) → hd ≠ 0#64 →
      ∃ w' : Wave, (s.trapLanes h m x).wave? s.curRef = some w' ∧ w'.lanes.length = w.lanes.length ∧
        (∀ l < w.lanes.length, w'.lane l =
          if m.getLsbD l then { inHandler hd (w.lane l) with await := none } else onwards s h w l) ∧
        TrapRegs w' s.cur.pc p x ∧ rest w' ∧ Elsewhere s (s.trapLanes h m x)) ∧
    ((∃ o ∈ w.outs, o.vlr = true) →
      ∃ w' : Wave, (s.trapLanes h m x).wave? s.curRef = some w' ∧ w'.lanes.length = w.lanes.length ∧
        (∀ l < w.lanes.length, w'.lane l =
          if m.getLsbD l then { w.lane l with ptrap := some x, wait := .none, await := none } else onwards s h w l) ∧
        w'.hmode = false ∧ rest w' ∧ Elsewhere s (s.trapLanes h m x))) ∧
  (∀ (h : Hdr) (f : YFields) (s : State) (w : Wave), Issuing s w → Someone s h w →
    Traps (.bkpt h f) h s (takes s h w) (cause 14 f.imm.toNat 0 0)) ∧
  ∀ (h : Hdr) (word : BitVec 64) (reason : Nat) (s : State) (w : Wave), Issuing s w →
    Traps (.notAnInstruction word reason) h s s.cur.mask.getLsbD (cause 1 (word.toNat % 2 ^ 32) (word.toNat / 2 ^ 32) reason)

/-- 18 R383: TRAP_DELIVERY takes the highest-ranked place with a pending lane, its lowest pending lane, and with it every lane of that
place with the same TCAUSE and TDET; the others keep their traps. In handler mode or with a result outstanding nothing happens yet. -/
def Sys2Proof.Claims.TrapDelivery : Prop :=
  ∀ (r : WaveRef) (s : State) (tm : Team) (w : Wave) (hd : Word), s.team? r.team = some tm → s.wave? r = some w →
    (s.block tm.launch)[5]? = some hd → w.lanes.length ≤ 64 →
    (w.hmode = true ∨ (∃ o ∈ w.outs, o.vlr = true) → exec (.trapDelivery r) s = .next s) ∧
    (w.hmode = false → (∀ o ∈ w.outs, o.vlr = false) → w.park = .none → w.prog = none → hd ≠ 0#64 → ∀ k x, NextTrap w k →
      (w.lane k).ptrap = some x → ∃ (t : State) (w' : Wave), exec (.trapDelivery r) s = .next t ∧ t.wave? r = some w' ∧
        w'.lanes.length = w.lanes.length ∧
        (∀ l < w.lanes.length, w'.lane l =
          if pending w l = true ∧ (w.lane l).ptrap = some x ∧ (w.lane l).outside = (w.lane k).outside ∧
            (w.lane l).pc = (w.lane k).pc ∧ (w.lane l).prio = (w.lane k).prio then inHandler hd (w.lane l) else w.lane l) ∧
        TrapRegs w' (w.lane k).pc (w.lane k).prio x ∧
        { w' with lanes := w.lanes, tpc := w.tpc, tprio := w.tprio, tcause := w.tcause, tdet0 := w.tdet0, tdet1 := w.tdet1, tdet2 := w.tdet2, hmode := w.hmode } = w ∧
        { t with teams := s.teams } = s ∧ OthersSame r s t)

/-- 18 R384, R385: a trap in handler mode is undelivered: its lanes end, the other lanes of the issue move on, and handler mode ends
when no live handler lane is left. TRET ends handler mode: its live handler lanes resume at TPC with TPRIO; with a TPC that is no
multiple of 8 or not canonical it is undelivered; outside handler mode it traps with PRIV. -/
def Sys2Proof.Claims.HandlerModeEnds : Prop :=
  (∀ (h : Hdr) (s : State) (w : Wave) (tm : Team) (m : BitVec 64) (x : TrapInfo), Issuing s w → s.team? s.cur.team = some tm →
    w.hmode = true → w.lanes.length ≤ 64 → (∀ l, m.getLsbD l = true → s.cur.mask.getLsbD l = true) →
    Undelivered s s.curRef w tm s.cur.pc x (s.trapLanes h m x) ∧
    ∃ w' : Wave, (s.trapLanes h m x).wave? s.curRef = some w' ∧ w'.lanes.length = w.lanes.length ∧ w'.prog = none ∧
      (∀ l < w.lanes.length, w'.lane l = if m.getLsbD l then ended (w.lane l) else onwards s h w l) ∧
      ((∃ l < w.lanes.length, m.getLsbD l = false ∧ (w.lane l).live = true ∧ (w.lane l).handler = true) →
        w'.hmode = true ∧ w'.tcause = w.tcause) ∧
      ((∀ l < w.lanes.length, m.getLsbD l = false → (w.lane l).live = true → (w.lane l).handler = false) →
        w'.hmode = false ∧ w'.tcause = 0#32 ∧ w'.tdet0 = 0#32 ∧ w'.tdet1 = 0#32 ∧ w'.tdet2 = 0#32)) ∧
  ∀ (h : Hdr) (f : YFields) (s : State) (w : Wave) (tm : Team), Issuing s w → Someone s h w → s.team? s.cur.team = some tm →
    w.lanes.length ≤ 64 →
    let back : Wave := { w with hmode := false, tcause := 0#32, tdet0 := 0#32, tdet1 := 0#32, tdet2 := 0#32 }
    (w.hmode = false → Traps (.tret h f) h s (takes s h w) (cause 17 4 0 0)) ∧
    (w.hmode = true → (∀ l, (w.lane l).ptrap = none) → w.tpc.toNat % 8 = 0 → canonical w.tpc.toNat = true →
      ∃ (t : State) (w' : Wave), exec (.tret h f) s = .next t ∧ Becomes s w back
        (fun l => if (w.lane l).live && (w.lane l).handler then { w.lane l with pc := w.tpc, prio := w.tprio, handler := false }
          else w.lane l) (w.runEnd || h.sw) t w') ∧
    (w.hmode = true → (∀ l, (w.lane l).ptrap = none) → w.tpc.toNat % 8 ≠ 0 ∨ canonical w.tpc.toNat = false →
      ∃ (t : State) (w' : Wave), exec (.tret h f) s = .next t ∧
        Undelivered s s.curRef w tm s.cur.pc { cause := w.tcause, d0 := w.tdet0, d1 := w.tdet1, d2 := w.tdet2 } t ∧
        t.wave? s.curRef = some w' ∧ w'.hmode = false ∧ w'.tcause = 0#32 ∧ w'.lanes.length = w.lanes.length ∧
        ∀ l < w.lanes.length, w'.lane l = if (w.lane l).live && (w.lane l).handler then ended (w.lane l) else w.lane l)

/-- Taking a trap, delivering a pending one, and leaving handler mode: all of the statements just named hold. Where the spec leaves a point open
this is the model's choice (log entry 22). -/
def Obligations.TrapsAndHandlers : Prop :=
  Claims.TrapEntry ∧ Claims.TrapDelivery ∧ Claims.HandlerModeEnds

/-- What SYSRD reads of the registers that are not lane-valued, but CLOCK: number, registers, value (02 R42). -/
def Sys2Proof.Safety.sysValues (s : State) (tm : Team) (ln : Launch) (w : Wave) : List (Nat × Nat × Nat) :=
  let grid (n : Nat) : Nat := if ln.task.isSome then 0 else (ln.block.getD 1 0).toNat / 2 ^ (16 * n) % 2 ^ 16
  [(0x01, 1, w.id), (0x02, 1, tm.width), (0x03, 1, tm.rank), (0x04, 1, tm.x), (0x05, 1, tm.y), (0x06, 1, tm.z), (0x07, 1, grid 0),
   (0x08, 1, grid 1), (0x09, 1, grid 2), (0x0A, 1, w.core), (0x0B, 1, w.part), (0x0C, 1, tm.launch),
   (0x0D, 1, (s.regs.usum.extractLsb' 32 9).toNat), (0x0E, 1, (s.regs.usum.extractLsb' 24 8).toNat), (0x12, 1, w.wstat.toNat),
   (0x13, 2, w.helper.toNat), (0x15, 1, w.mstatShadow.toNat), (0x20, 1, w.tcause.toNat), (0x21, 1, w.tdet0.toNat),
   (0x22, 1, w.tdet1.toNat), (0x23, 1, w.tdet2.toNat), (0x24, 2, w.tpc.toNat), (0x25, 1, w.tprio.toNat)]

/-- 18 R387, 02 R42: SYSRD reads a lane-valued register in each lane that takes part, CLOCK as what it last gave and a free number of clocks more, and every other register
once, into one scalar register or a pair. -/
def Sys2Proof.Claims.SystemRegisterReads : Prop :=
  ∀ (h : Hdr) (f : YFields) (s : State) (w : Wave) (tm : Team) (ln : Launch), Issuing s w → Someone s h w →
    s.team? s.cur.team = some tm → s.launch? tm.launch = some ln →
    let i := Instr.sysrd h f
    (∀ g : Nat → Nat, (f.imm.toNat, g) ∈ [(0x00, fun l => l), (0x16, fun l => (w.lane l).spawnKey.toNat)] →
      ∃ (t : State) (w' : Wave), exec i s = .next t ∧ Computes s h w (fun l => block f.d.toNat 1 (g l)) noPred noFlag t w') ∧
    (f.imm.toNat = 0x14 → ∃ (t : State) (w' : Wave) (v : Nat → Nat), exec i s = .next t ∧
      Computes s h w (fun l => block f.d.toNat 1 (v l)) noPred noFlag t w' ∧ ∀ l,
        (v l).testBit 0 = (w.lane l).held0.isSome ∧ (v l).testBit 1 = (w.lane l).held1.isSome ∧ (v l).testBit 2 = false ∧
        (v l).testBit 3 = (match (w.lane l).await with
          | some a => !a.space
          | none => false) ∧
        (v l).testBit 4 = (match (w.lane l).await with
          | some a => !a.space && a.key.getLsbD 63
          | none => false) ∧
        (v l).testBit 5 = (w.lane l).pend.isSome ∧ v l < 64) ∧
    (f.imm.toNat = 0x10 → let past := Config.clocks s.free
      ∃ (t : State) (w' : Wave), exec i s = .next t ∧
      ScalarStep { s with free := s.free + 1, dies := s.dies.modify (w.core / 32) (fun x => { x with clock := x.clock + past }) } h w
        f.d.toNat 2 ((s.die (w.core / 32)).clock + past).toNat t w') ∧
    (f.imm.toNat = 0x11 → ∃ (t : State) (w' : Wave) (v : Nat), exec i s = .next t ∧ ScalarStep s h w f.d.toNat 2 v t w' ∧
      ∀ k < 64, v.testBit k = (tm.tags.getD k Tag.reset).ready) ∧
    ∀ n v, (f.imm.toNat, n, v) ∈ sysValues s tm ln w →
      ∃ (t : State) (w' : Wave), exec i s = .next t ∧ ScalarStep s h w f.d.toNat n v t w'

/-- 18 R387, 02 R43: SYSWR writes bits 7 to 0 of the value to WSTAT; in handler mode it writes TCAUSE, TDET0 to TDET2 and TPC whole and
bits 7 to 0 to TPRIO; every other write traps with cause group PRIV. -/
def Sys2Proof.Claims.SystemRegisterWrites : Prop :=
  ∀ (h : Hdr) (f : YFields) (s : State) (w : Wave), Issuing s w → Someone s h w →
    let v : BitVec 32 := BitVec.ofNat 32 (w.sr f.a.toNat)
    let pair : BitVec 64 := BitVec.ofNat 64 (w.sr f.a.toNat + 2 ^ 32 * w.sr (f.a.toNat + 1))
    let handler : List (Nat × Wave) :=
      [(0x20, { w with tcause := v }), (0x21, { w with tdet0 := v }), (0x22, { w with tdet1 := v }), (0x23, { w with tdet2 := v }),
       (0x24, { w with tpc := pair }), (0x25, { w with tprio := v.extractLsb' 0 8 })]
    (∀ x, (f.imm.toNat, x) ∈ (0x12, { w with wstat := v &&& 0xFF#32 }) :: (if w.hmode then handler else []) →
      ∃ (t : State) (w' : Wave), exec (.syswr h f) s = .next t ∧ Becomes s w x (onwards s h w) (w.runEnd || h.sw) t w') ∧
    (f.imm.toNat ≠ 0x12 → (w.hmode = true → f.imm.toNat ∉ handler.map Prod.fst) →
      Traps (.syswr h f) h s (takes s h w) (cause 17 (7 + f.imm.toNat * 2 ^ 16) 0 0))

/-- SYSRD reads every system register; SYSWR writes the few, and traps PRIV on the rest: all of the statements just named hold. Where the spec
leaves a point open this is the model's choice (log entry 13). -/
def Obligations.SystemRegisters : Prop :=
  Claims.SystemRegisterReads ∧ Claims.SystemRegisterWrites

/-- 18 R387 to R390: TRAP parks its lanes and queues a system-call record with a token that is not in use; an OK reply writes s2 to s5
and sends them to PC + 8, an error reply raises SYSCALL there. 04 R89: RETRY of a wave's only record lets it reissue, ABORT raises
XLATE in the lanes that took part. Where the spec leaves a point open this is the model's choice (log entry 53). -/
def Obligations.SystemCallsAndFaultReplies : Prop :=
  (∀ (h : Hdr) (f : YFields) (s : State) (w : Wave) (tm : Team) (g : HostRing), Issuing s w → Someone s h w →
    s.team? s.cur.team = some tm → w.outs = [] → s.rings[2]? = some g → (tokensInUse s).length < 65534 →
    ∃ (t : State) (w' : Wave) (k : BitVec 16) (m : BitVec 64), exec (.trap h f) s = .next t ∧ t.wave? s.curRef = some w' ∧
      k ≠ 0#16 ∧ k ∉ tokensInUse s ∧ (∀ l < 64, m.getLsbD l = takes s h w l) ∧
      t.rings = s.rings.set 2 { g with waiting := g.waiting ++ [
        [k ++ f.imm ++ BitVec.ofNat 32 tm.launch,
          BitVec.ofNat 64 (tm.rank * 2 ^ 32 + w.core * 2 ^ 24 + w.part * 2 ^ 19 + w.slot * 2 ^ 16 + w.id * 2 ^ 8), s.cur.pc,
          BitVec.ofNat 64 (w.sr 2 + 2 ^ 32 * w.sr 3), BitVec.ofNat 64 (w.sr 4 + 2 ^ 32 * w.sr 5),
          BitVec.ofNat 64 (w.sr 6 + 2 ^ 32 * w.sr 7), BitVec.ofNat 64 (w.sr 8 + 2 ^ 32 * w.sr 9), m]] } ∧
      w'.calls = w.calls ++ [{ token := k, mask := m, pc := s.cur.pc, service := f.imm }] ∧ w'.runEnd = true ∧ w'.prog = none ∧
      w'.lanes.length = w.lanes.length ∧ (∀ l < w.lanes.length, w'.lane l = if takes s h w l then w.lane l else onwards s h w l) ∧
      { w' with lanes := w.lanes, calls := w.calls, runEnd := w.runEnd, prog := w.prog, xl := w.xl } = w ∧
      { t with teams := s.teams, rings := s.rings, nextToken := s.nextToken } = s ∧ ∀ q, q ≠ s.curRef → t.wave? q = s.wave? q) ∧
  (∀ (token status : BitVec 16) (s : State) (r : WaveRef) (w : Wave) (c : SysCall), s.wave? r = some w → c ∈ w.calls →
    c.token = token → (∃ tm ∈ s.teams, tm.uid = r.team ∧ w ∈ tm.waves ∧ w.id = r.wave) →
    (∀ tm ∈ s.teams, ∀ x ∈ tm.waves, ∀ d ∈ x.calls, d.token = token → tm.uid = r.team ∧ x.id = r.wave ∧ d = c) →
    let rest : State := s.updWave r (fun w => { w with calls := w.calls.filter (fun d => d.token != token) })
    (status ≠ 0#16 → exec (.scdone token status) s = .next (rest.raiseLanes r c.mask c.pc (cause 13 c.service.toNat status.toNat 0))) ∧
    (status = 0#16 → ∃ (t : State) (w' : Wave), exec (.scdone token status) s = .next t ∧ t.wave? r = some w' ∧
      (∀ k, w'.sr k = ((block 2 2 s.regs.screply0.toNat k).or (block 4 2 s.regs.screply1.toNat k)).getD (w.sr k)) ∧
      w'.lanes.length = w.lanes.length ∧
      (∀ l < w.lanes.length, w'.lane l = if c.mask.getLsbD l then placed (w.lane l) (c.pc + 8#64) (w.lane l).prio else w.lane l) ∧
      w'.calls = w.calls.filter (fun d => d.token != token) ∧
      { w' with lanes := w.lanes, sregs := w.sregs, calls := w.calls } = w ∧ { t with teams := s.teams, cores := s.cores } = s ∧
      OthersSame r s t)) ∧
  ∀ (s : State) (r : WaveRef) (w : Wave) (tm : Team) (k : Token) (part : BitVec 64) (pc : Word), s.team? r.team = some tm →
    s.wave? r = some w → w ∈ tm.waves → w.id = r.wave → w.ended = false → w.toks = [k] → k.outcome = 0 → w.park = .faults part pc →
    (∀ tm ∈ s.teams, ∀ x ∈ tm.waves, (∃ d ∈ x.toks, d.token = k.token) → tm.uid = r.team ∧ x.id = r.wave) →
    (∀ i ∈ s.images, ∀ p ∈ i.parks, ∀ d ∈ p.2.2.2, d.token ≠ k.token) →
    (∀ c ∈ s.cores, ∀ d ∈ c.cmds, ∀ x ∈ d.toks, x.token ≠ k.token) →
    (∀ q ∈ s.replays, ∀ n ∈ q.nodes, ∀ x ∈ n.toks, x.token ≠ k.token) →
    let back : State := s.updWave r (fun w => { w with toks := [], park := .none })
    exec (.fltdoneRetry k.token) s = .next back ∧
    exec (.fltdoneAbort k.token) s =
      .next (back.raiseAt r part pc (causeAt 2 (k.reason + k.level * 16 + k.kind * 128) k.va))

/-! ### Memory instructions (06 R120 to R134, 13 R274 to R293) -/

/-- The forms of LD, LDS, ST and STS: LD and ST act for the lanes that take part, ST not for helper lanes; LDS and STS once, for the
lowest lane that takes part and is no helper lane. -/
def Sys2Proof.Safety.loadStoreForms (h : Hdr) (f : MFields) (s : State) (w : Wave) : List GlobalForm :=
  let n : Nat := 2 ^ f.size.toNat
  let k := max 1 (n / 4)
  let ea (l : Nat) : Int := globalEa h f w (w.lane l)
  let io (t : MType) : Bool := t != .io || n == 4 || n == 8
  let real (l : Nat) : Bool := takes s h w l && !w.helper.getLsbD l
  let load (i : Instr) (lanes : List Nat) (scalar : Bool) : GlobalForm :=
    { i := i, lanes := lanes, ea := ea, n := n, align := f.size.toNat, rd := true, wr := false, types := io, room := true,
      acc := fun l x => accAt f .load f.ch.toNat n 0 l (ea l) x, out := outOf s true (.load f.d.toNat scalar (f.sub == 1#3)) [] }
  let store (i : Instr) (lanes : List Nat) (v : Nat → Nat) : GlobalForm :=
    { i := i, lanes := lanes, ea := ea, n := n, align := f.size.toNat, rd := false, wr := true, types := io, room := true,
      acc := fun l x => accAt f .store f.ch.toNat n (v l % 2 ^ (8 * n)) l (ea l) x, out := outOf s false .none [] }
  [load (.ld h f) (lanesThat (takes s h w)) false, load (.lds h f) (lowestThat real) true,
   store (.st h f) (lanesThat real) (fun l => (w.lane l).vblock f.d.toNat k),
   store (.sts h f) (lowestThat real) (fun _ => w.sblock f.d.toNat k)]

/-- 06 R124, R121, 04 R85, 05 R109: LD, LDS, ST and STS leave one access per acting lane outstanding, or trap in the order of the
checks; with no acting lane they only move on. -/
def Sys2Proof.Claims.LoadsAndStores : Prop :=
  ∀ (h : Hdr) (f : MFields) (s : State) (w : Wave) (tm : Team), Issuing s w → s.team? s.cur.team = some tm →
    ∀ q ∈ loadStoreForms h f s w, (q.lanes ≠ [] → q.Goes s h w tm ∧ q.Checks s h w) ∧
      (q.lanes = [] → ∃ (t : State) (w' : Wave), exec q.i s = .next t ∧ Becomes s w w (onwards s h w) (w.runEnd || h.sw) t w')

/-- 06 R125: LDCVT loads k narrow elements per lane under the descriptor in its scalar register; an invalid descriptor or more than 16
elements trap with ILLEGAL, reason 8, a bad destination block with reason 7. -/
def Sys2Proof.Claims.NarrowLoads : Prop :=
  ∀ (h : Hdr) (f : MFields) (s : State) (w : Wave) (tm : Team), Issuing s w → s.team? s.cur.team = some tm → Someone s h w →
    let n : Nat := 2 ^ f.size.toNat
    let desc := w.sr (f.off.toNat % 256)
    let k := 8 * n / (nfDesc desc).n
    let ea (l : Nat) : Int := globalEa h { f with off := 0#16 } w (w.lane l)
    let q : GlobalForm :=
      { i := .ldcvt h f, lanes := lanesThat (takes s h w), ea := ea, n := n, align := f.size.toNat, rd := true, wr := false,
        types := fun t => t != .io || n == 4 || n == 8, room := true, acc := fun l x => accAt f .load f.ch.toNat n 0 l (ea l) x,
        out := outOf s true (.narrow f.d.toNat desc) [] }
    ((nfDesc desc).valid = true → k ≤ 16 → s.badBlock f.d.toNat k = false → q.Goes s h w tm ∧ q.Checks s h w) ∧
    ((nfDesc desc).valid = false ∨ 16 < k → exec (.ldcvt h f) s = .next (s.illegal h (.ldcvt h f) 8)) ∧
    ((nfDesc desc).valid = true → k ≤ 16 → s.badBlock f.d.toNat k = true →
      exec (.ldcvt h f) s = .next (s.illegal h (.ldcvt h f) 7))

/-- 06 R119, R120, R124: LDL and STL reach the scratch of the wave's core or of its pair; 13 R289: so does ATOML, and its helper lanes
get 0. -/
def Sys2Proof.Claims.LocalAccesses : Prop :=
  ∀ (h : Hdr) (f : MFields) (s : State) (w : Wave) (tm : Team), Issuing s w → s.team? s.cur.team = some tm →
    let n : Nat := 2 ^ f.size.toNat
    let k := max 1 (n / 4)
    let real (l : Nat) : Bool := takes s h w l && !w.helper.getLsbD l
    let zeros : List RegWrite := (lanesThat (fun l => takes s h w l && w.helper.getLsbD l)).flatMap (fun l =>
      (List.range k).map (fun j => { scalar := false, lane := l, reg := f.d.toNat + j, val := 0#32 }))
    let ldl : LocalForm :=
      { i := .ldl h f, lanes := lanesThat (takes s h w), wr := false, rd := true, room := true,
        acc := fun l sd off => accIn f .load n 0 l sd off, out := outOf s true (.load f.d.toNat false (f.sub == 1#3)) [] }
    let stl : LocalForm :=
      { i := .stl h f, lanes := lanesThat real, wr := true, rd := false, room := true,
        acc := fun l sd off => accIn f .store n ((w.lane l).vblock f.d.toNat k % 2 ^ (8 * n)) l sd off, out := outOf s false .none [] }
    let atoml (op : AOp) (m : Nat) : LocalForm :=
      { i := .atoml h f, lanes := lanesThat real, wr := true, rd := true, room := false,
        acc := fun l sd off => accIn f (.atomic op) n ((w.lane l).vblock f.d.toNat m) l sd off,
        out := outOf s true (.load f.d.toNat false false) zeros }
    ldl.Works s h f w tm ∧ stl.Works s h f w tm ∧
    (f.ch ≠ 1#2 → ∀ op, (f.sub, op) ∈ [(0#3, AOp.add), (1#3, .minS), (2#3, .maxS), (3#3, .minU), (4#3, .maxU), (5#3, .and), (6#3, .or), (7#3, .xor)] →
      (atoml op k).Works s h f w tm) ∧
    (f.ch = 1#2 → ∀ op m, (f.sub, op, m) ∈ [(0#3, AOp.xchg, k), (1#3, .cas, 2 * k), (2#3, .fadd, k), (3#3, .inc, k), (4#3, .dec, k)] →
      (atoml op m).Works s h f w tm)

/-- Loads, stores, LDCVT and the local accesses: what each leaves outstanding, and their traps: all of the statements just named hold. Where the
spec leaves a point open this is the model's choice (log entries 18, 19). -/
def Obligations.LoadsAndStores : Prop :=
  Claims.LoadsAndStores ∧ Claims.NarrowLoads ∧ Claims.LocalAccesses

/-- 13 R289 to R293, 04 R91: ATOM, ATOMX, RED and XRED act for the lanes that take part and are no helper lanes; ATOM and ATOMX give
helper lanes 0. On a HOST or IO page that the operation does not reach the instruction traps with ATOMIC. Where the spec leaves a point open
this is the model's choice (log entries 18, 19). -/
def Obligations.GlobalAtomics : Prop :=
  ∀ (h : Hdr) (f : MFields) (s : State) (w : Wave) (tm : Team), Issuing s w → s.team? s.cur.team = some tm →
    let n : Nat := 2 ^ f.size.toNat
    let k := max 1 (n / 4)
    let ea (l : Nat) : Int := globalEa h f w (w.lane l)
    let real (l : Nat) : Bool := takes s h w l && !w.helper.getLsbD l
    let zeros : List RegWrite := (lanesThat (fun l => takes s h w l && w.helper.getLsbD l)).flatMap (fun l =>
      (List.range k).map (fun j => { scalar := false, lane := l, reg := f.d.toNat + j, val := 0#32 }))
    let form (i : Instr) (op : AOp) (data : Nat → Nat) (ret : Bool) : GlobalForm :=
      { i := i, lanes := lanesThat real, ea := ea, n := n, align := f.size.toNat, rd := true, wr := true, types := fun _ => true,
        room := false, acc := fun l x => accAt f (.atomic op) 0 n (data l) l (ea l) x,
        out := outOf s ret (if ret then .load f.d.toNat false false else .none) (if ret then zeros else []) }
    let block (m l : Nat) : Nat := (w.lane l).vblock f.d.toNat m
    let table : List (BitVec 3 × AOp) := [(0#3, .add), (1#3, .minS), (2#3, .maxS), (3#3, .minU), (4#3, .maxU), (5#3, .and), (6#3, .or), (7#3, .xor)]
    let works (q : GlobalForm) (image : Bool) : Prop := q.lanes ≠ [] → q.Checks s h w ∧ ∀ x, WalkRoom s w →
      ((∀ l ∈ q.lanes, (x l).mtype ≠ .io ∧ (image = true → (x l).mtype ≠ .host)) → q.Clear s w tm x →
        ∃ (t : State) (w' : Wave), exec q.i s = .next t ∧ Issues s h w (q.out (q.lanes.map (fun l => q.acc l (x l)))) t w') ∧
      (q.Clear s w tm x → ∀ l, Lowest (fun l => l ∈ q.lanes ∧ ((x l).mtype = .io ∨ image = true ∧ (x l).mtype = .host)) l →
        ∃ (u : State) (m : BitVec 64), (∀ l < 64, m.getLsbD l = takes s h w l) ∧
          u.teams = s.teams ∧ { u with cores := s.cores } = s ∧
          exec q.i s = .next (u.trapLanes h m (causeAt 18 (if (x l).mtype = .io then 1 else 2) (BitVec.ofInt 64 (ea l)))))
    (∀ op, (f.sub, op) ∈ table → works (form (.atom h f) op (block k) true) false ∧ works (form (.red h f) op (block k) false) false) ∧
    (∀ op m, (f.sub, op, m) ∈ [(0#3, AOp.xchg, k), (1#3, .cas, 2 * k), (2#3, .fadd, k), (3#3, .inc, k), (4#3, .dec, k)] →
      works (form (.atomx h f) op (block m) true) false) ∧
    (f.sub = 0#3 → works (form (.xred h f) .xredF (block 1) false) true) ∧
    (f.sub ≠ 0#3 → works (form (.xred h f) .xredImg (block k) false) true)

/-! ### Accesses at their points, and their results (13 R276, R283, 02 R35, 04 R91) -/

/-- 13 R276: ACCESS_PERFORM on plain accesses (no ordering, no release pending). In scratch: the bytes of the side. On HOMEONLY and HOST
pages: home memory, lowest address least significant. On CACHED pages below PAIR scope: the core's copies, a store into the cache
leaving memory as it is. An atomic writes its new value and gives the old one (13 R291 to R293), HOST pages apart. Every other byte stays.
13 R278: a plain load or store may be cut at a 4-byte unit, a scoped one at an 8-byte unit, into two parts performed apart. -/
def Sys2Proof.Claims.PerformedAccesses : Prop :=
  ∀ (r : WaveRef) (k j : Nat) (s : State) (tm : Team) (w : Wave) (o : Out) (a : Acc), s.team? r.team = some tm → s.wave? r = some w →
    w.outs[k]? = some o → o.accs[j]? = some a → s.accReady r k j = true → a.ord = 0 → (w.lane a.lane).relScopes = [] →
    let i := Instr.accessPerform r k j (.whole none)
    let mem : Nat → Byte := cellGet s.mem
    (∀ sd d, a.side = some sd → tm.sides[sd]? = some d → (∀ k side j, Site.scratch k side j ∉ s.poisonRegs) →
      let old := littleEndian (cellGet d.scratch) a.pa a.len
      let after (t : State) (v : Nat → Byte) : Prop := t.mem = s.mem ∧ ∃ tm' d', t.team? r.team = some tm' ∧ tm'.sides[sd]? = some d' ∧
        (∀ x, cellGet d'.scratch x = v x) ∧ (∀ e, e ≠ sd → tm'.sides[e]? = tm.sides[e]?) ∧ { bare tm' with sides := [] } = { bare tm with sides := [] }
      (a.kind = .load → ∃ t, exec i s = .next t ∧ AccessDone s r w k j a old t ∧ after t (cellGet d.scratch)) ∧
      (a.kind = .store → ∃ t, exec i s = .next t ∧ AccessDone s r w k j a 0 t ∧
        after t (storedByte (cellGet d.scratch) a.pa a.len a.data)) ∧
      (∀ op, a.kind = .atomic op → ∃ t, exec i s = .next t ∧ AccessDone s r w k j a old t ∧
        after t (storedByte (cellGet d.scratch) a.pa a.len (atomicValue op (8 * a.len) old a.data)))) ∧
    (a.side = none → Untraced s a.pa a.len → s.promo = [] → s.rings.length = 3 → (s.core w.core).notices = [] → w.core < s.cores.length →
      (∀ d ∈ (s.core w.core).draining, d.lines = []) → Sound s w.core a.pa a.len →
      (a.kind = .load → a.mtype = .homeonly ∨ a.mtype = .host →
        ∃ t, exec i s = .next t ∧ AccessDone s r w k j a (littleEndian mem a.pa a.len) t ∧ t.mem = s.mem) ∧
      (a.kind = .store → a.mtype = .homeonly ∨ a.mtype = .host →
        ∃ t, exec i s = .next t ∧ AccessDone s r w k j a 0 t ∧ ∀ x, cellGet t.mem x = storedByte mem a.pa a.len a.data x) ∧
      (∀ op, a.kind = .atomic op → a.mtype = .homeonly →
        ∃ t, exec i s = .next t ∧ AccessDone s r w k j a (littleEndian mem a.pa a.len) t ∧
          ∀ x, cellGet t.mem x = storedByte mem a.pa a.len (atomicValue op (8 * a.len) (littleEndian mem a.pa a.len) a.data) x) ∧
      (a.mtype = .cached → a.scope < 4 → (tm.pair = true → a.scope ≠ 2) → (s.core w.core).hasCache = true → a.ch ≠ 3 →
        0 < a.len → a.pa % 256 + a.len ≤ 256 → (s.core w.core).cache.length < (s.core w.core).capacity →
        (a.kind = .load → ∃ t, exec i s = .next t ∧
          AccessDone s r w k j a (littleEndian (coreByte s w.core) a.pa a.len) t ∧ t.mem = s.mem ∧
            ∀ x, coreByte t w.core x = coreByte s w.core x) ∧
        (a.kind = .store → ∃ t, exec i s = .next t ∧ AccessDone s r w k j a 0 t ∧ t.mem = s.mem ∧
          ∀ x, coreByte t w.core x = storedByte (coreByte s w.core) a.pa a.len a.data x))) ∧
    (∀ op, a.side = none → a.kind = .atomic op → a.mtype = .host → Sound s w.core a.pa a.len →
      ∃ (t : State) (w' : Wave), exec i s = .next t ∧ t.wave? r = some w' ∧ t.mem = s.mem ∧
        w'.outs = w.outs.set k { o with accs := o.accs.set j { a with state := .hostWait } } ∧
        t.hostAtomics = s.hostAtomics ++ [{ wave := r, out := o.id, acc := j, split := !(s.pcie.atomicOp && [AOp.add, .xchg, .cas].contains op && [4, 8].contains a.len) }]) ∧
    (∀ n, (a.kind = .load ∨ a.kind = .store) → (a.side = none → a.mtype ≠ .io) → (a.kind = .load → a.ch ≠ 3) → 0 < n → n < a.len →
      n % (if a.scope = 0 then 4 else 8) = 0 →
      ∃ (t : State) (w' : Wave), exec (.accessPerform r k j (.first n)) s = .next t ∧ t.wave? r = some w' ∧ { w' with outs := w.outs } = w ∧
        w'.outs = w.outs.set k { o with accs := o.accs.take j ++ [{ a with len := n, data := a.data % 2 ^ (8 * n) },
          { a with va := a.va + n, pa := a.pa + n, len := a.len - n, data := a.data / 2 ^ (8 * n), rest := true }] ++ o.accs.drop (j + 1) } ∧
        t.mem = s.mem ∧ ∀ q, q ≠ r → t.wave? q = s.wave? q)

/-- 02 R35, 06 R124, R125, 02 R41: VARIABLE_LATENCY_RESULT, once every access is performed, writes the registers of the result at one
instant and ORs its flags into WSTAT: a load of fewer than 4 bytes fills its register, sign-extended where the instruction says so; a
narrow load decodes its elements. -/
def Obligations.ResultsDelivered : Prop :=
  ∀ (r : WaveRef) (k : Nat) (s : State) (w : Wave) (o : Out), s.wave? r = some w → w.outs[k]? = some o → o.ready = true →
    (∀ a ∈ o.accs, a.state = .done ∧ a.rest = false ∧ a.lane < w.lanes.length ∧ a.lane < 64) → (o.accs.map Acc.lane).Nodup →
    let wave (w' : Wave) (t : State) : Prop := t.wave? r = some w' ∧ w'.outs = w.outs.eraseIdx k ∧ w'.lanes.length = w.lanes.length ∧
      (∀ l < w.lanes.length, { w'.lane l with v := (w.lane l).v } = w.lane l) ∧
      { w' with lanes := w.lanes, outs := w.outs, sregs := w.sregs, wstat := w.wstat } = w ∧
      { t with teams := s.teams, poisonRegs := s.poisonRegs, cores := s.cores } = s ∧ OthersSame r s t ∧
      t.cores.map (fun c => { c with latch := [] }) = s.cores.map (fun c => { c with latch := [] })
    let vectors (w' : Wave) (g : Acc → Nat → Option Nat) : Prop := (∀ i, w'.sr i = w.sr i) ∧ ∀ l < w.lanes.length,
      (∀ a ∈ o.accs, a.lane = l → ∀ i, (w'.lane l).vr i = (g a i).getD ((w.lane l).vr i)) ∧
      ((∀ a ∈ o.accs, a.lane ≠ l) → ∀ i, (w'.lane l).vr i = (w.lane l).vr i)
    let value (sx : Bool) (a : Acc) : Nat :=
      if a.len < 4 ∧ sx = true then (BitVec.ofInt 32 (({ w := 8 * a.len, signed := true } : IFmt).read (a.result % 2 ^ (8 * a.len)))).toNat
      else a.result % 2 ^ (32 * max 1 (a.len / 4))
    (∀ d sx, o.fin = .load d false sx → o.writes = [] → (∀ a ∈ o.accs, a.result < 2 ^ (8 * a.len)) →
      ∃ (t : State) (w' : Wave), exec (.variableLatencyResult r k none) s = .next t ∧ wave w' t ∧
        w'.wstat = w.wstat ||| o.flags.setWidth 32 ∧ vectors w' (fun a => block d (max 1 (a.len / 4)) (value sx a))) ∧
    (∀ d sx a, o.fin = .load d true sx → o.writes = [] → o.accs = [a] → a.result < 2 ^ (8 * a.len) →
      ∃ (t : State) (w' : Wave), exec (.variableLatencyResult r k none) s = .next t ∧ wave w' t ∧
        w'.wstat = w.wstat ||| o.flags.setWidth 32 ∧ (∀ i, w'.sr i = (block d (max 1 (a.len / 4)) (value sx a) i).getD (w.sr i)) ∧
        ∀ l < w.lanes.length, ∀ i, (w'.lane l).vr i = (w.lane l).vr i) ∧
    (∀ d desc, o.fin = .narrow d desc → desc < 2 ^ 32 → (nfDesc desc).valid = true →
      ∃ (t : State) (w' : Wave), exec (.variableLatencyResult r k none) s = .next t ∧ wave w' t ∧
        let n := (nfDesc desc).n
        let elem (a : Acc) (i : Nat) : Nat × Flags := roundTo .f32 .rn (nfDecode (nfDesc desc) (a.result / 2 ^ (i * n) % 2 ^ n))
        (∀ b, w'.wstat.getLsbD b = true ↔ w.wstat.getLsbD b = true ∨
          (b < 8 ∧ (o.flags.getLsbD b = true ∨ ∃ a ∈ o.accs, ∃ i < 8 * a.len / n, (elem a i).2.getLsbD b = true))) ∧
        vectors w' (fun a => row d ((List.range (8 * a.len / n)).map (fun i => (elem a i).1 % 2 ^ 32)))) ∧
    (o.fin = .regs → o.accs = [] → ∃ (t : State) (w' : Wave), exec (.variableLatencyResult r k none) s = .next t ∧ wave w' t ∧
      w'.wstat = w.wstat ||| o.flags.setWidth 32 ∧ ∀ l i, l < w.lanes.length → (w'.lane l).vr i = ((o.writes.foldl Wave.write w).lane l).vr i)

/-- 13 R283: a notice reaches its home slice, which then names its core for the line. 04 R91: a HOST atomic whose completion carries an
error, or never comes, traps ATOMIC with reason 3 or 4 for the lanes of its accesses, at its PC, and its results are dropped; one that
succeeds is performed. -/
def Sys2Proof.Claims.NoticesAndHostAtomics : Prop :=
  (∀ (c k : Nat) (s : State) (line n : Nat), c < s.cores.length → (s.core c).notices[k]? = some (line, n) →
    (∀ e ∈ s.promo, e.1 = line → e.2.1 = c) → s.promo.length < 2048 →
    ∃ t : State, exec (.promotionNotice c k) s = .next t ∧ t.promo = s.promo.filter (fun e => e.1 != line) ++ [(line, c, n)] ∧
      t.cores = s.cores.set c { s.core c with notices := (s.core c).notices.eraseIdx k } ∧ { t with promo := s.promo, cores := s.cores } = s) ∧
  ∀ (k i : Nat) (s : State) (tm : Team) (w : Wave) (q : HostAtomic) (o : Out) (a : Acc), s.hostAtomics[k]? = some q →
    s.team? q.wave.team = some tm → s.wave? q.wave = some w → w.outs[i]? = some o → o.id = q.out → (∀ j < i, ∀ p, w.outs[j]? = some p → p.id ≠ q.out) →
    (∀ m : BitVec 64, (∀ l < 64, m.getLsbD l = true ↔ (w.lane l).live = true ∧ ∃ b ∈ o.accs, b.lane = l) → ∀ va, o.accs[q.acc]?.map Acc.va = some va →
      (∀ p, w.prog = some p → p.begun = false) → (∀ c ∈ s.cores, ∀ e ∈ c.engine, e.team = q.wave.team → e.wave = q.wave.wave → e.storing = false) →
      let rest : State := ({ s with hostAtomics := s.hostAtomics.filter (fun x => !(x.wave == q.wave && x.out == q.out)) } : State).updWave q.wave
        (fun w => { w.goto m o.pc with outs := w.outs.eraseIdx i, prog := none })
      let traps (reason : Nat) : State := rest.raiseLanes q.wave m o.pc (causeAt 18 reason (BitVec.ofNat 64 va))
      exec (.pcieCompletion k false) s = .next (traps 3) ∧ exec (.completionTimeout k) s = .next (traps 4)) ∧
    (o.accs[q.acc]? = some a → a.side = none → a.mtype = .host → a.ord = 0 → (w.lane a.lane).relScopes = [] → s.promo = [] → Untraced s a.pa a.len →
      ∀ op, a.kind = .atomic op →
        let old := littleEndian (cellGet s.mem) a.pa a.len
        ∃ t : State, exec (.pcieCompletion k true) s = .next t ∧ AccessDone s q.wave w i q.acc a old t ∧
          t.hostAtomics = s.hostAtomics.eraseIdx k ∧
          ∀ x, cellGet t.mem x = storedByte (cellGet s.mem) a.pa a.len (atomicValue op (8 * a.len) old a.data) x)

/-- ACCESS_PERFORM: the bytes read and written and every byte left alone; notices and HOST atomics: all of the statements just named hold. Where
the spec leaves a point open this is the model's choice (log entry 27). -/
def Obligations.AccessesPerformed : Prop :=
  Claims.PerformedAccesses ∧ Claims.NoticesAndHostAtomics

/-! ### Prefetch, flush, FIFO rings, banks and streams (06 R116 to R118, R126 to R134) -/

/-- 06 R126: PREF never traps: its lanes move on, memory stays as it is, and what it leaves outstanding are only reads of sectors ahead,
on CACHED pages that may be read; or it waits for its walks, or does not issue for want of miss-status entries or of room for its misses. 06 R127: CFLUSH leaves one flush for the line of
each lane whose page is CACHED; .INV removes the line and its dirty bytes, .WB and .WBI write them home first. -/
def Sys2Proof.Claims.PrefetchAndFlush : Prop :=
  (∀ (h : Hdr) (f : MFields) (s : State) (w : Wave), Issuing s w → ∃ t : State, exec (.pref h f) s = .next t ∧ t.mem = s.mem ∧
    (t.cur.blocked = true ∧ t.wave? s.curRef = some w ∨
      (∃ (w' : Wave) (ps : List Nat), t.wave? s.curRef = some w' ∧ w'.park = .walk ps ∧ { w' with park := w.park, prog := w.prog, xl := w.xl } = w) ∨
      ∃ (w' : Wave) (os : List Out), os.length ≤ 1 ∧
      (∀ o ∈ os, o.vlr = false ∧ o.fin = .none ∧ o.writes = [] ∧ ∀ a ∈ o.accs, a.kind = .pref (f.sub != 0#3) ∧ a.mtype = .cached ∧
        takes s h w a.lane = true) ∧
      Turns s w { w with outs := w.outs ++ os } (onwards s h w) (w.runEnd || h.sw) t w')) ∧
  (∀ (h : Hdr) (f : MFields) (s : State) (w : Wave) (x : Nat → Xlat), Issuing s w → Someone s h w →
    let ea (l : Nat) : Int := globalEa h f w (w.lane l)
    WalkRoom s w → (∀ l, takes s h w l = true → 0 ≤ ea l ∧ ea l < (2 ^ 64 : Nat) ∧ canonical (ea l).toNat = true ∧
      s.look w.xl w.core s.curAsn (ea l).toNat = .hit (x l)) →
    let accs : List Acc := (lanesThat (fun l => takes s h w l && (x l).mtype == .cached)).map (fun l =>
      { lane := l, kind := .flush f.sub.toNat, side := none, va := (ea l).toNat, pa := (x l).pa / 256 * 256, len := 256, mtype := .cached, scope := 0, ord := 0, ch := 0, data := 0, state := .todo, result := 0, log2 := (x l).log2 })
    (accs ≠ [] → s.mshrFree accs = true →
      ∃ (t : State) (w' : Wave), exec (.cflush h f) s = .next t ∧ Issues s h w (outOf s true .none [] accs) t w') ∧
    (accs = [] → ∃ (t : State) (w' : Wave), exec (.cflush h f) s = .next t ∧ Turns s w w (onwards s h w) (w.runEnd || h.sw) t w' ∧
      t.mem = s.mem)) ∧
  ∀ (r : WaveRef) (k j : Nat) (s : State) (tm : Team) (w : Wave) (o : Out) (a : Acc) (sub : Nat), s.team? r.team = some tm →
    s.wave? r = some w → w.outs[k]? = some o → o.accs[j]? = some a → s.accReady r k j = true → a.kind = .flush sub → a.side = none →
    a.mtype = .cached → w.core < s.cores.length → (s.core w.core).notices = [] → (s.core w.core).draining = [] →
    Untraced s (a.pa / 256 * 256) 256 → a.pa % 256 = 0 → (∀ x ∈ (s.core w.core).cache, (x.bytes.map CByte.off).Nodup ∧ ∀ b ∈ x.bytes, b.off < 256) → (sub ≠ 1 → Unmetered s w.core) →
    ∃ t : State, exec (.accessPerform r k j (.whole none)) s = .next t ∧ AccessDone s r w k j a 0 t ∧
      (sub = 1 → t.mem = s.mem) ∧
      (sub ≠ 1 → ∀ x, cellGet t.mem x = if a.pa ≤ x ∧ x < a.pa + 256 then
          (match (s.core w.core).cbyte? x with
            | some b => if b.dirty then b.val else cellGet s.mem x
            | none => cellGet s.mem x) else cellGet s.mem x) ∧
      (sub = 0 → ∀ x, a.pa ≤ x → x < a.pa + 256 →
        (∀ b, (s.core w.core).cbyte? x = some b → b.dirty = false → ∀ i < 4, (s.core w.core).cbyte? (x / 4 * 4 + i) ≠ none) → coreByte t w.core x = coreByte s w.core x) ∧
      (sub = 1 ∨ sub = 2 → (t.core w.core).line? (a.pa / 256) = none) ∧
      ∀ n, n ≠ a.pa / 256 → (t.core w.core).line? n = (s.core w.core).line? n

/-- 06 R128, R129: FIFOPUSH fills the tail slot with each lane's bytes, zero for lanes that do not take part and above; FIFOPOP empties
the head slot into the lanes that take part; a full or an empty ring, or an earlier waiter, holds the instruction back, which joins
the order of the waiting pushers or poppers where it first finds itself held; a bank that is no FIFO, or a slot too small, traps with
PROTECT. Where the spec leaves a point open this is the model's choice (log entries 44, 59). -/
def Obligations.FifoRings : Prop :=
  ∀ (h : Hdr) (f : MFields) (s : State) (w : Wave) (tm : Team) (g : Ring), Issuing s w → Someone s h w →
    s.team? s.cur.team = some tm → w.core < s.cores.length → w.outs = [] → NoUpdates s → tm.width ≤ 64 →
    let bank := f.off.toNat % 64
    let n := 2 ^ f.size.toNat
    let k := max 1 (n / 4)
    let fifo : Prop := (s.core w.core).banks[bank]? = some .fifo ∧ (s.core w.core).rings.find? (fun x => x.bank == bank) = some g
    let me : WaveRef × Word := (s.curRef, s.cur.pc)
    let turn (l : List (WaveRef × Word)) : Prop := IsTurn s l me
    let ring (t : State) (g' : Ring) : Prop := { t with teams := s.teams, uid := s.uid } = s.updCore w.core (fun c =>
      { c with rings := c.rings.map (fun x => if x.bank == bank then g' else x) })
    let others (l : List (WaveRef × Word)) : List (WaveRef × Word) := l.filter (fun x => x != me)
    let joined (l : List (WaveRef × Word)) : List (WaveRef × Word) := if l.contains me then l else l ++ [me]
    let waits (t : State) (g' : Ring) : Prop := t.cur.blocked = true ∧ { t with cur := s.cur } = s.updCore w.core (fun c =>
      { c with rings := c.rings.map (fun x => if x.bank == bank then g' else x) })
    let one : Prop := ∀ x y, x ∈ (s.core w.core).rings → y ∈ (s.core w.core).rings → x.bank = y.bank → x = y
    ((s.core w.core).banks[bank]? ≠ some .fifo → ∀ i ∈ [Instr.fifopush h f, .fifopop h f], Traps i h s (takes s h w) (cause 3 9 0 0)) ∧
    (fifo → g.slotBytes < tm.width * n → ∀ i ∈ [Instr.fifopush h f, .fifopop h f], Traps i h s (takes s h w) (cause 3 10 0 0)) ∧
    (fifo → tm.width * n ≤ g.slotBytes → g.slots.length < g.nslot → turn g.pushers →
      one →
      ∃ (t : State) (w' : Wave) (bs : List Byte) (ts : List RelTag), exec (.fifopush h f) s = .next t ∧
        Turns s w w (onwards s h w) (w.runEnd || h.sw) t w' ∧
        ring t { g with slots := g.slots ++ [(bs, ts)], tail := (g.tail + 1) % g.nslot, pushers := others g.pushers } ∧
        bs.length = g.slotBytes ∧ ∀ b < g.slotBytes, bs[b]? = some (
          if b / n < tm.width ∧ takes s h w (b / n) = true ∧ w.helper.getLsbD (b / n) = false then
            BitVec.ofNat 8 ((w.lane (b / n)).vblock f.d.toNat k / 2 ^ (8 * (b % n))) else 0#8)) ∧
    (fifo → tm.width * n ≤ g.slotBytes → (g.nslot ≤ g.slots.length ∨ ¬ turn g.pushers) →
      one → ∃ t : State, exec (.fifopush h f) s = .next t ∧ waits t { g with pushers := joined g.pushers }) ∧
    (fifo → tm.width * n ≤ g.slotBytes → ∀ bs ts rest, g.slots = (bs, ts) :: rest → turn g.poppers →
      one →
      ∃ (t : State) (w' : Wave) (o : Out), exec (.fifopop h f) s = .next t ∧
        Turns s w { w with outs := [o] } (onwards s h w) (w.runEnd || h.sw) t w' ∧
        ring t { g with slots := rest, head := (g.head + 1) % g.nslot, poppers := others g.poppers } ∧
        o.vlr = true ∧ o.ready = true ∧ o.fin = .regs ∧ o.accs = [] ∧
        Delivers o.writes s h w (fun l => block f.d.toNat k (littleEndian (fun b => bs.getD b 0#8) (l * n) n))) ∧
    (fifo → tm.width * n ≤ g.slotBytes → (g.slots = [] ∨ ¬ turn g.poppers) →
      one → ∃ t : State, exec (.fifopop h f) s = .next t ∧ waits t { g with poppers := joined g.poppers })

/-- 06 R117, R118: BANKCFG needs handler mode or the launch's permit; a malformed word and a busy bank trap with PROTECT; otherwise the
bank takes its mode at once, a FIFO with an empty ring, and the lines of a bank that leaves CACHE mode drain until
BANKCFG_DRAIN_DONE finds none of their dirty bytes left, which completes the instruction. -/
def Sys2Proof.Claims.BankConfiguration : Prop :=
  (∀ (h : Hdr) (f : MFields) (s : State) (w : Wave), Issuing s w → (∃ l, takes s h w l = true ∧ w.helper.getLsbD l = false) →
    w.core < s.cores.length → (s.core w.core).banks.length = 48 → (s.core w.core).notices = [] →
    let v : BitVec 64 := BitVec.ofNat 64 (w.sr f.a.toNat + 2 ^ 32 * w.sr (f.a.toNat + 1))
    let bank := (v.extractLsb' 0 6).toNat
    let mode := v.extractLsb' 6 2
    let nslot := (v.extractLsb' 40 12).toNat
    let slotsz := (v.extractLsb' 32 8).toNat
    let new : BankMode := if mode = 0#2 then .cache else if mode = 1#2 then .scratch else .fifo
    let formed : Prop := v.extractLsb' 52 12 = 0#12 ∧ v.extractLsb' 8 24 = 0#24 ∧ mode ≠ 3#2 ∧ bank < 48 ∧
      (mode = 2#2 → nslot ≠ 0 ∧ (nslot + 1) * (slotsz + 1) * 16 ≤ 65536) ∧ (mode ≠ 2#2 → nslot = 0 ∧ slotsz = 0)
    let permit : Prop := w.hmode = true ∨ (s.curBlock.getD 2 0).getLsbD 38 = true
    (¬ permit → Traps (.bankcfg h f) h s (takes s h w) (cause 17 0x8B 0 0)) ∧
    (permit → ¬ formed → Traps (.bankcfg h f) h s (takes s h w) (cause 3 7 0 0)) ∧
    (permit → formed → s.bankBusy w.core bank mode.toNat = true → Traps (.bankcfg h f) h s (takes s h w) (cause 3 8 0 0)) ∧
    (permit → formed → s.bankBusy w.core bank mode.toNat = false →
      ∃ (t : State) (w' : Wave) (c' : Core), exec (.bankcfg h f) s = .next t ∧
        let leaves : Bool := (s.core w.core).banks[bank]? == some .cache && mode != 0#2
        Turns s w { w with outs := w.outs ++ [{ outOf s true .none [] [] with ready := !leaves }] } (onwards s h w) (w.runEnd || h.sw) t w' ∧
        { t with teams := s.teams, uid := s.uid, cores := s.cores } = s ∧ t.cores = s.cores.set w.core c' ∧
        c'.banks = (s.core w.core).banks.set bank new ∧
        c'.rings = (s.core w.core).rings.filter (fun x => x.bank != bank) ++ (if mode = 2#2 then
          [{ bank := bank, nslot := nslot + 1, slotBytes := (slotsz + 1) * 16, head := 0, tail := 0, slots := [], pushers := [], poppers := [] }] else []) ∧
        c'.cache = (if leaves then (s.core w.core).cache.filter (fun x => x.bank != bank) else (s.core w.core).cache) ∧
        c'.draining = (s.core w.core).draining ++ (if leaves then
          [{ bank := bank, wave := s.curRef, out := s.uid, lines := (s.core w.core).cache.filter (fun x => x.bank == bank) }] else []))) ∧
  ∀ (c bank : Nat) (s : State) (d : BankDrain) (w : Wave), c < s.cores.length → (s.core c).notices = [] →
    ((s.core c).cache.map CLine.line).Nodup → (s.core c).draining.find? (fun x => x.bank == bank) = some d → s.wave? d.wave = some w →
    let held (u : State) (y : CLine) (b : CByte) : Prop := (y ∈ (u.core c).cache ∨ ∃ e ∈ (u.core c).draining, y ∈ e.lines) ∧
      (∃ z ∈ d.lines, z.line = y.line) ∧ b ∈ y.bytes ∧ b.dirty = true
    ∃ t : State, exec (.bankcfgDrainDone c bank) s = .next t ∧ (∀ q, q ≠ d.wave → t.wave? q = s.wave? q) ∧
      ((∃ y b, held t y b) → t.wave? d.wave = some w ∧ ∃ e ∈ (t.core c).draining, e.out = d.out) ∧
      ((¬ ∃ y b, held t y b) → (∀ e ∈ (t.core c).draining, e.out ≠ d.out) ∧
        t.wave? d.wave = some { w with outs := w.outs.map (fun o => if o.id = d.out then { o with ready := true } else o) }) ∧
      (Unmetered s c → ¬ ∃ y b, held t y b) ∧
      ∀ x, (∀ y b, held s y b → 256 * y.line + b.off ≠ x ∧ Untraced s (256 * y.line + b.off) 1) → cellGet t.mem x = cellGet s.mem x

/-- PREF, CFLUSH and BANKCFG: all of the statements just named hold. Where the spec leaves a point open this is the model's choice (log entries
44, 55). -/
def Obligations.CacheAndBanks : Prop :=
  Claims.PrefetchAndFlush ∧ Claims.BankConfiguration

/-- 06 R130, R133: STRM binds a stream, STRMX unbinds it, QSTAT reads its state; a pattern out of shape traps with COPY, a misaligned
one with ALIGN, a base that is not canonical with PROTECT. -/
def Sys2Proof.Claims.StreamBinding : Prop :=
  ∀ (h : Hdr) (s : State) (w : Wave), Issuing s w → Someone s h w → w.streams.length = 8 →
    (∀ f : CFields,
      let nd := (f.d.extractLsb' 6 2).toNat + 1
      let p := (f.d.extractLsb' 3 3).toNat
      let half (v j : Nat) : Nat := if j = 0 then v % 2 ^ 16 else v / 2 ^ 16 % 2 ^ 16
      let e (k : Nat) : Nat := half (w.sr (f.e.toNat + k / 2)) (k % 2)
      let st (k : Nat) : Int := i32.read (w.sr (f.b.toNat + k))
      let es := w.sr (f.e.toNat + 3)
      let ls : Int := i32.read (w.sr (f.e.toNat + 2))
      let base : BitVec 64 := BitVec.ofNat 64 (w.sr f.a.toNat + 2 ^ 32 * w.sr (f.a.toNat + 1))
      let size : Int := 4 * 2 ^ es
      let bound : Stream :=
        { bound := true, base := base, strides := (List.range nd).map st, extents := (List.range nd).map e, laneStride := ls, esize := es, pred := p, nd := nd, next := 0, fetched := 0, queue := [], stopped := false }
      let shape : Prop := es < 3 ∧ (p = 7 ∨ p + nd ≤ 7) ∧ ∀ k < 4, if k < nd then e k ≠ 0 else e k = 0 ∧ st k = 0
      let aligned : Prop := size ∣ (base.toNat : Int) ∧ size ∣ ls ∧ ∀ k < 4, size ∣ st k
      (¬ shape → Traps (.strm h f) h s (takes s h w) (causeAt 7 1 0#64)) ∧
      (shape → ¬ aligned → Traps (.strm h f) h s (takes s h w) (causeAt 4 (es + 2) base)) ∧
      (shape → aligned → canonical base.toNat = false → Traps (.strm h f) h s (takes s h w) (causeAt 3 1 base)) ∧
      (shape → aligned → canonical base.toNat = true → ∃ (t : State) (w' : Wave), exec (.strm h f) s = .next t ∧
        Becomes s w { w with streams := w.streams.set (f.d.extractLsb' 0 3).toNat bound } (onwards s h w) (w.runEnd || h.sw) t w') ∧
      ∃ (t : State) (w' : Wave), exec (.strmx h f) s = .next t ∧
        Becomes s w { w with streams := w.streams.set (f.d.extractLsb' 0 3).toNat Stream.reset } (onwards s h w) (w.runEnd || h.sw) t w') ∧
    (∀ (f : MFields) (q : Stream), w.streams[f.off.toNat % 8]? = some q → q.queue.length ≤ 16 → q.esize < 4 →
      ∃ (t : State) (w' : Wave) (v : Nat), exec (.qstat h f) s = .next t ∧ ScalarStep s h w f.d.toNat 1 v t w' ∧
        v % 32 = q.queue.length ∧ v.testBit 5 = q.bound ∧ v.testBit 6 = (q.bound && q.next == q.extents.prod) ∧
        v.testBit 7 = q.stopped ∧ v / 256 = q.esize)

/-- 06 R130 to R132: QPOP gives each lane its element of the next step, advances the stream by one step and writes the predicates in every
lane of the wave; an empty queue makes it read the step as a load; another size than the stream's traps with COPY, reason 1, an
unbound or finished stream with reason 10; a step that fetching has stopped at stays so until a QPOP reaches it. STREAM_FETCH appends the next step of a stream whose elements may be read, and stops at one whose may not. -/
def Sys2Proof.Claims.StreamSteps : Prop :=
  (∀ (h : Hdr) (f : MFields) (s : State) (w : Wave) (q : Stream), Issuing s w → Someone s h w → w.streams.length = 8 →
    w.streams[f.off.toNat % 8]? = some q →
    let n := 2 ^ f.size.toNat
    let k := max 1 (n / 4)
    let open' : Prop := q.bound = true ∧ q.next < q.extents.prod
    let next : Stream := { q with
      next := q.next + 1, fetched := max q.fetched (q.next + 1), queue := q.queue.drop 1,
      stopped := q.stopped && !q.queue.isEmpty, paid := if q.queue.isEmpty then [] else q.paid }
    let popped (w' : Wave) (o : Out) : Prop := w'.lanes.length = w.lanes.length ∧
      (∀ l < w.lanes.length, { w'.lane l with p := (w.lane l).p } = onwards s h w l ∧
        ∀ j < 7, (w'.lane l).pred j = if q.pred ≠ 7 ∧ q.pred ≤ j ∧ j < q.pred + q.nd then
          decide (∀ i ≤ j - q.pred, dimIndex q.extents q.next i + 1 = q.extents.getD i 0) else (w.lane l).pred j) ∧
      { w' with lanes := w.lanes, runEnd := w.runEnd, prog := w.prog, xl := w.xl, outs := w.outs, streams := w.streams } = w ∧
      w'.outs = w.outs ++ [o] ∧ w'.streams = w.streams.set (f.off.toNat % 8) next ∧ w'.runEnd = (w.runEnd || h.sw) ∧ w'.prog = none
    (¬ open' → (q.bound = true → n = 4 * 2 ^ q.esize) → Traps (.qpop h f) h s (takes s h w) (causeAt 7 10 0#64)) ∧
    (q.bound = true → n ≠ 4 * 2 ^ q.esize → Traps (.qpop h f) h s (takes s h w) (causeAt 7 1 0#64)) ∧
    (q.extents.length = q.nd → q.strides.length = q.nd → open' → n = 4 * 2 ^ q.esize →
      (∀ data rest, q.queue = data :: rest → (∀ l, takes s h w l = true → l < data.length) →
        ∃ (t : State) (w' : Wave) (o : Out), exec (.qpop h f) s = .next t ∧ t.wave? s.curRef = some w' ∧ popped w' o ∧
          o.vlr = true ∧ o.ready = true ∧ o.fin = .regs ∧ o.accs = [] ∧
          Delivers o.writes s h w (fun l => block f.d.toNat k ((data.getD l (0, 0)).2)) ∧
          { t with teams := s.teams, uid := s.uid } = s) ∧
      ∀ x : Nat → Xlat, q.queue = [] → WalkRoom s w →
        let ea (l : Nat) : Int := streamAddr q q.next l
        (∀ l, takes s h w l = true → 0 ≤ ea l ∧ ea l < (2 ^ 64 : Nat) ∧ canonical (ea l).toNat = true ∧
          s.look w.xl w.core s.curAsn (ea l).toNat = .hit (x l) ∧ (x l).perms.getLsbD 0 = true ∧ (x l).mtype ≠ .io ∧ Sound s w.core (x l).pa n) →
        let accs : List Acc := (lanesThat (takes s h w)).map (fun l => accAt { f with scope := 0, ord := 0, ch := 0 } .load 0 n 0 l (ea l) (x l))
        s.mshrFree accs = true → ∃ (t : State) (w' : Wave), exec (.qpop h f) s = .next t ∧ t.wave? s.curRef = some w' ∧
          popped w' (outOf s true (.load f.d.toNat false false) [] accs) ∧ t.mem = s.mem)) ∧
  ∀ (r : WaveRef) (n : BitVec 3) (s : State) (tm : Team) (w : Wave) (q : Stream) (x : Nat → Xlat), s.team? r.team = some tm →
    s.wave? r = some w → w.streams.length = 8 → w.streams[n.toNat]? = some q → q.bound = true → q.stopped = false → q.queue.length < 16 →
    q.fetched < q.extents.prod → q.extents.length = q.strides.length → w.ended = false → w.stop = false →
    Unmetered s w.core → (∀ a ∈ s.hostAtomics, a.split = false) →
    (∀ l < tm.width, 0 ≤ streamAddr q q.fetched l ∧ streamAddr q q.fetched l < (2 ^ 64 : Nat) ∧ canonical (streamAddr q q.fetched l).toNat = true ∧
      (s.core w.core).tlb.find? (fun e => e.covers (BitVec.ofNat 12 (s.block tm.launch).asn) (streamAddr q q.fetched l).toNat) ≠ none ∧
      s.look [] w.core (BitVec.ofNat 12 (s.block tm.launch).asn) (streamAddr q q.fetched l).toNat = .hit (x l)) →
    let fetch (q' : Stream) : Prop := ∃ (t : State) (w' : Wave), exec (.streamFetch r n) s = .next t ∧ t.wave? r = some w' ∧
      w' = { w with streams := w.streams.set n.toNat q' } ∧ t.mem = s.mem ∧ ∀ p, p ≠ r → t.wave? p = s.wave? p
    ((∀ l < tm.width, (x l).perms.getLsbD 0 = true ∧ ((x l).mtype = .homeonly ∨ (x l).mtype = .host) ∧ Sound s w.core (x l).pa (4 * 2 ^ q.esize)) →
      fetch { q with fetched := q.fetched + 1, paid := [], queue := q.queue ++ [(List.range tm.width).map (fun l => ((x l).pa, littleEndian (cellGet s.mem) (x l).pa (4 * 2 ^ q.esize)))] }) ∧
    ((∃ l < tm.width, ((x l).perms.getLsbD 0 = false ∨ (x l).mtype = .io) ∧ ∀ k < l, (x k).perms.getLsbD 0 = true ∧ ((x k).mtype = .homeonly ∨ (x k).mtype = .host) ∧ Sound s w.core (x k).pa (4 * 2 ^ q.esize)) →
      fetch { q with stopped := true })

/-- STRM, STRMX, QSTAT, QPOP and the stream engine: all of the statements just named hold. Where the spec leaves a point open this is the
model's choice (log entry 44). -/
def Obligations.Streams : Prop :=
  Claims.StreamBinding ∧ Claims.StreamSteps


/-! ### Fences, waits and barriers (13 R282, 14 R320, R321) -/

/-- 13 R280, R282, R285: with nothing outstanding, FENCE moves its lanes on. A release fence of wide scope writes the core's dirty bytes back;
an acquire fence of wide scope leaves no clean byte in the core's cache, and sets SCOPEMISS when a read of its lanes met a release that
does not overlap; the lanes keep the scope of a release fence beside those before it. FENCE.LD waits for no
store. -/
def Sys2Proof.Claims.Fences : Prop :=
  ∀ (h : Hdr) (f : YFields) (s : State) (w : Wave) (tm : Team), Issuing s w → Someone s h w → s.team? s.cur.team = some tm →
    (w.outs = [] ∧ NoUpdates s ∨ f.sub = 1#2 ∧ ∀ o ∈ w.outs, ∀ a ∈ o.accs, a.kind.reads = false) →
    w.core < s.cores.length → PlainCache s w.core → Unmetered s w.core →
    let scope := f.imm.toNat % 8
    let acq : Prop := f.sub ≠ 2#2
    let rel : Prop := f.sub ≠ 1#2
    let wide : Prop := 4 ≤ scope ∨ tm.pair = true ∧ scope = 2
    ∃ (t : State) (w' : Wave), exec (.fence h f) s = .next t ∧
      Turns s w { w with wstat := w'.wstat } (fun l =>
        if takes s h w l ∧ f.sub ≠ 1#2 then { onwards s h w l with relScopes := (List.range 7).filter (fun k => k == scope || (w.lane l).relScopes.contains k) } else onwards s h w l)
        (w.runEnd || h.sw) t w' ∧
      (∀ i, w'.wstat.getLsbD i = true ↔ w.wstat.getLsbD i = true ∨ (fSCOPEMISS.getLsbD i = true ∧ acq ∧
        ∃ l x, takes s h w l = true ∧ x ∈ (w.lane l).seen ∧ x.overlaps s.cur.team w.id w.core scope = false)) ∧
      (∀ x, cellGet t.mem x = if f.sub ≠ 1#2 ∧ (4 ≤ scope ∨ tm.pair = true ∧ scope = 2) then writtenBack s w.core x else cellGet s.mem x) ∧
      (acq → wide → (∀ b x, (t.core w.core).cbyte? x = some b → b.dirty = true ∧ (s.core w.core).cbyte? x = some b) ∧
        (rel → (t.core w.core).cache = []) ∧
        (¬ rel → ∀ b x, (s.core w.core).cbyte? x = some b → b.dirty = true → (t.core w.core).cbyte? x = some b)) ∧
      (¬ (acq ∧ wide) → ∀ x, coreByte t w.core x = coreByte s w.core x)

/-- 14 R320: WAITW goes on at once when the word differs from the compared value, and parks the wave when it is equal; WAITW_WAKE lets
the wave go on when the word differs, WAITW_TIMEOUT when IMM16 is not 0. -/
def Sys2Proof.Claims.WatchedWords : Prop :=
  (∀ (h : Hdr) (f : YFields) (s : State) (w : Wave) (x : Xlat), Issuing s w → Someone s h w →
    let n := if f.sub = 0#2 then 4 else 8
    let va := w.sr f.a.toNat + 2 ^ 32 * w.sr (f.a.toNat + 1)
    let c := if f.sub = 0#2 then w.sr f.d.toNat else w.sr f.d.toNat + 2 ^ 32 * w.sr (f.d.toNat + 1)
    (va % n ≠ 0 → Traps (.waitw h f) h s (takes s h w) (causeAt 4 (if f.sub = 0#2 then 2 else 3) (BitVec.ofNat 64 va))) ∧
    (va % n = 0 → canonical va = true → s.look w.xl w.core s.curAsn va = .hit x → x.perms.getLsbD 0 = true → x.mtype ≠ .io →
      Sound s w.core x.pa n → WalkRoom s w → ReadsAtOnce s s.curRef w →
      (littleEndian (cellGet s.mem) x.pa n ≠ c →
        ∃ (t : State) (w' : Wave), exec (.waitw h f) s = .next t ∧ Turns s w w (onwards s h w) true t w' ∧ t.mem = s.mem) ∧
      (littleEndian (cellGet s.mem) x.pa n = c →
        ∃ (t : State) (w' : Wave), exec (.waitw h f) s = .next t ∧ t.mem = s.mem ∧
          Turns s w { w with park := .waitw va x.pa n x.mtype x.log2 c f.imm.toNat s.cur.mask } w.lane true t w'))) ∧
  ∀ (r : WaveRef) (s : State) (w : Wave) (va pa n g c tmo : Nat) (ty : MType) (m : BitVec 64), s.wave? r = some w →
    w.park = .waitw va pa n ty g c tmo m → w.stop = false → (∀ a ∈ s.hostAtomics, a.split = false) →
    let gone (t : State) : Prop := ∃ w' : Wave, t.wave? r = some w' ∧ { w' with lanes := w.lanes } = { w with park := .none } ∧
      w'.lanes.length = w.lanes.length ∧
      (∀ l < w.lanes.length, w'.lane l = if m.getLsbD l then { w.lane l with pc := (w.lane l).pc + 8#64 } else w.lane l) ∧
      { t with teams := s.teams } = s ∧ OthersSame r s t
    (tmo = 0 → exec (.waitwTimeout r) s = .next s) ∧
    (tmo ≠ 0 → ∃ t : State, exec (.waitwTimeout r) s = .next t ∧ gone t) ∧
    (ty ≠ .io → littleEndian (cellGet s.mem) pa n = c → exec (.waitwWake r) s = .next s) ∧
    (ty ≠ .io → littleEndian (cellGet s.mem) pa n ≠ c → ∃ t : State, exec (.waitwWake r) s = .next t ∧ gone t)

/-- FENCE and WAITW, and what wakes a watched word: all of the statements just named hold. -/
def Obligations.FencesAndWatches : Prop :=
  Claims.Fences ∧ Claims.WatchedWords

/-- 14 R321: BAR counts the wave once at its barrier; SYNC makes the lanes wait, ARRIVE lets them move on; when every wave that has not
ended has arrived, the phase advances, the count and the marks clear and the waiting lanes move to PC + 8. -/
def Sys2Proof.Claims.Barriers : Prop :=
  ∀ (h : Hdr) (f : YFields) (s : State) (w : Wave) (tm : Team) (x : Barrier), Issuing s w → Someone s h w → s.team? s.cur.team = some tm →
    tm.pair = false → w.outs = [] → NoUpdates s → (∀ v ∈ tm.waves, v.lanes.length ≤ 64) → tm.barriers.length = 16 →
    let b := f.imm.toNat % 16
    let live := (tm.waves.filter (fun v => !v.ended)).length
    tm.barriers[b]? = some x → (∀ k y, k ≠ b → tm.barriers[k]? = some y → y.count = 0 ∨ y.count < live) →
    let n := if x.marks.getLsbD w.id then x.count else x.count + 1
    let done : Bool := decide (n ≠ 0) && decide (live ≤ n)
    let go (ln : Lane) : Lane := if done && ln.live && ln.wait == .barsync b then { ln with pc := ln.pc + 8#64, wait := .none } else ln
    let mine (l : Nat) : Lane :=
      if takes s h w l && f.sub == 0#2 then { w.lane l with wait := .barsync b } else onwards s h w l
    ∃ (t : State) (tm' : Team) (w' : Wave), exec (.bar h f) s = .next t ∧ TeamRest s tm tm' t ∧ tm'.tags = tm.tags ∧
      tm'.barriers = tm.barriers.set b (if done then { phase := x.phase + 1#32, count := 0, marks := 0#64 }
        else { x with count := n, marks := x.marks ||| (1#64 <<< w.id) }) ∧
      t.wave? s.curRef = some w' ∧ w'.lanes.length = w.lanes.length ∧ (∀ l < w.lanes.length, w'.lane l = go (mine l)) ∧
      w'.runEnd = true ∧ { w' with lanes := w.lanes, runEnd := w.runEnd, prog := w.prog, xl := w.xl } = w ∧
      (∀ k, k ≠ s.cur.wave → tm'.waves[k]? = (tm.waves[k]?).map (fun v => { v with lanes := v.lanes.map go })) ∧
      { t with teams := s.teams } = s

/-! ### Tags (05 R105 to R107) -/

/-- 05 R105, R106: TAGARM sets the expected count and arms; the tag is ready when N has reached E; TAGCLR clears the tags of a mask;
TAGFF gives the lowest ready tag, 64 when none is; TAGWAIT goes on when the tags are ready and parks the wave otherwise; both trap with
COPY for the lowest failed tag. -/
def Sys2Proof.Claims.Tags : Prop :=
  ∀ (h : Hdr) (f : CFields) (s : State) (w : Wave) (tm : Team), Issuing s w →
    (∃ l, takes s h w l = true ∧ w.helper.getLsbD l = false) → s.team? s.cur.team = some tm → tm.tags.length = 64 →
    let m := w.sr f.a.toNat + 2 ^ 32 * w.sr (f.a.toNat + 1)
    let tag (k : Nat) : Tag := tm.tags.getD k Tag.reset
    let told (g : Tag) : Nat := if g.reason / 16 = 0 ∨ g.reason / 16 = w.id + 1 then g.reason % 16 else 9
    let failing (k : Nat) (i : Instr) : Prop := ∃ s' : State, (∀ q, s'.wave? q = s.wave? q) ∧ { s' with teams := s.teams } = s ∧
      (∃ r, (s'.team? s.cur.team).map (fun t => t.tags) = some (tm.tags.set k { tag k with reason := r }) ∧ r % 16 = (tag k).reason % 16) ∧
      ∃ p : BitVec 64, (∀ l < 64, p.getLsbD l = takes s h w l) ∧
        exec i s = .next (s'.trapLanes h p (causeAt 7 (told (tag k) + 16 * k) 0#64))
    let changed (t : State) (tags : List Tag) : Prop := ∃ (tm' : Team) (w' : Wave), TeamRest s tm tm' t ∧ tm'.tags = tags ∧
      tm'.barriers = tm.barriers ∧ Turns s w w (onwards s h w) (w.runEnd || h.sw) t w' ∧ { t with teams := s.teams } = s
    (∃ t : State, exec (.tagarm h f) s = .next t ∧
      let g := tag f.tag.toNat
      let e := w.sr f.a.toNat
      changed t (tm.tags.set f.tag.toNat { g with armed := true, e := BitVec.ofNat 32 e, ready := g.ready || (!g.failed && decide (e % 2 ^ 32 ≤ g.n.toNat)) })) ∧
    (∃ (t : State) (tags : List Tag), exec (.tagclr h f) s = .next t ∧ changed t tags ∧
      ∀ k < 64, tags[k]? = some (if m.testBit k then Tag.reset else tag k)) ∧
    (∀ k, lowestTag (fun k => (tag k).failed = true) m (some k) → failing k (.tagff h f)) ∧
    (lowestTag (fun k => (tag k).failed = true) m none →
      ∀ v, lowestTag (fun k => (tag k).ready = true) m v →
        ∃ (t : State) (w' : Wave), exec (.tagff h f) s = .next t ∧
          Turns s w { w with sregs := w'.sregs } (onwards s h w) (w.runEnd || h.sw) t w' ∧
          (∀ r, w'.sr r = (block f.d.toNat 1 (v.getD 64) r).getD (w.sr r)) ∧ t.mem = s.mem) ∧
    (h.x = none → (∀ l, s.cur.mask.getLsbD l = true → (w.lane l).pc = s.cur.pc) → w.stop = false →
      (∀ k, lowestTag (fun k => (tag k).failed = true) m (some k) → failing k (.tagwait h f)) ∧
      (lowestTag (fun k => (tag k).failed = true) m none →
        let ready : Prop := m = 0 ∨ if f.sub = 1#2 then ∃ k < 64, m.testBit k = true ∧ (tag k).ready = true
          else ∀ k < 64, m.testBit k = true → (tag k).ready = true
        (ready → ∃ (t : State) (w' : Wave), exec (.tagwait h f) s = .next t ∧
          Turns s w { w with park := .none } (fun l => if s.cur.mask.getLsbD l then { w.lane l with pc := s.cur.pc + 8#64 } else w.lane l) true t w' ∧
          t.mem = s.mem) ∧
        (¬ ready → ∃ (t : State) (w' : Wave) (p : BitVec 64), exec (.tagwait h f) s = .next t ∧ (∀ l < 64, p.getLsbD l = takes s h w l) ∧
          Turns s w { w with park := .tagwait (f.sub == 1#2) (BitVec.ofNat 64 m) s.cur.mask p } w.lane true t w' ∧
          { t with teams := s.teams } = s)))

/-- BAR, TAGARM, TAGCLR, TAGFF and TAGWAIT: all of the statements just named hold. -/
def Obligations.BarriersAndTags : Prop :=
  Claims.Barriers ∧ Claims.Tags

/-! ### The matrix engine (10 R201 to R225) -/

/-- 10 R203, R204, R206: OBRES reserves the lowest free range of the allocation, writes the record and the offset, or 0xFFFFFFFF where no
range is large enough; a slot in use and a description out of shape trap with MATRIX. OBREL empties a slot that nothing uses. -/
def Sys2Proof.Claims.Reservations : Prop :=
  (∀ (h : Hdr) (f : CFields) (s : State) (w : Wave) (tm : Team) (d : Side), Issuing s w → Acting s h w → s.team? s.cur.team = some tm →
    tm.sides[ownSide tm w]? = some d → d.slots.length = 16 →
    let slot := f.tag.toNat % 16
    let e (k : Nat) : Nat := w.sr (f.e.toNat + k)
    let p := panelOf (e 0 % 2 ^ 21 + w.sr f.a.toNat * 2 ^ 96 + w.sr (f.a.toNat + 1) * 2 ^ 64)
    let nfBad (x : Nat) : Prop := (nfDesc x).valid = false ∨ ((nfDesc x).spec = 2 ∧ (nfDesc x).m = 0)
    let size : Nat := if p.itype ≤ 1 then 16 else if p.itype ≤ 4 then 8 else 4
    let most : Nat := if p.itype = 8 then 320 else 512 / size
    let blen : Nat := [1, 16, 32, 64].getD p.blk 0
    let bad : Prop := 8 < p.itype ∨ p.kext % (if p.itype = 8 then 40 else 8) ≠ 0 ∨ p.kext < 8 ∨ most < p.kext ∨
      2 ^ 21 ≤ e 0 ∨ e 1 ≠ 0 ∨ e 2 ≠ 0 ∨ e 3 ≠ 0 ∨
      (if p.itype = 4 ∨ p.itype = 7 then nfBad p.desc ∨ size < (nfDesc p.desc).n else p.desc ≠ 0) ∨
      (p.blk ≠ 0 ∧ (p.itype ≤ 1 ∨ p.kext % blen ≠ 0)) ∨ p.sfmt = 3 ∨ (if p.sfmt = 2 then nfBad p.sdesc else p.sdesc ≠ 0) ∨
      (p.asc = true ∧ p.blk = 0) ∨ (p.tr = true ∧ p.itype = 8)
    let area (n : Nat) : Nat := (n + 255) / 256 * 256
    let pb := if p.itype = 8 then 64 * p.kext / 5 else 64 * p.kext * size / 8
    let bb := if p.spb then 512 else 0
    let sb := if p.blk = 0 then 0 else 64 * (p.kext / blen) * (if p.sfmt = 1 then 2 else 1)
    let need := area pb + area bb + area sb
    let alloc := (tm.obufBytes + 4095) / 4096 * 4096
    (d.panel? slot ≠ none → Traps (.obres h f) h s (takes s h w) (cause 8 (2 + 16 * slot) 0 0)) ∧
    (d.panel? slot = none → bad → Traps (.obres h f) h s (takes s h w) (cause 8 (1 + 16 * slot) 0 0)) ∧
    (d.panel? slot = none → ¬ bad → alloc ≤ 2 ^ 20 →
      (∀ base, Lowest (FreeAt d alloc need) base → ∃ (t : State) (r : BitVec 128) (w' : Wave), exec (.obres h f) s = .next t ∧
        SideStep s h w { w with sregs := w'.sregs } tm { d with slots := d.slots.set slot r } t ∧
        (∀ k, w'.sr k = (block f.d.toNat 1 base k).getD (w.sr k)) ∧ r.getLsbD 63 = true ∧
        (base % 256 = 0 → panelOf r.toNat = { p with
          base := base, spoff := (if p.spb then base + area pb else 0), scoff := (if p.blk = 0 then 0 else base + area pb + area bb) })) ∧
      ((∀ base, ¬ FreeAt d alloc need base) → ∃ (t : State) (w' : Wave), exec (.obres h f) s = .next t ∧
        Becomes s w { w with sregs := w'.sregs } (onwards s h w) (w.runEnd || h.sw) t w' ∧
        ∀ k, w'.sr k = (block f.d.toNat 1 0xFFFFFFFF k).getD (w.sr k)))) ∧
  ∀ (h : Hdr) (f : YFields) (s : State) (w : Wave) (tm : Team) (d : Side), Issuing s w → Acting s h w → s.team? s.cur.team = some tm →
    tm.sides[ownSide tm w]? = some d →
    let slot := f.imm.toNat % 16
    let uses (sp : Space) : Prop := ∃ k x, sp = .obuf k x
    (d.panel? slot = none → Traps (.obrel h f) h s (takes s h w) (cause 8 (2 + 16 * slot) 0 0)) ∧
    (d.panel? slot ≠ none →
      (∀ c ∈ (s.core w.core).cmds, c.team = s.cur.team → ¬ uses c.src ∧ ¬ uses c.dst) →
      (∀ o ∈ (s.core w.core).engine, o.team = s.cur.team → ∀ g y, o.instr = .mma g y → y.b.toNat % 16 ≠ slot) →
      ∃ t : State, exec (.obrel h f) s = .next t ∧ SideStep s h w w tm { d with slots := d.slots.set slot 0#128 } t) ∧
    (d.panel? slot ≠ none →
      (∃ o ∈ (s.core w.core).engine, o.team = s.cur.team ∧ ∃ g y, o.instr = .mma g y ∧ y.b.toNat % 16 = slot) →
      ∃ t : State, exec (.obrel h f) s = .next t ∧ t.cur.blocked = true ∧ t.teams = s.teams ∧ t.cores = s.cores ∧ t.mem = s.mem)

/-- 10 R209, R218, R219: ACCZ sets the type of a tile at once and its zeros in the engine; ACCRD gives each lane that takes part sixteen
columns of its row; MSTAT reads the status, and .CLR clears it; a tile that is not held, or a position inside an exact tile, traps. -/
def Sys2Proof.Claims.TilesAndStatus : Prop :=
  (∀ (h : Hdr) (f : YFields) (s : State) (w : Wave) (tm : Team) (d : Side), Issuing s w → Acting s h w → s.team? s.cur.team = some tm →
    tm.sides[ownSide tm w]? = some d → tm.tiles ≤ 16 → d.types.length = 16 →
    let n := f.d.toNat % 16
    let ty := f.imm.toNat % 4
    let bad : Prop := tm.tiles ≤ n ∨ (ty = 2 ∧ (n % 8 ≠ 0 ∨ tm.tiles ≤ n + 7))
    let first := n / 8 * 8
    let inside : Prop := d.types[first]? = some 2
    let newType (k : Nat) : Nat := if k = n then ty else if ty = 2 ∧ n < k ∧ k < n + 8 then 3
      else if d.types[first]? = some 2 ∧ first ≤ k ∧ k < first + 8 then 0 else d.types.getD k 0
    (bad → Traps (.accz h f) h s (takes s h w) (cause 8 (3 + 16 * n) 0 0)) ∧
    (¬ bad → EngineRoom s w → ∃ (t : State) (w' : Wave) (tm' : Team) (ts : List Nat) (o : EngineOp), exec (.accz h f) s = .next t ∧
      Turns s w w (onwards s h w) (w.runEnd || h.sw) t w' ∧ t.team? s.cur.team = some tm' ∧ t.mem = s.mem ∧
      { tm' with waves := [], sides := [] } = { tm with waves := [], sides := [] } ∧
      tm'.sides = tm.sides.set (ownSide tm w) { d with types := ts } ∧ (∀ k < 16, ts[k]? = some (newType k)) ∧
      (t.core w.core).engine = (s.core w.core).engine ++ [o] ∧ o.instr = .accz h f ∧
      (ty = 2 ∨ inside → o.rows = [(first, 8)]) ∧ (ty ≠ 2 → ¬ inside → o.rows = [(n, 1)])) ∧
    (∃ (t : State) (w' : Wave), exec (.mstat h f) s = .next t ∧
      SideStep s h w { w with sregs := w'.sregs } tm { d with mstat := (if f.sub = 1#2 then 0#32 else d.mstat) } t ∧
      ∀ k, w'.sr k = (block f.d.toNat 1 d.mstat.toNat k).getD (w.sr k))) ∧
  (∀ (h : Hdr) (f : VFields) (s : State) (w : Wave) (tm : Team) (d : Side), Issuing s w → Someone s h w → s.team? s.cur.team = some tm →
    tm.sides[ownSide tm w]? = some d → s.poisonRegs = [] →
    let n := f.a.toNat % 16
    let ty := d.types.getD n 0
    (tm.tiles ≤ n ∨ ty = 3 → Traps (.accrd h f) h s (takes s h w) (cause 8 (3 + 16 * n) 0 0)) ∧
    (n < tm.tiles → ty ≠ 3 → ty ≠ 2 ∧ (f.rnd ≠ .rn ∨ f.fzo = true) → Traps (.accrd h f) h s (takes s h w) (cause 8 (8 + 16 * n) 0 0)) ∧
    (n < tm.tiles → ty ≠ 3 → ¬ (ty ≠ 2 ∧ (f.rnd ≠ .rn ∨ f.fzo = true)) → EngineRoom s w →
      ∃ (t : State) (w' : Wave), exec (.accrd h f) s = .next t ∧ Queued s h w (.accrd h f) .regs [] [(0, ty)] [] (w.runEnd || h.sw) t w')) ∧
  ∀ (core : Nat) (s : State) (op : EngineOp) (rest : List EngineOp) (tm : Team) (w : Wave) (d : Side), core < s.cores.length →
    (s.core core).engine = op :: rest → s.team? op.team = some tm → s.wave? { team := op.team, wave := op.wave } = some w → w.core = core →
    tm.sides[ownSide tm w]? = some d → s.poisonRegs = [] →
    (∀ (h : Hdr) (f : YFields) (a cnt : Nat), op.instr = .accz h f → op.rows = [(a, cnt)] → ∃ (t : State) (tm' : Team) (d' : Side),
      exec (.engineOpStart core []) s = .next t ∧ (t.core core).engine = rest ∧ t.mem = s.mem ∧ t.team? op.team = some tm' ∧
      tm'.sides = tm.sides.set (ownSide tm w) d' ∧ d'.mstat = d.mstat ∧ TileOnly d d' a cnt ∧
      ∀ k, 4096 * a ≤ k → k < 4096 * (a + cnt) → cellGet d'.acc k = 0#32) ∧
    ∀ (h : Hdr) (f : VFields) (ty : Nat), op.instr = .accrd h f → op.rows = [(0, ty)] → ty ≤ 2 →
      ∃ (t : State) (ws : List RegWrite) (fl : Flags), exec (.engineOpStart core []) s = .next t ∧ Finished s core op rest w ws fl t ∧
        (∀ x : Wave, x.lanes.length = w.lanes.length → ∀ l r, l < w.lanes.length → l < 64 →
          ((ws.foldl Wave.write x).lane l).vr r = if op.mask.getLsbD l ∧ f.d.toNat ≤ r ∧ r < f.d.toNat + 16 then
            (let c := 64 * l + 16 * (f.b.toNat % 4) + (r - f.d.toNat)
             if ty = 2 then (xaccRound (d.elemAt (f.a.toNat % 16) 2 c) .f32 f.rnd f.fzo).1 % 2 ^ 32 else (cellGet d.acc (4096 * (f.a.toNat % 16) + c)).toNat)
            else (x.lane l).vr r) ∧ (ty ≠ 2 → fl = 0#8)

/-- 10 R210: ACCLD leaves outstanding the reads of its whole range in blocks of 256 bytes, and the engine puts what they read into the
tile; a size that does not match the tile traps with TILE, an address that is no multiple of 256 with ALIGN. -/
def Sys2Proof.Claims.TileLoads : Prop :=
  (∀ (h : Hdr) (f : MFields) (s : State) (w : Wave) (tm : Team) (d : Side) (l : Nat), Issuing s w →
    Lowest (fun l => takes s h w l = true ∧ w.helper.getLsbD l = false) l → s.team? s.cur.team = some tm →
    tm.sides[ownSide tm w]? = some d → w.core < s.cores.length →
    let n := f.d.toNat % 16
    let ty := d.types.getD n 0
    let bad : Prop := tm.tiles ≤ n ∨ ty = 3 ∨ ¬ (ty = 2 ↔ f.size.toNat = 5)
    let bytes : Nat := if ty = 2 then 131072 else 16384
    let base : Acc := { lane := l, kind := .load, side := none, va := 0, pa := 0, len := 256, mtype := .homeonly, scope := f.scope.toNat, ord := f.ord.toNat, ch := f.ch.toNat, data := 0, state := .todo, result := 0 }
    let goes (accs : List Acc) : Prop := ∃ (t : State) (w' : Wave), exec (.accld h f) s = .next t ∧
      Queued s h w (.accld h f) .tile accs [(0, ty)] [] (w.runEnd || h.sw) t w'
    (bad → Traps (.accld h f) h s (takes s h w) (cause 8 (3 + 16 * n) 0 0)) ∧
    (¬ bad → EngineRoom s w → f.sub = 1#3 →
      let ea := localEa h f w (w.lane l)
      (¬ (256 : Int) ∣ ea → Traps (.accld h f) h s (takes s h w) (cause 4 8 (BitVec.ofInt 32 ea).toNat 0)) ∧
      ((256 : Int) ∣ ea → (∀ p, ¬ InScratch tm w ea bytes p) → Traps (.accld h f) h s (takes s h w) (cause 3 6 (BitVec.ofInt 32 ea).toNat 0)) ∧
      ∀ p, (256 : Int) ∣ ea → InScratch tm w ea bytes p → s.poisonRegs = [] →
        goes ((List.range (bytes / 256)).map (fun j => { base with side := some p.1, va := p.2 + 256 * j, pa := p.2 + 256 * j }))) ∧
    (¬ bad → EngineRoom s w → f.sub = 0#3 →
      let ea := globalEa h f w (w.lane l)
      (¬ (256 : Int) ∣ ea → Traps (.accld h f) h s (takes s h w) (causeAt 4 8 (BitVec.ofInt 64 ea))) ∧
      ∀ x : Nat → Xlat, (256 : Int) ∣ ea → WalkRoom s w →
        (∀ j < bytes / 256, 0 ≤ ea ∧ ea + 256 * j < (2 ^ 64 : Nat) ∧ canonical (ea + 256 * j).toNat = true ∧
          s.look w.xl w.core s.curAsn (ea + 256 * j).toNat = .hit (x j) ∧ (x j).perms.getLsbD 0 = true ∧ (x j).mtype ≠ .io ∧
          Sound s w.core (x j).pa 256) →
        goes ((List.range (bytes / 256)).map (fun j => { base with va := (ea + 256 * (j : Nat)).toNat, pa := (x j).pa, mtype := (x j).mtype, log2 := (x j).log2 })))) ∧
  ∀ (core : Nat) (s : State) (op : EngineOp) (rest : List EngineOp) (tm : Team) (w : Wave) (d : Side) (h : Hdr) (f : MFields) (ty k : Nat)
    (o : Out), core < s.cores.length → (s.core core).engine = op :: rest → s.team? op.team = some tm →
    s.wave? { team := op.team, wave := op.wave } = some w → w.core = core → tm.sides[ownSide tm w]? = some d → op.instr = .accld h f →
    op.rows = [(0, ty)] → ty ≤ 2 → Lowest (fun k => ∃ o, w.outs[k]? = some o ∧ o.id = op.out) k → w.outs[k]? = some o →
    o.accs.length = (if ty = 2 then 512 else 64) → (∀ a ∈ o.accs, a.state = .done ∧ a.rest = false) →
    ∃ (t : State) (tm' : Team) (d' : Side), exec (.engineOpStart core []) s = .next t ∧ Finished s core op rest w [] 0#8 t ∧
      t.team? op.team = some tm' ∧ tm'.sides = tm.sides.set (ownSide tm w) d' ∧
      TileOnly d d' (f.d.toNat % 16) (if ty = 2 then 8 else 1) ∧ d'.mstat = d.mstat ∧
      ∀ j a i, o.accs[j]? = some a → i < 64 →
        (cellGet d'.acc (4096 * (f.d.toNat % 16) + 64 * j + i)).toNat = a.result / 2 ^ (32 * i) % 2 ^ 32

/-- OBRES, OBREL, ACCZ, ACCRD, MSTAT and ACCLD: all of the statements just named hold. Where the spec leaves a point open this is the model's
choice (log entries 40, 59). -/
def Obligations.MatrixTiles : Prop :=
  Claims.Reservations ∧ Claims.TilesAndStatus ∧ Claims.TileLoads

/-- 10 R208, R212 to R215: MMA issues once its convergence register is signed and the engine has room, with the registers of the rows
that take part, and traps in the order of 10 R212. In the engine it reads each 4-byte unit of its areas with a value held since the issue;
every element of those rows becomes the sum of its old value and its products: in an F32 tile eight at a time in the canonical order,
rounded once a group, in an I32 tile the integer sum modulo 2^32 or clamped, in an exact tile the exact sum; nothing else of the
accumulators changes, and MSTAT gains the flags of the sums and BADCODE for a reserved ternary byte. Where the spec leaves a point open this
is the model's choice (log entries 40, 43). -/
def Obligations.MatrixProducts : Prop :=
  (∀ (h : Hdr) (f : VFields) (s : State) (w : Wave) (tm : Team) (d : Side), Issuing s w → Someone s h w → s.team? s.cur.team = some tm →
    tm.sides[ownSide tm w]? = some d → s.poisonRegs = [] → EngineRoom s w → w.lanes.length ≤ 64 → f.c.toNat % 16 ≤ 8 → w.cvs.length = 8 →
    let slot := f.b.toNat % 16
    let n := f.d.toNat % 16
    let c := f.c.toNat % 16
    let ty := d.types.getD n 0
    let cv := w.cvs.getD c { members := 0#64, signed := 0#64 }
    let sparse : Bool := f.sub.getLsbD 0
    let exact : Bool := f.sub.getLsbD 1
    let signed : Prop := c = 8 ∨ ∀ l, cv.members.getLsbD l = true → (w.lane l).live = true → cv.signed.getLsbD l = true
    let regs (p : Panel) : Nat := 16 + (if sparse then 2 else 0) + (if p.asc then (p.kext / p.blen * p.sbytes + 3) / 4 else 0)
    let why (p : Panel) : Option (Nat × Nat) :=
      if tm.tiles ≤ n ∨ ty = 3 ∨ ty ≠ (if exact then 2 else p.tileType) then some (3, n)
      else if (sparse = true ∧ p.spb = false) ∨ (f.sat = true ∧ ty ≠ 1) then some (8, n)
      else if p.blk ≠ 0 ∧ p.axis ≠ p.tr then some (4, slot)
      else if tm.vregs < f.a.toNat + regs p then some (5, n)
      else if c ≠ 8 ∧ (List.range 64).all (fun l => !(cv.members.getLsbD l && s.cur.mask.getLsbD l)) = true then some (8, n) else none
    (¬ signed → ∃ t : State, exec (.mma h f) s = .next t ∧ t.cur.blocked = true ∧ t.teams = s.teams ∧ t.cores = s.cores ∧ t.mem = s.mem) ∧
    (signed → d.panel? slot = none → Traps (.mma h f) h s (takes s h w) (cause 8 (2 + 16 * slot) 0 0)) ∧
    ∀ p, signed → d.panel? slot = some p →
      (∀ r, why p = some r → Traps (.mma h f) h s (takes s h w) (cause 8 (r.1 + 16 * r.2) 0 0)) ∧
      (why p = none → ∃ (t : State) (w' : Wave) (rows : List (Nat × Nat)), exec (.mma h f) s = .next t ∧
        Queued s h { w with cvs := if c = 8 then w.cvs else w.cvs.set c { cv with signed := 0#64 } } (.mma h f) .regs [] rows
          [cellRead d.obuf p.base p.extent] (w.runEnd || h.sw) t w' ∧
        rows = (lanesThat (fun l => if c = 8 then takes s h w l else cv.members.getLsbD l && (w.lane l).live)).map
          (fun l => (l, (w.lane l).vblock f.a.toNat (regs p))))) ∧
  ∀ (core : Nat) (s : State) (op : EngineOp) (rest : List EngineOp) (tm : Team) (w : Wave) (d : Side) (p : Panel) (h : Hdr) (f : VFields),
    core < s.cores.length → (s.core core).engine = op :: rest → s.team? op.team = some tm →
    s.wave? { team := op.team, wave := op.wave } = some w → w.core = core → tm.sides[ownSide tm w]? = some d → op.instr = .mma h f →
    d.panel? (f.b.toNat % 16) = some p → PanelFormed p → (op.rows.map (·.1)).Nodup → (∀ q ∈ op.rows, q.1 < 64) → op.rows ≠ [] → s.poisonRegs = [] →
    let n := f.d.toNat % 16
    let ty := if f.sub.getLsbD 1 then 2 else if denseInt p then 1 else 0
    let now := cellRead d.obuf p.base p.extent
    ∀ (old : List (Nat × Nat)) (areas : Nat), areas < 256 ^ p.extent →
    (∀ b < p.extent, areas / 256 ^ b % 256 = (match old.find? (fun x => x.1 == b / 4) with
      | some x => op.panels.getD x.2 now
      | none => now) / 256 ^ b % 256) →
    let prod (i j v : Nat) : Nat → Val × Bool := productOf p f.fzi (f.sub.getLsbD 0) (op.helper.getLsbD i) v areas j
    ∃ (t : State) (tm' : Team) (d' : Side) (fl : Nat → Nat → Flags), exec (.engineOpStart core old) s = .next t ∧ Finished s core op rest w [] 0#8 t ∧
      t.team? op.team = some tm' ∧ tm'.sides = tm.sides.set (ownSide tm w) d' ∧ TileOnly d d' n (if ty = 2 then 8 else 1) ∧
      (∀ i j, i < 64 → j < 64 → (∀ q ∈ op.rows, q.1 ≠ i) → d'.elemAt n ty (64 * i + j) = d.elemAt n ty (64 * i + j)) ∧
      (∀ i j v, i < 64 → j < 64 → (i, v) ∈ op.rows →
        SumOf p f (prod i j v) (d.elemAt n ty (64 * i + j)) (d'.elemAt n ty (64 * i + j)) (fl i j)) ∧
      (∀ b, d'.mstat.getLsbD b = true ↔ d.mstat.getLsbD b = true ∨ b < 8 ∧ ((∃ q ∈ op.rows, ∃ j < 64, (fl q.1 j).getLsbD b = true) ∨
        fBADCODE.getLsbD b = true ∧ ((∃ j < 64, reservedTrit p (areas / 256 ^ (j * columnSize p))) ∨
          ∃ q ∈ op.rows, op.helper.getLsbD q.1 = false ∧ reservedTrit p q.2))) ∧
      (old = [] → p.itype = 2 → p.blk = 0 → p.tr = false → f.sub = 0#2 → f.sat = false → ∀ i j v, i < 64 → j < 64 → (i, v) ∈ op.rows →
        op.helper.getLsbD i = false → p.kext ≤ 64 →
        let a (k : Nat) : Int := IFmt.read { w := 8, signed := true } (v / 256 ^ k % 256)
        let b (k : Nat) : Int := IFmt.read { w := 8, signed := true } (cellGet d.obuf (p.base + p.kext * j + k)).toNat
        i32.read (d'.elemAt n 1 (64 * i + j)) =
          Int.bmod (i32.read (d.elemAt n 1 (64 * i + j)) + ((List.range p.kext).map (fun k => a k * b k)).sum) (2 ^ 32))

/-- 10 R220 to R222: DRAIN checks its window and its tile, stays at its PC while it writes, row by row in plain stores, and stops with
DONE, or with SLICE at a requested stop; at a row with a translation fault it stops with FAULT, ROW at that row, and the wave parks with the
fault's record; a row that may not be written traps with PROTECT once ROW is written. The tile keeps the type it had at issue. DRAIN.REG leaves its registers and its window outstanding, filled by the engine. -/
def Sys2Proof.Claims.Drains : Prop :=
  (∀ (h : Hdr) (f : XFields) (s : State) (w : Wave) (tm : Team) (d : Side), Issuing s w → (Acting s h w ∨ f.sub = 3#2 ∧ Someone s h w) →
    s.team? s.cur.team = some tm → tm.sides[ownSide tm w]? = some d → s.poisonRegs = [] → w.prog = none →
    let win (k : Nat) : Nat := w.sr (f.w.toNat + k)
    let n := f.b.toNat % 16
    let isLocal : Bool := f.b.getLsbD 4
    let ty := d.types.getD n 0
    let out := win 2 % 16
    let nfBad : Prop := (nfDesc (win 3)).valid = false ∨ ((nfDesc (win 3)).spec = 2 ∧ (nfDesc (win 3)).m = 0)
    let size : Nat := if f.sub.toNat < 2 then (if ty = 2 then 32 else 4) else [4, 2, 2, 0, 1, 2, 4, 0, 1, 2, 4, 0, 1].getD out 0
    let dest : Nat := if isLocal then w.sr f.a.toNat else w.sr f.a.toNat + 2 ^ 32 * w.sr (f.a.toNat + 1)
    let progress : Prop := 2 ^ 16 ≤ win 0 ∨ (win 0).testBit 7 = true ∨ 64 < win 0 % 128
    let shape : Prop := if f.sub.toNat < 2 then win 2 ≠ 0 ∨ win 3 ≠ 0
      else (f.sub = 3#2 ∧ win 1 ≠ 0) ∨ size = 0 ∨ 256 ≤ win 2 ∨ (out ≠ 12 ∧ win 3 ≠ 0) ∨ (out = 12 ∧ nfBad) ∨ (ty = 0 ∧ 4 ≤ out ∧ out ≤ 11)
    let tile : Prop := tm.tiles ≤ n ∨ ty = 3
    let bad (r : Nat) : Prop := Traps (.drain h f) h s (takes s h w) (cause 8 (r + 16 * n) 0 0)
    let fits : Prop := f.a.toNat + 16 * size ≤ tm.vregs
    let aligned : Prop := dest % size = 0 ∧ (size : Int) ∣ i32.read (win 1)
    (progress → bad 6) ∧ (¬ progress → shape → bad 7) ∧ (¬ progress → ¬ shape → tile → bad 3) ∧
    (¬ progress → ¬ shape → ¬ tile → f.sub = 3#2 → ¬ fits → bad 5) ∧
    (¬ progress → ¬ shape → ¬ tile → f.sub ≠ 3#2 → ¬ aligned → Traps (.drain h f) h s (takes s h w)
      (if isLocal then cause 4 size.log2 dest 0 else causeAt 4 size.log2 (BitVec.ofNat 64 dest))) ∧
    (¬ progress → ¬ shape → ¬ tile → f.sub ≠ 3#2 → aligned → EngineRoom s w → ∃ (t : State) (w' : Wave) (p : Prog), exec (.drain h f) s = .next t ∧
      t.wave? s.curRef = some w' ∧ w'.prog = some p ∧ p.instr = .drain h f ∧ p.pc = s.cur.pc ∧ p.begun = true ∧ p.data = [s.uid, win 0 % 128, ty] ∧
      p.flags = 0#8 ∧ (∀ l < 64, p.mask.getLsbD l = takes s h w l) ∧ w'.lanes.length = w.lanes.length ∧
      (∀ l < w.lanes.length, w'.lane l = if takes s h w l then w.lane l else onwards s h w l) ∧
      { w' with lanes := w.lanes, prog := w.prog, xl := w.xl } = w ∧ t.mem = s.mem ∧
      (t.core w.core).engine = (s.core w.core).engine ++ [opOf s w (.drain h f) p.mask s.uid [] []]) ∧
    (¬ progress → ¬ shape → ¬ tile → f.sub = 3#2 → fits → EngineRoom s w → ∃ (t : State) (w' : Wave), exec (.drain h f) s = .next t ∧
      Queued s h w (.drain h f) .regs [] [(0, ty), (0, win 2), (0, win 3)] [] true t w')) ∧
  (∀ (h : Hdr) (f : XFields) (s : State) (w : Wave) (tm : Team) (d : Side) (p : Prog) (o : EngineOp) (id row ty l : Nat), Issuing s w → StartsFresh s w → s.poisonRegs = [] →
    s.team? s.cur.team = some tm → tm.sides[ownSide tm w]? = some d → f.sub = 0#2 ∨ f.sub = 2#2 → w.prog = some p → p.begun = true →
    p.data = [id, row, ty] → (s.core w.core).engine.head? = some o → o.out = id → o.storing = true → w.core < s.cores.length →
    Lowest (fun l => takes s h w l = true ∧ w.helper.getLsbD l = false) l →
    let n := f.b.toNat % 16
    let cv := w.sr (f.w.toNat + 2)
    let size : Nat := if f.sub = 0#2 then (if ty = 2 then 32 else 4) else [4, 2, 2, 0, 1, 2, 4, 0, 1, 2, 4, 0, 1].getD (cv % 16) 0
    let element (j : Nat) : Nat × Flags := if f.sub = 0#2 then (d.elemAt n ty (64 * row + j), 0#8)
      else drainElem ty (cv % 16) (rndOf (BitVec.ofNat 2 (cv / 16))) (cv.testBit 6) (cv.testBit 7) (w.sr (f.w.toNat + 3)) (d.elemAt n ty (64 * row + j))
    let stops (v : Nat) (go : Bool) (t : State) (w' : Wave) : Prop := t.wave? s.curRef = some w' ∧ w'.prog = none ∧ w'.runEnd = true ∧
      w'.lanes.length = w.lanes.length ∧
      (∀ l < w.lanes.length, w'.lane l = if go && s.cur.mask.getLsbD l then onward s h (w.lane l) else w.lane l) ∧
      (∀ r, w'.sr r = (block f.w.toNat 1 v r).getD (w.sr r)) ∧
      { w' with lanes := w.lanes, sregs := w.sregs, runEnd := w.runEnd, prog := w.prog, xl := w.xl } = w ∧
      (t.core w.core).engine = (s.core w.core).engine.filter (fun o => !(o.out == id && o.storing)) ∧ t.mem = s.mem ∧
      ∃ tm' : Team, t.team? s.cur.team = some tm' ∧ tm'.sides = tm.sides.set (ownSide tm w) { d with mstat := d.mstat ||| p.flags.setWidth 32 }
    let puts (at' : Nat → Acc) : Prop := ∃ (t : State) (w' : Wave) (q : Prog) (o' : Out), exec (.drain h f) s = .next t ∧ t.wave? s.curRef = some w' ∧
      w'.prog = some q ∧ { q with data := p.data, flags := p.flags } = p ∧ q.data = [id, row + 1, ty] ∧
      (∀ i, q.flags.getLsbD i = true ↔ p.flags.getLsbD i = true ∨ ∃ j < 64, (element j).2.getLsbD i = true) ∧
      w'.outs = w.outs ++ [o'] ∧ o' = { outOf s false .drain [] ((List.range 64).map at') with id := s.uid } ∧
      { w' with prog := w.prog, outs := w.outs, xl := w.xl } = w ∧ t.mem = s.mem
    let trapped (c : TrapInfo) : Prop := ∃ (u : State) (w' : Wave), stops (w.sr f.w.toNat / 128 * 128 + row) false u w' ∧
      exec (.drain h f) s = .next ((u.raiseAt s.curRef s.cur.mask s.cur.pc c).updCur (fun w => { w with xl := [] }))
    let store (j : Nat) : Acc := { lane := l, kind := .store, side := none, va := 0, pa := 0, len := size, mtype := .homeonly, scope := 0, ord := 0, ch := 0, data := (element j).1, state := .todo, result := 0 }
    (w.stop = true → ∃ (t : State) (w' : Wave), exec (.drain h f) s = .next t ∧ stops (0x300 + row) false t w') ∧
    (w.stop = false → 64 ≤ row → ∃ (t : State) (w' : Wave), exec (.drain h f) s = .next t ∧ stops 0x140 true t w') ∧
    (w.stop = false → row < 64 → f.b.getLsbD 4 = true → ∀ q : Nat × Nat, size ≠ 0 →
      InScratch tm w ((w.sr f.a.toNat : Int) + row * i32.read (w.sr (f.w.toNat + 1))) (64 * size) q →
      puts (fun j => { store j with side := some q.1, va := q.2 + size * j, pa := q.2 + size * j })) ∧
    (w.stop = false → row < 64 → f.b.getLsbD 4 = true →
      let a : Int := (w.sr f.a.toNat : Int) + row * i32.read (w.sr (f.w.toNat + 1))
      (∀ q, ¬ InScratch tm w a (64 * size) q) → size ≠ 0 → trapped (cause 3 6 (BitVec.ofInt 32 a).toNat 0)) ∧
    (w.stop = false → row < 64 → f.b.getLsbD 4 = false → ∀ x : Nat → Xlat,
      let ea (j : Nat) : Int := ((w.sr f.a.toNat + 2 ^ 32 * w.sr (f.a.toNat + 1) : Nat) : Int) + row * i32.read (w.sr (f.w.toNat + 1)) + size * j
      (∀ j < 64, 0 ≤ ea j ∧ ea j < (2 ^ 64 : Nat) ∧ canonical (ea j).toNat = true ∧ s.look w.xl w.core s.curAsn (ea j).toNat = .hit (x j) ∧
        (x j).perms.getLsbD 1 = true ∧ (x j).mtype ≠ .io) →
      puts (fun j => { store j with va := (ea j).toNat, pa := (x j).pa, mtype := (x j).mtype, log2 := (x j).log2 })) ∧
    (w.stop = false → row < 64 → f.b.getLsbD 4 = false →
      let ea (j : Nat) : Int := ((w.sr f.a.toNat + 2 ^ 32 * w.sr (f.a.toNat + 1) : Nat) : Int) + row * i32.read (w.sr (f.w.toNat + 1)) + size * j
      let canon (j : Nat) : Prop := 0 ≤ ea j ∧ ea j < (2 ^ 64 : Nat) ∧ canonical (ea j).toNat = true
      let look (j : Nat) : Look := s.look w.xl w.core s.curAsn (ea j).toNat
      let refused (j : Nat) : Prop := ∃ x, look j = .hit x ∧ (x.perms.getLsbD 1 = false ∨ x.mtype = .io)
      let faulty (j : Nat) : Prop := ∃ a b, look j = .fault a b
      (∀ j, Lowest (fun j => j < 64 ∧ ¬ canon j) j → trapped (causeAt 3 1 (BitVec.ofInt 64 (ea j)))) ∧
      (∀ j x, (∀ k < 64, canon k ∧ look k ≠ .miss) → Lowest (fun j => j < 64 ∧ refused j) j → look j = .hit x →
        trapped (causeAt 3 (if x.perms.getLsbD 1 then 5 else 3) (BitVec.ofInt 64 (ea j)))) ∧
      ∀ j a b, (∀ k < 64, canon k ∧ ¬ refused k ∧ (faulty k ∨ ∃ x, look k = .hit x)) → Lowest (fun j => j < 64 ∧ faulty j) j → look j = .fault a b →
        ∃ (t : State) (w' : Wave) (k : Token) (ks : List Token), exec (.drain h f) s = .next t ∧
          t.wave? s.curRef = some w' ∧ w'.lanes = w.lanes ∧ w'.prog = none ∧ w'.runEnd = true ∧ t.mem = s.mem ∧
          (∀ r, w'.sr r = (block f.w.toNat 1 (0x200 + row) r).getD (w.sr r)) ∧ w'.park = .faults s.cur.mask s.cur.pc ∧
          w'.toks = w.toks ++ k :: ks ∧ k.outcome = 0 ∧ k.reason = a ∧ k.level = b ∧ k.kind = 7 ∧ k.va = BitVec.ofInt 64 (ea j) ∧
          (t.core w.core).engine = (s.core w.core).engine.filter (fun o => !(o.out == id && o.storing)))) ∧
  ∀ (core : Nat) (s : State) (op : EngineOp) (rest : List EngineOp) (tm : Team) (w : Wave) (d : Side) (h : Hdr) (f : XFields) (ty cv desc : Nat),
    core < s.cores.length → (s.core core).engine = op :: rest → s.team? op.team = some tm →
    s.wave? { team := op.team, wave := op.wave } = some w → w.core = core → tm.sides[ownSide tm w]? = some d → op.instr = .drain h f → f.sub = 3#2 →
    op.rows = [(0, ty), (0, cv), (0, desc)] → ty ≤ 2 → s.poisonRegs = [] →
    let b := drainBytes (cv % 16)
    let element (l j : Nat) : Nat := (drainElem ty (cv % 16) (rndOf (BitVec.ofNat 2 (cv / 16))) (cv.testBit 6) (cv.testBit 7) desc (d.elemAt (f.b.toNat % 16) ty (64 * l + j))).1
    ∃ (t : State) (ws : List RegWrite), exec (.engineOpStart core []) s = .next t ∧ Finished s core op rest w ws 0#8 t ∧
      (∀ x : Wave, x.lanes.length = w.lanes.length → ∀ l r, l < w.lanes.length → l < 64 →
        ((ws.foldl Wave.write x).lane l).vr r = if op.mask.getLsbD l ∧ f.a.toNat ≤ r ∧ r < f.a.toNat + 16 * b then
          ((List.range (4 / b)).map (fun k => element l ((r - f.a.toNat) * (4 / b) + k) % 256 ^ b * 256 ^ (b * k))).sum else (x.lane l).vr r) ∧
      ∀ x : Wave, ∀ r, (ws.foldl Wave.write x).sr r = (block f.w.toNat 1 0x140 r).getD (x.sr r)

/-- 10 R223: DRAIN.ADD, once every one of its 64 rows may be written, leaves an element update for each element of its rows from ROW and
stops with DONE; ADD_ON_STORE_APPLY adds one element to memory or scratch: modulo 2^32 for I32, rounded for F32, as images for an exact
tile; no other byte changes. An add-on-store does not begin while one with a byte in common has begun and not ended. -/
def Sys2Proof.Claims.AddOnStores : Prop :=
  (∀ (h : Hdr) (f : XFields) (s : State) (w : Wave) (tm : Team) (d : Side) (p : Prog) (o : EngineOp) (id row ty l : Nat) (x : Nat → Nat → Xlat), Issuing s w →
    StartsFresh s w → s.poisonRegs = [] →
    s.team? s.cur.team = some tm → tm.sides[ownSide tm w]? = some d → f.sub = 1#2 → f.b.getLsbD 4 = false → w.prog = some p → p.begun = true →
    p.data = [id, row, ty] → p.flags = 0#8 → (s.core w.core).engine.head? = some o → o.out = id → o.storing = true → w.core < s.cores.length →
    Lowest (fun l => takes s h w l = true ∧ w.helper.getLsbD l = false) l → w.stop = false →
    (s.core w.core).cache = [] → (s.core w.core).draining = [] → (s.core w.core).notices = [] →
    let n := f.b.toNat % 16
    let size : Nat := if ty = 2 then 32 else 4
    let ea (r j : Nat) : Int := ((w.sr f.a.toNat + 2 ^ 32 * w.sr (f.a.toNat + 1) : Nat) : Int) + r * i32.read (w.sr (f.w.toNat + 1)) + size * j
    (∀ r < 64, ∀ j < 64, 0 ≤ ea r j ∧ ea r j < (2 ^ 64 : Nat) ∧ canonical (ea r j).toNat = true ∧ s.look w.xl w.core s.curAsn (ea r j).toNat = .hit (x r j) ∧
      (x r j).perms.getLsbD 1 = true ∧
      ((x r j).mtype = .cached ∨ (x r j).mtype = .homeonly) ∧ Sound s w.core (x r j).pa size) →
    ∃ (t : State) (w' : Wave), exec (.drain h f) s = .next t ∧ t.wave? s.curRef = some w' ∧ t.mem = s.mem ∧ w'.prog = none ∧ w'.runEnd = true ∧
      (∀ k < w.lanes.length, w'.lane k = if s.cur.mask.getLsbD k then onward s h (w.lane k) else w.lane k) ∧
      (∀ r, w'.sr r = (block f.w.toNat 1 0x140 r).getD (w.sr r)) ∧
      (t.core w.core).engine = (s.core w.core).engine.filter (fun o => !(o.out == id && o.storing)) ∧
      (t.core w.core).addons.map (fun a => { a with rel := [] }) = (s.core w.core).addons.map (fun a => { a with rel := [] }) ++
        ((List.range 64).filter (fun r => decide (row ≤ r))).flatMap (fun r => (List.range 64).map (fun j =>
          { drain := id, team := s.cur.team, launch := tm.launch, side := none, pa := (x r j).pa, isInt := ty == 1, exact := ty == 2,
            val := d.elemAt n ty (64 * r + j), wave := s.cur.wave, rel := [], va := (ea r j).toNat, log2 := (x r j).log2, lane := l }))) ∧
  ∀ (core k : Nat) (s : State) (u : AddOn) (tm : Team), core < s.cores.length → (s.core core).addons[k]? = some u →
    s.team? u.team = some tm → tm.sides.length = 2 → (∀ p ∈ s.poison, p < u.pa + 32 → u.pa < p + 8 → False) →
    (∀ k side j, Site.scratch k side j ∉ s.poisonRegs) →
    let n := if u.exact then 32 else 4
    let value (old : Nat) : Nat := if u.exact then xaccAddImage old u.val else if u.isInt then (old + u.val) % 2 ^ 32
      else (roundTo .f32 .rn (Val.sum .rn [fdecode .f32 old, fdecode .f32 u.val]).1).1
    let size (v : AddOn) : Nat := if v.exact then 32 else 4
    let begun (d : Nat) : Prop := ∃ c ∈ s.cores, ∃ v ∈ c.addons, v.drain = d ∧ v.applied = true
    let applied (t : State) : Prop :=
      let l := (s.core core).addons.set k { u with applied := true }
      ((∀ v ∈ l, v.drain = u.drain → v.applied = true) → (t.core core).addons = l.filter (fun v => v.drain != u.drain)) ∧
      (¬ (∀ v ∈ l, v.drain = u.drain → v.applied = true) → (t.core core).addons = l) ∧ ∀ q, t.wave? q = s.wave? q
    (¬ begun u.drain → (∃ c ∈ s.cores, ∃ v ∈ c.addons, v.drain ≠ u.drain ∧ begun v.drain ∧ v.side = u.side ∧ (u.side ≠ none → v.team = u.team) ∧
        u.pa < v.pa + size v ∧ v.pa < u.pa + n) → exec (.addOnStoreApply core k) s = .next s) ∧
    (s.addReady core u = true →
      (u.side = none → Untraced s u.pa n → ∃ t : State, exec (.addOnStoreApply core k) s = .next t ∧
        (∀ a, cellGet t.mem a = storedByte (cellGet s.mem) u.pa n (value (littleEndian (cellGet s.mem) u.pa n)) a) ∧ applied t) ∧
      ∀ side d, u.side = some side → tm.sides[side]? = some d → ∃ (t : State) (tm' : Team) (d' : Side), exec (.addOnStoreApply core k) s = .next t ∧
        t.mem = s.mem ∧ t.team? u.team = some tm' ∧ tm'.sides[side]? = some d' ∧
        (∀ a, cellGet d'.scratch a = storedByte (cellGet d.scratch) u.pa n (value (littleEndian (cellGet d.scratch) u.pa n)) a) ∧ applied t)

/-- DRAIN, DRAIN.REG and DRAIN.ADD, and the element each add-on-store changes: all of the statements just named hold. Where the spec leaves a
point open this is the model's choice (log entries 40, 59). -/
def Obligations.DrainedTiles : Prop :=
  Claims.Drains ∧ Claims.AddOnStores

/-! ### Copies (05 R93 to R111, 10 R207) -/

/-- 05 R95, R98 to R100: COPY hands the engine its rows, or its list, with its range locks; a command of no bytes does nothing; a shape
out of its limits traps with SHAPE, a scratch range outside the allocation with RANGE. -/
def Sys2Proof.Claims.Copies : Prop :=
  ∀ (h : Hdr) (f : CFields) (s : State) (w : Wave) (tm : Team), Issuing s w → Acting s h w → s.team? s.cur.team = some tm → w.outs = [] →
    NoUpdates s → CopyRoom s w → tm.core + 1 < s.cores.length →
    let e (k : Nat) : Nat := w.sr (f.e.toNat + k)
    let tag := f.tag.toNat
    let sc := f.mode.toNat / 4
    let dc := f.mode.toNat % 4
    let va := w.sr f.a.toNat + 2 ^ 32 * w.sr (f.a.toNat + 1)
    let vb := w.sr f.b.toNat + 2 ^ 32 * w.sr (f.b.toNat + 1)
    let home (sp : Space) : Nat := match sp with | .scratch k => tm.core + k | _ => w.core
    let locks (src dst : Space) (a n b m : Nat) : List (Nat × Holly) :=
      (home dst, lockOf s s.cur.team dst b m tag false) :: (if src = .glob then [] else [(home src, lockOf s s.cur.team src a n tag true)])
    (f.sub ≠ 3#2 →
      let row := e 0
      let rows := if f.sub = 0#2 then 1 else if f.sub = 1#2 then e 1 else e 1 % 2 ^ 16
      let planes := if f.sub = 2#2 then e 1 / 2 ^ 16 else 1
      let dense := (row : Int)
      let plane := ((row * rows : Nat) : Int)
      let sr := if f.sub = 0#2 then 0 else if f.sub = 1#2 ∨ sc = 0 then i32.read (e 2) else dense
      let dr := if f.sub = 0#2 then 0 else if f.sub = 1#2 then i32.read (e 3) else if sc = 0 then dense else i32.read (e 2)
      let sp := if f.sub ≠ 2#2 then 0 else if sc = 0 then i32.read (e 3) else plane
      let dp := if f.sub ≠ 2#2 then 0 else if sc = 0 then plane else i32.read (e 3)
      let total := row * rows * planes
      let bad : Prop := (f.sub = 0#2 ∧ (e 1 ≠ 0 ∨ e 2 ≠ 0 ∨ e 3 ≠ 0)) ∨ 2 ^ 32 ≤ total
      let slo := lowByte rows planes sr sp
      let shi := highByte row rows planes sr sp
      let dlo := lowByte rows planes dr dp
      let dhi := highByte row rows planes dr dp
      (bad → Traps (.copy h f) h s (takes s h w) (causeAt 7 (1 + 16 * tag) 0#64)) ∧
      (¬ bad → total ≠ 0 → sc = 1 → (2 ^ 32 ≤ va ∨ (va : Int) + slo < 0 ∨ ((tm.scratchBytes + 4095) / 4096 * 4096 : Nat) ≤ (va : Int) + shi) →
        Traps (.copy h f) h s (takes s h w) (causeAt 7 (2 + 16 * tag) (BitVec.ofNat 64 va))) ∧
      ∀ src dst a b, ¬ bad → RangeIn tm w sc va slo shi src a → RangeIn tm w dc vb dlo dhi dst b →
        (total = 0 → ∃ (t : State) (w' : Wave), exec (.copy h f) s = .next t ∧ Becomes s w w (onwards s h w) (w.runEnd || h.sw) t w') ∧
        (total ≠ 0 →
          let sn := (shi - slo + 1).toNat
          let dn := (dhi - dlo + 1).toNat
          let sa := ((a : Int) + slo).toNat
          let da := ((b : Int) + dlo).toNat
          let pieces : List Piece := (List.range planes).flatMap (fun (k : Nat) => (List.range rows).map (fun (i : Nat) =>
            { src := ((a : Int) + (i * sr + k * sp)).toNat, dst := ((b : Int) + (i * dr + k * dp)).toNat, len := row, recv := s.cur.team, landed := [], absent := false }))
          ∃ (t : State) (w' : Wave), exec (.copy h f) s = .next t ∧
            Accepted s h w (cmdOf s w tm 0xB0 tag none src dst pieces
              ((if src = .glob then [pagesOf 4 sa sn] else []) ++ (if dst = .glob then [pagesOf 5 da dn] else []))) (locks src dst sa sn da dn) t w')) ∧
    (f.sub = 3#2 → e 1 = 0 → e 2 = 0 → e 3 = 0 → 0 < e 0 → e 0 ≤ 4096 →
      ∀ src dst b, RangeIn tm w dc vb 0 0 dst b → (sc = 2 → tm.pair = true) →
        src = (if sc = 0 then Space.glob else if sc = 1 then .scratch (ownSide tm w) else if sc = 2 then .scratch (1 - ownSide tm w) else .obuf (ownSide tm w) 0) →
        va + 16 * e 0 ≤ 2 ^ 64 → canonical va = true → canonical (va + 16 * e 0 - 1) = true → va.testBit 55 = (va + 16 * e 0 - 1).testBit 55 →
        ∃ (t : State) (w' : Wave), exec (.copy h f) s = .next t ∧
          Accepted s h w { cmdOf s w tm 0xB0 tag none src dst [] [pagesOf 4 va (16 * e 0)] with list := some (va, 16 * e 0 / 16), dstBase := b }
            (locks src dst 0 0 0 0) t w')

/-- 05 R101 to R104, 10 R207: COPYM sends its rows to every receiver of its mask, HALO its edges to the neighbours in the grid, OBLD the
stored lines, the bitmap and the scales into the areas of a reservation; GATHV reads each lane's words, whose bytes count against the
tag when they are delivered. -/
def Sys2Proof.Claims.TeamCopies : Prop :=
  (∀ (h : Hdr) (f : CFields) (s : State) (w : Wave) (tm : Team) (l : Launch), Issuing s w → Acting s h w → s.team? s.cur.team = some tm →
    w.outs = [] → NoUpdates s → CopyRoom s w → tm.core + 1 < s.cores.length →
    s.launches.find? (fun x => x.id == tm.launch) = some l → (l.block.getD 2 0).toNat / 2 ^ 30 % 4 = 0 →
    let e (k : Nat) : Nat := w.sr (f.e.toNat + k)
    let tag := f.tag.toNat
    let va := w.sr f.a.toNat + 2 ^ 32 * w.sr (f.a.toNat + 1)
    let vb := w.sr f.b.toNat + 2 ^ 32 * w.sr (f.b.toNat + 1)
    let own := ownSide tm w
    let gx : Nat := (l.block.getD 1 0).toNat % 2 ^ 16
    let gy : Nat := (l.block.getD 1 0).toNat / 2 ^ 16 % 2 ^ 16
    let gz : Nat := (l.block.getD 1 0).toNat / 2 ^ 32 % 2 ^ 16
    let resident (rank : Nat) (t : Team) : Prop := s.teams.find? (fun t => t.launch == tm.launch && t.rank == rank && !t.formed) = some t ∧
      (∃ v ∈ t.waves, v.ended = false) ∧ (t.core + own) / 32 = w.core / 32 ∧ t.core + own < s.cores.length
    (f.sub = 0#2 ∨ f.sub = 1#2 → ∀ (rt : Nat → Team) (src : Space) (a : Nat),
      let row := if f.sub = 1#2 then e 0 % 2 ^ 16 else e 0
      let rows := if f.sub = 1#2 then e 0 / 2 ^ 16 else 1
      let st := if f.sub = 1#2 then i32.read (e 1) else 0
      let ranks := ((List.range 16).filter (fun i => (e 3).testBit i)).map (fun i => e 2 + i)
      (f.sub = 0#2 → e 1 = 0) → e 3 < 2 ^ 16 → row * rows * ranks.length < 2 ^ 32 → row * rows ≠ 0 → ranks ≠ [] →
      (∀ r ∈ ranks, r < gx * gy * gz ∧ resident r (rt r)) → f.mode.toNat / 4 < 2 →
      RangeIn tm w (f.mode.toNat / 4) va (lowByte rows 1 st 0) (highByte row rows 1 st 0) src a → RangeIn tm w 1 vb 0 ((row * rows : Nat) - 1) (.scratch own) vb →
      let sn := (highByte row rows 1 st 0 - lowByte rows 1 st 0 + 1).toNat
      let sa := ((a : Int) + lowByte rows 1 st 0).toNat
      let pieces : List Piece := ranks.flatMap (fun r => (List.range rows).map (fun (i : Nat) =>
        { src := ((a : Int) + i * st).toNat, dst := vb + i * row, len := row, recv := (rt r).uid, landed := [], absent := false }))
      ∃ (t : State) (w' : Wave), exec (.copym h f) s = .next t ∧
        Accepted s h w (cmdOf s w tm 0xB1 tag (some (f.d.toNat % 64)) src (.scratch own) pieces (if src = .glob then [pagesOf 4 sa sn] else []))
          (ranks.map (fun r => ((rt r).core + own, lockOf s (rt r).uid (.scratch own) vb (row * rows) tag false)) ++
            [(if src = .glob then w.core else tm.core + own, lockOf s s.cur.team src sa sn tag true)]) t w') ∧
    (gz = 1 → ∀ rt : Nat → Team,
      let wd := e 0 % 2 ^ 16
      let ht := e 0 / 2 ^ 16
      let eb := e 1 % 256
      let ap := e 1 / 256 % 256
      let st := e 2
      1 ≤ wd → wd ≤ 4096 → 1 ≤ ht → ht ≤ 4096 → eb ∈ [1, 2, 4, 8, 16] → 1 ≤ ap → ap ≤ 15 → ap ≤ wd → ap ≤ ht → e 1 < 2 ^ 16 →
      (wd + 2 * ap) * eb ≤ st → e 3 = 0 → RangeIn tm w 1 va 0 ((((ht + 2 * ap - 1) * st + (wd + 2 * ap) * eb : Nat) : Int) - 1) (.scratch own) va →
      let offsets : List (Int × Int) := [(-1, -1), (0, -1), (1, -1), (-1, 0), (1, 0), (-1, 1), (0, 1), (1, 1)].filter (fun d =>
        (f.sub == 1#2 || d.1 == 0 || d.2 == 0) && decide (0 ≤ tm.x + d.1) && decide (tm.x + d.1 < gx) && decide (0 ≤ tm.y + d.2) && decide (tm.y + d.2 < gy))
      let rank (d : Int × Int) : Nat := (tm.x + d.1).toNat + gx * (tm.y + d.2).toNat
      let sent (d : Int) (n : Nat) : Nat := if d = 1 then n else ap
      let put (d : Int) (n : Nat) : Nat := if d = 1 then 0 else if d = -1 then n + ap else ap
      let count (d : Int) (n : Nat) : Nat := if d = 0 then n else ap
      offsets ≠ [] → (∀ d ∈ offsets, resident (rank d) (rt (rank d))) →
      let pieces : List Piece := offsets.flatMap (fun d => (List.range (count d.2 ht)).map (fun j =>
        { src := va + (sent d.2 ht + j) * st + sent d.1 wd * eb, dst := va + (put d.2 ht + j) * st + put d.1 wd * eb, len := count d.1 wd * eb, recv := (rt (rank d)).uid, landed := [], absent := false }))
      ∃ (t : State) (w' : Wave), exec (.halo h f) s = .next t ∧
        Accepted s h w (cmdOf s w tm 0xB2 tag (some (f.d.toNat % 64)) (.scratch own) (.scratch own) pieces [])
          ((w.core, lockOf s s.cur.team (.scratch own) (va + ap * st + ap * eb) ((ht - 1) * st + wd * eb) tag true) ::
            offsets.map (fun d => ((rt (rank d)).core + own, lockOf s (rt (rank d)).uid (.scratch own)
              (va + put d.2 ht * st + put d.1 wd * eb) ((count d.2 ht - 1) * st + count d.1 wd * eb) tag false))) t w') ∧
    (∀ (d : Side) (p : Panel), tm.sides[own]? = some d → d.panel? (f.d.toNat % 16) = some p →
      let lines := if p.tr then p.kext else 64
      let len := if p.tr then 8 * p.ebits else p.colBytes
      let feed (a : Nat) (st : Int) (o n m : Nat) : Nat × Int × Nat × Nat × Nat := (a, st, o, n, m)
      let feeds := [feed va (i32.read (e 0)) p.base lines len] ++ (if p.spb then [feed (w.sr (f.e.toNat + 2) + 2 ^ 32 * w.sr (f.e.toNat + 3)) 0 p.spoff 1 512] else []) ++
        (if p.blk = 0 then [] else [feed vb (i32.read (e 1)) p.scoff 64 p.scaleRow])
      (∀ q ∈ feeds, q.2.2.2.1 ≠ 0 ∧ q.2.2.2.2 ≠ 0 ∧ RangeIn tm w 0 q.1 (lowByte q.2.2.2.1 1 q.2.1 0) (highByte q.2.2.2.2 q.2.2.2.1 1 q.2.1 0) .glob q.1) →
      ∃ (t : State) (w' : Wave), exec (.obld h f) s = .next t ∧
        Accepted s h w (cmdOf s w tm 0xC2 tag none .glob (.obuf own (f.d.toNat % 16))
            (feeds.flatMap (fun q => (List.range q.2.2.2.1).map (fun (k : Nat) =>
              { src := ((q.1 : Int) + k * q.2.1).toNat, dst := q.2.2.1 + k * q.2.2.2.2, len := q.2.2.2.2, recv := s.cur.team, landed := [], absent := false })))
            (feeds.map (fun q => pagesOf 4 ((q.1 : Int) + lowByte q.2.2.2.1 1 q.2.1 0).toNat (highByte q.2.2.2.2 q.2.2.2.1 1 q.2.1 0 - lowByte q.2.2.2.1 1 q.2.1 0 + 1).toNat)))
          (feeds.map (fun q => (w.core, lockOf s s.cur.team (.obuf own (f.d.toNat % 16)) q.2.2.1 (q.2.2.2.1 * q.2.2.2.2) tag false))) t w')) ∧
  ∀ (h : Hdr) (f : CFields) (s : State) (w : Wave) (x : Nat → Nat → Xlat), Issuing s w → Acting s h w → WalkRoom s w →
    let n := w.sr f.e.toNat
    let base := w.sr f.a.toNat + 2 ^ 32 * w.sr (f.a.toNat + 1)
    let gives (l : Nat) : Bool := takes s h w l && !w.helper.getLsbD l
    let ea (l k : Nat) : Nat := base + (w.lane l).vr f.b.toNat + 4 * k
    let bad : Prop := n ∉ [4, 8, 16, 32, 64] ∨ (∃ k < 3, w.sr (f.e.toNat + 1 + k) ≠ 0) ∨ s.curTeam.vregs < f.d.toNat + n / 4 ∨ (n ∈ [8, 16, 32] ∧ f.d.toNat % (n / 4) ≠ 0)
    (bad → Traps (.gathv h f) h s (takes s h w) (causeAt 7 (1 + 16 * f.tag.toNat) 0#64)) ∧
    (¬ bad → (∀ l, gives l = true → ∀ k < n / 4, ea l k % 4 = 0 ∧ ea l k < 2 ^ 64 ∧ canonical (ea l k) = true ∧
        s.look w.xl w.core s.curAsn (ea l k) = .hit (x l k) ∧ (x l k).perms.getLsbD 0 = true ∧ (x l k).mtype ≠ .io ∧ Sound s w.core (x l k).pa 4) →
      let accs : List Acc := (lanesThat gives).flatMap (fun l => (List.range (n / 4)).map (fun k =>
        { lane := l, kind := .load, side := none, va := ea l k, pa := (x l k).pa, len := 4, mtype := (x l k).mtype, scope := 0, ord := 0, ch := 0, data := f.d.toNat + k, state := .todo, result := 0, log2 := (x l k).log2 }))
      s.mshrFree accs = true → ∃ (t : State) (w' : Wave), exec (.gathv h f) s = .next t ∧ Issues s h w (outOf s true (.gath f.tag.toNat) [] accs) t w')

/-- 05 R96, R97, R105, R110: COPY_PREPASS lets the bytes of a command move once every page of its ranges translates with its permission,
and fails the command, with its tag and its range locks, at a page that may not be accessed; COPY_DELIVER lands bytes of one piece, counts
them against the receiver's tag, and ends the command with its last byte; an aligned unit of four bytes lands whole, with the bytes of
other pieces in it. -/
def Sys2Proof.Claims.CopyProgress : Prop :=
  (∀ (core id : Nat) (s : State) (c : Cmd) (x : Nat → Xlat), core < s.cores.length → (s.core core).cmds.find? (fun c => c.id == id) = some c →
    c.state = .prepass → c.list = none → c.xl = [] → (∃ p ∈ c.pieces, p.absent = false ∧ p.len ≠ 0 ∧ p.landed = []) → c.sendTag = none →
    (∀ g ∈ c.pages, ∀ n, g.2.1 ≤ n → n ≤ g.2.2 → s.look [] core c.asn (4096 * n) = .hit (x n) ∧ 12 ≤ (x n).log2 ∧ (x n).log2 ≤ 30 ∧
      (s.core core).tlb.find? (fun e => e.covers c.asn (4096 * n)) ≠ none) →
    let allowed (k n : Nat) : Prop := (x n).perms.getLsbD (if k = 5 then 1 else 0) = true ∧ (x n).mtype ≠ .io
    ((∀ g ∈ c.pages, ∀ n, g.2.1 ≤ n → n ≤ g.2.2 → allowed g.1 n) → ∃ (t : State) (c' : Cmd), exec (.copyPrepass core id) s = .next t ∧
      (t.core core).cmds.find? (fun c => c.id == id) = some c' ∧ { c' with xl := [], state := c.state } = c ∧ c'.state = .moving ∧ t.mem = s.mem ∧
      ∀ g ∈ c.pages, ∀ n, g.2.1 ≤ n → n ≤ g.2.2 → ∀ va, va % 2 ^ 56 / 4096 = n → c'.xlat va = some { x n with pa := (x n).pa + va % 4096 }) ∧
    ((∃ g ∈ c.pages, ∃ n, g.2.1 ≤ n ∧ n ≤ g.2.2 ∧ ¬ allowed g.1 n) → ∃ t : State, exec (.copyPrepass core id) s = .next t ∧ t.mem = s.mem ∧
      (t.core core).cmds = (s.core core).cmds.filter (fun c => c.id != id) ∧ (∀ k < s.cores.length, ∀ e, some e ∈ (t.core k).holly ↔ some e ∈ (s.core k).holly ∧ e.cmd ≠ id) ∧
      ∀ p tm, p ∈ c.pieces → p.absent = false → s.team? p.recv = some tm → c.tag < tm.tags.length → ∃ (tm' : Team) (g : Tag), t.team? p.recv = some tm' ∧
        tm'.tags[c.tag]? = some g ∧ g.failed = true ∧ ((tm.tags.getD c.tag Tag.reset).failed = false → g.reason = 7))) ∧
  ∀ (core id k off n : Nat) (s : State) (c : Cmd) (p : Piece) (tm rm : Team) (g : Tag) (x y : Nat → Xlat), core < s.cores.length →
    (s.core core).cmds.find? (fun c => c.id == id) = some c → c.pieces[k]? = some p → c.state = .moving → p.absent = false → 0 < n → off + n ≤ p.len →
    (∀ r ∈ p.landed, r.1 + r.2 ≤ off ∨ off + n ≤ r.1) → (off = 0 ∨ (p.dst + off) % 4 = 0) → (off + n = p.len ∨ (p.dst + off + n) % 4 = 0) →
    s.team? c.team = some tm → s.team? p.recv = some rm → rm.tags[c.tag]? = some g → c.sendTag = none → s.poison = [] → s.poisonRegs = [] →
    (s.core core).draining = [] → Unmetered s core → (∀ a ∈ s.hostAtomics, a.split = false) → tm.sides.length = 2 → rm.sides.length = 2 → rm.tags.length = 64 →
    (c.src = .glob → ∀ i < n, c.xlat (p.src + off + i) = some (x (p.src + off + i))) →
    (c.dst = .glob → ∀ i < n, c.xlat (p.dst + off + i) = some (y (p.dst + off + i)) ∧ Untraced s (y (p.dst + off + i)).pa 1 ∧
      ∀ j < n, i ≠ j → (y (p.dst + off + i)).pa ≠ (y (p.dst + off + j)).pa) →
    let bytes (i : Nat) : Byte := sourceByte s core c tm x (p.src + off + i)
    let landed (old : Nat → Byte) (a : Nat) : Byte := if p.dst + off ≤ a ∧ a < p.dst + off + n then bytes (a - (p.dst + off)) else old a
    let unit (a : Nat) : Prop := a / 4 = (p.dst + off) / 4 ∨ a / 4 = (p.dst + off + n - 1) / 4
    ((∀ q ∈ c.pieces, ∀ z ∈ q.landed, (z.1 = 0 ∨ (q.dst + z.1) % 4 = 0) ∧ (z.1 + z.2 = q.len ∨ (q.dst + z.1 + z.2) % 4 = 0)) →
      ∃ t : State, exec (.copyDeliver core id k off n) s = .next t ∧ ∀ c', (t.core core).cmds.find? (fun c => c.id == id) = some c' →
        ∀ (j : Nat) (q : Piece), c.pieces[j]? = some q → q.absent = false → q.recv = p.recv → ∀ a, q.dst ≤ a → a < q.dst + q.len → unit a →
          ∃ q', c'.pieces[j]? = some q' ∧ ∃ z ∈ q'.landed, q.dst + z.1 ≤ a ∧ a < q.dst + z.1 + z.2) ∧
    ((∀ (j : Nat) (q : Piece), j ≠ k → c.pieces[j]? = some q → q.absent = false → q.recv = p.recv → ∀ a, q.dst ≤ a → a < q.dst + q.len → ¬ unit a) →
    ∃ (t : State) (rm' : Team), exec (.copyDeliver core id k off n) s = .next t ∧ t.team? p.recv = some rm' ∧
      rm'.tags = rm.tags.set c.tag (Tag.counted g n) ∧ (∀ q, t.wave? q = s.wave? q) ∧
      (c.dst ≠ .glob → t.mem = s.mem) ∧
      (c.dst = .glob → (∀ i < n, cellGet t.mem (y (p.dst + off + i)).pa = bytes i) ∧
        ∀ a, (∀ i < n, a ≠ (y (p.dst + off + i)).pa) → cellGet t.mem a = cellGet s.mem a) ∧
      (∀ sd < 2, ∀ a, cellGet (rm'.sides.getD sd Side.reset).scratch a =
        if c.dst = .scratch sd then landed (cellGet (rm.sides.getD sd Side.reset).scratch) a else cellGet (rm.sides.getD sd Side.reset).scratch a) ∧
      (∀ sd < 2, ∀ a, cellGet (rm'.sides.getD sd Side.reset).obuf a =
        if (match c.dst with | .obuf q _ => q == sd | _ => false) = true then landed (cellGet (rm.sides.getD sd Side.reset).obuf) a else cellGet (rm.sides.getD sd Side.reset).obuf a) ∧
      ((p.landed.map (·.2)).sum + n = p.len → (∀ j q, j ≠ k → c.pieces[j]? = some q → q.absent = true ∨ (q.landed.map (·.2)).sum = q.len) →
        (t.core core).cmds = (s.core core).cmds.filter (fun c => c.id != id) ∧ ∀ k < s.cores.length, ∀ e, some e ∈ (t.core k).holly → e.cmd ≠ id) ∧
      ((∃ j q, j ≠ k ∧ c.pieces[j]? = some q ∧ q.absent = false ∧ (q.landed.map (·.2)).sum ≠ q.len) →
        ∃ c', (t.core core).cmds.find? (fun c => c.id == id) = some c' ∧
          { c' with paid := c.paid } = { c with pieces := c.pieces.set k { p with landed := p.landed ++ [(off, n)] } }))

/-- COPY, COPYM, HALO, OBLD and GATHV, their pre-pass and the bytes they deliver: all of the statements just named hold. Where the spec leaves a
point open this is the model's choice (log entries 41, 58). -/
def Obligations.CopyCommands : Prop :=
  Claims.Copies ∧ Claims.TeamCopies ∧ Claims.CopyProgress

/-! ### Macros (11 R226 to R247, 12 R248 to R272) -/

/-- 11 R227, R239 to R242: RAST.SET prepares its window; RAST traps a wrong signature or window, begins, and with each step writes one row
record: the coverage and the two weights of eight pixels by the exact edge functions; .ROWCB calls back at a row that covers a pixel;
after the last row RAST ends with DONE, and .EMIT writes the predicate and the helper mask of its live quads. -/
def Sys2Proof.Claims.Rasterising : Prop :=
  ∀ (h : Hdr) (f : XFields) (s : State) (w : Wave) (tm : Team) (l : Nat), Issuing s w → s.team? s.cur.team = some tm →
    Lowest (fun l => takes s h w l = true ∧ w.helper.getLsbD l = false) l →
    let r (k : Nat) : Nat := w.sr (f.w.toNat + k)
    let n (k : Nat) : Int := i32.read (r k)
    let x (k : Nat) : Int := n (1 + 2 * (k % 3))
    let y (k : Nat) : Int := n (2 + 2 * (k % 3))
    let area : Int := (x 1 - x 0) * (y 2 - y 0) - (y 1 - y 0) * (x 2 - x 0)
    let fixed : Prop := (∀ k < 6, -8388608 ≤ n (1 + k) ∧ n (1 + k) ≤ 8388607) ∧ r 7 % 8 = 0 ∧ r 7 / 2 ^ 16 % 8 = 0 ∧ r 8 % 64 = 0 ∧
      r 12 = 0 ∧ r 13 = 0 ∧ r 14 = 0 ∧ r 15 = 0
    let st := r 0 % 2 ^ 16
    let cov := r 9 + 2 ^ 32 * r 10
    let progress : Prop := st / 2 ^ 10 = 0 ∧ st / 2 ^ 4 % 16 = 0 ∧ st % 16 ≤ 8 ∧ cov < 2 ^ (8 * (st % 16)) ∧ r 11 < 2 ^ 11 ∧
      st.testBit 8 = decide (area < 0) ∧ st.testBit 9 = decide (area = 0)
    let within (p : Nat × Nat) : Prop := InScratch tm w (r 8) 512 p
    let dest (s : State) (w : Wave) (stop : Bool) (l : Nat) : Lane := if stop && s.cur.mask.getLsbD l then onward s h (w.lane l) else w.lane l
    (¬ fixed → Traps (.rastSet h f) h s (takes s h w) (macroCause 2 0 (r 0))) ∧
    (fixed → (∀ p, ¬ within p) → Traps (.rastSet h f) h s (takes s h w) (cause 3 6 (r 8) 0)) ∧
    (fixed → ∀ p, within p → ∃ (t : State) (w' : Wave) (o : Out), exec (.rastSet h f) s = .next t ∧
      Turns s w { w with outs := w.outs ++ [o] } (onwards s h w) (w.runEnd || h.sw) t w' ∧ o.vlr = true ∧ o.ready = true ∧ o.fin = .regs ∧ o.accs = [] ∧ o.flags = 0#8 ∧
      ∀ v : Wave, ∀ k, (o.writes.foldl Wave.write v).sr k =
        if k = f.w.toNat then 0x52000000 + (if area = 0 then 512 else 0) + (if area < 0 then 256 else 0)
        else if k = f.w.toNat + 9 ∨ k = f.w.toNat + 10 ∨ k = f.w.toNat + 11 then 0 else v.sr k) ∧
    (w.prog = none → r 0 / 2 ^ 24 ≠ 0x52 → Traps (.rast h f) h s (takes s h w) (macroCause 1 0 (r 0))) ∧
    (w.prog = none → r 0 / 2 ^ 24 = 0x52 → ¬ (fixed ∧ progress) → Traps (.rast h f) h s (takes s h w) (macroCause 2 0 (r 0))) ∧
    (w.prog = none → r 0 / 2 ^ 24 = 0x52 → fixed → progress → (∀ p, ¬ within p) → Traps (.rast h f) h s (takes s h w) (cause 3 6 (r 8) 0)) ∧
    (w.prog = none → r 0 / 2 ^ 24 = 0x52 → fixed → progress → ∀ p, within p → f.var.getLsbD 1 = true ∧ tm.width ≠ 64 →
      Traps (.rast h f) h s (takes s h w) (macroCause 6 0 (r 0))) ∧
    (w.prog = none → r 0 / 2 ^ 24 = 0x52 → fixed → progress → ∀ p, within p → ¬ (f.var.getLsbD 1 = true ∧ tm.width ≠ 64) →
      ∃ (t : State) (w' : Wave), exec (.rast h f) s = .next t ∧
        Begins s h w (.rast h f) (takes s h w) [{ lane := l, win := w.sblock f.w.toNat 16, reason := 0, target := none, trap := none, fault := none }] t w') ∧
    ∀ (p : Prog) (m : MacLane), w.prog = some p → p.begun = true → p.lanes = [m] → m.reason = 0 → m.trap = none → m.fault = none →
      w.stop = false → p.flags = 0#8 → StartsFresh s w →
      let g (k : Nat) : Nat := word m.win k
      let row := g 0 % 16
      let sgn : Int := if (g 0).testBit 8 then -1 else 1
      let vx (k : Nat) : Int := i32.read (g (1 + 2 * (k % 3)))
      let vy (k : Nat) : Int := i32.read (g (2 + 2 * (k % 3)))
      let a : Int := (vx 1 - vx 0) * (vy 2 - vy 0) - (vy 1 - vy 0) * (vx 2 - vx 0)
      let e (px k : Nat) : Int :=
        sgn * ((vx (k + 1) - vx k) * (256 * (IFmt.read { w := 16, signed := true } (g 7 / 2 ^ 16) + (row : Int)) + 128 - vy k) -
          (vy (k + 1) - vy k) * (256 * (IFmt.read { w := 16, signed := true } (g 7 % 2 ^ 16) + (px : Int)) + 128 - vx k))
      let topLeft (k : Nat) : Bool := decide (sgn * (vy (k + 1) - vy k) < 0) || (vy (k + 1) == vy k && decide (0 < sgn * (vx (k + 1) - vx k)))
      let inside (px : Nat) : Bool := !(g 0).testBit 9 && (List.range 3).all (fun k => decide (0 < e px k) || (e px k == 0 && topLeft k))
      let weight (px k : Nat) : Nat := if inside px then (rint .rn (e px k * 32768) a.natAbs).toNat else 0
      let rowCov : Nat := ((List.range 8).map (fun px => if inside px then 2 ^ px else 0)).sum
      let cover := g 9 + 2 ^ 32 * g 10
      let record (q : Nat × Nat) (data : Nat) : Out := outOf s false .none [] [{ lane := m.lane, kind := .store, side := some q.1, va := q.2 + 64 * row, pa := q.2 + 64 * row, len := 64, mtype := .homeonly, scope := 0, ord := 0, ch := 0, data := data, state := .todo, result := 0 }]
      let recorded (data : Nat) : Prop := data < 2 ^ 512 ∧ data % 2 ^ 64 = rowCov ∧ data / 2 ^ 320 = 0 ∧
        ∀ px < 8, data / 2 ^ (64 + 32 * px) % 2 ^ 16 = weight px 2 ∧ data / 2 ^ (80 + 32 * px) % 2 ^ 16 = weight px 0
      let cover' := (cover + rowCov * 2 ^ (8 * row)) % 2 ^ 64
      (row < 8 → ∀ q, InScratch tm w (g 8) 512 q → f.var.getLsbD 0 = true → rowCov ≠ 0 →
        ∃ (t : State) (w' : Wave) (data : Nat), exec (.rast h f) s = .next t ∧ t.wave? s.curRef = some w' ∧ t.mem = s.mem ∧ recorded data ∧
          w'.prog = none ∧ w'.runEnd = true ∧ w'.outs = w.outs ++ [record q data] ∧ w'.helper = w.helper ∧ w'.lanes.length = w.lanes.length ∧
          (∀ l < w.lanes.length, w'.lane l = if s.cur.mask.getLsbD l then placed (w.lane l) (s.cur.pc + BitVec.ofInt 64 (8 * f.cboff.toInt)) (w.lane l).prio else w.lane l) ∧
          ∀ k, w'.sr k = if k = f.w.toNat then g 0 / 2 ^ 24 * 2 ^ 24 + 16 * 2 ^ 16 + (g 0 + 1) % 2 ^ 16
            else if k = f.w.toNat + 9 then cover' % 2 ^ 32 else if k = f.w.toNat + 10 then cover' / 2 ^ 32
            else if k = f.w.toNat + 11 then rowCov + 256 * row else w.sr k) ∧
      (row < 8 → ∀ q, InScratch tm w (g 8) 512 q → (f.var.getLsbD 0 = false ∨ rowCov = 0) →
        ∃ (t : State) (w' : Wave) (win data : Nat), exec (.rast h f) s = .next t ∧ t.wave? s.curRef = some w' ∧
          w'.prog = some { p with lanes := [{ m with win := win }] } ∧
          w'.outs = w.outs ++ [record q data] ∧
          { w' with prog := w.prog, outs := w.outs, xl := w.xl } = w ∧ t.mem = s.mem ∧
          word win 0 = g 0 + 1 ∧ word win 9 + 2 ^ 32 * word win 10 = cover' ∧ word win 11 = rowCov + 256 * row ∧
          (∀ k < 16, k ∉ [0, 9, 10, 11] → word win k = g k) ∧ recorded data) ∧
      (row = 8 → ∃ (t : State) (w' : Wave), exec (.rast h f) s = .next t ∧ t.wave? s.curRef = some w' ∧ w'.prog = none ∧ w'.runEnd = true ∧
        (∀ k, w'.sr k = if k = f.w.toNat then g 0 / 2 ^ 24 * 2 ^ 24 + 2 ^ 16 + g 0 % 2 ^ 16
          else if k = f.w.toNat + 9 ∨ k = f.w.toNat + 10 ∨ k = f.w.toNat + 11 then g (k - f.w.toNat) else w.sr k) ∧
        w'.lanes.length = w.lanes.length ∧
        (∀ l < w.lanes.length, { w'.lane l with p := (w.lane l).p } = dest s w true l) ∧
        (f.var.getLsbD 1 = false → w'.helper = w.helper ∧ ∀ l < w.lanes.length, (w'.lane l).p = (w.lane l).p) ∧
        (f.var.getLsbD 1 = true → f.a.toNat % 8 ≠ 7 →
          let live (l : Nat) : Bool := [0, 1, 8, 9].any (fun d => cover.testBit (l / 16 * 16 + l % 8 / 2 * 2 + d))
          (∀ l < 64, w'.helper.getLsbD l = (live l && !cover.testBit l)) ∧
          ∀ l < w.lanes.length, l < 64 → ∀ k < 7, (w'.lane l).pred k = if k = f.a.toNat % 8 then live l else (w.lane l).pred k))

/-- 11 R244 to R246: BLEND.SET writes the header; BLEND traps a wrong signature, window or address and begins; a lane whose number is its
key's next number updates its pixel and passes the key on; a helper lane and OP 6 write nothing; a lane whose number is not reached
waits. -/
def Sys2Proof.Claims.Blending : Prop :=
  ∀ (h : Hdr) (f : XFields) (s : State) (w : Wave) (tm : Team), Issuing s w → s.team? s.cur.team = some tm → s.poisonRegs = [] → f.var.toNat < 3 →
    let g (l k : Nat) : Nat := (w.lane l).vr (f.w.toNat + k)
    let size (set : Bool) : Nat := if set then 4 else 4 * 2 ^ f.var.toNat
    let bad (set : Bool) (l : Nat) : Prop := takes s h w l = true ∧ (6 < g l 0 % 16 ∨ g l 1 % size set ≠ 0)
    let out (set : Bool) (l : Nat) : Prop := takes s h w l = true ∧ ∀ p, ¬ InScratch tm w (g l 1) (size set) p
    let unsigned (l : Nat) : Prop := takes s h w l = true ∧ g l 0 / 2 ^ 24 ≠ 0x42
    (∀ l, Lowest (bad true) l → Traps (.blendSet h f) h s (takes s h w) (macroCause 2 l (g l 0))) ∧
    (∀ l, (∀ l, ¬ bad true l) → Lowest (out true) l → Traps (.blendSet h f) h s (takes s h w) (cause 3 6 (g l 1) 0)) ∧
    (Someone s h w → (∀ l, ¬ bad true l ∧ ¬ out true l) → ∃ (t : State) (w' : Wave) (o : Out), exec (.blendSet h f) s = .next t ∧
      Promises s h w (fun l => block f.w.toNat 1 (0x42000000 + g l 0 % 2 ^ 16)) noFlag t w' o) ∧
    (w.prog = none → ∀ l, Lowest unsigned l → Traps (.blend h f) h s (takes s h w) (macroCause 1 l (g l 0))) ∧
    (w.prog = none → (∀ l, ¬ unsigned l) → ∀ l, Lowest (bad false) l → Traps (.blend h f) h s (takes s h w) (macroCause 2 l (g l 0))) ∧
    (w.prog = none → (∀ l, ¬ unsigned l ∧ ¬ bad false l) → ∀ l, Lowest (out false) l → Traps (.blend h f) h s (takes s h w) (cause 3 6 (g l 1) 0)) ∧
    (w.prog = none → Someone s h w → (∀ l, ¬ unsigned l ∧ ¬ bad false l ∧ ¬ out false l) → ∃ (t : State) (w' : Wave), exec (.blend h f) s = .next t ∧
      Begins s h w (.blend h f) (takes s h w) (windowsAt w (takes s h w) f.w.toNat 8) t w') ∧
    ∀ (p : Prog) (m : MacLane) (e : Rowan) (q : Nat × Nat) (d : Side), MacroRuns s w (.blend h f) p m → w.outs = [] → p.lanes = [m] → m.lane < w.lanes.length →
      m.lane < 64 → (w.lane m.lane).await = none → InScratch tm w (word m.win 1) (size false) q → tm.sides[q.1]? = some d →
      let key : BitVec 64 := BitVec.ofNat 64 (word m.win 2 * 2 ^ 32 + word m.win 1)
      let st := word m.win 0 % 2 ^ 16
      s.rowans.find? (fun e => e.asn == s.curAsn && e.space == true && e.key == key) = some e → e.waiters = [] → e.extra = 0 →
      (e.next.toNat = word m.win 3 → ∃ (t : State) (w' : Wave) (d' : Side) (tm' : Team), exec (.blend h f) s = .next t ∧ t.wave? s.curRef = some w' ∧
        w'.prog = none ∧ w'.runEnd = true ∧ (w'.lane m.lane).pc = after s h ∧
        (w'.lane m.lane).vr f.w.toNat = word m.win 0 / 2 ^ 24 * 2 ^ 24 + 2 ^ 16 + st ∧
        (∀ r, r ≠ f.w.toNat → (w'.lane m.lane).vr r = (w.lane m.lane).vr r) ∧
        t.team? s.cur.team = some tm' ∧ tm'.sides[q.1]? = some d' ∧ t.mem = s.mem ∧
        (let passes : Prop := st % 16 = 6 ∨ w.helper.getLsbD m.lane = true
         (passes → (∀ a, cellGet d'.scratch a = cellGet d.scratch a) ∧ ∀ i, w'.wstat.getLsbD i = (w.wstat.getLsbD i || (decide (i < 8) && p.flags.getLsbD i))) ∧
         (¬ passes → ∃ (new : Nat) (fl : Flags),
           BlendOf (st % 16) f.var.toNat (fun c => fdecode .f32 (word m.win (4 + c))) (littleEndian (cellGet d.scratch) q.2 (size false)) new fl ∧
           (∀ a, cellGet d'.scratch a = storedByte (cellGet d.scratch) q.2 (size false) new a) ∧
           ∀ i, w'.wstat.getLsbD i = (w.wstat.getLsbD i || (decide (i < 8) && (p.flags ||| fl).getLsbD i)))) ∧
        (let next : BitVec 32 := if st.testBit 5 then 0#32 else e.next + 1#32
         (next ≠ e.alloc → ∃ e', t.rowans.find? (fun e => e.asn == s.curAsn && e.space == true && e.key == key) = some e' ∧ e' = { e with next := next }) ∧
         (next = e.alloc → e.held = false → t.rowans.find? (fun e => e.asn == s.curAsn && e.space == true && e.key == key) = none))) ∧
      (e.next.toNat ≠ word m.win 3 → ∃ (t : State) (w' : Wave), exec (.blend h f) s = .next t ∧ t.wave? s.curRef = some w' ∧ t.mem = s.mem ∧
        w'.prog = some p ∧ (w'.lane m.lane).await = some { key := key, number := BitVec.ofNat 32 (word m.win 3), space := true, len := 8, group := 0#64 } ∧
        t.rowans.find? (fun e => e.asn == s.curAsn && e.space == true && e.key == key) =
          some { e with waiters := [{ team := s.cur.team, wave := s.cur.wave, lane := m.lane }] })

/-- 11 R237, R238: BIN checks the signatures and its bin set and begins; each step pushes one record at the tail of the next bin's queue,
or waits while the queue is full; the lane ends with DONE after its last bin; BIN_QUEUE_PUSH is that step. -/
def Sys2Proof.Claims.Binning : Prop :=
  (∀ (h : Hdr) (f : XFields) (s : State) (w : Wave), Issuing s w →
    let g (l k : Nat) : Nat := (w.lane l).vr (f.w.toNat + k)
    let acts (l : Nat) : Bool := takes s h w l && !w.helper.getLsbD l
    let va := w.sr f.a.toNat + 2 ^ 32 * w.sr (f.a.toNat + 1)
    let unsigned (l : Nat) : Prop := takes s h w l = true ∧ g l 0 / 2 ^ 24 ≠ 0x49
    (w.prog = none → ∀ l, Lowest unsigned l → Traps (.bin h f) h s (takes s h w) (macroCause 1 l (g l 0))) ∧
    (w.prog = none → (∀ l, ¬ unsigned l) → ∀ l, Lowest (fun l => acts l = true) l →
      (va % 64 ≠ 0 → Traps (.bin h f) h s acts (macroCause 7 l (g l 0))) ∧
      ∀ v x, va % 64 = 0 → canonical va = true → s.look w.xl w.core s.curAsn va = .hit x → x.perms.getLsbD 0 = true → x.mtype = .homeonly ∨ x.mtype = .host →
        Sound s w.core x.pa 64 → Unmarked s x.pa 64 → WalkRoom s w → ReadsAtOnce s s.curRef w → v = littleEndian (cellGet s.mem) x.pa 64 →
        (¬ binFormed v → ∃ (s' : State) (k : BitVec 64), s'.mem = s.mem ∧ (∀ q, s'.wave? q = s.wave? q) ∧ (∀ l < 64, k.getLsbD l = acts l) ∧
          exec (.bin h f) s = .next (s'.trapLanes h k (macroCause 7 l (g l 0)))) ∧
        (binFormed v → ∃ (t : State) (w' : Wave), exec (.bin h f) s = .next t ∧ 
            Begins s h w (.bin h f) acts ((windowsAt w acts f.w.toNat 16).map (fun m => { m with next := word m.win 0 % 2 ^ 16 })) t w' ∧
          ∀ p, w'.prog = some p → p.data = [v]))) ∧
  ∀ (h : Hdr) (f : XFields) (s : State) (w : Wave) (p : Prog) (m : MacLane) (d hx sx : Nat) (hd : Nat), Issuing s w → MacroRuns s w (.bin h f) p m → p.data = [d] →
    w.outs = [] → NoUpdates s → (s.core w.core).cache = [] → (s.core w.core).draining = [] → (s.core w.core).notices = [] → s.promo = [] →
    let bw := d % 2 ^ 16
    let bh := d / 2 ^ 16 % 2 ^ 16
    let cap := d / 2 ^ 32 % 2 ^ 32
    let base := d / 2 ^ 64 % 2 ^ 64
    let v (k : Nat) : Int := i32.read (word m.win k)
    let least (k : Nat) : Int := min (v (2 + k)) (min (v (4 + k)) (v (6 + k)))
    let most (k : Nat) : Int := max (v (2 + k)) (max (v (4 + k)) (v (6 + k)))
    let meets (k i : Nat) : Bool := decide (Int.fdiv (least k) 16384 ≤ (i : Int)) && decide ((i : Int) ≤ Int.fdiv (most k) 16384)
    let bins : List (Nat × Nat) := ((List.range bh).filter (meets 1)).flatMap (fun y => ((List.range bw).filter (meets 0)).map (fun x => (x, y)))
    let n := m.next
    let words (_ : MacLane) : List Nat := [0]
    exec (.binQueuePush s.curRef) { s with cur := { s.cur with mask := p.mask, pc := p.pc, blocked := false } } =
      exec (.bin h f) { s with cur := { s.cur with mask := p.mask, pc := p.pc, blocked := false } } ∧
    (bins.length ≤ n → ∃ t : State, exec (.bin h f) s = .next t ∧ t.mem = s.mem ∧
      MacroTicks s w p f.w.toNat words { m with win := (if bins = [] then m.win / 2 ^ 16 * 2 ^ 16 else m.win), reason := 1, target := some (after s h) } 0#8 t) ∧
    ∀ bx by' x y, bins[n]? = some (bx, by') →
      let q := base + (by' * bw + bx) * 64 * (cap + 1)
      let head := hd % 2 ^ 64
      let tail := hd / 2 ^ 64
      let slot := q + 64 + 64 * (tail % cap)
      (q + 64 * (cap + 1) ≤ 2 ^ 64 ∧ canonical q = true ∧ canonical slot = true ∧ s.look w.xl w.core s.curAsn q = .hit x ∧ s.look w.xl w.core s.curAsn slot = .hit y ∧
        (s.core w.core).tlb.find? (fun e => e.covers s.curAsn q) ≠ none ∧ (s.core w.core).tlb.find? (fun e => e.covers s.curAsn slot) ≠ none) →
      x.pa = hx → y.pa = sx → x.perms.getLsbD 1 = true ∧ x.mtype ≠ .io → y.perms.getLsbD 1 = true ∧ y.mtype ≠ .io →
      (sx + 64 ≤ hx ∨ hx + 16 ≤ sx) → Untraced s hx 16 → Untraced s sx 64 → hd = littleEndian (cellGet s.mem) hx 16 →
      ((tail + 2 ^ 64 - head) % 2 ^ 64 < cap → ∃ t : State, exec (.bin h f) s = .next t ∧
        (∀ a, cellGet t.mem a = storedByte (storedByte (cellGet s.mem) sx 64 (word m.win 1 + (bx + by' * 2 ^ 16) * 2 ^ 32 + m.win / 2 ^ 64 % 2 ^ 448 * 2 ^ 64)) hx 16
          (head + (tail + 1) % 2 ^ 64 * 2 ^ 64) a) ∧
        MacroTicks s w p f.w.toNat words (if n + 1 = bins.length then { m with win := m.win / 2 ^ 16 * 2 ^ 16 + (n + 1) % 2 ^ 16, next := n + 1, reason := 1, target := some (after s h) }
          else { m with win := m.win / 2 ^ 16 * 2 ^ 16 + (n + 1) % 2 ^ 16, next := n + 1 }) 0#8 t) ∧
      (cap ≤ (tail + 2 ^ 64 - head) % 2 ^ 64 → ∃ t : State, exec (.bin h f) s = .next t ∧ t.mem = s.mem ∧ t.cur.blocked = true ∧ t.wave? s.curRef = some { w with xl := [] })

/-- RAST, BLEND and BIN with their set forms: traps, steps and the rows, pixels and records they leave: all of the statements just named hold.
Where the spec leaves a point open this is the model's choice (log entries 36, 38, 59). -/
def Obligations.RasterMacros : Prop :=
  Claims.Rasterising ∧ Claims.Blending ∧ Claims.Binning

/-- 12 R270 to R272: FILT.SET writes its header, FILT traps a wrong signature or window and begins; a lane with a malformed descriptor ends
with BADDESC, a lane whose coordinates are not finite gets NaNs with NV, and otherwise its sample: in each channel the exact sum of its taps' weights times their texels, rounded once. -/
def Sys2Proof.Claims.Filtering : Prop :=
  ∀ (h : Hdr) (f : XFields) (s : State) (w : Wave), Issuing s w →
    let g (l k : Nat) : Nat := (w.lane l).vr (f.w.toNat + k)
    let unsigned (l : Nat) : Prop := takes s h w l = true ∧ g l 0 / 2 ^ 24 ≠ 0x46
    let bad (l : Nat) : Prop := takes s h w l = true ∧ (g l 0 % 2 ^ 16 ≠ 0 ∨ g l 14 ≠ 0 ∨ g l 15 ≠ 0 ∨ g l 12 % 32 ≠ 0)
    let words (m : MacLane) : List Nat := if m.reason = 1 then [0, 8, 9, 10, 11] else [0]
    let ends (m m' : MacLane) (win : Nat) (v : Nat → Nat) : Prop := m' = { m with win := win, reason := 1, target := some (after s h) } ∧
      (∀ k < 8, word win k = word m.win k) ∧ ∀ c < 4, word win (8 + c) = v c
    (∀ l, Lowest bad l → Traps (.filtSet h f) h s (takes s h w) (macroCause 2 l (g l 0))) ∧
    (Someone s h w → (∀ l, ¬ bad l) → ∃ (t : State) (w' : Wave) (o : Out), exec (.filtSet h f) s = .next t ∧
      Promises s h w (fun _ => block f.w.toNat 1 0x46000000) noFlag t w' o) ∧
    (w.prog = none → ∀ l, Lowest unsigned l → Traps (.filt h f) h s (takes s h w) (macroCause 1 l (g l 0))) ∧
    (w.prog = none → (∀ l, ¬ unsigned l) → ∀ l, Lowest bad l → Traps (.filt h f) h s (takes s h w) (macroCause 2 l (g l 0))) ∧
    (w.prog = none → Someone s h w → (∀ l, ¬ unsigned l ∧ ¬ bad l) → ∃ (t : State) (w' : Wave), exec (.filt h f) s = .next t ∧
      Begins s h w (.filt h f) (takes s h w) (windowsAt w (takes s h w) f.w.toNat 16) t w') ∧
    ∀ (p : Prog) (m : MacLane) (d : Nat), MacroRuns s w (.filt h f) p m → Reads s w (word m.win 12 + 2 ^ 32 * word m.win 13) 32 d → f.var.toNat < 3 →
      (texMalformed d → ∃ t : State, exec (.filt h f) s = .next t ∧ t.mem = s.mem ∧
        MacroTicks s w p f.w.toNat words { m with reason := 16, target := some (after s h) } 0#8 t) ∧
      (¬ texMalformed d → NoSample f.var.toNat m.win → ∃ (t : State) (m' : MacLane) (win : Nat), exec (.filt h f) s = .next t ∧ t.mem = s.mem ∧
        ends m m' win (fun _ => 0x7FC00000) ∧ MacroTicks s w p f.w.toNat words m' fNV t) ∧
      ∀ (taps : List (Rat × Int)) (x : Int → Nat), ¬ texMalformed d → SampleTaps d f.var.toNat m.win taps →
        (∀ q ∈ taps, 0 ≤ q.2 ∧ Reads s w q.2.toNat (texelSize d) (x q.2)) →
        ∃ (t : State) (m' : MacLane) (win : Nat) (e : Nat → Nat × Flags), exec (.filt h f) s = .next t ∧ t.mem = s.mem ∧ ends m m' win (fun c => (e c).1) ∧
          (∀ c < 4, Weighted (taps.map (fun q => (q.1, texelChannel d (x q.2) c))) (e c)) ∧
          MacroTicks s w p f.w.toNat words m' ((e 0).2 ||| (e 1).2 ||| (e 2).2 ||| (e 3).2) t

/-- 12 R256 to R265: TRAV.SET prepares the walk from the root; TRAV traps a wrong signature or window and begins, a lane without a ray
ending MISS; a step at a box node goes to the nearest child that the ray meets and stacks the others, a step at a triangle node tests
one triangle, a pending candidate is taken or dropped, and a lane whose stack is empty ends HIT or MISS. -/
def Sys2Proof.Claims.Traversal : Prop :=
  ∀ (h : Hdr) (f : XFields) (s : State) (w : Wave), Issuing s w →
    let g (l k : Nat) : Nat := (w.lane l).vr (f.w.toNat + k)
    let win (l : Nat) : Nat := (w.lane l).vblock f.w.toNat 32
    let acts (l : Nat) : Bool := takes s h w l && !w.helper.getLsbD l
    let unsigned (l : Nat) : Prop := acts l = true ∧ g l 0 / 2 ^ 24 ≠ 0x54
    let rootBad (l : Nat) : Prop := acts l = true ∧ (2 ^ 18 ≤ g l 9 ∨ g l 10 / 8 % 8 ≠ 0 ∨ canonical (g l 10 + 2 ^ 32 * g l 11) = false ∨ g l 10 % 8 = 0 ∨ 6 ≤ g l 10 % 8)
    let ray (l : Nat) : Prop := (∃ o d, RayOf (win l) o d) ∧ atMost (fdecode .f32 (g l 7)) (fdecode .f32 (g l 8)) = true
    let words (_ : MacLane) : List Nat := [0, 8, 9] ++ (List.range 20).map (· + 12)
    (∀ l, Lowest rootBad l → ∃ k : BitVec 64, (∀ l < 64, k.getLsbD l = acts l) ∧ exec (.travSet h f) s = .next (s.trapLanes h k (macroCause 2 l (g l 0)))) ∧
    ((∃ l, acts l = true) → (∀ l, ¬ rootBad l) → ∃ (t : State) (w' : Wave) (o : Out), exec (.travSet h f) s = .next t ∧
      Turns s w { w with outs := w.outs ++ [o] } (onwards s h w) (w.runEnd || h.sw) t w' ∧ o.vlr = true ∧ o.ready = true ∧ o.fin = .regs ∧ o.accs = [] ∧ o.flags = 0#8 ∧
      ∀ v : Wave, v.lanes.length = w.lanes.length → ∀ l r, l < w.lanes.length → ((o.writes.foldl Wave.write v).lane l).vr r =
        if acts l then ((if r = f.w.toNat then some 0x54000000 else if r = f.w.toNat + 9 then some (g l 9 % 256) else if r = f.w.toNat + 12 then some (g l 10 % 8 * 2 ^ 28)
          else if f.w.toNat + 13 ≤ r ∧ r < f.w.toNat + 32 then some 0 else none).getD ((v.lane l).vr r)) else (v.lane l).vr r) ∧
    (w.prog = none → ∀ l, Lowest unsigned l → ∃ k : BitVec 64, (∀ l < 64, k.getLsbD l = acts l) ∧
      exec (.trav h f) s = .next (s.trapLanes h k (macroCause 1 l (g l 0)))) ∧
    (w.prog = none → (∀ l, ¬ unsigned l) → ∀ l, Lowest (fun l => acts l = true ∧ ¬ TravFormed (win l)) l → ∃ k : BitVec 64, (∀ l < 64, k.getLsbD l = acts l) ∧
      exec (.trav h f) s = .next (s.trapLanes h k (macroCause 2 l (g l 0)))) ∧
    (w.prog = none → (∃ l, acts l = true) → (∀ l, ¬ unsigned l) → (∀ l, acts l = true → TravFormed (win l)) → ∃ (t : State) (w' : Wave) (ms : List MacLane),
      exec (.trav h f) s = .next t ∧ Begins s h w (.trav h f) acts ms t w' ∧ ms.map (fun m => (m.lane, m.win)) = (lanesThat acts).map (fun l => (l, win l)) ∧
      ∀ m ∈ ms, m.trap = none ∧ m.fault = none ∧ (ray m.lane → m.reason = 0 ∧ m.target = none) ∧ (¬ ray m.lane → m.reason = 17 ∧ m.target = some (after s h))) ∧
    ∀ (p : Prog) (m : MacLane), MacroRuns s w (.trav h f) p m →
      let x := m.win
      let cur := word x 12
      let node := (word x 10 + 2 ^ 32 * word x 11) / 64 * 64 + 64 * (cur % 2 ^ 28)
      let tmin := fdecode .f32 (word x 7)
      let tmax := fdecode .f32 (word x 8)
      let ticks (m' : MacLane) (fl : Flags) : Prop := ∃ t : State, exec (.trav h f) s = .next t ∧ t.mem = s.mem ∧ MacroTicks s w p f.w.toNat words m' fl t
      let ended (win r : Nat) : MacLane := { m with win := win, reason := r, target := some (after s h) }
      let pops (win : Nat) : Prop := ticks (match travPop win with | .ok y => { m with win := y } | .error r => ended win r) 0#8
      let pend := x.testBit 13
      let count := word x 0 % 8
      (pend = true → x.testBit 14 = false → ticks { m with win := x - 2 ^ 13 - count + (count + 1) % 8 } 0#8) ∧
      (pend = false → tvWalk x = false → cur < 2 ^ 31 →
        (∀ v, cur / 2 ^ 28 = 1 → Reads s w node 128 v → (¬ BoxFormed v → ticks (ended x 20) 0#8) ∧
          (BoxFormed v → ∀ o d l, RayOf x o d → ChildList v o d tmin tmax l → (l = [] → pops x) ∧
            (∀ r rest, l = r :: rest → tvPd x ≠ 20 →
              ticks { m with win := setPd (travDescend (setTrail (travPushAll x l 1 (tvPd x)) (tvPd x) 0) r) (tvPd x + 1) } 0#8) ∧
            (l ≠ [] → tvPd x = 20 → ticks (ended x 21) 0#8))) ∧
        ∀ v tri, cur / 2 ^ 28 = 3 → Reads s w node 16 v → v / 2 ^ 12 % 2 ^ 20 = 0 → v / 8 % 32 = 0 → 0 < v % 8 → v % 8 ≤ 4 →
          (v % 8 ≤ count → pops (setNext x 0)) ∧
          (count < v % 8 → Reads s w (node + 16 + 36 * count) 36 tri → ∀ o d, RayOf x o d →
            let corner (i k : Nat) : Val := fdecode .f32 (tri / 2 ^ (96 * i + 32 * k) % 2 ^ 32)
            let at' (i k : Nat) : Rat := Val.rat (corner i k)
            let hit (t u v : Rat) : Prop := (∀ i < 3, ∀ k < 3, Finite (corner i k) (at' i k)) ∧ TriangleHit o d (at' 0) (at' 1) (at' 2) tmin tmax (f.var.getLsbD 2) t u v
            ((∀ t u v, ¬ hit t u v) → ticks { m with win := setNext x (count + 1) } 0#8) ∧
            ∀ a b c, hit a b c → (v.testBit (8 + count) = true ∨ f.var.getLsbD 0 = false) → ∃ (tr : Nat) (fl : Flags) (y : Val), Finite y a ∧ (tr, fl) = roundTo .f32 .rn y ∧
              let u16 (z : Rat) : Nat := (rint .rn (z * 32768).num (z * 32768).den).toNat
              let nx (z : Rat) : Flags := if (u16 z : Rat) = z * 32768 then 0#8 else fNX
              let win := setNext (travCommit x tr (u16 b + 65536 * u16 c) count 0) (count + 1)
              ticks (if f.var.getLsbD 1 then ended win 16 else { m with win := win }) (fl ||| nx b ||| nx c)))

/-- 11 R231, R234 to R236: MCALL traps an empty slot, an operand, a window, a signature or a revision that the image does not allow, in
that order, and begins; each lane's step may change nothing but its window and ends with a reason that the image declares, with DONE or
with WINDOW; a slice stop leaves every macro at its PC with REASON 3. What the microcode computes is free (the model's choice, log entry 11). -/
def Sys2Proof.Claims.MicrocodeCalls : Prop :=
  (∀ (h : Hdr) (f : XFields) (s : State) (w : Wave) (tm : Team), Issuing s w → Someone s h w → s.team? s.cur.team = some tm →
    let slot := f.var.toNat
    let g (l k : Nat) : Nat := (w.lane l).vr (f.w.toNat + k)
    let unsigned (l : Nat) : Prop := takes s h w l = true ∧ g l 0 / 2 ^ 24 ≠ 0x80 + slot
    (w.prog = none → s.micro.find? (fun m => m.slot == slot) = none → ∀ l, Lowest (fun l => takes s h w l = true) l →
      Traps (.mcall h f) h s (takes s h w) (macroCause 3 l (g l 0))) ∧
    ∀ img, s.micro.find? (fun m => m.slot == slot) = some img →
      let allowed (kind i : Nat) : Prop := if kind = 0 then i = 0 else if kind = 1 then i < tm.vregs else i < 192
      let ok : Prop := allowed img.akind f.a.toNat ∧ allowed img.bkind f.b.toNat
      (w.prog = none → ¬ ok → ∀ l, Lowest (fun l => takes s h w l = true) l → Traps (.mcall h f) h s (takes s h w) (macroCause 5 l (g l 0))) ∧
      (w.prog = none → ok → tm.vregs < f.w.toNat + img.wsize → ∀ l, Lowest (fun l => takes s h w l = true) l →
        Traps (.mcall h f) h s (takes s h w) (macroCause 2 l (g l 0))) ∧
      (w.prog = none → ok → f.w.toNat + img.wsize ≤ tm.vregs → 0 < img.wsize → (∀ l, Lowest unsigned l → Traps (.mcall h f) h s (takes s h w) (macroCause 1 l (g l 0))) ∧
        ((∀ l, ¬ unsigned l) → (∀ l, Lowest (fun l => takes s h w l = true ∧ g l 0 / 2 ^ 8 % 256 ≠ img.rev) l →
            Traps (.mcall h f) h s (takes s h w) (macroCause 4 l (g l 0))) ∧
          ((∀ l, takes s h w l = true → g l 0 / 2 ^ 8 % 256 = img.rev) → ∃ (t : State) (w' : Wave), exec (.mcall h f) s = .next t ∧
            Begins s h w (.mcall h f) (takes s h w) (windowsAt w (takes s h w) f.w.toNat img.wsize) t w'))) ∧
      ∀ (p : Prog) (m : MacLane), MacroRuns s w (.mcall h f) p m → 0 < img.wsize → m.win < 2 ^ (32 * img.wsize) →
        ∃ (t : State) (m' : MacLane), exec (.mcall h f) s = .next t ∧ t.mem = s.mem ∧ m'.lane = m.lane ∧ m'.fault = none ∧ m'.win < 2 ^ (32 * img.wsize) ∧
          word m'.win 0 / 2 ^ 8 = word m.win 0 / 2 ^ 8 ∧
          (m'.trap = none → MacroTicks s w p f.w.toNat (fun m => if m.reason = 3 then [0] else List.range img.wsize) m' 0#8 t ∧
            (m'.reason = 1 ∧ m'.target = some (after s h) ∨ m'.reason < 256 ∧ img.rsnmap.testBit m'.reason = true ∧
              ((img.cbmap.testBit m'.reason = true ∧ f.cboff ≠ 0#13 ∧ m'.target = some (s.cur.pc + BitVec.ofInt 64 (8 * f.cboff.toInt))) ∨
                (img.cbmap.testBit m'.reason = false ∧ m'.target = some (after s h))))) ∧
          ∀ x, m'.trap = some x → x = macroCause 2 m.lane (word m'.win 0)) ∧
  ∀ (r : WaveRef) (s : State) (w : Wave) (p : Prog), s.wave? r = some w → w.prog = some p → p.begun = true → w.stop = true → p.flags = 0#8 →
    (∀ m ∈ p.lanes, m.reason = 0 ∧ m.trap = none ∧ m.fault = none ∧ (w.lane m.lane).await = none ∧ m.lane < w.lanes.length ∧ m.lane < 64 ∧ m.win < 2 ^ 1024) →
    (p.lanes.map MacLane.lane).Nodup →
    ∀ h f, p.instr ∈ [Instr.filt h f, .trav h f, .bin h f, .blend h f, .mcall h f] → ∃ (t : State) (w' : Wave), exec (.macroSliceStop r) s = .next t ∧
      t.wave? r = some w' ∧ w'.prog = none ∧ w'.runEnd = true ∧ t.mem = s.mem ∧ (∀ q, q ≠ r → t.wave? q = s.wave? q) ∧
      (∀ l < w.lanes.length, { w'.lane l with v := (w.lane l).v } = w.lane l) ∧
      ∀ m ∈ p.lanes, (w'.lane m.lane).vr f.w.toNat = word m.win 0 / 2 ^ 24 * 2 ^ 24 + 3 * 2 ^ 16 + word m.win 0 % 2 ^ 16

/-- FILT, TRAV and MCALL; what the microcode computes is free (the model's choice, log entry 11): all of the statements just named hold. Where
the spec leaves a point open this is the model's choice (log entries 8, 37). -/
def Obligations.FilterTraverseMicrocode : Prop :=
  Claims.Filtering ∧ Claims.Traversal ∧ Claims.MicrocodeCalls

/-! ### Spawning (14 R305, R311 to R315) -/

/-- 14 R311 to R315: SPAWN ends the lanes that pass its guard and deposits each in the Burrow at the target; REPACK ends the wave and
deposits every live lane, with the key that the lanes that pass the guard give; a record holds the lane's PC, priority, key, predicates
and first registers, the records lie in the lowest free places, in lane order; helper lanes end without one. What does not fit traps
with cause group TASK, BURROWFULL, and no lane moves. -/
def Sys2Proof.Claims.Spawning : Prop :=
  ∀ (h : Hdr) (f : YFields) (s : State) (w : Wave) (tm : Team) (l : Launch), Issuing s w → Someone s h w → s.team? s.cur.team = some tm →
    s.launch? tm.launch = some l → w.outs = [] → w.lanes.length ≤ 64 →
    let n := l.block.spawnRegs
    let target : Word := BitVec.ofNat 64 (w.sr f.a.toNat + 2 ^ 32 * w.sr (f.a.toNat + 1))
    let live (k : Nat) : Bool := (w.lane k).live
    let goes (p : Nat → Bool) : List Nat := lanesThat (fun k => p k && !w.helper.getLsbD k)
    let spawned : List Dep := (goes (takes s h w)).map (fun k => depOf (w.lane k) k target (w.lane k).prio 0 n)
    let packed : List Dep := (goes live).map (fun k => depOf (w.lane k) k (if s.cur.mask.getLsbD k then after s h else (w.lane k).pc)
      (w.lane k).prio (if takes s h w k then (w.lane k).vr f.a.toNat % 65536 else 0xFFFF) n)
    let works (i : Instr) (p : Nat → Bool) (ds : List Dep) : Prop := (∀ k, p k = true → Loose (w.lane k)) →
      (∀ as x, as.length = ds.length → MayDeposit s w l n as x →
        ∃ (t : State) (w' : Wave), exec i s = .next t ∧
          Turns s w w (fun k => if p k then ended (w.lane k) else onwards s h w k) true t w' ∧
          Deposited s w tm.rank l n as ds x l.pushers t) ∧
      (l.block.bsize < recordBytes n * ds.length + burrowUsed l → Traps i h s (takes s h w)
        (cause 12 1 (recordBytes n * ds.length) (l.block.bsize - burrowUsed l)))
    (target.toNat % 8 = 0 → canonical target.toNat = true → works (.spawn h f) (takes s h w) spawned) ∧
    works (.repack h f) live packed

/-- 14 R305: a BRS whose condition is the same in every lane branches as BR; otherwise the side with fewer lanes, the taken side on a
tie, is deposited in the Burrow with its pair, and the other lanes go where BR would send them. -/
def Sys2Proof.Claims.BranchAndSpawn : Prop :=
  ∀ (h : Hdr) (f : BFields) (s : State) (w : Wave) (tm : Team) (l : Launch), Issuing s w → s.team? s.cur.team = some tm →
    s.launch? tm.launch = some l → w.outs = [] → w.lanes.length ≤ 64 →
    let n := l.block.spawnRegs
    let c (k : Nat) : Bool := f.cp == 7#3 || ((w.lane k).pred f.cp.toNat != f.cn)
    let side (b : Bool) (k : Nat) : Bool := s.cur.mask.getLsbD k && (c k == b)
    let pc (k : Nat) : Word := if c k then s.cur.pc + BitVec.ofInt 64 (8 * f.off.toInt) else s.cur.pc + 8#64
    let prio (k : Nat) : BitVec 8 := if c k then f.tprio else f.fprio
    let dest (k : Nat) : Lane := if s.cur.mask.getLsbD k then placed (w.lane k) (pc k) (prio k) else w.lane k
    let few : Bool := decide ((lanesThat (side true)).length ≤ (lanesThat (side false)).length)
    let ds : List Dep := (lanesThat (fun k => side few k && !w.helper.getLsbD k)).map (fun k => depOf (w.lane k) k (pc k) (prio k) 0 n)
    (∀ b : Bool, (∀ k < 64, s.cur.mask.getLsbD k = true → c k = b) →
      ∃ (t : State) (w' : Wave), exec (.brs h f) s = .next t ∧ Becomes s w w dest (w.runEnd || h.sw) t w') ∧
    ((∃ k, side true k = true) → (∃ k, side false k = true) → (∀ k, side few k = true → Loose (w.lane k)) →
      (∀ as x, as.length = ds.length → MayDeposit s w l n as x →
        ∃ (t : State) (w' : Wave), exec (.brs h f) s = .next t ∧
          Turns s w w (fun k => if side few k then ended (dest k) else dest k) true t w' ∧ Deposited s w tm.rank l n as ds x l.pushers t) ∧
      (l.block.bsize < recordBytes n * ds.length + burrowUsed l → Traps (.brs h f) h s (fun k => s.cur.mask.getLsbD k)
        (cause 12 1 (recordBytes n * ds.length) (l.block.bsize - burrowUsed l))))

/-! ### Tasks and hardware queues (15 R336 to R340) -/

/-- 15 R336 to R338: TASKPUSH reads the block that B names and traps BADTASK when it is malformed or of another kind; each lane that
acts deposits a record of its sixteen registers in the Burrow of the block's task launch, which the first push admits; a new one that
can never be placed fails its pusher's launch with NOFIT. -/
def Sys2Proof.Claims.TaskPushes : Prop :=
  ∀ (h : Hdr) (f : VFields) (s : State) (w : Wave) (tm : Team) (mine : Launch) (v : Nat), Issuing s w → Someone s h w → s.team? s.cur.team = some tm →
    s.launch? tm.launch = some mine → w.outs = [] → w.xl = [] →
    NoUpdates s → BareCore s w.core → WalkRoom s w →
    let va := w.sr f.b.toNat + 2 ^ 32 * w.sr (f.b.toNat + 1)
    let acts (l : Nat) : Bool := takes s h w l && !w.helper.getLsbD l
    let b : Block := (List.range 16).map (fun k => BitVec.ofNat 64 (v / 2 ^ (64 * k)))
    let ds : List Dep := (lanesThat acts).map (fun l =>
      { lane := l, pc := b.q 0, prio := b.eprio, key := if f.sub = 1#2 then (w.lane l).vr f.c.toNat % 65536 else 0, pred := 0
        regs := (List.range 16).map (fun k => (w.lane l).vr (f.a.toNat + k)) })
    let fresh : Launch := {
      id := s.nextLaunch.toNat, block := b, replay := mine.replay, node := mine.node, task := some (va, s.curAsn), relaunch := false, unplaced := [], age := 0, order := s.uid, lastPlaced := 0, trapped := false, failed := 0, burrow := [], formed := 0, pushers := [], heldKeys := [] }
    va % 64 = 0 → Reads s w va 128 v →
    (b.malformed = true ∨ b.waves ≠ 1 ∨ b.prog ≠ 1 → Traps (.taskpush h f) h s (takes s h w) (cause 12 2 0 0)) ∧
    (b.malformed = false → b.waves = 1 → b.prog = 1 →
      ((∀ l, acts l = false) → ∃ (t : State) (w' : Wave), exec (.taskpush h f) s = .next t ∧ Turns s w w (onwards s h w) (w.runEnd || h.sw) t w' ∧ t.mem = s.mem) ∧
      (∀ l as x, s.launches.find? (fun l => l.task == some (va, s.curAsn)) = some l → s.launch? l.id = some l → as.length = ds.length → 0 < ds.length →
        MayDeposit s w l 16 as x →
        ∃ (t : State) (w' : Wave), exec (.taskpush h f) s = .next t ∧ Turns s w w (onwards s h w) (w.runEnd || h.sw) t w' ∧
          Deposited s w tm.rank l 16 as ds x (if tm.launch ∈ l.pushers ∨ l.id = tm.launch ∨ l.replay ≠ mine.replay then l.pushers else l.pushers ++ [tm.launch]) t) ∧
      (∀ as x, s.launches.find? (fun l => l.task == some (va, s.curAsn)) = none → s.nextLaunch ≠ 0#32 → (∀ l ∈ s.launches, l.id ≠ s.nextLaunch.toNat) →
        as.length = ds.length → 0 < ds.length → MayDeposit s w fresh 16 as x →
        ∃ (t : State) (w' : Wave), exec (.taskpush h f) s = .next t ∧ Turns s w w (onwards s h w) (w.runEnd || h.sw) t w' ∧
          (s.placeable fresh = true → Deposited s w tm.rank fresh 16 as ds x [tm.launch] t) ∧
          (s.placeable fresh = false → t.launch? fresh.id = some { fresh with pushers := [tm.launch] } ∧
            t.launch? tm.launch = some (if mine.trapped = true ∨ mine.failed ≠ 0 then mine else { mine with failed := 4 }))))

/-- SPAWN, REPACK, BRS and TASKPUSH: who ends, and the Burrow records deposited: all of the statements just named hold. Where the spec leaves a
point open this is the model's choice (log entries 34, 35). -/
def Obligations.SpawnsAndTasks : Prop :=
  Claims.Spawning ∧ Claims.BranchAndSpawn ∧ Claims.TaskPushes

/-- 15 R340, 11 R237, R238: HQPUSH pushes one record of sixteen registers for each lane that acts, in lane order; the lanes that find
their queue full trap with cause group TASK, QUEUEFULL, after the others have pushed. HQPOP gives each lane that acts the head record of
the first queue that holds one among the bins that the core owns, in index order, or ones in all bits. A descriptor that is malformed
traps BINSET; a bin outside the set traps BADBIN. Where the spec leaves a point open this is the model's choice (log entry 36). -/
def Obligations.HardwareQueues : Prop :=
  ∀ (h : Hdr) (f : MFields) (s : State) (w : Wave) (l0 : Nat), Issuing s w → w.outs = [] → Lowest (fun l => takes s h w l = true) l0 → w.lanes.length ≤ 64 →
    NoUpdates s → BareCore s w.core → ReadsAtOnce s s.curRef w → WalkRoom s w →
    let va : Int := globalEa h f w (w.lane l0)
    let acts (l : Nat) : Bool := takes s h w l && !w.helper.getLsbD l
    let bx (l : Nat) : Nat := (w.lane l).vr (f.d.toNat + 1) % 65536
    let by' (l : Nat) : Nat := (w.lane l).vr (f.d.toNat + 1) / 65536
    let bad (i : Instr) : Prop := ∃ (s' : State) (k : BitVec 64), s'.mem = s.mem ∧ (∀ q, s'.wave? q = s.wave? q) ∧ (∀ l < 64, k.getLsbD l = takes s h w l) ∧
      exec i s = .next (s'.trapLanes h k (macroCause 7 l0 0))
    (¬ (64 : Int) ∣ va → Traps (.hqpush h f) h s (takes s h w) (macroCause 7 l0 0) ∧ Traps (.hqpop h f) h s (takes s h w) (macroCause 7 l0 0)) ∧
    ∀ d, (64 : Int) ∣ va → 0 ≤ va → Holds s w va.toNat 64 d →
      (¬ binFormed d → bad (.hqpush h f) ∧ bad (.hqpop h f)) ∧
      (binFormed d →
        ((∃ l, acts l = true ∧ (d % 2 ^ 16 ≤ bx l ∨ d / 2 ^ 16 % 2 ^ 16 ≤ by' l)) →
          ∃ (s' : State) (k : BitVec 64), s'.mem = s.mem ∧ (∀ q, s'.wave? q = s.wave? q) ∧ (∀ l < 64, k.getLsbD l = takes s h w l) ∧
            exec (.hqpush h f) s = .next (s'.trapLanes h k (cause 12 4 0 0))) ∧
        ((∀ l, acts l = true → bx l < d % 2 ^ 16 ∧ by' l < d / 2 ^ 16 % 2 ^ 16) →
          ∀ x, QueueReach s w d ((lanesThat acts).map (fun l => (bx l, by' l))) x →
          let y := pushEach d x (fun l => binQueue d (bx l) (by' l)) (fun l => (w.lane l).vblock f.d.toNat 16) (cellGet s.mem) (lanesThat acts)
          (y.2 = [] → ∃ (t : State) (w' : Wave), exec (.hqpush h f) s = .next t ∧ Turns s w w (onwards s h w) (w.runEnd || h.sw) t w' ∧
            ∀ a, cellGet t.mem a = y.1 a) ∧
          (y.2 ≠ [] → ∃ (s' : State) (k lost : BitVec 64), (∀ a, cellGet s'.mem a = y.1 a) ∧ (∀ q, s'.wave? q = s.wave? q) ∧
            (∀ l < 64, k.getLsbD l = takes s h w l) ∧ (∀ l < 64, lost.getLsbD l = true ↔ l ∈ y.2) ∧
            exec (.hqpush h f) s = .next (s'.trapLanes h k (cause 12 3 (lost.toNat % 2 ^ 32) (lost.toNat / 2 ^ 32))))) ∧
        (let bins : List (Nat × Nat) := ((List.range (d % 2 ^ 16 * (d / 2 ^ 16 % 2 ^ 16))).map (fun i => (i % (d % 2 ^ 16), i / (d % 2 ^ 16)))).filter
            (fun p => s.presentCores.getD ((40503 * p.1 + 12289 * p.2) % s.presentCores.length) 256 == w.core)
          ∀ x, QueueReach s w d bins x →
          let y := popEach d x (bins.map (fun b => binQueue d b.1 b.2)) (cellGet s.mem) (lanesThat acts)
          ∃ (t : State) (w' : Wave) (o : Out), exec (.hqpop h f) s = .next t ∧ Turns s w { w with outs := w.outs ++ [o] } (onwards s h w) (w.runEnd || h.sw) t w' ∧
            o = { outOf s true .regs o.writes [] with id := s.uid } ∧
            Delivers o.writes s h w (fun l => block f.d.toNat 16 (if acts l then (match y.2.find? (fun p => p.1 == l) with
              | some (_, some v) => v
              | _ => 2 ^ 64 - 1) else 0)) ∧ ∀ a, cellGet t.mem a = y.1 a))

/-! ### Ordered sections (16 R341 to R360) -/

/-- 16 R343, R344: ORDSEQ gives each lane that acts the next ALLOC of its key, in lane order, and records it as pending. Its keys are
taken one after the other: a step numbers the lanes of one key at one instant (`xs`: the lanes numbered before, and their numbers; that the
least key is next is the model's choice, log 42), and the wave stays in the instruction until every lane has its number; helper lanes then
receive zero. A reserved key traps with KEYZERO. -/
def Sys2Proof.Claims.SequenceNumbers : Prop :=
  ∀ (h : Hdr) (f : VFields) (s : State) (w : Wave) (xs : List (Nat × BitVec 32)), Issuing s w → Someone s h w → w.lanes.length ≤ 64 →
    let acts (l : Nat) : Bool := takes s h w l && !w.helper.getLsbD l
    let key (l : Nat) : Word := BitVec.ofNat 64 (srcA h f w (w.lane l) 2 .plain)
    let waits (l : Nat) : Bool := acts l && xs.all (fun x => x.1 != l)
    let now (l : Nat) : Bool := waits l && (lanesThat waits).all (fun k => decide ((key l).toNat ≤ (key k).toNat))
    let before (l : Nat) : Nat := (lanesThat (fun k => now k && decide (k < l))).length
    let number (l : Nat) : BitVec 32 := (entryOf s s.curAsn (key l)).alloc + BitVec.ofNat 32 (before l)
    let ys : List (Nat × BitVec 32) := xs ++ (lanesThat now).map (fun l => (l, number l))
    let data (zs : List (Nat × BitVec 32)) : List Nat := zs.map (fun x => x.1 + 1024 * x.2.toNat)
    let pends (l : Nat) (ln : Lane) : Lane := if now l then { ln with pend := some (key l, number l) } else ln
    (∀ l, Lowest (fun l => acts l = true ∧ (key l).toNat % 2 ^ 63 = 0) l → Traps (.ordseq h f) h s (takes s h w) (orderCause 1 (key l) 0)) ∧
    ((∀ l, acts l = true → (key l).toNat % 2 ^ 63 ≠ 0) → RowanRoom s → (∀ e ∈ s.rowans, (e.alloc - e.next).toNat + 64 < 2 ^ 32) →
      (∀ x ∈ xs, acts x.1 = true ∧ x.1 < 64) → (xs.map Prod.fst).Nodup →
      (w.prog = none ∧ xs = [] ∨ ∃ p, w.prog = some p ∧ p.begun = true ∧ p.data = data xs) →
      let counted (t : State) : Prop := t.mem = s.mem ∧ ∀ k : Word, entryOf t s.curAsn k =
        { entryOf s s.curAsn k with alloc := (entryOf s s.curAsn k).alloc + BitVec.ofNat 32 (lanesThat (fun l => now l && (key l == k))).length }
      ((∃ l < 64, waits l = true ∧ now l = false) → ∃ (t : State) (w' : Wave) (m : BitVec 64), exec (.ordseq h f) s = .next t ∧ counted t ∧
        t.wave? s.curRef = some w' ∧ (∀ l < 64, m.getLsbD l = takes s h w l) ∧ (∀ q, q ≠ s.curRef → t.wave? q = s.wave? q) ∧
        w'.lanes.length = w.lanes.length ∧ (∀ l < w.lanes.length, w'.lane l = pends l (if takes s h w l then w.lane l else onwards s h w l)) ∧
        { w' with lanes := w.lanes, xl := w.xl } = { w with prog := some {
          instr := .ordseq h f, mask := m, pc := s.cur.pc, begun := true, issued := false, lanes := [], flags := 0, data := data ys } }) ∧
      ((∀ l < 64, waits l = true → now l = true) → ∃ (t : State) (w' : Wave) (o : Out), exec (.ordseq h f) s = .next t ∧ counted t ∧
        Turns s w { w with outs := w.outs ++ [o] } (fun l => pends l (onwards s h w l)) (w.runEnd || h.sw) t w' ∧
        o = outOf s true .regs o.writes [] ∧ Delivers o.writes s h w (fun l =>
          block f.d.toNat 1 (if acts l then (((ys.find? (fun x => x.1 == l)).map Prod.snd).getD 0#32).toNat else 0))))

/-- 16 R343, R345, R347, R349: with no read outstanding, ORDIN admits a lane whose number is NEXT of a key that no lane holds; it holds the
key, its pending record clears and it moves on; every other lane waits at its PC and is recorded as a waiter. A key and a number that are not of the vector kind make
the whole issue wait or go together, on behalf of the lowest lane that acts. A reserved key traps with KEYZERO; a lane that holds two
keys, or one of no lower class, traps with NESTING. -/
def Sys2Proof.Claims.SectionEntry : Prop :=
  ∀ (h : Hdr) (f : VFields) (s : State) (w : Wave), Issuing s w → w.lanes.length ≤ 64 → (∀ o ∈ w.outs, ∀ a ∈ o.accs, a.kind.reads = false) →
    (∀ l < w.lanes.length, (s.cur.mask.getLsbD l = true → (w.lane l).live = true) ∧ ∀ n, (w.lane l).wait ≠ .entered n) →
    let wide : Bool := f.ka == .sca && f.kb != .vec
    let may (l : Nat) : Bool := takes s h w l && !w.helper.getLsbD l
    let acts (l : Nat) : Bool := may l && (!wide || (List.range l).all (fun k => !may k))
    let key (l : Nat) : Word := BitVec.ofNat 64 (srcA h f w (w.lane l) 2 .plain)
    let number (l : Nat) : BitVec 32 := BitVec.ofNat 32 (srcB h f w (w.lane l) 1 .plain)
    let cls (k : Word) : Nat := if k.getLsbD 63 then 1 else 0
    let count (l : Nat) : Nat := (if (w.lane l).held0.isSome then 1 else 0) + (if (w.lane l).held1.isSome then 1 else 0)
    let top (l : Nat) : Nat := if (w.lane l).held1.isSome then 1 else 0
    let nests (l : Nat) : Prop := count l = 2 ∨ (count l = 1 ∧ cls (key l) ≤ top l)
    let e (l : Nat) : Rowan := entryOf s s.curAsn (key l)
    let wins (l : Nat) : Bool := acts l && !(e l).held && (e l).next == number l &&
      (List.range l).all (fun k => !(acts k && key k == key l && (e l).next == number k))
    let going (l : Nat) (ln : Lane) : Lane := { ln with
      held0 := if cls (key l) = 0 then some (key l) else ln.held0, held1 := if cls (key l) = 1 then some (key l) else ln.held1
      pend := if ln.pend = some (key l, number l) then none else ln.pend, await := none }
    let awaits (l : Nat) : Await := { key := key l, number := number l, space := false, len := if h.x.isSome then 16 else 8
                                      group := if wide then s.cur.mask else 1#64 <<< l }
    let past (ln : Lane) : Lane := { ln with pc := ln.pc + (if h.x.isSome then 16#64 else 8#64), wait := .none }
    let boss : Nat := ((List.range 64).find? acts).getD 0
    let dest (l : Nat) : Lane :=
      if wide then
        (let ln := if !s.cur.mask.getLsbD l then w.lane l else if wins boss then past (w.lane l) else { w.lane l with wait := .ordin }
         if l ≠ boss then ln else if wins boss then going l ln else { ln with await := some (awaits l) })
      else if acts l then (if wins l then going l (past (w.lane l)) else { w.lane l with wait := .ordin, await := some (awaits l) })
      else onwards s h w l
    ((∀ l, acts l = false) → ∃ (t : State) (w' : Wave), exec (.ordin h f) s = .next t ∧ Turns s w w (onwards s h w) (w.runEnd || h.sw) t w' ∧ t.mem = s.mem) ∧
    (∀ l, Lowest (fun l => acts l = true ∧ (key l).toNat % 2 ^ 63 = 0) l → Traps (.ordin h f) h s (takes s h w) (orderCause 1 (key l) 0)) ∧
    ((∀ l, acts l = true → (key l).toNat % 2 ^ 63 ≠ 0) → ∀ l, Lowest (fun l => acts l = true ∧ nests l) l →
      Traps (.ordin h f) h s (takes s h w) (orderCause 2 (key l) (top l + 2 * count l))) ∧
    ((∃ l, acts l = true) → (∀ l, acts l = true → (key l).toNat % 2 ^ 63 ≠ 0 ∧ ¬ nests l) → RowanRoom s →
      ∃ (t : State) (w' : Wave), exec (.ordin h f) s = .next t ∧ Turns s w w dest (w.runEnd || h.sw) t w' ∧ t.mem = s.mem ∧
        ∀ k : Word, (∃ l, acts l = true ∧ key l = k) → entryOf t s.curAsn k = { entryOf s s.curAsn k with
          held := (entryOf s s.curAsn k).held || (List.range 64).any (fun l => wins l && key l == k)
          waiters := (entryOf s s.curAsn k).waiters ++ (lanesThat (fun l => acts l && !wins l && key l == k)).map (fun l =>
            { team := s.cur.team, wave := s.cur.wave, lane := l }) })

/-- ORDSEQ gives numbers in lane order; ORDIN admits a lane at its turn: all of the statements just named hold. Where the spec leaves a point
open this is the model's choice (log entry 42). -/
def Obligations.OrderedEntry : Prop :=
  Claims.SequenceNumbers ∧ Claims.SectionEntry

/-- 16 R348, R349: ORDOUT acts for each participating lane, which must hold its key, or with a scalar key for the lane of the issue that holds
it (the lowest; NOTHELD when none does). At issue those lanes hold their keys no longer and move on; their releases are outstanding as
stores are. When such a release is performed, after the lane's earlier accesses, the core's dirty bytes are home, NEXT advances and the key
is free; an entry with nothing left is gone. -/
def Sys2Proof.Claims.SectionExit : Prop :=
  (∀ (h : Hdr) (f : VFields) (s : State) (w : Wave), Issuing s w → w.lanes.length ≤ 64 →
    let may (l : Nat) : Bool := takes s h w l && !w.helper.getLsbD l
    let key (l : Nat) : Word := BitVec.ofNat 64 (srcA h f w (w.lane l) 2 .plain)
    let holds (l : Nat) : Bool := (w.lane l).held0 == some (key l) || (w.lane l).held1 == some (key l)
    let acts (l : Nat) : Bool := may l && (f.ka != .sca || (holds l && (List.range l).all (fun k => !(may k && holds k))))
    let drops (l : Nat) (ln : Lane) : Lane := { ln with
      held0 := if ln.held0 = some (key l) then none else ln.held0, held1 := if ln.held1 = some (key l) then none else ln.held1 }
    let release (l : Nat) : Acc := { lane := l, kind := .ordout, side := some 0, va := 0, pa := 0, len := 0, mtype := .homeonly, scope := 5, ord := 2,
                                     ch := 0, data := (key l).toNat, state := .todo, result := 0 }
    (∀ l, Lowest (fun l => may l = true ∧ (key l).toNat % 2 ^ 63 = 0) l → Traps (.ordout h f) h s (takes s h w) (orderCause 1 (key l) 0)) ∧
    ((∀ l, may l = true → (key l).toNat % 2 ^ 63 ≠ 0) →
      (∀ l, (if f.ka = .sca then (∀ k < 64, may k = true → holds k = false) ∧ Lowest (fun l => may l = true) l
          else Lowest (fun l => may l = true ∧ holds l = false) l) → Traps (.ordout h f) h s (takes s h w) (orderCause 3 (key l) 0)) ∧
      ((∃ l, may l = true) → (if f.ka = .sca then ∃ l, may l = true ∧ holds l = true else ∀ l, may l = true → holds l = true) → s.rowanOut = [] →
        ∃ (t : State) (w' : Wave), exec (.ordout h f) s = .next t ∧
          Turns s w { w with outs := w.outs ++ [outOf s false .none [] ((lanesThat acts).map release)] }
            (fun l => if acts l then drops l (onwards s h w l) else onwards s h w l) (w.runEnd || h.sw) t w' ∧
          t.mem = s.mem ∧ t.rowans = s.rowans))) ∧
  ∀ (r : WaveRef) (k j : Nat) (s : State) (tm : Team) (w : Wave) (o : Out) (a : Acc) (e : Rowan), s.team? r.team = some tm → s.wave? r = some w →
    w.outs[k]? = some o → o.accs[j]? = some a → s.accReady r k j = true → a.kind = .ordout → a.side = some 0 → a.scope = 5 → a.ord = 2 →
    (w.lane a.lane).relScopes = [] → w.core < s.cores.length → PlainCache s w.core → Unmetered s w.core → w.lanes.length ≤ 64 → s.rowanOut = [] →
    let asn : BitVec 12 := BitVec.ofNat 12 (s.block tm.launch).asn
    s.rowans.find? (fun e => e.asn == asn && e.space == false && e.key == BitVec.ofNat 64 a.data) = some e → e.held = true →
    (∀ y ∈ e.waiters, ∀ v x, s.wave? { team := y.team, wave := y.wave } = some v → (v.lane y.lane).await = some x → x.number ≠ e.next + 1#32) →
    ∃ t : State, exec (.accessPerform r k j (.whole none)) s = .next t ∧ AccessDone s r w k j a 0 t ∧
      entryOf t asn (BitVec.ofNat 64 a.data) = (if e.next + 1#32 = e.alloc ∧ (e.waiters.length : Int) + e.extra ≤ 0 then
        { asn := asn, space := false, key := BitVec.ofNat 64 a.data, next := 0#32, alloc := 0#32, held := false, waiters := [] }
        else { e with next := e.next + 1#32, held := false }) ∧
      ∀ x, cellGet t.mem x = writtenBack s w.core x

/-- 16 R345, R346, R349, 25 R427: when the release of an ORDOUT is performed and makes NEXT the number of a waiter of another wave, that
waiter is admitted: it holds the key, and its group is to move past its ORDIN, which it does when its wave next issues. -/
def Sys2Proof.Claims.WaiterAdmission : Prop :=
  ∀ (r q : WaveRef) (k j : Nat) (s : State) (tm : Team) (w v : Wave) (o : Out) (a : Acc) (e : Rowan) (y : Waiter) (x : Await),
    s.team? r.team = some tm → s.wave? r = some w → w.outs[k]? = some o → o.accs[j]? = some a → s.accReady r k j = true → a.kind = .ordout →
    a.side = some 0 → a.scope = 5 → a.ord = 2 → w.core < s.cores.length → PlainCache s w.core → Unmetered s w.core →
    let key : Word := BitVec.ofNat 64 a.data
    let asn : BitVec 12 := BitVec.ofNat 12 (s.block tm.launch).asn
    s.rowans.find? (fun e => e.asn == asn && e.space == false && e.key == key) = some e → s.wave? q = some v → q ≠ r → v.lanes.length ≤ 64 →
    y = { team := q.team, wave := q.wave, lane := y.lane } → e.waiters = [y] → (v.lane y.lane).await = some x → x.number = e.next + 1#32 →
    x.key = key → y.lane < v.lanes.length → x.group.getLsbD y.lane = true →
    ∃ (t : State) (v' : Wave), exec (.accessPerform r k j (.whole none)) s = .next t ∧ t.wave? q = some v' ∧ { v' with lanes := v.lanes } = v ∧
      v'.lanes.length = v.lanes.length ∧
      (∀ i < v.lanes.length, v'.lane i =
        (let ln := if x.group.getLsbD i then { v.lane i with wait := .entered x.len } else v.lane i
         if i = y.lane then { ln with
           held0 := if key.getLsbD 63 then ln.held0 else some key, held1 := if key.getLsbD 63 then some key else ln.held1
           pend := if ln.pend = some (key, x.number) then none else ln.pend, await := none } else ln)) ∧
      entryOf t asn key = { e with next := e.next + 1#32, held := true, waiters := [] } ∧
      ∃ z : Wave, (t.enter q).wave? q = some z ∧ ∀ i < v.lanes.length, x.group.getLsbD i = true → (v.lane i).live = true →
        (z.lane i).pc = (v.lane i).pc + BitVec.ofNat 64 x.len ∧ (z.lane i).wait = .none

/-- 16 R353, R354: ORD_STALL_TIMEOUT leaves a key alone while it is held, has no waiter, has no timeout or can still advance; otherwise
its waiters trap with STALL and it has none left. ORDQCMD OP 1 reports a key's entry, OP 2 frees the entries of an address space. -/
def Sys2Proof.Claims.OrderedStalls : Prop :=
  (∀ (s : State) (asn : BitVec 12) (key : Word) (e : Rowan), s.rowans.find? (fun e => e.asn == asn && e.space == false && e.key == key) = some e →
    let us := if key.getLsbD 63 then s.regs.ordcfg.toNat / 2 ^ 32 else s.regs.ordcfg.toNat % 2 ^ 32
    (e.held = true ∨ (e.waiters.length : Int) + e.extra ≤ 0 ∨ us = 0 → exec (.ordStallTimeout asn key false) s = .next s) ∧
    (∀ r w y a, e.held = false → us ≠ 0 → e.alloc = e.next → s.wave? r = some w → w.lanes.length ≤ 64 → e.waiters = [y] → 0 ≤ e.extra →
      y = { team := r.team, wave := r.wave, lane := y.lane } → (w.lane y.lane).await = some a → ∃ s' : State, { s' with rowans := s.rowans } = s ∧
        s'.rowans.find? (fun e => e.asn == asn && e.space == false && e.key == key) = none ∧
        exec (.ordStallTimeout asn key false) s = .next (s'.raiseEach r (fun k =>
          if a.group.getLsbD k && (w.lane k).wait == .ordin then some (orderCause 5 key e.next.toNat) else none)))) ∧
  ∀ (s : State) (v : Word), s.regs.ready = true → s.regs.recov = false →
    (let e? := s.rowans.find? (fun e => e.asn == v.setWidth 12 && e.space == v.getLsbD 12 && e.key == s.regs.ordqkey)
     s.rowanOut = [] → ∃ t : State, exec (.ordqQuery v) s = .next t ∧ { t with regs := s.regs } = s ∧
       { t.regs with ordqalloc := s.regs.ordqalloc, ordqnext := s.regs.ordqnext, ordqstat := s.regs.ordqstat } = s.regs ∧
       t.regs.ordqalloc = (e?.map (fun e => e.alloc)).getD 0#32 ∧ t.regs.ordqnext = (e?.map (fun e => e.next)).getD 0#32 ∧
       t.regs.ordqstat.getLsbD 63 = false ∧ t.regs.ordqstat.getLsbD 62 = e?.isSome ∧ t.regs.ordqstat.getLsbD 61 = e?.any (fun e => e.held) ∧
       t.regs.ordqstat.getLsbD 60 = s.regs.ordqstat.getLsbD 60 ∧ t.regs.ordqstat.toNat % 2 ^ 60 = (e?.map (fun e => min 65535 ((e.waiters.length : Int) + e.extra).toNat)).getD 0) ∧
    ((∀ l ∈ s.launches, l.block.asn ≠ v.toNat % 2 ^ 12) → exec (.ordqPurge v) s = .next { s with
      rowans := s.rowans.filter (fun e => e.asn != v.setWidth 12), rowanOut := s.rowanOut.filter (fun e => e.asn != v.setWidth 12) }) ∧
    ((∃ l ∈ s.launches, l.block.asn = v.toNat % 2 ^ 12) → exec (.ordqPurge v) s = .next { s with
      regs := { s.regs with ordqstat := s.regs.ordqstat ||| 1#64 <<< 60 } })

/-- ORDOUT releases and admits the next waiter; stalls and the host's queries: all of the statements just named hold. Where the spec leaves a
point open this is the model's choice (log entry 42). -/
def Obligations.OrderedExit : Prop :=
  Claims.SectionExit ∧ Claims.WaiterAdmission ∧ Claims.OrderedStalls

/-! ### Graphs and replays (15 R325 to R329) -/

/-- 15 R327, R329: a KICK, or a LAUNCH, starts a replay of the graph that its handle names, with every entry of its patch table applied;
an unknown handle ends it with BADGRAPH, a malformed table, or a KICK's table outside memory, with BADPATCH; with 64 replays in flight a KICK
is lost and a LAUNCH is blocked. -/
def Sys2Proof.Claims.ReplayStarts : Prop :=
  (∀ (s : State) (v : Word), Running s → NoPromotion s →
    let a := v.toNat % 2 ^ 48
    let n := min 4096 (littleEndian (cellGet s.mem) a 16 % 2 ^ 16)
    let readable : Prop := (s.region a = .near ∨ s.region a = .far ∨ s.region a = .host) ∧ s.region (a + 15) = s.region a ∧
      s.region (a + 15 + 16 * n) = s.region a
    (64 ≤ s.replays.length → exec (.kick v) s = .next { s with regs := { s.regs with klost := true } }) ∧
    (s.replays.length < 64 → ∃ t : State, exec (.kick v) s = .next t ∧ { t with replays := s.replays, rings := s.rings, uid := s.uid } = s ∧
      Replays s v readable (cellGet s.mem) a t)) ∧
  ∀ (h : Hdr) (f : YFields) (s : State) (w : Wave) (v : Nat), Issuing s w → Acting s h w → w.outs = [] → NoUpdates s → w.xl = [] → BareCore s w.core →
    WalkRoom s w → NoPromotion s →
    let kick : Word := BitVec.ofNat 64 (w.sr f.a.toNat + 2 ^ 32 * w.sr (f.a.toNat + 1))
    let a : Nat := (BitVec.signExtend 64 (kick.setWidth 48)).toNat
    (64 ≤ s.replays.length → exec (.launch h f) s = .next { s with cur := { s.cur with blocked := true } }) ∧
    (s.replays.length < 64 → a = 0 ∨ Reads s w a (16 + 16 * min 4096 (v % 2 ^ 16)) v →
      ∃ (t : State) (w' : Wave), exec (.launch h f) s = .next t ∧ Turns s w w (onwards s h w) (w.runEnd || h.sw) t w' ∧ t.mem = s.mem ∧
        Replays s kick True (numberByte v a) a t)

/-- 15 R325, R326: GCMD OP 1 stores the image that GIMG names under a handle; OP 2 frees a graph, at once or when its last replay has
ended; the refusals set GSTAT.ERR. A node's type, predecessors and body are those of its record. -/
def Sys2Proof.Claims.GraphStore : Prop :=
  ∀ s : State, Running s →
    let base := s.regs.gimg.toNat % 2 ^ 52
    let at' (i k n : Nat) : Nat := littleEndian (cellGet s.mem) (base + 64 + 192 * i + k) n
    let held : Nat := (s.graphs.map Graph.bytes).sum
    let err (e : BitVec 4) : Res := .next { s with regs := { s.regs with gerr := e } }
    (s.regs.gbusy = true → exec .graphUpload s = err 4#4 ∧ ∀ k, exec (.graphFree k) s = err 4#4) ∧
    (s.regs.gbusy = false →
      (s.readImage base = none → exec .graphUpload s = err 1#4) ∧
      (∀ nodes, s.readImage base = some nodes →
        base % 64 = 0 ∧ littleEndian (cellGet s.mem) base 64 = nodes.length + (64 + 192 * nodes.length) * 2 ^ 32 ∧ 1 ≤ nodes.length ∧ nodes.length ≤ 4096 ∧
        (∀ (i : Nat) (nd : Node), nodes[i]? = some nd → nd.state = .waiting ∧ nd.type ≤ 4 ∧ nd.preds.length ≤ 8 ∧
          at' i 0 8 = nd.type + 2 ^ 4 * nd.preds.length ∧ at' i 24 40 = 0 ∧
          (∀ k < 8, at' i (8 + 2 * k) 2 = nd.preds.getD k 0) ∧ (∀ p ∈ nd.preds, p < i) ∧
          nd.body.length = 16 ∧ ∀ k < 16, at' i (64 + 8 * k) 8 = (nd.body.getD k 0).toNat) ∧
        (4096 ≤ s.graphs.length ∨ 16777216 < held + 64 + 192 * nodes.length → exec .graphUpload s = err 2#4) ∧
        (s.graphs.length < 4096 → held + 64 + 192 * nodes.length ≤ 16777216 → ∃ k : BitVec 16, k ≠ 0#16 ∧ (∀ g ∈ s.graphs, g.handle ≠ k) ∧
          (s.nextHandle ≠ 0#16 → (∀ g ∈ s.graphs, g.handle ≠ s.nextHandle) → k = s.nextHandle) ∧
          exec .graphUpload s = .next { s with
            graphs := s.graphs ++ [{ handle := k, nodes := nodes, bytes := 64 + 192 * nodes.length, freeing := false }], nextHandle := k + 1#16
            regs := { s.regs with ghandle := k } })) ∧
      ∀ k : BitVec 16, ((∀ g ∈ s.graphs, g.handle ≠ k) → exec (.graphFree k) s = err 3#4) ∧
        ((∃ g ∈ s.graphs, g.handle = k) → (∀ g ∈ s.graphs, g.freeing = false) →
          ((∀ r ∈ s.replays, r.handle ≠ k) → exec (.graphFree k) s = .next { s with graphs := s.graphs.filter (fun g => g.handle != k) }) ∧
          ((∃ r ∈ s.replays, r.handle = k) → exec (.graphFree k) s = .next { s with
            graphs := s.graphs.map (fun g => if g.handle = k then { g with freeing := true } else g), regs := { s.regs with gbusy := true } })))

/-- KICK and LAUNCH start replays; GCMD stores and frees graphs: all of the statements just named hold. Where the spec leaves a point open this
is the model's choice (log entry 45). -/
def Obligations.ReplaysAndGraphs : Prop :=
  Claims.ReplayStarts ∧ Claims.GraphStore

/-! ### Nodes (15 R328) -/

/-- 15 R328: NODE_START of a node whose predecessors have completed. A kernel node admits a launch with every team unplaced; a launch that
can never be placed fails with NOFIT; a malformed block, or an unusable trace set, fails the node with BADBLOCK. A host signal has its
record queued; a relaunch node queues the block of its kernel node; a copy or wait node runs. A body that is not well formed fails the
node with BADBLOCK. -/
def Sys2Proof.Claims.NodeStarts : Prop :=
  ∀ (s : State) (r : Replay) (i : Nat) (nd : Node), InFlight s r → r.nodes[i]? = some nd → nd.state = .waiting →
    (∀ p ∈ nd.preds, ∃ q, r.nodes[p]? = some q ∧ q.state = .done) →
    let fails : Prop := ∃ t : State, exec (.nodeStart r.id i) s = .next t ∧ NodeEnds s r i (.failed 3) t ∧
      { t with replays := s.replays, rings := s.rings } = s
    let runs : Node := { nd with state := .running }
    (nd.type = 0 →
      (Block.malformed nd.body = true ∨ SetBad s nd.body → fails) ∧
      (Block.malformed nd.body = false → Block.tset nd.body = 0 → FreshLaunch s →
        let l := admitted s nd.body r.id i (List.range (Block.grid nd.body))
        ∃ t : State, exec (.nodeStart r.id i) s = .next t ∧ NodeIs s r i runs t ∧
          t.launches = s.launches ++ [if s.placeable l then l else { l with unplaced := [], failed := 4 }] ∧
          { t with replays := s.replays, launches := s.launches, nextLaunch := s.nextLaunch, uid := s.uid } = s) ∧
      (Block.malformed nd.body = false → ¬ SetBad s nd.body → Block.tset nd.body ≠ 0 →
        (∃ l ∈ s.launches, Block.tset l.block = Block.tset nd.body) → exec (.nodeStart r.id i) s = .next s)) ∧
    (nd.type ≠ 0 → nd.bodyOk r.nodes i = false → fails) ∧
    (nd.bodyOk r.nodes i = true → nd.type = 1 ∨ nd.type = 4 →
      ∃ t : State, exec (.nodeStart r.id i) s = .next t ∧ NodeIs s r i runs t ∧ { t with replays := s.replays } = s) ∧
    (nd.bodyOk r.nodes i = true → nd.type = 3 →
      ∃ t : State, exec (.nodeStart r.id i) s = .next t ∧ NodeIs s r i runs t ∧ { t with replays := s.replays, rings := s.rings } = s ∧
        RingGets s t 0 [BitVec.ofNat 64 (r.handle.toNat * 2 ^ 48 + 2 * 2 ^ 40 + i), 0#64, nd.body.getD 0 0#64, r.kick, 0#64, 0#64, 0#64, 0#64,
          BitVec.ofNat 64 r.id, BitVec.ofNat 64 i]) ∧
    ∀ k, nd.bodyOk r.nodes i = true → nd.type = 2 → r.nodes[(nd.body.getD 0 0#64).toNat]? = some k →
      (Block.malformed k.body = true ∨ Block.tset k.body = 0 → fails) ∧
      (Block.malformed k.body = false → Block.tset k.body ≠ 0 →
        ∃ t : State, exec (.nodeStart r.id i) s = .next t ∧ NodeIs s r i runs t ∧
          t.relaunches = s.relaunches ++ [{ id := s.uid, replay := r.id, node := i, block := k.body, issuer := 0 }] ∧
          { t with replays := s.replays, relaunches := s.relaunches, uid := s.uid } = s)

/-- 15 R328: a copy node moves its next bytes and completes with its last byte; a wait node completes once its word is at least its value;
either fails with ABORTED when its access lacks a permission, and writes a record of kind 5 when it does not translate. A kernel node
completes when its launch is drained: the status is its first failure, TRAPPED, or DONE, and the launch is no longer admitted. -/
def Sys2Proof.Claims.NodeCompletion : Prop :=
  ∀ (s : State) (r : Replay) (i : Nat) (nd : Node), InFlight s r → r.nodes[i]? = some nd → nd.state = .running → nd.toks = [] → NoPromotion s →
    (∀ a ∈ s.hostAtomics, a.split = false) →
    let q (k : Nat) : Nat := (nd.body.getD k 0#64).toNat
    let ends (e : Instr) (st : NodeState) : Prop := ∃ t : State, exec e s = .next t ∧ NodeEnds s r i st t ∧
      { t with replays := s.replays, rings := s.rings } = s
    let faults (e : Instr) (va reason level kind asn : Nat) : Prop := ∃ (t : State) (k : BitVec 16), exec e s = .next t ∧ k ≠ 0#16 ∧
      NodeIs s r i { nd with toks := [{ token := k, outcome := 0, reason := reason, level := level, kind := kind, va := BitVec.ofNat 64 va }] } t ∧
      RingGets s t 1 [BitVec.ofNat 64 (k.toNat * 2 ^ 48 + 5 * 2 ^ 44 + reason * 2 ^ 40 + level * 2 ^ 37 + kind * 2 ^ 34), 0#64, BitVec.ofNat 64 va,
        BitVec.ofNat 64 asn, 0#64, 0#64, 0#64, BitVec.ofNat 64 i]
    (nd.type = 1 →
      let e := Instr.copyNodeDone r.id i
      let asn := BitVec.ofNat 12 (q 3)
      let src := q 0 + nd.moved
      let dst := q 1 + nd.moved
      let n := min (q 2 - nd.moved) (min (256 - src % 256) (4096 - dst % 4096))
      let good (va : Nat) (b : Nat) : Prop := va < 2 ^ 64 ∧ canonical va = true ∧ ∃ x, s.walk asn va = .ok x ∧ x.perms.getLsbD b = true ∧ x.mtype ≠ .io
      (q 2 ≤ nd.moved → ends e .done) ∧
      (nd.moved < q 2 → canonical src = false → ends e (.failed 5)) ∧
      (∀ a b, nd.moved < q 2 → src < 2 ^ 64 → canonical src = true → s.walk asn src = .fault a b → faults e src a b 4 asn.toNat) ∧
      (nd.moved < q 2 → good src 0 → dst < 2 ^ 64 → canonical dst = true → (∃ x, s.walk asn dst = .ok x ∧ x.perms.getLsbD 1 = false) → ends e (.failed 5)) ∧
      (∀ a b, nd.moved < q 2 → good src 0 → dst < 2 ^ 64 → canonical dst = true → s.walk asn dst = .fault a b → faults e dst a b 5 asn.toNat) ∧
      (∀ x y, nd.moved < q 2 → good src 0 → good dst 1 → s.walk asn src = .ok x → s.walk asn dst = .ok y → Untraced s (y.at dst).pa n →
        (∀ p ∈ s.poison, (x.at src).pa + n ≤ p ∨ p + 8 ≤ (x.at src).pa) →
        ∃ t : State, exec e s = .next t ∧ t.teams = s.teams ∧ t.launches = s.launches ∧
          (∀ b, cellGet t.mem b = if (y.at dst).pa ≤ b ∧ b < (y.at dst).pa + n then cellGet s.mem ((x.at src).pa + (b - (y.at dst).pa)) else cellGet s.mem b) ∧
          (nd.moved + n < q 2 → NodeIs s r i { nd with moved := nd.moved + n } t ∧ t.rings = s.rings) ∧
          (q 2 ≤ nd.moved + n → NodeEnds s { r with nodes := r.nodes.set i { nd with moved := nd.moved + n } } i .done t))) ∧
    (nd.type = 4 →
      let e := Instr.waitNodeCheck r.id i
      let asn := BitVec.ofNat 12 (q 2)
      let va := q 0
      (canonical va = false → ends e (.failed 5)) ∧
      (∀ a b, canonical va = true → s.walk asn va = .fault a b → faults e va a b 0 asn.toNat) ∧
      ∀ x, canonical va = true → s.walk asn va = .ok x →
        (x.perms.getLsbD 0 = false → ends e (.failed 5)) ∧
        (x.perms.getLsbD 0 = true → x.mtype ≠ .io → (∀ p ∈ s.poison, (x.at va).pa + 8 ≤ p ∨ p + 8 ≤ (x.at va).pa) →
          let v := littleEndian (cellGet s.mem) (x.at va).pa 8
          (q 1 ≤ v → ends e .done) ∧ (v < q 1 → exec e s = .next s))) ∧
    ∀ l, s.launches.find? (fun l => l.replay == r.id && l.node == i && l.task.isNone) = some l →
      let e := Instr.kernelNodeComplete r.id i
      let drained : Prop := l.unplaced = [] ∧ l.returned = [] ∧ l.burrow = [] ∧ (∀ t ∈ s.teams, t.launch ≠ l.id) ∧ ∀ x ∈ s.images, x.launch ≠ l.id
      let alone : Prop := (∀ x ∈ s.launches, x.id = l.id ∨ x.replay ≠ r.id ∨ x.node ≠ i) ∧ ∀ x ∈ s.relaunches, x.replay ≠ r.id ∨ x.node ≠ i
      (¬ (drained ∧ alone) → exec e s = .next s) ∧
      (drained → alone → l.heldKeys = [] → Block.tset l.block = 0 → (∀ c ∈ s.cores, c.cache = [] ∧ c.draining = []) →
        (∀ x ∈ s.launches, x.id = l.id → x = l) →
        ∃ t : State, exec e s = .next t ∧ t.launches = s.launches.filter (fun x => x.id != l.id) ∧
          { t with replays := s.replays, rings := s.rings, launches := s.launches } = s ∧
          NodeEnds s r i (if l.failed ≠ 0 then .failed l.failed else if l.trapped then .failed 6 else .done) t)

/-- How each kind of graph node starts, completes and fails: all of the statements just named hold. Where the spec leaves a point open this is
the model's choice (log entry 45). -/
def Obligations.GraphNodes : Prop :=
  Claims.NodeStarts ∧ Claims.NodeCompletion

/-! ### Dependence trace (17 R362 to R374) -/

/-- 17 R368: TRMARK with a count of ones in all bits makes a traced team rerun always; with zero it does nothing; otherwise it adds to the
team's recorded set the map index of every granule that its range meets in device memory. -/
def Sys2Proof.Claims.TraceMarks : Prop :=
  ∀ (h : Hdr) (f : YFields) (s : State) (w : Wave) (tm : Team), Issuing s w → Acting s h w → s.team? s.cur.team = some tm → w.xl = [] → WalkRoom s w →
    let va := w.sr f.a.toNat + 2 ^ 32 * w.sr (f.a.toNat + 1)
    let n := w.sr f.d.toNat
    let b := s.block tm.launch
    let marks (tm' : Team) : Prop := ∃ (t : State) (w' : Wave), exec (.trmark h f) s = .next t ∧ Turns s w w (onwards s h w) (w.runEnd || h.sw) t w' ∧
      t.mem = s.mem ∧ t.team? s.cur.team = some tm' ∧ { tm' with waves := [], recorded := [], always := false } = { tm with waves := [], recorded := [], always := false }
    (n = 2 ^ 32 - 1 → ∃ tm' : Team, marks tm' ∧ tm'.always = (tm.always || b.tset != 0) ∧ tm'.recorded = tm.recorded) ∧
    (n = 0 → ∃ tm' : Team, marks tm' ∧ tm'.always = tm.always ∧ ∀ k, k ∈ tm'.recorded ↔ k ∈ tm.recorded) ∧
    (0 < n → n < 2 ^ 32 - 1 → canonical va = false → Traps (.trmark h f) h s (takes s h w) (causeAt 3 1 (BitVec.ofNat 64 va))) ∧
    ∀ x : Nat → Xlat, 0 < n → n < 2 ^ 32 - 1 → (∀ e ∈ (s.core w.core).tlb, 12 ≤ e.log2) →
      (∀ i < n, va + i < 2 ^ 64 ∧ canonical (va + i) = true ∧ s.look [] w.core s.curAsn (va + i) = .hit (x (va + i)) ∧
        (s.core w.core).tlb.find? (fun e => e.covers s.curAsn (va + i)) ≠ none ∧
        ((x (va + i)).mtype = .cached ∨ (x (va + i)).mtype = .homeonly → s.isDev (x (va + i)).pa = true)) →
      ∃ tm' : Team, marks tm' ∧ tm'.always = tm.always ∧
        (b.tset = 0 ∨ tm.formed = true → tm'.recorded = tm.recorded) ∧
        (b.tset ≠ 0 → tm.formed = false → ∀ k, k ∈ tm'.recorded ↔ k ∈ tm.recorded ∨
          ∃ i < n, ((x (va + i)).mtype = .cached ∨ (x (va + i)).mtype = .homeonly) ∧
            mapIndex (x (va + i)).pa ((regionsAt s.mem (s.setDesc b.tset)).take b.ntreg) 0 = some k)

/-- 17 R372: RELAUNCH reads a block as TASKPUSH does and queues a relaunch of it for the issuing launch; BADBLOCK, then UNTRACED, then
SELF traps with cause group TRACE; with 64 replays in flight it is blocked. -/
def Sys2Proof.Claims.Relaunches : Prop :=
  ∀ (h : Hdr) (f : YFields) (s : State) (w : Wave) (tm : Team) (mine : Launch) (v : Nat), Issuing s w → Acting s h w → s.team? s.cur.team = some tm →
    s.launch? tm.launch = some mine → w.outs = [] → NoUpdates s → w.xl = [] → BareCore s w.core → WalkRoom s w →
    let va := w.sr f.a.toNat + 2 ^ 32 * w.sr (f.a.toNat + 1)
    let b : Block := (List.range 16).map (fun k => BitVec.ofNat 64 (v / 2 ^ (64 * k)))
    (64 ≤ s.replays.length → exec (.relaunch h f) s = .next { s with cur := { s.cur with blocked := true } }) ∧
    (s.replays.length < 64 → (va % 64 ≠ 0 → Traps (.relaunch h f) h s (takes s h w) (causeAt 4 6 (BitVec.ofNat 64 va))) ∧
      (va % 64 = 0 → Reads s w va 128 v →
        (b.malformed = true → Traps (.relaunch h f) h s (takes s h w) (cause 11 3 0 0)) ∧
        (b.malformed = false → b.tset = 0 → Traps (.relaunch h f) h s (takes s h w) (cause 11 1 0 0)) ∧
        (b.malformed = false → b.tset ≠ 0 → b.tset = mine.block.tset → Traps (.relaunch h f) h s (takes s h w) (cause 11 2 0 0)) ∧
        (b.malformed = false → b.tset ≠ 0 → b.tset ≠ mine.block.tset →
          ∃ (t : State) (w' : Wave), exec (.relaunch h f) s = .next t ∧ Turns s w w (onwards s h w) (w.runEnd || h.sw) t w' ∧ t.mem = s.mem ∧
            t.relaunches = s.relaunches ++ [{ id := s.uid, replay := mine.replay, node := mine.node, block := b, issuer := tm.launch }])))

/-- 17 R362, R372 to R374: RELAUNCH_START waits for the set's previous launch; when the set cannot be used the relaunch node, or the node of
the launch that asked, fails with BADBLOCK; otherwise it admits a launch of the teams to rerun, inverts ACT, clears LASTOK, writes NTEAM and
HASH and the rerun bitmap, and clears the snapshot, also where the launch then ends with NOFIT. HASH is the SHA3-256 of the block and the
descriptor.
A team reruns when the run is full, its record is not valid or says so, or a run of its record meets a set bit of the snapshot. -/
def Sys2Proof.Claims.RelaunchSnapshots : Prop :=
  ∀ (s : State) (q : Relaunch), s.relaunches.find? (fun x => x.id == q.id) = some q →
    let n := q.block.tset
    let d := s.setDesc n
    let hd := s.traceHdr n
    let area := descArea s.mem d
    let map := descMap s.mem d
    let cap := descCap s.mem d
    let g := granules (regionsAt s.mem d)
    let size := (g + 511) / 512 * 64
    let old (k : Nat) : Bool := (cellGet s.mem (map + (if hd.act then size else 0) + k / 8)).getLsbD (k % 8)
    let full : Prop := hd.valid = false ∨ hd.lastok = false ∨ hd.nteam ≠ q.block.grid ∨ hd.hash ≠ sha3Nat (hashInput s q.block d)
    let reruns (r : Nat) : Prop := full ∨ match readTeamRecord g (littleEndian (cellGet s.mem) (area + 64 + (cap + 511) / 512 * 64 + 512 * r) 512) with
      | none => True
      | some (always, runs) => always = true ∨ ∃ x ∈ runs, ∃ j < x.2, old (x.1 + j) = true
    (n ≠ 0 → (∃ l ∈ s.launches, l.block.tset = n) → exec (.relaunchStart q.id) s = .next s) ∧
    (n ≠ 0 → (∀ l ∈ s.launches, l.block.tset ≠ n) → SetBad s q.block →
      (q.issuer ≠ 0 → exec (.relaunchStart q.id) s = .next { s with
        relaunches := s.relaunches.filter (fun x => x.id != q.id)
        launches := match s.launches.find? (fun l => l.replay == q.replay && l.node == q.node && l.task.isNone) with
          | some m => s.launches.map (fun l => if l.id = m.id ∧ ¬ (l.trapped = true ∨ l.failed ≠ 0) then { l with failed := 3 } else l)
          | none => s.launches }) ∧
      ∀ (p : Replay) (nd : Node), q.issuer = 0 → q.replay = p.id → InFlight s p → p.nodes[q.node]? = some nd → nd.state = .running →
        ∃ t : State, exec (.relaunchStart q.id) s = .next t ∧ NodeEnds s p q.node (.failed 3) t ∧
          { t with replays := s.replays, rings := s.rings } = { s with relaunches := s.relaunches.filter (fun x => x.id != q.id) }) ∧
    (n ≠ 0 → (∀ l ∈ s.launches, l.block.tset ≠ n) → ¬ SetBad s q.block → FreshLaunch s →
      (∀ i < 15, i + 1 ≠ n → (cellGet s.mem (s.setDesc (i + 1))).getLsbD 0 = false ∧ ∀ lo len, (lo, len) ∈ [(area, areaBytes cap), (map, 2 * size)] →
        s.setDesc (i + 1) < lo ∨ lo + len ≤ s.setDesc (i + 1)) →
      (∀ lo len, (lo, len) ∈ [(area, areaBytes cap), (map, 2 * size)] → d + 256 ≤ lo ∨ lo + len ≤ d) →
      ∃ rerun : List Nat, rerun.Pairwise (· < ·) ∧ (∀ r, r ∈ rerun ↔ r < q.block.grid ∧ reruns r) ∧
        let l := { admitted s q.block q.replay q.node rerun with relaunch := true }
        ∃ t : State, exec (.relaunchStart q.id) s = .next t ∧ t.relaunches = s.relaunches.filter (fun x => x.id != q.id) ∧ t.teams = s.teams ∧
          t.launches = s.launches ++ [if rerun = [] ∨ s.placeable l = true then l else { l with unplaced := [], failed := 4 }] ∧
            t.traceHdr n = { hd with act := !hd.act, lastok := false, nteam := q.block.grid, hash := sha3Nat (hashInput s q.block d) } ∧
            (∀ r < (cap + 511) / 512 * 512, (cellGet t.mem (area + 64 + r / 8)).getLsbD (r % 8) = true ↔ r ∈ rerun) ∧
            (∀ k < 8 * size, (cellGet t.mem (map + (if hd.act then size else 0) + k / 8)).getLsbD (k % 8) = false) ∧
            (∀ a, (a < area ∨ area + 64 + (cap + 511) / 512 * 64 ≤ a) → (a < map + (if hd.act then size else 0) ∨ map + (if hd.act then size else 0) + size ≤ a) →
              cellGet t.mem a = cellGet s.mem a))

/-- 17 R362, R374: a kernel node that names a usable set admits its launch, clears both map buffers, sets ACT to 0, clears LASTOK and writes
NTEAM and HASH; no other byte of memory changes. A traced launch that ends with status DONE sets VALID and LASTOK. -/
def Sys2Proof.Claims.TracedKernels : Prop :=
  ∀ s : State,
    let quiet (n : Nat) : Prop := ∀ i < 15, i + 1 ≠ n → (cellGet s.mem (s.setDesc (i + 1))).getLsbD 0 = false ∧
      ∀ p ∈ (traceRanges s (s.setDesc n)).drop 8, s.setDesc (i + 1) < p.1 ∨ p.1 + p.2 ≤ s.setDesc (i + 1)
    let area (n : Nat) : Nat := littleEndian (cellGet s.mem) (s.setDesc n + 8) 8
    let map (n : Nat) : Nat := littleEndian (cellGet s.mem) (s.setDesc n + 16) 8
    (∀ (r : Replay) (i : Nat) (nd : Node), InFlight s r → r.nodes[i]? = some nd → nd.state = .waiting → nd.type = 0 →
      (∀ p ∈ nd.preds, ∃ q, r.nodes[p]? = some q ∧ q.state = .done) → Block.malformed nd.body = false → Block.tset nd.body ≠ 0 →
      ¬ SetBad s nd.body → (∀ l ∈ s.launches, Block.tset l.block ≠ Block.tset nd.body) → FreshLaunch s → quiet (Block.tset nd.body) →
      (∀ p ∈ (traceRanges s (s.setDesc (Block.tset nd.body))).drop 8,
        s.setDesc (Block.tset nd.body) + 256 ≤ p.1 ∨ p.1 + p.2 ≤ s.setDesc (Block.tset nd.body)) →
      let n := Block.tset nd.body
      let d := s.setDesc n
      let size := (granuleSum s d + 511) / 512 * 64
      let l := admitted s nd.body r.id i (List.range (Block.grid nd.body))
      ∃ t : State, exec (.nodeStart r.id i) s = .next t ∧ NodeIs s r i { nd with state := .running } t ∧
        t.launches = s.launches ++ [if s.placeable l then l else { l with unplaced := [], failed := 4 }] ∧
        t.traceHdr n = { s.traceHdr n with act := false, lastok := false, nteam := Block.grid nd.body, hash := sha3Nat (hashInput s nd.body d) } ∧
        (∀ k < 2 * size, cellGet t.mem (map n + k) = 0#8) ∧
        ∀ a, (a < area n ∨ area n + 64 ≤ a) → (a < map n ∨ map n + 2 * size ≤ a) → cellGet t.mem a = cellGet s.mem a) ∧
    ∀ (r : Replay) (i : Nat) (nd : Node) (l : Launch), InFlight s r → r.nodes[i]? = some nd → nd.state = .running →
      s.launches.find? (fun l => l.replay == r.id && l.node == i && l.task.isNone) = some l → Block.tset l.block ≠ 0 →
      l.unplaced = [] → l.returned = [] → l.burrow = [] → l.heldKeys = [] → l.failed = 0 → l.trapped = false → (∀ t ∈ s.teams, t.launch ≠ l.id) →
      (∀ x ∈ s.images, x.launch ≠ l.id) → (∀ x ∈ s.launches, x.id = l.id ∨ x.replay ≠ r.id ∨ x.node ≠ i) → (∀ x ∈ s.launches, x.id = l.id → x = l) →
      (∀ x ∈ s.relaunches, x.replay ≠ r.id ∨ x.node ≠ i) → (∀ c ∈ s.cores, c.cache = [] ∧ c.draining = []) → DescFormed s (s.setDesc (Block.tset l.block)) →
      quiet (Block.tset l.block) →
      (∀ p ∈ (traceRanges s (s.setDesc (Block.tset l.block))).drop 8, s.setDesc (Block.tset l.block) + 256 ≤ p.1 ∨ p.1 + p.2 ≤ s.setDesc (Block.tset l.block)) →
      (∀ x ∈ s.launches, Block.tset x.block = Block.tset l.block → x = l) →
      let n := Block.tset l.block
      ∃ t : State, exec (.kernelNodeComplete r.id i) s = .next t ∧ NodeEnds s r i .done t ∧
        t.launches = s.launches.filter (fun x => x.id != l.id) ∧ t.traceHdr n = { s.traceHdr n with valid := true, lastok := true } ∧
        ∀ a, (a < area n ∨ area n + 64 ≤ a) → cellGet t.mem a = cellGet s.mem a

/-- TRMARK, RELAUNCH and the teams that a relaunch reruns: all of the statements just named hold. -/
def Obligations.TracedRelaunches : Prop :=
  Claims.TraceMarks ∧ Claims.Relaunches ∧ Claims.RelaunchSnapshots ∧ Claims.TracedKernels

/-! ### Placing, ageing and pools (15 R330 to R332) -/

/-- 15 R330, R331, R333, 14 R295: the place that is chosen for a team is one where it fits, at the lowest core or pair with one, each wave
on the lowest partition that takes it; no place is chosen only where the team fits nowhere. TEAM_PLACE places the next team of the launch that
ranks first among those with a team that fits, or all teams of a concurrent one; without one it changes nothing. -/
def Sys2Proof.Claims.TeamPlacing : Prop :=
  (∀ (s : State) (b : Block) (id n : Nat),
    (∀ p, s.findPlace b id n = some p → Fits s b id n p ∧ (∀ p', Fits s b id n p' → p.core ≤ p'.core) ∧
      ∀ (k c q z q' : Nat), p.seats[k]? = some (c, q, z) → q' < q → ¬ takesOne b id (wavesOn s b id p k c q')) ∧
    (s.findPlace b id n = none → ∀ p, ¬ Fits s b id n p)) ∧
  (∀ (s : State) (l : Launch), l.returned = [] → l.burrow = [] → (∀ i ∈ s.images, i.launch ≠ l.id) → l.block.prog ≠ 0 →
    (s.placesNow l = true ↔ l.unplaced ≠ [] ∧ ∃ p, Fits s l.block l.id l.block.waves p)) ∧
  ∀ s : State, ((∀ l ∈ s.launches, s.placesNow l = false) → exec .teamPlace s = .next s) ∧
    ∀ l r rest, l ∈ s.launches → (s.launches.map Launch.id).Nodup → (∀ x ∈ s.launches, x ≠ l → s.placesNow x = true → ranksAbove l x) →
      (∀ i ∈ s.images, i.launch ≠ l.id) → l.returned = [] → l.unplaced = r :: rest → (l.unplaced).Nodup →
      (∀ p, l.block.prog ≠ 0 → s.findPlace l.block l.id l.block.waves = some p →
        ∃ (t : State) (tm : Team), exec .teamPlace s = .next t ∧ t.teams = s.teams ++ [tm] ∧ JustPlaced s l r p tm ∧ p.seats.length = l.block.waves ∧
          t.launches = s.launches.map (fun x => if x.id = l.id then { l with unplaced := rest, age := 0, lastPlaced := s.uid } else x) ∧
          t.mem = s.mem ∧ t.images = s.images) ∧
      (l.block.prog = 0 → l.burrow = [] → s.placesNow l = true →
        ∃ (t : State) (ts : List Team) (x : Launch), exec .teamPlace s = .next t ∧ t.teams = s.teams ++ ts ∧ ts.map Team.rank = l.unplaced ∧
          (∀ u ∈ ts, u.launch = l.id) ∧ t.launch? l.id = some x ∧ x.unplaced = [] ∧ x.age = 0 ∧ t.mem = s.mem ∧ t.images = s.images)

/-- 15 R330, R332: LAUNCH_AGEING raises the age of a launch that has a team to place, restore or form; POOL_REASSIGN gives the lowest empty
pool the class of the first launch that waits for room and for whose class no pool is on its way; when that is done the pool is at the class, its STEP is 0 and its cores' balances are at the class's budgets. -/
def Sys2Proof.Claims.Pools : Prop :=
  (∀ (s : State) (l : Launch), s.launch? l.id = some l →
    let waits : Prop := l.unplaced ≠ [] ∨ l.returned ≠ [] ∨ (∃ i ∈ s.images, i.launch = l.id) ∨ ∃ r ∈ l.burrow, s.formable l r.pc = true
    (¬ waits → exec (.launchAgeing l.id) s = .next s) ∧
    (waits → exec (.launchAgeing l.id) s = .next { s with
      launches := s.launches.map (fun x => if x.id = l.id then { x with age := x.age + 1 } else x) })) ∧
  (∀ s : State, let free (d : Nat) : Prop := d < s.dies.length ∧ (∀ t ∈ s.teams, t.core / 32 ≠ d) ∧ (s.die d).reassign = none
    let coming (l : Launch) : Prop := ∃ d ∈ s.dies, d.reassign = some l.block.opclass
    ((∀ l ∈ s.waitingLaunches, coming l) → exec .poolReassign s = .next s) ∧
    ∀ l pre rest, s.waitingLaunches = pre ++ l :: rest → (∀ x ∈ pre, coming x) → ¬ coming l →
      ((∀ d, free d → (s.die d).opclass = l.block.opclass) → exec .poolReassign s = .next s) ∧
      ∀ d, Lowest (fun d => free d ∧ (s.die d).opclass ≠ l.block.opclass) d →
        exec .poolReassign s = .next { s with dies := s.dies.modify d (fun x => { x with reassign := some l.block.opclass }) }) ∧
  ∀ (s : State) (d : Nat), d < s.dies.length →
    ((s.die d).reassign = none → exec (.poolReassignDone d) s = .next s) ∧
    ∀ c v, (s.die d).reassign = some c → s.regs.metcls[c]? = some v →
      let budget (n : Nat) : Nat := if n = 0 then 0 else max 256 n
      ∃ t : State, exec (.poolReassignDone d) s = .next t ∧ { t with dies := s.dies, cores := s.cores } = s ∧ t.cores.length = s.cores.length ∧
        t.dies = s.dies.modify d (fun x => { x with opclass := c, reassign := none, step := 0 }) ∧
        ∀ (k : Nat) (x y : Core), s.cores[k]? = some x → t.cores[k]? = some y → { y with hsb := x.hsb, fmb := x.fmb, meter := x.meter } = x ∧
          (k / 32 ≠ d → y = x) ∧ (k / 32 = d → y.hsb = budget (v.toNat % 2 ^ 32) ∧ y.fmb = budget (v.toNat / 2 ^ 32) ∧ y.meter = [])

/-! ### Pre-emption (15 R334, 18 R391 to R397) -/

/-- 15 R333, R334, 18 R391, R392: when a launch of no lower priority waits for room on the team's pool, TIME_SLICE_EXPIRY makes the team
sliceable. For the one team that the launch cannot place, the first sliceable team that may be pre-empted is: the lowest priority first, then
the one resident longest, never the team that its weakly parallel launch protects. It drains, is flushed or is saved, in the order of R391; a
concurrent launch does not drain and goes as a whole; where the pool has no room, the next candidate is considered. DRAIN_TIMEOUT makes the choice again without the drain. -/
def Sys2Proof.Claims.PreemptionChoice : Prop :=
  ∀ s : State, (s.teams.map Team.uid).Nodup → (s.teams.map Team.placedAt).Nodup →
    let prio (t : Team) : Nat := ((s.launch? t.launch).map effective).getD 0
    let whole (t : Team) : List Team := if (s.block t.launch).prog = 0 then s.teams.filter (fun x => x.launch == t.launch) else [t]
    let drains (t : Team) : Prop := (s.block t.launch).prog ≠ 0 ∧ (s.block t.launch).expect ≠ 0 ∧ 9 * (s.block t.launch).expect ≤ 10 * t.retired ∧
      (s.block t.launch).expect - t.retired ≤ s.regs.precfg.toNat / 2 ^ 32
    let flushes (t : Team) : Prop := (s.block t.launch).idem = true ∧ ∀ x ∈ whole t, x.escape = false ∧
      ∀ w ∈ x.waves, ∀ ln ∈ w.lanes, ln.held0 = none ∧ ln.held1 = none ∧ ln.await = none
    let saves (t : Team) : Prop := s.regs.ctxsize ≠ 0#16 ∧ s.poolRoom (whole t) = true
    let ends (t : Team) (p : Phase) : Team := { t with phase := p, waves := t.waves.map (fun w => { w with runEnd := true, stop := p != .draining && p != .running }) }
    (∀ (tm : Team), s.team? tm.uid = some tm →
      let e := Instr.timeSliceExpiry tm.uid
      let sliced (t : Team) : Team := if t.uid = tm.uid then { t with sliceable := true } else t
      (s.waitingLaunches = [] ∨ s.regs.tslice = 0#16 ∨ (∀ x ∈ s.waitingLaunches, effective x < prio tm ∨ (s.die (tm.core / 32)).opclass ≠ x.block.opclass) →
        exec e s = .next s) ∧
      ∀ x r, s.waitingLaunches = [x] → prio tm ≤ effective x → (s.die (tm.core / 32)).opclass = x.block.opclass → s.regs.tslice ≠ 0#16 →
        x.unplaced = [r] → x.returned = [] → x.burrow = [] → (∀ i ∈ s.images, i.launch ≠ x.id) → (∀ t ∈ s.teams, t.leavesFor ≠ x.id) →
        let guarded (t : Team) : Prop := ∃ l, s.launch? t.launch = some l ∧ l.block.prog = 2 ∧ t.formed = false ∧ (∀ k ∈ l.unplaced, t.rank ≤ k) ∧
          (∀ y ∈ s.teams, y.launch = t.launch → y.formed = false → t.rank ≤ y.rank) ∧ ∀ i ∈ s.images, i.launch = t.launch → t.rank ≤ i.rank
        let may (t : Team) : Prop := (t.sliceable = true ∨ t.uid = tm.uid) ∧ t.phase = .running ∧ ¬ guarded t ∧ prio t ≤ effective x ∧
          (s.die (t.core / 32)).opclass = x.block.opclass
        let first (t : Team) : Prop := may t ∧ ∀ y ∈ s.teams, may y → (prio y < prio t ∨ (prio y = prio t ∧ y.placedAt < t.placedAt)) →
          ¬ drains y ∧ ¬ flushes y ∧ ¬ saves y
        let leaves (t : Team) (p : Phase) : Prop := exec e s = .next { s with teams := s.teams.map (fun y =>
          if y.uid = t.uid ∨ ((s.block t.launch).prog = 0 ∧ y.launch = t.launch) then { ends (sliced y) p with leavesFor := x.id } else sliced y) }
        (∀ t ∈ s.teams, first t → (drains t → leaves t .draining) ∧ (¬ drains t → flushes t → leaves t .flushing) ∧
          (¬ drains t → ¬ flushes t → saves t → leaves t (.saving s.uid))) ∧
        ((∀ t ∈ s.teams, may t → ¬ drains t ∧ ¬ flushes t ∧ ¬ saves t) → exec e s = .next { s with teams := s.teams.map sliced })) ∧
    ∀ (tm : Team), s.team? tm.uid = some tm →
      let e := Instr.drainTimeout tm.uid
      let becomes (p : Phase) : Prop := exec e s = .next { s with teams := s.teams.map (fun t => if t.uid = tm.uid then
        { ends tm p with leavesFor := if p = .running then 0 else tm.leavesFor } else t) }
      (tm.phase ≠ .draining → exec e s = .next s) ∧
      (tm.phase = .draining → (s.block tm.launch).prog ≠ 0 →
        (flushes tm → becomes .flushing) ∧ (¬ flushes tm → saves tm → becomes (.saving s.uid)) ∧ (¬ flushes tm → ¬ saves tm → becomes .running))

/-- Ageing, pool reassignment and the choice of how a team gives way: all of the statements just named hold. -/
def Obligations.PoolsAndPreemption : Prop :=
  Claims.Pools ∧ Claims.PreemptionChoice

/-- 18 R393 to R397: TEAM_FLUSH discards a team that is still and returns its rank to its launch, or the records of which the Warren formed
it; TEAM_SAVE writes its image at the lowest free place of the pool and releases its core; TEAM_RESTORE rebuilds it from its image where it
fits: its lanes wait again at CVWAIT and BAR.SYNC as they did, and issue any other waiting instruction again. Where the spec leaves a point
open this is the model's choice (log entries 30, 31, 32). -/
def Obligations.SaveAndRestore : Prop :=
  (∀ (s : State) (tm : Team) (l : Launch), s.team? tm.uid = some tm → s.launch? tm.launch = some l → (s.teams.map Team.uid).Nodup → s.rowans = [] →
    (tm.phase ≠ .flushing ∨ ¬ (∀ w ∈ tm.waves, w.outs = [] ∧ w.prog = none) → exec (.teamFlush tm.uid) s = .next s) ∧
    (tm.phase = .flushing → Still s tm → (∀ c ∈ s.cores, c.rings = [] ∧ ∀ e, some e ∈ c.holly → e.team ≠ tm.uid) → s.poisonRegs = [] →
      (tm.formed = true → exec (.teamFlush tm.uid) s = .next { s with teams := s.teams.filter (fun x => x.uid != tm.uid), launches := s.launches.map (fun x =>
        if x.id = tm.launch then { x with returned := x.returned ++ [{ rank := tm.rank, ids := (tm.x, tm.y, tm.z), recs := tm.recs }] } else x) }) ∧
      (tm.formed = false → l.unplaced.Pairwise (· < ·) → tm.rank ∉ l.unplaced → ∃ (t : State) (u : List Nat), exec (.teamFlush tm.uid) s = .next t ∧ u.Pairwise (· < ·) ∧ (∀ r, r ∈ u ↔ r = tm.rank ∨ r ∈ l.unplaced) ∧
        t = { s with teams := s.teams.filter (fun x => x.uid != tm.uid), launches := s.launches.map (fun x =>
          if x.id = tm.launch then { x with unplaced := if x = l then u else insertBy (fun a b => decide (a < b)) tm.rank x.unplaced } else x) }))) ∧
  (∀ (s : State) (tm : Team) (n a : Nat) (l : Launch), s.team? tm.uid = some tm → s.launch? tm.launch = some l → (s.teams.map Team.uid).Nodup →
    tm.phase = .saving n → Still s tm → s.rowans = [] → (∀ c ∈ s.cores, c.cache = [] ∧ c.draining = [] ∧ c.notices = []) →
    let b := l.block
    let bytes := imageSize b tm.waves.length
    s.poolPlace ((bytes + 65535) / 65536 * 65536) = some a → Untraced s a bytes → tm.waves.length < 256 → tm.vregs = b.vregs → tm.scratchBytes = b.scratch →
    tm.obufBytes = b.obuf → tm.pair = b.pair → tm.tiles = b.tiles →
    (∀ (k : Nat) (w : Wave), tm.waves[k]? = some w → w.id = k ∧ w.lanes.length = b.width ∧ ∀ ln ∈ w.lanes, ln.badRec = none) →
    (∀ x ∈ tm.barriers, x.count < 256) → tm.retired < 2 ^ 64 → tm.recorded.length < 2 ^ 28 → (∀ k ∈ tm.recorded, k < 2 ^ 28) →
    (∀ w ∈ tm.waves, (∀ c ∈ w.calls, c.reply = none) ∧ (∀ ln ∈ w.lanes, ∀ c, ln.stall = some (ln.pc, c) → c = 4 ∨ c = 5) ∧
      ∀ q ∈ w.streams, q.bound = true → 1 ≤ q.nd ∧ q.nd ≤ 4 ∧ q.strides.length = q.nd ∧ q.extents.length = q.nd ∧ (∀ x ∈ q.extents, x < 2 ^ 16) ∧
        q.esize < 4 ∧ q.pred < 8 ∧ q.next < 2 ^ 64) →
    ∃ (t : State) (i : Image), exec (.teamSave tm.uid) s = .next t ∧ t.teams = s.teams.filter (fun x => x.uid != tm.uid) ∧ t.images = s.images ++ [i] ∧
      i.base = a ∧ i.bytes = bytes ∧ i.launch = tm.launch ∧ i.rank = tm.rank ∧ i.team = tm.uid ∧
      littleEndian (cellGet t.mem) a 4 = 0x53570001 ∧ ImageHolds (cellGet t.mem) a b tm ∧ ImageTells (cellGet t.mem) a b tm ∧ ∀ x, x < a ∨ a + bytes ≤ x → cellGet t.mem x = cellGet s.mem x) ∧
  ∀ (s : State) (i : Image) (l : Launch) (p : Place) (rest : List Image), s.images.find? (fun x => x.id == i.id) = some i → s.launch? i.launch = some l →
    l.block.prog ≠ 0 → s.imagesOf l = i :: rest → (∀ x ∈ s.launches, ranksAbove x l → s.placesNow x = false) → i.parks = [] → i.calls = [] →
    let n := (cellGet s.mem (i.base + 0x00D)).toNat
    let at' (k : Nat) : Nat := i.base + 0xA00 + k * waveBlockBytes l.block.width l.block.vregs
    let rec' (k j : Nat) : Nat := at' k + 0x600 + 64 * j
    (∀ k < n, littleEndian (cellGet s.mem) (at' k) 4 = k ∧ ∀ j < l.block.width, ¬ ((cellGet s.mem (at' k + 8)).getLsbD 0 = true ∧
      (cellGet s.mem (rec' k j + 0x0A)).getLsbD 0 = true ∧ (cellGet s.mem (rec' k j + 0x0A)).getLsbD 7 = true ∧ (cellGet s.mem (rec' k j + 0x0B)).getLsbD 0 = true)) →
    s.findPlace l.block i.launch n = some p →
    ∃ (t : State) (tm : Team), exec (.teamRestore i.id) s = .next t ∧ t.teams = s.teams ++ [tm] ∧ t.images = s.images.filter (fun x => x.id != i.id) ∧
      t.mem = s.mem ∧ tm.uid = i.team ∧ tm.launch = i.launch ∧ tm.rank = i.rank ∧ tm.core = p.core ∧ tm.phase = .running ∧ tm.waves.length = n ∧
      tm.vregs = l.block.vregs ∧ tm.width = l.block.width ∧ ImageHolds (cellGet s.mem) i.base l.block tm ∧
      ∀ (k : Nat) (w : Wave) (c q z : Nat), tm.waves[k]? = some w → p.seats[k]? = some (c, q, z) → w.core = c ∧ w.part = q ∧ w.slot = z ∧ w.outs = [] ∧
        (∀ j < 8, StreamHolds (cellGet s.mem) (at' k + 0x100 + 64 * j) (w.streams.getD j Stream.reset)) ∧
        (∀ j < l.block.width, let code := littleEndian (cellGet s.mem) (rec' k j + 0x0A) 1 / 16 % 8
          match i.seen.find? (fun x => x.wave == k && x.lane == j) with
          | none => (w.lane j).wait = .none
          | some x => (w.lane j).relScopes = x.scopes ∧ (w.lane j).seen = x.tags ∧ ((∃ c, x.wait = .cvwait c) → code = 2 → (w.lane j).wait = x.wait) ∧
              ((∃ c, x.wait = .barsync c) → code = 3 → (w.lane j).wait = x.wait) ∧ ((∃ c, x.wait = .entered c) → code = 0 → (w.lane j).wait = x.wait) ∧
              (x.wait = .ordin ∨ x.wait = .blend ∨ x.wait = .none → (w.lane j).wait = .none)) ∧ w.ended = w.lanes.all (fun ln => !ln.live)

/-- 14 R316, 15 R339: WAVE_FORM forms a wave from the first records of the window, sorted by key, as a single-wave team of the launch; with
fewer records than the width only when every depositor has ended, is parked or is blocked, or, as PARTIAL_WAVE_TIMEOUT, after its time. -/
def Sys2Proof.Claims.WaveForming : Prop :=
  ∀ (s : State) (l : Launch) (pc : Word), s.launch? l.id = some l → (s.launches.map Launch.id).Nodup →
    let win := l.window pc
    let n := min l.block.width win.length
    let recs := win.take n
    let regs := if l.task.isSome then 16 else l.block.spawnRegs
    let first : Prop := ∀ x ∈ s.launches, ranksAbove x l → s.placesNow x = false
    let forms (e : Instr) : Prop := ∀ (p : Place) (x : Nat → Xlat), s.findPlace l.block l.id 1 = some p →
      (∀ r ∈ recs, ∀ j < r.bytes / 64, s.look [] p.core (BitVec.ofNat 12 l.block.asn) (r.addr + 64 * j) = .hit (x (r.addr + 64 * j)) ∧
        (s.core p.core).tlb.find? (fun e => e.covers (BitVec.ofNat 12 l.block.asn) (r.addr + 64 * j)) ≠ none ∧
        (x (r.addr + 64 * j)).pa = (x r.addr).pa + 64 * j ∧ recordBytes regs ≤ r.bytes ∧ ∀ y ∈ s.poison, (x r.addr).pa + 64 * j + 64 ≤ y ∨ y + 8 ≤ (x r.addr).pa + 64 * j) →
      ∃ (t : State) (tm : Team) (w : Wave), exec e s = .next t ∧ t.teams = s.teams ++ [tm] ∧ tm.waves = [w] ∧ tm.formed = true ∧ tm.launch = l.id ∧
        tm.uid = s.uid ∧ tm.core = p.core ∧ (∀ r0, recs[0]? = some r0 → tm.rank = littleEndian (cellGet s.mem) ((x r0.addr).pa + 16) 4) ∧
        (if l.task.isSome then (tm.x, tm.y, tm.z) = (l.formed % 2 ^ 32, 0, 0)
          else (tm.x, tm.y, tm.z) = (tm.rank % l.block.gx, tm.rank / l.block.gx % l.block.gy, tm.rank / l.block.gx / l.block.gy)) ∧ w.lanes.length = max l.block.width n ∧ FormedLanes (cellGet s.mem) regs (recs.map (fun r => (x r.addr).pa)) w ∧
        (∀ k, n ≤ k → (w.lane k).live = false) ∧ (∀ r, w.sr r = (block 0 2 l.block.arg r).getD 0) ∧ t.mem = s.mem ∧
        ∃ l', t.launch? l.id = some l' ∧ { l' with burrow := l.burrow, formed := l.formed, age := l.age, lastPlaced := l.lastPlaced } = l ∧
          l'.formed = l.formed + 1 ∧ l'.age = 0 ∧ l'.burrow.map BurrowRec.addr = (l.burrow.map BurrowRec.addr).filter (fun a => !(recs.map BurrowRec.addr).elem a)
    win.Perm ((l.burrow.filter (fun r => l.task.isSome || r.pc == pc)).take 1024) ∧ win.Pairwise (fun a b => a.key.toNat ≤ b.key.toNat) ∧
    (win = [] → exec (.waveForm l.id pc) s = .next s ∧ exec (.partialWaveTimeout l.id pc) s = .next s) ∧
    (win ≠ [] → first → l.block.width ≤ win.length ∨ depositorsDone s l pc → forms (.waveForm l.id pc)) ∧
    (win ≠ [] → win.length < l.block.width → ¬ depositorsDone s l pc → exec (.waveForm l.id pc) s = .next s) ∧
    (win ≠ [] → first → forms (.partialWaveTimeout l.id pc))

/-- Where a team is placed, and how a wave is formed from Burrow records: all of the statements just named hold. Where the spec leaves a point
open this is the model's choice (log entry 33). -/
def Obligations.PlacingAndForming : Prop :=
  Claims.TeamPlacing ∧ Claims.WaveForming

/-! ### Walks and invalidation (04 R77 to R87) -/

/-- 04 R77 to R80, R88: a walk reads the entry of its address space and one entry at each level from 3 down to a leaf, and comes to exactly one
outcome: a translation, or a reason and a level. -/
def Obligations.PageWalks : Prop :=
  ∀ (s : State) (asn : BitVec 12) (va : Nat) (r : Walk), WalkComesTo s asn va r ↔ s.walk asn va = r

/-- 04 R82, R83, R84, R87: WALK_DISPATCH gives the oldest queued miss a free walker, which starts at ASTBASE; TLB_WALK_COMPLETE reads the
entries that are left, or only the next ones; at its end it installs what the walk came to in the TLBs of its core and die, nothing for a
fault, and every waiter learns the outcome. -/
def Sys2Proof.Claims.Walks : Prop :=
  (∀ (s : State) (d : Nat), d < s.dies.length →
    ((s.die d).missq = [] ∨ 512 ≤ (s.die d).walks.length → exec (.walkDispatch d) s = .next s) ∧
    ∀ m rest, (s.die d).missq = m :: rest → (s.die d).walks.length < 512 →
      exec (.walkDispatch d) s = .next { s with dies := s.dies.modify d (fun x => { x with
        missq := rest, walks := x.walks ++ [{ m with pos := some (4, s.regs.astbase.toNat / 2 ^ 15 % 2 ^ 37 * 2 ^ 15) }] }) }) ∧
  (∀ (s : State) (d k : Nat) (m : Miss) (level table : Nat), d < s.dies.length → (s.die d).walks[k]? = some m → m.pos = some (level, table) →
    let moves (n p : Nat) : Prop := exec (.tlbWalkComplete d (k, some 1)) s = .next { s with dies := s.dies.modify d (fun x => { x with
      walks := x.walks.modify k (fun m => { m with pos := some (n, p) }) }) }
    let va := m.page * 4096
    (level = 4 → let a := table + 8 * m.asn.toNat
      let e := littleEndian (cellGet s.mem) a 8
      let root := e / 2 ^ 20 % 2 ^ 32 * 2 ^ 20
      ¬ Spoiled s a → e.testBit 63 = true → e / 2 ^ 52 % 2 ^ 11 = 0 → e % 2 ^ 20 = 0 → InDevice s root → moves 3 root) ∧
    (1 ≤ level → level ≤ 3 → let e := entryAt s va level table
      ¬ Spoiled s (entryPlace va level table) → e.testBit 0 = true → ¬ BadEntry s level e → e.testBit 4 = false →
      moves (level - 1) (e / 2 ^ 12 % 2 ^ 40 * 2 ^ 12))) ∧
  ∀ (s : State) (d k : Nat) (m : Miss) (o : Walk), d < s.dies.length → (s.die d).walks[k]? = some m → m.core < s.cores.length → m.core / 32 = d →
    m.waiters.Nodup → (∀ r ∈ m.waiters, ∃ w : Wave, s.wave? r = some w ∧ w.core / 32 = d ∧ w.core < s.cores.length) →
    ((∃ base : Word, base.toNat < 2 ^ 52 ∧ base.toNat % 2 ^ 15 = 0 ∧ m.pos = some (4, base.toNat) ∧
        WalkComesTo { s with regs := { s.regs with astbase := base } } m.asn (m.page * 4096) o) ∨
      ∃ level table, level ≤ 3 ∧ m.pos = some (level, table) ∧ WalkEnds s m.asn (m.page * 4096) level table o) →
    let blank : XEntry := { asn := m.asn, page := m.page, fault := none, pa := 0, mtype := .cached, perms := 0#3, log2 := 12 }
    let x : XEntry := match o with
      | .ok e => { asn := m.asn, page := m.page, fault := .none, pa := e.pa, mtype := e.mtype, perms := e.perms, log2 := e.log2 }
      | .fault r l => { blank with fault := some (r, l) }
      | .bad n => { blank with bad := some n }
    ∃ t : State, exec (.tlbWalkComplete d (k, none)) s = .next t ∧ { t with teams := s.teams, cores := s.cores, dies := s.dies } = s ∧
      (t.die d).walks = (s.die d).walks.eraseIdx k ∧ (t.die d).missq = (s.die d).missq ∧
      ((∀ e, o ≠ .ok e) → (t.die d).tlb = (s.die d).tlb ∧ (m.engines = [] → t.cores = s.cores)) ∧
      (∀ e, o = .ok e → e ∈ (t.core m.core).tlb ∧ e ∈ (t.die d).tlb ∧
        (∀ r ∈ m.waiters, ∀ w, s.wave? r = some w → e ∈ (t.core w.core).tlb) ∧ ∀ y ∈ (t.die d).tlb, y = e ∨ y ∈ (s.die d).tlb) ∧
      (m.engines = [] → (∀ r ∉ m.waiters, t.wave? r = s.wave? r) ∧
        ∀ r ∈ m.waiters, ∀ w, s.wave? r = some w →
          (∀ ps, w.park = .walk ps → m.page ∈ ps → t.wave? r = some { w with
            xl := w.xl ++ [x], park := if ps.filter (fun p => p != m.page) = [] then .none else .walk (ps.filter (fun p => p != m.page)) }) ∧
          ((∀ ps, w.park = .walk ps → m.page ∉ ps) → t.wave? r = some w)) ∧
      (∀ c id, m.engines = [.cmd c id] → c < s.cores.length → t.teams = (m.waiters.foldl (fun s r => s.updWave r (fun w => w.learn m.page x)) s).teams ∧
        (t.core c).cmds = (s.core c).cmds.map (fun y => if y.id = id then { y with xl := y.xl.filter (fun z => z.page != m.page) ++ [x] } else y)) ∧
      ∀ r q w, m.engines = [.stream r q] → r ∉ m.waiters → s.wave? r = some w → ∃ f : Stream → Stream, t.wave? r = some { w with streams := w.streams.modify q f } ∧
        ∀ z, let here : Prop := ∃ l < w.lanes.length, (z.addr z.fetched l).toNat % 2 ^ 56 / 2 ^ 12 = m.page
          ((∀ e, o ≠ .ok e) ∧ here → f z = { z with stopped := true }) ∧ (¬ ((∀ e, o ≠ .ok e) ∧ here) → f z = z)

/-- 04 R86, R87: TLBICMD, while not BUSY, removes exactly the translations that meet its range from every TLB, lets the walks of addresses in it
start again, sets BUSY and notes what is under way through a removed translation; while BUSY it is lost. TLB_INVALIDATION_DONE leaves BUSY set
while any of that is still under way, and clears it once none is. -/
def Sys2Proof.Claims.Invalidation : Prop :=
  ∀ s : State, Running s →
    (∀ v : Word, (s.regs.tlbiBusy = true → exec (.tlbicmd v) s = .next { s with regs := { s.regs with tlbiLost := true } }) ∧
      (s.regs.tlbiBusy = false → let va := s.regs.tlbiva
        let start := (4, s.regs.astbase.toNat / 2 ^ 15 % 2 ^ 37 * 2 ^ 15)
        let meets (e : TlbEntry) : Prop := Invalidates v va e.asn e.page e.log2
        ∃ t : State, exec (.tlbicmd v) s = .next t ∧ { t with teams := s.teams, cores := s.cores, dies := s.dies, regs := s.regs } = s ∧
          (∃ ids, t.regs = { s.regs with tlbiBusy := true, tlbiCmd := v, tlbiAt := va, tlbiIds := ids } ∧ ∀ i, i ∈ ids ↔ UsesRemoved s v va i) ∧
          t.cores.length = s.cores.length ∧ t.dies.length = s.dies.length ∧
          (∀ (c : Nat) (x y : Core), s.cores[c]? = some x → t.cores[c]? = some y → { y with tlb := x.tlb } = x ∧ y.tlb.Sublist x.tlb ∧
            ∀ e ∈ x.tlb, e ∈ y.tlb ↔ ¬ meets e) ∧
          (∀ (d : Nat) (x y : Die), s.dies[d]? = some x → t.dies[d]? = some y → { y with tlb := x.tlb, walks := x.walks } = x ∧ y.tlb.Sublist x.tlb ∧
            (∀ e ∈ x.tlb, e ∈ y.tlb ↔ ¬ meets e) ∧ y.walks.length = x.walks.length ∧
            ∀ (k : Nat) (m n : Miss), x.walks[k]? = some m → y.walks[k]? = some n →
              (Invalidates v va m.asn (m.page % 2 ^ 44) 12 → n = { m with pos := some start }) ∧
              (¬ Invalidates v va m.asn (m.page % 2 ^ 44 / 2 ^ 18) 30 → n = m)) ∧
          ∀ r w, s.wave? r = some w → ∃ w', t.wave? r = some w' ∧ { w' with xl := w.xl, park := w.park } = w ∧ w'.xl.Sublist w.xl ∧
            (∀ e ∈ w.xl, e ∈ w'.xl ↔ (e.fault ≠ none ∨ e.bad ≠ none ∨ ¬ Invalidates v va e.asn (e.page * 4096 / 2 ^ e.log2) e.log2)) ∧
            ((∀ a p z ty k c d m, w.park ≠ .waitw a p z ty k c d m) → w'.park = w.park) ∧
            ∀ tm a p z ty k c d m, s.teams.find? (fun x => x.uid == r.team) = some tm → w.park = .waitw a p z ty k c d m →
              (Invalidates v va (BitVec.ofNat 12 (s.block tm.launch).asn) (a % 2 ^ 56 / 2 ^ k) k → w'.park = .none) ∧
              (¬ Invalidates v va (BitVec.ofNat 12 (s.block tm.launch).asn) (a % 2 ^ 56 / 2 ^ k) k → w'.park = w.park))) ∧
    (s.regs.tlbiBusy = false → exec .tlbInvalidationDone s = .next s) ∧
    (s.regs.tlbiBusy = true →
      ((∃ i ∈ s.regs.tlbiIds, UsesRemoved s s.regs.tlbiCmd s.regs.tlbiAt i) → exec .tlbInvalidationDone s = .next s) ∧
      ((∀ i ∈ s.regs.tlbiIds, ¬ UsesRemoved s s.regs.tlbiCmd s.regs.tlbiAt i) →
        exec .tlbInvalidationDone s = .next { s with regs := { s.regs with tlbiBusy := false } }))

/-- Walks dispatched and completed, and TLB invalidation: all of the statements just named hold. Where the spec leaves a point open this is the
model's choice (log entry 16). -/
def Obligations.WalksAndInvalidation : Prop :=
  Claims.Walks ∧ Claims.Invalidation

/-! ### Microcode slots (11 R234, R235) -/

/-- 11 R234, R235: MCCMD OP 1 reads and verifies an image and OP 2 empties a slot; a malformed header, a body above 64 KiB, a bad signature
or a command while BUSY sets its ERR and leaves the slots as they are; MICROCODE_REPLACE replaces the slot once no MCALL of it is under way.
Where the spec leaves a point open this is the model's choice (log entry 12). -/
def Obligations.MicrocodeSlots : Prop :=
  ∀ (s : State) (k : BitVec 6), Running s →
    let a := s.regs.mcaddr.toNat / 2 ^ 12 % 2 ^ 40 * 2 ^ 12
    let h := littleEndian (cellGet s.mem) a 256
    let f (hi lo : Nat) : Nat := h / 2 ^ lo % 2 ^ (hi + 1 - lo)
    let n := 256 + f 127 96
    let inside (n : Nat) : Prop := InDevice s a ∧ s.region (a + n - 1) = s.region a
    let err (e : BitVec 4) : Res := .next { s with regs := { s.regs with mcerr := e } }
    let accepted (m : Option Microcode) : Res := .next { s with regs := { s.regs with mcbusy := true, mcpend := some (k.toNat, m) } }
    (s.regs.mcbusy = true → exec (.microcodeLoad k) s = err 4#4 ∧ exec (.microcodeUnload k) s = err 4#4) ∧
    (s.regs.mcbusy = false → exec (.microcodeUnload k) s = accepted none ∧
      (¬ inside 256 ∨ McMalformed h → exec (.microcodeLoad k) s = err 2#4) ∧
      (inside 256 → ¬ McMalformed h → 65536 < f 127 96 → exec (.microcodeLoad k) s = err 3#4) ∧
      (inside 256 → ¬ McMalformed h → f 127 96 ≤ 65536 →
        let signed : Prop := inside (n + 2420) ∧ Config.signatureValid (bytesAt (cellGet s.mem) a (n + 2420)) = true
        (¬ signed → exec (.microcodeLoad k) s = err 1#4) ∧
        (signed → exec (.microcodeLoad k) s = accepted (some {
          slot := k.toNat, rev := f 39 32, wsize := f 44 40, akind := f 49 48, bkind := f 51 50
          rsnmap := f 511 256, cbmap := f 767 512, digest := sha3 (bytesAt (cellGet s.mem) a n) })))) ∧
    (let calls (k : Nat) (w : Wave) : Prop := ∃ p h f, w.prog = some p ∧ p.instr = .mcall h f ∧ f.var.toNat = k
     (s.regs.mcpend = none → exec .microcodeReplace s = .next s) ∧
     ∀ j m, s.regs.mcpend = some (j, m) →
       ((∃ t ∈ s.teams, ∃ w ∈ t.waves, calls j w) → exec .microcodeReplace s = .next s) ∧
       ((∀ t ∈ s.teams, ∀ w ∈ t.waves, ¬ calls j w) → exec .microcodeReplace s = .next { s with
         micro := s.micro.filter (fun x => x.slot != j) ++ m.toList
         regs := { s.regs with mcbusy := false, mcpend := none } }))

/-! ### Host rings (19 R406, R407) -/

/-- 19 R406: RCFG enables a ring of 64 to 65,536 entries with HEAD and TAIL 0, or disables it; RHEAD takes a HEAD within N of TAIL. -/
def Sys2Proof.Claims.RingRegisters : Prop :=
  ∀ (s : State) (i : Nat) (g : HostRing), Running s → i < 3 → s.rings[i]? = some g →
    let becomes (e : Instr) (x : HostRing) : Prop := exec e s = .next { s with rings := s.rings.set i x }
    (∀ n : BitVec 5,
      (g.en = true ∨ n.toNat < 6 ∨ 16 < n.toNat → exec (.rcfgEnable i n) s = .next s) ∧
      (g.en = false → 6 ≤ n.toNat → n.toNat ≤ 16 → becomes (.rcfgEnable i n) { g with en := true, log2n := n, head := 0#32, tail := 0#32 })) ∧
    (g.en = true → becomes (.rcfgDisable i) { g with en := false }) ∧ (g.en = false → becomes (.rcfgDisable i) { g with log2n := 0#5 }) ∧
    ∀ v : BitVec 32, (2 ^ g.log2n.toNat < (g.tail - v).toNat → exec (.rheadWrite i v) s = .next s) ∧
      ((g.tail - v).toNat ≤ 2 ^ g.log2n.toNat → becomes (.rheadWrite i v) { g with head := v, pending := false })

/-- 19 R407, R409: record TAIL of a ring goes to BUS + 64 (TAIL mod N) of host memory with its PHASE, TAIL advances and the message is
pending; a ring that is full or disabled takes none. The record that ends a replay ends it; the record of a host signal completes its node. -/
def Sys2Proof.Claims.RingRecords : Prop :=
  ∀ (s : State) (i : Nat) (g : HostRing) (rec : List Word) (rest : List (List Word)), i < 3 → s.rings[i]? = some g → s.rings.length = 3 →
    g.waiting = rec :: rest → 8 ≤ rec.length →
    (¬ Running s ∨ g.en = false ∨ (g.tail - g.head).toNat = 2 ^ g.log2n.toNat → exec (.ringRecordWrite i) s = .next s) ∧
    (Running s → g.en = true → (g.tail - g.head).toNat ≠ 2 ^ g.log2n.toNat → (i ≠ 0 → BareCore s ((rec.getD 1 0#64).toNat / 2 ^ 24 % 256)) →
      let n := 2 ^ g.log2n.toNat
      let a := 0x080000000000 + g.base.toNat / 2 ^ 12 * 2 ^ 12 + 64 * (g.tail.toNat % n)
      let phase := 1 - g.tail.toNat / n % 2
      let rings := s.rings.set i { g with waiting := rest, tail := g.tail + 1#32, pending := true }
      (s.region a = .host ∨ Untraced s a 64) →
      ∃ t : State, exec (.ringRecordWrite i) s = .next t ∧
        (∀ k < 8, littleEndian (cellGet t.mem) (a + 8 * k) 8 = if k = 1 then (rec.getD 1 0#64).toNat / 2 * 2 + phase else (rec.getD k 0#64).toNat) ∧
        (∀ x, x < a ∨ a + 64 ≤ x → cellGet t.mem x = cellGet s.mem x) ∧ t.teams = s.teams ∧ t.launches = s.launches ∧
        (rec.length = 8 → t.rings = rings ∧ t.replays = s.replays ∧ t.graphs = s.graphs) ∧
        (rec.length = 9 → t.rings = rings ∧ t.replays = s.replays.filter (fun r => BitVec.ofNat 64 r.id != rec.getD 8 0#64 || decide (2 ^ 64 ≤ r.id))) ∧
        (∀ r : Replay, ∀ k : Nat, rec.length = 10 → rec[8]? = some (BitVec.ofNat 64 r.id) → rec[9]? = some (BitVec.ofNat 64 k) → r.id < 2 ^ 64 → k < 2 ^ 64 →
          InFlight s r → k < r.nodes.length → NodeEnds { s with rings := rings } r k .done t))

/-- The host rings: configuration, head, tail and records (pending bits cleared by RHEAD: the model's choice, log entry 47): all of the
statements just named hold. -/
def Obligations.HostRings : Prop :=
  Claims.RingRegisters ∧ Claims.RingRecords

/-! ### Registers and BAR2 (19 R403 to R405) -/

/-- 19 R404: a host write through BAR0 is of 4 or 8 bytes, naturally aligned, or has no effect; a low half is held, and the write of the
high half applies both. The registers take the writable bits of the value. -/
def Sys2Proof.Claims.RegisterWrites : Prop :=
  ∀ s : State, Running s →
    (∀ pa n v, (n ≠ 4 ∧ n ≠ 8) ∨ pa % n ≠ 0 ∨ pa < 0x0F0000000000 ∨ 0x0F0001000000 < pa + n → exec (.registerWrite pa n v) s = .next s) ∧
    (∀ off (v : Word), off % 8 = 0 → off < 0xB000 →
      let pa := 0x0F0000000000 + off
      exec (.registerWrite pa 4 v) s = .next { s with hostHeld := s.hostHeld.filter (fun e => e.1 != off) ++ [(off, v.setWidth 32)] } ∧
      exec (.registerWrite (pa + 4) 4 v) s = exec (hostWrites off (v.setWidth 32 ++ ((s.hostHeld.find? (fun e => e.1 == off)).map Prod.snd).getD 0#32)) s) ∧
    ∀ v : Word, let sets (off : Nat) (r : Regs) : Prop := exec (hostWrites off v) s = .next { s with regs := r, hostHeld := s.hostHeld.filter (fun e => e.1 != off) }
      let r := s.regs
      sets 0x2000 { r with astbase := v &&& 0x000FFFFFFFFF8000#64 } ∧ sets 0x2008 { r with tlbiva := v &&& 0xFFFFFFFFFFFFF000#64 } ∧
      sets 0x2018 { r with tlbiLost := r.tlbiLost && !v.getLsbD 1 } ∧ sets 0x3000 { r with mcaddr := v &&& 0x000FFFFFFFFFF000#64 } ∧
      sets 0x3010 { r with mcerr := r.mcerr &&& ~~~ (v >>> 4).setWidth 4 } ∧ sets 0x4008 { r with klost := r.klost && !v.getLsbD 7 } ∧
      sets 0x4010 { r with gimg := v &&& 0x000FFFFFFFFFFFFF#64 } ∧ sets 0x4020 { r with gerr := r.gerr &&& ~~~ (v >>> 16).setWidth 4 } ∧
      sets 0x4028 { r with tslice := v.setWidth 16 } ∧ sets 0x5000 { r with ordcfg := v } ∧ sets 0x5018 { r with ordqkey := v } ∧
      sets 0x5030 { r with ordqstat := r.ordqstat &&& ~~~ (v &&& 0x1000000000000000#64) } ∧ sets 0x8000 { r with precfg := v &&& 0xFFFFFFFFFFFF000F#64 } ∧
      sets 0x8028 { r with screply0 := v } ∧ sets 0x8030 { r with screply1 := v } ∧ sets 0xA000 { r with bar2win := v &&& 0x000FFFFFC0000000#64 } ∧
      (∀ c < 4, sets (0x9000 + 8 * c) { r with metcls := r.metcls.modify c (fun _ => v) }) ∧
      ((s.launches = [] → sets 0x5008 { r with ordbase := v &&& 0x000FFFFFFFFF0000#64 } ∧ sets 0x5010 { r with ordsize := v.setWidth 16 }) ∧
       (s.launches ≠ [] → sets 0x5008 r ∧ sets 0x5010 r)) ∧
      ((s.images = [] → sets 0x8008 { r with ctxbase := v &&& 0x000FFFFFFFFF0000#64 } ∧ sets 0x8010 { r with ctxsize := v.setWidth 16 }) ∧
       (s.images ≠ [] → sets 0x8008 r ∧ sets 0x8010 r)) ∧
      (((∀ l ∈ s.launches, l.block.tset = 0) → sets 0x6000 { r with trbase := v &&& 0x000FFFFFFFFFF000#64 }) ∧
       ((∃ l ∈ s.launches, l.block.tset ≠ 0) → sets 0x6000 r))

/-- 19 R405, R403, 13 R288: a BAR2 write stores its bytes at BAR2WIN.BASE × 2^30 + offset, a read changes nothing where no promotion
waits, and an access outside BAR2 or outside device memory has no effect; AtomicOp Requester Enable and BAR2's size are as configured. -/
def Sys2Proof.Claims.Bar2Accesses : Prop :=
  (∀ (s : State) (off : Nat) (data : List Byte), let n := data.length
    let a := s.regs.bar2win.toNat / 2 ^ 30 % 2 ^ 22 * 2 ^ 30 + off
    let ok : Prop := Running s ∧ n ≠ 0 ∧ off + n ≤ 2 ^ s.pcie.bar2Log2 ∧ InDevice s a ∧ s.region (a + n - 1) = s.region a
    (¬ ok → exec (.hostBar2Write off data) s = .next s ∧ exec (.hostBar2Read off n) s = .next s) ∧
    (ok → NoPromotion s → exec (.hostBar2Read off n) s = .next s) ∧
    (ok → Untraced s a n → ∃ t : State, exec (.hostBar2Write off data) s = .next t ∧
      { t with mem := s.mem, rels := s.rels, poison := s.poison } = s ∧ (Memory.wf s.mem = true → Memory.wf t.mem = true) ∧
      ∀ x, cellGet t.mem x = if a ≤ x ∧ x < a + n then data.getD (x - a) 0#8 else cellGet s.mem x)) ∧
  ∀ (s : State) (e : Bool) (k : Nat), exec (.pcieConfigWrite (.atomicOpEnable e)) s = .next { s with pcie := { s.pcie with atomicOp := e } } ∧
    (30 ≤ k ∧ k ≤ 41 → exec (.pcieConfigWrite (.bar2Log2 k)) s = .next { s with pcie := { s.pcie with bar2Log2 := k } }) ∧
    (k < 30 ∨ 41 < k → exec (.pcieConfigWrite (.bar2Log2 k)) s = .next s)

/-- What a host write to a device register does, and accesses through BAR2: all of the statements just named hold. Where the spec leaves a point
open this is the model's choice (log entry 29). -/
def Obligations.HostAccesses : Prop :=
  Claims.RegisterWrites ∧ Claims.Bar2Accesses

/-! ### Tabez Link (19 R410 to R413) -/

/-- 19 R410, R413: software sets a port's TAIL and EN, and WREQ: 0 takes the link down, another width on a trained port begins a change; a port
trains, and ends a width change, at a width within WREQ and its lanes; a narrower width on a trained port begins a change. -/
def Sys2Proof.Claims.LinkWidths : Prop :=
  ∀ (s : State) (p : Nat) (q : Port), Running s → p < 12 → s.ports[p]? = some q →
    let becomes (e : Instr) (x : Port) : Prop := exec e s = .next { s with ports := s.ports.set p x }
    (q.wreq ≠ 0#2 → (∀ v, becomes (.lkctlTail p v) { q with tail := v }) ∧ ∀ b, becomes (.lkctlEnable p b) { q with en := b }) ∧
    (∀ v : Word, let off := 0xA108 + 0x20 * p
      let q' : Port := { q with tail := v.extractLsb' 32 32, wreq := v.extractLsb' 8 2, en := v.getLsbD 0 }
      let takes (x : Port) : Prop := exec (hostWrites off v) s = .next { s with
        ports := s.ports.set p x, hostHeld := s.hostHeld.filter (fun e => e.1 != off) }
      (q'.wreq = 0#2 → takes { q' with up := false, width := 0#2, pause := false }) ∧
      (q'.wreq ≠ 0#2 → q.up = true ∧ q'.wreq ≠ q.wreq → takes { q' with pause := true }) ∧
      (q'.wreq ≠ 0#2 → ¬ (q.up = true ∧ q'.wreq ≠ q.wreq) → takes q')) ∧
    ∀ wd : BitVec 2,
      (q.up = false → wd ≠ 0#2 → wd.toNat ≤ widest s p q → becomes (.linkTrained p wd) { q with up := true, width := wd, pause := false }) ∧
      (q.up = true ∨ wd = 0#2 ∨ widest s p q < wd.toNat → exec (.linkTrained p wd) s = .next s) ∧
      (q.up = true → wd ≠ 0#2 → q.pause = true → wd.toNat ≤ widest s p q → becomes (.linkWidthChange p wd) { q with width := wd, pause := false }) ∧
      (q.up = true → wd ≠ 0#2 → q.pause = false → wd.toNat < q.width.toNat → becomes (.linkWidthChange p wd) { q with pause := true }) ∧
      (q.up = false ∨ wd = 0#2 ∨ (q.pause = true ∧ widest s p q < wd.toNat) ∨ (q.pause = false ∧ q.width.toNat ≤ wd.toNat) →
        exec (.linkWidthChange p wd) s = .next s)

/-- 19 R411: a port sends its descriptor HEAD when it is enabled, trained, not paused and has one; a malformed descriptor completes at once
with bit 63 of its first word; the peer's answer advances HEAD, with bit 62 for a rejection. -/
def Sys2Proof.Claims.LinkDescriptors : Prop :=
  ∀ (s : State) (p : Nat) (q : Port), Running s → p < 12 → s.ports[p]? = some q →
    let k := q.ring.toNat % 16
    let a := q.ring.toNat / 2 ^ 12 % 2 ^ 40 * 2 ^ 12 + 64 * (q.head.toNat % 2 ^ k)
    let d := littleEndian (cellGet s.mem) a 64
    let ready : Prop := q.en = true ∧ q.up = true ∧ q.pause = false ∧ q.head ≠ q.tail ∧ q.inflight = none ∧ 4 ≤ k ∧ k ≤ 12 ∧ s.region a = .near
    let completes (e : Instr) (mark : Nat) : Prop := ∃ t : State, exec e s = .next t ∧ { t with mem := s.mem, rels := s.rels, poison := s.poison, ports := s.ports } = s ∧
      t.ports = s.ports.set p { q with head := q.head + 1#32, inflight := none } ∧
      (∀ x, cellGet t.mem x = storedByte (cellGet s.mem) a 8 (d % 2 ^ 64 ||| mark) x)
    (¬ ready → exec (.linkDescriptorSend p) s = .next s) ∧
    (ready → LinkDescriptor s d → NoPromotion s →
      exec (.linkDescriptorSend p) s = .next { s with ports := s.ports.set p { q with inflight := some ((d / 2 ^ 192 % 2 ^ 32 + 255) / 256) } }) ∧
    (ready → ¬ LinkDescriptor s d → Untraced s a 8 → completes (.linkDescriptorSend p) (2 ^ 63)) ∧
    (∀ b, q.inflight = none → exec (.linkAck p b) s = .next s) ∧
    (q.inflight ≠ none → exec (.linkAck p false) s = .next { s with ports := s.ports.set p { q with head := q.head + 1#32, inflight := none } }) ∧
    (q.inflight ≠ none → Untraced s a 8 → completes (.linkAck p true) (2 ^ 62))

/-- 19 R411, R412: what a peer sends on VC0 is written, and on VC2 added image by image, where it lies in device memory; bytes elsewhere are
discarded, and the descriptor that they belong to counts one rejection, at the first of them. A flit of fewer than 256 bytes is the last of
its descriptor (the model's own convention, log entry 46). -/
def Sys2Proof.Claims.LinkReceipt : Prop :=
  ∀ (s : State) (p pa : Nat) (q : Port) (data : List Byte), Running s → p < 12 → s.ports[p]? = some q → q.up = true → data.length ≤ 256 →
    let n := data.length
    let rejects (vc : Nat) (t : State) : Prop := let lost : Prop := ∃ i < n, ¬ InDevice s (pa + i)
      { t with mem := s.mem, rels := s.rels, poison := s.poison, ports := s.ports } = s ∧ ∃ q' : Port, t.ports = s.ports.set p q' ∧
      { q' with rej := q.rej, badIn := q.badIn } = q ∧ (lost ∧ vc ∉ q.badIn → q'.rej = q.rej + 1#8) ∧ (¬ (lost ∧ vc ∉ q.badIn) → q'.rej = q.rej) ∧
      (n < 256 → vc ∉ q'.badIn) ∧ (n = 256 → (vc ∈ q'.badIn ↔ lost ∨ vc ∈ q.badIn)) ∧ ∀ x ≠ vc, x ∈ q'.badIn ↔ x ∈ q.badIn
    (Untraced s pa n → ∃ t : State, exec (.linkFlitReceive p 0 pa data) s = .next t ∧ rejects 0 t ∧
      ∀ x, (pa ≤ x ∧ x < pa + n ∧ InDevice s x → cellGet t.mem x = data.getD (x - pa) 0#8) ∧
        (¬ (pa ≤ x ∧ x < pa + n ∧ InDevice s x) → cellGet t.mem x = cellGet s.mem x)) ∧
    (n % 32 = 0 → pa % 32 = 0 → Untraced s pa n → s.promo = [] → (∀ x ∈ s.poison, x + 8 ≤ pa ∨ pa + n ≤ x) → ∃ t : State, exec (.linkFlitReceive p 2 pa data) s = .next t ∧
      rejects 2 t ∧
      (∀ i < n / 32, let a := pa + 32 * i
        (InDevice s a → littleEndian (cellGet t.mem) a 32 = xaccAddImage (littleEndian (cellGet s.mem) a 32)
          (littleEndian (fun j => data.getD j 0#8) (32 * i) 32)) ∧
        (¬ InDevice s a → littleEndian (cellGet t.mem) a 32 = littleEndian (cellGet s.mem) a 32)) ∧
      ∀ x, x < pa ∨ pa + n ≤ x → cellGet t.mem x = cellGet s.mem x) ∧
    ∀ vc, vc ≠ 0 → vc ≠ 2 ∨ n % 32 ≠ 0 ∨ pa % 32 ≠ 0 → exec (.linkFlitReceive p vc pa data) s = .next s

/-- Training, sending and receiving on the fabric links: all of the statements just named hold. Where the spec leaves a point open this is the
model's choice (log entry 46). -/
def Obligations.FabricLinks : Prop :=
  Claims.LinkWidths ∧ Claims.LinkDescriptors ∧ Claims.LinkReceipt

/-! ### Metering, sentinels and soft errors (19 R398 to R402, 18 R380) -/

/-- 19 R399, R400: at a tick every balance becomes min(B, balance + B), clipped to the new B first, with B the budget of the class of the
core's pool. -/
def Sys2Proof.Claims.MeterTicks : Prop :=
  ∀ s : State, Running s → (∀ c ∈ s.cores, (c.meter.map Prod.fst).Nodup) → (∀ c ∈ s.cores, ∀ e ∈ c.meter, e.2 ≤ c.budget e.1) →
    let budget (n : Nat) : Nat := if n = 0 then 0 else max 256 n
    ∃ t : State, exec .meterTick s = .next t ∧ { t with cores := s.cores } = s ∧ t.cores.length = s.cores.length ∧
      ∀ (k : Nat) (x y : Core), s.cores[k]? = some x → t.cores[k]? = some y → { y with hsb := x.hsb, fmb := x.fmb, meter := x.meter } = x ∧
        (let v := (s.regs.metcls.getD (s.die (k / 32)).opclass 0#64).toNat
         y.hsb = budget (v % 2 ^ 32) ∧ y.fmb = budget (v / 2 ^ 32) ∧
         ∀ a, let b : Int := if a < 128 then y.hsb else y.fmb
           y.balance a = min b (min (x.balance a) b + b))

/-- 19 R398, R399: a load of a HOMEONLY page is a request of one sector for an arbiter of its address (its home slice, and its far
channel); while an arbiter that meters the core has no positive balance the load waits, else each such balance falls by 64. -/
def Sys2Proof.Claims.MeteredRequests : Prop :=
  ∀ (r : WaveRef) (k j : Nat) (s : State) (tm : Team) (w : Wave) (o : Out) (a : Acc), s.team? r.team = some tm → s.wave? r = some w →
    w.outs[k]? = some o → o.accs = [a] → j = 0 → a.kind = .load → a.side = none → a.state = .todo → a.mtype = .homeonly → InDevice s a.pa →
    w.core < s.cores.length → a.len ∈ [1, 2, 4, 8, 16, 32] → a.pa % a.len = 0 →
    let c := s.core w.core
    ((∃ b ∈ s.arbiters a.pa, c.budget b ≠ 0 ∧ c.balance b ≤ 0) → exec (.accessPerform r k j (.whole none)) s = .next s) ∧
    (s.accReady r k j = true → ∃ t : State, exec (.accessPerform r k j (.whole none)) s = .next t ∧ (t.core w.core).hsb = c.hsb ∧ (t.core w.core).fmb = c.fmb ∧
      ∀ b, (t.core w.core).balance b = if b ∈ s.arbiters a.pa ∧ c.budget b ≠ 0 then c.balance b - 64 else c.balance b)

/-- 19 R402: a warning counts and raises STEP while it is below 6, and sets SAT at 6; 100 ms without one lowers STEP by one. -/
def Sys2Proof.Claims.Sentinels : Prop :=
  ∀ (s : State) (d : Nat) (x : Die), Running s → s.dies[d]? = some x →
    let becomes (e : Instr) (y : Die) : Prop := exec e s = .next { s with dies := s.dies.set d y }
    (x.step < 6 → becomes (.sentinelWarning d) { x with step := x.step + 1, warns := x.warns + 1#32 }) ∧
    (6 ≤ x.step → becomes (.sentinelWarning d) { x with sat := true, warns := x.warns + 1#32 }) ∧
    becomes (.sentinelDecay d) { x with step := x.step - 1 }

/-- 18 R380: one flipped bit changes nothing; two make the word uncorrectable, whether it is a register, a word of scratch, of an operand
buffer or of a tile, or a word of memory or of a core's cache, and change no data. -/
def Sys2Proof.Claims.SoftErrors : Prop :=
  ∀ (s : State) (n : Nat), (∀ x, n < 2 → exec (.softError x n) s = .next s) ∧
    (2 ≤ n →
      (∀ a, InDevice s (8 * a) → ∃ t : State, exec (.softError (.home a) n) s = .next t ∧ { t with poison := s.poison } = s ∧
        ∀ b, b ∈ t.poison ↔ b = 8 * a ∨ b ∈ s.poison) ∧
      (∀ x : Site, (match x with
          | .vecReg r l k => ∃ tm w, s.team? r.team = some tm ∧ s.wave? r = some w ∧ l < w.lanes.length ∧ k < tm.vregs
          | .scaReg r k => (∃ w, s.wave? r = some w) ∧ k < 192
          | .scratch u k w => ∃ tm, s.team? u = some tm ∧ k < tm.sides.length ∧ 4 * w < tm.scratchBytes
          | .opBuf u k w => ∃ tm, s.team? u = some tm ∧ k < tm.sides.length ∧ 4 * w < tm.obufBytes
          | .acc u k i w => ∃ tm, s.team? u = some tm ∧ k < tm.sides.length ∧ i < tm.tiles ∧ w < 4096
          | _ => False) →
        ∃ t : State, exec (.softError x n) s = .next t ∧ { t with poisonRegs := s.poisonRegs } = s ∧ ∀ y, y ∈ t.poisonRegs ↔ y = x ∨ y ∈ s.poisonRegs) ∧
      ∀ (c a : Nat) (b : Byte), c < s.cores.length → (s.core c).cbyte? (8 * a) ≠ none → ((s.core c).cbyte? (8 * a)).map (fun b => b.val) = some b →
        ∃ t : State, exec (.softError (.cache c a) n) s = .next t ∧ { t with cores := s.cores } = s ∧
          ∃ x ∈ (t.core c).cache, x.line = 8 * a / 256 ∧ 8 * a % 256 / 8 ∈ x.poison)

/-- Meters, metered requests, sentinels and soft errors: all of the statements just named hold. Where the spec leaves a point open this is the
model's choice (log entries 7, 26). -/
def Obligations.MetersSentinelsErrors : Prop :=
  Claims.MeterTicks ∧ Claims.MeteredRequests ∧ Claims.Sentinels ∧ Claims.SoftErrors

/-! ### Starting, recovery and attestation (19 R414 to R417) -/

/-- 19 R414, R415: power-on and RSTCMD OP 2 begin a cold start and Function Level Reset and RSTCMD OP 1 a warm one, with KEY 0x5357 alone;
each discards everything that R414 names, and a device in recovery mode stays there. -/
def Sys2Proof.Claims.Resets : Prop :=
  ∀ s : State, (∃ t, exec .powerOn s = .next t ∧ ColdStart s t) ∧ (∃ t, exec .functionLevelReset s = .next t ∧ WarmStart s t) ∧
    ∀ k : BitVec 16, (k ≠ 0x5357#16 ∨ s.regs.recov = true → exec (.rstcmdWarm k) s = .next s ∧ exec (.rstcmdCold k) s = .next s) ∧
      (k = 0x5357#16 → s.regs.recov = false → (∃ t, exec (.rstcmdWarm k) s = .next t ∧ WarmStart s t) ∧ ∃ t, exec (.rstcmdCold k) s = .next t ∧ ColdStart s t)

/-- 19 R414 to R416: the stage in progress passes to the next; stage 1 needs a signed firmware image of the minimum version or above and
raises the minimum, stage 2 of a warm start whose training record matches the yield record and whose stacks and channels answer goes to stage 5,
stage 5 publishes the units, stage 6 resets every register and sets READY with FAILS 0; a stage that fails counts, and starts cold again or, the
third time, enters recovery mode. -/
def Sys2Proof.Claims.StartStages : Prop :=
  ∀ s : State, let n := s.regs.stage.toNat
    (s.regs.recov = false → s.regs.ready = true ∨ n = 0 → ∀ b, exec (.startStage b) s = .next s) ∧
    (s.regs.ready = false → 1 ≤ n → n ≤ 6 → s.regs.recov = false →
      let passes (u : State) : Prop := exec (.startStage true) s = .next u
      let at' (k : BitVec 8) (u : State) : State := { u with regs := { u.regs with stage := k } }
      let version := Config.imageVersion s.flash.firmware
      let signed : Prop := Config.signatureValid s.flash.firmware = true ∧ s.flash.minimum.toNat ≤ version.toNat
      let listed : Prop := Config.signatureValid s.flash.yieldRec = true
      let retained : Prop := Config.trainingMatches s.flash.training s.flash.yieldRec = true ∧ Config.stacksAnswer s.free = true
      let taken : State := { s with free := s.free + 1 }
      (n = 1 → signed → passes (at' 2#8 { s with flash := { s.flash with minimum := version } })) ∧
      (n = 2 → s.regs.warm = false → passes (at' 3#8 s)) ∧
      (n = 2 → s.regs.warm = true → retained → passes (at' 5#8 taken)) ∧
      (n = 2 → s.regs.warm = true → ¬ retained → passes (at' 3#8 { taken with
        mem := s.mem.filter (fun x => decide (x.1 ≥ 0x080000000000)), poison := [], regs := { s.regs with warm := false } })) ∧
      (n = 3 → passes (at' 4#8 { taken with flash := { s.flash with training := Config.trainingRecord s.free } })) ∧ (n = 4 → passes (at' 5#8 s)) ∧
      (n = 5 → listed → passes (at' 6#8 { s with
        regs := { s.regs with usum := s.flash.yUsum, ucore := s.flash.yCore, ufch := s.flash.yFch, ulink := s.flash.yLink } })) ∧
      (n = 6 → passes { s with regs := { Regs.reset with
        warm := s.regs.warm, err := s.regs.err, usum := s.regs.usum, ucore := s.regs.ucore, ufch := s.regs.ufch, ulink := s.regs.ulink,
        vec3 := s.regs.vec3 + 1 } }) ∧
      ∀ b, b = false ∨ (n = 1 ∧ ¬ signed) ∨ (n = 5 ∧ ¬ listed) →
        let r := { s.regs with fails := BitVec.ofNat 4 (min 3 (s.regs.fails.toNat + 1)), err := s.regs.stage }
        (3 ≤ s.regs.fails.toNat + 1 → exec (.startStage b) s = .next { s with regs := { r with
          recov := true, stage := 0#8, warm := false, vec3 := s.regs.vec3 + 1 } }) ∧
        (s.regs.fails.toNat + 1 < 3 → ∃ t, exec (.startStage b) s = .next t ∧ ColdStart { s with regs := r } t))

/-- 19 R415, R416: a RECCMD outside recovery mode, without its KEY or while BUSY is ignored; otherwise BUSY is 1 until the verification ends. A
bad length, a bad signature or an old version then sets RECSTAT.ERR; an image that passes goes to flash and raises the minimum, FAILS is 0, and
a cold start follows. -/
def Sys2Proof.Claims.Recovery : Prop :=
  ∀ s : State,
    (∀ v : Word, let taken : Prop := s.regs.recov = true ∧ s.regs.recBusy = false ∧ v.toNat / 2 ^ 48 = 0x5357
      (¬ taken → exec (.reccmd v) s = .next s) ∧
      (taken → exec (.reccmd v) s = .next { s with regs := { s.regs with recBusy := true, recLen := v.toNat % 2 ^ 24 } })) ∧
    (s.regs.recov = true → s.regs.recBusy = true → ∀ b : Bool,
      let n := s.regs.recLen
      let image := bytesAt (cellGet s.recWindow) 0 n
      let version := Config.imageVersion image
      let r := { s.regs with recBusy := false }
      let err (e : BitVec 4) : Prop := exec (.startStage b) s = .next { s with regs := { r with recErr := e } }
      (n = 0 ∨ 8388608 < n → err 3#4) ∧
      (1 ≤ n → n ≤ 8388608 → (Config.signatureValid image = false → err 1#4) ∧
        (Config.signatureValid image = true → version.toNat < s.flash.minimum.toNat → err 2#4) ∧
        (Config.signatureValid image = true → s.flash.minimum.toNat ≤ version.toNat → ∃ t, exec (.startStage b) s = .next t ∧
          ColdStart { s with
            flash := { s.flash with firmware := image, minimum := version }
            regs := { r with recov := false, fails := 0#4, vec3 := s.regs.vec3 + 1 } } t)))

/-- 19 R417: the nonce is written through the mailbox; a request takes it, unless one is BUSY; the report holds the nonce, the digests of the
firmware, the yield record and the microcode, MCVALID and DEVSTAT, and a signature, and is DONE. -/
def Sys2Proof.Claims.Attestation : Prop :=
  ∀ s : State,
    (Running s → s.attNonce.length = 32 → (∀ o (v : Word), o % 8 = 0 → o < 32 → exec (hostWrites (0xB000 + o) v) s = .next { s with
        attNonce := (List.range 32).map (fun i => if o ≤ i ∧ i < o + 8 then numberByte v.toNat o i else s.attNonce.getD i 0#8) }) ∧
      (s.regs.attBusy = true → exec (.registerWrite 0x0F000000C800 4 1#64) s = .next s) ∧
      (s.regs.attBusy = false → exec (.registerWrite 0x0F000000C800 4 1#64) s = .next { s with
        attTaken := s.attNonce, regs := { s.regs with attBusy := true, attDone := false } })) ∧
    (s.regs.attBusy = false → exec .attestReport s = .next s) ∧
    (s.regs.attBusy = true → s.attTaken.length = 32 → ∃ t : State, exec .attestReport s = .next t ∧
      { t with attest := s.attest, regs := s.regs } = s ∧ t.regs = { s.regs with attBusy := false, attDone := true } ∧
      let at' (o n : Nat) : List Byte := bytesAt (fun i => t.attest.getD i 0#8) o n
      let digests := (List.range 64).flatMap (fun i => (s.micro.filter (fun m => m.slot == i)).flatMap (fun m => m.digest))
      t.attest.length = 0x100 + 2420 ∧ at' 0 32 = s.attTaken ∧ at' 0x20 32 = sha3 s.flash.firmware ∧ at' 0x40 32 = sha3 s.flash.yieldRec ∧
      at' 0x60 32 = sha3 digests ∧
      (∀ k < 64, (littleEndian (fun i => t.attest.getD i 0#8) 0x80 8).testBit k = s.micro.any (fun m => m.slot == k)) ∧
      (let d := littleEndian (fun i => t.attest.getD i 0#8) 0x88 8
       d.testBit 63 = s.regs.ready ∧ d.testBit 62 = s.regs.recov ∧ d.testBit 61 = s.regs.warm ∧ d / 2 ^ 16 % 2 ^ 4 = s.regs.fails.toNat ∧
       d / 2 ^ 8 % 2 ^ 8 = s.regs.err.toNat ∧ d % 2 ^ 8 = s.regs.stage.toNat) ∧
      ∀ i < 2420, t.attest.getD (0x100 + i) 0#8 = Config.reportSignature (sha3Nat (bytesAt (fun i => t.attest.getD i 0#8) 0 0x90)) i)

/-- Cold and warm starts, stages, recovery mode and attestation: all of the statements just named hold. Where the spec leaves a point open this
is the model's choice (log entries 12, 48). -/
def Obligations.StartsAndRecovery : Prop :=
  Claims.Resets ∧ Claims.StartStages ∧ Claims.Recovery ∧ Claims.Attestation

/-! ### Encoding, the step, and what every step keeps -/

/-- 02 R22 to R33, R45: the words of a well-formed instruction decode to it with every operand at every value, and a word that decodes to an
instruction is the word of that instruction, with every bit accounted for. -/
def Obligations.DecodeEncode : Prop :=
  (∀ (i : Instr) (n : Nat), WellFormed i n = true → ∃ (w : Word) (x : Option Word), encode i = some (w, x) ∧
    ∀ y, x = none ∨ x = some y → decode w y n = .ok i) ∧
  ∀ (w y : Word) (n : Nat) (i : Instr), decode w y n = .ok i →
    WellFormed i n = true ∧ encode i = some (w, if w.getLsbD 54 then some y else none)

/-- 03 R50 to R68 on words written out from the spec's tables: IADD with an immediate, an atomic, a branch, a matrix product, a macro, a system instruction, and
words that are no instruction. -/
def Obligations.DecodeWords : Prop :=
  decode 0x20C70502_80000300#64 0x0000000100000000#64 512 =
    .ok (.iadd { sw := true, keep := 0#2, gn := false, gp := 7#3, x := some 0x0000000100000000#64 }
      { d := 10#9, a := 10#9, b := 0#9, c := 0#9, ka := .vec, kb := .imm, kc := false, rnd := .rn, fzi := false, fzo := false, sat := false, sub := 0#2 }) ∧
  decode 0x10070000_0B64A010#64 0#64 512 =
    .ok (.br { sw := false, keep := 0#2, gn := false, gp := 7#3, x := none }
      { off := 11#24, tprio := 100#8, fprio := 160#8, cn := false, cp := 1#3, sub := 0#2 }) ∧
  decode 0xA0070202_0AE00000#64 0#64 512 = .ok (.atom { sw := false, keep := 0#2, gn := false, gp := 7#3, x := none }
      { d := 4#9, a := 8#9, ak := false, size := 2#3, scope := 5#3, ord := 3#2, ch := 0#2, sub := 0#3, off := 0#16 }) ∧
  decode 0xC3090004_00008001#64 0#64 512 = .ok (.mma { sw := false, keep := 0#2, gn := true, gp := 1#3, x := none }
      { d := 0#9, a := 16#9, b := 0#9, c := 8#9, ka := .vec, kb := .vec, kc := false, rnd := .rn, fzi := false, fzo := false, sat := false, sub := 1#2 }) ∧
  decode 0xD2072000_00000C0C#64 0#64 512 = .ok (.trav { sw := false, keep := 0#2, gn := false, gp := 7#3, x := none }
      { w := 64#9, a := 0#9, b := 0#9, cboff := 12#13, var := 3#6, sub := 0#2 }) ∧
  decode 0xE7070000_00028000#64 0#64 512 = .ok (.relaunch { sw := false, keep := 0#2, gn := false, gp := 7#3, x := none } { imm := 0#16, d := 0#9, a := 10#9, sub := 0#2 }) ∧
  decode 0x49070201_40C00002#64 0#64 512 = .error 2 ∧ decode 0xFFFFFFFFFFFFFFFF#64 0#64 512 = .error 9

/-- 02 R22, R23, 14 R297, R299, 15 R335: when the agenda issues the first wave of its partition, whose first entry may issue and whose instruction
is in the first-level TLB's reach, and no poison stands and no earlier acquire of its lanes is outstanding, the step runs the decoded instruction
for that entry's lanes at that PC, counts the issue, opens a clock of its partition with it, and settles what follows. A word that is no instruction
is run as such. Where the spec leaves a point open this is the model's choice (log entries 1, 24). -/
def Obligations.StepRunsDecoded : Prop :=
  ∀ (s : State) (r : WaveRef) (rest : List Move) (tm : Team) (w : Wave) (m : BitVec 64) (pc : Word) (es : List (BitVec 64 × Word)) (e : TlbEntry),
    s.agenda = .issue r :: rest → s.team? r.team = some tm → s.wave? r = some w →
    w.mayIssue = true → w.prog = none → w.xl = [] → w.issuable = (m, pc) :: es → (∀ l < 64, m.getLsbD l = true → (w.lane l).badRec = none) →
    (∀ ln ∈ w.lanes, ∀ n, ln.wait ≠ .entered n) → (∀ o ∈ w.outs, ∀ a ∈ o.accs, m.getLsbD a.lane = true → a.acquires = false ∨ a.state = .done) →
    (∀ u ∈ s.teams, ∀ v ∈ u.waves, v.core = w.core → v.part = w.part → v.before w = false) →
    s.poisonRegs = [] → s.poison = [] → pc.toNat % 8 = 0 → canonical pc.toNat = true → canonical (pc.toNat + 8) = true → pc.toNat % 4096 < 4088 →
    (let s0 : State := { s with agenda := rest, cur := { team := r.team, wave := r.wave, mask := m, pc := pc, blocked := false } }
     (s.core w.core).tlb.find? (fun e => e.covers s0.curAsn pc.toNat) = some e → (∀ x ∈ (s.core w.core).tlb, 12 ≤ x.log2) → e.perms.getLsbD 2 = true → e.mtype = .cached ∨ e.mtype = .homeonly →
     s0.watchdogDue = false →
     let at' (a : Nat) : Word := BitVec.ofNat 64 (littleEndian (cellGet s.mem) (e.pa + a % 2 ^ e.log2) 8)
     let word := at' pc.toNat
     let ext : Word := if needsExt word.toNat tm.vregs then at' (pc.toNat + 8) else 0#64
     let i : Instr := match decode word ext tm.vregs with
       | .ok i => i
       | .error reason => .notAnInstruction word reason
     ∀ t : State, exec i s0 = .next t → t.cur.blocked = false → t.curWave.onWalk = false → t.poisonRegs = [] →
       let ran : State := (t.latchAfter i).countIssue.heldAlways.queueUnit
       step s = .next (State.settle { s with agenda := rest }
         (ran.putPack w.core { part := w.part, launch := tm.launch, pc := pc, used := slices m, last := (w.lastIssue, w.id, w.placed) }).idle.unblock))

/-- A device meets these limits: memory is in its canonical form (04 R70), there are 256 cores on 8 dies (01 R10), three host rings and twelve
link ports (19 R406, R410), every STEP is at most 6 (19 R402) and FAILS is at most 3 (19 R414). -/
def Obligations.StepsKeepLimits : Prop :=
  ∀ s t : State, DeviceLimits s → step s = .next t → DeviceLimits t

/-- 04 R70, 13 R276: memory keeps its canonical form in every step, so that equal memories are equal data. -/
def Obligations.StepsKeepMemoryCanonical : Prop :=
  ∀ s t : State, Memory.wf s.mem = true → step s = .next t → Memory.wf t.mem = true

/-- The model's choice that no instruction and no event stops the device (02 R45 and 18 R378 give every failure a trap): each answers a next
state, and so does a step. -/
def Obligations.NothingStops : Prop :=
  (∀ (i : Instr) (s : State), ∃ t : State, exec i s = .next t) ∧ ∀ s : State, ∃ t : State, step s = .next t

/-- The state after reset meets the limits, and a step from it exists. -/
def Obligations.ResetMeetsLimits : Prop := DeviceLimits State.reset ∧ Memory.wf State.reset.mem = true

/-- The Reset columns of 04 R86, 11 R234, 15 R326, 16 R353, 17 R361, 18 R389, R396, 19 R400, R402, R405, R406, R410 and R414, read at the registers' addresses
right after a cold start that has reached READY, with all memory zero (19 R414) and nothing resident. -/
def Obligations.ResetValues : Prop :=
  (∀ x ∈ [(0x0000, 2 ^ 63), (0x2000, 0), (0x2008, 0), (0x2018, 0), (0x3000, 0), (0x3010, 0), (0x3018, 0), (0x4008, 0), (0x4010, 0), (0x4020, 0), (0x4028, 2000),
      (0x5000, 10000 * 2 ^ 32 + 10000), (0x5008, 0), (0x5010, 0), (0x5018, 0), (0x5028, 0), (0x5030, 0), (0x6000, 0), (0x8000, 2 ^ 50 + 500 * 2 ^ 16), (0x8008, 0), (0x8010, 0),
      (0x8028, 0), (0x8030, 0), (0x9000, 0), (0x9008, 0), (0x9010, 0), (0x9018, 12288), (0xA000, 0)],
    State.reset.devRead (0x0F0000000000 + x.1) 8 = x.2) ∧
  (∀ n < 8, State.reset.devRead (0x0F0000009040 + 8 * n) 8 = 0) ∧
  (∀ r < 3, ∀ k < 4, State.reset.devRead (0x0F0000007000 + 32 * r + 8 * k) 8 = 0) ∧
  (∀ p < 12, State.reset.devRead (0x0F000000A100 + 32 * p) 8 = 0 ∧ State.reset.devRead (0x0F000000A108 + 32 * p) 8 = 3 * 256 ∧
    State.reset.devRead (0x0F000000A110 + 32 * p) 8 = 0) ∧
  (∀ a, cellGet State.reset.mem a = 0#8) ∧ State.reset.teams = [] ∧ State.reset.launches = [] ∧ State.reset.replays = [] ∧ State.reset.graphs = [] ∧
  State.reset.micro = [] ∧ State.reset.rowans = [] ∧ State.reset.images = []
end

