-- ==== Sys2Proof/Laws/Cells.lean ====
section
/-! SUPPORT. The sparse maps: read after write, and the canonical form that every memory operation keeps. -/

namespace Sys2Proof.Machine

variable {w : Nat}

/-! ### Read after write, on any list -/

theorem cellGet_cellDrop (m : Cells w) (k j : Nat) : cellGet (cellDrop m k) j = if j = k then 0#w else cellGet m j := by
  induction m with
  | nil => simp [cellDrop, cellGet]
  | cons p r ih =>
    obtain ⟨a, u⟩ := p
    simp only [cellDrop]
    split
    · rename_i ha
      rw [ih]
      split
      · rfl
      · rename_i hj
        rw [cellGet, if_neg (by omega)]
    · rename_i ha
      rw [cellGet, ih, cellGet]
      split
      · rw [if_neg (by omega)]
      · rfl

theorem cellGet_cellInsert (m : Cells w) (k j : Nat) (v : BitVec w) (hk : ∀ p ∈ m, p.1 ≠ k) :
    cellGet (cellInsert m k v) j = if j = k then v else cellGet m j := by
  induction m with
  | nil =>
    simp only [cellInsert, cellGet]
    split
    · rw [if_pos (by omega)]
    · rw [if_neg (by omega)]
  | cons p r ih =>
    obtain ⟨a, u⟩ := p
    have ha : a ≠ k := hk (a, u) (by simp)
    have ih := ih (fun q hq => hk q (by simp [hq]))
    simp only [cellInsert]
    split
    · rw [cellGet]
      split
      · rw [if_pos (by omega)]
      · rw [if_neg (by omega)]
    · rw [cellGet, ih, cellGet]
      split
      · rw [if_neg (by omega)]
      · rfl

theorem cellDrop_keys (m : Cells w) (k : Nat) : ∀ p ∈ cellDrop m k, p.1 ≠ k := by
  induction m with
  | nil => simp [cellDrop]
  | cons p r ih =>
    obtain ⟨a, u⟩ := p
    by_cases ha : a = k
    · simpa [cellDrop, ha] using ih
    · intro q hq
      simp only [cellDrop, ha, if_false, List.mem_cons] at hq
      rcases hq with rfl | hq
      · exact ha
      · exact ih q hq

/-- Read after write: the stored key holds the value, every other key what it held. -/
@[simp] theorem cellGet_cellSet (m : Cells w) (k j : Nat) (v : BitVec w) :
    cellGet (cellSet m k v) j = if j = k then v else cellGet m j := by
  simp only [cellSet]
  split
  · rename_i hv
    rw [cellGet_cellDrop, hv]
  · rw [cellGet_cellInsert _ _ _ _ (cellDrop_keys m k), cellGet_cellDrop]
    split <;> rfl

/-- A store of bytes leaves every address outside them. -/
theorem cellGet_cellStore_out (m : Cells 8) (a j : Nat) (bs : List Byte) (hj : j < a ∨ a + bs.length ≤ j) :
    cellGet (cellStore m a bs) j = cellGet m j := by
  induction bs generalizing m a with
  | nil => rfl
  | cons b r ih =>
    simp only [List.length_cons] at hj
    rw [cellStore, ih _ _ (by omega), cellGet_cellSet, if_neg (by omega)]

/-- A store of bytes puts each of them at its address. -/
theorem cellGet_cellStore_in (m : Cells 8) (a i : Nat) (bs : List Byte) (hi : i < bs.length) :
    cellGet (cellStore m a bs) (a + i) = bs[i] := by
  induction bs generalizing m a i with
  | nil => simp at hi
  | cons b r ih =>
    cases i with
    | zero =>
      rw [cellStore, cellGet_cellStore_out _ _ _ _ (Or.inl (by omega)), cellGet_cellSet]
      simp
    | succ i =>
      have := ih (cellSet m a b) (a + 1) i (by simpa using hi)
      simpa [cellStore, Nat.add_assoc, Nat.add_comm 1 i] using this

/-! ### The canonical form -/

theorem cellWfFrom_mono (m : Cells w) (lo lo' : Nat) (h : cellWfFrom lo m = true) (hl : lo' ≤ lo) : cellWfFrom lo' m = true := by
  cases m with
  | nil => rfl
  | cons p r =>
    obtain ⟨a, v⟩ := p
    simp only [cellWfFrom, Bool.and_eq_true, decide_eq_true_eq] at h ⊢
    exact ⟨⟨by omega, h.1.2⟩, h.2⟩

theorem cellDrop_wfFrom (m : Cells w) (lo k : Nat) (h : cellWfFrom lo m = true) : cellWfFrom lo (cellDrop m k) = true := by
  induction m generalizing lo with
  | nil => rfl
  | cons p r ih =>
    obtain ⟨a, u⟩ := p
    simp only [cellWfFrom, Bool.and_eq_true, decide_eq_true_eq] at h
    have hr := ih (a + 1) h.2
    simp only [cellDrop]
    split
    · exact cellWfFrom_mono _ _ _ hr (by omega)
    · simp only [cellWfFrom, Bool.and_eq_true, decide_eq_true_eq]
      exact ⟨h.1, hr⟩

theorem cellInsert_wfFrom (m : Cells w) (lo k : Nat) (v : BitVec w) (h : cellWfFrom lo m = true) (hk : lo ≤ k) (hv : v ≠ 0#w)
    (hm : ∀ p ∈ m, p.1 ≠ k) : cellWfFrom lo (cellInsert m k v) = true := by
  induction m generalizing lo with
  | nil => simp [cellInsert, cellWfFrom, hk, hv]
  | cons p r ih =>
    obtain ⟨a, u⟩ := p
    have ha : a ≠ k := hm (a, u) (by simp)
    have hu := h
    simp only [cellWfFrom, Bool.and_eq_true, decide_eq_true_eq] at h
    simp only [cellInsert]
    split
    · have hu' := cellWfFrom_mono ((a, u) :: r) a (k + 1) (by
        simp only [cellWfFrom, Bool.and_eq_true, decide_eq_true_eq]
        exact ⟨⟨Nat.le_refl a, h.1.2⟩, h.2⟩) (by omega)
      rw [cellWfFrom, hu']
      simp [hk, hv]
    · have := ih (a + 1) h.2 (by omega) (fun q hq => hm q (by simp [hq]))
      rw [cellWfFrom, this]
      simp only [Bool.and_true, Bool.and_eq_true, decide_eq_true_eq]
      exact h.1

/-- A store keeps the canonical form. -/
theorem cellSet_wf (m : Cells w) (k : Nat) (v : BitVec w) (h : cellWf m = true) : cellWf (cellSet m k v) = true := by
  simp only [cellSet]
  split
  · exact cellDrop_wfFrom m 0 k h
  · rename_i hv
    exact cellInsert_wfFrom _ 0 k v (cellDrop_wfFrom m 0 k h) (Nat.zero_le k) hv (cellDrop_keys m k)

theorem cellStore_wf (m : Cells 8) (a : Nat) (bs : List Byte) (h : cellWf m = true) : cellWf (cellStore m a bs) = true := by
  induction bs generalizing m a with
  | nil => exact h
  | cons b r ih => exact ih _ _ (cellSet_wf m a b h)

theorem cellWrite_wf (m : Cells 8) (a n v : Nat) (h : cellWf m = true) : cellWf (cellWrite m a n v) = true :=
  cellStore_wf m a _ h

/-! ### Bytes and numbers -/

theorem leBytes_length (n v : Nat) : (leBytes n v).length = n := by
  induction n generalizing v with
  | zero => rfl
  | succ n ih => simp [leBytes, ih]

/-- The little-endian bytes of a number hold it, modulo their width. -/
theorem leNat_leBytes (n v : Nat) : leNat (leBytes n v) = v % 2 ^ (8 * n) := by
  induction n generalizing v with
  | zero => simp [leBytes, leNat, Nat.mod_one]
  | succ n ih =>
    simp only [leBytes, leNat, BitVec.toNat_ofNat, ih]
    have e : (2 : Nat) ^ (8 * (n + 1)) = 2 ^ 8 * 2 ^ (8 * n) := by rw [← pow_add]; ring_nf
    rw [e, Nat.mod_mul]
    norm_num

theorem cellBytes_cellStore_out (m : Cells 8) (a j n : Nat) (bs : List Byte) (hj : j + n ≤ a ∨ a + bs.length ≤ j) :
    cellBytes (cellStore m a bs) j n = cellBytes m j n := by
  induction n generalizing j with
  | zero => rfl
  | succ n ih =>
    simp only [cellBytes]
    rw [cellGet_cellStore_out m a j bs (by omega), ih (j + 1) (by omega)]

theorem cellBytes_cellStore_in (m : Cells 8) (a : Nat) (bs : List Byte) : cellBytes (cellStore m a bs) a bs.length = bs := by
  induction bs generalizing m a with
  | nil => rfl
  | cons b r ih =>
    have h0 := cellGet_cellStore_in m a 0 (b :: r) (by simp)
    simp only [List.length_cons, cellBytes]
    simp only [Nat.add_zero, List.getElem_cons_zero] at h0
    rw [h0, cellStore, ih (cellSet m a b) (a + 1)]

/-- A read of the bytes just written gives the value written, modulo its width. -/
theorem cellRead_cellWrite (m : Cells 8) (a n v : Nat) : cellRead (cellWrite m a n v) a n = v % 2 ^ (8 * n) := by
  have e := cellBytes_cellStore_in m a (leBytes n v)
  rw [leBytes_length] at e
  simp [cellRead, cellWrite, e, leNat_leBytes]

/-- A write leaves every range that it does not meet. -/
theorem cellRead_cellWrite_out (m : Cells 8) (a n v j k : Nat) (hj : j + k ≤ a ∨ a + n ≤ j) :
    cellRead (cellWrite m a n v) j k = cellRead m j k := by
  simp only [cellRead, cellWrite]
  rw [cellBytes_cellStore_out m a j k _ (by rw [leBytes_length]; exact hj)]

end Sys2Proof.Machine
end

