-- ==== Sys2Proof/Laws/Words.lean ====
section
/-! SUPPORT. Reading back the fields of a word that a layout packs (02 R23 to R32). -/

namespace Sys2Proof.Machine

theorem getLsbD_app_hi {v w i : Nat} {x : BitVec v} {y : BitVec w} (h : w ≤ i) : (x ++ y).getLsbD i = x.getLsbD (i - w) := by
  rw [BitVec.getLsbD_append, if_neg (by omega)]

theorem getLsbD_app_lo {v w i : Nat} {x : BitVec v} {y : BitVec w} (h : i < w) : (x ++ y).getLsbD i = y.getLsbD i := by
  rw [BitVec.getLsbD_append, if_pos h]

theorem getLsbD_one (b : Bool) : (BitVec.ofBool b).getLsbD 0 = b := by cases b <;> rfl

theorem kindOf_bits (k : Kind) : kindOf (kindBits k) = k := by cases k <;> rfl
theorem rndOf_bits (k : Rnd) : rndOf (rndBits k) = k := by cases k <;> rfl

theorem readOpc_pack (o : BitVec 8) (h : Hdr) (b : BitVec 48) : readOpc (packHdr o h ++ b) = o := by
  unfold readOpc
  rw [BitVec.extractLsb'_append_eq_of_le (v := 16) (w := 48) (by decide)]
  unfold packHdr
  rw [BitVec.extractLsb'_append_eq_of_le (v := 13) (w := 3) (by decide)]
  rw [BitVec.extractLsb'_append_eq_of_le (v := 12) (w := 1) (by decide)]
  rw [BitVec.extractLsb'_append_eq_of_le (v := 10) (w := 2) (by decide)]
  rw [BitVec.extractLsb'_append_eq_of_le (v := 9) (w := 1) (by decide)]
  rw [BitVec.extractLsb'_append_eq_of_le (v := 8) (w := 1) (by decide)]
  exact BitVec.extractLsb'_eq_self

theorem packHdr_sw (o : BitVec 8) (h : Hdr) (b : BitVec 48) : (packHdr o h ++ b).getLsbD 55 = h.sw := by
  rw [getLsbD_app_hi (v := 16) (w := 48) (by decide)]
  unfold packHdr
  rw [getLsbD_app_hi (v := 13) (w := 3) (by decide)]
  rw [getLsbD_app_hi (v := 12) (w := 1) (by decide)]
  rw [getLsbD_app_hi (v := 10) (w := 2) (by decide)]
  rw [getLsbD_app_hi (v := 9) (w := 1) (by decide)]
  rw [getLsbD_app_lo (v := 8) (w := 1) (by decide)]
  exact getLsbD_one _

theorem packHdr_x (o : BitVec 8) (h : Hdr) (b : BitVec 48) : (packHdr o h ++ b).getLsbD 54 = h.x.isSome := by
  rw [getLsbD_app_hi (v := 16) (w := 48) (by decide)]
  unfold packHdr
  rw [getLsbD_app_hi (v := 13) (w := 3) (by decide)]
  rw [getLsbD_app_hi (v := 12) (w := 1) (by decide)]
  rw [getLsbD_app_hi (v := 10) (w := 2) (by decide)]
  rw [getLsbD_app_lo (v := 9) (w := 1) (by decide)]
  exact getLsbD_one _

theorem packHdr_keep (o : BitVec 8) (h : Hdr) (b : BitVec 48) : (packHdr o h ++ b).extractLsb' 52 2 = h.keep := by
  rw [BitVec.extractLsb'_append_eq_of_le (v := 16) (w := 48) (by decide)]
  unfold packHdr
  rw [BitVec.extractLsb'_append_eq_of_le (v := 13) (w := 3) (by decide)]
  rw [BitVec.extractLsb'_append_eq_of_le (v := 12) (w := 1) (by decide)]
  rw [BitVec.extractLsb'_append_eq_of_add_le (v := 10) (w := 2) (by decide)]
  exact BitVec.extractLsb'_eq_self

theorem packHdr_gn (o : BitVec 8) (h : Hdr) (b : BitVec 48) : (packHdr o h ++ b).getLsbD 51 = h.gn := by
  rw [getLsbD_app_hi (v := 16) (w := 48) (by decide)]
  unfold packHdr
  rw [getLsbD_app_hi (v := 13) (w := 3) (by decide)]
  rw [getLsbD_app_lo (v := 12) (w := 1) (by decide)]
  exact getLsbD_one _

theorem packHdr_gp (o : BitVec 8) (h : Hdr) (b : BitVec 48) : (packHdr o h ++ b).extractLsb' 48 3 = h.gp := by
  rw [BitVec.extractLsb'_append_eq_of_le (v := 16) (w := 48) (by decide)]
  unfold packHdr
  rw [BitVec.extractLsb'_append_eq_of_add_le (v := 13) (w := 3) (by decide)]
  exact BitVec.extractLsb'_eq_self

/-- The header reads back when the extension word is the one it carries. -/
theorem readHdr_pack (o : BitVec 8) (h : Hdr) (b : BitVec 48) (x : Word) (hx : h.x = none ∨ h.x = some x) :
    readHdr (packHdr o h ++ b) x = h := by
  unfold readHdr
  rw [packHdr_sw, packHdr_keep, packHdr_gn, packHdr_gp, packHdr_x]
  obtain ⟨sw, keep, gn, gp, e⟩ := h
  rcases hx with e | e <;> cases e <;> rfl

theorem packV_d (hd : BitVec 16) (f : VFields) : (hd ++ packV f).extractLsb' 39 9 = f.d := by
  rw [BitVec.extractLsb'_append_eq_of_add_le (v := 16) (w := 48) (by decide)]
  unfold packV
  rw [BitVec.extractLsb'_append_eq_of_le (v := 46) (w := 2) (by decide)]
  rw [BitVec.extractLsb'_append_eq_of_le (v := 45) (w := 1) (by decide)]
  rw [BitVec.extractLsb'_append_eq_of_le (v := 44) (w := 1) (by decide)]
  rw [BitVec.extractLsb'_append_eq_of_le (v := 43) (w := 1) (by decide)]
  rw [BitVec.extractLsb'_append_eq_of_le (v := 41) (w := 2) (by decide)]
  rw [BitVec.extractLsb'_append_eq_of_le (v := 40) (w := 1) (by decide)]
  rw [BitVec.extractLsb'_append_eq_of_le (v := 38) (w := 2) (by decide)]
  rw [BitVec.extractLsb'_append_eq_of_le (v := 36) (w := 2) (by decide)]
  rw [BitVec.extractLsb'_append_eq_of_le (v := 27) (w := 9) (by decide)]
  rw [BitVec.extractLsb'_append_eq_of_le (v := 18) (w := 9) (by decide)]
  rw [BitVec.extractLsb'_append_eq_of_le (v := 9) (w := 9) (by decide)]
  exact BitVec.extractLsb'_eq_self

theorem packV_a (hd : BitVec 16) (f : VFields) : (hd ++ packV f).extractLsb' 30 9 = f.a := by
  rw [BitVec.extractLsb'_append_eq_of_add_le (v := 16) (w := 48) (by decide)]
  unfold packV
  rw [BitVec.extractLsb'_append_eq_of_le (v := 46) (w := 2) (by decide)]
  rw [BitVec.extractLsb'_append_eq_of_le (v := 45) (w := 1) (by decide)]
  rw [BitVec.extractLsb'_append_eq_of_le (v := 44) (w := 1) (by decide)]
  rw [BitVec.extractLsb'_append_eq_of_le (v := 43) (w := 1) (by decide)]
  rw [BitVec.extractLsb'_append_eq_of_le (v := 41) (w := 2) (by decide)]
  rw [BitVec.extractLsb'_append_eq_of_le (v := 40) (w := 1) (by decide)]
  rw [BitVec.extractLsb'_append_eq_of_le (v := 38) (w := 2) (by decide)]
  rw [BitVec.extractLsb'_append_eq_of_le (v := 36) (w := 2) (by decide)]
  rw [BitVec.extractLsb'_append_eq_of_le (v := 27) (w := 9) (by decide)]
  rw [BitVec.extractLsb'_append_eq_of_le (v := 18) (w := 9) (by decide)]
  rw [BitVec.extractLsb'_append_eq_of_add_le (v := 9) (w := 9) (by decide)]
  exact BitVec.extractLsb'_eq_self

theorem packV_b (hd : BitVec 16) (f : VFields) : (hd ++ packV f).extractLsb' 21 9 = f.b := by
  rw [BitVec.extractLsb'_append_eq_of_add_le (v := 16) (w := 48) (by decide)]
  unfold packV
  rw [BitVec.extractLsb'_append_eq_of_le (v := 46) (w := 2) (by decide)]
  rw [BitVec.extractLsb'_append_eq_of_le (v := 45) (w := 1) (by decide)]
  rw [BitVec.extractLsb'_append_eq_of_le (v := 44) (w := 1) (by decide)]
  rw [BitVec.extractLsb'_append_eq_of_le (v := 43) (w := 1) (by decide)]
  rw [BitVec.extractLsb'_append_eq_of_le (v := 41) (w := 2) (by decide)]
  rw [BitVec.extractLsb'_append_eq_of_le (v := 40) (w := 1) (by decide)]
  rw [BitVec.extractLsb'_append_eq_of_le (v := 38) (w := 2) (by decide)]
  rw [BitVec.extractLsb'_append_eq_of_le (v := 36) (w := 2) (by decide)]
  rw [BitVec.extractLsb'_append_eq_of_le (v := 27) (w := 9) (by decide)]
  rw [BitVec.extractLsb'_append_eq_of_add_le (v := 18) (w := 9) (by decide)]
  exact BitVec.extractLsb'_eq_self

theorem packV_c (hd : BitVec 16) (f : VFields) : (hd ++ packV f).extractLsb' 12 9 = f.c := by
  rw [BitVec.extractLsb'_append_eq_of_add_le (v := 16) (w := 48) (by decide)]
  unfold packV
  rw [BitVec.extractLsb'_append_eq_of_le (v := 46) (w := 2) (by decide)]
  rw [BitVec.extractLsb'_append_eq_of_le (v := 45) (w := 1) (by decide)]
  rw [BitVec.extractLsb'_append_eq_of_le (v := 44) (w := 1) (by decide)]
  rw [BitVec.extractLsb'_append_eq_of_le (v := 43) (w := 1) (by decide)]
  rw [BitVec.extractLsb'_append_eq_of_le (v := 41) (w := 2) (by decide)]
  rw [BitVec.extractLsb'_append_eq_of_le (v := 40) (w := 1) (by decide)]
  rw [BitVec.extractLsb'_append_eq_of_le (v := 38) (w := 2) (by decide)]
  rw [BitVec.extractLsb'_append_eq_of_le (v := 36) (w := 2) (by decide)]
  rw [BitVec.extractLsb'_append_eq_of_add_le (v := 27) (w := 9) (by decide)]
  exact BitVec.extractLsb'_eq_self

theorem packV_ka (hd : BitVec 16) (f : VFields) : (hd ++ packV f).extractLsb' 10 2 = kindBits f.ka := by
  rw [BitVec.extractLsb'_append_eq_of_add_le (v := 16) (w := 48) (by decide)]
  unfold packV
  rw [BitVec.extractLsb'_append_eq_of_le (v := 46) (w := 2) (by decide)]
  rw [BitVec.extractLsb'_append_eq_of_le (v := 45) (w := 1) (by decide)]
  rw [BitVec.extractLsb'_append_eq_of_le (v := 44) (w := 1) (by decide)]
  rw [BitVec.extractLsb'_append_eq_of_le (v := 43) (w := 1) (by decide)]
  rw [BitVec.extractLsb'_append_eq_of_le (v := 41) (w := 2) (by decide)]
  rw [BitVec.extractLsb'_append_eq_of_le (v := 40) (w := 1) (by decide)]
  rw [BitVec.extractLsb'_append_eq_of_le (v := 38) (w := 2) (by decide)]
  rw [BitVec.extractLsb'_append_eq_of_add_le (v := 36) (w := 2) (by decide)]
  exact BitVec.extractLsb'_eq_self

theorem packV_kb (hd : BitVec 16) (f : VFields) : (hd ++ packV f).extractLsb' 8 2 = kindBits f.kb := by
  rw [BitVec.extractLsb'_append_eq_of_add_le (v := 16) (w := 48) (by decide)]
  unfold packV
  rw [BitVec.extractLsb'_append_eq_of_le (v := 46) (w := 2) (by decide)]
  rw [BitVec.extractLsb'_append_eq_of_le (v := 45) (w := 1) (by decide)]
  rw [BitVec.extractLsb'_append_eq_of_le (v := 44) (w := 1) (by decide)]
  rw [BitVec.extractLsb'_append_eq_of_le (v := 43) (w := 1) (by decide)]
  rw [BitVec.extractLsb'_append_eq_of_le (v := 41) (w := 2) (by decide)]
  rw [BitVec.extractLsb'_append_eq_of_le (v := 40) (w := 1) (by decide)]
  rw [BitVec.extractLsb'_append_eq_of_add_le (v := 38) (w := 2) (by decide)]
  exact BitVec.extractLsb'_eq_self

theorem packV_kc (hd : BitVec 16) (f : VFields) : (hd ++ packV f).getLsbD 7 = f.kc := by
  rw [getLsbD_app_lo (v := 16) (w := 48) (by decide)]
  unfold packV
  rw [getLsbD_app_hi (v := 46) (w := 2) (by decide)]
  rw [getLsbD_app_hi (v := 45) (w := 1) (by decide)]
  rw [getLsbD_app_hi (v := 44) (w := 1) (by decide)]
  rw [getLsbD_app_hi (v := 43) (w := 1) (by decide)]
  rw [getLsbD_app_hi (v := 41) (w := 2) (by decide)]
  rw [getLsbD_app_lo (v := 40) (w := 1) (by decide)]
  exact getLsbD_one _

theorem packV_rnd (hd : BitVec 16) (f : VFields) : (hd ++ packV f).extractLsb' 5 2 = rndBits f.rnd := by
  rw [BitVec.extractLsb'_append_eq_of_add_le (v := 16) (w := 48) (by decide)]
  unfold packV
  rw [BitVec.extractLsb'_append_eq_of_le (v := 46) (w := 2) (by decide)]
  rw [BitVec.extractLsb'_append_eq_of_le (v := 45) (w := 1) (by decide)]
  rw [BitVec.extractLsb'_append_eq_of_le (v := 44) (w := 1) (by decide)]
  rw [BitVec.extractLsb'_append_eq_of_le (v := 43) (w := 1) (by decide)]
  rw [BitVec.extractLsb'_append_eq_of_add_le (v := 41) (w := 2) (by decide)]
  exact BitVec.extractLsb'_eq_self

theorem packV_fzi (hd : BitVec 16) (f : VFields) : (hd ++ packV f).getLsbD 4 = f.fzi := by
  rw [getLsbD_app_lo (v := 16) (w := 48) (by decide)]
  unfold packV
  rw [getLsbD_app_hi (v := 46) (w := 2) (by decide)]
  rw [getLsbD_app_hi (v := 45) (w := 1) (by decide)]
  rw [getLsbD_app_hi (v := 44) (w := 1) (by decide)]
  rw [getLsbD_app_lo (v := 43) (w := 1) (by decide)]
  exact getLsbD_one _

theorem packV_fzo (hd : BitVec 16) (f : VFields) : (hd ++ packV f).getLsbD 3 = f.fzo := by
  rw [getLsbD_app_lo (v := 16) (w := 48) (by decide)]
  unfold packV
  rw [getLsbD_app_hi (v := 46) (w := 2) (by decide)]
  rw [getLsbD_app_hi (v := 45) (w := 1) (by decide)]
  rw [getLsbD_app_lo (v := 44) (w := 1) (by decide)]
  exact getLsbD_one _

theorem packV_sat (hd : BitVec 16) (f : VFields) : (hd ++ packV f).getLsbD 2 = f.sat := by
  rw [getLsbD_app_lo (v := 16) (w := 48) (by decide)]
  unfold packV
  rw [getLsbD_app_hi (v := 46) (w := 2) (by decide)]
  rw [getLsbD_app_lo (v := 45) (w := 1) (by decide)]
  exact getLsbD_one _

theorem packV_sub (hd : BitVec 16) (f : VFields) : (hd ++ packV f).extractLsb' 0 2 = f.sub := by
  rw [BitVec.extractLsb'_append_eq_of_add_le (v := 16) (w := 48) (by decide)]
  unfold packV
  rw [BitVec.extractLsb'_append_eq_of_add_le (v := 46) (w := 2) (by decide)]
  exact BitVec.extractLsb'_eq_self

theorem readV_pack (hd : BitVec 16) (f : VFields) : readV (hd ++ packV f) = f := by
  unfold readV
  rw [packV_d, packV_a, packV_b, packV_c, packV_ka, packV_kb, packV_kc, packV_rnd, packV_fzi, packV_fzo, packV_sat, packV_sub, kindOf_bits, kindOf_bits, rndOf_bits]

theorem packS_d (hd : BitVec 16) (f : SFields) : (hd ++ packS f).extractLsb' 39 9 = f.d := by
  rw [BitVec.extractLsb'_append_eq_of_add_le (v := 16) (w := 48) (by decide)]
  unfold packS
  rw [BitVec.extractLsb'_append_eq_of_le (v := 46) (w := 2) (by decide)]
  rw [BitVec.extractLsb'_append_eq_of_le (v := 44) (w := 2) (by decide)]
  rw [BitVec.extractLsb'_append_eq_of_le (v := 43) (w := 1) (by decide)]
  rw [BitVec.extractLsb'_append_eq_of_le (v := 27) (w := 16) (by decide)]
  rw [BitVec.extractLsb'_append_eq_of_le (v := 18) (w := 9) (by decide)]
  rw [BitVec.extractLsb'_append_eq_of_le (v := 9) (w := 9) (by decide)]
  exact BitVec.extractLsb'_eq_self

theorem packS_a (hd : BitVec 16) (f : SFields) : (hd ++ packS f).extractLsb' 30 9 = f.a := by
  rw [BitVec.extractLsb'_append_eq_of_add_le (v := 16) (w := 48) (by decide)]
  unfold packS
  rw [BitVec.extractLsb'_append_eq_of_le (v := 46) (w := 2) (by decide)]
  rw [BitVec.extractLsb'_append_eq_of_le (v := 44) (w := 2) (by decide)]
  rw [BitVec.extractLsb'_append_eq_of_le (v := 43) (w := 1) (by decide)]
  rw [BitVec.extractLsb'_append_eq_of_le (v := 27) (w := 16) (by decide)]
  rw [BitVec.extractLsb'_append_eq_of_le (v := 18) (w := 9) (by decide)]
  rw [BitVec.extractLsb'_append_eq_of_add_le (v := 9) (w := 9) (by decide)]
  exact BitVec.extractLsb'_eq_self

theorem packS_b (hd : BitVec 16) (f : SFields) : (hd ++ packS f).extractLsb' 21 9 = f.b := by
  rw [BitVec.extractLsb'_append_eq_of_add_le (v := 16) (w := 48) (by decide)]
  unfold packS
  rw [BitVec.extractLsb'_append_eq_of_le (v := 46) (w := 2) (by decide)]
  rw [BitVec.extractLsb'_append_eq_of_le (v := 44) (w := 2) (by decide)]
  rw [BitVec.extractLsb'_append_eq_of_le (v := 43) (w := 1) (by decide)]
  rw [BitVec.extractLsb'_append_eq_of_le (v := 27) (w := 16) (by decide)]
  rw [BitVec.extractLsb'_append_eq_of_add_le (v := 18) (w := 9) (by decide)]
  exact BitVec.extractLsb'_eq_self

theorem packS_imm (hd : BitVec 16) (f : SFields) : (hd ++ packS f).extractLsb' 5 16 = f.imm := by
  rw [BitVec.extractLsb'_append_eq_of_add_le (v := 16) (w := 48) (by decide)]
  unfold packS
  rw [BitVec.extractLsb'_append_eq_of_le (v := 46) (w := 2) (by decide)]
  rw [BitVec.extractLsb'_append_eq_of_le (v := 44) (w := 2) (by decide)]
  rw [BitVec.extractLsb'_append_eq_of_le (v := 43) (w := 1) (by decide)]
  rw [BitVec.extractLsb'_append_eq_of_add_le (v := 27) (w := 16) (by decide)]
  exact BitVec.extractLsb'_eq_self

theorem packS_ik (hd : BitVec 16) (f : SFields) : (hd ++ packS f).getLsbD 4 = f.ik := by
  rw [getLsbD_app_lo (v := 16) (w := 48) (by decide)]
  unfold packS
  rw [getLsbD_app_hi (v := 46) (w := 2) (by decide)]
  rw [getLsbD_app_hi (v := 44) (w := 2) (by decide)]
  rw [getLsbD_app_lo (v := 43) (w := 1) (by decide)]
  exact getLsbD_one _

theorem packS_sub (hd : BitVec 16) (f : SFields) : (hd ++ packS f).extractLsb' 0 2 = f.sub := by
  rw [BitVec.extractLsb'_append_eq_of_add_le (v := 16) (w := 48) (by decide)]
  unfold packS
  rw [BitVec.extractLsb'_append_eq_of_add_le (v := 46) (w := 2) (by decide)]
  exact BitVec.extractLsb'_eq_self

theorem readS_pack (hd : BitVec 16) (f : SFields) : readS (hd ++ packS f) = f := by
  unfold readS
  rw [packS_d, packS_a, packS_b, packS_imm, packS_ik, packS_sub]

theorem packM_d (hd : BitVec 16) (f : MFields) : (hd ++ packM f).extractLsb' 39 9 = f.d := by
  rw [BitVec.extractLsb'_append_eq_of_add_le (v := 16) (w := 48) (by decide)]
  unfold packM
  rw [BitVec.extractLsb'_append_eq_of_le (v := 32) (w := 16) (by decide)]
  rw [BitVec.extractLsb'_append_eq_of_le (v := 29) (w := 3) (by decide)]
  rw [BitVec.extractLsb'_append_eq_of_le (v := 27) (w := 2) (by decide)]
  rw [BitVec.extractLsb'_append_eq_of_le (v := 25) (w := 2) (by decide)]
  rw [BitVec.extractLsb'_append_eq_of_le (v := 22) (w := 3) (by decide)]
  rw [BitVec.extractLsb'_append_eq_of_le (v := 19) (w := 3) (by decide)]
  rw [BitVec.extractLsb'_append_eq_of_le (v := 18) (w := 1) (by decide)]
  rw [BitVec.extractLsb'_append_eq_of_le (v := 9) (w := 9) (by decide)]
  exact BitVec.extractLsb'_eq_self

theorem packM_a (hd : BitVec 16) (f : MFields) : (hd ++ packM f).extractLsb' 30 9 = f.a := by
  rw [BitVec.extractLsb'_append_eq_of_add_le (v := 16) (w := 48) (by decide)]
  unfold packM
  rw [BitVec.extractLsb'_append_eq_of_le (v := 32) (w := 16) (by decide)]
  rw [BitVec.extractLsb'_append_eq_of_le (v := 29) (w := 3) (by decide)]
  rw [BitVec.extractLsb'_append_eq_of_le (v := 27) (w := 2) (by decide)]
  rw [BitVec.extractLsb'_append_eq_of_le (v := 25) (w := 2) (by decide)]
  rw [BitVec.extractLsb'_append_eq_of_le (v := 22) (w := 3) (by decide)]
  rw [BitVec.extractLsb'_append_eq_of_le (v := 19) (w := 3) (by decide)]
  rw [BitVec.extractLsb'_append_eq_of_le (v := 18) (w := 1) (by decide)]
  rw [BitVec.extractLsb'_append_eq_of_add_le (v := 9) (w := 9) (by decide)]
  exact BitVec.extractLsb'_eq_self

theorem packM_ak (hd : BitVec 16) (f : MFields) : (hd ++ packM f).getLsbD 29 = f.ak := by
  rw [getLsbD_app_lo (v := 16) (w := 48) (by decide)]
  unfold packM
  rw [getLsbD_app_hi (v := 32) (w := 16) (by decide)]
  rw [getLsbD_app_hi (v := 29) (w := 3) (by decide)]
  rw [getLsbD_app_hi (v := 27) (w := 2) (by decide)]
  rw [getLsbD_app_hi (v := 25) (w := 2) (by decide)]
  rw [getLsbD_app_hi (v := 22) (w := 3) (by decide)]
  rw [getLsbD_app_hi (v := 19) (w := 3) (by decide)]
  rw [getLsbD_app_lo (v := 18) (w := 1) (by decide)]
  exact getLsbD_one _

theorem packM_size (hd : BitVec 16) (f : MFields) : (hd ++ packM f).extractLsb' 26 3 = f.size := by
  rw [BitVec.extractLsb'_append_eq_of_add_le (v := 16) (w := 48) (by decide)]
  unfold packM
  rw [BitVec.extractLsb'_append_eq_of_le (v := 32) (w := 16) (by decide)]
  rw [BitVec.extractLsb'_append_eq_of_le (v := 29) (w := 3) (by decide)]
  rw [BitVec.extractLsb'_append_eq_of_le (v := 27) (w := 2) (by decide)]
  rw [BitVec.extractLsb'_append_eq_of_le (v := 25) (w := 2) (by decide)]
  rw [BitVec.extractLsb'_append_eq_of_le (v := 22) (w := 3) (by decide)]
  rw [BitVec.extractLsb'_append_eq_of_add_le (v := 19) (w := 3) (by decide)]
  exact BitVec.extractLsb'_eq_self

theorem packM_scope (hd : BitVec 16) (f : MFields) : (hd ++ packM f).extractLsb' 23 3 = f.scope := by
  rw [BitVec.extractLsb'_append_eq_of_add_le (v := 16) (w := 48) (by decide)]
  unfold packM
  rw [BitVec.extractLsb'_append_eq_of_le (v := 32) (w := 16) (by decide)]
  rw [BitVec.extractLsb'_append_eq_of_le (v := 29) (w := 3) (by decide)]
  rw [BitVec.extractLsb'_append_eq_of_le (v := 27) (w := 2) (by decide)]
  rw [BitVec.extractLsb'_append_eq_of_le (v := 25) (w := 2) (by decide)]
  rw [BitVec.extractLsb'_append_eq_of_add_le (v := 22) (w := 3) (by decide)]
  exact BitVec.extractLsb'_eq_self

theorem packM_ord (hd : BitVec 16) (f : MFields) : (hd ++ packM f).extractLsb' 21 2 = f.ord := by
  rw [BitVec.extractLsb'_append_eq_of_add_le (v := 16) (w := 48) (by decide)]
  unfold packM
  rw [BitVec.extractLsb'_append_eq_of_le (v := 32) (w := 16) (by decide)]
  rw [BitVec.extractLsb'_append_eq_of_le (v := 29) (w := 3) (by decide)]
  rw [BitVec.extractLsb'_append_eq_of_le (v := 27) (w := 2) (by decide)]
  rw [BitVec.extractLsb'_append_eq_of_add_le (v := 25) (w := 2) (by decide)]
  exact BitVec.extractLsb'_eq_self

theorem packM_ch (hd : BitVec 16) (f : MFields) : (hd ++ packM f).extractLsb' 19 2 = f.ch := by
  rw [BitVec.extractLsb'_append_eq_of_add_le (v := 16) (w := 48) (by decide)]
  unfold packM
  rw [BitVec.extractLsb'_append_eq_of_le (v := 32) (w := 16) (by decide)]
  rw [BitVec.extractLsb'_append_eq_of_le (v := 29) (w := 3) (by decide)]
  rw [BitVec.extractLsb'_append_eq_of_add_le (v := 27) (w := 2) (by decide)]
  exact BitVec.extractLsb'_eq_self

theorem packM_sub (hd : BitVec 16) (f : MFields) : (hd ++ packM f).extractLsb' 16 3 = f.sub := by
  rw [BitVec.extractLsb'_append_eq_of_add_le (v := 16) (w := 48) (by decide)]
  unfold packM
  rw [BitVec.extractLsb'_append_eq_of_le (v := 32) (w := 16) (by decide)]
  rw [BitVec.extractLsb'_append_eq_of_add_le (v := 29) (w := 3) (by decide)]
  exact BitVec.extractLsb'_eq_self

theorem packM_off (hd : BitVec 16) (f : MFields) : (hd ++ packM f).extractLsb' 0 16 = f.off := by
  rw [BitVec.extractLsb'_append_eq_of_add_le (v := 16) (w := 48) (by decide)]
  unfold packM
  rw [BitVec.extractLsb'_append_eq_of_add_le (v := 32) (w := 16) (by decide)]
  exact BitVec.extractLsb'_eq_self

theorem readM_pack (hd : BitVec 16) (f : MFields) : readM (hd ++ packM f) = f := by
  unfold readM
  rw [packM_d, packM_a, packM_ak, packM_size, packM_scope, packM_ord, packM_ch, packM_sub, packM_off]

theorem packB_off (hd : BitVec 16) (mode : BitVec 2) (f : BFields) : (hd ++ packB mode f).extractLsb' 24 24 = f.off := by
  rw [BitVec.extractLsb'_append_eq_of_add_le (v := 16) (w := 48) (by decide)]
  unfold packB
  rw [BitVec.extractLsb'_append_eq_of_le (v := 46) (w := 2) (by decide)]
  rw [BitVec.extractLsb'_append_eq_of_le (v := 44) (w := 2) (by decide)]
  rw [BitVec.extractLsb'_append_eq_of_le (v := 41) (w := 3) (by decide)]
  rw [BitVec.extractLsb'_append_eq_of_le (v := 40) (w := 1) (by decide)]
  rw [BitVec.extractLsb'_append_eq_of_le (v := 32) (w := 8) (by decide)]
  rw [BitVec.extractLsb'_append_eq_of_le (v := 24) (w := 8) (by decide)]
  exact BitVec.extractLsb'_eq_self

theorem packB_tprio (hd : BitVec 16) (mode : BitVec 2) (f : BFields) : (hd ++ packB mode f).extractLsb' 16 8 = f.tprio := by
  rw [BitVec.extractLsb'_append_eq_of_add_le (v := 16) (w := 48) (by decide)]
  unfold packB
  rw [BitVec.extractLsb'_append_eq_of_le (v := 46) (w := 2) (by decide)]
  rw [BitVec.extractLsb'_append_eq_of_le (v := 44) (w := 2) (by decide)]
  rw [BitVec.extractLsb'_append_eq_of_le (v := 41) (w := 3) (by decide)]
  rw [BitVec.extractLsb'_append_eq_of_le (v := 40) (w := 1) (by decide)]
  rw [BitVec.extractLsb'_append_eq_of_le (v := 32) (w := 8) (by decide)]
  rw [BitVec.extractLsb'_append_eq_of_add_le (v := 24) (w := 8) (by decide)]
  exact BitVec.extractLsb'_eq_self

theorem packB_fprio (hd : BitVec 16) (mode : BitVec 2) (f : BFields) : (hd ++ packB mode f).extractLsb' 8 8 = f.fprio := by
  rw [BitVec.extractLsb'_append_eq_of_add_le (v := 16) (w := 48) (by decide)]
  unfold packB
  rw [BitVec.extractLsb'_append_eq_of_le (v := 46) (w := 2) (by decide)]
  rw [BitVec.extractLsb'_append_eq_of_le (v := 44) (w := 2) (by decide)]
  rw [BitVec.extractLsb'_append_eq_of_le (v := 41) (w := 3) (by decide)]
  rw [BitVec.extractLsb'_append_eq_of_le (v := 40) (w := 1) (by decide)]
  rw [BitVec.extractLsb'_append_eq_of_add_le (v := 32) (w := 8) (by decide)]
  exact BitVec.extractLsb'_eq_self

theorem packB_cn (hd : BitVec 16) (mode : BitVec 2) (f : BFields) : (hd ++ packB mode f).getLsbD 7 = f.cn := by
  rw [getLsbD_app_lo (v := 16) (w := 48) (by decide)]
  unfold packB
  rw [getLsbD_app_hi (v := 46) (w := 2) (by decide)]
  rw [getLsbD_app_hi (v := 44) (w := 2) (by decide)]
  rw [getLsbD_app_hi (v := 41) (w := 3) (by decide)]
  rw [getLsbD_app_lo (v := 40) (w := 1) (by decide)]
  exact getLsbD_one _

theorem packB_cp (hd : BitVec 16) (mode : BitVec 2) (f : BFields) : (hd ++ packB mode f).extractLsb' 4 3 = f.cp := by
  rw [BitVec.extractLsb'_append_eq_of_add_le (v := 16) (w := 48) (by decide)]
  unfold packB
  rw [BitVec.extractLsb'_append_eq_of_le (v := 46) (w := 2) (by decide)]
  rw [BitVec.extractLsb'_append_eq_of_le (v := 44) (w := 2) (by decide)]
  rw [BitVec.extractLsb'_append_eq_of_add_le (v := 41) (w := 3) (by decide)]
  exact BitVec.extractLsb'_eq_self

theorem packB_mode (hd : BitVec 16) (mode : BitVec 2) (f : BFields) : (hd ++ packB mode f).extractLsb' 2 2 = mode := by
  rw [BitVec.extractLsb'_append_eq_of_add_le (v := 16) (w := 48) (by decide)]
  unfold packB
  rw [BitVec.extractLsb'_append_eq_of_le (v := 46) (w := 2) (by decide)]
  rw [BitVec.extractLsb'_append_eq_of_add_le (v := 44) (w := 2) (by decide)]
  exact BitVec.extractLsb'_eq_self

theorem packB_sub (hd : BitVec 16) (mode : BitVec 2) (f : BFields) : (hd ++ packB mode f).extractLsb' 0 2 = f.sub := by
  rw [BitVec.extractLsb'_append_eq_of_add_le (v := 16) (w := 48) (by decide)]
  unfold packB
  rw [BitVec.extractLsb'_append_eq_of_add_le (v := 46) (w := 2) (by decide)]
  exact BitVec.extractLsb'_eq_self

theorem readMode_pack (hd : BitVec 16) (mode : BitVec 2) (f : BFields) : readMode (hd ++ packB mode f) = mode := packB_mode hd mode f

theorem readB_pack (hd : BitVec 16) (mode : BitVec 2) (f : BFields) : readB (hd ++ packB mode f) = f := by
  unfold readB
  rw [packB_off, packB_tprio, packB_fprio, packB_cn, packB_cp, packB_sub]

theorem packC_d (hd : BitVec 16) (f : CFields) : (hd ++ packC f).extractLsb' 39 9 = f.d := by
  rw [BitVec.extractLsb'_append_eq_of_add_le (v := 16) (w := 48) (by decide)]
  unfold packC
  rw [BitVec.extractLsb'_append_eq_of_le (v := 46) (w := 2) (by decide)]
  rw [BitVec.extractLsb'_append_eq_of_le (v := 42) (w := 4) (by decide)]
  rw [BitVec.extractLsb'_append_eq_of_le (v := 36) (w := 6) (by decide)]
  rw [BitVec.extractLsb'_append_eq_of_le (v := 27) (w := 9) (by decide)]
  rw [BitVec.extractLsb'_append_eq_of_le (v := 18) (w := 9) (by decide)]
  rw [BitVec.extractLsb'_append_eq_of_le (v := 9) (w := 9) (by decide)]
  exact BitVec.extractLsb'_eq_self

theorem packC_a (hd : BitVec 16) (f : CFields) : (hd ++ packC f).extractLsb' 30 9 = f.a := by
  rw [BitVec.extractLsb'_append_eq_of_add_le (v := 16) (w := 48) (by decide)]
  unfold packC
  rw [BitVec.extractLsb'_append_eq_of_le (v := 46) (w := 2) (by decide)]
  rw [BitVec.extractLsb'_append_eq_of_le (v := 42) (w := 4) (by decide)]
  rw [BitVec.extractLsb'_append_eq_of_le (v := 36) (w := 6) (by decide)]
  rw [BitVec.extractLsb'_append_eq_of_le (v := 27) (w := 9) (by decide)]
  rw [BitVec.extractLsb'_append_eq_of_le (v := 18) (w := 9) (by decide)]
  rw [BitVec.extractLsb'_append_eq_of_add_le (v := 9) (w := 9) (by decide)]
  exact BitVec.extractLsb'_eq_self

theorem packC_b (hd : BitVec 16) (f : CFields) : (hd ++ packC f).extractLsb' 21 9 = f.b := by
  rw [BitVec.extractLsb'_append_eq_of_add_le (v := 16) (w := 48) (by decide)]
  unfold packC
  rw [BitVec.extractLsb'_append_eq_of_le (v := 46) (w := 2) (by decide)]
  rw [BitVec.extractLsb'_append_eq_of_le (v := 42) (w := 4) (by decide)]
  rw [BitVec.extractLsb'_append_eq_of_le (v := 36) (w := 6) (by decide)]
  rw [BitVec.extractLsb'_append_eq_of_le (v := 27) (w := 9) (by decide)]
  rw [BitVec.extractLsb'_append_eq_of_add_le (v := 18) (w := 9) (by decide)]
  exact BitVec.extractLsb'_eq_self

theorem packC_e (hd : BitVec 16) (f : CFields) : (hd ++ packC f).extractLsb' 12 9 = f.e := by
  rw [BitVec.extractLsb'_append_eq_of_add_le (v := 16) (w := 48) (by decide)]
  unfold packC
  rw [BitVec.extractLsb'_append_eq_of_le (v := 46) (w := 2) (by decide)]
  rw [BitVec.extractLsb'_append_eq_of_le (v := 42) (w := 4) (by decide)]
  rw [BitVec.extractLsb'_append_eq_of_le (v := 36) (w := 6) (by decide)]
  rw [BitVec.extractLsb'_append_eq_of_add_le (v := 27) (w := 9) (by decide)]
  exact BitVec.extractLsb'_eq_self

theorem packC_tag (hd : BitVec 16) (f : CFields) : (hd ++ packC f).extractLsb' 6 6 = f.tag := by
  rw [BitVec.extractLsb'_append_eq_of_add_le (v := 16) (w := 48) (by decide)]
  unfold packC
  rw [BitVec.extractLsb'_append_eq_of_le (v := 46) (w := 2) (by decide)]
  rw [BitVec.extractLsb'_append_eq_of_le (v := 42) (w := 4) (by decide)]
  rw [BitVec.extractLsb'_append_eq_of_add_le (v := 36) (w := 6) (by decide)]
  exact BitVec.extractLsb'_eq_self

theorem packC_mode (hd : BitVec 16) (f : CFields) : (hd ++ packC f).extractLsb' 2 4 = f.mode := by
  rw [BitVec.extractLsb'_append_eq_of_add_le (v := 16) (w := 48) (by decide)]
  unfold packC
  rw [BitVec.extractLsb'_append_eq_of_le (v := 46) (w := 2) (by decide)]
  rw [BitVec.extractLsb'_append_eq_of_add_le (v := 42) (w := 4) (by decide)]
  exact BitVec.extractLsb'_eq_self

theorem packC_sub (hd : BitVec 16) (f : CFields) : (hd ++ packC f).extractLsb' 0 2 = f.sub := by
  rw [BitVec.extractLsb'_append_eq_of_add_le (v := 16) (w := 48) (by decide)]
  unfold packC
  rw [BitVec.extractLsb'_append_eq_of_add_le (v := 46) (w := 2) (by decide)]
  exact BitVec.extractLsb'_eq_self

theorem readC_pack (hd : BitVec 16) (f : CFields) : readC (hd ++ packC f) = f := by
  unfold readC
  rw [packC_d, packC_a, packC_b, packC_e, packC_tag, packC_mode, packC_sub]

theorem packX_w (hd : BitVec 16) (f : XFields) : (hd ++ packX f).extractLsb' 39 9 = f.w := by
  rw [BitVec.extractLsb'_append_eq_of_add_le (v := 16) (w := 48) (by decide)]
  unfold packX
  rw [BitVec.extractLsb'_append_eq_of_le (v := 46) (w := 2) (by decide)]
  rw [BitVec.extractLsb'_append_eq_of_le (v := 40) (w := 6) (by decide)]
  rw [BitVec.extractLsb'_append_eq_of_le (v := 27) (w := 13) (by decide)]
  rw [BitVec.extractLsb'_append_eq_of_le (v := 18) (w := 9) (by decide)]
  rw [BitVec.extractLsb'_append_eq_of_le (v := 9) (w := 9) (by decide)]
  exact BitVec.extractLsb'_eq_self

theorem packX_a (hd : BitVec 16) (f : XFields) : (hd ++ packX f).extractLsb' 30 9 = f.a := by
  rw [BitVec.extractLsb'_append_eq_of_add_le (v := 16) (w := 48) (by decide)]
  unfold packX
  rw [BitVec.extractLsb'_append_eq_of_le (v := 46) (w := 2) (by decide)]
  rw [BitVec.extractLsb'_append_eq_of_le (v := 40) (w := 6) (by decide)]
  rw [BitVec.extractLsb'_append_eq_of_le (v := 27) (w := 13) (by decide)]
  rw [BitVec.extractLsb'_append_eq_of_le (v := 18) (w := 9) (by decide)]
  rw [BitVec.extractLsb'_append_eq_of_add_le (v := 9) (w := 9) (by decide)]
  exact BitVec.extractLsb'_eq_self

theorem packX_b (hd : BitVec 16) (f : XFields) : (hd ++ packX f).extractLsb' 21 9 = f.b := by
  rw [BitVec.extractLsb'_append_eq_of_add_le (v := 16) (w := 48) (by decide)]
  unfold packX
  rw [BitVec.extractLsb'_append_eq_of_le (v := 46) (w := 2) (by decide)]
  rw [BitVec.extractLsb'_append_eq_of_le (v := 40) (w := 6) (by decide)]
  rw [BitVec.extractLsb'_append_eq_of_le (v := 27) (w := 13) (by decide)]
  rw [BitVec.extractLsb'_append_eq_of_add_le (v := 18) (w := 9) (by decide)]
  exact BitVec.extractLsb'_eq_self

theorem packX_cboff (hd : BitVec 16) (f : XFields) : (hd ++ packX f).extractLsb' 8 13 = f.cboff := by
  rw [BitVec.extractLsb'_append_eq_of_add_le (v := 16) (w := 48) (by decide)]
  unfold packX
  rw [BitVec.extractLsb'_append_eq_of_le (v := 46) (w := 2) (by decide)]
  rw [BitVec.extractLsb'_append_eq_of_le (v := 40) (w := 6) (by decide)]
  rw [BitVec.extractLsb'_append_eq_of_add_le (v := 27) (w := 13) (by decide)]
  exact BitVec.extractLsb'_eq_self

theorem packX_var (hd : BitVec 16) (f : XFields) : (hd ++ packX f).extractLsb' 2 6 = f.var := by
  rw [BitVec.extractLsb'_append_eq_of_add_le (v := 16) (w := 48) (by decide)]
  unfold packX
  rw [BitVec.extractLsb'_append_eq_of_le (v := 46) (w := 2) (by decide)]
  rw [BitVec.extractLsb'_append_eq_of_add_le (v := 40) (w := 6) (by decide)]
  exact BitVec.extractLsb'_eq_self

theorem packX_sub (hd : BitVec 16) (f : XFields) : (hd ++ packX f).extractLsb' 0 2 = f.sub := by
  rw [BitVec.extractLsb'_append_eq_of_add_le (v := 16) (w := 48) (by decide)]
  unfold packX
  rw [BitVec.extractLsb'_append_eq_of_add_le (v := 46) (w := 2) (by decide)]
  exact BitVec.extractLsb'_eq_self

theorem readX_pack (hd : BitVec 16) (f : XFields) : readX (hd ++ packX f) = f := by
  unfold readX
  rw [packX_w, packX_a, packX_b, packX_cboff, packX_var, packX_sub]

theorem packY_imm (hd : BitVec 16) (f : YFields) : (hd ++ packY f).extractLsb' 32 16 = f.imm := by
  rw [BitVec.extractLsb'_append_eq_of_add_le (v := 16) (w := 48) (by decide)]
  unfold packY
  rw [BitVec.extractLsb'_append_eq_of_le (v := 46) (w := 2) (by decide)]
  rw [BitVec.extractLsb'_append_eq_of_le (v := 34) (w := 12) (by decide)]
  rw [BitVec.extractLsb'_append_eq_of_le (v := 25) (w := 9) (by decide)]
  rw [BitVec.extractLsb'_append_eq_of_le (v := 16) (w := 9) (by decide)]
  exact BitVec.extractLsb'_eq_self

theorem packY_d (hd : BitVec 16) (f : YFields) : (hd ++ packY f).extractLsb' 23 9 = f.d := by
  rw [BitVec.extractLsb'_append_eq_of_add_le (v := 16) (w := 48) (by decide)]
  unfold packY
  rw [BitVec.extractLsb'_append_eq_of_le (v := 46) (w := 2) (by decide)]
  rw [BitVec.extractLsb'_append_eq_of_le (v := 34) (w := 12) (by decide)]
  rw [BitVec.extractLsb'_append_eq_of_le (v := 25) (w := 9) (by decide)]
  rw [BitVec.extractLsb'_append_eq_of_add_le (v := 16) (w := 9) (by decide)]
  exact BitVec.extractLsb'_eq_self

theorem packY_a (hd : BitVec 16) (f : YFields) : (hd ++ packY f).extractLsb' 14 9 = f.a := by
  rw [BitVec.extractLsb'_append_eq_of_add_le (v := 16) (w := 48) (by decide)]
  unfold packY
  rw [BitVec.extractLsb'_append_eq_of_le (v := 46) (w := 2) (by decide)]
  rw [BitVec.extractLsb'_append_eq_of_le (v := 34) (w := 12) (by decide)]
  rw [BitVec.extractLsb'_append_eq_of_add_le (v := 25) (w := 9) (by decide)]
  exact BitVec.extractLsb'_eq_self

theorem packY_sub (hd : BitVec 16) (f : YFields) : (hd ++ packY f).extractLsb' 0 2 = f.sub := by
  rw [BitVec.extractLsb'_append_eq_of_add_le (v := 16) (w := 48) (by decide)]
  unfold packY
  rw [BitVec.extractLsb'_append_eq_of_add_le (v := 46) (w := 2) (by decide)]
  exact BitVec.extractLsb'_eq_self

theorem readY_pack (hd : BitVec 16) (f : YFields) : readY (hd ++ packY f) = f := by
  unfold readY
  rw [packY_imm, packY_d, packY_a, packY_sub]

end Sys2Proof.Machine
end

