-- ==== Sys2Proof/Laws/PerInstr.lean ====
section
/-! SUPPORT. For each constructor of `Instr`: the fields of its words, read back, give the constructor again (02 R23 to R32). -/

namespace Sys2Proof.Laws.Word

open Sys2Proof Sys2Proof.Machine

/-- An instruction's own words, read as a legal word is read, hold that instruction; its SUB is that of its constructor. -/
def Statement (i : Instr) : Prop :=
  ∀ l x, layoutOf i = some l → subAgrees i = true → (l.ext = none ∨ l.ext = some x) → decodeLegal l.word x = some i

/-- The words of an instruction, from its opcode, header and body. -/
theorem words_eq {o : BitVec 8} {h : Hdr} {b : BitVec 48} {l : Words} (e : words o h b = some l) :
    l.word = packHdr o h ++ b ∧ l.ext = h.x := by
  cases e
  exact ⟨rfl, rfl⟩

theorem decodeV {o : BitVec 8} {h : Hdr} {f : VFields} {l : Words} {x : Word} {i : Instr} (k : Hdr → VFields → Instr)
    (e : words o h (packV f) = some l) (hx : l.ext = none ∨ l.ext = some x) (hf : formatOf o.toNat = some .V)
    (hk : ctorV o.toNat = some k) (hi : k h f = i) : decodeLegal l.word x = some i := by
  obtain ⟨hw, he⟩ := words_eq e
  rw [he] at hx
  rw [hw, decodeLegal, readOpc_pack, readHdr_pack _ _ _ _ hx, hf]
  simp only [hk, readV_pack, Option.map_some, hi]

theorem decodeS {o : BitVec 8} {h : Hdr} {f : SFields} {l : Words} {x : Word} {i : Instr} (k : Hdr → SFields → Instr)
    (e : words o h (packS f) = some l) (hx : l.ext = none ∨ l.ext = some x) (hf : formatOf o.toNat = some .S)
    (hk : ctorS o.toNat = some k) (hi : k h f = i) : decodeLegal l.word x = some i := by
  obtain ⟨hw, he⟩ := words_eq e
  rw [he] at hx
  rw [hw, decodeLegal, readOpc_pack, readHdr_pack _ _ _ _ hx, hf]
  simp only [hk, readS_pack, Option.map_some, hi]

theorem decodeM {o : BitVec 8} {h : Hdr} {f : MFields} {l : Words} {x : Word} {i : Instr} (k : Hdr → MFields → Instr)
    (e : words o h (packM f) = some l) (hx : l.ext = none ∨ l.ext = some x) (hf : formatOf o.toNat = some .M)
    (hk : ctorM o.toNat = some k) (hi : k h f = i) : decodeLegal l.word x = some i := by
  obtain ⟨hw, he⟩ := words_eq e
  rw [he] at hx
  rw [hw, decodeLegal, readOpc_pack, readHdr_pack _ _ _ _ hx, hf]
  simp only [hk, readM_pack, Option.map_some, hi]

theorem decodeC {o : BitVec 8} {h : Hdr} {f : CFields} {l : Words} {x : Word} {i : Instr} (k : Hdr → CFields → Instr)
    (e : words o h (packC f) = some l) (hx : l.ext = none ∨ l.ext = some x) (hf : formatOf o.toNat = some .C)
    (hk : ctorC o.toNat = some k) (hi : k h f = i) : decodeLegal l.word x = some i := by
  obtain ⟨hw, he⟩ := words_eq e
  rw [he] at hx
  rw [hw, decodeLegal, readOpc_pack, readHdr_pack _ _ _ _ hx, hf]
  simp only [hk, readC_pack, Option.map_some, hi]

theorem decodeY {o : BitVec 8} {h : Hdr} {f : YFields} {l : Words} {x : Word} {i : Instr} (k : Hdr → YFields → Instr)
    (e : words o h (packY f) = some l) (hx : l.ext = none ∨ l.ext = some x) (hf : formatOf o.toNat = some .Y)
    (hk : ctorY o.toNat = some k) (hi : k h f = i) : decodeLegal l.word x = some i := by
  obtain ⟨hw, he⟩ := words_eq e
  rw [he] at hx
  rw [hw, decodeLegal, readOpc_pack, readHdr_pack _ _ _ _ hx, hf]
  simp only [hk, readY_pack, Option.map_some, hi]

theorem decodeB {h : Hdr} {f : BFields} {mode : BitVec 2} {l : Words} {x : Word} {i : Instr} (k : Hdr → BFields → Instr)
    (e : words 0x10#8 h (packB mode f) = some l) (hx : l.ext = none ∨ l.ext = some x)
    (hk : ctorB mode.toNat = some k) (hi : k h f = i) : decodeLegal l.word x = some i := by
  obtain ⟨hw, he⟩ := words_eq e
  rw [he] at hx
  rw [hw, decodeLegal, readOpc_pack, readHdr_pack _ _ _ _ hx, show formatOf (0x10#8).toNat = some .B from rfl]
  simp only [readMode_pack, hk, readB_pack, Option.map_some, hi]

theorem decodeX {o : BitVec 8} {h : Hdr} {f : XFields} {l : Words} {x : Word} {i : Instr} (k : Hdr → XFields → Instr)
    (e : words o h (packX f) = some l) (hx : l.ext = none ∨ l.ext = some x) (hf : formatOf o.toNat = some .X)
    (hk : ctorX o.toNat f.sub.toNat = some k) (hi : k h f = i) : decodeLegal l.word x = some i := by
  obtain ⟨hw, he⟩ := words_eq e
  rw [he] at hx
  rw [hw, decodeLegal, readOpc_pack, readHdr_pack _ _ _ _ hx, hf]
  simp only [readX_pack, hk, Option.map_some, hi]

theorem nop : ∀ a0 a1, Statement (.nop a0 a1) :=
  fun _ _ _ _ e _ hx => decodeY .nop e hx rfl rfl rfl
theorem exit : ∀ a0 a1, Statement (.exit a0 a1) :=
  fun _ _ _ _ e _ hx => decodeY .exit e hx rfl rfl rfl
theorem yield : ∀ a0 a1, Statement (.yield a0 a1) :=
  fun _ _ _ _ e _ hx => decodeY .yield e hx rfl rfl rfl
theorem trap : ∀ a0 a1, Statement (.trap a0 a1) :=
  fun _ _ _ _ e _ hx => decodeY .trap e hx rfl rfl rfl
theorem tret : ∀ a0 a1, Statement (.tret a0 a1) :=
  fun _ _ _ _ e _ hx => decodeY .tret e hx rfl rfl rfl
theorem bkpt : ∀ a0 a1, Statement (.bkpt a0 a1) :=
  fun _ _ _ _ e _ hx => decodeY .bkpt e hx rfl rfl rfl
theorem sysrd : ∀ a0 a1, Statement (.sysrd a0 a1) :=
  fun _ _ _ _ e _ hx => decodeY .sysrd e hx rfl rfl rfl
theorem syswr : ∀ a0 a1, Statement (.syswr a0 a1) :=
  fun _ _ _ _ e _ hx => decodeY .syswr e hx rfl rfl rfl
theorem fence : ∀ a0 a1, Statement (.fence a0 a1) :=
  fun _ _ _ _ e _ hx => decodeY .fence e hx rfl rfl rfl
theorem waitw : ∀ a0 a1, Statement (.waitw a0 a1) :=
  fun _ _ _ _ e _ hx => decodeY .waitw e hx rfl rfl rfl
theorem bar : ∀ a0 a1, Statement (.bar a0 a1) :=
  fun _ _ _ _ e _ hx => decodeY .bar e hx rfl rfl rfl
theorem br : ∀ a0 a1, Statement (.br a0 a1) :=
  fun _ _ _ _ e _ hx => decodeB .br e hx rfl rfl
theorem bru : ∀ a0 a1, Statement (.bru a0 a1) :=
  fun _ _ _ _ e _ hx => decodeB .bru e hx rfl rfl
theorem brs : ∀ a0 a1, Statement (.brs a0 a1) :=
  fun _ _ _ _ e _ hx => decodeB .brs e hx rfl rfl
theorem jal : ∀ a0 a1, Statement (.jal a0 a1) :=
  fun _ _ _ _ e _ hx => decodeY .jal e hx rfl rfl rfl
theorem jmp : ∀ a0 a1, Statement (.jmp a0 a1) :=
  fun _ _ _ _ e _ hx => decodeY .jmp e hx rfl rfl rfl
theorem setprio : ∀ a0 a1, Statement (.setprio a0 a1) :=
  fun _ _ _ _ e _ hx => decodeY .setprio e hx rfl rfl rfl
theorem cvset : ∀ a0 a1, Statement (.cvset a0 a1) :=
  fun _ _ _ _ e _ hx => decodeY .cvset e hx rfl rfl rfl
theorem cvsign : ∀ a0 a1, Statement (.cvsign a0 a1) :=
  fun _ _ _ _ e _ hx => decodeY .cvsign e hx rfl rfl rfl
theorem cvwait : ∀ a0 a1, Statement (.cvwait a0 a1) :=
  fun _ _ _ _ e _ hx => decodeY .cvwait e hx rfl rfl rfl
theorem spawn : ∀ a0 a1, Statement (.spawn a0 a1) :=
  fun _ _ _ _ e _ hx => decodeY .spawn e hx rfl rfl rfl
theorem repack : ∀ a0 a1, Statement (.repack a0 a1) :=
  fun _ _ _ _ e _ hx => decodeY .repack e hx rfl rfl rfl
theorem iadd : ∀ a0 a1, Statement (.iadd a0 a1) :=
  fun _ _ _ _ e _ hx => decodeV .iadd e hx rfl rfl rfl
theorem isub : ∀ a0 a1, Statement (.isub a0 a1) :=
  fun _ _ _ _ e _ hx => decodeV .isub e hx rfl rfl rfl
theorem imul : ∀ a0 a1, Statement (.imul a0 a1) :=
  fun _ _ _ _ e _ hx => decodeV .imul e hx rfl rfl rfl
theorem imad : ∀ a0 a1, Statement (.imad a0 a1) :=
  fun _ _ _ _ e _ hx => decodeV .imad e hx rfl rfl rfl
theorem imin : ∀ a0 a1, Statement (.imin a0 a1) :=
  fun _ _ _ _ e _ hx => decodeV .imin e hx rfl rfl rfl
theorem imax : ∀ a0 a1, Statement (.imax a0 a1) :=
  fun _ _ _ _ e _ hx => decodeV .imax e hx rfl rfl rfl
theorem iabs : ∀ a0 a1, Statement (.iabs a0 a1) :=
  fun _ _ _ _ e _ hx => decodeV .iabs e hx rfl rfl rfl
theorem idiv : ∀ a0 a1, Statement (.idiv a0 a1) :=
  fun _ _ _ _ e _ hx => decodeV .idiv e hx rfl rfl rfl
theorem irem : ∀ a0 a1, Statement (.irem a0 a1) :=
  fun _ _ _ _ e _ hx => decodeV .irem e hx rfl rfl rfl
theorem iaddc : ∀ a0 a1, Statement (.iaddc a0 a1) :=
  fun _ _ _ _ e _ hx => decodeV .iaddc e hx rfl rfl rfl
theorem and : ∀ a0 a1, Statement (.and a0 a1) :=
  fun _ _ _ _ e _ hx => decodeV .and e hx rfl rfl rfl
theorem or : ∀ a0 a1, Statement (.or a0 a1) :=
  fun _ _ _ _ e _ hx => decodeV .or e hx rfl rfl rfl
theorem xor : ∀ a0 a1, Statement (.xor a0 a1) :=
  fun _ _ _ _ e _ hx => decodeV .xor e hx rfl rfl rfl
theorem bmix : ∀ a0 a1, Statement (.bmix a0 a1) :=
  fun _ _ _ _ e _ hx => decodeV .bmix e hx rfl rfl rfl
theorem shl : ∀ a0 a1, Statement (.shl a0 a1) :=
  fun _ _ _ _ e _ hx => decodeV .shl e hx rfl rfl rfl
theorem shr : ∀ a0 a1, Statement (.shr a0 a1) :=
  fun _ _ _ _ e _ hx => decodeV .shr e hx rfl rfl rfl
theorem rot : ∀ a0 a1, Statement (.rot a0 a1) :=
  fun _ _ _ _ e _ hx => decodeV .rot e hx rfl rfl rfl
theorem funnel : ∀ a0 a1, Statement (.funnel a0 a1) :=
  fun _ _ _ _ e _ hx => decodeV .funnel e hx rfl rfl rfl
theorem bfe : ∀ a0 a1, Statement (.bfe a0 a1) :=
  fun _ _ _ _ e _ hx => decodeV .bfe e hx rfl rfl rfl
theorem bfi : ∀ a0 a1, Statement (.bfi a0 a1) :=
  fun _ _ _ _ e _ hx => decodeV .bfi e hx rfl rfl rfl
theorem popc : ∀ a0 a1, Statement (.popc a0 a1) :=
  fun _ _ _ _ e _ hx => decodeV .popc e hx rfl rfl rfl
theorem clz : ∀ a0 a1, Statement (.clz a0 a1) :=
  fun _ _ _ _ e _ hx => decodeV .clz e hx rfl rfl rfl
theorem brev : ∀ a0 a1, Statement (.brev a0 a1) :=
  fun _ _ _ _ e _ hx => decodeV .brev e hx rfl rfl rfl
theorem icmp : ∀ a0 a1, Statement (.icmp a0 a1) :=
  fun _ _ _ _ e _ hx => decodeV .icmp e hx rfl rfl rfl
theorem sel : ∀ a0 a1, Statement (.sel a0 a1) :=
  fun _ _ _ _ e _ hx => decodeV .sel e hx rfl rfl rfl
theorem mov : ∀ a0 a1, Statement (.mov a0 a1) :=
  fun _ _ _ _ e _ hx => decodeV .mov e hx rfl rfl rfl
theorem lea : ∀ a0 a1, Statement (.lea a0 a1) :=
  fun _ _ _ _ e _ hx => decodeV .lea e hx rfl rfl rfl
theorem idp4 : ∀ a0 a1, Statement (.idp4 a0 a1) :=
  fun _ _ _ _ e _ hx => decodeV .idp4 e hx rfl rfl rfl
theorem sad : ∀ a0 a1, Statement (.sad a0 a1) :=
  fun _ _ _ _ e _ hx => decodeV .sad e hx rfl rfl rfl
theorem fadd : ∀ a0 a1, Statement (.fadd a0 a1) :=
  fun _ _ _ _ e _ hx => decodeV .fadd e hx rfl rfl rfl
theorem fsub : ∀ a0 a1, Statement (.fsub a0 a1) :=
  fun _ _ _ _ e _ hx => decodeV .fsub e hx rfl rfl rfl
theorem fmul : ∀ a0 a1, Statement (.fmul a0 a1) :=
  fun _ _ _ _ e _ hx => decodeV .fmul e hx rfl rfl rfl
theorem fma : ∀ a0 a1, Statement (.fma a0 a1) :=
  fun _ _ _ _ e _ hx => decodeV .fma e hx rfl rfl rfl
theorem fmin : ∀ a0 a1, Statement (.fmin a0 a1) :=
  fun _ _ _ _ e _ hx => decodeV .fmin e hx rfl rfl rfl
theorem fmax : ∀ a0 a1, Statement (.fmax a0 a1) :=
  fun _ _ _ _ e _ hx => decodeV .fmax e hx rfl rfl rfl
theorem fneg : ∀ a0 a1, Statement (.fneg a0 a1) :=
  fun _ _ _ _ e _ hx => decodeV .fneg e hx rfl rfl rfl
theorem fabs : ∀ a0 a1, Statement (.fabs a0 a1) :=
  fun _ _ _ _ e _ hx => decodeV .fabs e hx rfl rfl rfl
theorem fcmp : ∀ a0 a1, Statement (.fcmp a0 a1) :=
  fun _ _ _ _ e _ hx => decodeV .fcmp e hx rfl rfl rfl
theorem fdiv : ∀ a0 a1, Statement (.fdiv a0 a1) :=
  fun _ _ _ _ e _ hx => decodeV .fdiv e hx rfl rfl rfl
theorem fsqrt : ∀ a0 a1, Statement (.fsqrt a0 a1) :=
  fun _ _ _ _ e _ hx => decodeV .fsqrt e hx rfl rfl rfl
theorem frcp : ∀ a0 a1, Statement (.frcp a0 a1) :=
  fun _ _ _ _ e _ hx => decodeV .frcp e hx rfl rfl rfl
theorem frsq : ∀ a0 a1, Statement (.frsq a0 a1) :=
  fun _ _ _ _ e _ hx => decodeV .frsq e hx rfl rfl rfl
theorem fex2 : ∀ a0 a1, Statement (.fex2 a0 a1) :=
  fun _ _ _ _ e _ hx => decodeV .fex2 e hx rfl rfl rfl
theorem flg2 : ∀ a0 a1, Statement (.flg2 a0 a1) :=
  fun _ _ _ _ e _ hx => decodeV .flg2 e hx rfl rfl rfl
theorem fsin : ∀ a0 a1, Statement (.fsin a0 a1) :=
  fun _ _ _ _ e _ hx => decodeV .fsin e hx rfl rfl rfl
theorem fcos : ∀ a0 a1, Statement (.fcos a0 a1) :=
  fun _ _ _ _ e _ hx => decodeV .fcos e hx rfl rfl rfl
theorem frnd : ∀ a0 a1, Statement (.frnd a0 a1) :=
  fun _ _ _ _ e _ hx => decodeV .frnd e hx rfl rfl rfl
theorem ffrac : ∀ a0 a1, Statement (.ffrac a0 a1) :=
  fun _ _ _ _ e _ hx => decodeV .ffrac e hx rfl rfl rfl
theorem fldexp : ∀ a0 a1, Statement (.fldexp a0 a1) :=
  fun _ _ _ _ e _ hx => decodeV .fldexp e hx rfl rfl rfl
theorem fclass : ∀ a0 a1, Statement (.fclass a0 a1) :=
  fun _ _ _ _ e _ hx => decodeV .fclass e hx rfl rfl rfl
theorem fdot2 : ∀ a0 a1, Statement (.fdot2 a0 a1) :=
  fun _ _ _ _ e _ hx => decodeV .fdot2 e hx rfl rfl rfl
theorem flerp : ∀ a0 a1, Statement (.flerp a0 a1) :=
  fun _ _ _ _ e _ hx => decodeV .flerp e hx rfl rfl rfl
theorem fmed3 : ∀ a0 a1, Statement (.fmed3 a0 a1) :=
  fun _ _ _ _ e _ hx => decodeV .fmed3 e hx rfl rfl rfl
theorem cvt : ∀ a0 a1, Statement (.cvt a0 a1) :=
  fun _ _ _ _ e _ hx => decodeV .cvt e hx rfl rfl rfl
theorem pack : ∀ a0 a1, Statement (.pack a0 a1) :=
  fun _ _ _ _ e _ hx => decodeV .pack e hx rfl rfl rfl
theorem unpack : ∀ a0 a1, Statement (.unpack a0 a1) :=
  fun _ _ _ _ e _ hx => decodeV .unpack e hx rfl rfl rfl
theorem tripack : ∀ a0 a1, Statement (.tripack a0 a1) :=
  fun _ _ _ _ e _ hx => decodeV .tripack e hx rfl rfl rfl
theorem triunpk : ∀ a0 a1, Statement (.triunpk a0 a1) :=
  fun _ _ _ _ e _ hx => decodeV .triunpk e hx rfl rfl rfl
theorem lxch : ∀ a0 a1, Statement (.lxch a0 a1) :=
  fun _ _ _ _ e _ hx => decodeV .lxch e hx rfl rfl rfl
theorem pqry : ∀ a0 a1, Statement (.pqry a0 a1) :=
  fun _ _ _ _ e _ hx => decodeV .pqry e hx rfl rfl rfl
theorem wred : ∀ a0 a1, Statement (.wred a0 a1) :=
  fun _ _ _ _ e _ hx => decodeV .wred e hx rfl rfl rfl
theorem wscan : ∀ a0 a1, Statement (.wscan a0 a1) :=
  fun _ _ _ _ e _ hx => decodeV .wscan e hx rfl rfl rfl
theorem lpeer : ∀ a0 a1, Statement (.lpeer a0 a1) :=
  fun _ _ _ _ e _ hx => decodeV .lpeer e hx rfl rfl rfl
theorem lread : ∀ a0 a1, Statement (.lread a0 a1) :=
  fun _ _ _ _ e _ hx => decodeV .lread e hx rfl rfl rfl
theorem lwrite : ∀ a0 a1, Statement (.lwrite a0 a1) :=
  fun _ _ _ _ e _ hx => decodeV .lwrite e hx rfl rfl rfl
theorem sadd : ∀ a0 a1, Statement (.sadd a0 a1) :=
  fun _ _ _ _ e _ hx => decodeS .sadd e hx rfl rfl rfl
theorem ssub : ∀ a0 a1, Statement (.ssub a0 a1) :=
  fun _ _ _ _ e _ hx => decodeS .ssub e hx rfl rfl rfl
theorem smul : ∀ a0 a1, Statement (.smul a0 a1) :=
  fun _ _ _ _ e _ hx => decodeS .smul e hx rfl rfl rfl
theorem sand : ∀ a0 a1, Statement (.sand a0 a1) :=
  fun _ _ _ _ e _ hx => decodeS .sand e hx rfl rfl rfl
theorem sor : ∀ a0 a1, Statement (.sor a0 a1) :=
  fun _ _ _ _ e _ hx => decodeS .sor e hx rfl rfl rfl
theorem sxor : ∀ a0 a1, Statement (.sxor a0 a1) :=
  fun _ _ _ _ e _ hx => decodeS .sxor e hx rfl rfl rfl
theorem sshl : ∀ a0 a1, Statement (.sshl a0 a1) :=
  fun _ _ _ _ e _ hx => decodeS .sshl e hx rfl rfl rfl
theorem sshr : ∀ a0 a1, Statement (.sshr a0 a1) :=
  fun _ _ _ _ e _ hx => decodeS .sshr e hx rfl rfl rfl
theorem scmp : ∀ a0 a1, Statement (.scmp a0 a1) :=
  fun _ _ _ _ e _ hx => decodeS .scmp e hx rfl rfl rfl
theorem smov : ∀ a0 a1, Statement (.smov a0 a1) :=
  fun _ _ _ _ e _ hx => decodeS .smov e hx rfl rfl rfl
theorem ssel : ∀ a0 a1, Statement (.ssel a0 a1) :=
  fun _ _ _ _ e _ hx => decodeS .ssel e hx rfl rfl rfl
theorem sbfe : ∀ a0 a1, Statement (.sbfe a0 a1) :=
  fun _ _ _ _ e _ hx => decodeS .sbfe e hx rfl rfl rfl
theorem sff1 : ∀ a0 a1, Statement (.sff1 a0 a1) :=
  fun _ _ _ _ e _ hx => decodeS .sff1 e hx rfl rfl rfl
theorem spopc : ∀ a0 a1, Statement (.spopc a0 a1) :=
  fun _ _ _ _ e _ hx => decodeS .spopc e hx rfl rfl rfl
theorem slea : ∀ a0 a1, Statement (.slea a0 a1) :=
  fun _ _ _ _ e _ hx => decodeS .slea e hx rfl rfl rfl
theorem ld : ∀ a0 a1, Statement (.ld a0 a1) :=
  fun _ _ _ _ e _ hx => decodeM .ld e hx rfl rfl rfl
theorem st : ∀ a0 a1, Statement (.st a0 a1) :=
  fun _ _ _ _ e _ hx => decodeM .st e hx rfl rfl rfl
theorem ldl : ∀ a0 a1, Statement (.ldl a0 a1) :=
  fun _ _ _ _ e _ hx => decodeM .ldl e hx rfl rfl rfl
theorem stl : ∀ a0 a1, Statement (.stl a0 a1) :=
  fun _ _ _ _ e _ hx => decodeM .stl e hx rfl rfl rfl
theorem lds : ∀ a0 a1, Statement (.lds a0 a1) :=
  fun _ _ _ _ e _ hx => decodeM .lds e hx rfl rfl rfl
theorem sts : ∀ a0 a1, Statement (.sts a0 a1) :=
  fun _ _ _ _ e _ hx => decodeM .sts e hx rfl rfl rfl
theorem ldcvt : ∀ a0 a1, Statement (.ldcvt a0 a1) :=
  fun _ _ _ _ e _ hx => decodeM .ldcvt e hx rfl rfl rfl
theorem pref : ∀ a0 a1, Statement (.pref a0 a1) :=
  fun _ _ _ _ e _ hx => decodeM .pref e hx rfl rfl rfl
theorem cflush : ∀ a0 a1, Statement (.cflush a0 a1) :=
  fun _ _ _ _ e _ hx => decodeM .cflush e hx rfl rfl rfl
theorem fifopush : ∀ a0 a1, Statement (.fifopush a0 a1) :=
  fun _ _ _ _ e _ hx => decodeM .fifopush e hx rfl rfl rfl
theorem fifopop : ∀ a0 a1, Statement (.fifopop a0 a1) :=
  fun _ _ _ _ e _ hx => decodeM .fifopop e hx rfl rfl rfl
theorem bankcfg : ∀ a0 a1, Statement (.bankcfg a0 a1) :=
  fun _ _ _ _ e _ hx => decodeM .bankcfg e hx rfl rfl rfl
theorem qpop : ∀ a0 a1, Statement (.qpop a0 a1) :=
  fun _ _ _ _ e _ hx => decodeM .qpop e hx rfl rfl rfl
theorem qstat : ∀ a0 a1, Statement (.qstat a0 a1) :=
  fun _ _ _ _ e _ hx => decodeM .qstat e hx rfl rfl rfl
theorem strm : ∀ a0 a1, Statement (.strm a0 a1) :=
  fun _ _ _ _ e _ hx => decodeC .strm e hx rfl rfl rfl
theorem strmx : ∀ a0 a1, Statement (.strmx a0 a1) :=
  fun _ _ _ _ e _ hx => decodeC .strmx e hx rfl rfl rfl
theorem atom : ∀ a0 a1, Statement (.atom a0 a1) :=
  fun _ _ _ _ e _ hx => decodeM .atom e hx rfl rfl rfl
theorem atomx : ∀ a0 a1, Statement (.atomx a0 a1) :=
  fun _ _ _ _ e _ hx => decodeM .atomx e hx rfl rfl rfl
theorem red : ∀ a0 a1, Statement (.red a0 a1) :=
  fun _ _ _ _ e _ hx => decodeM .red e hx rfl rfl rfl
theorem atoml : ∀ a0 a1, Statement (.atoml a0 a1) :=
  fun _ _ _ _ e _ hx => decodeM .atoml e hx rfl rfl rfl
theorem xred : ∀ a0 a1, Statement (.xred a0 a1) :=
  fun _ _ _ _ e _ hx => decodeM .xred e hx rfl rfl rfl
theorem copy : ∀ a0 a1, Statement (.copy a0 a1) :=
  fun _ _ _ _ e _ hx => decodeC .copy e hx rfl rfl rfl
theorem copym : ∀ a0 a1, Statement (.copym a0 a1) :=
  fun _ _ _ _ e _ hx => decodeC .copym e hx rfl rfl rfl
theorem halo : ∀ a0 a1, Statement (.halo a0 a1) :=
  fun _ _ _ _ e _ hx => decodeC .halo e hx rfl rfl rfl
theorem gathv : ∀ a0 a1, Statement (.gathv a0 a1) :=
  fun _ _ _ _ e _ hx => decodeC .gathv e hx rfl rfl rfl
theorem tagarm : ∀ a0 a1, Statement (.tagarm a0 a1) :=
  fun _ _ _ _ e _ hx => decodeC .tagarm e hx rfl rfl rfl
theorem tagwait : ∀ a0 a1, Statement (.tagwait a0 a1) :=
  fun _ _ _ _ e _ hx => decodeC .tagwait e hx rfl rfl rfl
theorem tagff : ∀ a0 a1, Statement (.tagff a0 a1) :=
  fun _ _ _ _ e _ hx => decodeC .tagff e hx rfl rfl rfl
theorem tagclr : ∀ a0 a1, Statement (.tagclr a0 a1) :=
  fun _ _ _ _ e _ hx => decodeC .tagclr e hx rfl rfl rfl
theorem obres : ∀ a0 a1, Statement (.obres a0 a1) :=
  fun _ _ _ _ e _ hx => decodeC .obres e hx rfl rfl rfl
theorem obrel : ∀ a0 a1, Statement (.obrel a0 a1) :=
  fun _ _ _ _ e _ hx => decodeY .obrel e hx rfl rfl rfl
theorem obld : ∀ a0 a1, Statement (.obld a0 a1) :=
  fun _ _ _ _ e _ hx => decodeC .obld e hx rfl rfl rfl
theorem mma : ∀ a0 a1, Statement (.mma a0 a1) :=
  fun _ _ _ _ e _ hx => decodeV .mma e hx rfl rfl rfl
theorem accz : ∀ a0 a1, Statement (.accz a0 a1) :=
  fun _ _ _ _ e _ hx => decodeY .accz e hx rfl rfl rfl
theorem accld : ∀ a0 a1, Statement (.accld a0 a1) :=
  fun _ _ _ _ e _ hx => decodeM .accld e hx rfl rfl rfl
theorem drain : ∀ a0 a1, Statement (.drain a0 a1) :=
  fun _ _ _ _ e _ hx => decodeX .drain e hx rfl rfl rfl
theorem accrd : ∀ a0 a1, Statement (.accrd a0 a1) :=
  fun _ _ _ _ e _ hx => decodeV .accrd e hx rfl rfl rfl
theorem mstat : ∀ a0 a1, Statement (.mstat a0 a1) :=
  fun _ _ _ _ e _ hx => decodeY .mstat e hx rfl rfl rfl
theorem rast : ∀ a0 a1, Statement (.rast a0 a1) := fun _ f l x e hs hx => by
  refine decodeX .rast e hx rfl ?_ rfl
  simp only [subAgrees, bne_iff_ne, ne_eq] at hs
  have hn : (f.sub.toNat == 1) = false := by
    simp only [beq_eq_false_iff_ne]
    exact fun q => hs (BitVec.eq_of_toNat_eq q)
  simp only [ctorX, BitVec.toNat_ofNat, hn]
  rfl
theorem rastSet : ∀ a0 a1, Statement (.rastSet a0 a1) := fun _ f l x e hs hx => by
  refine decodeX .rastSet e hx rfl ?_ rfl
  simp only [subAgrees, beq_iff_eq] at hs
  rw [hs]
  rfl
theorem blend : ∀ a0 a1, Statement (.blend a0 a1) := fun _ f l x e hs hx => by
  refine decodeX .blend e hx rfl ?_ rfl
  simp only [subAgrees, bne_iff_ne, ne_eq] at hs
  have hn : (f.sub.toNat == 1) = false := by
    simp only [beq_eq_false_iff_ne]
    exact fun q => hs (BitVec.eq_of_toNat_eq q)
  simp only [ctorX, BitVec.toNat_ofNat, hn]
  rfl
theorem blendSet : ∀ a0 a1, Statement (.blendSet a0 a1) := fun _ f l x e hs hx => by
  refine decodeX .blendSet e hx rfl ?_ rfl
  simp only [subAgrees, beq_iff_eq] at hs
  rw [hs]
  rfl
theorem trav : ∀ a0 a1, Statement (.trav a0 a1) := fun _ f l x e hs hx => by
  refine decodeX .trav e hx rfl ?_ rfl
  simp only [subAgrees, bne_iff_ne, ne_eq] at hs
  have hn : (f.sub.toNat == 1) = false := by
    simp only [beq_eq_false_iff_ne]
    exact fun q => hs (BitVec.eq_of_toNat_eq q)
  simp only [ctorX, BitVec.toNat_ofNat, hn]
  rfl
theorem travSet : ∀ a0 a1, Statement (.travSet a0 a1) := fun _ f l x e hs hx => by
  refine decodeX .travSet e hx rfl ?_ rfl
  simp only [subAgrees, beq_iff_eq] at hs
  rw [hs]
  rfl
theorem filt : ∀ a0 a1, Statement (.filt a0 a1) := fun _ f l x e hs hx => by
  refine decodeX .filt e hx rfl ?_ rfl
  simp only [subAgrees, bne_iff_ne, ne_eq] at hs
  have hn : (f.sub.toNat == 1) = false := by
    simp only [beq_eq_false_iff_ne]
    exact fun q => hs (BitVec.eq_of_toNat_eq q)
  simp only [ctorX, BitVec.toNat_ofNat, hn]
  rfl
theorem filtSet : ∀ a0 a1, Statement (.filtSet a0 a1) := fun _ f l x e hs hx => by
  refine decodeX .filtSet e hx rfl ?_ rfl
  simp only [subAgrees, beq_iff_eq] at hs
  rw [hs]
  rfl
theorem bin : ∀ a0 a1, Statement (.bin a0 a1) :=
  fun _ _ _ _ e _ hx => decodeX .bin e hx rfl rfl rfl
theorem mcall : ∀ a0 a1, Statement (.mcall a0 a1) :=
  fun _ _ _ _ e _ hx => decodeX .mcall e hx rfl rfl rfl
theorem taskpush : ∀ a0 a1, Statement (.taskpush a0 a1) :=
  fun _ _ _ _ e _ hx => decodeV .taskpush e hx rfl rfl rfl
theorem hqpush : ∀ a0 a1, Statement (.hqpush a0 a1) :=
  fun _ _ _ _ e _ hx => decodeM .hqpush e hx rfl rfl rfl
theorem hqpop : ∀ a0 a1, Statement (.hqpop a0 a1) :=
  fun _ _ _ _ e _ hx => decodeM .hqpop e hx rfl rfl rfl
theorem ordin : ∀ a0 a1, Statement (.ordin a0 a1) :=
  fun _ _ _ _ e _ hx => decodeV .ordin e hx rfl rfl rfl
theorem ordout : ∀ a0 a1, Statement (.ordout a0 a1) :=
  fun _ _ _ _ e _ hx => decodeV .ordout e hx rfl rfl rfl
theorem ordseq : ∀ a0 a1, Statement (.ordseq a0 a1) :=
  fun _ _ _ _ e _ hx => decodeV .ordseq e hx rfl rfl rfl
theorem trmark : ∀ a0 a1, Statement (.trmark a0 a1) :=
  fun _ _ _ _ e _ hx => decodeY .trmark e hx rfl rfl rfl
theorem relaunch : ∀ a0 a1, Statement (.relaunch a0 a1) :=
  fun _ _ _ _ e _ hx => decodeY .relaunch e hx rfl rfl rfl
theorem launch : ∀ a0 a1, Statement (.launch a0 a1) :=
  fun _ _ _ _ e _ hx => decodeY .launch e hx rfl rfl rfl
theorem variableLatencyResult : ∀ a0 a1 a2, Statement (.variableLatencyResult a0 a1 a2) := by
  intro a0 a1 a2 l x e
  cases e
theorem trapDelivery : ∀ a0, Statement (.trapDelivery a0) := by
  intro a0 l x e
  cases e
theorem tlbWalkComplete : ∀ a0 a1, Statement (.tlbWalkComplete a0 a1) := by
  intro a0 a1 l x e
  cases e
theorem walkDispatch : ∀ a0, Statement (.walkDispatch a0) := by
  intro a0 l x e
  cases e
theorem ringRecordWrite : ∀ a0, Statement (.ringRecordWrite a0) := by
  intro a0 l x e
  cases e
theorem fltdoneRetry : ∀ a0, Statement (.fltdoneRetry a0) := by
  intro a0 l x e
  cases e
theorem fltdoneAbort : ∀ a0, Statement (.fltdoneAbort a0) := by
  intro a0 l x e
  cases e
theorem scdone : ∀ a0 a1, Statement (.scdone a0 a1) := by
  intro a0 a1 l x e
  cases e
theorem tlbicmd : ∀ a0, Statement (.tlbicmd a0) := by
  intro a0 l x e
  cases e
theorem tlbInvalidationDone : Statement .tlbInvalidationDone := by
  intro  l x e
  cases e
theorem microcodeLoad : ∀ a0, Statement (.microcodeLoad a0) := by
  intro a0 l x e
  cases e
theorem microcodeUnload : ∀ a0, Statement (.microcodeUnload a0) := by
  intro a0 l x e
  cases e
theorem microcodeReplace : Statement .microcodeReplace := by
  intro  l x e
  cases e
theorem kick : ∀ a0, Statement (.kick a0) := by
  intro a0 l x e
  cases e
theorem graphUpload : Statement .graphUpload := by
  intro  l x e
  cases e
theorem graphFree : ∀ a0, Statement (.graphFree a0) := by
  intro a0 l x e
  cases e
theorem nodeStart : ∀ a0 a1, Statement (.nodeStart a0 a1) := by
  intro a0 a1 l x e
  cases e
theorem copyNodeDone : ∀ a0 a1, Statement (.copyNodeDone a0 a1) := by
  intro a0 a1 l x e
  cases e
theorem waitNodeCheck : ∀ a0 a1, Statement (.waitNodeCheck a0 a1) := by
  intro a0 a1 l x e
  cases e
theorem kernelNodeComplete : ∀ a0 a1, Statement (.kernelNodeComplete a0 a1) := by
  intro a0 a1 l x e
  cases e
theorem relaunchStart : ∀ a0, Statement (.relaunchStart a0) := by
  intro a0 l x e
  cases e
theorem teamPlace : Statement .teamPlace := by
  intro  l x e
  cases e
theorem launchAgeing : ∀ a0, Statement (.launchAgeing a0) := by
  intro a0 l x e
  cases e
theorem poolReassign : Statement .poolReassign := by
  intro  l x e
  cases e
theorem poolReassignDone : ∀ a0, Statement (.poolReassignDone a0) := by
  intro a0 l x e
  cases e
theorem timeSliceExpiry : ∀ a0, Statement (.timeSliceExpiry a0) := by
  intro a0 l x e
  cases e
theorem drainTimeout : ∀ a0, Statement (.drainTimeout a0) := by
  intro a0 l x e
  cases e
theorem teamFlush : ∀ a0, Statement (.teamFlush a0) := by
  intro a0 l x e
  cases e
theorem teamSave : ∀ a0, Statement (.teamSave a0) := by
  intro a0 l x e
  cases e
theorem teamRestore : ∀ a0, Statement (.teamRestore a0) := by
  intro a0 l x e
  cases e
theorem macroSliceStop : ∀ a0, Statement (.macroSliceStop a0) := by
  intro a0 l x e
  cases e
theorem waveForm : ∀ a0 a1, Statement (.waveForm a0 a1) := by
  intro a0 a1 l x e
  cases e
theorem partialWaveTimeout : ∀ a0 a1, Statement (.partialWaveTimeout a0 a1) := by
  intro a0 a1 l x e
  cases e
theorem copyDeliver : ∀ a0 a1 a2 a3 a4, Statement (.copyDeliver a0 a1 a2 a3 a4) := by
  intro a0 a1 a2 a3 a4 l x e
  cases e
theorem copyPrepass : ∀ a0 a1, Statement (.copyPrepass a0 a1) := by
  intro a0 a1 l x e
  cases e
theorem streamFetch : ∀ a0 a1, Statement (.streamFetch a0 a1) := by
  intro a0 a1 l x e
  cases e
theorem bankcfgDrainDone : ∀ a0 a1, Statement (.bankcfgDrainDone a0 a1) := by
  intro a0 a1 l x e
  cases e
theorem accessPerform : ∀ a0 a1 a2 a3, Statement (.accessPerform a0 a1 a2 a3) := by
  intro a0 a1 a2 a3 l x e
  cases e
theorem promotionNotice : ∀ a0 a1, Statement (.promotionNotice a0 a1) := by
  intro a0 a1 l x e
  cases e
theorem engineOpStart : ∀ a0 a1, Statement (.engineOpStart a0 a1) := by
  intro a0 a1 l x e
  cases e
theorem addOnStoreApply : ∀ a0 a1, Statement (.addOnStoreApply a0 a1) := by
  intro a0 a1 l x e
  cases e
theorem binQueuePush : ∀ a0, Statement (.binQueuePush a0) := by
  intro a0 l x e
  cases e
theorem ordStallTimeout : ∀ a0 a1 a2, Statement (.ordStallTimeout a0 a1 a2) := by
  intro a0 a1 a2 l x e
  cases e
theorem ordqQuery : ∀ a0, Statement (.ordqQuery a0) := by
  intro a0 l x e
  cases e
theorem ordqPurge : ∀ a0, Statement (.ordqPurge a0) := by
  intro a0 l x e
  cases e
theorem waitwWake : ∀ a0, Statement (.waitwWake a0) := by
  intro a0 l x e
  cases e
theorem waitwTimeout : ∀ a0, Statement (.waitwTimeout a0) := by
  intro a0 l x e
  cases e
theorem meterTick : Statement .meterTick := by
  intro  l x e
  cases e
theorem sentinelWarning : ∀ a0, Statement (.sentinelWarning a0) := by
  intro a0 l x e
  cases e
theorem sentinelDecay : ∀ a0, Statement (.sentinelDecay a0) := by
  intro a0 l x e
  cases e
theorem hostBar2Write : ∀ a0 a1, Statement (.hostBar2Write a0 a1) := by
  intro a0 a1 l x e
  cases e
theorem hostBar2Read : ∀ a0 a1, Statement (.hostBar2Read a0 a1) := by
  intro a0 a1 l x e
  cases e
theorem registerWrite : ∀ a0 a1 a2, Statement (.registerWrite a0 a1 a2) := by
  intro a0 a1 a2 l x e
  cases e
theorem rcfgEnable : ∀ a0 a1, Statement (.rcfgEnable a0 a1) := by
  intro a0 a1 l x e
  cases e
theorem rcfgDisable : ∀ a0, Statement (.rcfgDisable a0) := by
  intro a0 l x e
  cases e
theorem rheadWrite : ∀ a0 a1, Statement (.rheadWrite a0 a1) := by
  intro a0 a1 l x e
  cases e
theorem lkctlTail : ∀ a0 a1, Statement (.lkctlTail a0 a1) := by
  intro a0 a1 l x e
  cases e
theorem lkctlEnable : ∀ a0 a1, Statement (.lkctlEnable a0 a1) := by
  intro a0 a1 l x e
  cases e
theorem linkWidthChange : ∀ a0 a1, Statement (.linkWidthChange a0 a1) := by
  intro a0 a1 l x e
  cases e
theorem linkDescriptorSend : ∀ a0, Statement (.linkDescriptorSend a0) := by
  intro a0 l x e
  cases e
theorem linkFlitReceive : ∀ a0 a1 a2 a3, Statement (.linkFlitReceive a0 a1 a2 a3) := by
  intro a0 a1 a2 a3 l x e
  cases e
theorem linkAck : ∀ a0 a1, Statement (.linkAck a0 a1) := by
  intro a0 a1 l x e
  cases e
theorem powerOn : Statement .powerOn := by
  intro  l x e
  cases e
theorem functionLevelReset : Statement .functionLevelReset := by
  intro  l x e
  cases e
theorem rstcmdWarm : ∀ a0, Statement (.rstcmdWarm a0) := by
  intro a0 l x e
  cases e
theorem rstcmdCold : ∀ a0, Statement (.rstcmdCold a0) := by
  intro a0 l x e
  cases e
theorem startStage : ∀ a0, Statement (.startStage a0) := by
  intro a0 l x e
  cases e
theorem reccmd : ∀ a0, Statement (.reccmd a0) := by
  intro a0 l x e
  cases e
theorem attestReport : Statement .attestReport := by
  intro  l x e
  cases e
theorem notAnInstruction : ∀ a0 a1, Statement (.notAnInstruction a0 a1) := by
  intro a0 a1 l x e
  cases e
theorem softError : ∀ a0 a1, Statement (.softError a0 a1) := by
  intro a0 a1 l x e
  cases e
theorem pcieCompletion : ∀ a0 a1, Statement (.pcieCompletion a0 a1) := by
  intro a0 a1 l x e
  cases e
theorem completionTimeout : ∀ a0, Statement (.completionTimeout a0) := by
  intro a0 l x e
  cases e
theorem pcieConfigWrite : ∀ a0, Statement (.pcieConfigWrite a0) := by
  intro a0 l x e
  cases e
theorem linkTrained : ∀ a0 a1, Statement (.linkTrained a0 a1) := by
  intro a0 a1 l x e
  cases e

end Sys2Proof.Laws.Word
end

