-- ==== Sys2Proof/Laws/State.lean ====
section
/-! SUPPORT. What each named update of the state leaves: one lemma per field, true by definition. -/

namespace Sys2Proof.Machine

/-! ### updTeam changes `teams` alone -/

@[simp] theorem State.updTeam_mem (s : State) (u : Nat) (f : Team → Team) : (s.updTeam u f).mem = s.mem := rfl
@[simp] theorem State.updTeam_rels (s : State) (u : Nat) (f : Team → Team) : (s.updTeam u f).rels = s.rels := rfl
@[simp] theorem State.updTeam_poison (s : State) (u : Nat) (f : Team → Team) : (s.updTeam u f).poison = s.poison := rfl
@[simp] theorem State.updTeam_poisonRegs (s : State) (u : Nat) (f : Team → Team) : (s.updTeam u f).poisonRegs = s.poisonRegs := rfl
@[simp] theorem State.updTeam_promo (s : State) (u : Nat) (f : Team → Team) : (s.updTeam u f).promo = s.promo := rfl
@[simp] theorem State.updTeam_rowans (s : State) (u : Nat) (f : Team → Team) : (s.updTeam u f).rowans = s.rowans := rfl
@[simp] theorem State.updTeam_rowanOut (s : State) (u : Nat) (f : Team → Team) : (s.updTeam u f).rowanOut = s.rowanOut := rfl
@[simp] theorem State.updTeam_hostAtomics (s : State) (u : Nat) (f : Team → Team) : (s.updTeam u f).hostAtomics = s.hostAtomics := rfl
@[simp] theorem State.updTeam_cores (s : State) (u : Nat) (f : Team → Team) : (s.updTeam u f).cores = s.cores := rfl
@[simp] theorem State.updTeam_dies (s : State) (u : Nat) (f : Team → Team) : (s.updTeam u f).dies = s.dies := rfl
@[simp] theorem State.updTeam_images (s : State) (u : Nat) (f : Team → Team) : (s.updTeam u f).images = s.images := rfl
@[simp] theorem State.updTeam_launches (s : State) (u : Nat) (f : Team → Team) : (s.updTeam u f).launches = s.launches := rfl
@[simp] theorem State.updTeam_relaunches (s : State) (u : Nat) (f : Team → Team) : (s.updTeam u f).relaunches = s.relaunches := rfl
@[simp] theorem State.updTeam_replays (s : State) (u : Nat) (f : Team → Team) : (s.updTeam u f).replays = s.replays := rfl
@[simp] theorem State.updTeam_graphs (s : State) (u : Nat) (f : Team → Team) : (s.updTeam u f).graphs = s.graphs := rfl
@[simp] theorem State.updTeam_nextLaunch (s : State) (u : Nat) (f : Team → Team) : (s.updTeam u f).nextLaunch = s.nextLaunch := rfl
@[simp] theorem State.updTeam_nextToken (s : State) (u : Nat) (f : Team → Team) : (s.updTeam u f).nextToken = s.nextToken := rfl
@[simp] theorem State.updTeam_nextHandle (s : State) (u : Nat) (f : Team → Team) : (s.updTeam u f).nextHandle = s.nextHandle := rfl
@[simp] theorem State.updTeam_rings (s : State) (u : Nat) (f : Team → Team) : (s.updTeam u f).rings = s.rings := rfl
@[simp] theorem State.updTeam_ports (s : State) (u : Nat) (f : Team → Team) : (s.updTeam u f).ports = s.ports := rfl
@[simp] theorem State.updTeam_regs (s : State) (u : Nat) (f : Team → Team) : (s.updTeam u f).regs = s.regs := rfl
@[simp] theorem State.updTeam_micro (s : State) (u : Nat) (f : Team → Team) : (s.updTeam u f).micro = s.micro := rfl
@[simp] theorem State.updTeam_hostHeld (s : State) (u : Nat) (f : Team → Team) : (s.updTeam u f).hostHeld = s.hostHeld := rfl
@[simp] theorem State.updTeam_attest (s : State) (u : Nat) (f : Team → Team) : (s.updTeam u f).attest = s.attest := rfl
@[simp] theorem State.updTeam_attNonce (s : State) (u : Nat) (f : Team → Team) : (s.updTeam u f).attNonce = s.attNonce := rfl
@[simp] theorem State.updTeam_attTaken (s : State) (u : Nat) (f : Team → Team) : (s.updTeam u f).attTaken = s.attTaken := rfl
@[simp] theorem State.updTeam_recWindow (s : State) (u : Nat) (f : Team → Team) : (s.updTeam u f).recWindow = s.recWindow := rfl
@[simp] theorem State.updTeam_flash (s : State) (u : Nat) (f : Team → Team) : (s.updTeam u f).flash = s.flash := rfl
@[simp] theorem State.updTeam_pcie (s : State) (u : Nat) (f : Team → Team) : (s.updTeam u f).pcie = s.pcie := rfl
@[simp] theorem State.updTeam_issues (s : State) (u : Nat) (f : Team → Team) : (s.updTeam u f).issues = s.issues := rfl
@[simp] theorem State.updTeam_uid (s : State) (u : Nat) (f : Team → Team) : (s.updTeam u f).uid = s.uid := rfl
@[simp] theorem State.updTeam_free (s : State) (u : Nat) (f : Team → Team) : (s.updTeam u f).free = s.free := rfl
@[simp] theorem State.updTeam_cur (s : State) (u : Nat) (f : Team → Team) : (s.updTeam u f).cur = s.cur := rfl
@[simp] theorem State.updTeam_agenda (s : State) (u : Nat) (f : Team → Team) : (s.updTeam u f).agenda = s.agenda := rfl

/-! ### updWave changes `teams` alone -/

@[simp] theorem State.updWave_mem (s : State) (r : WaveRef) (f : Wave → Wave) : (s.updWave r f).mem = s.mem := rfl
@[simp] theorem State.updWave_rels (s : State) (r : WaveRef) (f : Wave → Wave) : (s.updWave r f).rels = s.rels := rfl
@[simp] theorem State.updWave_poison (s : State) (r : WaveRef) (f : Wave → Wave) : (s.updWave r f).poison = s.poison := rfl
@[simp] theorem State.updWave_poisonRegs (s : State) (r : WaveRef) (f : Wave → Wave) : (s.updWave r f).poisonRegs = s.poisonRegs := rfl
@[simp] theorem State.updWave_promo (s : State) (r : WaveRef) (f : Wave → Wave) : (s.updWave r f).promo = s.promo := rfl
@[simp] theorem State.updWave_rowans (s : State) (r : WaveRef) (f : Wave → Wave) : (s.updWave r f).rowans = s.rowans := rfl
@[simp] theorem State.updWave_rowanOut (s : State) (r : WaveRef) (f : Wave → Wave) : (s.updWave r f).rowanOut = s.rowanOut := rfl
@[simp] theorem State.updWave_hostAtomics (s : State) (r : WaveRef) (f : Wave → Wave) : (s.updWave r f).hostAtomics = s.hostAtomics := rfl
@[simp] theorem State.updWave_cores (s : State) (r : WaveRef) (f : Wave → Wave) : (s.updWave r f).cores = s.cores := rfl
@[simp] theorem State.updWave_dies (s : State) (r : WaveRef) (f : Wave → Wave) : (s.updWave r f).dies = s.dies := rfl
@[simp] theorem State.updWave_images (s : State) (r : WaveRef) (f : Wave → Wave) : (s.updWave r f).images = s.images := rfl
@[simp] theorem State.updWave_launches (s : State) (r : WaveRef) (f : Wave → Wave) : (s.updWave r f).launches = s.launches := rfl
@[simp] theorem State.updWave_relaunches (s : State) (r : WaveRef) (f : Wave → Wave) : (s.updWave r f).relaunches = s.relaunches := rfl
@[simp] theorem State.updWave_replays (s : State) (r : WaveRef) (f : Wave → Wave) : (s.updWave r f).replays = s.replays := rfl
@[simp] theorem State.updWave_graphs (s : State) (r : WaveRef) (f : Wave → Wave) : (s.updWave r f).graphs = s.graphs := rfl
@[simp] theorem State.updWave_nextLaunch (s : State) (r : WaveRef) (f : Wave → Wave) : (s.updWave r f).nextLaunch = s.nextLaunch := rfl
@[simp] theorem State.updWave_nextToken (s : State) (r : WaveRef) (f : Wave → Wave) : (s.updWave r f).nextToken = s.nextToken := rfl
@[simp] theorem State.updWave_nextHandle (s : State) (r : WaveRef) (f : Wave → Wave) : (s.updWave r f).nextHandle = s.nextHandle := rfl
@[simp] theorem State.updWave_rings (s : State) (r : WaveRef) (f : Wave → Wave) : (s.updWave r f).rings = s.rings := rfl
@[simp] theorem State.updWave_ports (s : State) (r : WaveRef) (f : Wave → Wave) : (s.updWave r f).ports = s.ports := rfl
@[simp] theorem State.updWave_regs (s : State) (r : WaveRef) (f : Wave → Wave) : (s.updWave r f).regs = s.regs := rfl
@[simp] theorem State.updWave_micro (s : State) (r : WaveRef) (f : Wave → Wave) : (s.updWave r f).micro = s.micro := rfl
@[simp] theorem State.updWave_hostHeld (s : State) (r : WaveRef) (f : Wave → Wave) : (s.updWave r f).hostHeld = s.hostHeld := rfl
@[simp] theorem State.updWave_attest (s : State) (r : WaveRef) (f : Wave → Wave) : (s.updWave r f).attest = s.attest := rfl
@[simp] theorem State.updWave_attNonce (s : State) (r : WaveRef) (f : Wave → Wave) : (s.updWave r f).attNonce = s.attNonce := rfl
@[simp] theorem State.updWave_attTaken (s : State) (r : WaveRef) (f : Wave → Wave) : (s.updWave r f).attTaken = s.attTaken := rfl
@[simp] theorem State.updWave_recWindow (s : State) (r : WaveRef) (f : Wave → Wave) : (s.updWave r f).recWindow = s.recWindow := rfl
@[simp] theorem State.updWave_flash (s : State) (r : WaveRef) (f : Wave → Wave) : (s.updWave r f).flash = s.flash := rfl
@[simp] theorem State.updWave_pcie (s : State) (r : WaveRef) (f : Wave → Wave) : (s.updWave r f).pcie = s.pcie := rfl
@[simp] theorem State.updWave_issues (s : State) (r : WaveRef) (f : Wave → Wave) : (s.updWave r f).issues = s.issues := rfl
@[simp] theorem State.updWave_uid (s : State) (r : WaveRef) (f : Wave → Wave) : (s.updWave r f).uid = s.uid := rfl
@[simp] theorem State.updWave_free (s : State) (r : WaveRef) (f : Wave → Wave) : (s.updWave r f).free = s.free := rfl
@[simp] theorem State.updWave_cur (s : State) (r : WaveRef) (f : Wave → Wave) : (s.updWave r f).cur = s.cur := rfl
@[simp] theorem State.updWave_agenda (s : State) (r : WaveRef) (f : Wave → Wave) : (s.updWave r f).agenda = s.agenda := rfl

/-! ### updCur changes `teams` alone -/

@[simp] theorem State.updCur_mem (s : State) (f : Wave → Wave) : (s.updCur f).mem = s.mem := rfl
@[simp] theorem State.updCur_rels (s : State) (f : Wave → Wave) : (s.updCur f).rels = s.rels := rfl
@[simp] theorem State.updCur_poison (s : State) (f : Wave → Wave) : (s.updCur f).poison = s.poison := rfl
@[simp] theorem State.updCur_poisonRegs (s : State) (f : Wave → Wave) : (s.updCur f).poisonRegs = s.poisonRegs := rfl
@[simp] theorem State.updCur_promo (s : State) (f : Wave → Wave) : (s.updCur f).promo = s.promo := rfl
@[simp] theorem State.updCur_rowans (s : State) (f : Wave → Wave) : (s.updCur f).rowans = s.rowans := rfl
@[simp] theorem State.updCur_rowanOut (s : State) (f : Wave → Wave) : (s.updCur f).rowanOut = s.rowanOut := rfl
@[simp] theorem State.updCur_hostAtomics (s : State) (f : Wave → Wave) : (s.updCur f).hostAtomics = s.hostAtomics := rfl
@[simp] theorem State.updCur_cores (s : State) (f : Wave → Wave) : (s.updCur f).cores = s.cores := rfl
@[simp] theorem State.updCur_dies (s : State) (f : Wave → Wave) : (s.updCur f).dies = s.dies := rfl
@[simp] theorem State.updCur_images (s : State) (f : Wave → Wave) : (s.updCur f).images = s.images := rfl
@[simp] theorem State.updCur_launches (s : State) (f : Wave → Wave) : (s.updCur f).launches = s.launches := rfl
@[simp] theorem State.updCur_relaunches (s : State) (f : Wave → Wave) : (s.updCur f).relaunches = s.relaunches := rfl
@[simp] theorem State.updCur_replays (s : State) (f : Wave → Wave) : (s.updCur f).replays = s.replays := rfl
@[simp] theorem State.updCur_graphs (s : State) (f : Wave → Wave) : (s.updCur f).graphs = s.graphs := rfl
@[simp] theorem State.updCur_nextLaunch (s : State) (f : Wave → Wave) : (s.updCur f).nextLaunch = s.nextLaunch := rfl
@[simp] theorem State.updCur_nextToken (s : State) (f : Wave → Wave) : (s.updCur f).nextToken = s.nextToken := rfl
@[simp] theorem State.updCur_nextHandle (s : State) (f : Wave → Wave) : (s.updCur f).nextHandle = s.nextHandle := rfl
@[simp] theorem State.updCur_rings (s : State) (f : Wave → Wave) : (s.updCur f).rings = s.rings := rfl
@[simp] theorem State.updCur_ports (s : State) (f : Wave → Wave) : (s.updCur f).ports = s.ports := rfl
@[simp] theorem State.updCur_regs (s : State) (f : Wave → Wave) : (s.updCur f).regs = s.regs := rfl
@[simp] theorem State.updCur_micro (s : State) (f : Wave → Wave) : (s.updCur f).micro = s.micro := rfl
@[simp] theorem State.updCur_hostHeld (s : State) (f : Wave → Wave) : (s.updCur f).hostHeld = s.hostHeld := rfl
@[simp] theorem State.updCur_attest (s : State) (f : Wave → Wave) : (s.updCur f).attest = s.attest := rfl
@[simp] theorem State.updCur_attNonce (s : State) (f : Wave → Wave) : (s.updCur f).attNonce = s.attNonce := rfl
@[simp] theorem State.updCur_attTaken (s : State) (f : Wave → Wave) : (s.updCur f).attTaken = s.attTaken := rfl
@[simp] theorem State.updCur_recWindow (s : State) (f : Wave → Wave) : (s.updCur f).recWindow = s.recWindow := rfl
@[simp] theorem State.updCur_flash (s : State) (f : Wave → Wave) : (s.updCur f).flash = s.flash := rfl
@[simp] theorem State.updCur_pcie (s : State) (f : Wave → Wave) : (s.updCur f).pcie = s.pcie := rfl
@[simp] theorem State.updCur_issues (s : State) (f : Wave → Wave) : (s.updCur f).issues = s.issues := rfl
@[simp] theorem State.updCur_uid (s : State) (f : Wave → Wave) : (s.updCur f).uid = s.uid := rfl
@[simp] theorem State.updCur_free (s : State) (f : Wave → Wave) : (s.updCur f).free = s.free := rfl
@[simp] theorem State.updCur_cur (s : State) (f : Wave → Wave) : (s.updCur f).cur = s.cur := rfl
@[simp] theorem State.updCur_agenda (s : State) (f : Wave → Wave) : (s.updCur f).agenda = s.agenda := rfl

/-! ### updCurTeam changes `teams` alone -/

@[simp] theorem State.updCurTeam_mem (s : State) (f : Team → Team) : (s.updCurTeam f).mem = s.mem := rfl
@[simp] theorem State.updCurTeam_rels (s : State) (f : Team → Team) : (s.updCurTeam f).rels = s.rels := rfl
@[simp] theorem State.updCurTeam_poison (s : State) (f : Team → Team) : (s.updCurTeam f).poison = s.poison := rfl
@[simp] theorem State.updCurTeam_poisonRegs (s : State) (f : Team → Team) : (s.updCurTeam f).poisonRegs = s.poisonRegs := rfl
@[simp] theorem State.updCurTeam_promo (s : State) (f : Team → Team) : (s.updCurTeam f).promo = s.promo := rfl
@[simp] theorem State.updCurTeam_rowans (s : State) (f : Team → Team) : (s.updCurTeam f).rowans = s.rowans := rfl
@[simp] theorem State.updCurTeam_rowanOut (s : State) (f : Team → Team) : (s.updCurTeam f).rowanOut = s.rowanOut := rfl
@[simp] theorem State.updCurTeam_hostAtomics (s : State) (f : Team → Team) : (s.updCurTeam f).hostAtomics = s.hostAtomics := rfl
@[simp] theorem State.updCurTeam_cores (s : State) (f : Team → Team) : (s.updCurTeam f).cores = s.cores := rfl
@[simp] theorem State.updCurTeam_dies (s : State) (f : Team → Team) : (s.updCurTeam f).dies = s.dies := rfl
@[simp] theorem State.updCurTeam_images (s : State) (f : Team → Team) : (s.updCurTeam f).images = s.images := rfl
@[simp] theorem State.updCurTeam_launches (s : State) (f : Team → Team) : (s.updCurTeam f).launches = s.launches := rfl
@[simp] theorem State.updCurTeam_relaunches (s : State) (f : Team → Team) : (s.updCurTeam f).relaunches = s.relaunches := rfl
@[simp] theorem State.updCurTeam_replays (s : State) (f : Team → Team) : (s.updCurTeam f).replays = s.replays := rfl
@[simp] theorem State.updCurTeam_graphs (s : State) (f : Team → Team) : (s.updCurTeam f).graphs = s.graphs := rfl
@[simp] theorem State.updCurTeam_nextLaunch (s : State) (f : Team → Team) : (s.updCurTeam f).nextLaunch = s.nextLaunch := rfl
@[simp] theorem State.updCurTeam_nextToken (s : State) (f : Team → Team) : (s.updCurTeam f).nextToken = s.nextToken := rfl
@[simp] theorem State.updCurTeam_nextHandle (s : State) (f : Team → Team) : (s.updCurTeam f).nextHandle = s.nextHandle := rfl
@[simp] theorem State.updCurTeam_rings (s : State) (f : Team → Team) : (s.updCurTeam f).rings = s.rings := rfl
@[simp] theorem State.updCurTeam_ports (s : State) (f : Team → Team) : (s.updCurTeam f).ports = s.ports := rfl
@[simp] theorem State.updCurTeam_regs (s : State) (f : Team → Team) : (s.updCurTeam f).regs = s.regs := rfl
@[simp] theorem State.updCurTeam_micro (s : State) (f : Team → Team) : (s.updCurTeam f).micro = s.micro := rfl
@[simp] theorem State.updCurTeam_hostHeld (s : State) (f : Team → Team) : (s.updCurTeam f).hostHeld = s.hostHeld := rfl
@[simp] theorem State.updCurTeam_attest (s : State) (f : Team → Team) : (s.updCurTeam f).attest = s.attest := rfl
@[simp] theorem State.updCurTeam_attNonce (s : State) (f : Team → Team) : (s.updCurTeam f).attNonce = s.attNonce := rfl
@[simp] theorem State.updCurTeam_attTaken (s : State) (f : Team → Team) : (s.updCurTeam f).attTaken = s.attTaken := rfl
@[simp] theorem State.updCurTeam_recWindow (s : State) (f : Team → Team) : (s.updCurTeam f).recWindow = s.recWindow := rfl
@[simp] theorem State.updCurTeam_flash (s : State) (f : Team → Team) : (s.updCurTeam f).flash = s.flash := rfl
@[simp] theorem State.updCurTeam_pcie (s : State) (f : Team → Team) : (s.updCurTeam f).pcie = s.pcie := rfl
@[simp] theorem State.updCurTeam_issues (s : State) (f : Team → Team) : (s.updCurTeam f).issues = s.issues := rfl
@[simp] theorem State.updCurTeam_uid (s : State) (f : Team → Team) : (s.updCurTeam f).uid = s.uid := rfl
@[simp] theorem State.updCurTeam_free (s : State) (f : Team → Team) : (s.updCurTeam f).free = s.free := rfl
@[simp] theorem State.updCurTeam_cur (s : State) (f : Team → Team) : (s.updCurTeam f).cur = s.cur := rfl
@[simp] theorem State.updCurTeam_agenda (s : State) (f : Team → Team) : (s.updCurTeam f).agenda = s.agenda := rfl

/-! ### updCore changes `cores` alone -/

@[simp] theorem State.updCore_mem (s : State) (c : Nat) (f : Core → Core) : (s.updCore c f).mem = s.mem := rfl
@[simp] theorem State.updCore_rels (s : State) (c : Nat) (f : Core → Core) : (s.updCore c f).rels = s.rels := rfl
@[simp] theorem State.updCore_poison (s : State) (c : Nat) (f : Core → Core) : (s.updCore c f).poison = s.poison := rfl
@[simp] theorem State.updCore_poisonRegs (s : State) (c : Nat) (f : Core → Core) : (s.updCore c f).poisonRegs = s.poisonRegs := rfl
@[simp] theorem State.updCore_promo (s : State) (c : Nat) (f : Core → Core) : (s.updCore c f).promo = s.promo := rfl
@[simp] theorem State.updCore_rowans (s : State) (c : Nat) (f : Core → Core) : (s.updCore c f).rowans = s.rowans := rfl
@[simp] theorem State.updCore_rowanOut (s : State) (c : Nat) (f : Core → Core) : (s.updCore c f).rowanOut = s.rowanOut := rfl
@[simp] theorem State.updCore_hostAtomics (s : State) (c : Nat) (f : Core → Core) : (s.updCore c f).hostAtomics = s.hostAtomics := rfl
@[simp] theorem State.updCore_dies (s : State) (c : Nat) (f : Core → Core) : (s.updCore c f).dies = s.dies := rfl
@[simp] theorem State.updCore_teams (s : State) (c : Nat) (f : Core → Core) : (s.updCore c f).teams = s.teams := rfl
@[simp] theorem State.updCore_images (s : State) (c : Nat) (f : Core → Core) : (s.updCore c f).images = s.images := rfl
@[simp] theorem State.updCore_launches (s : State) (c : Nat) (f : Core → Core) : (s.updCore c f).launches = s.launches := rfl
@[simp] theorem State.updCore_relaunches (s : State) (c : Nat) (f : Core → Core) : (s.updCore c f).relaunches = s.relaunches := rfl
@[simp] theorem State.updCore_replays (s : State) (c : Nat) (f : Core → Core) : (s.updCore c f).replays = s.replays := rfl
@[simp] theorem State.updCore_graphs (s : State) (c : Nat) (f : Core → Core) : (s.updCore c f).graphs = s.graphs := rfl
@[simp] theorem State.updCore_nextLaunch (s : State) (c : Nat) (f : Core → Core) : (s.updCore c f).nextLaunch = s.nextLaunch := rfl
@[simp] theorem State.updCore_nextToken (s : State) (c : Nat) (f : Core → Core) : (s.updCore c f).nextToken = s.nextToken := rfl
@[simp] theorem State.updCore_nextHandle (s : State) (c : Nat) (f : Core → Core) : (s.updCore c f).nextHandle = s.nextHandle := rfl
@[simp] theorem State.updCore_rings (s : State) (c : Nat) (f : Core → Core) : (s.updCore c f).rings = s.rings := rfl
@[simp] theorem State.updCore_ports (s : State) (c : Nat) (f : Core → Core) : (s.updCore c f).ports = s.ports := rfl
@[simp] theorem State.updCore_regs (s : State) (c : Nat) (f : Core → Core) : (s.updCore c f).regs = s.regs := rfl
@[simp] theorem State.updCore_micro (s : State) (c : Nat) (f : Core → Core) : (s.updCore c f).micro = s.micro := rfl
@[simp] theorem State.updCore_hostHeld (s : State) (c : Nat) (f : Core → Core) : (s.updCore c f).hostHeld = s.hostHeld := rfl
@[simp] theorem State.updCore_attest (s : State) (c : Nat) (f : Core → Core) : (s.updCore c f).attest = s.attest := rfl
@[simp] theorem State.updCore_attNonce (s : State) (c : Nat) (f : Core → Core) : (s.updCore c f).attNonce = s.attNonce := rfl
@[simp] theorem State.updCore_attTaken (s : State) (c : Nat) (f : Core → Core) : (s.updCore c f).attTaken = s.attTaken := rfl
@[simp] theorem State.updCore_recWindow (s : State) (c : Nat) (f : Core → Core) : (s.updCore c f).recWindow = s.recWindow := rfl
@[simp] theorem State.updCore_flash (s : State) (c : Nat) (f : Core → Core) : (s.updCore c f).flash = s.flash := rfl
@[simp] theorem State.updCore_pcie (s : State) (c : Nat) (f : Core → Core) : (s.updCore c f).pcie = s.pcie := rfl
@[simp] theorem State.updCore_issues (s : State) (c : Nat) (f : Core → Core) : (s.updCore c f).issues = s.issues := rfl
@[simp] theorem State.updCore_uid (s : State) (c : Nat) (f : Core → Core) : (s.updCore c f).uid = s.uid := rfl
@[simp] theorem State.updCore_free (s : State) (c : Nat) (f : Core → Core) : (s.updCore c f).free = s.free := rfl
@[simp] theorem State.updCore_cur (s : State) (c : Nat) (f : Core → Core) : (s.updCore c f).cur = s.cur := rfl
@[simp] theorem State.updCore_agenda (s : State) (c : Nat) (f : Core → Core) : (s.updCore c f).agenda = s.agenda := rfl

/-! ### updDie changes `dies` alone -/

@[simp] theorem State.updDie_mem (s : State) (d : Nat) (f : Die → Die) : (s.updDie d f).mem = s.mem := rfl
@[simp] theorem State.updDie_rels (s : State) (d : Nat) (f : Die → Die) : (s.updDie d f).rels = s.rels := rfl
@[simp] theorem State.updDie_poison (s : State) (d : Nat) (f : Die → Die) : (s.updDie d f).poison = s.poison := rfl
@[simp] theorem State.updDie_poisonRegs (s : State) (d : Nat) (f : Die → Die) : (s.updDie d f).poisonRegs = s.poisonRegs := rfl
@[simp] theorem State.updDie_promo (s : State) (d : Nat) (f : Die → Die) : (s.updDie d f).promo = s.promo := rfl
@[simp] theorem State.updDie_rowans (s : State) (d : Nat) (f : Die → Die) : (s.updDie d f).rowans = s.rowans := rfl
@[simp] theorem State.updDie_rowanOut (s : State) (d : Nat) (f : Die → Die) : (s.updDie d f).rowanOut = s.rowanOut := rfl
@[simp] theorem State.updDie_hostAtomics (s : State) (d : Nat) (f : Die → Die) : (s.updDie d f).hostAtomics = s.hostAtomics := rfl
@[simp] theorem State.updDie_cores (s : State) (d : Nat) (f : Die → Die) : (s.updDie d f).cores = s.cores := rfl
@[simp] theorem State.updDie_teams (s : State) (d : Nat) (f : Die → Die) : (s.updDie d f).teams = s.teams := rfl
@[simp] theorem State.updDie_images (s : State) (d : Nat) (f : Die → Die) : (s.updDie d f).images = s.images := rfl
@[simp] theorem State.updDie_launches (s : State) (d : Nat) (f : Die → Die) : (s.updDie d f).launches = s.launches := rfl
@[simp] theorem State.updDie_relaunches (s : State) (d : Nat) (f : Die → Die) : (s.updDie d f).relaunches = s.relaunches := rfl
@[simp] theorem State.updDie_replays (s : State) (d : Nat) (f : Die → Die) : (s.updDie d f).replays = s.replays := rfl
@[simp] theorem State.updDie_graphs (s : State) (d : Nat) (f : Die → Die) : (s.updDie d f).graphs = s.graphs := rfl
@[simp] theorem State.updDie_nextLaunch (s : State) (d : Nat) (f : Die → Die) : (s.updDie d f).nextLaunch = s.nextLaunch := rfl
@[simp] theorem State.updDie_nextToken (s : State) (d : Nat) (f : Die → Die) : (s.updDie d f).nextToken = s.nextToken := rfl
@[simp] theorem State.updDie_nextHandle (s : State) (d : Nat) (f : Die → Die) : (s.updDie d f).nextHandle = s.nextHandle := rfl
@[simp] theorem State.updDie_rings (s : State) (d : Nat) (f : Die → Die) : (s.updDie d f).rings = s.rings := rfl
@[simp] theorem State.updDie_ports (s : State) (d : Nat) (f : Die → Die) : (s.updDie d f).ports = s.ports := rfl
@[simp] theorem State.updDie_regs (s : State) (d : Nat) (f : Die → Die) : (s.updDie d f).regs = s.regs := rfl
@[simp] theorem State.updDie_micro (s : State) (d : Nat) (f : Die → Die) : (s.updDie d f).micro = s.micro := rfl
@[simp] theorem State.updDie_hostHeld (s : State) (d : Nat) (f : Die → Die) : (s.updDie d f).hostHeld = s.hostHeld := rfl
@[simp] theorem State.updDie_attest (s : State) (d : Nat) (f : Die → Die) : (s.updDie d f).attest = s.attest := rfl
@[simp] theorem State.updDie_attNonce (s : State) (d : Nat) (f : Die → Die) : (s.updDie d f).attNonce = s.attNonce := rfl
@[simp] theorem State.updDie_attTaken (s : State) (d : Nat) (f : Die → Die) : (s.updDie d f).attTaken = s.attTaken := rfl
@[simp] theorem State.updDie_recWindow (s : State) (d : Nat) (f : Die → Die) : (s.updDie d f).recWindow = s.recWindow := rfl
@[simp] theorem State.updDie_flash (s : State) (d : Nat) (f : Die → Die) : (s.updDie d f).flash = s.flash := rfl
@[simp] theorem State.updDie_pcie (s : State) (d : Nat) (f : Die → Die) : (s.updDie d f).pcie = s.pcie := rfl
@[simp] theorem State.updDie_issues (s : State) (d : Nat) (f : Die → Die) : (s.updDie d f).issues = s.issues := rfl
@[simp] theorem State.updDie_uid (s : State) (d : Nat) (f : Die → Die) : (s.updDie d f).uid = s.uid := rfl
@[simp] theorem State.updDie_free (s : State) (d : Nat) (f : Die → Die) : (s.updDie d f).free = s.free := rfl
@[simp] theorem State.updDie_cur (s : State) (d : Nat) (f : Die → Die) : (s.updDie d f).cur = s.cur := rfl
@[simp] theorem State.updDie_agenda (s : State) (d : Nat) (f : Die → Die) : (s.updDie d f).agenda = s.agenda := rfl

/-! ### updLaunch changes `launches` alone -/

@[simp] theorem State.updLaunch_mem (s : State) (i : Nat) (f : Launch → Launch) : (s.updLaunch i f).mem = s.mem := rfl
@[simp] theorem State.updLaunch_rels (s : State) (i : Nat) (f : Launch → Launch) : (s.updLaunch i f).rels = s.rels := rfl
@[simp] theorem State.updLaunch_poison (s : State) (i : Nat) (f : Launch → Launch) : (s.updLaunch i f).poison = s.poison := rfl
@[simp] theorem State.updLaunch_poisonRegs (s : State) (i : Nat) (f : Launch → Launch) : (s.updLaunch i f).poisonRegs = s.poisonRegs := rfl
@[simp] theorem State.updLaunch_promo (s : State) (i : Nat) (f : Launch → Launch) : (s.updLaunch i f).promo = s.promo := rfl
@[simp] theorem State.updLaunch_rowans (s : State) (i : Nat) (f : Launch → Launch) : (s.updLaunch i f).rowans = s.rowans := rfl
@[simp] theorem State.updLaunch_rowanOut (s : State) (i : Nat) (f : Launch → Launch) : (s.updLaunch i f).rowanOut = s.rowanOut := rfl
@[simp] theorem State.updLaunch_hostAtomics (s : State) (i : Nat) (f : Launch → Launch) : (s.updLaunch i f).hostAtomics = s.hostAtomics := rfl
@[simp] theorem State.updLaunch_cores (s : State) (i : Nat) (f : Launch → Launch) : (s.updLaunch i f).cores = s.cores := rfl
@[simp] theorem State.updLaunch_dies (s : State) (i : Nat) (f : Launch → Launch) : (s.updLaunch i f).dies = s.dies := rfl
@[simp] theorem State.updLaunch_teams (s : State) (i : Nat) (f : Launch → Launch) : (s.updLaunch i f).teams = s.teams := rfl
@[simp] theorem State.updLaunch_images (s : State) (i : Nat) (f : Launch → Launch) : (s.updLaunch i f).images = s.images := rfl
@[simp] theorem State.updLaunch_relaunches (s : State) (i : Nat) (f : Launch → Launch) : (s.updLaunch i f).relaunches = s.relaunches := rfl
@[simp] theorem State.updLaunch_replays (s : State) (i : Nat) (f : Launch → Launch) : (s.updLaunch i f).replays = s.replays := rfl
@[simp] theorem State.updLaunch_graphs (s : State) (i : Nat) (f : Launch → Launch) : (s.updLaunch i f).graphs = s.graphs := rfl
@[simp] theorem State.updLaunch_nextLaunch (s : State) (i : Nat) (f : Launch → Launch) : (s.updLaunch i f).nextLaunch = s.nextLaunch := rfl
@[simp] theorem State.updLaunch_nextToken (s : State) (i : Nat) (f : Launch → Launch) : (s.updLaunch i f).nextToken = s.nextToken := rfl
@[simp] theorem State.updLaunch_nextHandle (s : State) (i : Nat) (f : Launch → Launch) : (s.updLaunch i f).nextHandle = s.nextHandle := rfl
@[simp] theorem State.updLaunch_rings (s : State) (i : Nat) (f : Launch → Launch) : (s.updLaunch i f).rings = s.rings := rfl
@[simp] theorem State.updLaunch_ports (s : State) (i : Nat) (f : Launch → Launch) : (s.updLaunch i f).ports = s.ports := rfl
@[simp] theorem State.updLaunch_regs (s : State) (i : Nat) (f : Launch → Launch) : (s.updLaunch i f).regs = s.regs := rfl
@[simp] theorem State.updLaunch_micro (s : State) (i : Nat) (f : Launch → Launch) : (s.updLaunch i f).micro = s.micro := rfl
@[simp] theorem State.updLaunch_hostHeld (s : State) (i : Nat) (f : Launch → Launch) : (s.updLaunch i f).hostHeld = s.hostHeld := rfl
@[simp] theorem State.updLaunch_attest (s : State) (i : Nat) (f : Launch → Launch) : (s.updLaunch i f).attest = s.attest := rfl
@[simp] theorem State.updLaunch_attNonce (s : State) (i : Nat) (f : Launch → Launch) : (s.updLaunch i f).attNonce = s.attNonce := rfl
@[simp] theorem State.updLaunch_attTaken (s : State) (i : Nat) (f : Launch → Launch) : (s.updLaunch i f).attTaken = s.attTaken := rfl
@[simp] theorem State.updLaunch_recWindow (s : State) (i : Nat) (f : Launch → Launch) : (s.updLaunch i f).recWindow = s.recWindow := rfl
@[simp] theorem State.updLaunch_flash (s : State) (i : Nat) (f : Launch → Launch) : (s.updLaunch i f).flash = s.flash := rfl
@[simp] theorem State.updLaunch_pcie (s : State) (i : Nat) (f : Launch → Launch) : (s.updLaunch i f).pcie = s.pcie := rfl
@[simp] theorem State.updLaunch_issues (s : State) (i : Nat) (f : Launch → Launch) : (s.updLaunch i f).issues = s.issues := rfl
@[simp] theorem State.updLaunch_uid (s : State) (i : Nat) (f : Launch → Launch) : (s.updLaunch i f).uid = s.uid := rfl
@[simp] theorem State.updLaunch_free (s : State) (i : Nat) (f : Launch → Launch) : (s.updLaunch i f).free = s.free := rfl
@[simp] theorem State.updLaunch_cur (s : State) (i : Nat) (f : Launch → Launch) : (s.updLaunch i f).cur = s.cur := rfl
@[simp] theorem State.updLaunch_agenda (s : State) (i : Nat) (f : Launch → Launch) : (s.updLaunch i f).agenda = s.agenda := rfl

/-! ### updRing changes `rings` alone -/

@[simp] theorem State.updRing_mem (s : State) (i : Nat) (f : HostRing → HostRing) : (s.updRing i f).mem = s.mem := rfl
@[simp] theorem State.updRing_rels (s : State) (i : Nat) (f : HostRing → HostRing) : (s.updRing i f).rels = s.rels := rfl
@[simp] theorem State.updRing_poison (s : State) (i : Nat) (f : HostRing → HostRing) : (s.updRing i f).poison = s.poison := rfl
@[simp] theorem State.updRing_poisonRegs (s : State) (i : Nat) (f : HostRing → HostRing) : (s.updRing i f).poisonRegs = s.poisonRegs := rfl
@[simp] theorem State.updRing_promo (s : State) (i : Nat) (f : HostRing → HostRing) : (s.updRing i f).promo = s.promo := rfl
@[simp] theorem State.updRing_rowans (s : State) (i : Nat) (f : HostRing → HostRing) : (s.updRing i f).rowans = s.rowans := rfl
@[simp] theorem State.updRing_rowanOut (s : State) (i : Nat) (f : HostRing → HostRing) : (s.updRing i f).rowanOut = s.rowanOut := rfl
@[simp] theorem State.updRing_hostAtomics (s : State) (i : Nat) (f : HostRing → HostRing) : (s.updRing i f).hostAtomics = s.hostAtomics := rfl
@[simp] theorem State.updRing_cores (s : State) (i : Nat) (f : HostRing → HostRing) : (s.updRing i f).cores = s.cores := rfl
@[simp] theorem State.updRing_dies (s : State) (i : Nat) (f : HostRing → HostRing) : (s.updRing i f).dies = s.dies := rfl
@[simp] theorem State.updRing_teams (s : State) (i : Nat) (f : HostRing → HostRing) : (s.updRing i f).teams = s.teams := rfl
@[simp] theorem State.updRing_images (s : State) (i : Nat) (f : HostRing → HostRing) : (s.updRing i f).images = s.images := rfl
@[simp] theorem State.updRing_launches (s : State) (i : Nat) (f : HostRing → HostRing) : (s.updRing i f).launches = s.launches := rfl
@[simp] theorem State.updRing_relaunches (s : State) (i : Nat) (f : HostRing → HostRing) : (s.updRing i f).relaunches = s.relaunches := rfl
@[simp] theorem State.updRing_replays (s : State) (i : Nat) (f : HostRing → HostRing) : (s.updRing i f).replays = s.replays := rfl
@[simp] theorem State.updRing_graphs (s : State) (i : Nat) (f : HostRing → HostRing) : (s.updRing i f).graphs = s.graphs := rfl
@[simp] theorem State.updRing_nextLaunch (s : State) (i : Nat) (f : HostRing → HostRing) : (s.updRing i f).nextLaunch = s.nextLaunch := rfl
@[simp] theorem State.updRing_nextToken (s : State) (i : Nat) (f : HostRing → HostRing) : (s.updRing i f).nextToken = s.nextToken := rfl
@[simp] theorem State.updRing_nextHandle (s : State) (i : Nat) (f : HostRing → HostRing) : (s.updRing i f).nextHandle = s.nextHandle := rfl
@[simp] theorem State.updRing_ports (s : State) (i : Nat) (f : HostRing → HostRing) : (s.updRing i f).ports = s.ports := rfl
@[simp] theorem State.updRing_regs (s : State) (i : Nat) (f : HostRing → HostRing) : (s.updRing i f).regs = s.regs := rfl
@[simp] theorem State.updRing_micro (s : State) (i : Nat) (f : HostRing → HostRing) : (s.updRing i f).micro = s.micro := rfl
@[simp] theorem State.updRing_hostHeld (s : State) (i : Nat) (f : HostRing → HostRing) : (s.updRing i f).hostHeld = s.hostHeld := rfl
@[simp] theorem State.updRing_attest (s : State) (i : Nat) (f : HostRing → HostRing) : (s.updRing i f).attest = s.attest := rfl
@[simp] theorem State.updRing_attNonce (s : State) (i : Nat) (f : HostRing → HostRing) : (s.updRing i f).attNonce = s.attNonce := rfl
@[simp] theorem State.updRing_attTaken (s : State) (i : Nat) (f : HostRing → HostRing) : (s.updRing i f).attTaken = s.attTaken := rfl
@[simp] theorem State.updRing_recWindow (s : State) (i : Nat) (f : HostRing → HostRing) : (s.updRing i f).recWindow = s.recWindow := rfl
@[simp] theorem State.updRing_flash (s : State) (i : Nat) (f : HostRing → HostRing) : (s.updRing i f).flash = s.flash := rfl
@[simp] theorem State.updRing_pcie (s : State) (i : Nat) (f : HostRing → HostRing) : (s.updRing i f).pcie = s.pcie := rfl
@[simp] theorem State.updRing_issues (s : State) (i : Nat) (f : HostRing → HostRing) : (s.updRing i f).issues = s.issues := rfl
@[simp] theorem State.updRing_uid (s : State) (i : Nat) (f : HostRing → HostRing) : (s.updRing i f).uid = s.uid := rfl
@[simp] theorem State.updRing_free (s : State) (i : Nat) (f : HostRing → HostRing) : (s.updRing i f).free = s.free := rfl
@[simp] theorem State.updRing_cur (s : State) (i : Nat) (f : HostRing → HostRing) : (s.updRing i f).cur = s.cur := rfl
@[simp] theorem State.updRing_agenda (s : State) (i : Nat) (f : HostRing → HostRing) : (s.updRing i f).agenda = s.agenda := rfl

/-! ### updPort changes `ports` alone -/

@[simp] theorem State.updPort_mem (s : State) (i : Nat) (f : Port → Port) : (s.updPort i f).mem = s.mem := rfl
@[simp] theorem State.updPort_rels (s : State) (i : Nat) (f : Port → Port) : (s.updPort i f).rels = s.rels := rfl
@[simp] theorem State.updPort_poison (s : State) (i : Nat) (f : Port → Port) : (s.updPort i f).poison = s.poison := rfl
@[simp] theorem State.updPort_poisonRegs (s : State) (i : Nat) (f : Port → Port) : (s.updPort i f).poisonRegs = s.poisonRegs := rfl
@[simp] theorem State.updPort_promo (s : State) (i : Nat) (f : Port → Port) : (s.updPort i f).promo = s.promo := rfl
@[simp] theorem State.updPort_rowans (s : State) (i : Nat) (f : Port → Port) : (s.updPort i f).rowans = s.rowans := rfl
@[simp] theorem State.updPort_rowanOut (s : State) (i : Nat) (f : Port → Port) : (s.updPort i f).rowanOut = s.rowanOut := rfl
@[simp] theorem State.updPort_hostAtomics (s : State) (i : Nat) (f : Port → Port) : (s.updPort i f).hostAtomics = s.hostAtomics := rfl
@[simp] theorem State.updPort_cores (s : State) (i : Nat) (f : Port → Port) : (s.updPort i f).cores = s.cores := rfl
@[simp] theorem State.updPort_dies (s : State) (i : Nat) (f : Port → Port) : (s.updPort i f).dies = s.dies := rfl
@[simp] theorem State.updPort_teams (s : State) (i : Nat) (f : Port → Port) : (s.updPort i f).teams = s.teams := rfl
@[simp] theorem State.updPort_images (s : State) (i : Nat) (f : Port → Port) : (s.updPort i f).images = s.images := rfl
@[simp] theorem State.updPort_launches (s : State) (i : Nat) (f : Port → Port) : (s.updPort i f).launches = s.launches := rfl
@[simp] theorem State.updPort_relaunches (s : State) (i : Nat) (f : Port → Port) : (s.updPort i f).relaunches = s.relaunches := rfl
@[simp] theorem State.updPort_replays (s : State) (i : Nat) (f : Port → Port) : (s.updPort i f).replays = s.replays := rfl
@[simp] theorem State.updPort_graphs (s : State) (i : Nat) (f : Port → Port) : (s.updPort i f).graphs = s.graphs := rfl
@[simp] theorem State.updPort_nextLaunch (s : State) (i : Nat) (f : Port → Port) : (s.updPort i f).nextLaunch = s.nextLaunch := rfl
@[simp] theorem State.updPort_nextToken (s : State) (i : Nat) (f : Port → Port) : (s.updPort i f).nextToken = s.nextToken := rfl
@[simp] theorem State.updPort_nextHandle (s : State) (i : Nat) (f : Port → Port) : (s.updPort i f).nextHandle = s.nextHandle := rfl
@[simp] theorem State.updPort_rings (s : State) (i : Nat) (f : Port → Port) : (s.updPort i f).rings = s.rings := rfl
@[simp] theorem State.updPort_regs (s : State) (i : Nat) (f : Port → Port) : (s.updPort i f).regs = s.regs := rfl
@[simp] theorem State.updPort_micro (s : State) (i : Nat) (f : Port → Port) : (s.updPort i f).micro = s.micro := rfl
@[simp] theorem State.updPort_hostHeld (s : State) (i : Nat) (f : Port → Port) : (s.updPort i f).hostHeld = s.hostHeld := rfl
@[simp] theorem State.updPort_attest (s : State) (i : Nat) (f : Port → Port) : (s.updPort i f).attest = s.attest := rfl
@[simp] theorem State.updPort_attNonce (s : State) (i : Nat) (f : Port → Port) : (s.updPort i f).attNonce = s.attNonce := rfl
@[simp] theorem State.updPort_attTaken (s : State) (i : Nat) (f : Port → Port) : (s.updPort i f).attTaken = s.attTaken := rfl
@[simp] theorem State.updPort_recWindow (s : State) (i : Nat) (f : Port → Port) : (s.updPort i f).recWindow = s.recWindow := rfl
@[simp] theorem State.updPort_flash (s : State) (i : Nat) (f : Port → Port) : (s.updPort i f).flash = s.flash := rfl
@[simp] theorem State.updPort_pcie (s : State) (i : Nat) (f : Port → Port) : (s.updPort i f).pcie = s.pcie := rfl
@[simp] theorem State.updPort_issues (s : State) (i : Nat) (f : Port → Port) : (s.updPort i f).issues = s.issues := rfl
@[simp] theorem State.updPort_uid (s : State) (i : Nat) (f : Port → Port) : (s.updPort i f).uid = s.uid := rfl
@[simp] theorem State.updPort_free (s : State) (i : Nat) (f : Port → Port) : (s.updPort i f).free = s.free := rfl
@[simp] theorem State.updPort_cur (s : State) (i : Nat) (f : Port → Port) : (s.updPort i f).cur = s.cur := rfl
@[simp] theorem State.updPort_agenda (s : State) (i : Nat) (f : Port → Port) : (s.updPort i f).agenda = s.agenda := rfl

/-! ### updRegs changes `regs` alone -/

@[simp] theorem State.updRegs_mem (s : State) (f : Regs → Regs) : (s.updRegs f).mem = s.mem := rfl
@[simp] theorem State.updRegs_rels (s : State) (f : Regs → Regs) : (s.updRegs f).rels = s.rels := rfl
@[simp] theorem State.updRegs_poison (s : State) (f : Regs → Regs) : (s.updRegs f).poison = s.poison := rfl
@[simp] theorem State.updRegs_poisonRegs (s : State) (f : Regs → Regs) : (s.updRegs f).poisonRegs = s.poisonRegs := rfl
@[simp] theorem State.updRegs_promo (s : State) (f : Regs → Regs) : (s.updRegs f).promo = s.promo := rfl
@[simp] theorem State.updRegs_rowans (s : State) (f : Regs → Regs) : (s.updRegs f).rowans = s.rowans := rfl
@[simp] theorem State.updRegs_rowanOut (s : State) (f : Regs → Regs) : (s.updRegs f).rowanOut = s.rowanOut := rfl
@[simp] theorem State.updRegs_hostAtomics (s : State) (f : Regs → Regs) : (s.updRegs f).hostAtomics = s.hostAtomics := rfl
@[simp] theorem State.updRegs_cores (s : State) (f : Regs → Regs) : (s.updRegs f).cores = s.cores := rfl
@[simp] theorem State.updRegs_dies (s : State) (f : Regs → Regs) : (s.updRegs f).dies = s.dies := rfl
@[simp] theorem State.updRegs_teams (s : State) (f : Regs → Regs) : (s.updRegs f).teams = s.teams := rfl
@[simp] theorem State.updRegs_images (s : State) (f : Regs → Regs) : (s.updRegs f).images = s.images := rfl
@[simp] theorem State.updRegs_launches (s : State) (f : Regs → Regs) : (s.updRegs f).launches = s.launches := rfl
@[simp] theorem State.updRegs_relaunches (s : State) (f : Regs → Regs) : (s.updRegs f).relaunches = s.relaunches := rfl
@[simp] theorem State.updRegs_replays (s : State) (f : Regs → Regs) : (s.updRegs f).replays = s.replays := rfl
@[simp] theorem State.updRegs_graphs (s : State) (f : Regs → Regs) : (s.updRegs f).graphs = s.graphs := rfl
@[simp] theorem State.updRegs_nextLaunch (s : State) (f : Regs → Regs) : (s.updRegs f).nextLaunch = s.nextLaunch := rfl
@[simp] theorem State.updRegs_nextToken (s : State) (f : Regs → Regs) : (s.updRegs f).nextToken = s.nextToken := rfl
@[simp] theorem State.updRegs_nextHandle (s : State) (f : Regs → Regs) : (s.updRegs f).nextHandle = s.nextHandle := rfl
@[simp] theorem State.updRegs_rings (s : State) (f : Regs → Regs) : (s.updRegs f).rings = s.rings := rfl
@[simp] theorem State.updRegs_ports (s : State) (f : Regs → Regs) : (s.updRegs f).ports = s.ports := rfl
@[simp] theorem State.updRegs_micro (s : State) (f : Regs → Regs) : (s.updRegs f).micro = s.micro := rfl
@[simp] theorem State.updRegs_hostHeld (s : State) (f : Regs → Regs) : (s.updRegs f).hostHeld = s.hostHeld := rfl
@[simp] theorem State.updRegs_attest (s : State) (f : Regs → Regs) : (s.updRegs f).attest = s.attest := rfl
@[simp] theorem State.updRegs_attNonce (s : State) (f : Regs → Regs) : (s.updRegs f).attNonce = s.attNonce := rfl
@[simp] theorem State.updRegs_attTaken (s : State) (f : Regs → Regs) : (s.updRegs f).attTaken = s.attTaken := rfl
@[simp] theorem State.updRegs_recWindow (s : State) (f : Regs → Regs) : (s.updRegs f).recWindow = s.recWindow := rfl
@[simp] theorem State.updRegs_flash (s : State) (f : Regs → Regs) : (s.updRegs f).flash = s.flash := rfl
@[simp] theorem State.updRegs_pcie (s : State) (f : Regs → Regs) : (s.updRegs f).pcie = s.pcie := rfl
@[simp] theorem State.updRegs_issues (s : State) (f : Regs → Regs) : (s.updRegs f).issues = s.issues := rfl
@[simp] theorem State.updRegs_uid (s : State) (f : Regs → Regs) : (s.updRegs f).uid = s.uid := rfl
@[simp] theorem State.updRegs_free (s : State) (f : Regs → Regs) : (s.updRegs f).free = s.free := rfl
@[simp] theorem State.updRegs_cur (s : State) (f : Regs → Regs) : (s.updRegs f).cur = s.cur := rfl
@[simp] theorem State.updRegs_agenda (s : State) (f : Regs → Regs) : (s.updRegs f).agenda = s.agenda := rfl

/-! ### pushRecord changes `rings` alone -/

@[simp] theorem State.pushRecord_mem (s : State) (i : Nat) (rec : List Word) : (s.pushRecord i rec).mem = s.mem := rfl
@[simp] theorem State.pushRecord_rels (s : State) (i : Nat) (rec : List Word) : (s.pushRecord i rec).rels = s.rels := rfl
@[simp] theorem State.pushRecord_poison (s : State) (i : Nat) (rec : List Word) : (s.pushRecord i rec).poison = s.poison := rfl
@[simp] theorem State.pushRecord_poisonRegs (s : State) (i : Nat) (rec : List Word) : (s.pushRecord i rec).poisonRegs = s.poisonRegs := rfl
@[simp] theorem State.pushRecord_promo (s : State) (i : Nat) (rec : List Word) : (s.pushRecord i rec).promo = s.promo := rfl
@[simp] theorem State.pushRecord_rowans (s : State) (i : Nat) (rec : List Word) : (s.pushRecord i rec).rowans = s.rowans := rfl
@[simp] theorem State.pushRecord_rowanOut (s : State) (i : Nat) (rec : List Word) : (s.pushRecord i rec).rowanOut = s.rowanOut := rfl
@[simp] theorem State.pushRecord_hostAtomics (s : State) (i : Nat) (rec : List Word) : (s.pushRecord i rec).hostAtomics = s.hostAtomics := rfl
@[simp] theorem State.pushRecord_cores (s : State) (i : Nat) (rec : List Word) : (s.pushRecord i rec).cores = s.cores := rfl
@[simp] theorem State.pushRecord_dies (s : State) (i : Nat) (rec : List Word) : (s.pushRecord i rec).dies = s.dies := rfl
@[simp] theorem State.pushRecord_teams (s : State) (i : Nat) (rec : List Word) : (s.pushRecord i rec).teams = s.teams := rfl
@[simp] theorem State.pushRecord_images (s : State) (i : Nat) (rec : List Word) : (s.pushRecord i rec).images = s.images := rfl
@[simp] theorem State.pushRecord_launches (s : State) (i : Nat) (rec : List Word) : (s.pushRecord i rec).launches = s.launches := rfl
@[simp] theorem State.pushRecord_relaunches (s : State) (i : Nat) (rec : List Word) : (s.pushRecord i rec).relaunches = s.relaunches := rfl
@[simp] theorem State.pushRecord_replays (s : State) (i : Nat) (rec : List Word) : (s.pushRecord i rec).replays = s.replays := rfl
@[simp] theorem State.pushRecord_graphs (s : State) (i : Nat) (rec : List Word) : (s.pushRecord i rec).graphs = s.graphs := rfl
@[simp] theorem State.pushRecord_nextLaunch (s : State) (i : Nat) (rec : List Word) : (s.pushRecord i rec).nextLaunch = s.nextLaunch := rfl
@[simp] theorem State.pushRecord_nextToken (s : State) (i : Nat) (rec : List Word) : (s.pushRecord i rec).nextToken = s.nextToken := rfl
@[simp] theorem State.pushRecord_nextHandle (s : State) (i : Nat) (rec : List Word) : (s.pushRecord i rec).nextHandle = s.nextHandle := rfl
@[simp] theorem State.pushRecord_ports (s : State) (i : Nat) (rec : List Word) : (s.pushRecord i rec).ports = s.ports := rfl
@[simp] theorem State.pushRecord_regs (s : State) (i : Nat) (rec : List Word) : (s.pushRecord i rec).regs = s.regs := rfl
@[simp] theorem State.pushRecord_micro (s : State) (i : Nat) (rec : List Word) : (s.pushRecord i rec).micro = s.micro := rfl
@[simp] theorem State.pushRecord_hostHeld (s : State) (i : Nat) (rec : List Word) : (s.pushRecord i rec).hostHeld = s.hostHeld := rfl
@[simp] theorem State.pushRecord_attest (s : State) (i : Nat) (rec : List Word) : (s.pushRecord i rec).attest = s.attest := rfl
@[simp] theorem State.pushRecord_attNonce (s : State) (i : Nat) (rec : List Word) : (s.pushRecord i rec).attNonce = s.attNonce := rfl
@[simp] theorem State.pushRecord_attTaken (s : State) (i : Nat) (rec : List Word) : (s.pushRecord i rec).attTaken = s.attTaken := rfl
@[simp] theorem State.pushRecord_recWindow (s : State) (i : Nat) (rec : List Word) : (s.pushRecord i rec).recWindow = s.recWindow := rfl
@[simp] theorem State.pushRecord_flash (s : State) (i : Nat) (rec : List Word) : (s.pushRecord i rec).flash = s.flash := rfl
@[simp] theorem State.pushRecord_pcie (s : State) (i : Nat) (rec : List Word) : (s.pushRecord i rec).pcie = s.pcie := rfl
@[simp] theorem State.pushRecord_issues (s : State) (i : Nat) (rec : List Word) : (s.pushRecord i rec).issues = s.issues := rfl
@[simp] theorem State.pushRecord_uid (s : State) (i : Nat) (rec : List Word) : (s.pushRecord i rec).uid = s.uid := rfl
@[simp] theorem State.pushRecord_free (s : State) (i : Nat) (rec : List Word) : (s.pushRecord i rec).free = s.free := rfl
@[simp] theorem State.pushRecord_cur (s : State) (i : Nat) (rec : List Word) : (s.pushRecord i rec).cur = s.cur := rfl
@[simp] theorem State.pushRecord_agenda (s : State) (i : Nat) (rec : List Word) : (s.pushRecord i rec).agenda = s.agenda := rfl

/-! ### finish changes `teams` alone -/

@[simp] theorem State.finish_mem (s : State) (h : Hdr) : (s.finish h).mem = s.mem := rfl
@[simp] theorem State.finish_rels (s : State) (h : Hdr) : (s.finish h).rels = s.rels := rfl
@[simp] theorem State.finish_poison (s : State) (h : Hdr) : (s.finish h).poison = s.poison := rfl
@[simp] theorem State.finish_poisonRegs (s : State) (h : Hdr) : (s.finish h).poisonRegs = s.poisonRegs := rfl
@[simp] theorem State.finish_promo (s : State) (h : Hdr) : (s.finish h).promo = s.promo := rfl
@[simp] theorem State.finish_rowans (s : State) (h : Hdr) : (s.finish h).rowans = s.rowans := rfl
@[simp] theorem State.finish_rowanOut (s : State) (h : Hdr) : (s.finish h).rowanOut = s.rowanOut := rfl
@[simp] theorem State.finish_hostAtomics (s : State) (h : Hdr) : (s.finish h).hostAtomics = s.hostAtomics := rfl
@[simp] theorem State.finish_cores (s : State) (h : Hdr) : (s.finish h).cores = s.cores := rfl
@[simp] theorem State.finish_dies (s : State) (h : Hdr) : (s.finish h).dies = s.dies := rfl
@[simp] theorem State.finish_images (s : State) (h : Hdr) : (s.finish h).images = s.images := rfl
@[simp] theorem State.finish_launches (s : State) (h : Hdr) : (s.finish h).launches = s.launches := rfl
@[simp] theorem State.finish_relaunches (s : State) (h : Hdr) : (s.finish h).relaunches = s.relaunches := rfl
@[simp] theorem State.finish_replays (s : State) (h : Hdr) : (s.finish h).replays = s.replays := rfl
@[simp] theorem State.finish_graphs (s : State) (h : Hdr) : (s.finish h).graphs = s.graphs := rfl
@[simp] theorem State.finish_nextLaunch (s : State) (h : Hdr) : (s.finish h).nextLaunch = s.nextLaunch := rfl
@[simp] theorem State.finish_nextToken (s : State) (h : Hdr) : (s.finish h).nextToken = s.nextToken := rfl
@[simp] theorem State.finish_nextHandle (s : State) (h : Hdr) : (s.finish h).nextHandle = s.nextHandle := rfl
@[simp] theorem State.finish_rings (s : State) (h : Hdr) : (s.finish h).rings = s.rings := rfl
@[simp] theorem State.finish_ports (s : State) (h : Hdr) : (s.finish h).ports = s.ports := rfl
@[simp] theorem State.finish_regs (s : State) (h : Hdr) : (s.finish h).regs = s.regs := rfl
@[simp] theorem State.finish_micro (s : State) (h : Hdr) : (s.finish h).micro = s.micro := rfl
@[simp] theorem State.finish_hostHeld (s : State) (h : Hdr) : (s.finish h).hostHeld = s.hostHeld := rfl
@[simp] theorem State.finish_attest (s : State) (h : Hdr) : (s.finish h).attest = s.attest := rfl
@[simp] theorem State.finish_attNonce (s : State) (h : Hdr) : (s.finish h).attNonce = s.attNonce := rfl
@[simp] theorem State.finish_attTaken (s : State) (h : Hdr) : (s.finish h).attTaken = s.attTaken := rfl
@[simp] theorem State.finish_recWindow (s : State) (h : Hdr) : (s.finish h).recWindow = s.recWindow := rfl
@[simp] theorem State.finish_flash (s : State) (h : Hdr) : (s.finish h).flash = s.flash := rfl
@[simp] theorem State.finish_pcie (s : State) (h : Hdr) : (s.finish h).pcie = s.pcie := rfl
@[simp] theorem State.finish_issues (s : State) (h : Hdr) : (s.finish h).issues = s.issues := rfl
@[simp] theorem State.finish_uid (s : State) (h : Hdr) : (s.finish h).uid = s.uid := rfl
@[simp] theorem State.finish_free (s : State) (h : Hdr) : (s.finish h).free = s.free := rfl
@[simp] theorem State.finish_cur (s : State) (h : Hdr) : (s.finish h).cur = s.cur := rfl
@[simp] theorem State.finish_agenda (s : State) (h : Hdr) : (s.finish h).agenda = s.agenda := rfl

/-! ### moved changes `teams` alone -/

@[simp] theorem State.moved_mem (s : State) (h : Hdr) : (s.moved h).mem = s.mem := rfl
@[simp] theorem State.moved_rels (s : State) (h : Hdr) : (s.moved h).rels = s.rels := rfl
@[simp] theorem State.moved_poison (s : State) (h : Hdr) : (s.moved h).poison = s.poison := rfl
@[simp] theorem State.moved_poisonRegs (s : State) (h : Hdr) : (s.moved h).poisonRegs = s.poisonRegs := rfl
@[simp] theorem State.moved_promo (s : State) (h : Hdr) : (s.moved h).promo = s.promo := rfl
@[simp] theorem State.moved_rowans (s : State) (h : Hdr) : (s.moved h).rowans = s.rowans := rfl
@[simp] theorem State.moved_rowanOut (s : State) (h : Hdr) : (s.moved h).rowanOut = s.rowanOut := rfl
@[simp] theorem State.moved_hostAtomics (s : State) (h : Hdr) : (s.moved h).hostAtomics = s.hostAtomics := rfl
@[simp] theorem State.moved_cores (s : State) (h : Hdr) : (s.moved h).cores = s.cores := rfl
@[simp] theorem State.moved_dies (s : State) (h : Hdr) : (s.moved h).dies = s.dies := rfl
@[simp] theorem State.moved_images (s : State) (h : Hdr) : (s.moved h).images = s.images := rfl
@[simp] theorem State.moved_launches (s : State) (h : Hdr) : (s.moved h).launches = s.launches := rfl
@[simp] theorem State.moved_relaunches (s : State) (h : Hdr) : (s.moved h).relaunches = s.relaunches := rfl
@[simp] theorem State.moved_replays (s : State) (h : Hdr) : (s.moved h).replays = s.replays := rfl
@[simp] theorem State.moved_graphs (s : State) (h : Hdr) : (s.moved h).graphs = s.graphs := rfl
@[simp] theorem State.moved_nextLaunch (s : State) (h : Hdr) : (s.moved h).nextLaunch = s.nextLaunch := rfl
@[simp] theorem State.moved_nextToken (s : State) (h : Hdr) : (s.moved h).nextToken = s.nextToken := rfl
@[simp] theorem State.moved_nextHandle (s : State) (h : Hdr) : (s.moved h).nextHandle = s.nextHandle := rfl
@[simp] theorem State.moved_rings (s : State) (h : Hdr) : (s.moved h).rings = s.rings := rfl
@[simp] theorem State.moved_ports (s : State) (h : Hdr) : (s.moved h).ports = s.ports := rfl
@[simp] theorem State.moved_regs (s : State) (h : Hdr) : (s.moved h).regs = s.regs := rfl
@[simp] theorem State.moved_micro (s : State) (h : Hdr) : (s.moved h).micro = s.micro := rfl
@[simp] theorem State.moved_hostHeld (s : State) (h : Hdr) : (s.moved h).hostHeld = s.hostHeld := rfl
@[simp] theorem State.moved_attest (s : State) (h : Hdr) : (s.moved h).attest = s.attest := rfl
@[simp] theorem State.moved_attNonce (s : State) (h : Hdr) : (s.moved h).attNonce = s.attNonce := rfl
@[simp] theorem State.moved_attTaken (s : State) (h : Hdr) : (s.moved h).attTaken = s.attTaken := rfl
@[simp] theorem State.moved_recWindow (s : State) (h : Hdr) : (s.moved h).recWindow = s.recWindow := rfl
@[simp] theorem State.moved_flash (s : State) (h : Hdr) : (s.moved h).flash = s.flash := rfl
@[simp] theorem State.moved_pcie (s : State) (h : Hdr) : (s.moved h).pcie = s.pcie := rfl
@[simp] theorem State.moved_issues (s : State) (h : Hdr) : (s.moved h).issues = s.issues := rfl
@[simp] theorem State.moved_uid (s : State) (h : Hdr) : (s.moved h).uid = s.uid := rfl
@[simp] theorem State.moved_free (s : State) (h : Hdr) : (s.moved h).free = s.free := rfl
@[simp] theorem State.moved_cur (s : State) (h : Hdr) : (s.moved h).cur = s.cur := rfl
@[simp] theorem State.moved_agenda (s : State) (h : Hdr) : (s.moved h).agenda = s.agenda := rfl

/-! ### hold changes `teams` alone -/

@[simp] theorem State.hold_mem (s : State) (i : Instr) : (s.hold i).mem = s.mem := rfl
@[simp] theorem State.hold_rels (s : State) (i : Instr) : (s.hold i).rels = s.rels := rfl
@[simp] theorem State.hold_poison (s : State) (i : Instr) : (s.hold i).poison = s.poison := rfl
@[simp] theorem State.hold_poisonRegs (s : State) (i : Instr) : (s.hold i).poisonRegs = s.poisonRegs := rfl
@[simp] theorem State.hold_promo (s : State) (i : Instr) : (s.hold i).promo = s.promo := rfl
@[simp] theorem State.hold_rowans (s : State) (i : Instr) : (s.hold i).rowans = s.rowans := rfl
@[simp] theorem State.hold_rowanOut (s : State) (i : Instr) : (s.hold i).rowanOut = s.rowanOut := rfl
@[simp] theorem State.hold_hostAtomics (s : State) (i : Instr) : (s.hold i).hostAtomics = s.hostAtomics := rfl
@[simp] theorem State.hold_cores (s : State) (i : Instr) : (s.hold i).cores = s.cores := rfl
@[simp] theorem State.hold_dies (s : State) (i : Instr) : (s.hold i).dies = s.dies := rfl
@[simp] theorem State.hold_images (s : State) (i : Instr) : (s.hold i).images = s.images := rfl
@[simp] theorem State.hold_launches (s : State) (i : Instr) : (s.hold i).launches = s.launches := rfl
@[simp] theorem State.hold_relaunches (s : State) (i : Instr) : (s.hold i).relaunches = s.relaunches := rfl
@[simp] theorem State.hold_replays (s : State) (i : Instr) : (s.hold i).replays = s.replays := rfl
@[simp] theorem State.hold_graphs (s : State) (i : Instr) : (s.hold i).graphs = s.graphs := rfl
@[simp] theorem State.hold_nextLaunch (s : State) (i : Instr) : (s.hold i).nextLaunch = s.nextLaunch := rfl
@[simp] theorem State.hold_nextToken (s : State) (i : Instr) : (s.hold i).nextToken = s.nextToken := rfl
@[simp] theorem State.hold_nextHandle (s : State) (i : Instr) : (s.hold i).nextHandle = s.nextHandle := rfl
@[simp] theorem State.hold_rings (s : State) (i : Instr) : (s.hold i).rings = s.rings := rfl
@[simp] theorem State.hold_ports (s : State) (i : Instr) : (s.hold i).ports = s.ports := rfl
@[simp] theorem State.hold_regs (s : State) (i : Instr) : (s.hold i).regs = s.regs := rfl
@[simp] theorem State.hold_micro (s : State) (i : Instr) : (s.hold i).micro = s.micro := rfl
@[simp] theorem State.hold_hostHeld (s : State) (i : Instr) : (s.hold i).hostHeld = s.hostHeld := rfl
@[simp] theorem State.hold_attest (s : State) (i : Instr) : (s.hold i).attest = s.attest := rfl
@[simp] theorem State.hold_attNonce (s : State) (i : Instr) : (s.hold i).attNonce = s.attNonce := rfl
@[simp] theorem State.hold_attTaken (s : State) (i : Instr) : (s.hold i).attTaken = s.attTaken := rfl
@[simp] theorem State.hold_recWindow (s : State) (i : Instr) : (s.hold i).recWindow = s.recWindow := rfl
@[simp] theorem State.hold_flash (s : State) (i : Instr) : (s.hold i).flash = s.flash := rfl
@[simp] theorem State.hold_pcie (s : State) (i : Instr) : (s.hold i).pcie = s.pcie := rfl
@[simp] theorem State.hold_issues (s : State) (i : Instr) : (s.hold i).issues = s.issues := rfl
@[simp] theorem State.hold_uid (s : State) (i : Instr) : (s.hold i).uid = s.uid := rfl
@[simp] theorem State.hold_free (s : State) (i : Instr) : (s.hold i).free = s.free := rfl
@[simp] theorem State.hold_cur (s : State) (i : Instr) : (s.hold i).cur = s.cur := rfl
@[simp] theorem State.hold_agenda (s : State) (i : Instr) : (s.hold i).agenda = s.agenda := rfl

/-! ### endRun changes `teams` alone -/

@[simp] theorem State.endRun_mem (s : State) : (s.endRun).mem = s.mem := rfl
@[simp] theorem State.endRun_rels (s : State) : (s.endRun).rels = s.rels := rfl
@[simp] theorem State.endRun_poison (s : State) : (s.endRun).poison = s.poison := rfl
@[simp] theorem State.endRun_poisonRegs (s : State) : (s.endRun).poisonRegs = s.poisonRegs := rfl
@[simp] theorem State.endRun_promo (s : State) : (s.endRun).promo = s.promo := rfl
@[simp] theorem State.endRun_rowans (s : State) : (s.endRun).rowans = s.rowans := rfl
@[simp] theorem State.endRun_rowanOut (s : State) : (s.endRun).rowanOut = s.rowanOut := rfl
@[simp] theorem State.endRun_hostAtomics (s : State) : (s.endRun).hostAtomics = s.hostAtomics := rfl
@[simp] theorem State.endRun_cores (s : State) : (s.endRun).cores = s.cores := rfl
@[simp] theorem State.endRun_dies (s : State) : (s.endRun).dies = s.dies := rfl
@[simp] theorem State.endRun_images (s : State) : (s.endRun).images = s.images := rfl
@[simp] theorem State.endRun_launches (s : State) : (s.endRun).launches = s.launches := rfl
@[simp] theorem State.endRun_relaunches (s : State) : (s.endRun).relaunches = s.relaunches := rfl
@[simp] theorem State.endRun_replays (s : State) : (s.endRun).replays = s.replays := rfl
@[simp] theorem State.endRun_graphs (s : State) : (s.endRun).graphs = s.graphs := rfl
@[simp] theorem State.endRun_nextLaunch (s : State) : (s.endRun).nextLaunch = s.nextLaunch := rfl
@[simp] theorem State.endRun_nextToken (s : State) : (s.endRun).nextToken = s.nextToken := rfl
@[simp] theorem State.endRun_nextHandle (s : State) : (s.endRun).nextHandle = s.nextHandle := rfl
@[simp] theorem State.endRun_rings (s : State) : (s.endRun).rings = s.rings := rfl
@[simp] theorem State.endRun_ports (s : State) : (s.endRun).ports = s.ports := rfl
@[simp] theorem State.endRun_regs (s : State) : (s.endRun).regs = s.regs := rfl
@[simp] theorem State.endRun_micro (s : State) : (s.endRun).micro = s.micro := rfl
@[simp] theorem State.endRun_hostHeld (s : State) : (s.endRun).hostHeld = s.hostHeld := rfl
@[simp] theorem State.endRun_attest (s : State) : (s.endRun).attest = s.attest := rfl
@[simp] theorem State.endRun_attNonce (s : State) : (s.endRun).attNonce = s.attNonce := rfl
@[simp] theorem State.endRun_attTaken (s : State) : (s.endRun).attTaken = s.attTaken := rfl
@[simp] theorem State.endRun_recWindow (s : State) : (s.endRun).recWindow = s.recWindow := rfl
@[simp] theorem State.endRun_flash (s : State) : (s.endRun).flash = s.flash := rfl
@[simp] theorem State.endRun_pcie (s : State) : (s.endRun).pcie = s.pcie := rfl
@[simp] theorem State.endRun_issues (s : State) : (s.endRun).issues = s.issues := rfl
@[simp] theorem State.endRun_uid (s : State) : (s.endRun).uid = s.uid := rfl
@[simp] theorem State.endRun_free (s : State) : (s.endRun).free = s.free := rfl
@[simp] theorem State.endRun_cur (s : State) : (s.endRun).cur = s.cur := rfl
@[simp] theorem State.endRun_agenda (s : State) : (s.endRun).agenda = s.agenda := rfl

/-! ### blockIssue changes `cur` alone -/

@[simp] theorem State.blockIssue_mem (s : State) : (s.blockIssue).mem = s.mem := rfl
@[simp] theorem State.blockIssue_rels (s : State) : (s.blockIssue).rels = s.rels := rfl
@[simp] theorem State.blockIssue_poison (s : State) : (s.blockIssue).poison = s.poison := rfl
@[simp] theorem State.blockIssue_poisonRegs (s : State) : (s.blockIssue).poisonRegs = s.poisonRegs := rfl
@[simp] theorem State.blockIssue_promo (s : State) : (s.blockIssue).promo = s.promo := rfl
@[simp] theorem State.blockIssue_rowans (s : State) : (s.blockIssue).rowans = s.rowans := rfl
@[simp] theorem State.blockIssue_rowanOut (s : State) : (s.blockIssue).rowanOut = s.rowanOut := rfl
@[simp] theorem State.blockIssue_hostAtomics (s : State) : (s.blockIssue).hostAtomics = s.hostAtomics := rfl
@[simp] theorem State.blockIssue_cores (s : State) : (s.blockIssue).cores = s.cores := rfl
@[simp] theorem State.blockIssue_dies (s : State) : (s.blockIssue).dies = s.dies := rfl
@[simp] theorem State.blockIssue_teams (s : State) : (s.blockIssue).teams = s.teams := rfl
@[simp] theorem State.blockIssue_images (s : State) : (s.blockIssue).images = s.images := rfl
@[simp] theorem State.blockIssue_launches (s : State) : (s.blockIssue).launches = s.launches := rfl
@[simp] theorem State.blockIssue_relaunches (s : State) : (s.blockIssue).relaunches = s.relaunches := rfl
@[simp] theorem State.blockIssue_replays (s : State) : (s.blockIssue).replays = s.replays := rfl
@[simp] theorem State.blockIssue_graphs (s : State) : (s.blockIssue).graphs = s.graphs := rfl
@[simp] theorem State.blockIssue_nextLaunch (s : State) : (s.blockIssue).nextLaunch = s.nextLaunch := rfl
@[simp] theorem State.blockIssue_nextToken (s : State) : (s.blockIssue).nextToken = s.nextToken := rfl
@[simp] theorem State.blockIssue_nextHandle (s : State) : (s.blockIssue).nextHandle = s.nextHandle := rfl
@[simp] theorem State.blockIssue_rings (s : State) : (s.blockIssue).rings = s.rings := rfl
@[simp] theorem State.blockIssue_ports (s : State) : (s.blockIssue).ports = s.ports := rfl
@[simp] theorem State.blockIssue_regs (s : State) : (s.blockIssue).regs = s.regs := rfl
@[simp] theorem State.blockIssue_micro (s : State) : (s.blockIssue).micro = s.micro := rfl
@[simp] theorem State.blockIssue_hostHeld (s : State) : (s.blockIssue).hostHeld = s.hostHeld := rfl
@[simp] theorem State.blockIssue_attest (s : State) : (s.blockIssue).attest = s.attest := rfl
@[simp] theorem State.blockIssue_attNonce (s : State) : (s.blockIssue).attNonce = s.attNonce := rfl
@[simp] theorem State.blockIssue_attTaken (s : State) : (s.blockIssue).attTaken = s.attTaken := rfl
@[simp] theorem State.blockIssue_recWindow (s : State) : (s.blockIssue).recWindow = s.recWindow := rfl
@[simp] theorem State.blockIssue_flash (s : State) : (s.blockIssue).flash = s.flash := rfl
@[simp] theorem State.blockIssue_pcie (s : State) : (s.blockIssue).pcie = s.pcie := rfl
@[simp] theorem State.blockIssue_issues (s : State) : (s.blockIssue).issues = s.issues := rfl
@[simp] theorem State.blockIssue_uid (s : State) : (s.blockIssue).uid = s.uid := rfl
@[simp] theorem State.blockIssue_free (s : State) : (s.blockIssue).free = s.free := rfl
@[simp] theorem State.blockIssue_agenda (s : State) : (s.blockIssue).agenda = s.agenda := rfl

/-! ### Wave.updLanes changes `lanes` alone -/

@[simp] theorem Wave.updLanes_id (w : Wave) (m : BitVec 64) (f : Nat → Lane → Lane) : (w.updLanes m f).id = w.id := rfl
@[simp] theorem Wave.updLanes_core (w : Wave) (m : BitVec 64) (f : Nat → Lane → Lane) : (w.updLanes m f).core = w.core := rfl
@[simp] theorem Wave.updLanes_part (w : Wave) (m : BitVec 64) (f : Nat → Lane → Lane) : (w.updLanes m f).part = w.part := rfl
@[simp] theorem Wave.updLanes_slot (w : Wave) (m : BitVec 64) (f : Nat → Lane → Lane) : (w.updLanes m f).slot = w.slot := rfl
@[simp] theorem Wave.updLanes_ended (w : Wave) (m : BitVec 64) (f : Nat → Lane → Lane) : (w.updLanes m f).ended = w.ended := rfl
@[simp] theorem Wave.updLanes_sregs (w : Wave) (m : BitVec 64) (f : Nat → Lane → Lane) : (w.updLanes m f).sregs = w.sregs := rfl
@[simp] theorem Wave.updLanes_wstat (w : Wave) (m : BitVec 64) (f : Nat → Lane → Lane) : (w.updLanes m f).wstat = w.wstat := rfl
@[simp] theorem Wave.updLanes_helper (w : Wave) (m : BitVec 64) (f : Nat → Lane → Lane) : (w.updLanes m f).helper = w.helper := rfl
@[simp] theorem Wave.updLanes_cvs (w : Wave) (m : BitVec 64) (f : Nat → Lane → Lane) : (w.updLanes m f).cvs = w.cvs := rfl
@[simp] theorem Wave.updLanes_streams (w : Wave) (m : BitVec 64) (f : Nat → Lane → Lane) : (w.updLanes m f).streams = w.streams := rfl
@[simp] theorem Wave.updLanes_tcause (w : Wave) (m : BitVec 64) (f : Nat → Lane → Lane) : (w.updLanes m f).tcause = w.tcause := rfl
@[simp] theorem Wave.updLanes_tdet0 (w : Wave) (m : BitVec 64) (f : Nat → Lane → Lane) : (w.updLanes m f).tdet0 = w.tdet0 := rfl
@[simp] theorem Wave.updLanes_tdet1 (w : Wave) (m : BitVec 64) (f : Nat → Lane → Lane) : (w.updLanes m f).tdet1 = w.tdet1 := rfl
@[simp] theorem Wave.updLanes_tdet2 (w : Wave) (m : BitVec 64) (f : Nat → Lane → Lane) : (w.updLanes m f).tdet2 = w.tdet2 := rfl
@[simp] theorem Wave.updLanes_tpc (w : Wave) (m : BitVec 64) (f : Nat → Lane → Lane) : (w.updLanes m f).tpc = w.tpc := rfl
@[simp] theorem Wave.updLanes_tprio (w : Wave) (m : BitVec 64) (f : Nat → Lane → Lane) : (w.updLanes m f).tprio = w.tprio := rfl
@[simp] theorem Wave.updLanes_hmode (w : Wave) (m : BitVec 64) (f : Nat → Lane → Lane) : (w.updLanes m f).hmode = w.hmode := rfl
@[simp] theorem Wave.updLanes_mstatShadow (w : Wave) (m : BitVec 64) (f : Nat → Lane → Lane) : (w.updLanes m f).mstatShadow = w.mstatShadow := rfl
@[simp] theorem Wave.updLanes_outs (w : Wave) (m : BitVec 64) (f : Nat → Lane → Lane) : (w.updLanes m f).outs = w.outs := rfl
@[simp] theorem Wave.updLanes_runEnd (w : Wave) (m : BitVec 64) (f : Nat → Lane → Lane) : (w.updLanes m f).runEnd = w.runEnd := rfl
@[simp] theorem Wave.updLanes_park (w : Wave) (m : BitVec 64) (f : Nat → Lane → Lane) : (w.updLanes m f).park = w.park := rfl
@[simp] theorem Wave.updLanes_prog (w : Wave) (m : BitVec 64) (f : Nat → Lane → Lane) : (w.updLanes m f).prog = w.prog := rfl
@[simp] theorem Wave.updLanes_xl (w : Wave) (m : BitVec 64) (f : Nat → Lane → Lane) : (w.updLanes m f).xl = w.xl := rfl
@[simp] theorem Wave.updLanes_toks (w : Wave) (m : BitVec 64) (f : Nat → Lane → Lane) : (w.updLanes m f).toks = w.toks := rfl
@[simp] theorem Wave.updLanes_calls (w : Wave) (m : BitVec 64) (f : Nat → Lane → Lane) : (w.updLanes m f).calls = w.calls := rfl
@[simp] theorem Wave.updLanes_lastIssue (w : Wave) (m : BitVec 64) (f : Nat → Lane → Lane) : (w.updLanes m f).lastIssue = w.lastIssue := rfl
@[simp] theorem Wave.updLanes_placed (w : Wave) (m : BitVec 64) (f : Nat → Lane → Lane) : (w.updLanes m f).placed = w.placed := rfl
@[simp] theorem Wave.updLanes_stop (w : Wave) (m : BitVec 64) (f : Nat → Lane → Lane) : (w.updLanes m f).stop = w.stop := rfl
@[simp] theorem Wave.updLanes_heldLow (w : Wave) (m : BitVec 64) (f : Nat → Lane → Lane) : (w.updLanes m f).heldLow = w.heldLow := rfl
@[simp] theorem Wave.updLanes_blocked (w : Wave) (m : BitVec 64) (f : Nat → Lane → Lane) : (w.updLanes m f).blocked = w.blocked := rfl

/-! ### Wave.setS changes `sregs` alone -/

@[simp] theorem Wave.setS_id (w : Wave) (r v : Nat) : (w.setS r v).id = w.id := rfl
@[simp] theorem Wave.setS_core (w : Wave) (r v : Nat) : (w.setS r v).core = w.core := rfl
@[simp] theorem Wave.setS_part (w : Wave) (r v : Nat) : (w.setS r v).part = w.part := rfl
@[simp] theorem Wave.setS_slot (w : Wave) (r v : Nat) : (w.setS r v).slot = w.slot := rfl
@[simp] theorem Wave.setS_ended (w : Wave) (r v : Nat) : (w.setS r v).ended = w.ended := rfl
@[simp] theorem Wave.setS_lanes (w : Wave) (r v : Nat) : (w.setS r v).lanes = w.lanes := rfl
@[simp] theorem Wave.setS_wstat (w : Wave) (r v : Nat) : (w.setS r v).wstat = w.wstat := rfl
@[simp] theorem Wave.setS_helper (w : Wave) (r v : Nat) : (w.setS r v).helper = w.helper := rfl
@[simp] theorem Wave.setS_cvs (w : Wave) (r v : Nat) : (w.setS r v).cvs = w.cvs := rfl
@[simp] theorem Wave.setS_streams (w : Wave) (r v : Nat) : (w.setS r v).streams = w.streams := rfl
@[simp] theorem Wave.setS_tcause (w : Wave) (r v : Nat) : (w.setS r v).tcause = w.tcause := rfl
@[simp] theorem Wave.setS_tdet0 (w : Wave) (r v : Nat) : (w.setS r v).tdet0 = w.tdet0 := rfl
@[simp] theorem Wave.setS_tdet1 (w : Wave) (r v : Nat) : (w.setS r v).tdet1 = w.tdet1 := rfl
@[simp] theorem Wave.setS_tdet2 (w : Wave) (r v : Nat) : (w.setS r v).tdet2 = w.tdet2 := rfl
@[simp] theorem Wave.setS_tpc (w : Wave) (r v : Nat) : (w.setS r v).tpc = w.tpc := rfl
@[simp] theorem Wave.setS_tprio (w : Wave) (r v : Nat) : (w.setS r v).tprio = w.tprio := rfl
@[simp] theorem Wave.setS_hmode (w : Wave) (r v : Nat) : (w.setS r v).hmode = w.hmode := rfl
@[simp] theorem Wave.setS_mstatShadow (w : Wave) (r v : Nat) : (w.setS r v).mstatShadow = w.mstatShadow := rfl
@[simp] theorem Wave.setS_outs (w : Wave) (r v : Nat) : (w.setS r v).outs = w.outs := rfl
@[simp] theorem Wave.setS_runEnd (w : Wave) (r v : Nat) : (w.setS r v).runEnd = w.runEnd := rfl
@[simp] theorem Wave.setS_park (w : Wave) (r v : Nat) : (w.setS r v).park = w.park := rfl
@[simp] theorem Wave.setS_prog (w : Wave) (r v : Nat) : (w.setS r v).prog = w.prog := rfl
@[simp] theorem Wave.setS_xl (w : Wave) (r v : Nat) : (w.setS r v).xl = w.xl := rfl
@[simp] theorem Wave.setS_toks (w : Wave) (r v : Nat) : (w.setS r v).toks = w.toks := rfl
@[simp] theorem Wave.setS_calls (w : Wave) (r v : Nat) : (w.setS r v).calls = w.calls := rfl
@[simp] theorem Wave.setS_lastIssue (w : Wave) (r v : Nat) : (w.setS r v).lastIssue = w.lastIssue := rfl
@[simp] theorem Wave.setS_placed (w : Wave) (r v : Nat) : (w.setS r v).placed = w.placed := rfl
@[simp] theorem Wave.setS_stop (w : Wave) (r v : Nat) : (w.setS r v).stop = w.stop := rfl
@[simp] theorem Wave.setS_heldLow (w : Wave) (r v : Nat) : (w.setS r v).heldLow = w.heldLow := rfl
@[simp] theorem Wave.setS_blocked (w : Wave) (r v : Nat) : (w.setS r v).blocked = w.blocked := rfl

/-! ### Wave.orFlags changes `wstat` alone -/

@[simp] theorem Wave.orFlags_id (w : Wave) (x : BitVec 8) : (w.orFlags x).id = w.id := rfl
@[simp] theorem Wave.orFlags_core (w : Wave) (x : BitVec 8) : (w.orFlags x).core = w.core := rfl
@[simp] theorem Wave.orFlags_part (w : Wave) (x : BitVec 8) : (w.orFlags x).part = w.part := rfl
@[simp] theorem Wave.orFlags_slot (w : Wave) (x : BitVec 8) : (w.orFlags x).slot = w.slot := rfl
@[simp] theorem Wave.orFlags_ended (w : Wave) (x : BitVec 8) : (w.orFlags x).ended = w.ended := rfl
@[simp] theorem Wave.orFlags_lanes (w : Wave) (x : BitVec 8) : (w.orFlags x).lanes = w.lanes := rfl
@[simp] theorem Wave.orFlags_sregs (w : Wave) (x : BitVec 8) : (w.orFlags x).sregs = w.sregs := rfl
@[simp] theorem Wave.orFlags_helper (w : Wave) (x : BitVec 8) : (w.orFlags x).helper = w.helper := rfl
@[simp] theorem Wave.orFlags_cvs (w : Wave) (x : BitVec 8) : (w.orFlags x).cvs = w.cvs := rfl
@[simp] theorem Wave.orFlags_streams (w : Wave) (x : BitVec 8) : (w.orFlags x).streams = w.streams := rfl
@[simp] theorem Wave.orFlags_tcause (w : Wave) (x : BitVec 8) : (w.orFlags x).tcause = w.tcause := rfl
@[simp] theorem Wave.orFlags_tdet0 (w : Wave) (x : BitVec 8) : (w.orFlags x).tdet0 = w.tdet0 := rfl
@[simp] theorem Wave.orFlags_tdet1 (w : Wave) (x : BitVec 8) : (w.orFlags x).tdet1 = w.tdet1 := rfl
@[simp] theorem Wave.orFlags_tdet2 (w : Wave) (x : BitVec 8) : (w.orFlags x).tdet2 = w.tdet2 := rfl
@[simp] theorem Wave.orFlags_tpc (w : Wave) (x : BitVec 8) : (w.orFlags x).tpc = w.tpc := rfl
@[simp] theorem Wave.orFlags_tprio (w : Wave) (x : BitVec 8) : (w.orFlags x).tprio = w.tprio := rfl
@[simp] theorem Wave.orFlags_hmode (w : Wave) (x : BitVec 8) : (w.orFlags x).hmode = w.hmode := rfl
@[simp] theorem Wave.orFlags_mstatShadow (w : Wave) (x : BitVec 8) : (w.orFlags x).mstatShadow = w.mstatShadow := rfl
@[simp] theorem Wave.orFlags_outs (w : Wave) (x : BitVec 8) : (w.orFlags x).outs = w.outs := rfl
@[simp] theorem Wave.orFlags_runEnd (w : Wave) (x : BitVec 8) : (w.orFlags x).runEnd = w.runEnd := rfl
@[simp] theorem Wave.orFlags_park (w : Wave) (x : BitVec 8) : (w.orFlags x).park = w.park := rfl
@[simp] theorem Wave.orFlags_prog (w : Wave) (x : BitVec 8) : (w.orFlags x).prog = w.prog := rfl
@[simp] theorem Wave.orFlags_xl (w : Wave) (x : BitVec 8) : (w.orFlags x).xl = w.xl := rfl
@[simp] theorem Wave.orFlags_toks (w : Wave) (x : BitVec 8) : (w.orFlags x).toks = w.toks := rfl
@[simp] theorem Wave.orFlags_calls (w : Wave) (x : BitVec 8) : (w.orFlags x).calls = w.calls := rfl
@[simp] theorem Wave.orFlags_lastIssue (w : Wave) (x : BitVec 8) : (w.orFlags x).lastIssue = w.lastIssue := rfl
@[simp] theorem Wave.orFlags_placed (w : Wave) (x : BitVec 8) : (w.orFlags x).placed = w.placed := rfl
@[simp] theorem Wave.orFlags_stop (w : Wave) (x : BitVec 8) : (w.orFlags x).stop = w.stop := rfl
@[simp] theorem Wave.orFlags_heldLow (w : Wave) (x : BitVec 8) : (w.orFlags x).heldLow = w.heldLow := rfl
@[simp] theorem Wave.orFlags_blocked (w : Wave) (x : BitVec 8) : (w.orFlags x).blocked = w.blocked := rfl

/-! ### Wave.goto changes `lanes` alone -/

@[simp] theorem Wave.goto_id (w : Wave) (m : BitVec 64) (p : Word) : (w.goto m p).id = w.id := rfl
@[simp] theorem Wave.goto_core (w : Wave) (m : BitVec 64) (p : Word) : (w.goto m p).core = w.core := rfl
@[simp] theorem Wave.goto_part (w : Wave) (m : BitVec 64) (p : Word) : (w.goto m p).part = w.part := rfl
@[simp] theorem Wave.goto_slot (w : Wave) (m : BitVec 64) (p : Word) : (w.goto m p).slot = w.slot := rfl
@[simp] theorem Wave.goto_ended (w : Wave) (m : BitVec 64) (p : Word) : (w.goto m p).ended = w.ended := rfl
@[simp] theorem Wave.goto_sregs (w : Wave) (m : BitVec 64) (p : Word) : (w.goto m p).sregs = w.sregs := rfl
@[simp] theorem Wave.goto_wstat (w : Wave) (m : BitVec 64) (p : Word) : (w.goto m p).wstat = w.wstat := rfl
@[simp] theorem Wave.goto_helper (w : Wave) (m : BitVec 64) (p : Word) : (w.goto m p).helper = w.helper := rfl
@[simp] theorem Wave.goto_cvs (w : Wave) (m : BitVec 64) (p : Word) : (w.goto m p).cvs = w.cvs := rfl
@[simp] theorem Wave.goto_streams (w : Wave) (m : BitVec 64) (p : Word) : (w.goto m p).streams = w.streams := rfl
@[simp] theorem Wave.goto_tcause (w : Wave) (m : BitVec 64) (p : Word) : (w.goto m p).tcause = w.tcause := rfl
@[simp] theorem Wave.goto_tdet0 (w : Wave) (m : BitVec 64) (p : Word) : (w.goto m p).tdet0 = w.tdet0 := rfl
@[simp] theorem Wave.goto_tdet1 (w : Wave) (m : BitVec 64) (p : Word) : (w.goto m p).tdet1 = w.tdet1 := rfl
@[simp] theorem Wave.goto_tdet2 (w : Wave) (m : BitVec 64) (p : Word) : (w.goto m p).tdet2 = w.tdet2 := rfl
@[simp] theorem Wave.goto_tpc (w : Wave) (m : BitVec 64) (p : Word) : (w.goto m p).tpc = w.tpc := rfl
@[simp] theorem Wave.goto_tprio (w : Wave) (m : BitVec 64) (p : Word) : (w.goto m p).tprio = w.tprio := rfl
@[simp] theorem Wave.goto_hmode (w : Wave) (m : BitVec 64) (p : Word) : (w.goto m p).hmode = w.hmode := rfl
@[simp] theorem Wave.goto_mstatShadow (w : Wave) (m : BitVec 64) (p : Word) : (w.goto m p).mstatShadow = w.mstatShadow := rfl
@[simp] theorem Wave.goto_outs (w : Wave) (m : BitVec 64) (p : Word) : (w.goto m p).outs = w.outs := rfl
@[simp] theorem Wave.goto_runEnd (w : Wave) (m : BitVec 64) (p : Word) : (w.goto m p).runEnd = w.runEnd := rfl
@[simp] theorem Wave.goto_park (w : Wave) (m : BitVec 64) (p : Word) : (w.goto m p).park = w.park := rfl
@[simp] theorem Wave.goto_prog (w : Wave) (m : BitVec 64) (p : Word) : (w.goto m p).prog = w.prog := rfl
@[simp] theorem Wave.goto_xl (w : Wave) (m : BitVec 64) (p : Word) : (w.goto m p).xl = w.xl := rfl
@[simp] theorem Wave.goto_toks (w : Wave) (m : BitVec 64) (p : Word) : (w.goto m p).toks = w.toks := rfl
@[simp] theorem Wave.goto_calls (w : Wave) (m : BitVec 64) (p : Word) : (w.goto m p).calls = w.calls := rfl
@[simp] theorem Wave.goto_lastIssue (w : Wave) (m : BitVec 64) (p : Word) : (w.goto m p).lastIssue = w.lastIssue := rfl
@[simp] theorem Wave.goto_placed (w : Wave) (m : BitVec 64) (p : Word) : (w.goto m p).placed = w.placed := rfl
@[simp] theorem Wave.goto_stop (w : Wave) (m : BitVec 64) (p : Word) : (w.goto m p).stop = w.stop := rfl
@[simp] theorem Wave.goto_heldLow (w : Wave) (m : BitVec 64) (p : Word) : (w.goto m p).heldLow = w.heldLow := rfl
@[simp] theorem Wave.goto_blocked (w : Wave) (m : BitVec 64) (p : Word) : (w.goto m p).blocked = w.blocked := rfl

/-! ### Wave.gotoPrio changes `lanes` alone -/

@[simp] theorem Wave.gotoPrio_id (w : Wave) (m : BitVec 64) (p : Word) (q : BitVec 8) : (w.gotoPrio m p q).id = w.id := rfl
@[simp] theorem Wave.gotoPrio_core (w : Wave) (m : BitVec 64) (p : Word) (q : BitVec 8) : (w.gotoPrio m p q).core = w.core := rfl
@[simp] theorem Wave.gotoPrio_part (w : Wave) (m : BitVec 64) (p : Word) (q : BitVec 8) : (w.gotoPrio m p q).part = w.part := rfl
@[simp] theorem Wave.gotoPrio_slot (w : Wave) (m : BitVec 64) (p : Word) (q : BitVec 8) : (w.gotoPrio m p q).slot = w.slot := rfl
@[simp] theorem Wave.gotoPrio_ended (w : Wave) (m : BitVec 64) (p : Word) (q : BitVec 8) : (w.gotoPrio m p q).ended = w.ended := rfl
@[simp] theorem Wave.gotoPrio_sregs (w : Wave) (m : BitVec 64) (p : Word) (q : BitVec 8) : (w.gotoPrio m p q).sregs = w.sregs := rfl
@[simp] theorem Wave.gotoPrio_wstat (w : Wave) (m : BitVec 64) (p : Word) (q : BitVec 8) : (w.gotoPrio m p q).wstat = w.wstat := rfl
@[simp] theorem Wave.gotoPrio_helper (w : Wave) (m : BitVec 64) (p : Word) (q : BitVec 8) : (w.gotoPrio m p q).helper = w.helper := rfl
@[simp] theorem Wave.gotoPrio_cvs (w : Wave) (m : BitVec 64) (p : Word) (q : BitVec 8) : (w.gotoPrio m p q).cvs = w.cvs := rfl
@[simp] theorem Wave.gotoPrio_streams (w : Wave) (m : BitVec 64) (p : Word) (q : BitVec 8) : (w.gotoPrio m p q).streams = w.streams := rfl
@[simp] theorem Wave.gotoPrio_tcause (w : Wave) (m : BitVec 64) (p : Word) (q : BitVec 8) : (w.gotoPrio m p q).tcause = w.tcause := rfl
@[simp] theorem Wave.gotoPrio_tdet0 (w : Wave) (m : BitVec 64) (p : Word) (q : BitVec 8) : (w.gotoPrio m p q).tdet0 = w.tdet0 := rfl
@[simp] theorem Wave.gotoPrio_tdet1 (w : Wave) (m : BitVec 64) (p : Word) (q : BitVec 8) : (w.gotoPrio m p q).tdet1 = w.tdet1 := rfl
@[simp] theorem Wave.gotoPrio_tdet2 (w : Wave) (m : BitVec 64) (p : Word) (q : BitVec 8) : (w.gotoPrio m p q).tdet2 = w.tdet2 := rfl
@[simp] theorem Wave.gotoPrio_tpc (w : Wave) (m : BitVec 64) (p : Word) (q : BitVec 8) : (w.gotoPrio m p q).tpc = w.tpc := rfl
@[simp] theorem Wave.gotoPrio_tprio (w : Wave) (m : BitVec 64) (p : Word) (q : BitVec 8) : (w.gotoPrio m p q).tprio = w.tprio := rfl
@[simp] theorem Wave.gotoPrio_hmode (w : Wave) (m : BitVec 64) (p : Word) (q : BitVec 8) : (w.gotoPrio m p q).hmode = w.hmode := rfl
@[simp] theorem Wave.gotoPrio_mstatShadow (w : Wave) (m : BitVec 64) (p : Word) (q : BitVec 8) : (w.gotoPrio m p q).mstatShadow = w.mstatShadow := rfl
@[simp] theorem Wave.gotoPrio_outs (w : Wave) (m : BitVec 64) (p : Word) (q : BitVec 8) : (w.gotoPrio m p q).outs = w.outs := rfl
@[simp] theorem Wave.gotoPrio_runEnd (w : Wave) (m : BitVec 64) (p : Word) (q : BitVec 8) : (w.gotoPrio m p q).runEnd = w.runEnd := rfl
@[simp] theorem Wave.gotoPrio_park (w : Wave) (m : BitVec 64) (p : Word) (q : BitVec 8) : (w.gotoPrio m p q).park = w.park := rfl
@[simp] theorem Wave.gotoPrio_prog (w : Wave) (m : BitVec 64) (p : Word) (q : BitVec 8) : (w.gotoPrio m p q).prog = w.prog := rfl
@[simp] theorem Wave.gotoPrio_xl (w : Wave) (m : BitVec 64) (p : Word) (q : BitVec 8) : (w.gotoPrio m p q).xl = w.xl := rfl
@[simp] theorem Wave.gotoPrio_toks (w : Wave) (m : BitVec 64) (p : Word) (q : BitVec 8) : (w.gotoPrio m p q).toks = w.toks := rfl
@[simp] theorem Wave.gotoPrio_calls (w : Wave) (m : BitVec 64) (p : Word) (q : BitVec 8) : (w.gotoPrio m p q).calls = w.calls := rfl
@[simp] theorem Wave.gotoPrio_lastIssue (w : Wave) (m : BitVec 64) (p : Word) (q : BitVec 8) : (w.gotoPrio m p q).lastIssue = w.lastIssue := rfl
@[simp] theorem Wave.gotoPrio_placed (w : Wave) (m : BitVec 64) (p : Word) (q : BitVec 8) : (w.gotoPrio m p q).placed = w.placed := rfl
@[simp] theorem Wave.gotoPrio_stop (w : Wave) (m : BitVec 64) (p : Word) (q : BitVec 8) : (w.gotoPrio m p q).stop = w.stop := rfl
@[simp] theorem Wave.gotoPrio_heldLow (w : Wave) (m : BitVec 64) (p : Word) (q : BitVec 8) : (w.gotoPrio m p q).heldLow = w.heldLow := rfl
@[simp] theorem Wave.gotoPrio_blocked (w : Wave) (m : BitVec 64) (p : Word) (q : BitVec 8) : (w.gotoPrio m p q).blocked = w.blocked := rfl

/-! ### Wave.endLanes changes `lanes` alone -/

@[simp] theorem Wave.endLanes_id (w : Wave) (m : BitVec 64) : (w.endLanes m).id = w.id := rfl
@[simp] theorem Wave.endLanes_core (w : Wave) (m : BitVec 64) : (w.endLanes m).core = w.core := rfl
@[simp] theorem Wave.endLanes_part (w : Wave) (m : BitVec 64) : (w.endLanes m).part = w.part := rfl
@[simp] theorem Wave.endLanes_slot (w : Wave) (m : BitVec 64) : (w.endLanes m).slot = w.slot := rfl
@[simp] theorem Wave.endLanes_ended (w : Wave) (m : BitVec 64) : (w.endLanes m).ended = w.ended := rfl
@[simp] theorem Wave.endLanes_sregs (w : Wave) (m : BitVec 64) : (w.endLanes m).sregs = w.sregs := rfl
@[simp] theorem Wave.endLanes_wstat (w : Wave) (m : BitVec 64) : (w.endLanes m).wstat = w.wstat := rfl
@[simp] theorem Wave.endLanes_helper (w : Wave) (m : BitVec 64) : (w.endLanes m).helper = w.helper := rfl
@[simp] theorem Wave.endLanes_cvs (w : Wave) (m : BitVec 64) : (w.endLanes m).cvs = w.cvs := rfl
@[simp] theorem Wave.endLanes_streams (w : Wave) (m : BitVec 64) : (w.endLanes m).streams = w.streams := rfl
@[simp] theorem Wave.endLanes_tcause (w : Wave) (m : BitVec 64) : (w.endLanes m).tcause = w.tcause := rfl
@[simp] theorem Wave.endLanes_tdet0 (w : Wave) (m : BitVec 64) : (w.endLanes m).tdet0 = w.tdet0 := rfl
@[simp] theorem Wave.endLanes_tdet1 (w : Wave) (m : BitVec 64) : (w.endLanes m).tdet1 = w.tdet1 := rfl
@[simp] theorem Wave.endLanes_tdet2 (w : Wave) (m : BitVec 64) : (w.endLanes m).tdet2 = w.tdet2 := rfl
@[simp] theorem Wave.endLanes_tpc (w : Wave) (m : BitVec 64) : (w.endLanes m).tpc = w.tpc := rfl
@[simp] theorem Wave.endLanes_tprio (w : Wave) (m : BitVec 64) : (w.endLanes m).tprio = w.tprio := rfl
@[simp] theorem Wave.endLanes_hmode (w : Wave) (m : BitVec 64) : (w.endLanes m).hmode = w.hmode := rfl
@[simp] theorem Wave.endLanes_mstatShadow (w : Wave) (m : BitVec 64) : (w.endLanes m).mstatShadow = w.mstatShadow := rfl
@[simp] theorem Wave.endLanes_outs (w : Wave) (m : BitVec 64) : (w.endLanes m).outs = w.outs := rfl
@[simp] theorem Wave.endLanes_runEnd (w : Wave) (m : BitVec 64) : (w.endLanes m).runEnd = w.runEnd := rfl
@[simp] theorem Wave.endLanes_park (w : Wave) (m : BitVec 64) : (w.endLanes m).park = w.park := rfl
@[simp] theorem Wave.endLanes_prog (w : Wave) (m : BitVec 64) : (w.endLanes m).prog = w.prog := rfl
@[simp] theorem Wave.endLanes_xl (w : Wave) (m : BitVec 64) : (w.endLanes m).xl = w.xl := rfl
@[simp] theorem Wave.endLanes_toks (w : Wave) (m : BitVec 64) : (w.endLanes m).toks = w.toks := rfl
@[simp] theorem Wave.endLanes_calls (w : Wave) (m : BitVec 64) : (w.endLanes m).calls = w.calls := rfl
@[simp] theorem Wave.endLanes_lastIssue (w : Wave) (m : BitVec 64) : (w.endLanes m).lastIssue = w.lastIssue := rfl
@[simp] theorem Wave.endLanes_placed (w : Wave) (m : BitVec 64) : (w.endLanes m).placed = w.placed := rfl
@[simp] theorem Wave.endLanes_stop (w : Wave) (m : BitVec 64) : (w.endLanes m).stop = w.stop := rfl
@[simp] theorem Wave.endLanes_heldLow (w : Wave) (m : BitVec 64) : (w.endLanes m).heldLow = w.heldLow := rfl
@[simp] theorem Wave.endLanes_blocked (w : Wave) (m : BitVec 64) : (w.endLanes m).blocked = w.blocked := rfl

/-! ### Wave.setOutside changes `lanes` alone -/

@[simp] theorem Wave.setOutside_id (w : Wave) (m : BitVec 64) (b : Bool) : (w.setOutside m b).id = w.id := rfl
@[simp] theorem Wave.setOutside_core (w : Wave) (m : BitVec 64) (b : Bool) : (w.setOutside m b).core = w.core := rfl
@[simp] theorem Wave.setOutside_part (w : Wave) (m : BitVec 64) (b : Bool) : (w.setOutside m b).part = w.part := rfl
@[simp] theorem Wave.setOutside_slot (w : Wave) (m : BitVec 64) (b : Bool) : (w.setOutside m b).slot = w.slot := rfl
@[simp] theorem Wave.setOutside_ended (w : Wave) (m : BitVec 64) (b : Bool) : (w.setOutside m b).ended = w.ended := rfl
@[simp] theorem Wave.setOutside_sregs (w : Wave) (m : BitVec 64) (b : Bool) : (w.setOutside m b).sregs = w.sregs := rfl
@[simp] theorem Wave.setOutside_wstat (w : Wave) (m : BitVec 64) (b : Bool) : (w.setOutside m b).wstat = w.wstat := rfl
@[simp] theorem Wave.setOutside_helper (w : Wave) (m : BitVec 64) (b : Bool) : (w.setOutside m b).helper = w.helper := rfl
@[simp] theorem Wave.setOutside_cvs (w : Wave) (m : BitVec 64) (b : Bool) : (w.setOutside m b).cvs = w.cvs := rfl
@[simp] theorem Wave.setOutside_streams (w : Wave) (m : BitVec 64) (b : Bool) : (w.setOutside m b).streams = w.streams := rfl
@[simp] theorem Wave.setOutside_tcause (w : Wave) (m : BitVec 64) (b : Bool) : (w.setOutside m b).tcause = w.tcause := rfl
@[simp] theorem Wave.setOutside_tdet0 (w : Wave) (m : BitVec 64) (b : Bool) : (w.setOutside m b).tdet0 = w.tdet0 := rfl
@[simp] theorem Wave.setOutside_tdet1 (w : Wave) (m : BitVec 64) (b : Bool) : (w.setOutside m b).tdet1 = w.tdet1 := rfl
@[simp] theorem Wave.setOutside_tdet2 (w : Wave) (m : BitVec 64) (b : Bool) : (w.setOutside m b).tdet2 = w.tdet2 := rfl
@[simp] theorem Wave.setOutside_tpc (w : Wave) (m : BitVec 64) (b : Bool) : (w.setOutside m b).tpc = w.tpc := rfl
@[simp] theorem Wave.setOutside_tprio (w : Wave) (m : BitVec 64) (b : Bool) : (w.setOutside m b).tprio = w.tprio := rfl
@[simp] theorem Wave.setOutside_hmode (w : Wave) (m : BitVec 64) (b : Bool) : (w.setOutside m b).hmode = w.hmode := rfl
@[simp] theorem Wave.setOutside_mstatShadow (w : Wave) (m : BitVec 64) (b : Bool) : (w.setOutside m b).mstatShadow = w.mstatShadow := rfl
@[simp] theorem Wave.setOutside_outs (w : Wave) (m : BitVec 64) (b : Bool) : (w.setOutside m b).outs = w.outs := rfl
@[simp] theorem Wave.setOutside_runEnd (w : Wave) (m : BitVec 64) (b : Bool) : (w.setOutside m b).runEnd = w.runEnd := rfl
@[simp] theorem Wave.setOutside_park (w : Wave) (m : BitVec 64) (b : Bool) : (w.setOutside m b).park = w.park := rfl
@[simp] theorem Wave.setOutside_prog (w : Wave) (m : BitVec 64) (b : Bool) : (w.setOutside m b).prog = w.prog := rfl
@[simp] theorem Wave.setOutside_xl (w : Wave) (m : BitVec 64) (b : Bool) : (w.setOutside m b).xl = w.xl := rfl
@[simp] theorem Wave.setOutside_toks (w : Wave) (m : BitVec 64) (b : Bool) : (w.setOutside m b).toks = w.toks := rfl
@[simp] theorem Wave.setOutside_calls (w : Wave) (m : BitVec 64) (b : Bool) : (w.setOutside m b).calls = w.calls := rfl
@[simp] theorem Wave.setOutside_lastIssue (w : Wave) (m : BitVec 64) (b : Bool) : (w.setOutside m b).lastIssue = w.lastIssue := rfl
@[simp] theorem Wave.setOutside_placed (w : Wave) (m : BitVec 64) (b : Bool) : (w.setOutside m b).placed = w.placed := rfl
@[simp] theorem Wave.setOutside_stop (w : Wave) (m : BitVec 64) (b : Bool) : (w.setOutside m b).stop = w.stop := rfl
@[simp] theorem Wave.setOutside_heldLow (w : Wave) (m : BitVec 64) (b : Bool) : (w.setOutside m b).heldLow = w.heldLow := rfl
@[simp] theorem Wave.setOutside_blocked (w : Wave) (m : BitVec 64) (b : Bool) : (w.setOutside m b).blocked = w.blocked := rfl

/-! ### Lane.setV changes `v` alone -/

@[simp] theorem Lane.setV_live (ln : Lane) (r x : Nat) : (ln.setV r x).live = ln.live := rfl
@[simp] theorem Lane.setV_pc (ln : Lane) (r x : Nat) : (ln.setV r x).pc = ln.pc := rfl
@[simp] theorem Lane.setV_prio (ln : Lane) (r x : Nat) : (ln.setV r x).prio = ln.prio := rfl
@[simp] theorem Lane.setV_p (ln : Lane) (r x : Nat) : (ln.setV r x).p = ln.p := rfl
@[simp] theorem Lane.setV_outside (ln : Lane) (r x : Nat) : (ln.setV r x).outside = ln.outside := rfl
@[simp] theorem Lane.setV_marked (ln : Lane) (r x : Nat) : (ln.setV r x).marked = ln.marked := rfl
@[simp] theorem Lane.setV_wait (ln : Lane) (r x : Nat) : (ln.setV r x).wait = ln.wait := rfl
@[simp] theorem Lane.setV_handler (ln : Lane) (r x : Nat) : (ln.setV r x).handler = ln.handler := rfl
@[simp] theorem Lane.setV_ptrap (ln : Lane) (r x : Nat) : (ln.setV r x).ptrap = ln.ptrap := rfl
@[simp] theorem Lane.setV_spawnKey (ln : Lane) (r x : Nat) : (ln.setV r x).spawnKey = ln.spawnKey := rfl
@[simp] theorem Lane.setV_held0 (ln : Lane) (r x : Nat) : (ln.setV r x).held0 = ln.held0 := rfl
@[simp] theorem Lane.setV_held1 (ln : Lane) (r x : Nat) : (ln.setV r x).held1 = ln.held1 := rfl
@[simp] theorem Lane.setV_pend (ln : Lane) (r x : Nat) : (ln.setV r x).pend = ln.pend := rfl
@[simp] theorem Lane.setV_await (ln : Lane) (r x : Nat) : (ln.setV r x).await = ln.await := rfl
@[simp] theorem Lane.setV_relScopes (ln : Lane) (r x : Nat) : (ln.setV r x).relScopes = ln.relScopes := rfl
@[simp] theorem Lane.setV_seen (ln : Lane) (r x : Nat) : (ln.setV r x).seen = ln.seen := rfl
@[simp] theorem Lane.setV_badRec (ln : Lane) (r x : Nat) : (ln.setV r x).badRec = ln.badRec := rfl
@[simp] theorem Lane.setV_stall (ln : Lane) (r x : Nat) : (ln.setV r x).stall = ln.stall := rfl

end Sys2Proof.Machine
end

