-- ==== Sys2Proof/Laws/Waves.lean ====
section
/-! SUPPORT. Reading a state after its named updates: lane masks, lanes, waves, teams and registers. -/

namespace Sys2Proof.Machine

/-! ### Lists and masks -/

theorem mapFrom_length {α : Type} (f : Nat → α → α) (k : Nat) (l : List α) : (mapFrom f k l).length = l.length := by
  induction l generalizing k with
  | nil => rfl
  | cons x r ih => simp [mapFrom, ih]

theorem mapFrom_getElem? {α : Type} (f : Nat → α → α) (k : Nat) (l : List α) (i : Nat) :
    (mapFrom f k l)[i]? = (l[i]?).map (f (k + i)) := by
  induction l generalizing k i with
  | nil => simp [mapFrom]
  | cons x r ih =>
    cases i with
    | zero => simp [mapFrom]
    | succ i => simp [mapFrom, ih, Nat.add_assoc, Nat.add_comm 1 i]

theorem listSet_length {α : Type} (l : List α) (i : Nat) (f : α → α) : (listSet l i f).length = l.length := by
  induction l generalizing i with
  | nil => rfl
  | cons x r ih => cases i <;> simp [listSet, ih]

theorem listSet_getElem? {α : Type} (l : List α) (i j : Nat) (f : α → α) :
    (listSet l i f)[j]? = if j = i then (l[j]?).map f else l[j]? := by
  induction l generalizing i j with
  | nil => simp [listSet]
  | cons x r ih =>
    cases i with
    | zero => cases j <;> simp [listSet]
    | succ i => cases j <;> simp [listSet, ih]

theorem ofBits_succ (n : Nat) (f : Nat → Bool) : ofBits (n + 1) f = ofBits n f + b2n (f n) * 2 ^ n := by
  simp [ofBits, List.range_succ]

theorem ofBits_lt (n : Nat) (f : Nat → Bool) : ofBits n f < 2 ^ n := by
  induction n with
  | zero => simp [ofBits]
  | succ n ih =>
    rw [ofBits_succ, Nat.pow_succ]
    have : b2n (f n) ≤ 1 := by unfold b2n; split <;> omega
    nlinarith [Nat.two_pow_pos n]

/-- The bits of the number that `ofBits` builds. -/
theorem ofBits_testBit (n i : Nat) (f : Nat → Bool) : (ofBits n f).testBit i = (decide (i < n) && f i) := by
  induction n with
  | zero => simp [ofBits]
  | succ n ih =>
    rw [ofBits_succ, Nat.add_comm, Nat.mul_comm, Nat.testBit_two_pow_mul_add _ (ofBits_lt n f)]
    by_cases h : i < n
    · simp [h, ih, show i < n + 1 by omega]
    · by_cases e : i = n
      · subst e
        cases hf : f i <;> simp [b2n]
      · have : ¬ i < n + 1 := by omega
        have h1 : i - n ≠ 0 := by omega
        rw [if_neg h]
        have h2 : Nat.testBit 1 (i - n) = false :=
          Nat.testBit_lt_two_pow (Nat.one_lt_two_pow h1)
        cases hf : f n <;> simp [b2n, this, h2]

/-- The lanes of a mask built from a test are those below 64 that pass it. -/
@[simp] theorem maskOf_getLsbD (f : Nat → Bool) (l : Nat) : (maskOf f).getLsbD l = (decide (l < 64) && f l) := by
  simp only [maskOf, BitVec.getLsbD_ofNat, ofBits_testBit]
  by_cases h : l < 64 <;> simp [h]

/-! ### Lanes -/

/-- A lane after an update of the lanes of a mask. -/
theorem Wave.lane_updLanes (w : Wave) (m : BitVec 64) (f : Nat → Lane → Lane) (l : Nat) :
    (w.updLanes m f).lane l = if l < w.lanes.length ∧ m.getLsbD l = true then f l (w.lane l) else w.lane l := by
  simp only [Wave.lane, Wave.updLanes, List.getD_eq_getElem?_getD, mapFrom_getElem?, Nat.zero_add]
  by_cases h : l < w.lanes.length
  · simp only [List.getElem?_eq_getElem h, Option.map_some, Option.getD_some, h, true_and]
  · simp [h]

theorem Wave.updLanes_length (w : Wave) (m : BitVec 64) (f : Nat → Lane → Lane) :
    (w.updLanes m f).lanes.length = w.lanes.length := mapFrom_length _ _ _

theorem Wave.lane_goto (w : Wave) (m : BitVec 64) (pc : Word) (l : Nat) :
    (w.goto m pc).lane l =
      if l < w.lanes.length ∧ m.getLsbD l = true then { w.lane l with pc := pc, wait := .none } else w.lane l :=
  w.lane_updLanes m _ l

/-- A register after a register write. -/
@[simp] theorem Lane.vr_setV (ln : Lane) (r x j : Nat) : (ln.setV r x).vr j = if j = r then x % 2 ^ 32 else ln.vr j := by
  simp only [Lane.vr, Lane.setV, cellGet_cellSet]
  split <;> simp

theorem Lane.vr_setBlock (ln : Lane) (r n x j : Nat) :
    (ln.setBlock r n x).vr j = if r ≤ j ∧ j < r + n then x / 2 ^ (32 * (j - r)) % 2 ^ 32 else ln.vr j := by
  induction n generalizing ln r x with
  | zero => simp [Lane.setBlock, show ¬ (r ≤ j ∧ j < r) by omega]
  | succ n ih =>
    rw [Lane.setBlock, ih]
    by_cases h : r + 1 ≤ j ∧ j < r + 1 + n
    · have e : x / 2 ^ 32 / 2 ^ (32 * (j - (r + 1))) = x / 2 ^ (32 * (j - r)) := by
        rw [Nat.div_div_eq_div_mul, ← Nat.pow_add]
        congr 2
        omega
      rw [if_pos h, if_pos (by omega), e]
    · rw [if_neg h, Lane.vr_setV]
      by_cases e : j = r
      · subst e
        simp
      · rw [if_neg e, if_neg (by omega)]

/-- The block just written holds the value, modulo its width. -/
theorem Lane.vblock_eq (ln : Lane) (r n x : Nat) (h : ∀ i < n, ln.vr (r + i) = x / 2 ^ (32 * i) % 2 ^ 32) :
    ln.vblock r n = x % 2 ^ (32 * n) := by
  induction n generalizing r x with
  | zero => simp [Lane.vblock, Nat.mod_one]
  | succ n ih =>
    have h0 := h 0 (by omega)
    have hr := ih (r + 1) (x / 2 ^ 32) (fun i hi => by
      have := h (i + 1) (by omega)
      rw [show r + 1 + i = r + (i + 1) by omega, this, Nat.div_div_eq_div_mul, ← Nat.pow_add]
      congr 3
      omega)
    simp only [Nat.add_zero, Nat.mul_zero, Nat.pow_zero, Nat.div_one] at h0
    have e : (2 : Nat) ^ (32 * (n + 1)) = 2 ^ 32 * 2 ^ (32 * n) := by rw [← Nat.pow_add]; congr 1; omega
    rw [Lane.vblock, h0, hr, e, Nat.mod_mul]

theorem Lane.vblock_setBlock (ln : Lane) (r n x : Nat) : (ln.setBlock r n x).vblock r n = x % 2 ^ (32 * n) :=
  Lane.vblock_eq _ r n x (fun i hi => by
    rw [Lane.vr_setBlock, if_pos (by omega)]
    congr 3
    omega)

@[simp] theorem Wave.sr_setS (w : Wave) (r x j : Nat) : (w.setS r x).sr j = if j = r then x % 2 ^ 32 else w.sr j := by
  simp only [Wave.sr, Wave.setS, cellGet_cellSet]
  split <;> simp

theorem Wave.sr_setSBlock (w : Wave) (r n x j : Nat) :
    (w.setSBlock r n x).sr j = if r ≤ j ∧ j < r + n then x / 2 ^ (32 * (j - r)) % 2 ^ 32 else w.sr j := by
  induction n generalizing w r x with
  | zero => simp [Wave.setSBlock, show ¬ (r ≤ j ∧ j < r) by omega]
  | succ n ih =>
    rw [Wave.setSBlock, ih]
    by_cases h : r + 1 ≤ j ∧ j < r + 1 + n
    · have e : x / 2 ^ 32 / 2 ^ (32 * (j - (r + 1))) = x / 2 ^ (32 * (j - r)) := by
        rw [Nat.div_div_eq_div_mul, ← Nat.pow_add]
        congr 2
        omega
      rw [if_pos h, if_pos (by omega), e]
    · rw [if_neg h, Wave.sr_setS]
      by_cases e : j = r
      · subst e
        simp
      · rw [if_neg e, if_neg (by omega)]

/-- A scalar write changes no lane. -/
theorem Wave.setSBlock_lanes (w : Wave) (r n x : Nat) : (w.setSBlock r n x).lanes = w.lanes := by
  induction n generalizing w r x with
  | zero => rfl
  | succ n ih => rw [Wave.setSBlock, ih]; rfl

/-! ### Teams and waves -/

theorem State.team?_updTeam (s : State) (u v : Nat) (f : Team → Team) (hf : ∀ t, (f t).uid = t.uid) :
    (s.updTeam u f).team? v = if v = u then (s.team? v).map f else s.team? v := by
  simp only [State.team?, State.updTeam]
  induction s.teams with
  | nil => simp
  | cons t r ih =>
    simp only [List.map_cons, List.find?_cons]
    by_cases ht : t.uid = u
    · by_cases hv : v = u
      · subst hv
        simp [ht, hf]
      · simp only [ht, hf, beq_self_eq_true, if_true, show (u == v) = false by simpa using fun e : u = v => hv e.symm]
        exact ih
    · by_cases hv : t.uid = v
      · subst hv
        simp [ht]
      · have e : (t.uid == v) = false := by simpa using hv
        have e' : (t.uid == u) = false := by simpa using ht
        simp only [e, e', Bool.false_eq_true, if_false]
        exact ih

theorem Team.updWave_uid (t : Team) (i : Nat) (f : Wave → Wave) : (t.updWave i f).uid = t.uid := rfl

/-- A wave after its own update. -/
theorem State.wave?_updWave (s : State) (r : WaveRef) (f : Wave → Wave) :
    (s.updWave r f).wave? r = (s.wave? r).map f := by
  simp only [State.wave?, State.updWave]
  rw [State.team?_updTeam s _ _ _ (fun t => Team.updWave_uid t _ _), if_pos rfl]
  cases s.team? r.team with
  | none => rfl
  | some t => simp [Team.updWave, listSet_getElem?]

/-- Every other wave is left. -/
theorem State.wave?_updWave_ne (s : State) (r q : WaveRef) (f : Wave → Wave) (h : q ≠ r) :
    (s.updWave r f).wave? q = s.wave? q := by
  simp only [State.wave?, State.updWave]
  rw [State.team?_updTeam s _ _ _ (fun t => Team.updWave_uid t _ _)]
  by_cases e : q.team = r.team
  · have hw : q.wave ≠ r.wave := fun e' => h (by obtain ⟨a, b⟩ := q; obtain ⟨c, d⟩ := r; cases e; cases e'; rfl)
    rw [if_pos e]
    cases s.team? q.team with
    | none => rfl
    | some t => simp [Team.updWave, listSet_getElem?, hw]
  · rw [if_neg e]

@[simp] theorem State.curRef_updWave (s : State) (r : WaveRef) (f : Wave → Wave) : (s.updWave r f).curRef = s.curRef := rfl
@[simp] theorem State.curRef_updCur (s : State) (f : Wave → Wave) : (s.updCur f).curRef = s.curRef := rfl

/-- The current wave, when it exists, after an update of it. -/
theorem State.wave?_updCur (s : State) (f : Wave → Wave) (w : Wave) (h : s.wave? s.curRef = some w) :
    (s.updCur f).wave? s.curRef = some (f w) := by
  rw [State.updCur, State.wave?_updWave, h]; rfl

theorem State.curWave_eq (s : State) (w : Wave) (h : s.wave? s.curRef = some w) : s.curWave = w := by
  simp [State.curWave, h]

theorem State.curWave_updCur (s : State) (f : Wave → Wave) (w : Wave) (h : s.wave? s.curRef = some w) :
    (s.updCur f).curWave = f w := by
  rw [State.curWave, State.curRef_updCur, State.wave?_updCur s f w h]; rfl

/-! ### Issue: the lanes that take part, and their moving on -/

/-- A lane takes part when it is in the issue and passes the guard (02 R24). -/
theorem guardMask_getLsbD (h : Hdr) (w : Wave) (m : BitVec 64) (l : Nat) :
    (guardMask h w m).getLsbD l = (decide (l < 64) && (m.getLsbD l && (w.lane l).passes h)) := by
  simp [guardMask]

/-- What `finish` does to a wave: its issue's lanes move on, SW ends the run. -/
theorem State.wave?_finish (s : State) (h : Hdr) (w : Wave) (hw : s.wave? s.curRef = some w) :
    (s.finish h).wave? s.curRef =
      some { w.goto s.cur.mask (s.nextPc h) with runEnd := w.runEnd || h.sw, prog := none, xl := [] } :=
  s.wave?_updCur _ w hw

end Sys2Proof.Machine
end

