-- ==== Sys2Proof/Laws/Shapes.lean ====
section
/-! SUPPORT. What the shared shapes of instructions do, once for all: fixed-latency and variable-latency vector results, scalar
results, moving on. -/

namespace Sys2Proof.Machine

open Sys2Proof.Safety

/-! ### A lane's results -/

/-- The last write of a list of register writes to a register. -/
def lastReg (ws : List (Nat × Nat)) (r : Nat) : Option Nat := ((ws.reverse.find? (fun p => p.1 == r)).map (fun p => p.2 % 2 ^ 32))
/-- The last write of a list of predicate writes to a predicate; p7 takes none. -/
def lastPred (ws : List (Nat × Bool)) (p : Nat) : Option Bool :=
  if p < 7 then (ws.reverse.find? (fun q => q.1 == p)).map (fun q => q.2) else none

theorem foldl_setV_vr (ws : List (Nat × Nat)) (ln : Lane) (r : Nat) :
    (ws.foldl (fun ln p => ln.setV p.1 p.2) ln).vr r = (lastReg ws r).getD (ln.vr r) := by
  induction ws generalizing ln with
  | nil => rfl
  | cons p ws ih =>
    rw [List.foldl_cons, ih, Lane.vr_setV]
    simp only [lastReg, List.reverse_cons, List.find?_append]
    cases ws.reverse.find? (fun p => p.1 == r) with
    | some x => rfl
    | none =>
      by_cases h : p.1 = r
      · subst h; simp
      · simp [h, Ne.symm h]

theorem foldl_setV_rest (ws : List (Nat × Nat)) (ln : Lane) :
    { ws.foldl (fun ln p => ln.setV p.1 p.2) ln with v := ln.v } = ln := by
  induction ws generalizing ln with
  | nil => rfl
  | cons p ws ih =>
    have h := ih (ln.setV p.1 p.2)
    rw [List.foldl_cons]
    have h2 := congrArg (fun x : Lane => { x with v := ln.v }) h
    exact h2

/-- A predicate after a predicate write. -/
theorem Lane.pred_setPred (ln : Lane) (i p : Nat) (b : Bool) :
    (ln.setPred i b).pred p = if p = i ∧ p < 7 then b else ln.pred p := by
  simp only [Lane.setPred, Lane.pred]
  by_cases hi : i < 7
  · rw [if_pos hi]
    simp only [BitVec.getLsbD_ofNat, ofBits_testBit]
    by_cases e : p = i
    · subst e
      simp [hi, show p ≠ 7 by omega]
    · by_cases h7 : p < 7
      · simp [h7, e]
      · have : ln.p.getLsbD p = false := BitVec.getLsbD_of_ge _ _ (by omega)
        simp [h7, this]
  · rw [if_neg hi]
    by_cases e : p = i
    · subst e
      simp [hi]
    · simp [e]

theorem foldl_setPred_pred (ws : List (Nat × Bool)) (ln : Lane) (p : Nat) :
    (ws.foldl (fun ln q => ln.setPred q.1 q.2) ln).pred p = (lastPred ws p).getD (ln.pred p) := by
  induction ws generalizing ln with
  | nil => simp [lastPred]
  | cons q ws ih =>
    rw [List.foldl_cons, ih, Lane.pred_setPred]
    simp only [lastPred, List.reverse_cons, List.find?_append]
    by_cases h7 : p < 7
    · simp only [h7, if_true]
      cases ws.reverse.find? (fun q => q.1 == p) with
      | some x => rfl
      | none =>
        by_cases h : q.1 = p
        · subst h; simp
        · simp [h, Ne.symm h]
    · simp [h7]

theorem Lane.setPred_rest (ln : Lane) (i : Nat) (b : Bool) : { ln.setPred i b with p := ln.p } = ln := by
  simp only [Lane.setPred]
  split <;> rfl

theorem foldl_setPred_rest (ws : List (Nat × Bool)) (ln : Lane) :
    { ws.foldl (fun ln q => ln.setPred q.1 q.2) ln with p := ln.p } = ln := by
  induction ws generalizing ln with
  | nil => rfl
  | cons q ws ih =>
    rw [List.foldl_cons]
    have h := ih (ln.setPred q.1 q.2)
    have h2 := congrArg (fun x : Lane => { x with p := ln.p }) h
    exact h2.trans (Lane.setPred_rest ln q.1 q.2)

theorem foldl_setPred_v (ws : List (Nat × Bool)) (ln : Lane) : (ws.foldl (fun ln q => ln.setPred q.1 q.2) ln).v = ln.v := by
  have h := congrArg Lane.v (foldl_setPred_rest ws ln)
  exact h

theorem foldl_setV_p (ws : List (Nat × Nat)) (ln : Lane) : (ws.foldl (fun ln q => ln.setV q.1 q.2) ln).p = ln.p := by
  have h := congrArg Lane.p (foldl_setV_rest ws ln)
  exact h

/-- What a lane holds after it has taken an instruction's results. -/
theorem Lane.vr_apply (ln : Lane) (o : LaneOut) (r : Nat) : (ln.apply o).vr r = (lastReg o.regs r).getD (ln.vr r) := by
  rw [Lane.apply, Lane.vr, foldl_setPred_v]
  exact foldl_setV_vr o.regs ln r

theorem Lane.pred_apply (ln : Lane) (o : LaneOut) (p : Nat) : (ln.apply o).pred p = (lastPred o.preds p).getD (ln.pred p) := by
  rw [Lane.apply, foldl_setPred_pred]
  simp only [Lane.pred, foldl_setV_p]

theorem Lane.apply_rest (ln : Lane) (o : LaneOut) : { ln.apply o with v := ln.v, p := ln.p } = ln := by
  have h1 := foldl_setPred_rest o.preds (o.regs.foldl (fun ln p => ln.setV p.1 p.2) ln)
  have h2 := foldl_setV_rest o.regs ln
  rw [foldl_setV_p] at h1
  have h3 := congrArg (fun x : Lane => { x with v := ln.v }) h1
  exact h3.trans h2

/-- The block that `outRegs` writes. -/
theorem lastReg_outRegs (d : BitVec 9) (n v : Nat) (fl : Flags) (r : Nat) :
    lastReg (outRegs d n v fl).regs r = block d.toNat n v r := by
  simp only [outRegs, block]
  induction n with
  | zero => simp [lastReg, show ¬ (d.toNat ≤ r ∧ r < d.toNat) by omega]
  | succ n ih =>
    rw [List.range_succ, List.map_append]
    simp only [lastReg, List.reverse_append, List.map_cons, List.map_nil, List.reverse_cons, List.reverse_nil,
      List.nil_append, List.cons_append, List.find?_cons]
    by_cases h : d.toNat + n = r
    · subst h
      simp
    · have e : (d.toNat + n == r) = false := by simpa using h
      simp only [e]
      rw [lastReg] at ih
      rw [ih]
      by_cases h2 : d.toNat ≤ r ∧ r < d.toNat + n
      · rw [if_pos h2, if_pos (by omega)]
      · rw [if_neg h2, if_neg (by omega)]

@[simp] theorem lastPred_nil (p : Nat) : lastPred [] p = none := by simp [lastPred]
@[simp] theorem lastReg_nil (r : Nat) : lastReg [] r = none := rfl

/-- The predicate that `outPred` writes. -/
theorem lastPred_one (d : Nat) (b : Bool) (p : Nat) : lastPred [(d, b)] p = onePred d b p := by
  simp only [lastPred, onePred, List.reverse_cons, List.reverse_nil, List.nil_append, List.find?_cons, List.find?_nil]
  by_cases h7 : p < 7
  · by_cases e : p = d
    · subst e; simp [h7]
    · simp [h7, e, show (d == p) = false by simpa using fun q : d = p => e q.symm]
  · simp [h7]

/-! ### The lanes that take part -/

theorem takes_eq (s : State) (h : Hdr) (w : Wave) (l : Nat) (hw : Issuing s w) : (s.part h).getLsbD l = takes s h w l := by
  rw [State.part, State.curWave_eq s w hw, guardMask_getLsbD, takes, Lane.passes]
  have e : (h.gp.toNat == 7) = (h.gp == 7#3) := by
    rw [Bool.eq_iff_iff]
    simp only [beq_iff_eq]
    exact ⟨fun q => BitVec.eq_of_toNat_eq q, fun q => by rw [q]; rfl⟩
  rw [e]
  by_cases hl : l < 64
  · simp [hl]
  · have : s.cur.mask.getLsbD l = false := BitVec.getLsbD_of_ge _ _ (by omega)
    simp [this]

theorem nextPc_eq (s : State) (h : Hdr) : s.nextPc h = after s h := by
  simp only [State.nextPc, after, hdrLen]
  split <;> rfl

/-- Bits of the flags of a mask's lanes, ORed. -/
theorem flagsOver_getLsbD (w : Wave) (m : BitVec 64) (op : Wave → Nat → Lane → LaneOut) (i : Nat) :
    (flagsOver w m op).getLsbD i = true ↔ ∃ l, m.getLsbD l = true ∧ (op w l (w.lane l)).flags.getLsbD i = true := by
  have key : ∀ (ls : List Nat) (a : Flags),
      (ls.foldl (fun a l => a ||| (op w l (w.lane l)).flags) a).getLsbD i = true ↔
        a.getLsbD i = true ∨ ∃ l ∈ ls, (op w l (w.lane l)).flags.getLsbD i = true := by
    intro ls
    induction ls with
    | nil => simp
    | cons x ls ih =>
      intro a
      rw [List.foldl_cons, ih]
      simp [or_assoc]
  rw [flagsOver, key]
  simp only [lanesOf, List.mem_filter, List.mem_range]
  constructor
  · rintro (h | ⟨l, ⟨-, hl⟩, hf⟩)
    · simp at h
    · exact ⟨l, hl, hf⟩
  · rintro ⟨l, hl, hf⟩
    refine .inr ⟨l, ⟨?_, hl⟩, hf⟩
    by_contra hn
    rw [BitVec.getLsbD_of_ge _ _ (by omega)] at hl
    cases hl

/-! ### What an update of the current wave leaves -/

theorem Elsewhere.updCur (s : State) (f : Wave → Wave) : Elsewhere s (s.updCur f) where
  rest := rfl
  teams := by
    simp only [State.updCur, State.updWave, State.updTeam, List.map_map]
    apply List.map_congr_left
    intro t _
    simp only [Function.comp]
    split <;> rfl
  waves := fun q hq => State.wave?_updWave_ne s s.curRef q f hq
  bytes := fun _ => rfl

theorem Elsewhere.trans {s t u : State} (h : Elsewhere s t) (k : Elsewhere t u) (hc : t.cur = s.cur) : Elsewhere s u where
  rest := by
    have e := congrArg (fun x : State => { x with teams := s.teams }) k.rest
    exact e.trans h.rest
  teams := k.teams.trans h.teams
  waves := fun q hq => (k.waves q (by simpa [State.curRef, hc] using hq)).trans (h.waves q hq)
  bytes := fun a => (k.bytes a).trans (h.bytes a)

theorem updCur_updCur (s : State) (f g : Wave → Wave) : (s.updCur f).updCur g = s.updCur (fun w => g (f w)) := by
  simp only [State.updCur, State.updWave, State.updTeam, State.curRef, List.map_map]
  congr 1
  apply List.map_congr_left
  intro t _
  simp only [Function.comp]
  by_cases h : t.uid = s.cur.team
  · simp only [h, beq_self_eq_true, if_true, Team.updWave]
    congr 1
    generalize s.cur.wave = i
    induction t.waves generalizing i with
    | nil => rfl
    | cons x r ih => cases i <;> simp [listSet, ih]
  · have e : (t.uid == s.cur.team) = false := by simpa using h
    simp [e]

/-- An update of the current wave that leaves nothing of the instruction in progress. -/
theorem becomes_updCur (s : State) (w x : Wave) (f : Wave → Wave) (hw : Issuing s w) (hc : (f w).lanes.length = w.lanes.length)
    (hp : (f w).prog = none) (hx : { f w with lanes := x.lanes, runEnd := x.runEnd, prog := x.prog, xl := x.xl } = x) :
    Becomes s w x (fun l => (f w).lane l) (f w).runEnd (s.updCur f) (f w) :=
  ⟨State.wave?_updCur s f w hw, hc, fun _ _ => rfl, rfl, hp, hx, Elsewhere.updCur s f⟩

/-- Moving on: every lane of the issue goes to the next PC, SW ends the run. -/
theorem goto_moves (s : State) (h : Hdr) (w x : Wave) (hc : x.lanes.length = w.lanes.length)
    (hp : ∀ l, l < w.lanes.length → { x.lane l with v := (w.lane l).v, p := (w.lane l).p } = w.lane l) :
    Moves s h w (x.goto s.cur.mask (s.nextPc h)) where
  count := by rw [Wave.goto, Wave.updLanes_length, hc]
  pc := fun l hl => by
    have := congrArg Lane.pc (hp l hl)
    simp only at this
    rw [Wave.lane_goto, hc, ← nextPc_eq]
    by_cases m : s.cur.mask.getLsbD l = true
    · simp [m, hl]
    · simp [m, this]
  lane := fun l hl => by
    have e := hp l hl
    rw [Wave.lane_goto, hc]
    by_cases m : s.cur.mask.getLsbD l = true
    · simp only [m, hl, and_self, if_true]
      have := congrArg (fun y : Lane => { y with pc := (w.lane l).pc, wait := (w.lane l).wait }) e
      exact this
    · simp only [m, Bool.false_eq_true, and_false, if_false]
      have := congrArg (fun y : Lane => { y with pc := (w.lane l).pc, wait := (w.lane l).wait }) e
      exact this

/-! ### The shapes -/

/-- A vector instruction with fixed-latency results, from what it makes of the wave before its lanes move on. -/
theorem computes_of (s t : State) (h : Hdr) (w y : Wave) (reg : Nat → Nat → Option Nat) (pred : Nat → Nat → Option Bool)
    (fl : Nat → Flags) (hw : Issuing s w)
    (hs : t = s.updCur (fun _ => { y.goto s.cur.mask (s.nextPc h) with runEnd := y.runEnd || h.sw, prog := none, xl := [] }))
    (hlen : y.lanes.length = w.lanes.length)
    (hr : ∀ l r, l < w.lanes.length → (y.lane l).vr r = if takes s h w l then (reg l r).getD ((w.lane l).vr r) else (w.lane l).vr r)
    (hp : ∀ l p, l < w.lanes.length →
      (y.lane l).pred p = if takes s h w l then (pred l p).getD ((w.lane l).pred p) else (w.lane l).pred p)
    (hl : ∀ l, l < w.lanes.length → { y.lane l with v := (w.lane l).v, p := (w.lane l).p } = w.lane l)
    (hf : ∀ i, y.wstat.getLsbD i = true ↔
      w.wstat.getLsbD i = true ∨ (i < 8 ∧ ∃ l, takes s h w l = true ∧ (fl l).getLsbD i = true))
    (hk : { y with lanes := w.lanes, wstat := w.wstat } = w) :
    ∃ w', Computes s h w reg pred fl t w' := by
  refine ⟨{ y.goto s.cur.mask (s.nextPc h) with runEnd := y.runEnd || h.sw, prog := none, xl := [] }, ?_⟩
  have hv : ∀ l, l < w.lanes.length → (y.goto s.cur.mask (s.nextPc h)).lane l =
      if s.cur.mask.getLsbD l = true then { y.lane l with pc := s.nextPc h, wait := .none } else y.lane l := by
    intro l hl
    rw [Wave.lane_goto, hlen]
    simp [hl]
  have m := goto_moves s h w y hlen hl
  have hrun : y.runEnd = w.runEnd := by
    have q := congrArg Wave.runEnd hk
    exact q
  have hrest : { y with lanes := w.lanes, wstat := w.wstat, runEnd := w.runEnd, prog := w.prog, xl := w.xl } = w := by
    have := congrArg (fun x : Wave => { x with runEnd := w.runEnd, prog := w.prog, xl := w.xl }) hk
    exact this
  constructor
  · rw [hs]
    exact State.wave?_updCur s _ w hw
  · intro l r hl
    rw [← hr l r hl]
    show ((y.goto s.cur.mask (s.nextPc h)).lane l).vr r = (y.lane l).vr r
    rw [hv l hl]
    split <;> rfl
  · intro l p hl
    rw [← hp l p hl]
    show ((y.goto s.cur.mask (s.nextPc h)).lane l).pred p = (y.lane l).pred p
    rw [hv l hl]
    split <;> rfl
  · exact hf
  · exact ⟨m.count, m.pc, m.lane⟩
  · exact ⟨by rw [← hrun], rfl⟩
  · exact hrest
  · rw [hs]
    exact Elsewhere.updCur s _

/-- A vector instruction with fixed-latency results. -/
theorem vecFixed_computes (s : State) (h : Hdr) (w : Wave) (op : Wave → Nat → Lane → LaneOut) (hw : Issuing s w) :
    ∃ w', Computes s h w (fun l => lastReg (op w l (w.lane l)).regs) (fun l => lastPred (op w l (w.lane l)).preds)
      (fun l => (op w l (w.lane l)).flags) (s.vecFixed h op) w' := by
  have hy : ∀ l, ((w.updLanes (s.part h) (fun l ln => ln.apply (op w l ln))).orFlags (flagsOver w (s.part h) op)).lane l =
      if l < w.lanes.length ∧ (s.part h).getLsbD l = true then (w.lane l).apply (op w l (w.lane l)) else w.lane l :=
    fun l => w.lane_updLanes _ _ l
  refine computes_of s _ h w ((w.updLanes (s.part h) (fun l ln => ln.apply (op w l ln))).orFlags (flagsOver w (s.part h) op))
    _ _ _ hw ?_ (w.updLanes_length _ _) ?_ ?_ ?_ ?_ rfl
  · simp only [State.vecFixed, State.finish, State.curWave_eq s w hw]
    exact updCur_updCur s _ _
  · intro l r hl
    rw [hy, takes_eq s h w l hw]
    by_cases t : takes s h w l = true
    · simp only [hl, t, and_self, if_true, Lane.vr_apply]
    · simp [t]
  · intro l p hl
    rw [hy, takes_eq s h w l hw]
    by_cases t : takes s h w l = true
    · simp only [hl, t, and_self, if_true, Lane.pred_apply]
    · simp [t]
  · intro l _
    rw [hy]
    split
    · exact Lane.apply_rest _ _
    · rfl
  · intro i
    show (w.wstat ||| (flagsOver w (s.part h) op).setWidth 32).getLsbD i = true ↔ _
    rw [BitVec.getLsbD_or, BitVec.getLsbD_setWidth]
    simp only [Bool.or_eq_true, Bool.and_eq_true, decide_eq_true_eq]
    rw [flagsOver_getLsbD]
    simp only [takes_eq s h w _ hw]
    constructor
    · rintro (a | ⟨-, l, hl, hf⟩)
      · exact .inl a
      · refine .inr ⟨?_, l, hl, hf⟩
        by_contra hn
        rw [BitVec.getLsbD_of_ge _ _ (by omega)] at hf
        cases hf
    · rintro (a | ⟨hi, l, hl, hf⟩)
      · exact .inl a
      · exact .inr ⟨by omega, l, hl, hf⟩

/-- Results of one block of registers and no predicate. -/
theorem vecFixed_block (s : State) (h : Hdr) (w : Wave) (op : Wave → Nat → Lane → LaneOut) (hw : Issuing s w)
    (d : BitVec 9) (n : Nat) (v : Nat → Nat) (fl : Nat → Flags)
    (ho : ∀ l, op w l (w.lane l) = outRegs d n (v l) (fl l)) :
    ∃ w', Computes s h w (fun l => block d.toNat n (v l)) noPred fl (s.vecFixed h op) w' := by
  have e := vecFixed_computes s h w op hw
  simp only [ho] at e
  have r : (fun l => lastReg (outRegs d n (v l) (fl l)).regs) = fun l => block d.toNat n (v l) := by
    funext l r
    exact lastReg_outRegs d n (v l) (fl l) r
  have p : (fun l => lastPred (outRegs d n (v l) (fl l)).preds) = noPred := by
    funext l q
    exact lastPred_nil q
  rw [r, p] at e
  exact e

/-- Results of one predicate and no register. -/
theorem vecFixed_pred (s : State) (h : Hdr) (w : Wave) (op : Wave → Nat → Lane → LaneOut) (hw : Issuing s w)
    (d : Nat) (b : Nat → Bool) (fl : Nat → Flags)
    (ho : ∀ l, op w l (w.lane l) = outPred d (b l) (fl l)) :
    ∃ w', Computes s h w noReg (fun l => onePred d (b l)) fl (s.vecFixed h op) w' := by
  have e := vecFixed_computes s h w op hw
  simp only [ho] at e
  have r : (fun l => lastReg (outPred d (b l) (fl l)).regs) = noReg := by
    funext l r
    exact lastReg_nil r
  have p : (fun l => lastPred (outPred d (b l) (fl l)).preds) = fun l => onePred d (b l) := by
    funext l q
    exact lastPred_one d (b l) q
  rw [r, p] at e
  exact e

/-! ### Register writes that arrive later -/

/-- A wave's lane after a vector register write. -/
theorem Wave.lane_write (x : Wave) (a : RegWrite) (l : Nat) (hs : a.scalar = false) (ha : a.lane < 64) (hl : l < x.lanes.length) :
    (x.write a).lane l = if l = a.lane then (x.lane l).setV a.reg a.val.toNat else x.lane l := by
  rw [Wave.write, hs]
  simp only [Bool.false_eq_true, if_false]
  rw [Wave.lane_updLanes]
  have e : (1#64 <<< a.lane).getLsbD l = decide (l = a.lane) := by
    rw [BitVec.getLsbD_shiftLeft]
    by_cases h : l = a.lane
    · subst h; simp [ha]
    · by_cases h2 : l < a.lane
      · simp [h2, h]
      · have : l - a.lane ≠ 0 := by omega
        simp [h, h2, this]
  rw [e]
  by_cases h : l = a.lane
  · simp [h, h ▸ hl]
  · simp [h]

theorem Wave.write_length (x : Wave) (a : RegWrite) : (x.write a).lanes.length = x.lanes.length := by
  rw [Wave.write]
  split
  · rfl
  · exact Wave.updLanes_length _ _ _

theorem foldl_write_lane (ws : List RegWrite) (x : Wave) (l : Nat) (hs : ∀ a ∈ ws, a.scalar = false ∧ a.lane < 64)
    (hl : l < x.lanes.length) :
    (ws.foldl Wave.write x).lane l =
      ((ws.filter (fun a => a.lane == l)).map (fun a => (a.reg, a.val.toNat))).foldl (fun ln p => ln.setV p.1 p.2) (x.lane l) := by
  induction ws generalizing x with
  | nil => rfl
  | cons a ws ih =>
    have ha := hs a (by simp)
    rw [List.foldl_cons, ih (x.write a) (fun b hb => hs b (by simp [hb])) (by rw [Wave.write_length]; exact hl),
      Wave.lane_write x a l ha.1 ha.2 hl]
    by_cases e : l = a.lane
    · subst e; simp
    · simp [e, Ne.symm e]

/-- The register writes of the lanes of a mask. -/
def writesOf (m : BitVec 64) (f : Nat → List (Nat × Nat)) : List RegWrite :=
  (lanesOf m).flatMap (fun l => (f l).map (fun p => { scalar := false, lane := l, reg := p.1, val := BitVec.ofNat 32 p.2 }))

theorem flatMap_filter_lane (ls : List Nat) (f : Nat → List (Nat × Nat)) (l : Nat) (hn : ls.Nodup) :
    (ls.flatMap (fun l => (f l).map (fun p => ({ scalar := false, lane := l, reg := p.1, val := BitVec.ofNat 32 p.2 } : RegWrite)))).filter
        (fun a => a.lane == l) =
      if l ∈ ls then (f l).map (fun p => { scalar := false, lane := l, reg := p.1, val := BitVec.ofNat 32 p.2 }) else [] := by
  induction ls with
  | nil => rfl
  | cons k ls ih =>
    rw [List.flatMap_cons, List.filter_append, ih (List.nodup_cons.mp hn).2]
    have hk := (List.nodup_cons.mp hn).1
    by_cases e : k = l
    · subst e
      simp [hk, List.filter_map, Function.comp_def]
    · simp [e, Ne.symm e, List.filter_map, Function.comp_def]

theorem lanesOf_mem (m : BitVec 64) (l : Nat) : l ∈ lanesOf m ↔ m.getLsbD l = true := by
  simp only [lanesOf, List.mem_filter, List.mem_range]
  constructor
  · exact fun h => h.2
  · intro h
    refine ⟨?_, h⟩
    by_contra hn
    rw [BitVec.getLsbD_of_ge _ _ (by omega)] at h
    cases h

theorem lastReg_mod (ws : List (Nat × Nat)) (r : Nat) :
    lastReg (ws.map (fun p => (p.1, p.2 % 2 ^ 32))) r = lastReg ws r := by
  simp only [lastReg, ← List.map_reverse, List.find?_map, Function.comp_def]
  cases ws.reverse.find? (fun p => p.1 == r) with
  | none => rfl
  | some p => simp

theorem writesOf_delivers (s : State) (h : Hdr) (w : Wave) (f : Nat → List (Nat × Nat)) (hw : Issuing s w) :
    Delivers (writesOf (s.part h) f) s h w (fun l => lastReg (f l)) := by
  intro x hx l r hl
  rw [writesOf, foldl_write_lane _ _ _ (by
    intro a ha
    simp only [List.mem_flatMap, List.mem_map] at ha
    obtain ⟨k, hk, p, -, rfl⟩ := ha
    refine ⟨rfl, ?_⟩
    rw [lanesOf_mem] at hk
    by_contra hn
    rw [BitVec.getLsbD_of_ge _ _ (by simp only at hn; omega)] at hk
    cases hk) (by omega), foldl_setV_vr, flatMap_filter_lane (lanesOf (s.part h)) f l
      (show (lanesOf (s.part h)).Nodup from List.nodup_range.filter _)]
  simp only [lanesOf_mem, takes_eq s h w l hw]
  by_cases t : takes s h w l = true
  · simp only [t, if_true, List.map_map, Function.comp_def, BitVec.toNat_ofNat]
    rw [lastReg_mod]
  · simp [t]

/-- The wave of an issue that leaves an outstanding result and moves on. -/
def Wave.withOut (x : Wave) (o : Out) (m : BitVec 64) (pc : Word) (h : Hdr) : Wave :=
  { ({ x with outs := x.outs ++ [o] } : Wave).goto m pc with runEnd := x.runEnd || h.sw, prog := none, xl := [] }

theorem addOut_finish (s : State) (h : Hdr) (o : Out) :
    (s.addOut o).finish h =
      { s.updCur (fun x => x.withOut { o with id := s.uid } s.cur.mask (s.nextPc h) h) with uid := s.uid + 1 } := by
  have e := updCur_updCur s (fun x => { x with outs := x.outs ++ [{ o with id := s.uid }] })
    (fun x => { x.goto s.cur.mask (s.nextPc h) with runEnd := x.runEnd || h.sw, prog := none, xl := [] })
  have k : (s.addOut o).finish h = { (s.updCur (fun x => { x with outs := x.outs ++ [{ o with id := s.uid }] })).updCur
    (fun x => { x.goto s.cur.mask (s.nextPc h) with runEnd := x.runEnd || h.sw, prog := none, xl := [] }) with uid := s.uid + 1 } := rfl
  rw [k, e]
  rfl

/-- An issue that leaves an outstanding result: its wave, and that nothing else is touched. -/
theorem addOut_finish_spec (s : State) (h : Hdr) (w : Wave) (o : Out) (hw : Issuing s w) :
    ∃ w', ((s.addOut o).finish h).wave? s.curRef = some w' ∧ w'.outs = w.outs ++ [{ o with id := s.uid }] ∧ LanesKept w w' ∧
      Moves s h w w' ∧ Ends h w w' ∧
      { w' with lanes := w.lanes, outs := w.outs, runEnd := w.runEnd, prog := w.prog, xl := w.xl } = w ∧
      Elsewhere { s with uid := s.uid + 1 } ((s.addOut o).finish h) := by
  have m := goto_moves s h w { w with outs := w.outs ++ [{ o with id := s.uid }] } rfl (fun l _ => rfl)
  have e := Elsewhere.updCur s (fun x => x.withOut { o with id := s.uid } s.cur.mask (s.nextPc h) h)
  refine ⟨w.withOut { o with id := s.uid } s.cur.mask (s.nextPc h) h, ?_, rfl, ⟨?_, ?_⟩, ⟨m.count, m.pc, m.lane⟩, ⟨rfl, rfl⟩, rfl, ?_⟩
  · rw [addOut_finish]
    exact State.wave?_updCur s _ w hw
  · intro l r hl
    show (Wave.lane (Wave.goto _ _ _) l).vr r = _
    rw [Wave.lane_goto]
    split <;> rfl
  · intro l r hl
    show (Wave.lane (Wave.goto _ _ _) l).pred r = _
    rw [Wave.lane_goto]
    split <;> rfl
  · rw [addOut_finish]
    exact ⟨rfl, e.teams, e.waves, fun _ => rfl⟩

/-- A vector instruction with a variable-latency result. -/
theorem vecVar_promises (s : State) (h : Hdr) (w : Wave) (op : Wave → Nat → Lane → LaneOut) (hw : Issuing s w) :
    ∃ w' o, Promises s h w (fun l => lastReg (op w l (w.lane l)).regs) (fun l => (op w l (w.lane l)).flags) (s.vecVar h op) w' o := by
  have hs : s.vecVar h op = (s.addOut (Out.ofWrites s.cur.pc (writesOf (s.part h) (fun l => (op w l (w.lane l)).regs))
      (flagsOver w (s.part h) op))).finish h := by
    rw [State.vecVar, State.curWave_eq s w hw]
    rfl
  obtain ⟨w', h1, h2, h3, h4, h5, h6, h7⟩ := addOut_finish_spec s h w
    (Out.ofWrites s.cur.pc (writesOf (s.part h) (fun l => (op w l (w.lane l)).regs)) (flagsOver w (s.part h) op)) hw
  refine ⟨w', _, ?_, h2, ⟨rfl, rfl, rfl, rfl, rfl, rfl⟩, writesOf_delivers s h w _ hw, ?_, h3, h4, h5, h6, ?_⟩
  · rw [hs]
    exact h1
  · intro i
    show (flagsOver w (s.part h) op).getLsbD i = true ↔ _
    rw [flagsOver_getLsbD]
    simp only [takes_eq s h w _ hw]
  · rw [hs]
    exact h7

/-- Variable-latency results of one block of registers. -/
theorem vecVar_block (s : State) (h : Hdr) (w : Wave) (op : Wave → Nat → Lane → LaneOut) (hw : Issuing s w)
    (d : BitVec 9) (n : Nat) (v : Nat → Nat) (fl : Nat → Flags)
    (ho : ∀ l, op w l (w.lane l) = outRegs d n (v l) (fl l)) :
    ∃ w' o, Promises s h w (fun l => block d.toNat n (v l)) fl (s.vecVar h op) w' o := by
  have e := vecVar_promises s h w op hw
  simp only [ho] at e
  have r : (fun l => lastReg (outRegs d n (v l) (fl l)).regs) = fun l => block d.toNat n (v l) := by
    funext l r
    exact lastReg_outRegs d n (v l) (fl l) r
  rw [r] at e
  exact e

/-! ### Scalar results, and moving on -/

theorem sr_block (w : Wave) (d n v r : Nat) : (w.setSBlock d n v).sr r = (block d n v r).getD (w.sr r) := by
  rw [Wave.sr_setSBlock, block]
  split <;> rfl

/-- A scalar write changes scalar registers alone. -/
theorem setSBlock_rest (w : Wave) (d n v : Nat) : { w.setSBlock d n v with sregs := w.sregs } = w := by
  induction n generalizing w d v with
  | zero => rfl
  | succ n ih =>
    have h := ih (w.setS d v) (d + 1) (v / 2 ^ 32)
    have h2 := congrArg (fun x : Wave => { x with sregs := w.sregs }) h
    exact h2

/-- A scalar instruction. -/
theorem scalar_step (s : State) (h : Hdr) (f : SFields) (w : Wave) (wide : Bool) (v : Wave → Nat) (hw : Issuing s w) :
    ∃ w', ScalarStep s h w f.d.toNat (if wide then 2 else 1) (v w) (s.scalar h f wide v) w' := by
  have hs : s.scalar h f wide v = s.updCur (fun x =>
      { (x.setSBlock f.d.toNat (if wide then 2 else 1) (v w)).goto s.cur.mask (s.nextPc h) with
        runEnd := (x.setSBlock f.d.toNat (if wide then 2 else 1) (v w)).runEnd || h.sw, prog := none, xl := [] }) := by
    simp only [State.scalar, State.finish, State.curWave_eq s w hw]
    exact updCur_updCur s _ _
  have hr := setSBlock_rest w f.d.toNat (if wide then 2 else 1) (v w)
  have hlan := Wave.setSBlock_lanes w f.d.toNat (if wide then 2 else 1) (v w)
  generalize hy : w.setSBlock f.d.toNat (if wide then 2 else 1) (v w) = y at hr hlan
  have hlane : ∀ l, y.lane l = w.lane l := fun l => by rw [Wave.lane, Wave.lane, hlan]
  have m := goto_moves s h w y (by rw [hlan]) (fun l _ => by rw [hlane])
  have hrun : y.runEnd = w.runEnd := by
    have q := congrArg Wave.runEnd hr
    exact q
  refine ⟨{ y.goto s.cur.mask (s.nextPc h) with runEnd := y.runEnd || h.sw, prog := none, xl := [] },
    ?_, ?_, ⟨?_, ?_⟩, ⟨m.count, m.pc, m.lane⟩, ⟨by rw [← hrun], rfl⟩, ?_, ?_⟩
  · rw [hs, State.wave?_updCur s _ w hw, hy]
  · intro r
    rw [← sr_block, hy]
    rfl
  · intro l r _
    show (Wave.lane (Wave.goto _ _ _) l).vr r = _
    rw [Wave.lane_goto, ← hlane]
    split <;> rfl
  · intro l r _
    show (Wave.lane (Wave.goto _ _ _) l).pred r = _
    rw [Wave.lane_goto, ← hlane]
    split <;> rfl
  · have := congrArg (fun x : Wave => { x with lanes := w.lanes, runEnd := w.runEnd, prog := w.prog, xl := w.xl }) hr
    exact this
  · rw [hs]
    exact Elsewhere.updCur s _

end Sys2Proof.Machine
end

