-- ==== Sys2Proof/Tests/Slice0.lean ====
section
/-! SUPPORT. Tests: words of the spec's encoding tables decoded, worked examples of the spec evaluated, and for each statement a state
and operands that meet its hypotheses. Expected values come from the spec's tables and examples, or are worked out by hand from its rules. -/

open Sys2Proof Sys2Proof.Machine Sys2Proof.Safety

namespace Sys2Proof.Tests

set_option Elab.async false

/-! ### A small state: one team of eight lanes on core 0, all of them in the current issue at 0x10000 -/

def wref : WaveRef := { team := 1, wave := 0 }
def base : State := (State.reset.withFetchWord 64 0).atIssue wref 0xFF#64 0x10000#64
def waveOf (s : State) : Wave := (s.wave? wref).getD Wave.reset
def teamOf (s : State) : Team := (s.team? 1).getD Team.reset
def launchOf (s : State) : Launch := (s.launch? 1).getD (newLaunch [] 0 0 0 0 [])
/-- The state with its wave, its team, its launch or core 0 changed. -/
def onWave (f : Wave → Wave) (s : State) : State := s.updWave wref f
def onTeam (f : Team → Team) (s : State) : State := { s with teams := s.teams.map f }
def onLaunch (f : Launch → Launch) (s : State) : State := { s with launches := s.launches.map f }
def onCore (f : Core → Core) (s : State) : State := s.updCore 0 f
def onRegs (f : Regs → Regs) (s : State) : State := { s with regs := f s.regs }
/-- Scalar register `r`, or vector register `r` of every lane, holds `v`. -/
def sreg (r v : Nat) (s : State) : State := onWave (fun w => w.setS r v) s
def vreg (r v : Nat) (s : State) : State := onWave (fun w => { w with lanes := w.lanes.map (fun l => { l with v := cellSet l.v r (BitVec.ofNat 32 v) }) }) s
/-- The page at 0x10000 has a memory type and permissions. -/
def page (t : MType) (p : BitVec 3) (s : State) : State := onCore (fun c => { c with tlb := c.tlb.map (fun e => { e with mtype := t, perms := p }) }) s
/-- `n` bytes of memory at `a` hold `v`. -/
def holding (a n v : Nat) (s : State) : State := { s with mem := cellWrite s.mem a n v }
/-- The wave is in handler mode. -/
def handling (s : State) : State := onWave (fun w => { w with hmode := true }) s
/-- The lanes of the issue. -/
def issue (m : BitVec 64) (s : State) : State := { s with cur := { s.cur with mask := m } }
/-- One outstanding group. -/
def owing (o : Out) (s : State) : State := onWave (fun w => { w with outs := [o] }) s

def hdr : Hdr := { sw := false, keep := 0, gn := false, gp := 7, x := none }
def vf : VFields := { d := 20, a := 0, b := 4, c := 0, ka := .vec, kb := .vec, kc := false, rnd := .rn, fzi := false, fzo := false, sat := false, sub := 0 }
def sf : SFields := { d := 20, a := 0, b := 4, imm := 0, ik := false, sub := 0 }
def mf : MFields := { d := 20, a := 0, ak := true, size := 2, scope := 0, ord := 0, ch := 0, sub := 0, off := 0 }
def cf : CFields := { d := 0, a := 0, b := 2, e := 4, tag := 1, mode := 0, sub := 0 }
def xf : XFields := { w := 0, a := 16, b := 0, cboff := 0, var := 0, sub := 0 }
def yf : YFields := { imm := 0, d := 20, a := 0, sub := 0 }
def bf : BFields := { off := 3, tprio := 1, fprio := 2, cn := false, cp := 0, sub := 0 }

/-! ### What is true of every lane, of every range and of every word of such a state -/

theorem lane_all (w : Wave) (P : Lane → Prop) (h0 : P Lane.reset) (h : ∀ x ∈ w.lanes, P x) (l : Nat) : P (w.lane l) := by
  unfold Wave.lane
  rcases Nat.lt_or_ge l w.lanes.length with hl | hl
  · rw [List.getD_eq_getElem?_getD, List.getElem?_eq_getElem hl]; exact h _ (List.getElem_mem hl)
  · rw [List.getD_eq_getElem?_getD, List.getElem?_eq_none hl]; exact h0

theorem lane_in (w : Wave) (P : Lane → Prop) (h : ∀ x ∈ w.lanes, P x) (l : Nat) (hl : l < w.lanes.length) : P (w.lane l) := by
  unfold Wave.lane
  rw [List.getD_eq_getElem?_getD, List.getElem?_eq_getElem hl]; exact h _ (List.getElem_mem hl)

theorem core_all (s : State) (P : Core → Prop) (h0 : P Core.reset) (h : ∀ x ∈ s.cores, P x) (c : Nat) : P (s.core c) := by
  unfold State.core
  rcases Nat.lt_or_ge c s.cores.length with hl | hl
  · rw [List.getD_eq_getElem?_getD, List.getElem?_eq_getElem hl]; exact h _ (List.getElem_mem hl)
  · rw [List.getD_eq_getElem?_getD, List.getElem?_eq_none hl]; exact h0

theorem no_lock : Core.reset.holly.all (fun e => e.isNone) = true :=
  List.all_eq_true.mpr (fun x hx => by rw [List.eq_of_mem_replicate (show x ∈ List.replicate 256 none from hx)]; rfl)

theorem unlocked_of (s : State) (h : ∀ x ∈ s.cores, x.holly.all (fun e => e.isNone) = true) (tm : Team) (sp : Space) (lo n : Nat) (wr : Bool) :
    Unlocked s tm sp lo n wr := by
  intro c _ e he _ _
  have := core_all s (fun x => x.holly.all (fun e => e.isNone) = true) no_lock h c
  have := List.all_eq_true.mp this _ he
  simp at this

theorem sound_of (s : State) (c pa n : Nat) (hp : s.poison = []) (hc : (s.core c).cache = []) : Sound s c pa n := by
  constructor
  · intro p h; simp [hp] at h
  · intro x h; simp [hc] at h

theorem room_here (s : State) (w : Wave) (h : (s.die (w.core / 32)).missq = []) : WalkRoom s w := Or.inr (by rw [h]; exact (by decide : (0 : Nat) < 256))

theorem no_updates (s : State) (h : s.cores = s.core 0 :: List.replicate 255 Core.reset) (h0 : (s.core 0).addons = []) : NoUpdates s := by
  intro c hc
  rw [h] at hc
  rcases List.mem_cons.mp hc with e | e
  · rw [e]; exact h0
  · rw [List.eq_of_mem_replicate e]; rfl

theorem reads_here (s : State) (r : WaveRef) (w : Wave) (h : s.cores = s.core 0 :: List.replicate 255 Core.reset) (h0 : (s.core 0).addons = [])
    (ho : w.outs = []) (hh : s.hostAtomics = []) : ReadsAtOnce s r w :=
  { accesses := by rw [ho]; intro o h; cases h
    updates := by intro c hc u hu; rw [no_updates s h h0 c hc] at hu; cases hu
    host := by rw [hh]; intro a h; cases h }

theorem fresh_here (s : State) (w : Wave) (h : s.cur.whole = false) (hp : w.park = .none) : StartsFresh s w := ⟨h, by rw [hp]; intro ps e; cases e⟩

theorem lowest_zero (p : Nat → Prop) (h : p 0) : Lowest p 0 := ⟨h, fun _ hk => absurd hk (Nat.not_lt_zero _)⟩

/-- A lane of the full issue is one of the eight. -/
theorem lane_lt (m : BitVec 64) (l : Nat) (hm : m = 0xFF#64) (h : m.getLsbD l = true) : l < 8 := by
  subst hm
  rcases Nat.lt_or_ge l 8 with h8 | h8
  · exact h8
  · rw [BitVec.getLsbD, show (0xFF#64).toNat = 2 ^ 8 - 1 from rfl, Nat.testBit_two_pow_sub_one] at h
    simpa using h

theorem takes_lt (s : State) (h : Hdr) (w : Wave) (l : Nat) (hm : s.cur.mask = 0xFF#64) (ht : takes s h w l = true) : l < 8 := by
  simp only [takes, Bool.and_eq_true] at ht
  exact lane_lt _ l hm ht.1

/-- A state whose cores but the first are as after reset. -/
theorem cores_of (s : State) (P : Core → Prop) (h : s.cores = s.core 0 :: List.replicate 255 Core.reset) (h0 : P (s.core 0)) (h1 : P Core.reset) :
    ∀ x ∈ s.cores, P x := by
  rw [h]
  intro x hx
  rcases List.mem_cons.mp hx with e | e
  · rw [e]; exact h0
  · rw [List.eq_of_mem_replicate e]; exact h1

theorem unlocked_here (s : State) (h : s.cores = s.core 0 :: List.replicate 255 Core.reset) (h0 : (s.core 0).holly = Core.reset.holly)
    (tm : Team) (sp : Space) (lo n : Nat) (wr : Bool) : Unlocked s tm sp lo n wr :=
  unlocked_of s (cores_of s _ h (by rw [h0]; exact no_lock) no_lock) tm sp lo n wr

theorem cores_len (s : State) (h : s.cores = s.core 0 :: List.replicate 255 Core.reset) : s.cores.length = 256 := by
  rw [h, List.length_cons, List.length_replicate]

/-! ### Statements on integer, scalar and floating-point instructions: their hypotheses are met -/

theorem witness_IntegerSums : Issuing base (waveOf base) ∧ Someone base hdr (waveOf base) ∧
    (∀ t ∈ [i32, n32, i64, n64], ∃ b : BitVec 2, (b, t) ∈ [(0#2, i32), (1#2, n32), (2#2, i64), (3#2, n64)]) ∧
    (vf.sub, 32) ∈ [(0#2, 32), (1#2, 64)] ∧ (({ vf with sub := 1 } : VFields).sub, 64) ∈ [(0#2, 32), (1#2, 64)] :=
  ⟨by decide, ⟨0, by decide⟩, by decide, by decide, by decide⟩

theorem witness_IntegerDivision : Issuing base (waveOf base) ∧ (vf.sub, i32) ∈ [(0#2, i32), (1#2, n32), (2#2, i64), (3#2, n64)] ∧
    i32.read (intB hdr vf (waveOf base) 32 0) = 0 ∧
    i32.read (intB hdr vf (waveOf (vreg 4 0xFFFFFFFF (vreg 0 0x80000000 base))) 32 0) = -1 ∧
    i32.read (intA hdr vf (waveOf (vreg 4 0xFFFFFFFF (vreg 0 0x80000000 base))) 32 0) = i32.lo := by decide

theorem witness_BitFunctions : Issuing base (waveOf base) ∧ (vf.sub, 32) ∈ [(0#2, 32), (1#2, 64)] ∧ (vf.sub, n32) ∈ [(0#2, n32), (1#2, i32), (2#2, n64), (3#2, i64)] ∧
    (vf.sub, 32) ∈ [(0#2, 32), (1#2, 0)] ∧ (vf.sub, false) ∈ [(0#2, false), (1#2, true)] ∧ vf.sub = 0#2 := by decide

theorem witness_ComparesMovesAddresses : Issuing base (waveOf base) ∧ (vf.sub, 32) ∈ [(0#2, 32), (1#2, 64)] ∧
    (vf.sub, true, true) ∈ [(0#2, true, true), (1#2, false, false), (2#2, true, false)] ∧ (vf.sub, 8) ∈ [(0#2, 8), (1#2, 16)] := by decide

theorem witness_OperandForms : ({ hdr with x := some 5#64 } : Hdr).x = some 5#64 ∧ vf.ka = .vec ∧ ({ vf with ka := .sca } : VFields).ka = .sca ∧
    ({ vf with ka := .zero } : VFields).ka = .zero ∧ ({ vf with ka := .imm } : VFields).ka = .imm ∧ ({ vf with kb := .imm } : VFields).kb = .imm ∧
    vf.kc = false ∧ ({ vf with kc := true } : VFields).kc = true ∧ sf.ik = false ∧ ({ sf with ik := true } : SFields).ik = true ∧ hdr.x = none := by decide

theorem witness_ScalarInstructions : Issuing base (waveOf base) ∧ (sf.sub, 32) ∈ [(0#2, 32), (1#2, 64)] ∧ (sf.sub, n32) ∈ [(0#2, n32), (1#2, i32)] ∧
    base.cur.mask.getLsbD 0 = true ∧ ∀ k < 0, base.cur.mask.getLsbD k = false := by decide

theorem witness_NumberFormats : (0 < 2) ∧ (Rnd.rp, false) ∈ [(Rnd.rp, false), (Rnd.rm, true)] ∧ (Rnd.rm, false) ∈ [(Rnd.rp, true), (Rnd.rm, false)] ∧
    0x3F800000 < 2 ^ Fmt.f32.width ∧ (fdecode .f32 0x3F800000).isNaN = false ∧
    (∀ v ∈ [Val.fin true 1 2, .fin false 3 1], ∃ sg n d, v = .fin sg n d ∧ 0 < d) ∧ (∃ v ∈ [Val.nan true], v.isNaN = true) ∧
    (∀ v ∈ [Val.inf true, .inf false], v.isNaN = false) ∧ Val.inf true ∈ [Val.inf true, .inf false] ∧ Val.inf false ∈ [Val.inf true, .inf false] ∧
    (∀ v ∈ [Val.inf true, .fin false 1 1], v.isNaN = false) ∧ Val.inf true ∈ [Val.inf true, .fin false 1 1] ∧ Val.inf false ∉ [Val.inf true, .fin false 1 1] := by
  refine ⟨by decide, by decide, by decide, by decide, by decide, ?_, by decide, by decide, by decide, by decide, by decide, by decide, by decide⟩
  intro v hv
  rcases List.mem_cons.mp hv with h | h
  · exact ⟨true, 1, 2, h, by decide⟩
  · exact ⟨false, 3, 1, by simpa using h, by decide⟩

/-- Descriptors: unsigned and signed without subnormals, IEEE-like, and fixed point of both signs. -/
def plain43 (s spec : Nat) (subn : Bool) : NfDesc := { rsv := 0, sat := 0, subn := subn, spec := spec, bias := 7, s := s, m := 3, e := 4 }
def fixed (s : Nat) : NfDesc := { rsv := 0, sat := 0, subn := false, spec := 0, bias := 3, s := s, m := 7, e := 0 }

theorem witness_RoundingAndFlushing : (∃ s y, IsNumber (fdecode .f32 1) s y ∧ 0 < y ∧ y < twoTo Fmt.f32.emin) ∧ (1 < 2 ^ Fmt.f32.width) ∧
    (¬ ∃ s y, IsNumber (fdecode .f32 0x7F800000) s y ∧ 0 < y ∧ y < twoTo Fmt.f32.emin) ∧
    (let r := roundTo .f32 .rn (.fin false 1 3); r = (0x3EAAAAAB, fNX)) ∧ (let r := roundTo .f32 .rn (.fin false (2 ^ 128) 1); r = (0x7F800000, fOF ||| fNX)) := by
  refine ⟨⟨false, _, ⟨1, 2 ^ 149, by decide, by decide, rfl⟩, by decide +kernel, by decide +kernel⟩, by decide, ?_, by decide +kernel, by decide +kernel⟩
  rintro ⟨s, y, ⟨n, d, _, h, _⟩, _⟩
  revert h
  have : fdecode .f32 0x7F800000 = .inf false := by decide
  rw [this]; intro h; cases h

theorem witness_NarrowFormats :
    (∀ q ∈ [(0, 0, false), (1, 0, false), (1, 1, true), (1, 2, true)], (plain43 q.1 q.2.1 q.2.2).valid = true) ∧
    (fixed 0).valid = true ∧ (fixed 1).valid = true ∧ (nfDecode (plain43 1 1 true) 0x38).isNaN = false ∧ (nfDecode (fixed 1) 0x80).isNaN = false ∧
    0x38 < 2 ^ (plain43 1 1 true).n ∧ mkRat 1 (2 ^ 20) < twoTo (1 - 7) ∧ twoTo (1 - 7) ≤ mkRat 1 1 ∧
    (∃ a b : Nat, 0 < b ∧ mkRat 5 1 * twoTo 3 = mkRat a b) := by
  refine ⟨by decide, by decide, by decide, by decide, by decide, by decide, by decide +kernel, by decide +kernel, 40, 1, by decide, by decide +kernel⟩

theorem witness_ExactAccumulator : 2 ^ 229 / 2 ^ 229 % 2 ^ 27 ≠ 0 ∧ (2 ^ 226).testBit 226 = true ∧ (2 ^ 227 + 2 ^ 228).testBit 227 = true ∧
    (2 ^ 227 + 2 ^ 228).testBit 228 = true ∧ (2 ^ 227).testBit 228 = false ∧ (2 ^ 228).testBit 227 = false ∧ (2 ^ 225).testBit 225 = true ∧
    (∀ k ∈ [225, 226, 227, 228], (0).testBit k = false) ∧ mkRat 8 1 = twoTo 3 ∧ (3 : Int).natAbs ≤ 5000 ∧
    (2 * 1 = (4 * (0 : Int) + 1) * 2) ∧ (2 * 3 = (4 * (0 : Int) + 3) * 2) ∧ (6 * 1 = (12 * (0 : Int) + 1) * 6) ∧ (6 * 7 = (12 * (0 : Int) + 7) * 6) := by
  decide +kernel

theorem witness_FloatArithmetic : Issuing base (waveOf base) ∧ (∀ b : BitVec 2, ∃ q ∈ fltTypes, q.1 = b) ∧ vf.c.toNat % 16 < 14 := by decide

theorem witness_FloatFunctions : Issuing base (waveOf base) ∧ (vf.sub, .f32, 1, 1) ∈ fltTypes ∧ vf.sat = false ∧ 0 < 2 ∧ 0 < 1 := by decide

theorem witness_FloatIntegersAndDots : Issuing base (waveOf base) ∧ (1#2, .f16, 2, 1) ∈ fltTypes ∧ vf.sat = false ∧
    vf.kc = false ∧ ({ vf with kc := true } : VFields).kc = true ∧ (fdecode .f32 0x7F800000).isInf = true := by decide

/-! ### Conversion and lanes -/

/-- CVT from code 12 to code 0 with its descriptor in v4, and an e4m3 descriptor there (07 R145). -/
def cvtf : VFields := { vf with c := 12 }
def e4m3 : Nat := 0x5075C

theorem witness_Conversion : Issuing base (waveOf base) ∧ (vf.c.toNat % 16, CvtType.flt .f32) ∈ cvtCodes ∧ (vf.c.toNat / 16 % 16, CvtType.flt .f32) ∈ cvtCodes ∧
    (cvtf.c.toNat % 16, CvtType.nf) ∈ cvtCodes ∧ Issuing (vreg 4 e4m3 base) (waveOf (vreg 4 e4m3 base)) ∧
    (∀ l, takes (vreg 4 e4m3 base) hdr (waveOf (vreg 4 e4m3 base)) l = true → (nfDesc (srcB hdr cvtf (waveOf (vreg 4 e4m3 base)) ((waveOf (vreg 4 e4m3 base)).lane l) 1 .plain)).valid = true) ∧
    (∃ l, takes base hdr (waveOf base) l = true ∧ (nfDesc (srcB hdr cvtf (waveOf base) ((waveOf base).lane l) 1 .plain)).valid = false) := by
  refine ⟨by decide, by decide, by decide, by decide, by decide, ?_, 0, by decide, by decide⟩
  intro l h
  have := takes_lt _ _ _ l (by decide) h
  clear h; revert this; revert l; decide

theorem witness_PackedBlocks : Issuing base (waveOf base) ∧ vf.sub = 0#2 ∧ ({ vf with sub := 1 } : VFields).sub = 1#2 ∧
    (∃ l, takes base hdr (waveOf base) l = true ∧ (nfDesc (srcB hdr vf (waveOf base) ((waveOf base).lane l) 1 .plain)).valid = false) ∧
    (let s := vreg 4 e4m3 base
     (∀ l, takes s hdr (waveOf s) l = true → (nfDesc (srcB hdr vf (waveOf s) ((waveOf s).lane l) 1 .plain)).valid = true ∧ s.badBlock 20 4 = false) ∧
     s.badBlock 21 4 = true ∧ (nfDesc e4m3).n = 8) := by
  refine ⟨by decide, rfl, rfl, ⟨0, by decide, by decide⟩, ?_, by decide, by decide⟩
  intro l h
  have := takes_lt _ _ _ l (by decide) h
  clear h; revert this; revert l; decide

theorem witness_LaneExchange : Issuing base (waveOf base) ∧ base.curTeam.width ≤ 64 ∧ ({ vf with ka := .sca } : VFields).ka ≠ .vec ∧
    (let s := onWave (fun w => { w with helper := 1#64 }) base
     gives s hdr (waveOf s) 0 = false ∧ gives s hdr (waveOf s) 1 = true) := by decide

theorem witness_LaneReductions : Issuing base (waveOf base) ∧ gives base hdr (waveOf base) 0 = true ∧ vf.c.toNat % 8 = 0 ∧ vf.sub = 0#2 ∧
    (let s := issue 0#64 base
     ∀ l, gives s hdr (waveOf s) l = false) ∧
    (let s := vreg 0 0x7FC00000 base
     ∀ l, gives s hdr (waveOf s) l = true → (fdecode .f32 (((waveOf s).lane l).vr 0)).isNaN = true) := by
  refine ⟨by decide, by decide, by decide, by decide, ?_, ?_⟩
  · intro s l
    have h : s.cur.mask = 0#64 := rfl
    simp [gives, takes, h]
  · intro s l h
    have := takes_lt s hdr (waveOf s) l (by decide) (by simp only [gives, Bool.and_eq_true] at h; exact h.1)
    clear h; revert this; revert l; decide

/-! ### Control, traps and the host's answers -/

theorem witness_ControlTransfers : Issuing base (waveOf base) ∧ Someone base hdr (waveOf base) ∧
    (∀ k l, base.cur.mask.getLsbD k = true → base.cur.mask.getLsbD l = true → (waveOf base).lane k = (waveOf base).lane l) ∧
    (let s := onWave (fun w => { w with lanes := w.lanes.modify 1 (fun l => { l with p := 1 }) }) base
     Issuing s (waveOf s) ∧ s.cur.mask.getLsbD 0 = true ∧ s.cur.mask.getLsbD 1 = true ∧ ((waveOf s).lane 0).pred 0 ≠ ((waveOf s).lane 1).pred 0) ∧
    (let s := sreg 0 0x20000 base
     ∀ l, takes s hdr (waveOf s) l = true → (waveOf s).sr 0 + 2 ^ 32 * (waveOf s).sr 1 = 0x20000) ∧ canonical 0x20000 = true ∧
    (0 + 2 ^ 32 * 0x100000) % 8 = 0 ∧ canonical (2 ^ 32 * 0x1000000) = false ∧ (waveOf base).hmode = false ∧
    (∀ l, ((waveOf base).lane l).ptrap = none) ∧ ∀ l, Loose ((waveOf base).lane l) := by
  refine ⟨by decide, ⟨0, by decide⟩, ?_, by decide, ?_, by decide, by decide, by decide, by decide, ?_, ?_⟩
  · intro k l hk hl
    have h1 := lane_lt _ k (by decide) hk
    have h2 := lane_lt _ l (by decide) hl
    exact (show ∀ k < 8, ∀ l < 8, (waveOf base).lane k = (waveOf base).lane l by decide) k h1 l h2
  · intro s l _; decide
  · exact fun l => lane_all _ (fun x => x.ptrap = none) rfl (by decide) l
  · exact fun l => lane_all _ Loose ⟨rfl, rfl, rfl, by decide⟩ (by unfold Loose; decide) l

theorem witness_ConvergenceRegisters : Issuing base (waveOf base) ∧ (waveOf base).lanes.length ≤ 64 ∧ yf.d.toNat % 8 = 4 ∧ (waveOf base).cvs.length = 8 ∧
    (waveOf base).cvs[4]? = some { members := 0#64, signed := 0#64 } ∧ Someone base hdr (waveOf base) ∧
    (∀ i < 64, (0#64).getLsbD i = (decide (i < base.curTeam.width) && ((waveOf base).sr 0 + 2 ^ 32 * (waveOf base).sr 1).testBit i)) ∧
    (let s := onWave (fun w => { w with cvs := w.cvs.set 4 { members := 1#64, signed := 0#64 } }) base
     ∃ e, (waveOf s).cvs[4]? = some e ∧ e.members.getLsbD 0 = true ∧ e.signed.getLsbD 0 = false ∧ ((waveOf s).lane 0).live = true) :=
  ⟨by decide, by decide, by decide, by decide, by decide, ⟨0, by decide⟩, by decide, _, rfl, by decide, by decide, by decide⟩

/-- The launch has a handler at 0x40000. -/
def withHandler (s : State) : State := onLaunch (fun l => { l with block := l.block.set 5 0x40000 }) s
/-- Lane 2 has a trap to deliver. -/
def trapWaits (s : State) : State :=
  onWave (fun w => { w with lanes := w.lanes.modify 2 (fun l => { l with ptrap := some (cause 14 5 0 0) }) }) s
def later : Out := outOf base true .regs [] []

theorem witness_TrapsAndHandlers :
    (let s := withHandler base
     Issuing s (waveOf s) ∧ Someone s hdr (waveOf s) ∧ s.team? s.cur.team = some (teamOf s) ∧ (s.block (teamOf s).launch)[5]? = some 0x40000#64 ∧
     (waveOf s).hmode = false ∧ (waveOf s).lanes.length ≤ 64 ∧ (∀ l, ((waveOf s).lane l).ptrap = none) ∧
     (∀ l, (3#64).getLsbD l = true → s.cur.mask.getLsbD l = true ∧ l < (waveOf s).lanes.length ∧ ((waveOf s).lane l).live = true ∧
       ((waveOf s).lane l).outside = false ∧ ((waveOf s).lane l).pc = s.cur.pc ∧ ((waveOf s).lane l).prio = ((waveOf s).lane 0).prio) ∧
     (waveOf s).outs = [] ∧ (∃ o ∈ (waveOf (owing later s)).outs, o.vlr = true)) ∧
    (let s := trapWaits (withHandler base)
     s.wave? wref = some (waveOf s) ∧ (waveOf s).park = .none ∧ (waveOf s).prog = none ∧ NextTrap (waveOf s) 2 ∧
     ((waveOf s).lane 2).ptrap = some (cause 14 5 0 0)) ∧
    (let s := handling (withHandler base)
     Issuing s (waveOf s) ∧ s.team? s.cur.team = some (teamOf s) ∧ (waveOf s).hmode = true ∧ (waveOf s).tpc.toNat % 8 = 0 ∧
     canonical (waveOf s).tpc.toNat = true ∧ (waveOf (onWave (fun w => { w with tpc := 4 }) s)).tpc.toNat % 8 ≠ 0) := by
  refine ⟨⟨by decide, ⟨0, by decide⟩, by decide, by decide, by decide, by decide, ?_, ?_, by decide, ?_⟩, ⟨by decide, by decide, by decide, ?_, by decide⟩, by decide⟩
  · exact fun l => lane_all _ (fun x => x.ptrap = none) rfl (by decide) l
  · intro l h
    have : l < 8 := by
      rcases Nat.lt_or_ge l 8 with h8 | h8
      · exact h8
      · rw [BitVec.getLsbD, show (3#64).toNat = 2 ^ 2 - 1 from rfl, Nat.testBit_two_pow_sub_one] at h
        simp at h; omega
    revert h; revert this; revert l; decide
  · exact ⟨later, by decide, by decide⟩
  · constructor
    · decide
    · intro j hj
      have hl : j < 8 := by
        simp only [pending, Bool.and_eq_true, decide_eq_true_eq] at hj
        exact hj.1.1
      revert hj; revert hl; revert j; decide

theorem witness_SystemRegisters : Issuing base (waveOf base) ∧ Someone base hdr (waveOf base) ∧ base.team? base.cur.team = some (teamOf base) ∧
    base.launch? (teamOf base).launch = some (launchOf base) ∧ (∀ n < 23, ∃ q, (sysValues base (teamOf base) (launchOf base) (waveOf base))[n]? = some q) ∧
    ({ yf with imm := 0x12 } : YFields).imm.toNat = 0x12 ∧ yf.imm.toNat ≠ 0x12 ∧ (waveOf (handling base)).hmode = true :=
  ⟨by decide, ⟨0, by decide⟩, by decide, by decide, by
    intro n hn
    have : n < (sysValues base (teamOf base) (launchOf base) (waveOf base)).length := hn
    exact ⟨_, List.getElem?_eq_getElem this⟩, by decide, by decide, by decide⟩

/-- A system call, and a fault record, outstanding with the host. -/
def called : SysCall := { token := 7, mask := 1, pc := 0x10000, service := 3 }
def faulted : Token := { token := 9, outcome := 0, reason := 1, level := 0, kind := 0, va := 0x20000 }
def calling : State := onWave (fun w => { w with calls := [called] }) base
def faulting : State := onWave (fun w => { w with toks := [faulted], park := .faults 1#64 0x10000#64 }) base

set_option maxRecDepth 4096 in
theorem witness_SystemCallsAndFaultReplies :
    (Issuing base (waveOf base) ∧ (waveOf base).outs = [] ∧ base.rings[2]? = some HostRing.reset ∧ (tokensInUse base).length < 65534) ∧
    (calling.wave? wref = some (waveOf calling) ∧ called ∈ (waveOf calling).calls ∧
      (∃ tm ∈ calling.teams, tm.uid = wref.team ∧ waveOf calling ∈ tm.waves ∧ (waveOf calling).id = wref.wave) ∧
      ∀ tm ∈ calling.teams, ∀ x ∈ tm.waves, ∀ d ∈ x.calls, d.token = 7 → tm.uid = wref.team ∧ x.id = wref.wave ∧ d = called) ∧
    (faulting.team? wref.team = some (teamOf faulting) ∧ faulting.wave? wref = some (waveOf faulting) ∧ waveOf faulting ∈ (teamOf faulting).waves ∧
      (waveOf faulting).id = wref.wave ∧ (waveOf faulting).ended = false ∧ (waveOf faulting).toks = [faulted] ∧ faulted.outcome = 0 ∧
      (waveOf faulting).park = .faults 1#64 0x10000#64 ∧
      (∀ tm ∈ faulting.teams, ∀ x ∈ tm.waves, (∃ d ∈ x.toks, d.token = faulted.token) → tm.uid = wref.team ∧ x.id = wref.wave) ∧
      faulting.images = [] ∧ (∀ c ∈ faulting.cores, ∀ d ∈ c.cmds, ∀ x ∈ d.toks, x.token ≠ faulted.token) ∧ faulting.replays = []) := by
  refine ⟨by decide, ⟨by decide, by decide, by decide, by decide⟩, by decide, by decide, by decide, by decide, by decide, by decide, by decide, by decide, by decide, by decide, ?_, by decide⟩
  exact cores_of _ _ rfl (by decide) (by decide)

/-! ### Memory instructions -/

/-- s0:s1 hold the page's address. -/
def aimed : State := sreg 0 0x10000 base
def here (a : Nat) (t : MType) (p : BitVec 3) : Xlat := { pa := a, mtype := t, perms := p }

theorem aimed_cores (v : Nat) : (sreg 0 v base).cores = (sreg 0 v base).core 0 :: List.replicate 255 Core.reset := rfl

theorem witness_LoadsAndStores : Issuing aimed (waveOf aimed) ∧ WalkRoom aimed (waveOf aimed) ∧ aimed.team? aimed.cur.team = some (teamOf aimed) ∧
    (∀ q ∈ loadStoreForms hdr mf aimed (waveOf aimed), q.lanes ≠ [] ∧ q.Clear aimed (waveOf aimed) (teamOf aimed) (fun _ => here 0x10000 .cached 7) ∧
      aimed.mshrFree (q.lanes.map (fun l => q.acc l (here 0x10000 .cached 7))) = true) ∧
    (∀ q ∈ loadStoreForms hdr mf (issue 0#64 aimed) (waveOf aimed), q.lanes = []) ∧
    (∀ q ∈ loadStoreForms hdr mf (sreg 0 0x10002 base) (waveOf (sreg 0 0x10002 base)), 0 ∈ q.lanes ∧ ¬ q.aligned 0) ∧
    (∀ q ∈ loadStoreForms hdr mf (sreg 1 0x1000000 base) (waveOf (sreg 1 0x1000000 base)), 0 ∈ q.lanes ∧ q.aligned 0 ∧ ¬ q.canon 0) ∧
    (∀ q ∈ loadStoreForms hdr mf (page .cached 0 aimed) (waveOf aimed), 0 ∈ q.lanes ∧ q.known (page .cached 0 aimed) (waveOf aimed) (fun _ => here 0x10000 .cached 0) 0 ∧
      q.reason (here 0x10000 .cached 0) ≠ none) := by
  refine ⟨by decide, room_here _ _ (by decide), by decide, ?_, by decide, ?_, ?_, ?_⟩
  · intro q hq
    refine ⟨(show ∀ q ∈ loadStoreForms hdr mf aimed (waveOf aimed), q.lanes ≠ [] by decide) q hq, ?_,
      (show ∀ q ∈ loadStoreForms hdr mf aimed (waveOf aimed), aimed.mshrFree (q.lanes.map (fun l => q.acc l (here 0x10000 .cached 7))) = true by decide) q hq⟩
    intro l hl
    have h : ∀ q ∈ loadStoreForms hdr mf aimed (waveOf aimed), ∀ l ∈ q.lanes, q.aligned l ∧ q.canon l ∧
        q.known aimed (waveOf aimed) (fun _ => here 0x10000 .cached 7) l ∧ q.reason (here 0x10000 .cached 7) = none := by
      unfold GlobalForm.aligned GlobalForm.canon GlobalForm.known; decide
    obtain ⟨a, b, c, d⟩ := h q hq l hl
    exact ⟨a, b, c, d, unlocked_here _ rfl rfl _ _ _ _ _, fun _ => sound_of _ _ _ _ rfl (by decide)⟩
  · unfold GlobalForm.aligned; decide
  · unfold GlobalForm.aligned GlobalForm.canon; decide
  · unfold GlobalForm.known; decide

/-- The form of ATOM.ADD in the statement on atomics. -/
def atomForm (s : State) (w : Wave) : GlobalForm :=
  { i := .atom hdr mf, lanes := lanesThat (takes s hdr w), ea := fun l => globalEa hdr mf w (w.lane l), n := 4, align := 2, rd := true, wr := true, types := fun _ => true,
    room := false, acc := fun l x => accAt mf (.atomic .add) 0 4 ((w.lane l).vblock 20 1) l (globalEa hdr mf w (w.lane l)) x, out := outOf s true (.load 20 false false) [] }

theorem atom_clear (t : MType) (s : State) (hs : s = page t 7 aimed) : (atomForm s (waveOf s)).Clear s (waveOf s) (teamOf s) (fun _ => here 0x10000 t 7) := by
  subst hs
  intro l hl
  have h : ∀ t ∈ [MType.cached, .homeonly, .host, .io], ∀ l ∈ (atomForm (page t 7 aimed) (waveOf (page t 7 aimed))).lanes,
      (atomForm (page t 7 aimed) (waveOf (page t 7 aimed))).aligned l ∧ (atomForm (page t 7 aimed) (waveOf (page t 7 aimed))).canon l ∧
      (atomForm (page t 7 aimed) (waveOf (page t 7 aimed))).known (page t 7 aimed) (waveOf (page t 7 aimed)) (fun _ => here 0x10000 t 7) l ∧
      (atomForm (page t 7 aimed) (waveOf (page t 7 aimed))).reason (here 0x10000 t 7) = none := by
    unfold GlobalForm.aligned GlobalForm.canon GlobalForm.known; decide
  obtain ⟨a, b, c, d⟩ := h t (by cases t <;> decide) l hl
  exact ⟨a, b, c, d, unlocked_here _ rfl rfl _ _ _ _ _, fun _ => sound_of _ _ _ _ rfl (by cases t <;> decide)⟩

theorem witness_GlobalAtomics : (∀ t ∈ [MType.cached, .host, .io], Issuing (page t 7 aimed) (waveOf (page t 7 aimed)) ∧
      (atomForm (page t 7 aimed) (waveOf (page t 7 aimed))).lanes ≠ [] ∧ (page t 7 aimed).team? (page t 7 aimed).cur.team = some (teamOf (page t 7 aimed))) ∧
    (∀ t, (atomForm (page t 7 aimed) (waveOf (page t 7 aimed))).Clear (page t 7 aimed) (waveOf (page t 7 aimed)) (teamOf (page t 7 aimed)) (fun _ => here 0x10000 t 7)) ∧
    (mf.sub, AOp.add) ∈ [(0#3, AOp.add), (1#3, .minS)] ∧ mf.sub = 0#3 ∧ WalkRoom (page .cached 7 aimed) (waveOf (page .cached 7 aimed)) :=
  ⟨by decide, fun t => atom_clear t _ rfl, by decide, rfl, room_here _ _ (by decide)⟩

/-- LDCVT with its descriptor in s8, and the descriptor there. -/
def ncf : MFields := { mf with off := 8 }
def narrow (d : Nat) : State := sreg 8 d aimed

theorem witness_NarrowLoads : Issuing (narrow e4m3) (waveOf (narrow e4m3)) ∧ Someone (narrow e4m3) hdr (waveOf (narrow e4m3)) ∧
    (narrow e4m3).team? (narrow e4m3).cur.team = some (teamOf (narrow e4m3)) ∧ (waveOf (narrow e4m3)).sr (ncf.off.toNat % 256) = e4m3 ∧
    (nfDesc e4m3).valid = true ∧ 8 * 2 ^ ncf.size.toNat / (nfDesc e4m3).n ≤ 16 ∧ (narrow e4m3).badBlock ncf.d.toNat 4 = false ∧
    (narrow e4m3).badBlock 21 4 = true ∧ (nfDesc ((waveOf (narrow 0)).sr 8)).valid = false ∧
    (∀ l ∈ lanesThat (takes (narrow e4m3) hdr (waveOf (narrow e4m3))), (narrow e4m3).look (waveOf (narrow e4m3)).xl 0 (narrow e4m3).curAsn
      (globalEa hdr { ncf with off := 0 } (waveOf (narrow e4m3)) ((waveOf (narrow e4m3)).lane l)).toNat = .hit (here 0x10000 .cached 7)) :=
  ⟨by decide, ⟨0, by decide⟩, by decide, by decide, by decide, by decide, by decide, by decide, by decide, by decide⟩

/-- The team owns 4 KiB of scratch. -/
def scratchy (s : State) : State := onTeam (fun t => { t with scratchBytes := 4096 }) s
def local0 : State := scratchy base

theorem witness_LocalAccesses : Issuing local0 (waveOf local0) ∧ local0.team? local0.cur.team = some (teamOf local0) ∧
    (∀ l ∈ lanesThat (takes local0 hdr (waveOf local0)), (4 : Int) ∣ localEa hdr mf (waveOf local0) ((waveOf local0).lane l) ∧
      InScratch (teamOf local0) (waveOf local0) (localEa hdr mf (waveOf local0) ((waveOf local0).lane l)) 4 (0, 0) ∧
      Unlocked local0 (teamOf local0) (.scratch 0) 0 4 true) ∧
    lanesThat (takes local0 hdr (waveOf local0)) ≠ [] ∧ local0.poisonRegs = [] ∧
    ¬ (4 : Int) ∣ localEa hdr mf (waveOf (sreg 0 2 local0)) ((waveOf (sreg 0 2 local0)).lane 0) ∧
    (∀ p, ¬ InScratch (teamOf base) (waveOf base) (localEa hdr mf (waveOf base) ((waveOf base).lane 0)) 4 p) := by
  refine ⟨by decide, by decide, ?_, by decide, by decide, by decide, ?_⟩
  · intro l hl
    have h : ∀ l ∈ lanesThat (takes local0 hdr (waveOf local0)), (4 : Int) ∣ localEa hdr mf (waveOf local0) ((waveOf local0).lane l) ∧
      InScratch (teamOf local0) (waveOf local0) (localEa hdr mf (waveOf local0) ((waveOf local0).lane l)) 4 (0, 0) := by unfold InScratch; decide
    exact ⟨(h l hl).1, (h l hl).2, unlocked_here _ rfl rfl _ _ _ _ _⟩
  · intro p hp
    have h1 := hp.2.2.1
    have : (teamOf base).scratchBytes = 0 := by decide
    rw [this] at h1
    have h2 : (0 : Int) ≤ p.2 := Int.natCast_nonneg _
    revert h1 h2; simp; omega

/-! ### Accesses and results -/

/-- One access of lane 0 on a page, outstanding. -/
def access (k : AKind) (t : MType) (side : Option Nat) : Acc :=
  { lane := 0, kind := k, side := side, va := 0x10000, pa := 0x10000, len := 4, mtype := t, scope := 0, ord := 0, ch := 0, data := 5, state := .todo, result := 0 }
def accessing (k : AKind) (t : MType) (side : Option Nat) : State := owing (outOf base true (.load 20 false false) [] [access k t side]) base

theorem untraced_base (a n : Nat) (h : 4096 ≤ a) (s : State) (ht : s.regs.trbase = 0) (hm : ∀ i < 15, (cellGet s.mem (256 * i)).getLsbD 0 = false) : Untraced s a n := by
  intro i hi
  simp only [ht]
  refine ⟨by simpa using hm i hi, Or.inl ?_⟩
  simp; omega

set_option maxRecDepth 8192 in
theorem witness_AccessesPerformed :
    (∀ k ∈ [AKind.load, .store, .atomic .add], ∀ q ∈ [(MType.homeonly, none), (.host, none), (.cached, none), (.homeonly, some 0)],
      let s := accessing k q.1 q.2
      s.team? wref.team = some (teamOf s) ∧ s.wave? wref = some (waveOf s) ∧
      (waveOf s).outs[0]? = some (outOf base true (.load 20 false false) [] [access k q.1 q.2]) ∧ s.accReady wref 0 0 = true ∧
      (access k q.1 q.2).ord = 0 ∧ ((waveOf s).lane 0).relScopes = [] ∧ (teamOf s).sides[0]? = some Side.reset ∧
      s.promo = [] ∧ s.rings.length = 3 ∧ (s.core 0).notices = [] ∧ (s.core 0).draining = [] ∧ (s.core 0).cache = []) ∧
    (let s := accessing .load .cached none
     Untraced s 0x10000 4 ∧ Sound s 0 0x10000 4 ∧ s.poisonRegs = [] ∧ 0 < s.cores.length ∧ (teamOf s).pair = false ∧ (s.core 0).hasCache = true ∧ 0x10000 % 256 + 4 ≤ 256 ∧ 0 < (s.core 0).capacity) ∧
    (let s := onCore (fun c => { c with notices := [(256, 3)] }) base
     0 < s.cores.length ∧ (s.core 0).notices[0]? = some (256, 3) ∧ (∀ e ∈ s.promo, e.1 = 256 → e.2.1 = 0) ∧ s.promo.length < 2048) ∧
    (let s : State := { accessing (.atomic .add) .host none with hostAtomics := [{ wave := wref, out := 1, acc := 0, split := false }] }
     s.hostAtomics[0]? = some { wave := wref, out := 1, acc := 0, split := false } ∧ s.team? wref.team = some (teamOf s) ∧ s.wave? wref = some (waveOf s) ∧
     (∃ o, (waveOf s).outs[0]? = some o ∧ o.id = base.uid ∧ o.accs[0]? = some (access (.atomic .add) .host none) ∧
       o.accs[0]?.map Acc.va = some 0x10000) ∧ ((waveOf s).lane 0).live = true ∧ (waveOf s).prog = none ∧ (∀ c ∈ s.cores, c.engine = []) ∧
     ∀ l < 64, (1#64).getLsbD l = true ↔ ((waveOf s).lane l).live = true ∧ ∃ b ∈ [access (.atomic .add) .host none], b.lane = l) ∧
    (let s := accessing .load .cached none
     0 < 2 ∧ 2 < (access .load .cached none).len ∧ (let t := owing (outOf base true (.load 20 false false) [] [{ access .load .cached none with len := 16 }]) base
      (waveOf t).outs[0]? = some (outOf base true (.load 20 false false) [] [{ access .load .cached none with len := 16 }]) ∧ t.accReady wref 0 0 = true ∧ 8 % 4 = 0 ∧ 8 < 16) ∧
      s.accReady wref 0 0 = true) := by
  refine ⟨by decide, ⟨untraced_base _ _ (by decide) _ (by decide) (by decide), sound_of _ _ _ _ rfl (by decide), by decide, ?_, by decide, by decide, by decide, by decide⟩, ⟨?_, by decide, by decide, by decide⟩,
    ⟨by decide, by decide, by decide, ⟨_, rfl, by decide, by decide, by decide⟩, by decide, by decide, cores_of _ _ rfl (by decide) rfl, by decide⟩, by decide⟩
  all_goals (rw [cores_len _ rfl]; decide)

/-- A group of one performed access, ready to be delivered. -/
def performed (f : Fin) : Out := { outOf base true f [] [{ access .load .homeonly none with state := .done }] with flags := 1#8 }

theorem witness_ResultsDelivered : (∀ f ∈ [Fin.load 20 false true, .load 20 true false, .narrow 20 e4m3],
      let s := owing (performed f) base
      s.wave? wref = some (waveOf s) ∧ (waveOf s).outs[0]? = some (performed f) ∧ (performed f).ready = true ∧
      (∀ a ∈ (performed f).accs, a.state = .done ∧ a.rest = false ∧ a.lane < (waveOf s).lanes.length ∧ a.lane < 64 ∧ a.result < 2 ^ (8 * a.len)) ∧ ((performed f).accs.map Acc.lane).Nodup ∧
      (performed f).writes = []) ∧ e4m3 < 2 ^ 32 ∧ (nfDesc e4m3).valid = true ∧ (later.fin = .regs ∧ later.accs = []) := by decide

/-! ### Banks, rings and streams -/

def flushing (sub : Nat) : State := owing (outOf base true .none [] [{ access (.flush sub) .cached none with len := 256 }]) base

set_option maxRecDepth 4096 in
theorem witness_CacheAndBanks :
    (∀ t ∈ [MType.cached, .homeonly], let s := page t 7 aimed
     Issuing s (waveOf s) ∧ (s.die ((waveOf s).core / 32)).missq = [] ∧ takes s hdr (waveOf s) 0 = true ∧ ∀ l ∈ lanesThat (takes s hdr (waveOf s)),
      let ea := globalEa hdr mf (waveOf s) ((waveOf s).lane l)
      0 ≤ ea ∧ ea < (2 ^ 64 : Nat) ∧ canonical ea.toNat = true ∧ s.look (waveOf s).xl (waveOf s).core s.curAsn ea.toNat = .hit (here 0x10000 t 7)) ∧
    (∀ sub < 3, let s := flushing sub
     s.team? wref.team = some (teamOf s) ∧ s.wave? wref = some (waveOf s) ∧ s.accReady wref 0 0 = true ∧ (s.core 0).notices = [] ∧ (s.core 0).draining = [] ∧
     (s.core 0).cache = [] ∧ Unmetered s 0) ∧ Untraced (flushing 0) (0x10000 / 256 * 256) 256 ∧
    (let s := base
     Issuing s (waveOf s) ∧ (s.core 0).banks.length = 48 ∧ (waveOf s).hmode = false ∧ (s.curBlock.getD 2 0).getLsbD 38 = false) ∧
    (let s := handling (sreg 0 (40 + 2 * 64) (sreg 1 (3 + 2 ^ 8) base))
     Issuing s (waveOf s) ∧ (waveOf s).hmode = true ∧ s.bankBusy 0 40 2 = false ∧ (waveOf s).sr 0 % 64 = 40 ∧ (waveOf s).sr 0 / 64 % 4 = 2 ∧
     (waveOf s).sr 1 % 256 = 3 ∧ (waveOf s).sr 1 / 256 = 1) ∧
    (let s := scratchy (handling (onTeam (fun t => { t with units := [(0, 40, 1)] }) base))
     s.bankBusy 0 40 2 = true) ∧
    (let d : BankDrain := { bank := 3, wave := wref, out := 1, lines := [] }
     let s := onCore (fun c => { c with draining := [d] }) base
     (s.core 0).draining.find? (fun x => x.bank == 3) = some d ∧ s.wave? wref = some (waveOf s) ∧ (s.core 0).notices = [] ∧ (s.core 0).cache = [] ∧ Unmetered s 0) := by
  refine ⟨by decide, by unfold Unmetered; decide, untraced_base _ _ (by decide) _ (by decide) (by decide), by decide, by decide, by decide, by unfold Unmetered; decide⟩

/-- FIFOPUSH and FIFOPOP of 4 bytes a lane on bank 40, and core 0 with a ring there. -/
def ff : MFields := { mf with off := 40 }
def ring40 (slots : List (List Byte × List RelTag)) (bytes : Nat) : Ring :=
  { bank := 40, nslot := 2, slotBytes := bytes, head := 0, tail := 0, slots := slots, pushers := [], poppers := [] }
def ringed (g : Ring) : State := onCore (fun c => { c with banks := c.banks.set 40 .fifo, rings := [g] }) base

theorem witness_FifoRings :
    (∀ g ∈ [ring40 [] 32, ring40 [([], []), ([], [])] 32, ring40 [] 16], let s := ringed g
     Issuing s (waveOf s) ∧ takes s hdr (waveOf s) 0 = true ∧ s.team? s.cur.team = some (teamOf s) ∧ (waveOf s).outs = [] ∧ (teamOf s).width ≤ 64 ∧
     (s.core 0).banks[ff.off.toNat % 64]? = some .fifo ∧ (s.core 0).rings.find? (fun x => x.bank == ff.off.toNat % 64) = some g ∧ (s.core 0).rings = [g]) ∧
    (teamOf base).width * 2 ^ ff.size.toNat ≤ (ring40 [] 32).slotBytes ∧ (ring40 [] 16).slotBytes < (teamOf base).width * 2 ^ ff.size.toNat ∧
    (ring40 [] 32).slots.length < (ring40 [] 32).nslot ∧ (ring40 [([], []), ([], [])] 32).nslot ≤ (ring40 [([], []), ([], [])] 32).slots.length ∧
    (∀ me, IsTurn base (ring40 [] 32).pushers me) ∧ (base.core 0).banks[40]? ≠ some .fifo ∧ NoUpdates (ringed (ring40 [] 32)) :=
  ⟨by decide, by decide, by decide, by decide, by decide, fun _ pre x post h => by simp [ring40] at h, by decide, no_updates _ rfl (by decide)⟩

/-- A stream of one dimension of four elements over the page, and its pattern in s2 to s7. -/
def stream : Stream :=
  { bound := true, base := 0x10000, strides := [4], extents := [4], laneStride := 0, esize := 0, pred := 7, nd := 1, next := 0, fetched := 0, queue := [], stopped := false }
def patterned (b : Nat) : State := sreg 0 b (sreg 2 4 (sreg 4 4 base))
def streaming (q : Stream) : State := onWave (fun w => { w with streams := w.streams.set 0 q }) (page .homeonly 7 base)
def scf : CFields := { cf with d := 7 * 8, mode := 0 }

theorem witness_Streams : Issuing base (waveOf base) ∧ Someone base hdr (waveOf base) ∧ (waveOf base).streams.length = 8 ∧
    (let w := waveOf (patterned 0x10000)
     (w.sr 7 < 3 ∧ scf.d.extractLsb' 3 3 = 7#3 ∧ w.sr 4 % 2 ^ 16 ≠ 0 ∧ w.sr 4 / 2 ^ 16 = 0 ∧ w.sr 5 = 0 ∧ w.sr 3 = 0) ∧
     (4 : Int) ∣ (w.sr 0 : Int) ∧ (4 : Int) ∣ i32.read (w.sr 6) ∧ (4 : Int) ∣ i32.read (w.sr 2) ∧ canonical (w.sr 0) = true) ∧
    (waveOf base).sr 4 % 2 ^ 16 = 0 ∧ ¬ (4 : Int) ∣ ((waveOf (patterned 0x10001)).sr 0 : Int) ∧
    canonical ((waveOf (sreg 1 0x1000000 (patterned 0))).sr 0 + 2 ^ 32 * (waveOf (sreg 1 0x1000000 (patterned 0))).sr 1) = false ∧
    (let s := streaming stream
     Issuing s (waveOf s) ∧ (waveOf s).streams[mf.off.toNat % 8]? = some stream ∧ stream.bound = true ∧ stream.next < stream.extents.prod ∧ 2 ^ mf.size.toNat = 4 * 2 ^ stream.esize ∧
     stream.extents.length = stream.nd ∧ stream.strides.length = stream.nd ∧
     (∀ l ∈ lanesThat (takes s hdr (waveOf s)), streamAddr stream 0 l = 0x10000 ∧ s.look (waveOf s).xl 0 s.curAsn 0x10000 = .hit (here 0x10000 .homeonly 7)) ∧
     s.team? wref.team = some (teamOf s) ∧ stream.queue.length < 16 ∧ stream.fetched < stream.extents.prod ∧ (waveOf s).ended = false ∧ (waveOf s).stop = false ∧
     (∀ l < (teamOf s).width, streamAddr stream 0 l = 0x10000) ∧ (s.core 0).tlb.find? (fun e => e.covers (BitVec.ofNat 12 (s.block (teamOf s).launch).asn) 0x10000) ≠ none ∧
     (here 0x10000 .homeonly 7).perms.getLsbD 0 = true ∧ (s.core 0).hsb = 0 ∧ (s.core 0).fmb = 0 ∧ s.hostAtomics = [] ∧ (s.die 0).missq = [] ∧ stream.stopped = false) ∧
    (let q : Stream := { stream with queue := [List.replicate 8 (0, 1)] }
     (waveOf (streaming q)).streams[0]? = some q ∧ q.queue = List.replicate 8 (0, 1) :: [] ∧ ∀ l < 8, l < (List.replicate 8 (0, 1)).length) ∧
    ¬ (Stream.reset.bound = true ∧ Stream.reset.next < Stream.reset.extents.prod) ∧ 2 ^ mf.size.toNat ≠ 4 * 2 ^ { stream with esize := 1 }.esize ∧
    (here 0x10000 .homeonly 6).perms.getLsbD 0 = false := by
  exact ⟨by decide, ⟨0, by decide⟩, by decide, by decide, by decide, by decide, by decide, by decide, by decide, by decide, by decide, by decide⟩

/-! ### Fences, barriers and tags -/

theorem plain_base (s : State) (h1 : (s.core 0).cache = []) (h2 : (s.core 0).notices = []) (h3 : (s.core 0).draining = []) : PlainCache s 0 :=
  { lines := by rw [h1]; exact List.nodup_nil
    bytes := by rw [h1]; intro x hx; cases hx
    idle := ⟨h2, h3⟩
    dirty := by rw [h1]; intro x hx; cases hx
    whole := by rw [h1]; intro x hx; cases hx }

/-- The wave is parked at a WAITW of the word at 0x10000 against 5. -/
def watching (tmo : Nat) : State := onWave (fun w => { w with park := .waitw 0x10000 0x10000 4 .homeonly 12 5 tmo 0xFF#64 }) base
def wf : YFields := { yf with d := 8, sub := 0 }

theorem witness_FencesAndWatches :
    (Issuing base (waveOf base) ∧ Someone base hdr (waveOf base) ∧ base.team? base.cur.team = some (teamOf base) ∧ (waveOf base).outs = [] ∧
      0 < base.cores.length ∧ NoUpdates base ∧ PlainCache base 0 ∧ Unmetered base 0 ∧
      ∀ o ∈ (waveOf (accessing .store .homeonly none)).outs, ∀ a ∈ o.accs, a.kind.reads = false) ∧
    (let s := page .homeonly 7 aimed
     Issuing s (waveOf s) ∧ ((waveOf s).sr 0 + 2 ^ 32 * (waveOf s).sr 1) % 4 = 0 ∧ canonical 0x10000 = true ∧
      s.look (waveOf s).xl 0 s.curAsn 0x10000 = .hit (here 0x10000 .homeonly 7) ∧ Sound s 0 0x10000 4 ∧ WalkRoom s (waveOf s) ∧ ReadsAtOnce s s.curRef (waveOf s) ∧ littleEndian (cellGet s.mem) 0x10000 4 = (waveOf s).sr 8 ∧
      littleEndian (cellGet s.mem) 0x10000 4 ≠ (waveOf (sreg 8 9 s)).sr 8) ∧
    ((waveOf (sreg 0 0x10001 base)).sr 0 + 2 ^ 32 * (waveOf (sreg 0 0x10001 base)).sr 1) % 4 ≠ 0 ∧
    (∀ tmo ∈ [0, 1], let s := watching tmo
     s.wave? wref = some (waveOf s) ∧ (waveOf s).park = .waitw 0x10000 0x10000 4 .homeonly 12 5 tmo 0xFF#64 ∧ s.hostAtomics = [] ∧ (waveOf s).stop = false ∧
      littleEndian (cellGet s.mem) 0x10000 4 ≠ 5 ∧ littleEndian (cellGet (holding 0x10000 4 5 s).mem) 0x10000 4 = 5) := by
  refine ⟨⟨by decide, ⟨0, by decide⟩, by decide, by decide, by rw [cores_len _ rfl]; decide, no_updates _ rfl (by decide), plain_base _ (by decide) (by decide) (by decide), by unfold Unmetered; decide, by decide⟩,
    ⟨by decide, by decide, by decide, by decide, sound_of _ _ _ _ rfl (by decide), room_here _ _ (by decide), reads_here _ _ _ rfl (by decide) (by decide) rfl, by decide, by decide⟩, by decide, by decide⟩

/-- Tag 3 has failed, or is ready. -/
def tagged (g : Tag) : State := onTeam (fun t => { t with tags := t.tags.set 3 g }) (sreg 0 8 base)
def failedTag : Tag := { Tag.reset with armed := true, failed := true, reason := 7 }
def readyTag : Tag := { Tag.reset with armed := true, ready := true }

theorem witness_BarriersAndTags :
    (Issuing base (waveOf base) ∧ Someone base hdr (waveOf base) ∧ base.team? base.cur.team = some (teamOf base) ∧ (teamOf base).pair = false ∧ (waveOf base).outs = [] ∧
      (∀ v ∈ (teamOf base).waves, v.lanes.length ≤ 64) ∧ (teamOf base).barriers.length = 16 ∧ (teamOf base).barriers[yf.imm.toNat % 16]? = some Barrier.reset ∧
      (∀ y ∈ (teamOf base).barriers, y.count = 0) ∧ NoUpdates base) ∧
    (∀ g ∈ [failedTag, readyTag, Tag.reset], let s := tagged g
     Issuing s (waveOf s) ∧ (takes s hdr (waveOf s) 0 = true ∧ (waveOf s).helper.getLsbD 0 = false) ∧ s.team? s.cur.team = some (teamOf s) ∧ (teamOf s).tags.length = 64 ∧
      (waveOf s).sr 0 + 2 ^ 32 * (waveOf s).sr 1 = 8 ∧ (teamOf s).tags.getD 3 Tag.reset = g ∧ (8 : Nat).testBit 3 = true ∧ (∀ k < 3, (8 : Nat).testBit k = false) ∧
      hdr.x = none ∧ (waveOf s).stop = false ∧ ∀ l < 8, ((waveOf s).lane l).pc = s.cur.pc) ∧
    failedTag.failed = true ∧ readyTag.failed = false ∧ readyTag.ready = true ∧ Tag.reset.ready = false := by
  refine ⟨⟨by decide, ⟨0, by decide⟩, by decide, by decide, by decide, by decide, by decide, by decide, by decide, no_updates _ rfl (by decide)⟩, by decide, by decide, by decide, by decide, by decide⟩

/-! ### The matrix engine -/

/-- An I8 panel of 64 × 8 elements at the start of the operand buffer, in slot 0: valid, ITYPE 2, KEXT 8 (10 R203). -/
def panel0 : BitVec 128 := BitVec.ofNat 128 (2 ^ 63 + 2 * 2 ^ 9 + 8)
def roomy (s : State) : State := onTeam (fun t => { t with obufBytes := 4096, tiles := 16 }) s
def slotted : State := roomy (onTeam (fun t => { t with sides := [{ Side.reset with slots := Side.reset.slots.set 0 panel0, types := Side.reset.types.set 0 1 }] }) base)
def sideOf0 (s : State) : Side := ((teamOf s).sides[0]?).getD Side.reset

theorem witness_MatrixTiles :
    (∀ s ∈ [roomy base, slotted], Issuing s (waveOf s) ∧ (takes s hdr (waveOf s) 0 = true ∧ (waveOf s).helper.getLsbD 0 = false) ∧ s.team? s.cur.team = some (teamOf s) ∧
      (teamOf s).sides[0]? = some (sideOf0 s) ∧ (sideOf0 s).slots.length = 16 ∧ (teamOf s).tiles ≤ 16 ∧ (sideOf0 s).types.length = 16 ∧ s.poisonRegs = []) ∧
    ownSide (teamOf base) (waveOf base) = 0 ∧ (sideOf0 slotted).panel? 0 ≠ none ∧ (sideOf0 base).panel? 0 = none ∧ EngineRoom base (waveOf base) ∧
    (roomy base).poisonRegs = [] ∧ (teamOf base).tiles ≤ 0 ∧ ¬ (teamOf (roomy base)).tiles ≤ 0 ∧ (sideOf0 (roomy base)).types[0]? = some 0 ∧
    Lowest (FreeAt (sideOf0 (roomy base)) 4096 512) 0 ∧ (∀ b, ¬ FreeAt (sideOf0 base) 0 512 b) ∧
    (let o : EngineOp := opOf base (waveOf base) (.accz hdr yf) 0xFF#64 1 [(0, 1)] []
     let s := onCore (fun c => { c with engine := [o] }) (roomy base)
     (s.core 0).engine = o :: [] ∧ s.team? o.team = some (teamOf s) ∧ s.wave? { team := o.team, wave := o.wave } = some (waveOf s) ∧ (waveOf s).core = 0) := by
  refine ⟨by decide, by decide, by decide, by decide, ⟨by rw [cores_len _ rfl]; decide, by decide⟩, by decide, by decide, by decide, by decide, ?_, ?_, by decide⟩
  · refine lowest_zero _ ⟨by decide, fun k q hk hq => ?_⟩
    have : ∀ k < 16, (sideOf0 (roomy base)).panel? k = none := by decide
    rw [this k hk] at hq; cases hq
  · rintro b ⟨h, _⟩; omega

theorem witness_MatrixProducts :
    (let s := slotted
     Issuing s (waveOf s) ∧ takes s hdr (waveOf s) 0 = true ∧ s.team? s.cur.team = some (teamOf s) ∧ (teamOf s).sides[0]? = some (sideOf0 s) ∧ s.poisonRegs = [] ∧
      EngineRoom s (waveOf s) ∧ (waveOf s).lanes.length ≤ 64 ∧ (waveOf s).cvs.length = 8 ∧ ({ vf with c := 8 } : VFields).c.toNat % 16 ≤ 8) ∧
    (∃ p, (sideOf0 slotted).panel? 0 = some p ∧ p.itype = 2 ∧ p.kext = 8 ∧ p.blk = 0 ∧ p.tr = false ∧ denseInt p ∧ PanelFormed p) ∧
    (let o : EngineOp := opOf slotted (waveOf slotted) (.mma hdr { vf with c := 8 }) 0xFF#64 1 [(0, 0), (1, 0)] [0]
     let s := onCore (fun c => { c with engine := [o] }) slotted
     (s.core 0).engine = o :: [] ∧ s.team? o.team = some (teamOf s) ∧ s.wave? { team := o.team, wave := o.wave } = some (waveOf s) ∧ (waveOf s).core = 0 ∧
      (o.rows.map (·.1)).Nodup ∧ (∀ q ∈ o.rows, q.1 < 64) ∧ o.rows ≠ [] ∧ s.poisonRegs = [] ∧ o.panels = [0]) ∧
    (∀ b < 512, 0 / 256 ^ b % 256 = (match ([] : List (Nat × Nat)).find? (fun x => x.1 == b / 4) with
        | some x => [0].getD x.2 0
        | none => 0) / 256 ^ b % 256) := by
  refine ⟨⟨by decide, by decide, by decide, by decide, by decide, ⟨by rw [cores_len _ rfl]; decide, by decide⟩, by decide, by decide, by decide⟩, ⟨_, rfl, by unfold PanelFormed; decide⟩, ⟨by decide, by decide, by decide, by decide, by decide, by decide, by decide, by decide, by decide⟩, fun _ _ => rfl⟩

/-- A DRAIN.RAW of tile 0 in progress at row 3, its window in s0 to s3 and its address in s16:s17. -/
def draining (sub : BitVec 2) (b : BitVec 9) : State :=
  let i : Instr := .drain hdr { xf with sub := sub, b := b }
  onCore (fun c => { c with engine := [opOf base (waveOf base) i 0xFF#64 7 [] []] }) (onWave (fun w => { w with
    prog := some { instr := i, mask := 0xFF#64, pc := 0x10000#64, begun := true, issued := true, lanes := [], flags := 0#8, data := [7, 3, 0] } }) (sreg 16 0x10000 (roomy base)))

set_option maxRecDepth 4096 in
theorem witness_DrainedTiles :
    (let s := sreg 16 0x10000 (roomy base)
     Issuing s (waveOf s) ∧ (takes s hdr (waveOf s) 0 = true ∧ (waveOf s).helper.getLsbD 0 = false) ∧ s.team? s.cur.team = some (teamOf s) ∧
      (teamOf s).sides[0]? = some (sideOf0 s) ∧ s.poisonRegs = [] ∧ (waveOf s).prog = none ∧ (waveOf s).sr 0 = 0 ∧ (waveOf s).sr 1 = 0 ∧ (waveOf s).sr 2 = 0 ∧ (waveOf s).sr 3 = 0 ∧
      0 < (teamOf s).tiles ∧ (sideOf0 s).types.getD 0 0 = 0 ∧ (waveOf s).sr 16 % 4 = 0) ∧
    (waveOf (sreg 0 (2 ^ 16) base)).sr 0 = 2 ^ 16 ∧ (waveOf (sreg 2 1 base)).sr 2 ≠ 0 ∧ (teamOf base).tiles ≤ 0 ∧ (waveOf (sreg 16 2 base)).sr 16 % 4 ≠ 0 ∧
    (∀ sub ∈ [0#2, 1#2], let s := draining sub 0
     Issuing s (waveOf s) ∧ StartsFresh s (waveOf s) ∧ s.poisonRegs = [] ∧ (∃ p, (waveOf s).prog = some p ∧ p.begun = true ∧ p.data = [7, 3, 0] ∧ p.flags = 0#8) ∧
      (∃ o, (s.core 0).engine.head? = some o ∧ o.out = 7 ∧ o.storing = true) ∧ (waveOf s).stop = false ∧ (s.core 0).cache = [] ∧ (s.core 0).draining = [] ∧ (s.core 0).notices = []) ∧
    (let s := draining 0 16
     (16#9).getLsbD 4 = true ∧ (∀ q, ¬ InScratch (teamOf s) (waveOf s) ((waveOf s).sr 16 : Int) 256 q) ∧ InScratch (teamOf (scratchy s)) (waveOf (sreg 16 0 s)) 0 256 (0, 0)) ∧
    (let s := page .cached 5 (draining 0 0)
     (∃ x, s.look (waveOf s).xl 0 s.curAsn 0x10000 = .hit x ∧ x.perms.getLsbD 1 = false) ∧
     (∃ a b, (onWave (fun w => { w with xl := [{ asn := 0, page := 16, fault := some (1, 2), pa := 0, mtype := .cached, perms := 0, log2 := 12 }] }) s).look
       [{ asn := 0, page := 16, fault := some (1, 2), pa := 0, mtype := .cached, perms := 0, log2 := 12 }] 0 s.curAsn 0x10000 = .fault a b) ∧
     canonical (2 ^ 60) = false) ∧
    (let u : AddOn := { drain := 1, team := 1, launch := 1, side := none, pa := 0x10000, isInt := true, exact := false, val := 5, wave := 0, rel := [] }
     let v : AddOn := { u with drain := 2, applied := true }
     let s2 := onCore (fun c => { c with addons := [u, v] }) base
     let s := onCore (fun c => { c with addons := [u] }) (onTeam (fun t => { t with sides := [Side.reset, Side.reset] }) base)
     (s.core 0).addons[0]? = some u ∧ s.addReady 0 u = true ∧ s.poison = [] ∧ s.poisonRegs = [] ∧
      ((s2.core 0).addons[0]? = some u ∧ v ∈ (s2.core 0).addons ∧ v.drain ≠ u.drain ∧ v.side = u.side ∧ u.pa < v.pa + 4 ∧ v.pa < u.pa + 4) ∧ s.team? u.team = some (teamOf s) ∧ (teamOf s).sides.length = 2 ∧ s.promo = [] ∧
      (teamOf s).sides[1]? = some Side.reset) ∧ Untraced base 0x10000 4 := by
  refine ⟨by decide, by decide, by decide, by decide, by decide, ?_, ?_, ?_, ?_, untraced_base _ _ (by decide) _ (by decide) (by decide)⟩
  · intro sub h
    rcases List.mem_cons.mp h with rfl | h
    · exact ⟨by decide, fresh_here _ _ rfl rfl, rfl, ⟨_, rfl, by decide⟩, ⟨_, rfl, by decide⟩, by decide⟩
    · rcases List.mem_cons.mp h with rfl | h
      · exact ⟨by decide, fresh_here _ _ rfl rfl, rfl, ⟨_, rfl, by decide⟩, ⟨_, rfl, by decide⟩, by decide⟩
      · cases h
  · refine ⟨by decide, ?_, by unfold InScratch; decide⟩
    rintro q ⟨_, _, h, _⟩
    have : (teamOf (draining 0 16)).scratchBytes = 0 := by decide
    rw [this] at h
    have h2 : (0 : Int) ≤ q.2 := Int.natCast_nonneg _
    revert h h2; simp; omega
  · exact ⟨⟨_, rfl, by decide⟩, ⟨1, 2, by decide⟩, by decide⟩
  · decide

/-! ### Copies -/

theorem copy_room (s : State) (h : s.cores = s.core 0 :: List.replicate 255 Core.reset) (h0 : (s.core 0).holly = Core.reset.holly) (h1 : (s.core 0).cmds = [])
    (hw : (waveOf s).core = 0) : CopyRoom s (waveOf s) := by
  have n : Core.reset.holly.filter (fun e => e.isNone) = List.replicate 256 none :=
    List.filter_eq_self.mpr (fun x hx => by rw [List.eq_of_mem_replicate (show x ∈ List.replicate 256 none from hx)]; rfl)
  have r : 20 ≤ (Core.reset.holly.filter (fun e => e.isNone)).length := by rw [n, List.length_replicate]; decide
  refine ⟨by rw [hw, cores_len s h]; decide, by rw [hw, h1]; decide, cores_of s _ h ?_ ?_⟩
  · rw [h0]; exact r
  · exact r

/-- Sixteen bytes from the page at s0:s1 to scratch at s2:s3; a second team, at core 1, in the same launch. -/
def copying : State := sreg 4 16 (sreg 0 0x10000 (scratchy base))
def twoTeams : State :=
  let s := scratchy base
  let s : State := { s with teams := s.teams ++ [{ teamOf s with uid := 2, rank := 1, core := 1, waves := (teamOf s).waves.map (fun w => { w with core := 1 }) }] }
  onLaunch (fun l => { l with block := l.block.set 1 0x0000000100010002 }) s

theorem witness_CopyCommands :
    (Issuing copying (waveOf copying) ∧ Acting copying hdr (waveOf copying) ∧ copying.team? copying.cur.team = some (teamOf copying) ∧ (waveOf copying).outs = [] ∧ NoUpdates copying ∧ WalkRoom copying (waveOf copying) ∧
      CopyRoom copying (waveOf copying) ∧ (teamOf copying).core + 1 < copying.cores.length ∧ (waveOf copying).sr 4 = 16 ∧ (waveOf copying).sr 5 = 0 ∧
      RangeIn (teamOf copying) (waveOf copying) 0 0x10000 0 15 .glob 0x10000 ∧ RangeIn (teamOf copying) (waveOf copying) 1 0 0 15 (.scratch 0) 0) ∧
    (waveOf (sreg 5 1 copying)).sr 5 ≠ 0 ∧ 2 ^ 32 ≤ (waveOf (sreg 1 1 copying)).sr 0 + 2 ^ 32 * (waveOf (sreg 1 1 copying)).sr 1 ∧
    (let s := twoTeams
     Issuing s (waveOf s) ∧ (takes s hdr (waveOf s) 0 = true ∧ (waveOf s).helper.getLsbD 0 = false) ∧ s.team? s.cur.team = some (teamOf s) ∧ (waveOf s).outs = [] ∧
      s.launches.find? (fun x => x.id == (teamOf s).launch) = some (launchOf s) ∧ ((launchOf s).block.getD 2 0).toNat / 2 ^ 30 % 4 = 0 ∧
      ((launchOf s).block.getD 1 0).toNat % 2 ^ 16 = 2 ∧ ((launchOf s).block.getD 1 0).toNat / 2 ^ 32 % 2 ^ 16 = 1 ∧
      ∀ r < 2, ∃ t ∈ s.teams, s.teams.find? (fun t => t.launch == (teamOf s).launch && t.rank == r && !t.formed) = some t ∧ (∃ v ∈ t.waves, v.ended = false) ∧ t.core / 32 = (waveOf s).core / 32) ∧
    (let w := waveOf (sreg 4 8 (sreg 0 0x10000 base))
     w.sr 4 ∈ [4, 8, 16, 32, 64] ∧ (∀ k < 3, w.sr (5 + k) = 0) ∧ cf.d.toNat % 2 = 0) ∧ (waveOf base).sr 4 ∉ [4, 8, 16, 32, 64] ∧
    (let p : Piece := { src := 0x10000, dst := 0, len := 16, recv := 1, landed := [], absent := false }
     let c : Cmd := cmdOf copying (waveOf copying) (teamOf copying) 0xB0 1 none .glob (.scratch 0) [p] [pagesOf 4 0x10000 16]
     let s := onCore (fun k => { k with cmds := [c] }) copying
     (s.core 0).cmds.find? (fun c => c.id == base.uid) = some c ∧ c.state = .prepass ∧ c.list = none ∧ c.xl = [] ∧ (∃ p ∈ c.pieces, p.absent = false ∧ p.len ≠ 0 ∧ p.landed = []) ∧
      c.sendTag = none ∧ (∀ g ∈ c.pages, g.2.1 = 0x10 ∧ g.2.2 = 0x10) ∧ s.look [] 0 c.asn (4096 * 0x10) = .hit (here 0x10000 .cached 7) ∧ (here 0x10000 .cached 7).log2 = 12 ∧
      (s.core 0).tlb.find? (fun e => e.covers c.asn (4096 * 0x10)) ≠ none ∧
      c.pieces[0]? = some p ∧ s.team? c.team = some (teamOf s) ∧ s.team? p.recv = some (teamOf s) ∧ (teamOf s).tags[c.tag]? = some Tag.reset ∧ (teamOf s).tags.length = 64 ∧
      s.poison = [] ∧ s.poisonRegs = [] ∧ (s.core 0).draining = [] ∧
      ∀ i < 16, ({ c with xl := [{ asn := c.asn, page := 0x10, fault := none, pa := 0x10000, mtype := .cached, perms := 7, log2 := 12 }], state := .moving } : Cmd).xlat (0x10000 + i) = some (here (0x10000 + i) .cached 7) ∧
        (s.core 0).hsb = 0 ∧ (s.core 0).fmb = 0 ∧ s.hostAtomics = []) := by
  refine ⟨⟨by decide, ⟨0, by decide⟩, by decide, by decide, no_updates _ rfl (by decide), room_here _ _ (by decide), copy_room _ rfl rfl (by decide) (by decide), by rw [cores_len _ rfl]; decide, by decide, by decide, ⟨rfl, rfl, by decide, by decide, by decide, by decide, by decide, by decide⟩, ⟨rfl, rfl, by decide, by decide, by decide⟩⟩,
    by decide, by decide, by decide, by decide, by decide, by decide⟩

/-! ### Macros -/

def mlane (win : Nat) : MacLane := { lane := 0, win := win, reason := 0, target := none, trap := none, fault := none }
/-- Lane 0 of the wave carries a macro out. -/
def macroOn (i : Instr) (win : Nat) (data : List Nat) (s : State) : State :=
  onWave (fun w => { w with prog := some { instr := i, mask := 1#64, pc := 0x10000#64, begun := true, issued := true, lanes := [mlane win], flags := 0#8, data := data } }) s
def homed : State := page .homeonly 7 base

theorem runs_of (s : State) (w : Wave) (i : Instr) (win : Nat) (p : Prog) (h : w.prog = some p) (hi : p.instr = i) (hb : p.begun = true) (hs : w.stop = false)
    (hl : p.lanes = [mlane win]) (hf : StartsFresh s w) : MacroRuns s w i p (mlane win) :=
  { prog := h, instr := hi, begun := hb, goes := hs, fresh := hf, first := by rw [hl]; rfl, distinct := by rw [hl]; simp }

/-- RAST's window of a triangle of no area, ready and after eight rows. -/
def rastWin (rows : Nat) : Nat := 0x52000200 + rows

/-- The coverage of the next row of a window (11 R239, R240), and a window whose first row meets pixels (11, the worked example). -/
def rowCovOf (win : Nat) : Nat :=
  let g (k : Nat) : Nat := word win k
  let sgn : Int := if (g 0).testBit 8 then -1 else 1
  let vx (k : Nat) : Int := i32.read (g (1 + 2 * (k % 3)))
  let vy (k : Nat) : Int := i32.read (g (2 + 2 * (k % 3)))
  let e (px k : Nat) : Int :=
    sgn * ((vx (k + 1) - vx k) * (256 * (IFmt.read { w := 16, signed := true } (g 7 / 2 ^ 16) + ((g 0 % 16 : Nat) : Int)) + 128 - vy k) -
      (vy (k + 1) - vy k) * (256 * (IFmt.read { w := 16, signed := true } (g 7 % 2 ^ 16) + (px : Int)) + 128 - vx k))
  let topLeft (k : Nat) : Bool := decide (sgn * (vy (k + 1) - vy k) < 0) || (vy (k + 1) == vy k && decide (0 < sgn * (vx (k + 1) - vx k)))
  let inside (px : Nat) : Bool := !(g 0).testBit 9 && (List.range 3).all (fun k => decide (0 < e px k) || (e px k == 0 && topLeft k))
  ((List.range 8).map (fun px => if inside px then 2 ^ px else 0)).sum
/-- Window words, word 0 first. -/
def wwin (l : List Nat) : Nat := l.foldr (fun x a => x + 2 ^ 32 * a) 0
def triWin : Nat := wwin [0x52000100, 0, 0, 0, 0x800, 0x800, 0, 0, 0, 0, 0, 0, 0, 0, 0, 0]

theorem witness_RasterMacros :
    (let s := sreg 0 0x52000200 local0
     Issuing s (waveOf s) ∧ s.team? s.cur.team = some (teamOf s) ∧ (takes s hdr (waveOf s) 0 = true ∧ (waveOf s).helper.getLsbD 0 = false) ∧ (waveOf s).prog = none ∧
      (waveOf s).sr 0 / 2 ^ 24 = 0x52 ∧ (∀ k < 15, (waveOf s).sr (1 + k) = 0) ∧ (waveOf s).sr 0 % 2 ^ 16 = 512 ∧ InScratch (teamOf s) (waveOf s) 0 512 (0, 0)) ∧
    (waveOf local0).sr 0 / 2 ^ 24 ≠ 0x52 ∧ (waveOf (sreg 7 1 local0)).sr 7 % 8 ≠ 0 ∧ (teamOf base).scratchBytes = 0 ∧ (teamOf base).width ≠ 64 ∧
    (∀ r ∈ [0, 8], let s := macroOn (.rast hdr xf) (rastWin r) [] local0
     ∃ p, (waveOf s).prog = some p ∧ p.begun = true ∧ p.lanes = [mlane (rastWin r)] ∧ (waveOf s).stop = false ∧ p.flags = 0#8 ∧ StartsFresh s (waveOf s) ∧ word (rastWin r) 0 % 16 = r) ∧ rowCovOf (rastWin 0) = 0 ∧ rowCovOf triWin ≠ 0 ∧ word triWin 0 % 16 = 0 ∧
    InScratch (teamOf local0) (waveOf local0) (word triWin 8) 512 (0, 0) ∧ (1#6).getLsbD 0 = true ∧
    (let s := vreg 0 0x42000000 local0
     Issuing s (waveOf s) ∧ s.team? s.cur.team = some (teamOf s) ∧ s.poisonRegs = [] ∧ xf.var.toNat < 3 ∧ (waveOf s).prog = none ∧
      (∀ l < 8, ((waveOf s).lane l).vr 0 / 2 ^ 24 = 0x42 ∧ ((waveOf s).lane l).vr 0 % 16 ≤ 6 ∧ ((waveOf s).lane l).vr 1 % 4 = 0) ∧ InScratch (teamOf s) (waveOf s) 0 4 (0, 0)) ∧
    ((waveOf local0).lane 0).vr 0 / 2 ^ 24 ≠ 0x42 ∧ 6 < ((waveOf (vreg 0 0x42000007 local0)).lane 0).vr 0 % 16 ∧
    (∀ n ∈ [0, 1], let e : Rowan := { asn := 0, space := true, key := 0#64, next := BitVec.ofNat 32 n, alloc := 4, held := false, waiters := [] }
     let s : State := { macroOn (.blend hdr xf) 0x42000000 [] local0 with rowans := [e] }
     ∃ p, MacroRuns s (waveOf s) (.blend hdr xf) p (mlane 0x42000000) ∧ (waveOf s).outs = [] ∧ p.lanes = [mlane 0x42000000] ∧ 0 < (waveOf s).lanes.length ∧
      ((waveOf s).lane 0).await = none ∧ InScratch (teamOf s) (waveOf s) (word 0x42000000 1) 4 (0, 0) ∧ (teamOf s).sides[0]? = some Side.reset ∧
      s.rowans.find? (fun e => e.asn == s.curAsn && e.space == true && e.key == BitVec.ofNat 64 (word 0x42000000 2 * 2 ^ 32 + word 0x42000000 1)) = some e ∧ e.waiters = [] ∧ e.extra = 0) ∧
    (let d := 1 + 2 ^ 16 + 16 * 2 ^ 32 + 0x10000 * 2 ^ 64
     let s := holding 0x10000 64 d (vreg 0 0x49000000 (page .homeonly 7 aimed))
     Issuing s (waveOf s) ∧ Unmarked s 0x10000 64 ∧ WalkRoom s (waveOf s) ∧ ReadsAtOnce s s.curRef (waveOf s) ∧ NoUpdates s ∧ (∀ l < 8, takes s hdr (waveOf s) l = true ∧ (waveOf s).helper.getLsbD l = false ∧ ((waveOf s).lane l).vr 0 / 2 ^ 24 = 0x49) ∧
      littleEndian (cellGet s.mem) 0x10000 64 = d ∧ s.look (waveOf s).xl 0 s.curAsn 0x10000 = .hit (here 0x10000 .homeonly 7) ∧ binFormed d) ∧ ¬ binFormed 0 ∧
    (let d := 1 + 2 ^ 16 + 16 * 2 ^ 32 + 0x10000 * 2 ^ 64
     let s := macroOn (.bin hdr xf) 0x49000000 [d] homed
     ∃ p, MacroRuns s (waveOf s) (.bin hdr xf) p (mlane 0x49000000) ∧ p.data = [d] ∧ (waveOf s).outs = [] ∧ s.look [] 0 s.curAsn 0x10000 = .hit (here 0x10000 .homeonly 7) ∧
      s.look [] 0 s.curAsn 0x10040 = .hit (here 0x10040 .homeonly 7) ∧ littleEndian (cellGet s.mem) 0x10000 16 = 0) := by
  have f1 : ∀ l, local0.cur.mask.getLsbD l = true → l < 8 := fun l => lane_lt _ l (by decide)
  refine ⟨⟨by decide, by decide, by decide, by decide, by decide, by decide, by decide, by unfold InScratch; decide⟩, by decide, by decide, by decide, by decide, ?_,
    by decide, by decide, by decide, by unfold InScratch; decide, by decide,
    ⟨by decide, by decide, by decide, by decide, by decide, by decide, by unfold InScratch; decide⟩, by decide, by decide, ?_,
    ⟨by decide, (fun e h => by cases h), room_here _ _ (by decide), reads_here _ _ _ rfl (by decide) (by decide) rfl, no_updates _ rfl (by decide), by decide, by decide, by decide, by decide, by decide, ⟨4, by decide⟩, by decide⟩, ?_, ?_⟩
  · intro r h
    rcases List.mem_cons.mp h with rfl | h
    · exact ⟨_, rfl, rfl, rfl, rfl, rfl, fresh_here _ _ rfl rfl, rfl⟩
    · rcases List.mem_cons.mp h with rfl | h
      · exact ⟨_, rfl, rfl, rfl, rfl, rfl, fresh_here _ _ rfl rfl, rfl⟩
      · cases h
  · intro n h
    rcases List.mem_cons.mp h with rfl | h
    · exact ⟨_, runs_of _ _ _ _ _ rfl rfl rfl rfl rfl (fresh_here _ _ rfl rfl), rfl, rfl, by decide, by decide, by unfold InScratch; decide, by decide, by decide, rfl, rfl⟩
    · rcases List.mem_cons.mp h with rfl | h
      · exact ⟨_, runs_of _ _ _ _ _ rfl rfl rfl rfl rfl (fresh_here _ _ rfl rfl), rfl, rfl, by decide, by decide, by unfold InScratch; decide, by decide, by decide, rfl, rfl⟩
      · cases h
  · rintro ⟨_, _, ⟨k, h1, h2, h3⟩, _⟩
    exact absurd h3.symm (Nat.pos_iff_ne_zero.mp (Nat.two_pow_pos k))
  · exact ⟨_, runs_of _ _ _ _ _ rfl rfl rfl rfl rfl (fresh_here _ _ rfl rfl), rfl, rfl, by decide, by decide, by decide⟩

theorem reads_eq (s : State) (w : Wave) (va n v : Nat) (hp : s.poison = []) (hr : s.rels = []) (hc : (s.core w.core).cache = [])
    (ht : ∀ e ∈ (s.core w.core).tlb, 12 ≤ e.log2) (hx : w.xl = []) (ha : ReadsAtOnce s s.curRef w)
    (h : ∀ i < n, va + i < 2 ^ 64 ∧ canonical (va + i) = true ∧ s.look w.xl w.core s.curAsn (va + i) = .hit (here (va + i) .homeonly 7) ∧
      (s.core w.core).tlb.find? (fun e => e.covers s.curAsn (va + i)) ≠ none)
    (hv : v = ((List.range n).map (fun i => (cellGet s.mem (va + i)).toNat * 256 ^ i)).sum) : Reads s w va n v :=
  ⟨ht, (by rw [hx]; intro e he; cases he), ha, fun i => here (va + i) .homeonly 7, fun i hi => let ⟨a, b, c, d⟩ := h i hi
    ⟨a, b, c, d, (by decide : (7 : BitVec 3).getLsbD 0 = true), .inl rfl, sound_of s _ _ _ hp hc, by intro e he; rw [hr] at he; cases he⟩, hv⟩

theorem finite_of (v : Val) (h : v.isNaN = false ∧ v.isInf = false) : Finite v (Val.rat v) := by
  cases v with
  | nan q => simp [Val.isNaN] at h
  | inf s => simp [Val.isInf] at h
  | fin s n d => exact ⟨⟨s, n, d, rfl⟩, rfl⟩

/-- FILT of the texture described at 0x10000; its texels lie at 0x10000 too. -/
def filting (u d : Nat) : State := macroOn (.filt hdr xf) (wwin [0x46000000, u, 0, 0, 0, 0, 0, 0, 0, 0, 0, 0, 0x10000, 0, 0, 0]) [] (holding 0x10000 32 d homed)

theorem witness_Filtering :
    (let s := vreg 0 0x46000000 base
     Issuing s (waveOf s) ∧ Someone s hdr (waveOf s) ∧ (waveOf s).prog = none ∧
      ∀ l < 8, ((waveOf s).lane l).vr 0 / 2 ^ 24 = 0x46 ∧ ((waveOf s).lane l).vr 0 % 2 ^ 16 = 0 ∧ ∀ k ∈ [12, 14, 15], ((waveOf s).lane l).vr k = 0) ∧
    ((waveOf base).lane 0).vr 0 / 2 ^ 24 ≠ 0x46 ∧ ((waveOf (vreg 14 1 base)).lane 0).vr 14 ≠ 0 ∧
    (∀ d ∈ [0x10000, 1], ∃ p m, MacroRuns (filting 0 d) (waveOf (filting 0 d)) (.filt hdr xf) p m ∧ Reads (filting 0 d) (waveOf (filting 0 d)) (word m.win 12 + 2 ^ 32 * word m.win 13) 32 d) ∧
    SampleTaps 0x10000 0 (wwin [0, 0, 0]) (bilinearSet 0x10000 0 1 0 0) ∧ (∀ q ∈ bilinearSet 0x10000 0 1 0 0, q.2 = 0x10000) ∧
    Reads (filting 0 0x10000) (waveOf (filting 0 0x10000)) 0x10000 4 0x10000 ∧ texelSize 0x10000 = 4 ∧
    texMalformed 1 ∧ ¬ texMalformed 0x10000 ∧ NoSample 0 (wwin [0, 0x7F800000, 0]) := by
  refine ⟨⟨by decide, ⟨0, by decide⟩, by decide, by decide⟩, by decide, by decide, ?_,
    ⟨by unfold NoSample; decide, fun _ => rfl, fun h => absurd h (by decide), fun h => absurd h (by decide)⟩, by decide +kernel,
    reads_eq _ _ _ _ _ rfl rfl rfl (by decide) (by decide) (reads_here _ _ _ rfl rfl rfl rfl) (by decide) (by decide), by decide,
    by unfold texMalformed; decide, by unfold texMalformed; decide, by unfold NoSample; decide⟩
  intro d h
  rcases List.mem_cons.mp h with rfl | h
  · exact ⟨_, _, runs_of _ _ _ _ _ rfl rfl rfl rfl rfl (fresh_here _ _ rfl rfl), reads_eq _ _ _ _ _ rfl rfl rfl (by decide) (by decide) (reads_here _ _ _ rfl rfl rfl rfl) (by decide) (by decide)⟩
  · rcases List.mem_cons.mp h with rfl | h
    · exact ⟨_, _, runs_of _ _ _ _ _ rfl rfl rfl rfl rfl (fresh_here _ _ rfl rfl), reads_eq _ _ _ _ _ rfl rfl rfl (by decide) (by decide) (reads_here _ _ _ rfl rfl rfl rfl) (by decide) (by decide)⟩
    · cases h

/-- A ray from (1/4, 1/4, −1) along z, the structure at 0x10000 and the current reference, with the state of the walk in word 0. -/
def ray (st cur tmax : Nat) : Nat :=
  wwin ([0x54000000 + st, 0x3E800000, 0x3E800000, 0xBF800000, 0, 0, 0x3F800000, 0, tmax, 1, 0x10001, 0, cur] ++ List.replicate 19 0)
def onRay (s : State) : State :=
  onWave (fun w => { w with lanes := w.lanes.map (fun l => { l with v :=
    [(0, 0x54000000#32), (1, 0x3E800000#32), (2, 0x3E800000#32), (3, 0xBF800000#32), (6, 0x3F800000#32), (8, 0x7F800000#32), (9, 1#32), (10, 0x10001#32), (12, 0x10000000#32)] }) }) s
def traversing (win n v : Nat) : State := macroOn (.trav hdr xf) win [] (holding 0x10000 n v homed)
/-- A box node whose first child is node 1, a box over [0,1]³, and one without children. -/
def boxNode : Nat := 0x10000001 * 2 ^ 512 + 0x010101000000 * 2 ^ 128
/-- The triangle (0,0,0), (1,0,0), (0,1,0); and the first of a node of one opaque triangle. -/
def triangle : Nat := wwin [0, 0, 0, 0x3F800000, 0, 0, 0, 0x3F800000, 0]
def triNode (tri : Nat) : Nat := 0x101 + 2 ^ 128 * tri

/-- The origin and the direction of the window's ray. -/
def rayO (win k : Nat) : Rat := Val.rat (fdecode .f32 (word win (1 + k)))
def rayD (win k : Nat) : Rat := Val.rat (fdecode .f32 (word win (4 + k)))
theorem ray_of (win : Nat) (h : (∀ k < 3, ((fdecode .f32 (word win (1 + k))).isNaN = false ∧ (fdecode .f32 (word win (1 + k))).isInf = false) ∧
      (fdecode .f32 (word win (4 + k))).isNaN = false ∧ (fdecode .f32 (word win (4 + k))).isInf = false) ∧ rayD win 2 ≠ 0 ∧
    (fdecode .f32 (word win 7)).isNaN = false ∧ (fdecode .f32 (word win 8)).isNaN = false) : RayOf win (rayO win) (rayD win) :=
  ⟨fun k hk => ⟨finite_of _ (h.1 k hk).1, finite_of _ (h.1 k hk).2⟩, ⟨2, by decide, h.2.1⟩, h.2.2⟩
/-- Corner `i` of a triangle. -/
def corner (tri i k : Nat) : Val := fdecode .f32 (tri / 2 ^ (96 * i + 32 * k) % 2 ^ 32)
def cornerAt (tri i k : Nat) : Rat := Val.rat (corner tri i k)

set_option maxRecDepth 8192 in
set_option exponentiation.threshold 1024 in
theorem witness_Traversal :
    (let s := onRay base
     Issuing s (waveOf s) ∧ (∃ l, (takes s hdr (waveOf s) l && !(waveOf s).helper.getLsbD l) = true) ∧ (waveOf s).prog = none ∧
      ∀ l < 8, ((waveOf s).lane l).vr 0 / 2 ^ 24 = 0x54 ∧ ((waveOf s).lane l).vr 9 < 2 ^ 18 ∧ ((waveOf s).lane l).vr 10 = 0x10001 ∧ ((waveOf s).lane l).vr 11 = 0 ∧
        TravFormed (((waveOf s).lane l).vblock 0 32) ∧ atMost (fdecode .f32 (((waveOf s).lane l).vr 7)) (fdecode .f32 (((waveOf s).lane l).vr 8)) = true) ∧
    (∀ l < 8, ∃ o d, RayOf (((waveOf (onRay base)).lane l).vblock 0 32) o d) ∧
    ((waveOf base).lane 0).vr 0 / 2 ^ 24 ≠ 0x54 ∧ ((waveOf (vreg 10 0 (onRay base))).lane 0).vr 10 % 8 = 0 ∧ TravFormed (ray 0x100000 0x10000000 0) ∧
    ¬ TravFormed (ray 0x1500 0x10000000 0) ∧ (¬ ∃ o d, RayOf (wwin [0, 0, 0, 0, 0, 0, 0]) o d) ∧
    (∀ st ∈ [0x2000, 0, 0x1400, 1], ∀ cur ∈ [0x10000000, 0x30000000], ∀ n ∈ [boxNode, triNode triangle, triNode 0],
      ∃ p, MacroRuns (traversing (ray st cur 0x7F800000) 128 n) (waveOf (traversing (ray st cur 0x7F800000) 128 n)) (.trav hdr xf) p (mlane (ray st cur 0x7F800000))) ∧
    (ray 0x2000 0x10000000 0).testBit 13 = true ∧ (ray 0x2000 0x10000000 0).testBit 14 = false ∧ (ray 0 0x10000000 0).testBit 13 = false ∧ tvWalk (ray 0 0x10000000 0) = false ∧
    (let x := ray 0 0x10000000 0x7F800000
     let s := traversing x 128 boxNode
     Reads s (waveOf s) 0x10000 128 boxNode ∧ BoxFormed boxNode ∧ ¬ BoxFormed (2 ^ 120) ∧ RayOf x (rayO x) (rayD x) ∧
      ChildList boxNode (rayO x) (rayD x) (fdecode .f32 (word x 7)) (fdecode .f32 (word x 8)) [0x10000001] ∧
      ChildList 0 (rayO x) (rayD x) (fdecode .f32 (word x 7)) (fdecode .f32 (word x 8)) [] ∧
      tvPd (ray 0 0x10000000 0) ≠ 20 ∧ tvPd (ray 0x1400 0x10000000 0) = 20) ∧
    (let x := ray 0 0x30000000 0x7F800000
     let s := traversing x 52 (triNode triangle)
     Reads s (waveOf s) 0x10000 16 0x101 ∧ Reads s (waveOf s) 0x10010 36 triangle ∧ (0x101 : Nat).testBit 8 = true ∧ RayOf x (rayO x) (rayD x) ∧
      (∀ i < 3, ∀ k < 3, Finite (corner triangle i k) (cornerAt triangle i k)) ∧
      TriangleHit (rayO x) (rayD x) (cornerAt triangle 0) (cornerAt triangle 1) (cornerAt triangle 2) (fdecode .f32 (word x 7)) (fdecode .f32 (word x 8)) false 1 (1 / 4) (1 / 4) ∧
      ∀ t u v, ¬ TriangleHit (rayO x) (rayD x) (cornerAt 0 0) (cornerAt 0 1) (cornerAt 0 2) (fdecode .f32 (word x 7)) (fdecode .f32 (word x 8)) false t u v) := by
  refine ⟨⟨by decide, ⟨0, by decide⟩, by decide, fun l hl => ?_⟩, ?_, by decide, by decide, by unfold TravFormed refFormed; decide,
    by dsimp only [TravFormed, refFormed]; decide, ?_, ?_, by decide, by decide, by decide, by decide, ?_, ?_⟩
  · have h : ((waveOf (onRay base)).lane l).vblock 0 32 = ((waveOf (onRay base)).lane 0).vblock 0 32 :=
      (by decide : ∀ l < 8, ((waveOf (onRay base)).lane l).vblock 0 32 = ((waveOf (onRay base)).lane 0).vblock 0 32) l hl
    refine (by decide : ∀ l < 8, ((waveOf (onRay base)).lane l).vr 0 / 2 ^ 24 = 0x54 ∧ ((waveOf (onRay base)).lane l).vr 9 < 2 ^ 18 ∧
      ((waveOf (onRay base)).lane l).vr 10 = 0x10001 ∧ ((waveOf (onRay base)).lane l).vr 11 = 0) l hl |>.imp id (·.imp id (·.imp id (fun a => ⟨a, ?_, ?_⟩)))
    · rw [h]; dsimp only [TravFormed, refFormed]; decide
    · exact (by decide : ∀ l < 8, atMost (fdecode .f32 (((waveOf (onRay base)).lane l).vr 7)) (fdecode .f32 (((waveOf (onRay base)).lane l).vr 8)) = true) l hl
  · intro l hl
    exact ⟨_, _, ray_of _ ((by decide +kernel : ∀ l < 8, (∀ k < 3, ((fdecode .f32 (word (((waveOf (onRay base)).lane l).vblock 0 32) (1 + k))).isNaN = false ∧
      (fdecode .f32 (word (((waveOf (onRay base)).lane l).vblock 0 32) (1 + k))).isInf = false) ∧
      (fdecode .f32 (word (((waveOf (onRay base)).lane l).vblock 0 32) (4 + k))).isNaN = false ∧
      (fdecode .f32 (word (((waveOf (onRay base)).lane l).vblock 0 32) (4 + k))).isInf = false) ∧ rayD (((waveOf (onRay base)).lane l).vblock 0 32) 2 ≠ 0 ∧
      (fdecode .f32 (word (((waveOf (onRay base)).lane l).vblock 0 32) 7)).isNaN = false ∧
      (fdecode .f32 (word (((waveOf (onRay base)).lane l).vblock 0 32) 8)).isNaN = false) l hl)⟩
  · rintro ⟨o, d, h, ⟨k, hk, hd⟩, _⟩
    refine hd ?_
    rw [← (h k hk).2.2]
    exact (by decide +kernel : ∀ k < 3, Val.rat (fdecode .f32 (word (wwin [0, 0, 0, 0, 0, 0, 0]) (4 + k))) = 0) k hk
  · intro st _ cur _ n _
    exact ⟨_, runs_of _ _ _ _ _ rfl rfl rfl rfl rfl (fresh_here _ _ rfl rfl)⟩
  · refine ⟨reads_eq _ _ _ _ _ rfl rfl rfl (by decide) (by decide) (reads_here _ _ _ rfl rfl rfl rfl) (by decide) (by decide), ⟨by decide, fun k hk => ⟨_, finite_of _ ?_⟩, by decide⟩,
      fun h => absurd h.1 (by decide), ray_of _ (by decide +kernel), ⟨[0], ?_, rfl, List.pairwise_singleton _ _⟩, ⟨[], ?_, rfl, List.Pairwise.nil⟩, by decide, by decide⟩
    · exact (by decide : ∀ k < 3, (fdecode .f32 (boxNode / 2 ^ (32 * k) % 2 ^ 32)).isNaN = false ∧ (fdecode .f32 (boxNode / 2 ^ (32 * k) % 2 ^ 32)).isInf = false) k hk
    · intro j
      have h : ∀ j < 8, j ∈ [0] ↔ ChildHit boxNode j (rayO (ray 0 0x10000000 0x7F800000)) (rayD (ray 0 0x10000000 0x7F800000))
          (fdecode .f32 (word (ray 0 0x10000000 0x7F800000) 7)) (fdecode .f32 (word (ray 0 0x10000000 0x7F800000) 8)) := by unfold ChildHit; decide +kernel
      constructor
      · intro hj
        have : j < 8 := by simp at hj; omega
        exact ⟨this, (h j this).1 hj⟩
      · rintro ⟨hj, hh⟩; exact (h j hj).2 hh
    · intro j
      constructor
      · intro hj; cases hj
      · rintro ⟨_, h, _⟩; exact absurd (by simp [boxChild]) h
  · refine ⟨reads_eq _ _ _ _ _ rfl rfl rfl (by decide) (by decide) (reads_here _ _ _ rfl rfl rfl rfl) (by decide) (by decide),
      reads_eq _ _ _ _ _ rfl rfl rfl (by decide) (by decide) (reads_here _ _ _ rfl rfl rfl rfl) (by decide) (by decide), by decide, ray_of _ (by decide +kernel),
      fun i hi k hk => finite_of _ ((by decide : ∀ i < 3, ∀ k < 3, (corner triangle i k).isNaN = false ∧ (corner triangle i k).isInf = false) i hi k hk),
      by unfold TriangleHit; decide +kernel, fun t u v h => h.1 (by decide +kernel)⟩

/-- Microcode in slot 0: a window of two words, no operands, reason 16 declared, with a callback. -/
def code0 : Microcode := { slot := 0, rev := 0, wsize := 2, akind := 1, bkind := 0, rsnmap := 2 ^ 16, cbmap := 2 ^ 16, digest := [] }
def coded (s : State) : State := { s with micro := [code0] }

theorem witness_MicrocodeCalls :
    (let s := coded (vreg 0 0x80000000 base)
     Issuing s (waveOf s) ∧ Someone s hdr (waveOf s) ∧ s.team? s.cur.team = some (teamOf s) ∧ (waveOf s).prog = none ∧ s.micro.find? (fun m => m.slot == xf.var.toNat) = some code0 ∧
      xf.a.toNat < (teamOf s).vregs ∧ xf.b.toNat = 0 ∧ xf.w.toNat + code0.wsize ≤ (teamOf s).vregs ∧ 0 < code0.wsize ∧
      ∀ l < 8, ((waveOf s).lane l).vr 0 / 2 ^ 24 = 0x80 ∧ ((waveOf s).lane l).vr 0 / 2 ^ 8 % 256 = code0.rev) ∧
    base.micro.find? (fun m => m.slot == xf.var.toNat) = none ∧ ((waveOf base).lane 0).vr 0 / 2 ^ 24 ≠ 0x80 ∧ ((waveOf (vreg 0 0x80000100 base)).lane 0).vr 0 / 2 ^ 8 % 256 ≠ code0.rev ∧
    (let s := coded (macroOn (.mcall hdr xf) 0x80000000 [] base)
     ∃ p, MacroRuns s (waveOf s) (.mcall hdr xf) p (mlane 0x80000000) ∧ (mlane 0x80000000).win < 2 ^ (32 * code0.wsize)) ∧
    (let s := onWave (fun w => { w with stop := true }) (macroOn (.mcall hdr xf) 0x80000000 [] base)
     s.wave? wref = some (waveOf s) ∧ (∃ p, (waveOf s).prog = some p ∧ p.begun = true ∧ p.flags = 0#8 ∧ p.lanes = [mlane 0x80000000]) ∧ (waveOf s).stop = true ∧
      ((waveOf s).lane 0).await = none ∧ 0 < (waveOf s).lanes.length) :=
  ⟨⟨by decide, ⟨0, by decide⟩, by decide⟩, by decide, by decide, by decide, ⟨_, runs_of _ _ _ _ _ rfl rfl rfl rfl rfl (fresh_here _ _ rfl rfl), by decide⟩, by decide, ⟨_, rfl, by decide⟩, by decide⟩

/-! ### Spawning, tasks and queues -/

/-- A Burrow of 1024 bytes at 0x10C00. -/
def burrowed (s : State) : State := onLaunch (fun l => { l with block := (l.block.set 7 0x10C00).set 8 1024 }) s
/-- The first `k` record places of that Burrow, and how they translate. -/
def places (n k : Nat) : List Nat := (List.range k).map (fun i => 0x10C00 + recordBytes n * i)
def hereAs (t : MType) (va : Nat) : Xlat := here va t 7

theorem untraced_here (s : State) (ht : s.regs.trbase = 0) (hm : ∀ i < 15, (cellGet s.mem (256 * i)).getLsbD 0 = false) :
    ∀ t a, 4096 ≤ a → Untraced s (hereAs t a).pa 64 := fun _ a h => untraced_base a 64 h s ht hm

theorem may_deposit (s : State) (w : Wave) (l : Launch) (n k : Nat) (t : MType) (hb : l.block.burrow = 0x10C00) (he : l.burrow = []) (hf : recordBytes n * k ≤ l.block.bsize)
    (hr : 0 < recordBytes n) (hu : ∀ a, 4096 ≤ a → Untraced s (hereAs t a).pa 64)
    (hh : ∀ va ∈ piecesOf n (places n k), 4096 ≤ va ∧ va < 2 ^ 64 ∧ canonical va = true ∧ s.look w.xl w.core (BitVec.ofNat 12 l.block.asn) va = .hit (hereAs t va) ∧ t ≠ .io)
    (ha : (piecesOf n (places n k)).Pairwise (fun a b => (hereAs t a).pa + 64 ≤ (hereAs t b).pa ∨ (hereAs t b).pa + 64 ≤ (hereAs t a).pa))
    (ho : (places n k).Pairwise (· < ·)) (hc : PlainCache s w.core) (hw : WalkRoom s w) (hq : NoUpdates s ∧ Unmetered s w.core) : MayDeposit s w l n (places n k) (hereAs t) where
  places := { order := ho
              free := fun a h => by
                obtain ⟨i, hi, rfl⟩ := List.mem_map.mp h
                exact ⟨i, by rw [hb], by unfold FreeRecord; rw [he]; intro r hr; cases hr⟩
              lowest := fun i _ hn a h => by
                obtain ⟨j, hj, rfl⟩ := List.mem_map.mp h
                rw [hb] at hn ⊢
                have : k ≤ i := Nat.le_of_not_lt (fun h => hn (List.mem_map.mpr ⟨i, List.mem_range.mpr h, rfl⟩))
                have := Nat.mul_lt_mul_of_lt_of_le (Nat.lt_of_lt_of_le (List.mem_range.mp hj) this) (Nat.le_refl (recordBytes n)) hr
                rw [Nat.mul_comm (recordBytes n) j, Nat.mul_comm (recordBytes n) i]; omega }
  fits := by
    have : (places n k).length = k := by rw [places, List.length_map, List.length_range]
    rw [this, burrowUsed, he]; simpa using hf
  reach := fun va h => let ⟨a, b, c, d, e⟩ := hh va h; ⟨b, c, d, (by decide : (7 : BitVec 3).getLsbD 1 = true), e, hu va a⟩
  apart := ha
  cache := hc
  room := hw
  quiet := hq

/-- A block of one wave for the task launch at 0x10800, and the bytes of a block of two waves. -/
def taskBlock : Block := [0x10000#64, 0x0000000100010001#64, 0x000000007C010000#64, 0#64, 0#64, 0#64, 0#64, 0x10C00#64, 1024#64, 0#64, 0#64, 0#64, 0#64, 0#64, 0#64, 0#64]
def blockNat (b : Block) : Nat := b.foldr (fun x a => x.toNat + 2 ^ 64 * a) 0
def badBlock : Block := taskBlock.set 2 0x000000007C020000#64
def tasked (b : Block) : State :=
  let s := holding 0x10800 128 (blockNat b) (sreg 4 0x10800 homed)
  { s with nextLaunch := 2 }
def running (b : Block) : State :=
  let s := tasked b
  { s with launches := s.launches ++ [{ newLaunch b 2 0 0 0 [] with task := some (0x10800, 0) }] }

/-- What the statement about TASKPUSH asks for: a state for each of its clauses. -/
def TaskWitness : Prop :=
  (∀ b ∈ [taskBlock, badBlock], let s := tasked b
   Issuing s (waveOf s) ∧ takes s hdr (waveOf s) 0 = true ∧ s.team? s.cur.team = some (teamOf s) ∧ s.launch? (teamOf s).launch = some (launchOf s) ∧ (waveOf s).outs = [] ∧
    (waveOf s).xl = [] ∧ (waveOf s).sr 4 + 2 ^ 32 * (waveOf s).sr 5 = 0x10800) ∧
  (∀ b ∈ [taskBlock, badBlock], Reads (tasked b) (waveOf (tasked b)) 0x10800 128 (blockNat b) ∧ NoUpdates (tasked b) ∧ BareCore (tasked b) (waveOf (tasked b)).core ∧
    WalkRoom (tasked b) (waveOf (tasked b))) ∧
  taskBlock.malformed = false ∧ taskBlock.waves = 1 ∧ taskBlock.prog = 1 ∧ badBlock.waves ≠ 1 ∧
  (List.range 16).map (fun k => BitVec.ofNat 64 (blockNat taskBlock / 2 ^ (64 * k))) = taskBlock ∧
  (let s := tasked taskBlock
   s.launches.find? (fun l => l.task == some (0x10800, s.curAsn)) = none ∧ s.nextLaunch ≠ 0#32 ∧ (∀ l ∈ s.launches, l.id ≠ s.nextLaunch.toNat) ∧
    MayDeposit s (waveOf s) { newLaunch taskBlock 2 0 0 0 [] with task := some (0x10800, 0) } 16 (places 16 8) (hereAs .homeonly)) ∧
  (let s := running taskBlock
   s.launches.find? (fun l => l.task == some (0x10800, s.curAsn)) = some { newLaunch taskBlock 2 0 0 0 [] with task := some (0x10800, 0) } ∧
    s.launch? 2 = some { newLaunch taskBlock 2 0 0 0 [] with task := some (0x10800, 0) } ∧
    MayDeposit s (waveOf s) { newLaunch taskBlock 2 0 0 0 [] with task := some (0x10800, 0) } 16 (places 16 8) (hereAs .homeonly))

set_option maxRecDepth 8192 in
theorem task_witness : TaskWitness := by
  refine ⟨by decide, ?_, by decide, by decide, by decide, by decide, by decide, ⟨by decide, by decide, by decide, ?_⟩, ⟨by decide, by decide, ?_⟩⟩
  · intro b h
    rcases List.mem_cons.mp h with rfl | h
    · exact ⟨reads_eq _ _ _ _ _ rfl rfl rfl (by decide) (by decide) (reads_here _ _ _ rfl rfl rfl rfl) (by decide) (by decide), no_updates _ rfl rfl, ⟨rfl, rfl, rfl⟩, room_here _ _ rfl⟩
    · rcases List.mem_cons.mp h with rfl | h
      · exact ⟨reads_eq _ _ _ _ _ rfl rfl rfl (by decide) (by decide) (reads_here _ _ _ rfl rfl rfl rfl) (by decide) (by decide), no_updates _ rfl rfl, ⟨rfl, rfl, rfl⟩, room_here _ _ rfl⟩
      · cases h
  · exact may_deposit _ _ _ _ _ _ (by decide) (by decide) (by decide) (by decide) (untraced_here _ (by decide) (by decide) _) (by decide) (by decide) (by decide)
      (plain_base _ (by decide) (by decide) (by decide)) (room_here _ _ rfl) ⟨no_updates _ rfl rfl, ⟨rfl, rfl⟩⟩
  · exact may_deposit _ _ _ _ _ _ (by decide) (by decide) (by decide) (by decide) (untraced_here _ (by decide) (by decide) _) (by decide) (by decide) (by decide)
      (plain_base _ (by decide) (by decide) (by decide)) (room_here _ _ rfl) ⟨no_updates _ rfl rfl, ⟨rfl, rfl⟩⟩

theorem witness_SpawnsAndTasks :
    (let s := burrowed (sreg 0 0x10000 base)
     Issuing s (waveOf s) ∧ Someone s hdr (waveOf s) ∧ s.team? s.cur.team = some (teamOf s) ∧ s.launch? (teamOf s).launch = some (launchOf s) ∧ (waveOf s).outs = [] ∧
      (waveOf s).lanes.length ≤ 64 ∧ (waveOf s).sr 0 + 2 ^ 32 * (waveOf s).sr 1 = 0x10000 ∧ (∀ k < 8, ((waveOf s).lane k).held0 = none ∧ ((waveOf s).lane k).held1 = none ∧
        ((waveOf s).lane k).await = none) ∧ (launchOf s).block.spawnRegs = 0 ∧ (lanesThat (fun k => takes s hdr (waveOf s) k && !(waveOf s).helper.getLsbD k)).length = 8 ∧
      MayDeposit s (waveOf s) (launchOf s) 0 (places 0 8) (hereAs .cached)) ∧
    (let s := base
     (launchOf s).block.bsize < recordBytes 0 * 8 + burrowUsed (launchOf s)) ∧
    (let s := burrowed (onWave (fun w => { w with lanes := w.lanes.set 0 { w.lane 0 with p := 1 } }) base)
     Issuing s (waveOf s) ∧ s.cur.mask.getLsbD 0 = true ∧ ((waveOf s).lane 0).pred 0 = true ∧ ((waveOf s).lane 1).pred 0 = false ∧ MayDeposit s (waveOf s) (launchOf s) 0 (places 0 1) (hereAs .cached)) ∧
    TaskWitness := by
  refine ⟨⟨by decide, ⟨0, by decide⟩, by decide, by decide, by decide, by decide, by decide, by decide, by decide, by decide, ?_⟩, by decide, ⟨by decide, by decide, by decide, by decide, ?_⟩, task_witness⟩
  all_goals
    exact may_deposit _ _ _ _ _ _ (by decide) (by decide) (by decide) (by decide) (untraced_here _ (by decide) (by decide) _) (by decide) (by decide) (by decide)
      (plain_base _ (by decide) (by decide) (by decide)) (room_here _ _ rfl) ⟨no_updates _ rfl rfl, ⟨rfl, rfl⟩⟩

/-- A bin set of one bin at 0x10000 with sixteen slots, described at 0x10800; HEAD and TAIL of its queue. -/
def binDesc : Nat := 1 + 2 ^ 16 + 16 * 2 ^ 32 + 0x10000 * 2 ^ 64
def queued (ht : Nat) : State := holding 0x10000 16 ht (holding 0x10800 64 binDesc (sreg 0 0x10800 homed))
def fullQueue : Nat := 16 * 2 ^ 64

theorem queue_reach (ht : Nat) (hp : (queued ht).poison = []) (ht0 : ∀ i < 15, (cellGet (queued ht).mem (256 * i)).getLsbD 0 = false)
    (hl : ∀ k ≤ 16, (queued ht).look (waveOf (queued ht)).xl 0 (queued ht).curAsn (0x10000 + 64 * k) = .hit (hereAs .homeonly (0x10000 + 64 * k)))
    (bins : List (Nat × Nat)) (hb : ∀ b ∈ bins, b = (0, 0)) : QueueReach (queued ht) (waveOf (queued ht)) binDesc bins (hereAs .homeonly) where
  hit := fun b h k hk => by
    rw [hb b h]
    have hk' : k ≤ 16 := hk
    show let va := 0x10000 + 64 * k
      va < 2 ^ 64 ∧ _
    refine ⟨by omega, ?_, hl k hk', (by decide : (7 : BitVec 3).getLsbD 0 = true), (by decide : (7 : BitVec 3).getLsbD 1 = true), (by decide : MType.homeonly ≠ .io), ?_, sound_of _ _ _ _ hp rfl⟩
    · have : ∀ k < 17, canonical (0x10000 + 64 * k) = true := by decide
      exact this k (by omega)
    · exact untraced_base _ 64 (show 4096 ≤ 0x10000 + 64 * k by omega) _ rfl ht0
  apart := fun b h c h' j hj k hk => by
    rw [hb b h, hb c h']
    show 0x10000 + 64 * j ≠ 0x10000 + 64 * k → 0x10000 + 64 * j + 64 ≤ 0x10000 + 64 * k ∨ 0x10000 + 64 * k + 64 ≤ 0x10000 + 64 * j
    omega
  cache := ⟨rfl, rfl, rfl⟩
  quiet := ⟨rfl, rfl⟩

theorem holds_desc (ht : Nat) (h : littleEndian (cellGet (queued ht).mem) 0x10800 64 = binDesc) (hp : (queued ht).poison = [])
    (hl : (queued ht).look (waveOf (queued ht)).xl 0 (queued ht).curAsn 0x10800 = .hit (here 0x10800 .homeonly 7)) : Holds (queued ht) (waveOf (queued ht)) 0x10800 64 binDesc :=
  ⟨here 0x10800 .homeonly 7, by decide, by decide, hl, by decide, .inl rfl, sound_of _ _ _ _ hp rfl, (by intro e he; cases he), h.symm⟩

set_option maxRecDepth 8192 in
theorem witness_HardwareQueues :
    (∀ ht ∈ [0, fullQueue], let s := queued ht
     Issuing s (waveOf s) ∧ (waveOf s).outs = [] ∧ takes s hdr (waveOf s) 0 = true ∧ (waveOf s).lanes.length ≤ 64 ∧ globalEa hdr mf (waveOf s) ((waveOf s).lane 0) = 0x10800 ∧
      (64 : Int) ∣ 0x10800 ∧ ((waveOf s).lane 0).vr (mf.d.toNat + 1) = 0 ∧
      s.presentCores.getD ((40503 * 0 + 12289 * 0) % s.presentCores.length) 256 = (waveOf s).core) ∧
    (∀ ht ∈ [0, fullQueue], NoUpdates (queued ht) ∧ BareCore (queued ht) (waveOf (queued ht)).core ∧ ReadsAtOnce (queued ht) (queued ht).curRef (waveOf (queued ht)) ∧
      WalkRoom (queued ht) (waveOf (queued ht)) ∧ Holds (queued ht) (waveOf (queued ht)) 0x10800 64 binDesc ∧ QueueReach (queued ht) (waveOf (queued ht)) binDesc [(0, 0), (0, 0)] (hereAs .homeonly)) ∧
    binFormed binDesc ∧ ¬ binFormed 0 ∧ ¬ (64 : Int) ∣ globalEa hdr mf (waveOf (sreg 0 0x10801 base)) ((waveOf (sreg 0 0x10801 base)).lane 0) ∧
    binDesc % 2 ^ 16 ≤ ((waveOf (vreg 21 1 base)).lane 0).vr (mf.d.toNat + 1) % 65536 ∧
    (pushEach binDesc (hereAs .homeonly) (fun _ => 0x10000) (fun _ => 0) (cellGet (queued 0).mem) [0, 1]).2 = [] ∧
    (pushEach binDesc (hereAs .homeonly) (fun _ => 0x10000) (fun _ => 0) (cellGet (queued fullQueue).mem) [0, 1]).2 ≠ [] := by
  refine ⟨by decide, ?_, ⟨by decide, by decide, ⟨4, by decide⟩, by decide⟩, ?_, by decide, by decide, by decide, by decide⟩
  · intro ht h
    rcases List.mem_cons.mp h with rfl | h
    · exact ⟨no_updates _ rfl rfl, ⟨rfl, rfl, rfl⟩, reads_here _ _ _ rfl rfl rfl rfl, room_here _ _ rfl, holds_desc _ (by decide) rfl (by decide), queue_reach _ rfl (by decide) (by decide) _ (by decide)⟩
    · rcases List.mem_cons.mp h with rfl | h
      · exact ⟨no_updates _ rfl rfl, ⟨rfl, rfl, rfl⟩, reads_here _ _ _ rfl rfl rfl rfl, room_here _ _ rfl, holds_desc _ (by decide) rfl (by decide), queue_reach _ rfl (by decide) (by decide) _ (by decide)⟩
      · cases h
  · rintro ⟨_, _, ⟨k, h1, h2, h3⟩, _⟩
    exact absurd h3.symm (Nat.pos_iff_ne_zero.mp (Nat.two_pow_pos k))

/-! ### Ordered sections -/

def okey (s : State) (l : Nat) : Word := BitVec.ofNat 64 (srcA hdr vf (waveOf s) ((waveOf s).lane l) 2 .plain)
def rowan (key next alloc : Nat) (held : Bool) (ws : List Waiter) : Rowan :=
  { asn := 0, space := false, key := BitVec.ofNat 64 key, next := BitVec.ofNat 32 next, alloc := BitVec.ofNat 32 alloc, held := held, waiters := ws }
/-- Every lane of the wave holds a key of class 0. -/
def locking (k : Nat) (s : State) : State := onWave (fun w => { w with lanes := w.lanes.map (fun l => { l with held0 := some (BitVec.ofNat 64 k) }) }) s
/-- Lane `i` names key 5 + i, and the first lane already has its number. -/
def keyed (s : State) : State :=
  onWave (fun w => { w with lanes := (List.range 8).map (fun i => { w.lane i with v := [(0, BitVec.ofNat 32 (5 + i % 2))] }) }) s
def numbering : State :=
  onWave (fun w => { w with prog := some { instr := .ordseq hdr vf, mask := 0xFF#64, pc := base.cur.pc, begun := true, issued := false, lanes := [], flags := 0, data := [0 + 1024 * 7] } }) (keyed base)
def asHelpers (s : State) : State := onWave (fun w => { w with helper := 0xFF#64 }) s

theorem witness_OrderedEntry :
    (let s := vreg 0 5 base
     Issuing s (waveOf s) ∧ takes s hdr (waveOf s) 0 = true ∧ (waveOf s).helper = 0#64 ∧ (waveOf s).lanes.length ≤ 64 ∧ (∀ l < 8, okey s l = 5#64) ∧
      (∀ l < 8, ((waveOf s).lane l).held0 = none ∧ ((waveOf s).lane l).held1 = none) ∧ RowanRoom s ∧ s.rowans = [] ∧ (waveOf s).outs = [] ∧ (waveOf s).prog = none ∧
      (∀ l < 8, (s.cur.mask.getLsbD l = true → ((waveOf s).lane l).live = true) ∧ ((waveOf s).lane l).wait = .none)) ∧ okey base 0 = 0#64 ∧
    (let s := keyed base
     Issuing s (waveOf s) ∧ takes s hdr (waveOf s) 0 = true ∧ (waveOf s).helper = 0#64 ∧ (waveOf s).lanes.length ≤ 64 ∧ (∀ l < 8, okey s l = BitVec.ofNat 64 (5 + l % 2)) ∧
      RowanRoom s ∧ s.rowans = [] ∧ (waveOf s).prog = none) ∧
    (let s := numbering
     let xs : List (Nat × BitVec 32) := [(0, 7#32)]
     Issuing s (waveOf s) ∧ takes s hdr (waveOf s) 0 = true ∧ (waveOf s).helper = 0#64 ∧ (∀ l < 8, okey s l = BitVec.ofNat 64 (5 + l % 2)) ∧ RowanRoom s ∧ s.rowans = [] ∧
      (∀ x ∈ xs, takes s hdr (waveOf s) x.1 = true ∧ x.1 < 64) ∧ (xs.map Prod.fst).Nodup ∧
      ∃ p, (waveOf s).prog = some p ∧ p.begun = true ∧ p.data = xs.map (fun x => x.1 + 1024 * x.2.toNat)) ∧
    (Issuing (asHelpers base) (waveOf (asHelpers base)) ∧ ∀ l, (takes (asHelpers base) hdr (waveOf (asHelpers base)) l && !(waveOf (asHelpers base)).helper.getLsbD l) = false) ∧
    (let s := locking 9 (vreg 0 5 base)
     Issuing s (waveOf s) ∧ takes s hdr (waveOf s) 0 = true ∧ okey s 0 = 5#64 ∧ ((waveOf s).lane 0).held0.isSome = true ∧ ((waveOf s).lane 0).held1.isSome = false) ∧
    (let f : VFields := { vf with ka := .sca, kb := .sca }
     let s := sreg 0 5 base
     (f.ka == .sca && f.kb != .vec) = true ∧ Issuing s (waveOf s) ∧ srcA hdr f (waveOf s) ((waveOf s).lane 0) 2 .plain = 5) := by
  refine ⟨⟨by decide, by decide, by decide, by decide, by decide, by decide, by unfold RowanRoom; decide, by decide⟩, by decide,
    ⟨by decide, by decide, by decide, by decide, by decide, by unfold RowanRoom; decide, by decide⟩,
    ⟨by decide, by decide, by decide, by decide, by unfold RowanRoom; decide, by decide, by decide, by decide, ⟨_, rfl, by decide⟩⟩, ⟨by decide, fun l => ?_⟩, by decide, by decide⟩
  cases h : takes (asHelpers base) hdr (waveOf (asHelpers base)) l
  · rfl
  · have : ∀ l < 8, (waveOf (asHelpers base)).helper.getLsbD l = true := by decide
    rw [this l (takes_lt _ _ _ l (by decide) h)]; rfl

theorem lane_zero (k : Nat) : (1#64).getLsbD k = true ↔ k = 0 := by simp

/-- Lane 0 leaves the section of key 5; the release of an ORDOUT; and a second team's lane waits there for number 1. -/
def leaving (e : Rowan) : State := { issue 1#64 (locking 5 (vreg 0 5 base)) with rowans := [e] }
def lastAccess : Acc :=
  { lane := 0, kind := .ordout, side := some 0, va := 0, pa := 0, len := 0, mtype := .homeonly, scope := 5, ord := 2, ch := 0, data := 5, state := .todo, result := 0 }
def releasing (e : Rowan) (s : State) : State := { owing (outOf base false .none [] [lastAccess]) s with rowans := [e] }
def next5 : Waiter := { team := 2, wave := 0, lane := 0 }
def await5 : Await := { key := 5#64, number := 1#32, space := false, len := 8, group := 1#64 }
def relaying : State :=
  (releasing (rowan 5 0 2 true [next5]) twoTeams).updWave { team := 2, wave := 0 }
    (fun w => { w with lanes := w.lanes.set 0 { w.lane 0 with await := some await5, wait := .ordin } })
def stalled (e : Rowan) (us : Nat) : State :=
  onRegs (fun r => { r with ordcfg := BitVec.ofNat 64 us }) ({ onWave (fun w => { w with lanes := w.lanes.set 0 { w.lane 0 with await := some await5, wait := .ordin } }) base with rowans := [e] })

set_option maxRecDepth 8192 in
theorem witness_OrderedExit :
    (let s := leaving (rowan 5 0 2 true [])
     Issuing s (waveOf s) ∧ (waveOf s).lanes.length ≤ 64 ∧ takes s hdr (waveOf s) 0 = true ∧ (waveOf s).helper = 0#64 ∧ okey s 0 = 5#64 ∧ ((waveOf s).lane 0).held0 = some (okey s 0) ∧
      (∀ l < 64, takes s hdr (waveOf s) l = true → l = 0) ∧ s.rowanOut = []) ∧
    (let s := issue 1#64 (vreg 0 5 base)
     takes s hdr (waveOf s) 0 = true ∧ okey s 0 = 5#64 ∧ ((waveOf s).lane 0).held0 ≠ some (okey s 0) ∧ ((waveOf s).lane 0).held1 ≠ some (okey s 0)) ∧
    (let f : VFields := { vf with ka := .sca }
     let s := sreg 0 5 (locking 5 base)
     Issuing s (waveOf s) ∧ takes s hdr (waveOf s) 0 = true ∧ (∀ l < 8, srcA hdr f (waveOf s) ((waveOf s).lane l) 2 .plain = 5 ∧ ((waveOf s).lane l).held0 = some 5#64) ∧ s.rowanOut = [] ∧
      ∀ l < 8, ((waveOf base).lane l).held0 = none ∧ ((waveOf base).lane l).held1 = none) ∧
    (let s := releasing (rowan 5 0 2 true []) base
     s.team? wref.team = some (teamOf s) ∧ s.wave? wref = some (waveOf s) ∧ (∃ o, (waveOf s).outs[0]? = some o ∧ o.accs[0]? = some lastAccess) ∧ s.accReady wref 0 0 = true ∧
      ((waveOf s).lane 0).relScopes = [] ∧ 0 < s.cores.length ∧ PlainCache s 0 ∧ Unmetered s 0 ∧ (waveOf s).lanes.length ≤ 64 ∧ s.rowanOut = [] ∧
      s.rowans.find? (fun e => e.asn == BitVec.ofNat 12 (s.block (teamOf s).launch).asn && e.space == false && e.key == 5#64) = some (rowan 5 0 2 true [])) ∧
    (let s := relaying
     let q : WaveRef := { team := 2, wave := 0 }
     s.team? wref.team = some (teamOf s) ∧ s.wave? wref = some (waveOf s) ∧ (∃ o, (waveOf s).outs[0]? = some o ∧ o.accs[0]? = some lastAccess) ∧ s.accReady wref 0 0 = true ∧
      0 < s.cores.length ∧ PlainCache s 0 ∧ Unmetered s 0 ∧
      s.rowans.find? (fun e => e.asn == BitVec.ofNat 12 (s.block (teamOf s).launch).asn && e.space == false && e.key == 5#64) = some (rowan 5 0 2 true [next5]) ∧
      ∃ v, s.wave? q = some v ∧ q ≠ wref ∧ v.lanes.length ≤ 64 ∧ (v.lane 0).await = some await5 ∧ 0 < v.lanes.length ∧ await5.group.getLsbD 0 = true ∧ (v.lane 0).live = true) ∧
    (∀ e ∈ [rowan 5 0 2 true [], rowan 5 0 0 false [{ team := 1, wave := 0, lane := 0 }]], ∀ us ∈ [0, 1], let s := stalled e us
     s.rowans.find? (fun x => x.asn == 0 && x.space == false && x.key == 5#64) = some e ∧ s.regs.ordcfg.toNat % 2 ^ 32 = us ∧ s.wave? wref = some (waveOf s) ∧
      (waveOf s).lanes.length ≤ 64 ∧ ((waveOf s).lane 0).await = some await5 ∧ 0 ≤ e.extra) ∧
    (let s := onRegs (fun r => { r with ready := true }) base
     s.regs.ready = true ∧ s.regs.recov = false ∧ s.rowanOut = [] ∧ (∃ l ∈ s.launches, l.block.asn = 0) ∧ ∀ l ∈ s.launches, l.block.asn ≠ 1) := by
  refine ⟨by decide, by decide, by decide,
    ⟨by decide, by decide, ⟨_, rfl, by decide⟩, by decide, by decide, ?_, plain_base _ (by decide) (by decide) (by decide), ⟨rfl, rfl⟩, by decide⟩,
    ⟨by decide, by decide, ⟨_, rfl, by decide⟩, by decide, ?_, plain_base _ (by decide) (by decide) (by decide), ⟨rfl, rfl⟩, by decide, ⟨_, rfl, by decide⟩⟩, by decide, by decide⟩
  all_goals (rw [cores_len _ rfl]; decide)

/-! ### Graphs -/

def up (s : State) : State := onRegs (fun r => { r with ready := true, recov := false }) s
def nodeOf (type : Nat) (body : List Nat) (preds : List Nat) (st : NodeState) : Node :=
  { type := type, preds := preds, body := (List.range 16).map (fun k => BitVec.ofNat 64 (body.getD k 0)), state := st, moved := 0, toks := [] }
def signal : Node := nodeOf 3 [] [] .waiting
def graph1 : Graph := { handle := 1#16, nodes := [signal], bytes := 256, freeing := false }
def replay1 (handle : Nat) (nodes : List Node) : Replay := { id := 7, handle := BitVec.ofNat 16 handle, kick := 0#64, nodes := nodes, ended := false }
/-- A patch table of one entry at 0x10400: word 6 of node 0 becomes 7. -/
def patchNat : Nat := 1 + 2 ^ 128 * (6 * 2 ^ 16) + 2 ^ 192 * 7
def graphed : State := { holding 0x10400 32 patchNat (up homed) with graphs := [graph1] }
/-- The image of a graph of one host signal, at 0x20000. -/
def imageNat : Nat := 1 + 256 * 2 ^ 32 + 3 * 2 ^ 512
def imaged : State := onRegs (fun r => { r with gimg := 0x20000#64 }) (holding 0x20000 256 imageNat (up base))

theorem patch_table (m : Nat → Byte) (a : Nat) (h0 : a % 64 = 0) (h1 : littleEndian m a 16 = 1) (h2 : littleEndian m (a + 16) 8 = 6 * 2 ^ 16)
    (h3 : littleEndian m (a + 24) 8 = 7) : PatchTable m a 1 [(0, 6, 7#64)] :=
  { place := h0
    count := ⟨by decide, h1⟩
    entries := fun i p h => by
      cases i with
      | zero => cases h; exact ⟨by decide, by decide, by decide, h2, h3⟩
      | succ i => cases i <;> cases h }

theorem near_here (s : State) (pa : Nat) (h : pa < nearTop) : s.region pa = .near := if_pos h

set_option maxRecDepth 8192 in
theorem witness_ReplaysAndGraphs :
    (let s := graphed
     Running s ∧ NoPromotion s ∧ s.replays.length < 64 ∧ s.graphs.find? (fun g => g.handle == (0x0001000000010400#64).extractLsb' 48 16 && !g.freeing) = some graph1 ∧
      s.graphs.find? (fun g => g.handle == (0x0002000000010400#64).extractLsb' 48 16 && !g.freeing) = none ∧ (0x0001000000010400#64).toNat % 2 ^ 48 = 0x10400 ∧
      (0x0001000000000000#64).toNat % 2 ^ 48 = 0 ∧ min 4096 (littleEndian (cellGet s.mem) 0x10400 16 % 2 ^ 16) = 1 ∧
      s.region 0x10400 = .near ∧ s.region (0x10400 + 15) = .near ∧ s.region (0x10400 + 15 + 16) = .near ∧ PatchTable (cellGet s.mem) 0x10400 1 [(0, 6, 7#64)] ∧
      s.region 0x3FFFFFFFFFFFF ≠ .near) ∧
    64 ≤ ({ base with replays := List.replicate 64 (replay1 1 []) } : State).replays.length ∧
    (let s := sreg 1 0x00010000 (sreg 0 0x10400 graphed)
     Issuing s (waveOf s) ∧ Acting s hdr (waveOf s) ∧ (waveOf s).outs = [] ∧ NoUpdates s ∧ (waveOf s).xl = [] ∧ BareCore s 0 ∧ WalkRoom s (waveOf s) ∧ NoPromotion s ∧
      (BitVec.signExtend 64 ((BitVec.ofNat 64 ((waveOf s).sr 0 + 2 ^ 32 * (waveOf s).sr 1)).setWidth 48)).toNat = 0x10400 ∧ Reads s (waveOf s) 0x10400 32 patchNat ∧
      PatchTable (numberByte patchNat 0x10400) 0x10400 1 [(0, 6, 7#64)]) ∧
    (let s := imaged
     Running s ∧ s.regs.gbusy = false ∧ s.readImage (s.regs.gimg.toNat % 2 ^ 52) = some [signal] ∧ (up base).readImage ((up base).regs.gimg.toNat % 2 ^ 52) = none ∧ s.graphs.length < 4096) ∧
    (onRegs (fun r => { r with gbusy := true }) base).regs.gbusy = true ∧
    (let s : State := { up base with graphs := [graph1, { graph1 with handle := 2#16 }], replays := [replay1 2 [signal]] }
     Running s ∧ s.regs.gbusy = false ∧ (∀ g ∈ s.graphs, g.freeing = false) ∧ (∀ r ∈ s.replays, r.handle ≠ 1#16) ∧ (∃ r ∈ s.replays, r.handle = 2#16) ∧ ∀ g ∈ s.graphs, g.handle ≠ 3#16) := by
  refine ⟨⟨by unfold Running; decide, ⟨by decide, cores_of _ _ rfl (by decide) (by decide)⟩, by decide, by decide, by decide, by decide, by decide, by decide,
      near_here _ _ (by decide), near_here _ _ (by decide), near_here _ _ (by decide), patch_table _ _ (by decide) (by decide) (by decide) (by decide), by decide⟩,
    Nat.le_of_eq (List.length_replicate (n := 64)).symm,
    ⟨by decide, ⟨0, by decide⟩, by decide, no_updates _ rfl rfl, by decide, by unfold BareCore; decide, room_here _ _ rfl, ⟨by decide, cores_of _ _ rfl (by decide) (by decide)⟩, by decide,
      reads_eq _ _ _ _ _ rfl rfl rfl (by decide) (by decide) (reads_here _ _ _ rfl rfl rfl rfl) (by decide) (by decide), patch_table _ _ (by decide) (by decide) (by decide) (by decide)⟩,
    ⟨by unfold Running; decide, by decide, by decide +kernel, by decide +kernel, by decide⟩, by decide, ⟨by unfold Running; decide, by decide⟩⟩

/-! ### Nodes and traced launches -/

/-- A page table for address space 0: 0x40000000 maps memory from 0 with every permission, 0x80000000 the same with none, and 0xC0000000 nothing. -/
def walked (s : State) : State :=
  onRegs (fun r => { r with astbase := 0x400000#64 })
    (holding 0x400000 8 0x8000000000100000 (holding 0x100000 8 0x200001 (holding 0x200008 16 (0x1F + 0x11 * 2 ^ 64) s)))
def leafAt (page : Nat) (p : BitVec 3) : TlbEntry := { asn := 0, page := page, log2 := 30, pa := 0, mtype := .cached, perms := p }
/-- The descriptor of set 1 at 0x30000: its trace area, its map, room for one team and one granule at 0x40000. -/
def descNat : Nat := 1 + 0x31000 * 2 ^ 64 + 0x32000 * 2 ^ 128 + 2 ^ 224 + 0x40000 * 2 ^ 256 + 2 ^ 320
def tracing (s : State) : State := onRegs (fun r => { r with trbase := 0x30000#64 }) (holding 0x30000 48 descNat s)
theorem desc_formed (s : State) (d : Nat) (hv : littleEndian (cellGet s.mem) d 8 = 1) (ha : littleEndian (cellGet s.mem) (d + 8) 8 = 0x31000)
    (hm : littleEndian (cellGet s.mem) (d + 16) 8 = 0x32000) (hc : littleEndian (cellGet s.mem) (d + 24) 4 = 0 ∧ littleEndian (cellGet s.mem) (d + 28) 4 = 1)
    (hr : ∀ i < 8, littleEndian (cellGet s.mem) (d + 32 + 16 * i) 8 = (if i = 0 then 0x40000 else 0) ∧ littleEndian (cellGet s.mem) (d + 40 + 16 * i) 8 = (if i = 0 then 1 else 0))
    (hz : ∀ k < 96, cellGet s.mem (d + 160 + k) = 0#8) : DescFormed s d := by
  have g : granuleSum s d = 1 := by
    unfold granuleSum
    simp only [List.range_succ_eq_map, List.range_zero, List.map_cons, List.map_nil, (hr 0 (by decide)).2, (hr 1 (by decide)).2, (hr 2 (by decide)).2,
      (hr 3 (by decide)).2, (hr 4 (by decide)).2, (hr 5 (by decide)).2, (hr 6 (by decide)).2, (hr 7 (by decide)).2]
    rfl
  have e : traceRanges s d = [(0x40000, 16384), (0, 0), (0, 0), (0, 0), (0, 0), (0, 0), (0, 0), (0, 0), (0x31000, 640), (0x32000, 128)] := by
    unfold traceRanges
    simp only [List.range_succ_eq_map, List.range_zero, List.map_cons, List.map_nil, (hr 0 (by decide)).2, (hr 1 (by decide)).2, (hr 2 (by decide)).2,
      (hr 3 (by decide)).2, (hr 4 (by decide)).2, (hr 5 (by decide)).2, (hr 6 (by decide)).2, (hr 7 (by decide)).2, (hr 0 (by decide)).1, (hr 1 (by decide)).1, (hr 2 (by decide)).1,
      (hr 3 (by decide)).1, (hr 4 (by decide)).1, (hr 5 (by decide)).1, (hr 6 (by decide)).1, (hr 7 (by decide)).1, g, ha, hm, hc.2]
    rfl
  exact
    { valid := hv
      area := by rw [ha]; decide
      map := by rw [hm]; decide
      cap := by rw [hc.1, hc.2]; decide
      regions := fun i hi => by rw [(hr i hi).1, (hr i hi).2]; exact (by decide : ∀ i < 8, (if i = 0 then 0x40000 else 0) < 2 ^ 52 ∧ (if i = 0 then 0x40000 else 0) % 16384 = 0 ∧ (if i = 0 then 1 else 0) < 2 ^ 27) i hi
      rest := hz
      size := by rw [g]; decide
      inside := fun r h x _ hx => by
        rw [e] at h
        have hb := (by decide : ∀ r ∈ [(0x40000, 16384), (0, 0), (0, 0), (0, 0), (0, 0), (0, 0), (0, 0), (0, 0), (0x31000, 640), (0x32000, 128)], r.1 + r.2 ≤ nearTop) r h
        unfold State.isDev
        rw [show s.region x = .near from if_pos (Nat.lt_of_lt_of_le hx hb)]
        rfl
      apart := by rw [e]; decide }
def tracedBlock : Block := fetchBlock.set 2 (BitVec.ofNat 64 (0x3C010000 + 2 ^ 39))
def inFlight (nodes : List Node) (s : State) : State := { s with replays := [replay1 1 nodes], nextLaunch := 2 }
def tracedLaunch (s : State) : State := onLaunch (fun l => { l with block := tracedBlock }) s

theorem flight (s : State) (nodes : List Node) (h : nodes.all (fun n => n.preds.isEmpty) = true) : InFlight (inFlight nodes s) (replay1 1 nodes) :=
  { there := by show [replay1 1 nodes].find? _ = _; simp [replay1]
    open' := rfl
    order := fun k nd hk p hp => by
      have := List.all_eq_true.mp h nd (List.mem_of_getElem? hk)
      rw [List.isEmpty_iff.mp this] at hp
      cases hp }

theorem flight_after (s : State) (a b : Node) (ha : a.preds = []) (hb : b.preds = [0]) : InFlight (inFlight [a, b] s) (replay1 1 [a, b]) :=
  { there := by show [replay1 1 [a, b]].find? _ = _; simp [replay1]
    open' := rfl
    order := fun k nd hk p hp => by
      match k, hk with
      | 0, hk => cases hk; rw [ha] at hp; cases hp
      | 1, hk => cases hk; rw [hb] at hp; rw [List.mem_singleton.mp hp]; decide }

/-- A set whose descriptor holds zeros cannot be used; one whose descriptor is well formed, with room for the teams, can. -/
theorem bad_set (s : State) (b : Block) (h : b.tset ≠ 0) (hz : littleEndian (cellGet s.mem) (s.setDesc b.tset) 8 ≠ 1) : SetBad s b := ⟨h, .inl (fun g => hz g.valid)⟩
theorem good_set (s : State) (b : Block) (hn : b.tset = 1) (hd : DescFormed s (s.setDesc 1)) (hg : b.grid ≤ littleEndian (cellGet s.mem) (s.setDesc 1 + 28) 4) : ¬ SetBad s b := by
  rintro ⟨_, h | h⟩
  · rw [hn] at h; exact h hd
  · rw [hn] at h; exact absurd hg (Nat.not_le.mpr h)
/-- The descriptor of set 1 in a state whose memory is that of `tracing base`. -/
theorem desc_here (s : State) (hm : s.mem = (tracing base).mem) (ht : s.regs.trbase = 0x30000#64) : DescFormed s (s.setDesc 1) := by
  have e : s.setDesc 1 = 0x30000 := by unfold State.setDesc; rw [ht]; rfl
  rw [e]
  exact desc_formed _ _ (by rw [hm]; decide +kernel) (by rw [hm]; decide +kernel) (by rw [hm]; decide +kernel) (by rw [hm]; decide +kernel) (by rw [hm]; decide +kernel) (by rw [hm]; decide +kernel)

def blockNode (b : Block) (st : NodeState) : Node := { nodeOf 0 [] [] st with body := b }
/-- A relaunch node of node 0, ready to start. -/
def relaunchNode : Node := nodeOf 2 [0] [0] .waiting
def copyNode (src dst n : Nat) : Node := nodeOf 1 [src, dst, n, 0] [] .running
def waitNode (va v : Nat) : Node := nodeOf 4 [va, v, 0] [] .running

set_option maxRecDepth 8192 in
theorem witness_GraphNodes :
    (∀ nd ∈ [blockNode [] .waiting, blockNode fetchBlock .waiting, blockNode tracedBlock .waiting, nodeOf 3 [0, 1] [] .waiting, nodeOf 1 [] [] .waiting, nodeOf 4 [] [] .waiting, signal],
      InFlight (inFlight [nd] base) (replay1 1 [nd]) ∧ nd.state = .waiting ∧ nd.preds = []) ∧
    Block.malformed [] = true ∧ Block.malformed fetchBlock = false ∧ Block.tset fetchBlock = 0 ∧ FreshLaunch (inFlight [] base) ∧ Block.malformed tracedBlock = false ∧ Block.tset tracedBlock = 1 ∧
    SetBad base tracedBlock ∧ ¬ SetBad (tracedLaunch (tracing base)) tracedBlock ∧ (∃ l ∈ (tracedLaunch (tracing base)).launches, Block.tset l.block = 1) ∧
    (nodeOf 3 [0, 1] [] .waiting).bodyOk [] 0 = false ∧ (nodeOf 1 [] [] .waiting).bodyOk [] 0 = true ∧ (nodeOf 4 [] [] .waiting).bodyOk [] 0 = true ∧ signal.bodyOk [] 0 = true ∧
    (∀ b ∈ [fetchBlock, tracedBlock], let k := blockNode b .done
     InFlight (inFlight [k, relaunchNode] base) (replay1 1 [k, relaunchNode]) ∧ relaunchNode.bodyOk [k, relaunchNode] 1 = true ∧ k.state = .done) ∧
    NoPromotion (walked base) ∧ (walked base).poison = [] ∧ (walked base).hostAtomics = [] ∧
    (∀ nd ∈ [copyNode 0x40010000 0x40020000 0, copyNode 0x40010000 0x40020000 64, copyNode 0x40010000 0x40020000 512, copyNode (2 ^ 60) 0x40020000 64, copyNode 0xC0000000 0x40020000 64,
        copyNode 0x40010000 0x80020000 64, copyNode 0x40010000 0xC0020000 64, waitNode (2 ^ 60) 0, waitNode 0xC0000000 0, waitNode 0x80010000 0, waitNode 0x40010000 0, waitNode 0x40010000 9, blockNode fetchBlock .running],
      InFlight (inFlight [nd] (walked base)) (replay1 1 [nd]) ∧ nd.state = .running ∧ nd.toks = [] ∧ nd.moved = 0) ∧
    canonical 0x40010000 = true ∧ canonical 0x40020000 = true ∧ canonical (2 ^ 60) = false ∧
    (∃ x, (walked base).walk 0 0x40010000 = .ok x ∧ x.perms = 7#3 ∧ x.mtype = .cached) ∧ (∃ y, (walked base).walk 0 0x40020000 = .ok y ∧ y.perms = 7#3 ∧ y.mtype = .cached ∧ (y.at 0x40020000).pa = 0x20000) ∧
    (∃ x, (walked base).walk 0 0x80010000 = .ok x ∧ x.perms = 0#3) ∧ (walked base).walk 0 0xC0000000 = .fault 1 2 ∧ Untraced (walked base) 0x20000 64 ∧
    (∀ r ∈ [0, 1], let s := onLaunch (fun l => { l with replay := r }) (inFlight [blockNode fetchBlock .running] base)
     s.launches.find? (fun l => l.replay == 7 && l.node == 0 && l.task.isNone) = none ∧ s.launches.length = 1) ∧
    (let s := onLaunch (fun l => { l with replay := 7 }) (inFlight [blockNode fetchBlock .running] base)
     s.launches.find? (fun l => l.replay == 7 && l.node == 0 && l.task.isNone) = some (launchOf s) ∧ (∃ t ∈ s.teams, t.launch = (launchOf s).id)) ∧
    (let s : State := { onLaunch (fun l => { l with replay := 7 }) (inFlight [blockNode fetchBlock .running] base) with teams := [] }
     (∃ l, s.launches = [l] ∧ s.launches.find? (fun l => l.replay == 7 && l.node == 0 && l.task.isNone) = some l ∧ l.unplaced = [] ∧ l.returned = [] ∧ l.burrow = [] ∧ l.heldKeys = [] ∧ Block.tset l.block = 0) ∧
      s.images = [] ∧ s.relaunches = [] ∧ ∀ c ∈ s.cores, c.cache = [] ∧ c.draining = []) := by
  refine ⟨?_, by decide, by decide, by decide, by unfold FreshLaunch; decide, by decide, by decide, bad_set _ _ (by decide) (by decide), good_set _ _ (by decide) (desc_here _ rfl rfl) (by decide +kernel), ⟨_, List.mem_singleton.mpr rfl, by decide⟩, by decide, by decide, by decide, by decide, ?_,
    ⟨by decide, cores_of _ _ rfl (by decide) (by decide)⟩, rfl, rfl, ?_, by decide, by decide, by decide, ⟨leafAt 1 7, by decide +kernel, rfl, rfl⟩, ⟨leafAt 1 7, by decide +kernel, rfl, rfl, rfl⟩, ⟨leafAt 2 0, by decide +kernel, rfl⟩, by decide +kernel,
    untraced_base _ _ (by decide) _ rfl (by decide +kernel), by decide, ⟨by decide, ⟨_, List.mem_singleton.mpr rfl, by decide⟩⟩, ⟨⟨_, rfl, by decide⟩, by decide, by decide, cores_of _ _ rfl (by decide) (by decide)⟩⟩
  · intro nd h
    have e : nd.preds.isEmpty = true ∧ nd.state = .waiting := by revert nd; decide
    exact ⟨flight _ _ (by simp [e.1]), e.2, List.isEmpty_iff.mp e.1⟩
  · intro b h
    exact ⟨flight_after _ _ _ rfl rfl, by revert b; decide, rfl⟩
  · intro nd h
    have e : nd.preds.isEmpty = true ∧ nd.state = .running ∧ nd.toks = [] ∧ nd.moved = 0 := by revert nd; decide
    exact ⟨flight _ _ (by simp [e.1]), e.2⟩

/-- A traced launch whose wave has an address in s0:s1, a length in s20 and a block at 0x10800 in memory. -/
def relaunching (b : Block) : State := sreg 0 0x10800 (holding 0x10800 128 (blockNat b) (tracedLaunch (tracing homed)))
def otherSet : Block := fetchBlock.set 2 (BitVec.ofNat 64 (0x3C010000 + 2 * 2 ^ 39))
def queuedRelaunch (b : Block) (s : State) : State := { s with relaunches := [{ id := 3, replay := 0, node := 0, block := b, issuer := 1 }], nextLaunch := 2 }

set_option maxRecDepth 8192 in
theorem witness_TracedRelaunches :
    (∀ n ∈ [0, 4, 0xFFFFFFFF], ∀ hi ∈ [0, 0x10000000], let s := sreg 1 hi (sreg 20 n (tracedLaunch (tracing (aimed))))
     Issuing s (waveOf s) ∧ takes s hdr (waveOf s) 0 = true ∧ (waveOf s).helper.getLsbD 0 = false ∧ s.team? s.cur.team = some (teamOf s) ∧ (waveOf s).xl = [] ∧
      (waveOf s).sr yf.d.toNat = n ∧ (waveOf s).sr 0 + 2 ^ 32 * (waveOf s).sr 1 = 0x10000 + 2 ^ 32 * hi) ∧
    canonical (0x10000 + 2 ^ 32 * 0x10000000) = false ∧
    (let s := tracedLaunch (tracing aimed)
     (∀ e ∈ (s.core 0).tlb, 12 ≤ e.log2) ∧ (s.block (teamOf s).launch).tset ≠ 0 ∧ (teamOf s).formed = false ∧
      ∀ i < 4, canonical (0x10000 + i) = true ∧ s.look [] 0 s.curAsn (0x10000 + i) = .hit (here (0x10000 + i) .cached 7) ∧
        (s.core 0).tlb.find? (fun e => e.covers s.curAsn (0x10000 + i)) ≠ none ∧ s.isDev (0x10000 + i) = true) ∧
    (aimed.block (teamOf aimed).launch).tset = 0 ∧
    (∀ b ∈ [badBlock, fetchBlock, tracedBlock, otherSet], let s := relaunching b
     Issuing s (waveOf s) ∧ takes s hdr (waveOf s) 0 = true ∧ (waveOf s).helper.getLsbD 0 = false ∧ s.team? s.cur.team = some (teamOf s) ∧
      s.launch? (teamOf s).launch = some (launchOf s) ∧ (waveOf s).outs = [] ∧ (waveOf s).xl = [] ∧ s.replays.length < 64 ∧ (waveOf s).sr 0 + 2 ^ 32 * (waveOf s).sr 1 = 0x10800) ∧
    BareCore (relaunching tracedBlock) 0 ∧ 0x10801 % 64 ≠ 0 ∧
    (∀ b ∈ [[], fetchBlock, tracedBlock, otherSet], Reads (relaunching b) (waveOf (relaunching b)) 0x10800 128 (blockNat b)) ∧
    (∀ b ∈ [badBlock, fetchBlock, tracedBlock, otherSet], NoUpdates (relaunching b) ∧ WalkRoom (relaunching b) (waveOf (relaunching b))) ∧
    Block.malformed [] = true ∧ Block.malformed otherSet = false ∧ Block.tset otherSet = 2 ∧ (launchOf (relaunching [])).block.tset = 1 ∧
    (∀ b ∈ [tracedBlock, otherSet], let s := queuedRelaunch b (tracedLaunch (tracing base))
     (s.relaunches.find? (fun x => x.id == 3)).isSome = true) ∧
    (∃ l ∈ (tracedLaunch (tracing base)).launches, l.block.tset = 1) ∧ (∀ l ∈ (tracedLaunch (tracing base)).launches, l.block.tset ≠ 2) ∧
    SetBad (queuedRelaunch otherSet (tracedLaunch (tracing base))) otherSet ∧
    (let s : State := { inFlight [{ relaunchNode with state := .running, preds := [] }] (tracing base) with relaunches := [{ id := 3, replay := 7, node := 0, block := otherSet, issuer := 0 }] }
     InFlight s (replay1 1 [{ relaunchNode with state := .running, preds := [] }]) ∧ SetBad s otherSet ∧ (∀ l ∈ s.launches, l.block.tset ≠ 2)) ∧
    (let s := queuedRelaunch tracedBlock (tracing base)
     (∀ l ∈ s.launches, l.block.tset ≠ 1) ∧ ¬ SetBad s tracedBlock ∧ FreshLaunch s ∧
      (∀ i < 15, i + 1 ≠ 1 → (cellGet s.mem (s.setDesc (i + 1))).getLsbD 0 = false ∧ ∀ q ∈ [(descArea s.mem (s.setDesc 1), areaBytes (descCap s.mem (s.setDesc 1))), (descMap s.mem (s.setDesc 1), 128)],
        s.setDesc (i + 1) < q.1 ∨ q.1 + q.2 ≤ s.setDesc (i + 1)) ∧
      (∀ q ∈ [(descArea s.mem (s.setDesc 1), areaBytes (descCap s.mem (s.setDesc 1))), (descMap s.mem (s.setDesc 1), 128)], s.setDesc 1 + 256 ≤ q.1 ∨ q.1 + q.2 ≤ s.setDesc 1)) := by
  refine ⟨by decide, by decide, by decide, by decide, by decide +kernel, by unfold BareCore; decide, by decide, ?_, fun b h => ⟨no_updates _ rfl rfl, room_here _ _ ((by decide : ∀ b ∈ [badBlock, fetchBlock, tracedBlock, otherSet],
      ((relaunching b).die ((waveOf (relaunching b)).core / 32)).missq = []) b h)⟩,
    by decide, by decide, by decide, by decide, by decide, ⟨_, List.mem_singleton.mpr rfl, by decide⟩, by decide, bad_set _ _ (by decide) (by decide +kernel),
    ⟨{ there := rfl, open' := rfl, order := fun k nd hk p hp => by cases k with | zero => cases hk; cases hp | succ k => cases hk }, bad_set _ _ (by decide) (by decide +kernel), by decide⟩,
    by decide, good_set _ _ (by decide) (desc_here _ rfl rfl) (by decide +kernel), by unfold FreshLaunch; decide, by decide +kernel, by decide +kernel⟩
  intro b h
  rcases List.mem_cons.mp h with rfl | h
  · exact reads_eq _ _ _ _ _ rfl rfl rfl (by decide) (by decide) (reads_here _ _ _ rfl rfl rfl rfl) (by decide) (by decide +kernel)
  · rcases List.mem_cons.mp h with rfl | h
    · exact reads_eq _ _ _ _ _ rfl rfl rfl (by decide) (by decide) (reads_here _ _ _ rfl rfl rfl rfl) (by decide) (by decide +kernel)
    · rcases List.mem_cons.mp h with rfl | h
      · exact reads_eq _ _ _ _ _ rfl rfl rfl (by decide) (by decide) (reads_here _ _ _ rfl rfl rfl rfl) (by decide) (by decide +kernel)
      · rcases List.mem_cons.mp h with rfl | h
        · exact reads_eq _ _ _ _ _ rfl rfl rfl (by decide) (by decide) (reads_here _ _ _ rfl rfl rfl rfl) (by decide) (by decide +kernel)
        · cases h

/-- A traced kernel node that may start, and one whose launch has ended. -/
def tracedStart : State := inFlight [blockNode tracedBlock .waiting] (tracing base)
def tracedEnd : State := { onLaunch (fun l => { l with replay := 7, block := tracedBlock }) (inFlight [blockNode tracedBlock .running] (tracing base)) with teams := [] }
def tracedLast : Launch := { launchOf base with replay := 7, block := tracedBlock }

set_option maxRecDepth 8192 in
theorem witness_TracedKernels :
    (∀ s ∈ [tracedStart, tracedEnd], s.setDesc 1 = 0x30000 ∧ (traceRanges s 0x30000).drop 8 = [(0x31000, 640), (0x32000, 128)] ∧
      ∀ i < 15, i + 1 ≠ 1 → (cellGet s.mem (s.setDesc (i + 1))).getLsbD 0 = false ∧ ∀ p ∈ [(0x31000, 640), (0x32000, 128)], s.setDesc (i + 1) < p.1 ∨ p.1 + p.2 ≤ s.setDesc (i + 1)) ∧
    (∀ p ∈ [(0x31000, 640), (0x32000, 128)], 0x30000 + 256 ≤ p.1 ∨ p.1 + p.2 ≤ 0x30000) ∧
    (let s := tracedStart
     InFlight s (replay1 1 [blockNode tracedBlock .waiting]) ∧ Block.malformed tracedBlock = false ∧ Block.tset tracedBlock = 1 ∧ ¬ SetBad s tracedBlock ∧
      (∀ l ∈ s.launches, Block.tset l.block ≠ 1) ∧ FreshLaunch s) ∧
    (let s := tracedEnd
     let l := tracedLast
     InFlight s (replay1 1 [blockNode tracedBlock .running]) ∧ s.launches = [l] ∧ s.launches.find? (fun l => l.replay == 7 && l.node == 0 && l.task.isNone) = some l ∧
      Block.tset l.block = 1 ∧ l.unplaced = [] ∧ l.returned = [] ∧ l.burrow = [] ∧ l.heldKeys = [] ∧ l.failed = 0 ∧ l.trapped = false ∧ s.teams = [] ∧ s.images = [] ∧ s.relaunches = [] ∧
      (∀ c ∈ s.cores, c.cache = [] ∧ c.draining = []) ∧ DescFormed s (s.setDesc 1)) := by
  refine ⟨?_, by decide, ⟨flight _ _ (by decide), by decide, by decide, good_set _ _ (by decide) (desc_here _ rfl rfl) (by decide +kernel), by decide, by unfold FreshLaunch; decide⟩,
    ⟨{ there := rfl, open' := rfl, order := fun k nd hk p hp => by cases k with | zero => cases hk; cases hp | succ k => cases hk }, by decide +kernel, by decide +kernel, by decide, by decide, by decide, by decide, by decide, by decide, by decide, by decide, by decide, by decide,
      cores_of _ _ rfl (by decide) (by decide), desc_here _ rfl rfl⟩⟩
  intro s h
  rcases List.mem_cons.mp h with rfl | h
  · decide +kernel
  · rw [List.mem_singleton.mp h]; decide +kernel

/-! ### Placing, pools and pre-emption -/

/-- A task block of class 2, to which every pool is set at reset; one that has also retired what it expects; one that may be flushed. -/
def clsBlock : Block := taskBlock.set 2 0x000000027C010000#64
def flushBlock : Block := clsBlock.set 2 0x000000227C010000#64
/-- The same for a concurrent launch, and for a weakly parallel one. -/
def concBlock : Block := clsBlock.set 2 0x000000023C010000#64
def flushConc : Block := clsBlock.set 2 0x000000223C010000#64
def weakBlock : Block := clsBlock.set 2 0x00000002BC010000#64
def seat0 : Place := { core := 0, seats := [(0, 0, 0)], units := [] }
/-- One launch with team 0 to place, on an empty device. -/
def idling (b : Block) : State := { base with teams := [], launches := [newLaunch b 1 0 0 0 [0]] }
def sated (s : State) : State := { s with dies := s.dies.map (fun d => { d with sat := true }) }
/-- A launch with one record in its Burrow. -/
def record1 (o : Option WaveRef) : BurrowRec := { addr := 0x10C00, bytes := 64, pc := 0x10000#64, key := 0#16, origin := o }
def forming (o : Option WaveRef) : State := { base with launches := [{ newLaunch clsBlock 1 0 0 0 [] with burrow := [record1 o] }] }

set_option maxRecDepth 8192 in
theorem witness_PlacingAndForming :
    (let s := idling clsBlock
     let l := newLaunch clsBlock 1 0 0 0 [0]
     s.launches = [l] ∧ s.images = [] ∧ l.block.prog ≠ 0 ∧ l.unplaced = [0] ∧ l.returned = [] ∧ l.burrow = [] ∧ s.placesNow l = true ∧
      s.findPlace l.block l.id l.block.waves = some seat0 ∧ s.findPlace (clsBlock.set 2 0x000000017C010000#64) 2 1 = none) ∧
    (let s := idling concBlock
     let l := newLaunch concBlock 1 0 0 0 [0]
     s.launches = [l] ∧ l.block.prog = 0 ∧ l.burrow = [] ∧ l.returned = [] ∧ s.images = [] ∧ s.placesNow l = true) ∧
    (∀ l ∈ base.launches, base.placesNow l = false) ∧
    (∀ o ∈ [none, some wref], let s := forming o
     let l := launchOf s
     s.launch? l.id = some l ∧ s.launches = [l] ∧ l.window 0x10000 = [record1 o] ∧ l.window 0x10008 = [] ∧ l.block.width = 8 ∧ (s.findPlace l.block l.id 1).map Place.core = some 0) ∧
    depositorsDone (forming none) (launchOf (forming none)) 0x10000 ∧ ¬ depositorsDone (forming (some wref)) (launchOf (forming (some wref))) 0x10000 ∧
    (forming none).poison = [] ∧
    (let s := forming none
     s.look [] 0 (BitVec.ofNat 12 (launchOf s).block.asn) 0x10C00 = .hit (hereAs .cached 0x10C00) ∧
      (s.core 0).tlb.find? (fun e => e.covers (BitVec.ofNat 12 (launchOf s).block.asn) 0x10C00) ≠ none ∧ recordBytes (launchOf s).block.spawnRegs ≤ (record1 none).bytes) := by
  refine ⟨by decide +kernel, by decide +kernel, by decide +kernel, by decide +kernel, ?_, ?_, by decide, by decide⟩
  · intro r hr _ o w ho
    rw [List.mem_singleton.mp hr] at ho; cases ho
  · intro h
    have hp : (waveOf (forming (some wref))).park = .none := by decide
    have hc : (waveOf (forming (some wref))).calls = [] := by decide
    have hm : (waveOf (forming (some wref))).liveMask.getLsbD 0 = true := by decide
    rcases h (record1 (some wref)) (List.mem_singleton.mpr rfl) (.inr rfl) wref (waveOf (forming (some wref))) rfl (by decide) with h | ⟨_, _, h⟩ | ⟨_, _, _, _, _, _, _, _, h⟩ | ⟨_, _, _, _, h⟩ | ⟨_, h⟩ | h
    · exact absurd h (by decide)
    · rw [hp] at h; cases h
    · rw [hp] at h; cases h
    · rw [hp] at h; cases h
    · obtain ⟨c, hc', _⟩ := h 0 (by decide) hm; rw [hc] at hc'; cases hc'
    · exact absurd h (by decide)

/-- A team of a launch of class 2, and a second launch of class 2 that finds no room. -/
def contended (b : Block) (retired ctx : Nat) (p : Phase) : State :=
  onRegs (fun r => { r with ctxsize := BitVec.ofNat 16 ctx, ctxbase := 0x1000000#64 })
    (sated (onTeam (fun t => { t with retired := retired, phase := p }) { base with launches := [newLaunch b 1 0 0 0 [], newLaunch clsBlock 2 0 0 1 [0]] }))

set_option maxRecDepth 8192 in
theorem witness_PoolsAndPreemption :
    (base.launch? 1 = some (launchOf base) ∧ (launchOf base).unplaced = [] ∧ base.images = [] ∧ (launchOf (idling clsBlock)).unplaced ≠ [] ∧ (idling clsBlock).launch? 1 = some (launchOf (idling clsBlock))) ∧
    (let s := forming none
     s.launch? 1 = some (launchOf s) ∧ (launchOf s).unplaced = [] ∧ s.images = [] ∧ ∃ r ∈ (launchOf s).burrow, s.formable (launchOf s) r.pc = true) ∧
    base.waitingLaunches = [] ∧
    (let s := (idling taskBlock).updDie 1 (fun d => { d with reassign := some taskBlock.opclass })
     s.waitingLaunches = [newLaunch taskBlock 1 0 0 0 [0]] ∧ ∃ d ∈ s.dies, d.reassign = some taskBlock.opclass) ∧
    ((sated (idling clsBlock)).waitingLaunches = [newLaunch clsBlock 1 0 0 0 [0]] ∧ ∀ d < 8, ((sated (idling clsBlock)).die d).opclass = clsBlock.opclass) ∧
    (idling clsBlock).dies.length = 8 ∧
    (let s := idling taskBlock
     s.waitingLaunches = [newLaunch taskBlock 1 0 0 0 [0]] ∧ (∀ d ∈ s.dies, d.reassign = none) ∧ s.teams = [] ∧ (s.die 0).reassign = none ∧ (s.die 0).opclass ≠ taskBlock.opclass ∧ 0 < s.dies.length) ∧
    (base.die 0).reassign = none ∧
    (let s := base.updDie 0 (fun d => { d with reassign := some 3 })
     (s.die 0).reassign = some 3 ∧ s.regs.metcls[3]? = some 0x3000#64) ∧
    (∀ b ∈ [clsBlock.set 4 10#64, flushBlock, clsBlock], ∀ ctx ∈ [0, 1], ∀ p ∈ [Phase.running, .draining], let s := contended b 10 ctx p
     s.team? 1 = some (teamOf s) ∧ s.launch? 1 = some (newLaunch b 1 0 0 0 []) ∧ s.teams = [teamOf s] ∧ s.waitingLaunches = [newLaunch clsBlock 2 0 0 1 [0]] ∧
      effective (newLaunch b 1 0 0 0 []) ≤ effective (newLaunch clsBlock 2 0 0 1 [0]) ∧ s.images = [] ∧ (teamOf s).leavesFor ≠ 2 ∧ (s.die 0).opclass = clsBlock.opclass ∧ s.regs.tslice ≠ 0 ∧ (teamOf s).phase = p ∧ Block.prog b = 1) ∧
    (let b : Block := clsBlock.set 4 10#64
     b.expect ≠ 0 ∧ 9 * b.expect ≤ 10 * 10 ∧ b.expect - 10 ≤ base.regs.precfg.toNat / 2 ^ 32) ∧ clsBlock.expect = 0 ∧ flushBlock.expect = 0 ∧ clsBlock.idem = false ∧
    (let s := contended flushConc 10 0 .running
     Block.prog flushConc = 0 ∧ flushConc.idem = true ∧ s.team? 1 = some (teamOf s) ∧ s.launch? 1 = some (newLaunch flushConc 1 0 0 0 []) ∧ s.teams = [teamOf s] ∧
      s.waitingLaunches = [newLaunch clsBlock 2 0 0 1 [0]] ∧ (s.die 0).opclass = clsBlock.opclass) ∧
    (let s := contended weakBlock 10 1 .running
     Block.prog weakBlock = 2 ∧ s.launch? 1 = some (newLaunch weakBlock 1 0 0 0 []) ∧ (teamOf s).formed = false ∧ s.teams = [teamOf s] ∧ s.waitingLaunches = [newLaunch clsBlock 2 0 0 1 [0]]) ∧
    (let s := contended flushBlock 10 0 .running
     flushBlock.idem = true ∧ (teamOf s).escape = false ∧ (teamOf s).formed = false ∧ ∀ w ∈ (teamOf s).waves, ∀ l ∈ w.lanes, l.held0 = none ∧ l.held1 = none ∧ l.await = none) ∧
    (let s := contended clsBlock 10 1 .running
     s.regs.ctxsize ≠ 0 ∧ s.poolRoom [teamOf s] = true) := by
  refine ⟨by decide, by decide +kernel, by decide +kernel, by decide +kernel, by decide +kernel, by decide, by decide +kernel, by decide, by decide, by decide +kernel, by decide, by decide, by decide, by decide,
    by decide +kernel, by decide +kernel, by decide, by decide +kernel⟩

def flushed (p : Phase) : State := onTeam (fun t => { t with phase := p }) base
def pooled (p : Phase) : State := onRegs (fun r => { r with ctxsize := 1#16, ctxbase := 0x1000000#64 }) (flushed p)
def image1 : Image := { id := 5, launch := 1, rank := 0, base := 0x1000000, bytes := imageSize clsBlock 1, team := 9, ids := (0, 0, 0), formed := false, parks := [], calls := [] }
def resting : State := { holding 0x100000D 1 1 (idling clsBlock) with images := [image1] }

theorem still_base (p : Phase) (h : ∀ w ∈ (teamOf (flushed p)).waves, w.outs = [] ∧ w.prog = none) : Still (flushed p) (teamOf (flushed p)) :=
  ⟨h, cores_of (flushed p) _ rfl (by constructor; intro d hd; cases hd; constructor; intro d hd; cases hd; intro d hd; cases hd)
    (by constructor; intro d hd; cases hd; constructor; intro d hd; cases hd; intro d hd; cases hd)⟩

theorem no_table : Core.reset.rings = [] ∧ ∀ e, some e ∈ Core.reset.holly → e.team ≠ 1 :=
  ⟨rfl, fun e h => by have := List.eq_of_mem_replicate (show some e ∈ List.replicate 256 none from h); cases this⟩

set_option maxRecDepth 8192 in
theorem witness_SaveAndRestore :
    (∀ p ∈ [Phase.running, .flushing], let s := flushed p
     s.team? 1 = some (teamOf s) ∧ s.launch? 1 = some (launchOf s) ∧ s.teams = [teamOf s] ∧ s.rowans = [] ∧ (teamOf s).phase = p ∧ s.poisonRegs = [] ∧ (launchOf s).unplaced = []) ∧
    Still (flushed .flushing) (teamOf (flushed .flushing)) ∧ (∀ c ∈ base.cores, c.rings = [] ∧ ∀ e, some e ∈ c.holly → e.team ≠ 1) ∧
    (let s := onTeam (fun t => { t with formed := true }) (flushed .flushing)
     s.team? 1 = some (teamOf s) ∧ (teamOf s).formed = true ∧ (teamOf s).phase = .flushing ∧ s.teams = [teamOf s]) ∧
    (let s := pooled (.saving 3)
     let b := (launchOf s).block
     s.team? 1 = some (teamOf s) ∧ s.launch? 1 = some (launchOf s) ∧ s.teams = [teamOf s] ∧ (teamOf s).phase = .saving 3 ∧ s.rowans = [] ∧
      s.poolPlace ((imageSize b 1 + 65535) / 65536 * 65536) = some 0x1000000 ∧ (teamOf s).waves.length = 1 ∧ (teamOf s).vregs = b.vregs ∧ (teamOf s).scratchBytes = b.scratch ∧
      (teamOf s).obufBytes = b.obuf ∧ (teamOf s).pair = b.pair ∧ (teamOf s).tiles = b.tiles ∧ (∀ w ∈ (teamOf s).waves, w.id = 0 ∧ w.lanes.length = b.width ∧ ∀ ln ∈ w.lanes, ln.badRec = none) ∧
      (∀ x ∈ (teamOf s).barriers, x.count < 256) ∧ (teamOf s).retired = 0 ∧ (teamOf s).recorded = [] ∧
      ∀ w ∈ (teamOf s).waves, w.calls = [] ∧ (∀ ln ∈ w.lanes, ln.stall = none) ∧ ∀ q ∈ w.streams, q.bound = false) ∧
    (∀ c ∈ (pooled (.saving 3)).cores, c.cache = [] ∧ c.draining = [] ∧ c.notices = []) ∧ Untraced (pooled (.saving 3)) 0x1000000 (imageSize clsBlock 1) ∧
    (let s := resting
     s.images.find? (fun x => x.id == 5) = some image1 ∧ s.launch? 1 = some (launchOf s) ∧ (launchOf s).block.prog ≠ 0 ∧ s.imagesOf (launchOf s) = [image1] ∧
      s.launches = [launchOf s] ∧ image1.seen = [] ∧ littleEndian (cellGet s.mem) 0x1000A00 4 = 0 ∧
      (∀ j < (launchOf s).block.width, (cellGet s.mem (0x1000A00 + 0x600 + 64 * j + 0x0A)).getLsbD 0 = false) ∧ (cellGet s.mem (0x1000000 + 0x00D)).toNat = 1 ∧ s.findPlace (launchOf s).block 1 1 = some seat0) := by
  refine ⟨by decide, still_base _ (by decide), cores_of _ _ rfl no_table no_table, by decide, by decide +kernel, cores_of _ _ rfl (by decide) (by decide), untraced_base _ _ (by decide) _ rfl (by decide), by decide +kernel⟩

/-! ### Walks, invalidation and microcode slots -/

def onDie (f : Die → Die) (s : State) : State := s.updDie 0 f
def miss (page : Nat) (ws : List WaveRef) : Miss := { core := 0, asn := 0, page := page, waiters := ws }
def walking (page : Nat) (pos : Option (Nat × Nat)) : State :=
  onDie (fun d => { d with walks := [{ miss page [wref] with pos := pos }] }) (onWave (fun w => { w with park := .walk [page] }) (walked base))
def entry1 : TlbEntry := { asn := 0, page := 0x10, log2 := 12, pa := 0x10000, mtype := .cached, perms := 7 }
def invalidating (b : Bool) (s : State) : State := onRegs (fun r => { r with ready := true, recov := false, tlbiBusy := b }) s

theorem unspoiled (s : State) (a : Nat) (h : s.poison = []) : ¬ Spoiled s a := by rintro ⟨p, hp, _⟩; rw [h] at hp; cases hp

/-- The table of level 2 of `walked`: the page of index 1 maps, that of index 3 does not. -/
theorem walk_table (s : State) (hm : s.mem = (walked base).mem) (hp : s.poison = []) :
    WalkEnds s 0 0x40000000 3 0x100000 (.ok (leafAt 1 7)) ∧ WalkEnds s 0 0xC0000000 3 0x100000 (.fault 1 2) := by
  have up : ∀ va, Safety.entryAt s va 3 0x100000 = 0x200001 → ¬ BadEntry s 3 (0x200001) := by
    intro va _ h
    unfold BadEntry at h
    rcases h with h | h | h | h | h | h | h | h
    · revert h; decide
    · revert h; decide
    · revert h; decide
    · revert h; decide
    · revert h; decide
    · revert h; decide
    · rcases h.2 with h | h | h
      · revert h; decide
      · revert h; decide
      · exact h (.inl (near_here _ _ (by decide)))
    · exact absurd h.1 (by decide)
  have e3 : Safety.entryAt s 0x40000000 3 0x100000 = 0x200001 ∧ Safety.entryAt s 0xC0000000 3 0x100000 = 0x200001 ∧
      Safety.entryAt s 0x40000000 2 0x200000 = 0x1F ∧ Safety.entryAt s 0xC0000000 2 0x200000 = 0 := by unfold Safety.entryAt; rw [hm]; decide +kernel
  have e0 : (0x200001 / 2 ^ 12 % 2 ^ 40 * 2 ^ 12 : Nat) = 0x200000 := by decide
  refine ⟨.down 2 _ 0x200001 _ (unspoiled _ _ hp) e3.1.symm (by decide) (up _ e3.1) (by decide) ?_,
    .down 2 _ 0x200001 _ (unspoiled _ _ hp) e3.2.1.symm (by decide) (up _ e3.2.1) (by decide) ?_⟩
  · rw [e0]
    refine .leaf 2 _ 0x1F _ (unspoiled _ _ hp) e3.2.2.1.symm (by decide) ?_ (by decide) ?_ (by decide) (by decide) (by decide) (by decide) (by decide) (by decide)
    · intro h
      unfold BadEntry at h
      rcases h with h | h | h | h | h | h | h | h
      · revert h; decide
      · revert h; decide
      · revert h; decide
      · revert h; decide
      · revert h; decide
      · revert h; decide
      · exact absurd h.1 (by decide)
      · rcases h.2 with h | h
        · revert h; decide
        · refine h ?_
          unfold TypeFits
          rw [near_here _ _ (by decide)]
          decide
    · rw [near_here _ _ (by decide)]; decide
  · rw [e0]
    exact .invalid 2 _ (unspoiled _ _ hp) (by rw [e3.2.2.2]; decide)

/-- Address space 0 of `walked`: its entry names the table of level 3. -/
theorem walk_root (s : State) (hm : s.mem = (walked base).mem) (hp : s.poison = []) (ha : s.regs.astbase = 0x400000#64) (va : Nat) (o : Walk)
    (h : WalkEnds s 0 va 3 0x100000 o) : WalkComesTo s 0 va o := by
  have e : littleEndian (cellGet s.mem) 0x400000 8 = 0x8000000000100000 := by rw [hm]; decide +kernel
  refine .inr ⟨unspoiled _ _ hp, .inr (.inr ⟨?_, ?_, ?_⟩)⟩
  · rw [ha]; show (littleEndian (cellGet s.mem) 0x400000 8).testBit 63 = true; rw [e]; decide
  · rw [ha]
    show ¬ (littleEndian (cellGet s.mem) 0x400000 8 / 2 ^ 52 % 2 ^ 11 ≠ 0 ∨ littleEndian (cellGet s.mem) 0x400000 8 % 2 ^ 20 ≠ 0 ∨
      ¬ InDevice s (littleEndian (cellGet s.mem) 0x400000 8 / 2 ^ 20 % 2 ^ 32 * 2 ^ 20))
    rw [e]
    rintro (h | h | h)
    · revert h; decide
    · revert h; decide
    · exact h (.inl (near_here _ _ (by decide)))
  · rw [ha]
    show WalkEnds s 0 va 3 (littleEndian (cellGet s.mem) 0x400000 8 / 2 ^ 20 % 2 ^ 32 * 2 ^ 20) o
    rw [e]; exact h

set_option maxRecDepth 8192 in
theorem witness_WalksAndInvalidation :
    (0 < base.dies.length ∧ (base.die 0).missq = []) ∧
    (let s := onDie (fun d => { d with missq := [miss 0x40000 [wref]] }) base
     (s.die 0).missq = [miss 0x40000 [wref]] ∧ (s.die 0).walks.length < 512) ∧
    (∀ p ∈ [0x40000, 0xC0000], ∀ q ∈ [(4, 0x400000), (3, 0x100000)], let s := walking p (some q)
     (s.die 0).walks[0]? = some { miss p [wref] with pos := some q } ∧ 0 < s.dies.length ∧ (miss p [wref]).core / 32 = 0 ∧ (miss p [wref]).engines = [] ∧ (miss p [wref]).waiters.Nodup ∧
      s.wave? wref = some (waveOf s) ∧ (waveOf s).core = 0 ∧ (waveOf s).park = .walk [p] ∧ s.poison = []) ∧ (walking 0xC0000 none).cores.length = 256 ∧
    (∀ e ∈ [[Engine.cmd 0 5], [.stream wref 0]], let m : Miss := { miss 0x40000 [] with pos := some (4, 0x400000), engines := e }
     let s := onDie (fun d => { d with walks := [m] }) (walked base)
     (s.die 0).walks[0]? = some m ∧ m.waiters.Nodup ∧ m.core / 32 = 0 ∧ wref ∉ m.waiters ∧ s.wave? wref = some (waveOf s)) ∧
    (∀ q, let s := walking 0x40000 (some q)
     let b : Word := 0x400000
     b.toNat < 2 ^ 52 ∧ b.toNat % 2 ^ 15 = 0 ∧ WalkComesTo { s with regs := { s.regs with astbase := b } } 0 0x40000000 (.ok (leafAt 1 7)) ∧
      WalkComesTo { s with regs := { s.regs with astbase := b } } 0 0xC0000000 (.fault 1 2) ∧ WalkEnds s 0 0x40000000 3 0x100000 (.ok (leafAt 1 7)) ∧
      littleEndian (cellGet s.mem) 0x400000 8 = 2 ^ 63 + 0x100000 ∧ InDevice s 0x100000 ∧ Safety.entryAt s 0x40000000 3 0x100000 = 0x200001) ∧
    (∀ b : Bool, Running (invalidating b base) ∧ (invalidating b base).regs.tlbiBusy = b) ∧
    ((∀ i, ¬ UsesRemoved base 0 0 i) ∧ UsesRemoved (accessing .load .homeonly none) 0 0 base.uid) ∧
    (let s := onWave (fun w => { w with park := .waitw 0x10000 0x10000 4 .homeonly 12 0 0 0 }) base
     s.wave? wref = some (waveOf s) ∧ (waveOf s).park = .waitw 0x10000 0x10000 4 .homeonly 12 0 0 0 ∧ s.teams.find? (fun x => x.uid == wref.team) = some (teamOf s) ∧
      BitVec.ofNat 12 (s.block (teamOf s).launch).asn = 0) ∧
    (entry1 ∈ (base.core 0).tlb ∧ Invalidates 0 0 entry1.asn entry1.page 12) := by
  refine ⟨by decide, by decide, by decide +kernel, by rw [cores_len _ rfl], by decide +kernel, fun q => ⟨by decide, by decide, ?_, ?_, ?_, (by decide +kernel : littleEndian (cellGet (walked base).mem) 0x400000 8 = 2 ^ 63 + 0x100000),
      .inl (near_here _ _ (by decide)), (by decide +kernel : littleEndian (cellGet (walked base).mem) 0x100000 8 = 0x200001)⟩, fun b => ⟨⟨rfl, rfl⟩, rfl⟩, ⟨fun i => ?_, ?_⟩, by decide, ⟨by decide, by decide, .inl (by decide)⟩⟩
  · exact walk_root { walking 0x40000 (some q) with regs := { (walking 0x40000 (some q)).regs with astbase := 0x400000 } } rfl rfl rfl _ _ (walk_table { walking 0x40000 (some q) with regs := { (walking 0x40000 (some q)).regs with astbase := 0x400000 } } rfl rfl).1
  · exact walk_root { walking 0x40000 (some q) with regs := { (walking 0x40000 (some q)).regs with astbase := 0x400000 } } rfl rfl rfl _ _ (walk_table { walking 0x40000 (some q) with regs := { (walking 0x40000 (some q)).regs with astbase := 0x400000 } } rfl rfl).2
  · exact (walk_table (walking 0x40000 (some q)) rfl rfl).1
  · rintro (⟨t, ht, w, hw, o, ho, _⟩ | ⟨c, hc, ⟨d, hd, _⟩ | ⟨u, hu, _⟩⟩)
    · have h : ∀ t ∈ base.teams, ∀ w ∈ t.waves, w.outs = [] := by decide
      rw [h t ht w hw] at ho; cases ho
    · have h : ∀ c ∈ base.cores, c.cmds = [] ∧ c.addons = [] := cores_of _ _ rfl (by decide) (by decide)
      rw [(h c hc).1] at hd; cases hd
    · have h : ∀ c ∈ base.cores, c.cmds = [] ∧ c.addons = [] := cores_of _ _ rfl (by decide) (by decide)
      rw [(h c hc).2] at hu; cases hu
  · exact .inl ⟨_, List.mem_singleton.mpr rfl, _, List.mem_singleton.mpr rfl, _, List.mem_singleton.mpr rfl, rfl, _, List.mem_singleton.mpr rfl, rfl, by decide, by decide, .inl (by decide)⟩

/-- The header of a microcode image of 8 bytes in the slot format, at 0x20000; one whose body is too long. -/
def mcNat (n : Nat) : Nat := 0x4D435331 + 4 * 2 ^ 40 + n * 2 ^ 96
def microcoded (b : Bool) (n : Nat) : State := onRegs (fun r => { r with mcbusy := b, mcaddr := 0x20000#64 }) (holding 0x20000 256 (mcNat n) (up base))

set_option maxRecDepth 8192 in
theorem witness_MicrocodeSlots :
    (∀ b : Bool, Running (microcoded b 8) ∧ (microcoded b 8).regs.mcbusy = b) ∧
    (∀ n ∈ [8, 65544], littleEndian (cellGet (microcoded false n).mem) 0x20000 256 = mcNat n ∧ ¬ McMalformed (mcNat n)) ∧ McMalformed 0 ∧
    (InDevice (microcoded false 8) 0x20000 ∧ (microcoded false 8).region (0x20000 + 256 - 1) = .near ∧ (microcoded false 8).region 0x20000 = .near) ∧
    65536 < mcNat 65544 / 2 ^ 96 % 2 ^ 32 ∧ mcNat 8 / 2 ^ 96 % 2 ^ 32 ≤ 65536 ∧ base.regs.mcpend = none ∧
    (let s := onRegs (fun r => { r with mcpend := some (0, some code0) }) base
     s.regs.mcpend = some (0, some code0) ∧ ∀ t ∈ s.teams, ∀ w ∈ t.waves, w.prog = none) ∧
    (let s := onRegs (fun r => { r with mcpend := some (0, none) }) (macroOn (.mcall hdr xf) 0x80000000 [] base)
     s.regs.mcpend = some (0, none) ∧ ∃ t ∈ s.teams, ∃ w ∈ t.waves, ∃ p, w.prog = some p ∧ p.instr = .mcall hdr xf ∧ xf.var.toNat = 0) := by
  refine ⟨fun b => ⟨⟨rfl, rfl⟩, rfl⟩, ?_, .inl (by decide), ⟨.inl (near_here _ _ (by decide)), near_here _ _ (by decide), near_here _ _ (by decide)⟩, by decide, by decide, by decide, by decide,
    ⟨rfl, ⟨_, List.mem_singleton.mpr rfl, ⟨_, List.mem_singleton.mpr rfl, ⟨_, rfl, rfl, by decide⟩⟩⟩⟩⟩
  intro n h
  rcases List.mem_cons.mp h with rfl | h
  · exact ⟨by decide +kernel, by unfold McMalformed; decide +kernel⟩
  · rcases List.mem_cons.mp h with rfl | h
    · exact ⟨by decide +kernel, by unfold McMalformed; decide +kernel⟩
    · cases h

/-! ### Host rings, registers and links -/

def ringOf (en : Bool) (head tail : Nat) (ws : List (List Word)) : HostRing :=
  { base := 0x1000#64, en := en, log2n := 6#5, head := BitVec.ofNat 32 head, tail := BitVec.ofNat 32 tail, waiting := ws, pending := false }
def withRing (g : HostRing) : State := { inFlight [nodeOf 3 [] [] .running] (up base) with rings := [g, g, g] }
def rec8 : List Word := List.replicate 8 0#64

theorem witness_HostRings :
    (∀ en : Bool, Running (withRing (ringOf en 0 64 [])) ∧ (withRing (ringOf en 0 64 [])).rings[0]? = some (ringOf en 0 64 []) ∧ (ringOf en 0 64 []).en = en) ∧
    (2 ^ (6#5).toNat < (64#32 - 65#32).toNat ∧ (64#32 - 1#32).toNat ≤ 2 ^ (6#5).toNat) ∧
    (∀ rec ∈ [rec8, rec8 ++ [7#64], rec8 ++ [7#64, 0#64]], let g := ringOf true 0 5 [rec]
     Running (withRing g) ∧ (withRing g).rings[0]? = some g ∧ (withRing g).rings.length = 3 ∧ g.waiting = [rec] ∧ 8 ≤ rec.length ∧ g.en = true ∧ (g.tail - g.head).toNat ≠ 2 ^ g.log2n.toNat ∧
      (withRing g).region (0x080000001000 + 64 * 5) = .host) ∧
    ((ringOf true 0 64 [rec8]).tail - (ringOf true 0 64 [rec8]).head).toNat = 2 ^ (6#5).toNat ∧ BareCore (withRing (ringOf true 0 5 [rec8])) 0 ∧
    InFlight (withRing (ringOf true 0 5 [rec8 ++ [7#64, 0#64]])) (replay1 1 [nodeOf 3 [] [] .running]) := by
  refine ⟨fun en => ⟨⟨rfl, rfl⟩, rfl, rfl⟩, by decide, ?_, by decide, by unfold BareCore; decide, ?_⟩
  · intro rec h
    refine ⟨⟨rfl, rfl⟩, rfl, rfl, rfl, by revert rec; decide, rfl, show (5#32 - 0#32).toNat ≠ 2 ^ (6#5).toNat by decide, ?_⟩
    revert rec; decide
  · have h := flight (up base) [nodeOf 3 [] [] .running] (by decide)
    exact { there := h.there, open' := h.open', order := h.order }

theorem witness_HostAccesses :
    Running (up base) ∧ base.launches ≠ [] ∧ (up State.reset).launches = [] ∧ (up base).images = [] ∧ resting.images ≠ [] ∧ (∀ l ∈ base.launches, l.block.tset = 0) ∧
    (∃ l ∈ (tracedLaunch base).launches, l.block.tset ≠ 0) ∧
    (let s := onRegs (fun r => { r with bar2win := 0x40000000#64 }) (up base)
     s.regs.bar2win.toNat / 2 ^ 30 % 2 ^ 22 * 2 ^ 30 + 16 = 0x40000010 ∧ Running s ∧ 16 + 4 ≤ 2 ^ s.pcie.bar2Log2 ∧ InDevice s 0x40000010 ∧ s.region (0x40000010 + 4 - 1) = .near ∧
      s.region 0x40000010 = .near ∧ NoPromotion s ∧ Untraced s 0x40000010 4) := by
  refine ⟨⟨rfl, rfl⟩, by decide, by decide, by decide, by decide, by decide, ⟨_, List.mem_singleton.mpr rfl, by decide⟩,
    ⟨by decide, ⟨rfl, rfl⟩, by decide, .inl (near_here _ _ (by decide)), near_here _ _ (by decide), near_here _ _ (by decide), ⟨by decide, cores_of _ _ rfl (by decide) (by decide)⟩,
      untraced_base _ _ (by decide) _ rfl (by decide)⟩⟩

/-- Port 0: its ring of 16 descriptors at 0x20000 and one descriptor to send; a descriptor of 256 bytes from 0x21000 to 0x22000. -/
def port (up pause : Bool) (wd : Nat) (fly : Option Nat) : Port :=
  { ring := 0x20004#64, tail := 1#32, wreq := 3#2, en := true, head := 0#32, width := BitVec.ofNat 2 wd, pause := pause, up := up, rej := 0#8, inflight := fly }
def linkNat : Nat := 1 + 0x21000 * 2 ^ 64 + 0x22000 * 2 ^ 128 + 256 * 2 ^ 192
def linked (q : Port) (d : Nat) : State :=
  let s := holding 0x20000 64 d (up base)
  { s with ports := s.ports.set 0 q }

set_option maxRecDepth 8192 in
theorem witness_FabricLinks :
    (∀ u ∈ [true, false], ∀ p ∈ [true, false], ∀ wd ∈ [1, 3], ∀ fly ∈ [none, some 1], let q := port u p wd fly
     Running (linked q linkNat) ∧ (linked q linkNat).ports[0]? = some q ∧ q.wreq ≠ 0#2 ∧ q.up = u ∧ q.pause = p ∧ q.inflight = fly ∧ 1 ≤ widest (linked q linkNat) 0 q) ∧
    (1#2).toNat < (port true false 3 none).width.toNat ∧ widest (linked { port true true 3 none with wreq := 1#2 } linkNat) 0 { port true true 3 none with wreq := 1#2 } < (2#2).toNat ∧
    (let q := port true false 3 none
     q.en = true ∧ q.head ≠ q.tail ∧ 4 ≤ q.ring.toNat % 16 ∧ q.ring.toNat % 16 ≤ 12 ∧ q.ring.toNat / 2 ^ 12 % 2 ^ 40 * 2 ^ 12 + 64 * (q.head.toNat % 2 ^ 4) = 0x20000 ∧
      (linked q linkNat).region 0x20000 = .near ∧ NoPromotion (linked q linkNat) ∧ Untraced (linked q linkNat) 0x20000 64) ∧
    (∀ d ∈ [linkNat, 0], littleEndian (cellGet (linked (port true false 3 none) d).mem) 0x20000 64 = d) ∧ ¬ LinkDescriptor (linked (port true false 3 none) 0) 0 ∧
    LinkDescriptor (linked (port true false 3 none) linkNat) linkNat ∧
    ((0x0000000000000001#64).extractLsb' 8 2 = 0#2 ∧ (0x0000000000000101#64).extractLsb' 8 2 = 1#2 ∧ (0x0000000000000301#64).extractLsb' 8 2 = (port true false 3 none).wreq) ∧
    (InDevice base 0x20000 ∧ ¬ InDevice base (2 ^ 43) ∧ 64 % 32 = 0 ∧ 0x20000 % 32 = 0 ∧ base.promo = [] ∧ base.poison = []) := by
  refine ⟨?_, by decide, by decide, ⟨by decide, by decide, by decide, by decide, by decide, near_here _ _ (by decide), ⟨by decide, cores_of _ _ rfl (by decide) (by decide)⟩,
      untraced_base _ _ (by decide) _ rfl (by decide +kernel)⟩, by decide +kernel, ?_, ?_, by decide, ⟨.inl (near_here _ _ (by decide)), ?_, by decide, by decide, by decide, rfl⟩⟩
  · intro u _ p _ wd _ fly _
    exact ⟨⟨rfl, rfl⟩, rfl, show 3#2 ≠ 0#2 by decide, rfl, rfl, rfl, by show 1 ≤ widest (linked (port true true 1 none) linkNat) 0 (port true true 1 none); decide⟩
  · rintro ⟨h, _⟩; omega
  · exact ⟨by decide, by decide, by decide, by decide, by decide, by decide, .inl (near_here _ _ (by decide)), by rw [near_here _ _ (by decide), near_here _ _ (by decide)]⟩
  · rintro (h | h) <;> revert h <;> decide

/-! ### The machine as a whole -/

set_option maxRecDepth 8192 in
theorem witness_MetersSentinelsErrors :
    (∀ m ∈ [[], [(0, (-5 : Int))]], let s := onCore (fun c => { c with meter := m, hsb := 256 }) (up base)
     Running s ∧ ((s.core 0).meter.map Prod.fst).Nodup ∧ ∀ e ∈ (s.core 0).meter, e.2 ≤ (s.core 0).budget e.1) ∧
    (∀ c ∈ (up base).cores, (c.meter.map Prod.fst).Nodup ∧ ∀ e ∈ c.meter, e.2 ≤ c.budget e.1) ∧
    (∀ m ∈ [[], [(homeSlice 0x10000, (-5 : Int))], [(homeSlice 0x10000, (1 : Int))]],
     let s := onCore (fun c => { c with meter := m, hsb := 256 }) (accessing .load .homeonly none)
     s.team? wref.team = some (teamOf s) ∧ s.wave? wref = some (waveOf s) ∧ (∃ o, (waveOf s).outs[0]? = some o ∧ o.accs = [access .load .homeonly none]) ∧
     (access .load .homeonly none).state = .todo ∧ InDevice s (access .load .homeonly none).pa ∧ (access .load .homeonly none).len = 4 ∧
     (access .load .homeonly none).pa % 4 = 0 ∧
     (s.accReady wref 0 0 = true ↔ m ≠ [(homeSlice 0x10000, (-5 : Int))]) ∧
     ((∃ b ∈ s.arbiters 0x10000, (s.core 0).budget b ≠ 0 ∧ (s.core 0).balance b ≤ 0) ↔ m = [(homeSlice 0x10000, (-5 : Int))])) ∧
    (∀ k ∈ [0, 5, 6], let s := onDie (fun d => { d with step := k }) (up base)
     Running s ∧ s.dies[0]? = some (s.die 0) ∧ (s.die 0).step = k) ∧
    (InDevice base (8 * 0x2000) ∧
      base.team? 1 = some (teamOf base) ∧ base.wave? wref = some (waveOf base) ∧ 0 < (waveOf base).lanes.length ∧ 0 < (teamOf base).vregs ∧ (teamOf (roomy local0)).sides.length = 1 ∧
      0 < (teamOf (roomy local0)).scratchBytes ∧ 0 < (teamOf (roomy local0)).obufBytes ∧ 0 < (teamOf (roomy local0)).tiles) ∧
    (let b : CByte := { off := 0, val := 7#8, dirty := false, writer := 0, rel := [] }
     let s := onCore (fun c => { c with cache := [{ line := 0x100, bank := 0, mark := 0, bytes := [b], poison := [] }] }) base
     (s.core 0).cbyte? (8 * 0x2000) = some b) := by
  refine ⟨?_, cores_of _ _ rfl (by decide) (by decide), ?_, ?_, ⟨.inl (near_here _ _ (by decide)), by decide⟩, by decide⟩
  · intro m h
    refine ⟨⟨rfl, rfl⟩, ?_⟩
    revert m; decide
  · intro m h
    refine ⟨?_, ?_, ⟨_, rfl, rfl⟩, by decide, .inl (near_here _ _ (by decide)), by decide, by decide, ?_, ?_⟩ <;> revert m <;> decide
  · intro k h
    exact ⟨⟨rfl, rfl⟩, by revert k; decide⟩

/-- 19: one bucket across three ticks, and the requests that meet it: core 0 here, budget 1,024 at the home slice of 0x10000. -/
def bucket (ops : List (Nat × Nat)) (s : State) : State :=
  ops.foldl (fun s o => if o.1 == 0 then s.meterTick else s.meterCharge 0 0x10000 o.2) s
theorem test_bucket :
    let s := onCore (fun c => { c with hsb := 1024 }) (onRegs (fun r => { r with metcls := [0, 0, 1024, 0] }) base)
    let four := [(1, 256), (1, 256), (1, 256), (1, 256)]
    let low := four ++ [(0, 0), (1, 64), (1, 256), (1, 256), (1, 256)]
    ((bucket four s).core 0).balance (homeSlice 0x10000) = 0 ∧ (bucket four s).meterOk 0 0x10000 = false ∧
    ((bucket low s).core 0).balance (homeSlice 0x10000) = 192 ∧
    ((bucket (low ++ [(1, 256)]) s).core 0).balance (homeSlice 0x10000) = -64 ∧
    ((bucket (low ++ [(1, 256), (0, 0), (1, 64)]) s).core 0).balance (homeSlice 0x10000) = 896 := by decide +kernel

/-- A start in progress at a stage, warm or cold. -/
def starting (n : Nat) (warm : Bool) (fails : Nat) : State :=
  onRegs (fun r => { r with ready := false, recov := false, stage := BitVec.ofNat 8 n, warm := warm, fails := BitVec.ofNat 4 fails }) base
/-- Recovery mode, with a verification of `n` bytes asked for or none. -/
def recovering (busy : Bool) (n : Nat) : State := onRegs (fun r => { r with recov := true, recBusy := busy, recLen := n }) base

set_option maxRecDepth 8192 in
theorem witness_StartsAndRecovery :
    (∀ n ∈ [1, 2, 3, 4, 5, 6], ∀ warm : Bool, ∀ fails ∈ [0, 2], let s := starting n warm fails
     s.regs.ready = false ∧ s.regs.stage.toNat = n ∧ s.regs.recov = false ∧ s.regs.warm = warm ∧ s.regs.fails.toNat = fails) ∧
    (up base).regs.ready = true ∧ (up base).regs.recov = false ∧ (starting 0 false 0).regs.stage.toNat = 0 ∧
    (∀ n ∈ [0, 4, 8388609], let s := recovering true n
     s.regs.recov = true ∧ s.regs.recBusy = true ∧ s.regs.recLen = n) ∧
    (let s := recovering false 0
     s.regs.recov = true ∧ s.regs.recBusy = false ∧ (0x5357000000000004#64).toNat / 2 ^ 48 = 0x5357 ∧ (0x5357000000000004#64).toNat % 2 ^ 24 = 4 ∧ (0x5357000000000000#64).toNat % 2 ^ 24 = 0 ∧
      (0x5358000000000004#64).toNat / 2 ^ 48 ≠ 0x5357) ∧
    (∀ b : Bool, let s := onRegs (fun r => { r with attBusy := b }) { up base with attTaken := List.replicate 32 0#8 }
     Running s ∧ s.regs.attBusy = b ∧ s.attNonce.length = 32 ∧ s.attTaken.length = 32) := by
  refine ⟨?_, rfl, rfl, by decide, by decide, by decide, fun b => ⟨⟨rfl, rfl⟩, rfl, show base.attNonce.length = 32 by decide, List.length_replicate ..⟩⟩
  intro n hn warm fails hf
  have hs : ∀ n ∈ [1, 2, 3, 4, 5, 6], (BitVec.ofNat 8 n).toNat = n := by decide
  have hq : ∀ n ∈ [0, 2], (BitVec.ofNat 4 n).toNat = n := by decide
  exact ⟨rfl, hs n hn, rfl, rfl, hq fails hf⟩

/-- The step that issues IADD with an immediate at 0x10000, and the state its instruction runs in. -/
def fetching : State := State.reset.withFetchWord 128 0x000000010000000020C7050280000300
def iaddNow : Instr := .iadd { sw := true, keep := 0#2, gn := false, gp := 7#3, x := some 0x0000000100000000#64 }
  { d := 10#9, a := 10#9, b := 0#9, c := 0#9, ka := .vec, kb := .imm, kc := false, rnd := .rn, fzi := false, fzo := false, sat := false, sub := 0#2 }
def begun : State := { fetching with agenda := [], cur := { team := 1, wave := 0, mask := 0xFF#64, pc := 0x10000#64, blocked := false } }

set_option maxRecDepth 8192 in
theorem witness_StepRunsDecoded :
    (let s := fetching
     s.agenda = [.issue wref] ∧ s.team? 1 = some (teamOf s) ∧ s.wave? wref = some (waveOf s) ∧ (waveOf s).mayIssue = true ∧ (waveOf s).prog = none ∧ (waveOf s).xl = [] ∧
      (waveOf s).issuable = [(0xFF#64, 0x10000#64)] ∧ (∀ l < 8, ((waveOf s).lane l).badRec = none) ∧
      (∀ ln ∈ (waveOf s).lanes, ln.wait = .none) ∧ (waveOf s).outs = [] ∧
      (∀ u ∈ s.teams, ∀ v ∈ u.waves, v.core = (waveOf s).core → v.part = (waveOf s).part → v.before (waveOf s) = false) ∧ s.poisonRegs = [] ∧ s.poison = [] ∧
      (s.core 0).tlb.find? (fun e => e.covers begun.curAsn 0x10000) = some entry1 ∧ (∀ x ∈ (s.core 0).tlb, 12 ≤ x.log2) ∧ begun.watchdogDue = false) ∧
    littleEndian (cellGet fetching.mem) 0x10000 8 = 0x20C7050280000300 ∧ needsExt 0x20C7050280000300 512 = true ∧ littleEndian (cellGet fetching.mem) 0x10008 8 = 0x0000000100000000 ∧
    decode 0x20C7050280000300#64 0x0000000100000000#64 512 = .ok iaddNow ∧
    (match exec iaddNow begun with
     | .next t => !t.cur.blocked && !t.curWave.onWalk && t.poisonRegs.isEmpty
     | _ => false) = true := by
  exact ⟨by decide +kernel, by decide +kernel, by decide, by decide +kernel, rfl, by decide +kernel⟩

/-- What the encoding statement asks for: a well-formed instruction. What the invariants ask for, at State.reset and in a state with a team. -/
theorem witness_Machine : WellFormed iaddNow 512 = true ∧ DeviceLimits State.reset ∧ Memory.wf State.reset.mem = true ∧ DeviceLimits fetching := by
  refine ⟨by decide, ?_, by decide, ?_⟩
  · exact { memory := by decide, cores := List.length_replicate .., dies := by decide, rings := by decide, ports := by decide, steps := by decide, fails := by decide }
  · exact { memory := by decide +kernel, cores := by rw [cores_len _ rfl], dies := by decide, rings := by decide, ports := by decide, steps := by decide, fails := by decide }

/-! ### Words of the spec's examples (02 R33, 03 R59, 05 R94, 06 R117, R135, 08, 09, 10, 11 R227, R244, 12 R256, 13 R278, R290, 14 R302, R308, 15 R329 to R340, 16 R342,
17 R368, R372, 18 R378, 20 to 29), bit by bit, decode to what their assembly says -/

def v0 : VFields := { d := 0, a := 0, b := 0, c := 0, ka := .vec, kb := .vec, kc := false, rnd := .rn, fzi := false, fzo := false, sat := false, sub := 0 }
def m0 : MFields := { d := 0, a := 0, ak := false, size := 0, scope := 0, ord := 0, ch := 0, sub := 0, off := 0 }
def c0 : CFields := { d := 0, a := 0, b := 0, e := 0, tag := 0, mode := 0, sub := 0 }
def x0 : XFields := { w := 0, a := 0, b := 0, cboff := 0, var := 0, sub := 0 }
def b0 : BFields := { off := 0, tprio := 0, fprio := 0, cn := false, cp := 0, sub := 0 }
def s0 : SFields := { d := 0, a := 0, b := 0, imm := 0, ik := false, sub := 0 }
def y0 : YFields := { imm := 0, d := 0, a := 0, sub := 0 }

/-- BR p1, done; TRAP 0x21; SYSRD v4, LANE_ID; SYSRD s10:s11, CLOCK; SYSWR WSTAT, s6; FENCE.ALL.DEVICE; FENCE.ST.CORE; BAR.SYNC 2. -/
theorem test_decode_control :
    decodeTableWord 64 0x100700000B64A010 = some (.br hdr { off := 11, tprio := 0x64, fprio := 0xA0, cn := false, cp := 1, sub := 0 }) ∧
    decodeTableWord 64 0x0307002100000000 = some (.trap hdr { y0 with imm := 0x21 }) ∧
    decodeTableWord 64 0x0607000002000000 = some (.sysrd hdr { y0 with d := 4 }) ∧
    decodeTableWord 64 0x0607001005000000 = some (.sysrd hdr { y0 with imm := 0x10, d := 10 }) ∧
    decodeTableWord 64 0x0707001200018000 = some (.syswr hdr { y0 with imm := 0x12, a := 6 }) ∧
    decodeTableWord 64 0x0807000500000000 = some (.fence hdr { y0 with imm := 5 }) ∧
    decodeTableWord 64 0x0807000300000002 = some (.fence hdr { y0 with imm := 3, sub := 2 }) ∧
    decodeTableWord 64 0x0A07000200000000 = some (.bar hdr { y0 with imm := 2 }) := by decide +kernel

/-- TRET; BKPT 5; CVSET cv0, s14:s15; CVSIGN cv3; REPACK v1; p2? EXIT; the word that can never be an instruction (02 R45). -/
theorem test_decode_waves :
    decodeTableWord 64 0x0407000000000000 = some (.tret hdr y0) ∧ decodeTableWord 64 0x0507000500000000 = some (.bkpt hdr { y0 with imm := 5 }) ∧
    decodeTableWord 64 0x1407000000038000 = some (.cvset hdr { y0 with a := 14 }) ∧ decodeTableWord 64 0x1507000001800000 = some (.cvsign hdr { y0 with d := 3 }) ∧
    decodeTableWord 64 0x1807000000004000 = some (.repack hdr { y0 with a := 1 }) ∧ decodeTableWord 64 0x0102000000000000 = some (.exit { hdr with gp := 2 } y0) ∧
    decodeTableWord 64 0xFFFFFFFFFFFFFFFF = none := by decide +kernel

/-- p2? OR.32 v8, v8, 0x4000; ICMP.GE.32 p2, v0, s14; ICMP.LT.32 p2, v41, 0x4000; SEL.32 v8, s53, s54, p5; LEA.64 v14:v15, s12:s13, v18, 2. -/
theorem test_decode_integer :
    decodeTableWord 128 0x00004000000000002B42040200000300 = some (.or { hdr with gp := 2, x := some 0x0000400000000000 } { v0 with d := 8, a := 8, kb := .imm }) ∧
    decodeTableWord 64 0x3707010001C05100 = some (.icmp hdr { v0 with d := 2, a := 0, b := 14, c := 5, kb := .sca }) ∧
    decodeTableWord 128 0x00004000000000003747010A40002300 = some (.icmp { hdr with x := some 0x0000400000000000 } { v0 with d := 2, a := 41, c := 2, kb := .imm }) ∧
    decodeTableWord 64 0x3807040D46C05500 = some (.sel hdr { v0 with d := 8, a := 53, b := 54, c := 5, ka := .sca, kb := .sca }) ∧
    decodeTableWord 64 0x3A07070302402401 = some (.lea hdr { v0 with d := 14, a := 12, b := 18, c := 2, ka := .sca, sub := 1 }) := by decide +kernel

/-- !p2? FMA.F32 v4, v5, s7, v9; FNEG.F16X2 v9, v9; FLERP.F32 v20, v20, v11, v3; WRED.FADD v10, v3; CVT.N16.F32 v24, v23; 0x4907_0201_40C0_0002, whose SUB FDIV does not have (03). -/
theorem test_decode_float :
    decodeTableWord 64 0x430A020140E09100 = some (.fma { hdr with gn := true, gp := 2 } { v0 with d := 4, a := 5, b := 7, c := 9, kb := .sca }) ∧
    decodeTableWord 64 0x4607048240000001 = some (.fneg hdr { v0 with d := 9, a := 9, sub := 1 }) ∧
    decodeTableWord 64 0x56070A0501603000 = some (.flerp hdr { v0 with d := 20, a := 20, b := 11, c := 3 }) ∧
    decodeTableWord 64 0x67070500C0000001 = some (.wred hdr { v0 with d := 10, a := 3, sub := 1 }) ∧
    decodeTableWord 64 0x60070C05C0090000 = some (.cvt hdr { v0 with d := 24, a := 23, c := 0x90 }) ∧
    decodeTableWord 64 0x4907020140C00002 = none := by decide +kernel

/-- ST.32 v6, [v14:v15 + 0]; LDL.16 v16, [v1 + 160]; FIFOPUSH.32 v5, 47; FIFOPOP.32 v4, 47.SW; the STRM of 06; BANKCFG s20:s21; ATOM.ADD.32.DEVICE.ACQREL v4, [v8:v9 + 0]. -/
theorem test_decode_memory :
    decodeTableWord 64 0x8107030388000000 = some (.st hdr { m0 with d := 6, a := 14, size := 2 }) ∧
    decodeTableWord 64 0x82070800440000A0 = some (.ldl hdr { m0 with d := 16, a := 1, size := 1, off := 160 }) ∧
    decodeTableWord 64 0x890702800800002F = some (.fifopush hdr { m0 with d := 5, size := 2, off := 47 }) ∧
    decodeTableWord 64 0x8A8702000800002F = some (.fifopop { hdr with sw := true } { m0 with d := 4, size := 2, off := 47 }) ∧
    decodeTableWord 64 0xB8072C010100C000 = some (.strm hdr { c0 with d := 88, a := 4, b := 8, e := 12 }) ∧
    decodeTableWord 64 0x8B07000520000000 = some (.bankcfg hdr { m0 with a := 20, ak := true }) ∧
    decodeTableWord 64 0xA00702020AE00000 = some (.atom hdr { m0 with d := 4, a := 8, size := 2, scope := 5, ord := 3 }) := by decide +kernel

/-- COPY.2D.G.S s40:s41, s42:s43, s44, 1; p1? COPY.1D.S.G s58:s59, s56:s57, s60, 0; HALO.N8 5, s20:s21, s24, 4; OBRES s22, ob1, s16:s17, s24; MMA acc0, v32, ob1;
DRAIN.REG acc0, s40, v32.SW. -/
theorem test_decode_copies_and_matrices :
    decodeTableWord 64 0xB007000A0542C045 = some (.copy hdr { c0 with a := 40, b := 42, e := 44, tag := 1, mode := 1, sub := 1 }) ∧
    decodeTableWord 64 0xB001000E8703C010 = some (.copy { hdr with gp := 1 } { c0 with a := 58, b := 56, e := 60, mode := 4 }) ∧
    decodeTableWord 64 0xB207028500018101 = some (.halo hdr { c0 with d := 5, a := 20, e := 24, tag := 4, sub := 1 }) ∧
    decodeTableWord 64 0xC0070B0400018040 = some (.obres hdr { c0 with d := 22, a := 16, e := 24, tag := 1 }) ∧
    decodeTableWord 64 0xC307000800208000 = some (.mma hdr { v0 with a := 32, b := 1, c := 8 }) ∧
    decodeTableWord 64 0xC687140800000003 = some (.drain { hdr with sw := true } { x0 with w := 40, a := 32, sub := 3 }) := by decide +kernel

/-- RAST.SET s31.SW; RAST.EMIT s32, p5; BLEND.RGBA8 v8; BLEND.SET v8.SW; TRAV.ANYCB.FIRST v64 with a callback 12 words ahead; FILT.TRI v96; p3? BIN v32, s12:s13.SW. -/
theorem test_decode_macros :
    decodeTableWord 64 0xD0870F8000000001 = some (.rastSet { hdr with sw := true } { x0 with w := 31, sub := 1 }) ∧
    decodeTableWord 64 0xD007100140000008 = some (.rast hdr { x0 with w := 32, a := 5, var := 2 }) ∧
    decodeTableWord 64 0xD107040000000000 = some (.blend hdr { x0 with w := 8 }) ∧
    decodeTableWord 64 0xD187040000000001 = some (.blendSet { hdr with sw := true } { x0 with w := 8, sub := 1 }) ∧
    decodeTableWord 64 0xD207200000000C0C = some (.trav hdr { x0 with w := 64, cboff := 12, var := 3 }) ∧
    decodeTableWord 64 0xD307300000000004 = some (.filt hdr { x0 with w := 96, var := 1 }) ∧
    decodeTableWord 64 0xD483100300000000 = some (.bin { hdr with sw := true, gp := 3 } { x0 with w := 32, a := 12 }) := by decide +kernel

/-- TASKPUSH.K v16, s8:s9, v40; HQPOP v16, [s4:s5 + 0]; ORDIN v4:v5, v6; ORDOUT s8:s9; ORDSEQ v6, s8:s9; TRMARK s4:s5, s6; RELAUNCH s10:s11; LAUNCH s10:s11. -/
theorem test_decode_tasks :
    decodeTableWord 64 0xE007000401028101 = some (.taskpush hdr { v0 with a := 16, b := 8, c := 40, kb := .sca, sub := 1 }) ∧
    decodeTableWord 64 0xE207080120000000 = some (.hqpop hdr { m0 with d := 16, a := 4, ak := true }) ∧
    decodeTableWord 64 0xE307000100C00000 = some (.ordin hdr { v0 with a := 4, b := 6 }) ∧
    decodeTableWord 64 0xE407000200000400 = some (.ordout hdr { v0 with a := 8, ka := .sca }) ∧
    decodeTableWord 64 0xE507030200000400 = some (.ordseq hdr { v0 with d := 6, a := 8, ka := .sca }) ∧
    decodeTableWord 64 0xE607000003010000 = some (.trmark hdr { y0 with d := 6, a := 4 }) ∧
    decodeTableWord 64 0xE707000000028000 = some (.relaunch hdr { y0 with a := 10 }) ∧
    decodeTableWord 64 0xE807000000028000 = some (.launch hdr { y0 with a := 10 }) := by decide +kernel

/-- NOP; YIELD; WAITW.32 s8, [s4:s5], 100; BRU p1, +3; BRS p1, +3; JAL s6:s7, s4:s5; JMP.S s4:s5; SETPRIO 9; CVWAIT cv3; SPAWN s4:s5. -/
theorem test_decode_all_system :
    decodeTableWord 64 0x0007000000000000 = some (.nop hdr y0) ∧
    decodeTableWord 64 0x0207000000000000 = some (.yield hdr y0) ∧
    decodeTableWord 64 0x0907006404010000 = some (.waitw hdr { y0 with imm := 100, d := 8, a := 4 }) ∧
    decodeTableWord 64 0x1007000003070914 = some (.bru hdr { b0 with off := 3, tprio := 7, fprio := 9, cp := 1 }) ∧
    decodeTableWord 64 0x1007000003070918 = some (.brs hdr { b0 with off := 3, tprio := 7, fprio := 9, cp := 1 }) ∧
    decodeTableWord 64 0x1107000903010000 = some (.jal hdr { y0 with imm := 9, d := 6, a := 4 }) ∧
    decodeTableWord 64 0x1207000900010000 = some (.jmp hdr { y0 with imm := 9, a := 4 }) ∧
    decodeTableWord 64 0x1307000900000000 = some (.setprio hdr { y0 with imm := 9 }) ∧
    decodeTableWord 64 0x1607000001800000 = some (.cvwait hdr { y0 with d := 3 }) ∧
    decodeTableWord 64 0x1707000000010000 = some (.spawn hdr { y0 with a := 4 }) := by decide +kernel

/-- The integer vector opcodes 0x20 to 0x29 with v12, v16, v24 and v32. -/
theorem test_decode_all_integers :
    decodeTableWord 64 0x2007060403000000 = some (.iadd hdr { v0 with d := 12, a := 16, b := 24 }) ∧
    decodeTableWord 64 0x2107060403000001 = some (.isub hdr { v0 with d := 12, a := 16, b := 24, sub := 1 }) ∧
    decodeTableWord 64 0x2207060403000000 = some (.imul hdr { v0 with d := 12, a := 16, b := 24 }) ∧
    decodeTableWord 64 0x2307060403020000 = some (.imad hdr { v0 with d := 12, a := 16, b := 24, c := 32 }) ∧
    decodeTableWord 64 0x2407060403000001 = some (.imin hdr { v0 with d := 12, a := 16, b := 24, sub := 1 }) ∧
    decodeTableWord 64 0x2507060403000000 = some (.imax hdr { v0 with d := 12, a := 16, b := 24 }) ∧
    decodeTableWord 64 0x2607060400000000 = some (.iabs hdr { v0 with d := 12, a := 16 }) ∧
    decodeTableWord 64 0x2707060403000000 = some (.idiv hdr { v0 with d := 12, a := 16, b := 24 }) ∧
    decodeTableWord 64 0x2807060403000001 = some (.irem hdr { v0 with d := 12, a := 16, b := 24, sub := 1 }) ∧
    decodeTableWord 64 0x2907060403000000 = some (.iaddc hdr { v0 with d := 12, a := 16, b := 24 }) := by decide +kernel

/-- The bit opcodes 0x2A to 0x36, MOV, IDP4 and SAD. -/
theorem test_decode_all_bits :
    decodeTableWord 64 0x2A07060403000000 = some (.and hdr { v0 with d := 12, a := 16, b := 24 }) ∧
    decodeTableWord 64 0x2C07060403000000 = some (.xor hdr { v0 with d := 12, a := 16, b := 24 }) ∧
    decodeTableWord 64 0x2D070604030E8000 = some (.bmix hdr { v0 with d := 12, a := 16, b := 24, c := 232 }) ∧
    decodeTableWord 64 0x2E07060403000000 = some (.shl hdr { v0 with d := 12, a := 16, b := 24 }) ∧
    decodeTableWord 64 0x2F07060403000001 = some (.shr hdr { v0 with d := 12, a := 16, b := 24, sub := 1 }) ∧
    decodeTableWord 64 0x3007060403000000 = some (.rot hdr { v0 with d := 12, a := 16, b := 24 }) ∧
    decodeTableWord 64 0x3107060403020001 = some (.funnel hdr { v0 with d := 12, a := 16, b := 24, c := 32, sub := 1 }) ∧
    decodeTableWord 64 0x3207060403020000 = some (.bfe hdr { v0 with d := 12, a := 16, b := 24, c := 32 }) ∧
    decodeTableWord 64 0x3307060403020000 = some (.bfi hdr { v0 with d := 12, a := 16, b := 24, c := 32 }) ∧
    decodeTableWord 64 0x3407060400000000 = some (.popc hdr { v0 with d := 12, a := 16 }) ∧
    decodeTableWord 64 0x3507060400000000 = some (.clz hdr { v0 with d := 12, a := 16 }) ∧
    decodeTableWord 64 0x3607060400000000 = some (.brev hdr { v0 with d := 12, a := 16 }) ∧
    decodeTableWord 64 0x3907060400000000 = some (.mov hdr { v0 with d := 12, a := 16 }) ∧
    decodeTableWord 64 0x3B07060403020002 = some (.idp4 hdr { v0 with d := 12, a := 16, b := 24, c := 32, sub := 2 }) ∧
    decodeTableWord 64 0x3C07060403020000 = some (.sad hdr { v0 with d := 12, a := 16, b := 24, c := 32 }) := by decide +kernel

/-- The floating-point opcodes 0x40 to 0x57. -/
theorem test_decode_all_floats :
    decodeTableWord 64 0x4007060403000020 = some (.fadd hdr { v0 with d := 12, a := 16, b := 24, rnd := .rz }) ∧
    decodeTableWord 64 0x4107060403000040 = some (.fsub hdr { v0 with d := 12, a := 16, b := 24, rnd := .rp }) ∧
    decodeTableWord 64 0x4207060403000060 = some (.fmul hdr { v0 with d := 12, a := 16, b := 24, rnd := .rm }) ∧
    decodeTableWord 64 0x4407060403000000 = some (.fmin hdr { v0 with d := 12, a := 16, b := 24 }) ∧
    decodeTableWord 64 0x4507060403000001 = some (.fmax hdr { v0 with d := 12, a := 16, b := 24, sub := 1 }) ∧
    decodeTableWord 64 0x4707060400000000 = some (.fabs hdr { v0 with d := 12, a := 16 }) ∧
    decodeTableWord 64 0x480701840300D000 = some (.fcmp hdr { v0 with d := 3, a := 16, b := 24, c := 13 }) ∧
    decodeTableWord 64 0x4907060403000000 = some (.fdiv hdr { v0 with d := 12, a := 16, b := 24 }) ∧
    decodeTableWord 64 0x4A07060400000000 = some (.fsqrt hdr { v0 with d := 12, a := 16 }) ∧
    decodeTableWord 64 0x4B07060400000000 = some (.frcp hdr { v0 with d := 12, a := 16 }) ∧
    decodeTableWord 64 0x4C07060400000000 = some (.frsq hdr { v0 with d := 12, a := 16 }) ∧
    decodeTableWord 64 0x4D07060400000000 = some (.fex2 hdr { v0 with d := 12, a := 16 }) ∧
    decodeTableWord 64 0x4E07060400000000 = some (.flg2 hdr { v0 with d := 12, a := 16 }) ∧
    decodeTableWord 64 0x4F07060400000000 = some (.fsin hdr { v0 with d := 12, a := 16 }) ∧
    decodeTableWord 64 0x5007060400000000 = some (.fcos hdr { v0 with d := 12, a := 16 }) ∧
    decodeTableWord 64 0x5107060400000000 = some (.frnd hdr { v0 with d := 12, a := 16 }) ∧
    decodeTableWord 64 0x5207060400000000 = some (.ffrac hdr { v0 with d := 12, a := 16 }) ∧
    decodeTableWord 64 0x5307060403000000 = some (.fldexp hdr { v0 with d := 12, a := 16, b := 24 }) ∧
    decodeTableWord 64 0x5407060400000000 = some (.fclass hdr { v0 with d := 12, a := 16 }) ∧
    decodeTableWord 64 0x5507060403020001 = some (.fdot2 hdr { v0 with d := 12, a := 16, b := 24, c := 32, sub := 1 }) ∧
    decodeTableWord 64 0x5707060403020000 = some (.fmed3 hdr { v0 with d := 12, a := 16, b := 24, c := 32 }) := by decide +kernel

/-- The conversion and cross-lane opcodes 0x61 to 0x6B. -/
theorem test_decode_all_lanes :
    decodeTableWord 64 0x6107060400000000 = some (.pack hdr { v0 with d := 12, a := 16 }) ∧
    decodeTableWord 64 0x6207080300000000 = some (.unpack hdr { v0 with d := 16, a := 12 }) ∧
    decodeTableWord 64 0x6307060400000000 = some (.tripack hdr { v0 with d := 12, a := 16 }) ∧
    decodeTableWord 64 0x6407080300000000 = some (.triunpk hdr { v0 with d := 16, a := 12 }) ∧
    decodeTableWord 64 0x6507060403020003 = some (.lxch hdr { v0 with d := 12, a := 16, b := 24, c := 32, sub := 3 }) ∧
    decodeTableWord 64 0x66070100C0000000 = some (.pqry hdr { v0 with d := 2, a := 3 }) ∧
    decodeTableWord 64 0x6807060400001001 = some (.wscan hdr { v0 with d := 12, a := 16, c := 1, sub := 1 }) ∧
    decodeTableWord 64 0x6907060400000000 = some (.lpeer hdr { v0 with d := 12, a := 16 }) ∧
    decodeTableWord 64 0x6A07060403000100 = some (.lread hdr { v0 with d := 12, a := 16, b := 24, kb := .sca }) ∧
    decodeTableWord 64 0x6B07060403000500 = some (.lwrite hdr { v0 with d := 12, a := 16, b := 24, ka := .sca, kb := .sca }) := by decide +kernel

/-- The scalar opcodes 0x70 to 0x7E with s12, s16, s24 and immediates. -/
theorem test_decode_all_scalars :
    decodeTableWord 64 0x7007060403000000 = some (.sadd hdr { s0 with d := 12, a := 16, b := 24 }) ∧
    decodeTableWord 64 0x7107060400024690 = some (.ssub hdr { s0 with d := 12, a := 16, imm := 4660, ik := true }) ∧
    decodeTableWord 64 0x7207060403000001 = some (.smul hdr { s0 with d := 12, a := 16, b := 24, sub := 1 }) ∧
    decodeTableWord 64 0x7307060403000000 = some (.sand hdr { s0 with d := 12, a := 16, b := 24 }) ∧
    decodeTableWord 64 0x7407060403000000 = some (.sor hdr { s0 with d := 12, a := 16, b := 24 }) ∧
    decodeTableWord 64 0x7507060403000000 = some (.sxor hdr { s0 with d := 12, a := 16, b := 24 }) ∧
    decodeTableWord 64 0x7607060403000000 = some (.sshl hdr { s0 with d := 12, a := 16, b := 24 }) ∧
    decodeTableWord 64 0x7707060403000001 = some (.sshr hdr { s0 with d := 12, a := 16, b := 24, sub := 1 }) ∧
    decodeTableWord 64 0x7807158403000000 = some (.scmp hdr { s0 with d := 43, a := 16, b := 24 }) ∧
    decodeTableWord 64 0x7907060002000000 = some (.smov hdr { s0 with d := 12, b := 16 }) ∧
    decodeTableWord 64 0x7A07060403000060 = some (.ssel hdr { s0 with d := 12, a := 16, b := 24, imm := 3 }) ∧
    decodeTableWord 64 0x7B07060403000000 = some (.sbfe hdr { s0 with d := 12, a := 16, b := 24 }) ∧
    decodeTableWord 64 0x7C07060400000000 = some (.sff1 hdr { s0 with d := 12, a := 16 }) ∧
    decodeTableWord 64 0x7D07060400000000 = some (.spopc hdr { s0 with d := 12, a := 16 }) ∧
    decodeTableWord 64 0x7E07060403000040 = some (.slea hdr { s0 with d := 12, a := 16, b := 24, imm := 2 }) := by decide +kernel

/-- The memory and atomic opcodes with v12 and [v16:v17 + 8]. -/
theorem test_decode_all_memory :
    decodeTableWord 64 0x800706040AA00008 = some (.ld hdr { m0 with d := 12, a := 16, size := 2, scope := 5, ord := 1, off := 8 }) ∧
    decodeTableWord 64 0x8307060408000008 = some (.stl hdr { m0 with d := 12, a := 16, size := 2, off := 8 }) ∧
    decodeTableWord 64 0x8407060428000008 = some (.lds hdr { m0 with d := 12, a := 16, ak := true, size := 2, off := 8 }) ∧
    decodeTableWord 64 0x8507060428000008 = some (.sts hdr { m0 with d := 12, a := 16, ak := true, size := 2, off := 8 }) ∧
    decodeTableWord 64 0x8607060400000008 = some (.ldcvt hdr { m0 with d := 12, a := 16, off := 8 }) ∧
    decodeTableWord 64 0x8707000400010008 = some (.pref hdr { m0 with a := 16, off := 8, sub := 1 }) ∧
    decodeTableWord 64 0x8807000400020008 = some (.cflush hdr { m0 with a := 16, off := 8, sub := 2 }) ∧
    decodeTableWord 64 0x8C07060008000000 = some (.qpop hdr { m0 with d := 12, size := 2 }) ∧
    decodeTableWord 64 0x8D07060000000000 = some (.qstat hdr { m0 with d := 12 }) ∧
    decodeTableWord 64 0xA10706040AE00008 = some (.atomx hdr { m0 with d := 12, a := 16, size := 2, scope := 5, ord := 3, sub := 0, off := 8 }) ∧
    decodeTableWord 64 0xA20706040F010008 = some (.red hdr { m0 with d := 12, a := 16, size := 3, scope := 6, ord := 0, sub := 1, off := 8 }) ∧
    decodeTableWord 64 0xA307060409080008 = some (.atoml hdr { m0 with d := 12, a := 16, size := 2, scope := 2, ch := 1, sub := 0, off := 8 }) ∧
    decodeTableWord 64 0xA407060416800000 = some (.xred hdr { m0 with d := 12, a := 16, size := 5, scope := 5 }) := by decide +kernel

/-- The engine opcodes 0xB1 to 0xC8 that are not tested above. -/
theorem test_decode_all_engines :
    decodeTableWord 64 0xB107000403020140 = some (.copym hdr { c0 with a := 16, b := 24, e := 32, tag := 5 }) ∧
    decodeTableWord 64 0xB307060403020140 = some (.gathv hdr { c0 with d := 12, a := 16, b := 24, e := 32, tag := 5 }) ∧
    decodeTableWord 64 0xB407000400000140 = some (.tagarm hdr { c0 with a := 16, tag := 5 }) ∧
    decodeTableWord 64 0xB507000400000001 = some (.tagwait hdr { c0 with a := 16, sub := 1 }) ∧
    decodeTableWord 64 0xB607060400000000 = some (.tagff hdr { c0 with d := 12, a := 16 }) ∧
    decodeTableWord 64 0xB707000400000000 = some (.tagclr hdr { c0 with a := 16 }) ∧
    decodeTableWord 64 0xB907018000000000 = some (.strmx hdr { c0 with d := 3 }) ∧
    decodeTableWord 64 0xC107000300000000 = some (.obrel hdr { y0 with imm := 3 }) ∧
    decodeTableWord 64 0xC2070004000180C0 = some (.obld hdr { c0 with a := 16, e := 24, tag := 3 }) ∧
    decodeTableWord 64 0xC407000001800000 = some (.accz hdr { y0 with d := 3 }) ∧
    decodeTableWord 64 0xC507018428010000 = some (.accld hdr { m0 with d := 3, a := 16, ak := true, size := 2, sub := 1 }) ∧
    decodeTableWord 64 0xC7070600C0000000 = some (.accrd hdr { v0 with d := 12, a := 3 }) ∧
    decodeTableWord 64 0xC807000006000001 = some (.mstat hdr { y0 with d := 12, sub := 1 }) := by decide +kernel

/-- FILT.SET, TRAV.SET, MCALL 5 and HQPUSH. -/
theorem test_decode_all_tasks :
    decodeTableWord 64 0xD207200000000001 = some (.travSet hdr { x0 with w := 64, sub := 1 }) ∧
    decodeTableWord 64 0xD307200000000001 = some (.filtSet hdr { x0 with w := 64, sub := 1 }) ∧
    decodeTableWord 64 0xD5072000C0BFFF14 = some (.mcall hdr { x0 with w := 64, a := 3, b := 5, cboff := -1, var := 5 }) ∧
    decodeTableWord 64 0xE107080120000000 = some (.hqpush hdr { m0 with d := 16, a := 4, ak := true }) := by decide +kernel

/-- What no word of a kernel holds: an event, and for each reason of 02 R45 that a term can meet, a term that WellFormed refuses for that reason alone or first:
2 an unassigned SUB, 3 an unused field, 4 a scalar index of 192, 5 an immediate without its word, 6 GN with GP = 7, 7 a register not declared and an odd pair,
10 p7 as a destination, 11 KEEP of an operand not read, 12 a system register number; and a constructor that does not agree with SUB. -/
theorem test_wellFormed_refuses :
    (∀ q ∈ [(Instr.fdiv hdr { v0 with sub := 2 }, 2), (.nop hdr { y0 with d := 1 }, 3), (.sadd hdr { s0 with d := 192 }, 4), (.iadd hdr { v0 with kb := .imm }, 5),
        (.nop { hdr with gn := true } y0, 6), (.fadd hdr { v0 with d := 32 }, 7), (.iadd hdr { v0 with d := 1, sub := 2 }, 7),
        (.icmp hdr { v0 with d := 7 }, 10), (.iadd { hdr with keep := 3 } v0, 11),
        (.sysrd hdr { y0 with imm := 0xFFFF }, 12)],
      WellFormed q.1 32 = false ∧ q.1.reason 32 = some q.2) ∧
    WellFormed (.rast hdr { x0 with sub := 1 }) 32 = false ∧ WellFormed (.rastSet hdr x0) 32 = false ∧ WellFormed .meterTick 32 = false ∧
    WellFormed (.notAnInstruction 0 1) 32 = false ∧ WellFormed (.iadd hdr v0) 32 = true := by decide +kernel

/-! ### Worked examples of the spec, and values worked out by hand -/

/-- What lane 0 holds in v20, and WSTAT, after one instruction. -/
def after1 (i : Instr) (s : State) : Option (Nat × Nat) :=
  match exec i s with
  | .next t => some (((waveOf t).lane 0).vr 20, (waveOf t).wstat.toNat)
  | _ => none
def preds (i : Instr) (s : State) : Option (Bool × Bool × Nat) :=
  match exec i s with
  | .next t => some (((waveOf t).lane 0).pred 2, ((waveOf t).lane 0).pred 3, (waveOf t).wstat.toNat % 2)
  | _ => none
def abc (a b c : Nat) : State := vreg 8 c (vreg 4 b (vreg 0 a base))
def v3 : VFields := { vf with c := 8 }

/-- 08: one IDP4 with saturation, whose SATD is bit 7 of WSTAT. -/
theorem test_idp4 :
    after1 (.idp4 hdr v3) (abc 0x7F7F7F7F 0x7F7F7F7F 0x7FFF8000) = some (0x80007C04, 0) ∧
    after1 (.idp4 hdr { v3 with sat := true }) (abc 0x7F7F7F7F 0x7F7F7F7F 0x7FFF8000) = some (0x7FFFFFFF, 128) := by decide +kernel

/-- 09: one fused multiply and add against two roundings; NX is bit 4 of WSTAT (02 R44). -/
theorem test_fma_against_two_roundings :
    after1 (.fma hdr v3) (abc 0x3F800800 0x3F800800 0xBF800000) = some (0x3A000400, 0) ∧
    after1 (.fmul hdr vf) (abc 0x3F800800 0x3F800800 0) = some (0x3F801000, 16) ∧
    after1 (.fadd hdr vf) (abc 0x3F801000 0xBF800000 0) = some (0x3A000000, 0) := by decide +kernel

/-- 09: a packed comparison with a NaN: LT, LTU and UNO. -/
theorem test_fcmp_packed :
    preds (.fcmp hdr { vf with d := 2, c := 2, sub := 1 }) (abc 0x7E003C00 0x3C004000 0) = some (true, false, 1) ∧
    preds (.fcmp hdr { vf with d := 2, c := 8, sub := 1 }) (abc 0x7E003C00 0x3C004000 0) = some (true, true, 1) ∧
    preds (.fcmp hdr { vf with d := 2, c := 13, sub := 1 }) (abc 0x7E003C00 0x3C004000 0) = some (false, true, 0) := by decide +kernel

/-- 08 R162 to R169 by hand: a sum that wraps, a product's low half, an arithmetic shift, and the bits of a word. -/
theorem test_integer_results :
    after1 (.iadd hdr vf) (abc 0xFFFFFFFF 2 0) = some (1, 0) ∧ after1 (.imul hdr vf) (abc 0x10001 0x10001 0) = some (0x20001, 0) ∧
    after1 (.shr hdr { vf with sub := 1 }) (abc 0x80000000 4 0) = some (0xF8000000, 0) ∧
    after1 (.popc hdr { vf with b := 0 }) (abc 0xF0F 0 0) = some (8, 0) ∧ after1 (.brev hdr { vf with b := 0 }) (abc 1 0 0) = some (0x80000000, 0) ∧
    after1 (.iabs hdr { vf with b := 0 }) (abc 0xFFFFFFFB 0 0) = some (5, 0) := by decide +kernel

/-- 07: e4m3. The codes that nf_decode reads, and the codes and flags that nf_encode gives in mode RN (NV 1, OF 4, UF 8, NX 16). -/
theorem test_e4m3 :
    (nfDesc e4m3).valid = true ∧ nfDecode (nfDesc e4m3) 0x38 = .dyadic false 8 (-3) ∧ (nfDecode (nfDesc e4m3) 0x7F).isNaN = true ∧
    (roundTo .f32 .rn (nfDecode (nfDesc e4m3) 0x01)).1 = 0x3B000000 ∧ (roundTo .f32 .rn (nfDecode (nfDesc e4m3) 0xC0)).1 = 0xC0000000 ∧
    (roundTo .f32 .rn (nfDecode (nfDesc e4m3) 0x7E)).1 = 0x43E00000 ∧ (roundTo .f32 .rn (nfDecode (nfDesc e4m3) 0x80)).1 = 0x80000000 ∧
    nfEncode (nfDesc e4m3) (.fin false 460 1) .rn = (0x7E, 16#8) ∧ nfEncode (nfDesc e4m3) (.fin false 500 1) .rn = (0x7E, 20#8) ∧
    nfEncode (nfDesc e4m3) (.fin false 3 2048) .rn = (0x01, 24#8) ∧ nfEncode (nfDesc e4m3) (.fin false 3 1024) .rn = (0x02, 24#8) ∧
    nfEncode (nfDesc e4m3) (.inf true) .rn = (0xFE, 1#8) ∧ nfEncode (nfDesc e4m3) (.nan false) .rn = (0x7F, 0#8) := by decide +kernel

/-- 07: one sum over three or four devices. -/
def image (l : List Nat) : Nat := l.foldl (fun a v => xaccAdd a (fdecode .f32 v)) 0
def sumImage : Nat := 0x0000000100000000000000000000000000014000000000000000000000000001
theorem test_exact_sum :
    xaccAddImage (xaccAddImage (image [0x4B800000, 0x3F800000]) (image [0xCB800000, 0x3F400000])) (image [0x07C00000, 0xBF000000]) = sumImage ∧
    xaccAddImage (xaccAddImage (image [0x4B800000]) (image [0x3F800000, 0xCB800000])) (xaccAddImage (image [0x3F400000, 0x07C00000]) (image [0xBF000000])) = sumImage ∧
    (xaccRound sumImage .f32 .rn false) = (0x3FA00000, 16#8) ∧ (xaccRound sumImage .f32 .rp false) = (0x3FA00001, 16#8) := by decide +kernel

/-- 04: from a virtual address to a channel. -/
def mapped : State :=
  onRegs (fun r => { r with astbase := 0x400000#64 })
    (holding 0x210158 8 0x0000010000600017 (holding 0x200468 8 0x210001 (holding 0x100010 8 0x200001 (holding (0x400000 + 8 * 5) 8 0x8000000000100000 base))))
theorem test_walk :
    mapped.walk 5 0x0000012345678000 = .ok { asn := 5, page := 0x0000012345678000 / 2 ^ 21, log2 := 21, pa := 0x010000600000, mtype := .cached, perms := 3 } ∧
    homeSlice 0x010000678000 = 94 ∧ mapped.farChannel 0x010000678000 = 56 := by decide +kernel

/-- 12: one bilinear sample of a 4 × 4 RGBA8 texture, at (0.3, 0.5). -/
def texture1 : Texture := textureOf (0x10000 + 0x0000000000030003 * 2 ^ 64)
def sample (c : Nat) : Option (Nat × Flags) :=
  (texture1.taps 0 (wwin [0x46000000, 0x3E99999A, 0x3F000000, 0])).map (fun ts =>
    filtChannel (ts.map (fun q => (q.weight, texture1.decode (if q.va % 256 = 0 then 0xFF003300 else 0xFF0033FF)))) c)
theorem test_bilinear_sample :
    sample 0 = some (0x3F333000, 0#8) ∧ sample 1 = some (0x3E4CCCCD, 16#8) ∧ sample 2 = some (0, 0#8) ∧ sample 3 = some (0x3F800000, 0#8) := by decide +kernel

/-- 11: the first row of the triangle (0, 0), (0, 8), (8, 0) in the tile at the origin: its coverage and the weights of its first pixel. -/
def rastering : State := macroOn (.rast hdr { x0 with w := 32 }) (wwin [0x52000100, 0, 0, 0, 0x800, 0x800, 0, 0, 0x0, 0, 0, 0, 0, 0, 0, 0]) [] local0
theorem test_raster_row :
    (match exec (.rast hdr { x0 with w := 32 }) rastering with
     | .next t => (waveOf t).outs.map (fun o => o.accs.map (fun a => (a.va, a.data % 2 ^ 8, a.data / 2 ^ 64 % 2 ^ 32)))
     | _ => []) = [[(0, 0x7F, 0x08000800)]] := by decide +kernel

/-- FIPS 202: the digest of the empty message. -/
theorem test_sha3_empty : (sha3 []).map (fun b => b.toNat) =
    [0xa7, 0xff, 0xc6, 0xf8, 0xbf, 0x1e, 0xd7, 0x66, 0x51, 0xc1, 0x47, 0x56, 0xa0, 0x61, 0xd6, 0x62,
     0xf5, 0x80, 0xff, 0x4d, 0xe4, 0x3b, 0x49, 0xfa, 0x82, 0xd8, 0x0a, 0x4b, 0x80, 0xf8, 0x43, 0x4a] := by decide +kernel
end Sys2Proof.Tests
end

section
/-! PROOF. The limits of DeviceLimits at reset: one lemma for the empty memory, one for the dies, and the record built from them. -/

namespace Sys2Proof.Machine

/-- 04 R70, 19 R414: memory with no listed byte, as a cold start leaves it, is in canonical form. -/
@[simp] theorem Memory.wf_nil : Memory.wf [] = true := rfl

/-- 19 R402: every die starts at STEP 0. -/
theorem State.reset_die_step {d : Die} (hd : d ∈ State.reset.dies) : d.step = 0 := by
  have hreset : d = Die.reset := List.eq_of_mem_replicate hd
  rw [hreset]
  rfl

end Sys2Proof.Machine

namespace Sys2Proof.Safety
open Sys2Proof.Machine

/-- 01 R11, R12, 19 R402, R406, R410, R414: the counts of parts are the lengths that reset replicates, and the counters start at 0. -/
theorem deviceLimits_reset : DeviceLimits State.reset where
  memory := Memory.wf_nil
  cores := List.length_replicate
  dies := List.length_replicate
  rings := List.length_replicate
  ports := List.length_replicate
  steps := fun _ hd => (State.reset_die_step hd).trans_le (Nat.zero_le 6)
  fails := Nat.zero_le 3

/-- Settles O59: the limits of `deviceLimits_reset`, which hold the canonical form of memory among them. -/
theorem resetMeetsLimits : Obligations.ResetMeetsLimits :=
  ⟨deviceLimits_reset, deviceLimits_reset.memory⟩

end Sys2Proof.Safety
end

section
/-! PROOF. O53: the decoder and the encoder agree. A word is put together again from the fields that its format reads, and each
constructor that the decoder chooses has the opcode of the word it was read from. -/

namespace Sys2Proof.Machine

/-! ### Putting a word together again -/

/-- Two fields that lie side by side are one field. -/
theorem extractLsb'_append_below {v s t m n : Nat} (w : BitVec v) (ht : t = s + m) :
    w.extractLsb' t n ++ w.extractLsb' s m = w.extractLsb' s (n + m) := by
  subst ht
  refine BitVec.eq_of_getLsbD_eq fun i hi => ?_
  simp only [BitVec.getLsbD_append, BitVec.getLsbD_extractLsb']
  by_cases h : i < m
  · simp [h, hi]
  · simp [h, hi, show i - m < n by omega, show s + m + (i - m) = s + i by omega]

/-- A flag is a field of one bit. -/
theorem ofBool_getLsbD {v : Nat} (w : BitVec v) (k : Nat) : BitVec.ofBool (w.getLsbD k) = w.extractLsb' k 1 := by
  refine BitVec.eq_of_getLsbD_eq fun i hi => ?_
  obtain rfl : i = 0 := by omega
  simp

@[simp] theorem kindBits_kindOf (k : BitVec 2) : kindBits (kindOf k) = k := by
  revert k; decide

@[simp] theorem rndBits_rndOf (k : BitVec 2) : rndBits (rndOf k) = k := by
  revert k; decide

@[simp] theorem readHdr_x_isSome (w x : Word) : (readHdr w x).x.isSome = w.getLsbD 54 := by
  simp only [readHdr]
  cases w.getLsbD 54 <;> rfl

/-- 02 R23: the header's fields are bits [63:48]. -/
theorem packHdr_read (w x : Word) : packHdr (readOpc w) (readHdr w x) = w.extractLsb' 48 16 := by
  simp only [packHdr, readHdr_x_isSome]
  simp only [readOpc, readHdr, ofBool_getLsbD, extractLsb'_append_below]

theorem packV_read (w : Word) : packV (readV w) = w.extractLsb' 0 48 := by
  simp only [packV, readV, kindBits_kindOf, rndBits_rndOf, ofBool_getLsbD, extractLsb'_append_below]

theorem packM_read (w : Word) : packM (readM w) = w.extractLsb' 0 48 := by
  simp only [packM, readM, ofBool_getLsbD, extractLsb'_append_below]

theorem packB_read (w : Word) : packB (readMode w) (readB w) = w.extractLsb' 0 48 := by
  simp only [packB, readB, readMode, ofBool_getLsbD, extractLsb'_append_below]

theorem packC_read (w : Word) : packC (readC w) = w.extractLsb' 0 48 := by
  simp only [packC, readC, extractLsb'_append_below]

theorem packX_read (w : Word) : packX (readX w) = w.extractLsb' 0 48 := by
  simp only [packX, readX, extractLsb'_append_below]

/-- 02 R27: bits [3:2] of Format S are in no field. -/
theorem packS_read (w : Word) (h0 : w.extractLsb' 2 2 = 0#2) : packS (readS w) = w.extractLsb' 0 48 := by
  simp only [packS, readS, ← h0, ofBool_getLsbD, extractLsb'_append_below]

/-- 02 R32: bits [13:2] of Format Y are in no field. -/
theorem packY_read (w : Word) (h0 : w.extractLsb' 2 12 = 0#12) : packY (readY w) = w.extractLsb' 0 48 := by
  simp only [packY, readY, ← h0, extractLsb'_append_below]

/-- The words that the fields of `w` are laid out as are `w` and, where XW is set, the word `x` after it. -/
theorem words_read (w x : Word) (b : BitVec 48) (hb : b = w.extractLsb' 0 48) :
    words (readOpc w) (readHdr w x) b = some { word := w, ext := if w.getLsbD 54 then some x else none } := by
  have hw : packHdr (readOpc w) (readHdr w x) ++ b = w := by
    rw [packHdr_read, hb, extractLsb'_append_below w (by decide)]
    exact BitVec.extractLsb'_eq_self
  simp only [words, hw]
  rfl

/-! ### What legality says of the bits that no field holds -/

/-- The lesser of the reason found so far and of one more rule's, when that holds. -/
def Rule.join (acc : Option Nat) (r : Rule) : Option Nat :=
  if r.2 then some ((acc.map (fun k => min k r.1)).getD r.1) else acc

theorem leastReason_eq_foldl (l : List Rule) : leastReason l = l.foldl Rule.join none := by
  unfold leastReason
  congr 1
  funext acc r
  cases acc <;> rfl

theorem foldl_join_eq_none (l : List Rule) (acc : Option Nat) :
    l.foldl Rule.join acc = none ↔ acc = none ∧ ∀ r ∈ l, r.2 = false := by
  induction l generalizing acc with
  | nil => simp
  | cons r l ih =>
    rw [List.foldl_cons, ih, List.forall_mem_cons, Rule.join]
    cases r.2 <;> simp

/-- 02 R45: a word has no reason exactly when none of the conditions on it holds. -/
theorem leastReason_eq_none (l : List Rule) : leastReason l = none ↔ ∀ r ∈ l, r.2 = false := by
  rw [leastReason_eq_foldl, foldl_join_eq_none]
  simp

/-- Bits [hi:lo] of a word's number are those of the word. -/
theorem bits_toNat (w : Word) (hi lo : Nat) : bits w.toNat hi lo = (w.extractLsb' lo (hi + 1 - lo)).toNat :=
  (BitVec.extractLsb'_toNat _ _ _).symm

theorem bit_toNat {v : Nat} (w : BitVec v) (k : Nat) : bit w.toNat k = w.getLsbD k := by
  rw [BitVec.getLsbD, Nat.testBit_eq_decide_div_mod_eq, bit, Nat.shiftRight_eq_div_pow]
  rfl

/-- 02 R33: without XW the word that follows has no say. -/
theorem illegalReason_of_xw_zero {w : Nat} (hw : bit w 54 = false) (x y nv : Nat) :
    illegalReason w x nv = illegalReason w y nv := by
  simp only [illegalReason, vRules, sRules, mRules, xRules, hw, Bool.false_eq_true, if_false]

theorem illegalReason_of_format {w x nv : Nat} {k : Format} (h : illegalReason w x nv = none) (hk : formatOf (bits w 63 56) = some k) :
    ∀ r ∈ (match k with
      | .V => vRules w x nv | .S => sRules w x | .M => mRules w x nv | .B => bRules w
      | .C => cFmtRules w nv | .X => xFmtRules w nv | .Y => yRules w nv), r.2 = false := by
  have hr : ∀ l, leastReason ((6, bit w 51 && bits w 50 48 == 7) :: l) = none → ∀ r ∈ l, r.2 = false :=
    fun l hl r hm => (leastReason_eq_none _).mp hl r (List.mem_cons_of_mem _ hm)
  unfold illegalReason at h
  split at h
  · cases h
  · rw [hk] at h
    cases k <;> exact hr _ h

/-- 02 R27: bits [3:2] of a legal word of Format S are zero. -/
theorem sFormat_reserved {w : Word} {x nv : Nat} (h : illegalReason w.toNat x nv = none)
    (hk : formatOf (bits w.toNat 63 56) = some .S) : w.extractLsb' 2 2 = 0#2 := by
  have hz := illegalReason_of_format h hk (3, bits w.toNat 3 2 != 0) (by simp [sRules])
  simp only [bne_eq_false_iff_eq, bits_toNat] at hz
  exact BitVec.eq_of_toNat_eq hz

/-- 02 R32: bits [13:2] of a legal word of Format Y are zero. -/
theorem yFormat_reserved {w : Word} {x nv : Nat} (h : illegalReason w.toNat x nv = none)
    (hk : formatOf (bits w.toNat 63 56) = some .Y) : w.extractLsb' 2 12 = 0#12 := by
  have hz := illegalReason_of_format h hk (3, bits w.toNat 13 2 != 0) (by simp [yRules])
  simp only [bne_eq_false_iff_eq, bits_toNat] at hz
  exact BitVec.eq_of_toNat_eq hz

/-! ### The constructor of an opcode is laid out with that opcode -/

theorem layoutOf_ctorV {o : Nat} {k : Hdr → VFields → Instr} (hk : ctorV o = some k) (h : Hdr) (f : VFields) :
    layoutOf (k h f) = words (BitVec.ofNat 8 o) h (packV f) ∧ subAgrees (k h f) = true := by
  unfold ctorV at hk
  split at hk <;> cases hk <;> exact ⟨rfl, rfl⟩

theorem layoutOf_ctorS {o : Nat} {k : Hdr → SFields → Instr} (hk : ctorS o = some k) (h : Hdr) (f : SFields) :
    layoutOf (k h f) = words (BitVec.ofNat 8 o) h (packS f) ∧ subAgrees (k h f) = true := by
  unfold ctorS at hk
  split at hk <;> cases hk <;> exact ⟨rfl, rfl⟩

theorem layoutOf_ctorM {o : Nat} {k : Hdr → MFields → Instr} (hk : ctorM o = some k) (h : Hdr) (f : MFields) :
    layoutOf (k h f) = words (BitVec.ofNat 8 o) h (packM f) ∧ subAgrees (k h f) = true := by
  unfold ctorM at hk
  split at hk <;> cases hk <;> exact ⟨rfl, rfl⟩

theorem layoutOf_ctorC {o : Nat} {k : Hdr → CFields → Instr} (hk : ctorC o = some k) (h : Hdr) (f : CFields) :
    layoutOf (k h f) = words (BitVec.ofNat 8 o) h (packC f) ∧ subAgrees (k h f) = true := by
  unfold ctorC at hk
  split at hk <;> cases hk <;> exact ⟨rfl, rfl⟩

theorem layoutOf_ctorY {o : Nat} {k : Hdr → YFields → Instr} (hk : ctorY o = some k) (h : Hdr) (f : YFields) :
    layoutOf (k h f) = words (BitVec.ofNat 8 o) h (packY f) ∧ subAgrees (k h f) = true := by
  unfold ctorY at hk
  split at hk <;> cases hk <;> exact ⟨rfl, rfl⟩

/-- 02 R29: 0x10 is the one opcode of Format B. -/
theorem formatOf_eq_B : ∀ o : BitVec 8, formatOf o.toNat = some .B → o = 0x10#8 := by decide

theorem layoutOf_ctorB {mode : BitVec 2} {k : Hdr → BFields → Instr} (hk : ctorB mode.toNat = some k) (h : Hdr) (f : BFields) :
    layoutOf (k h f) = words 0x10#8 h (packB mode f) ∧ subAgrees (k h f) = true := by
  have hm : mode = BitVec.ofNat 2 mode.toNat := by simp
  unfold ctorB at hk
  split at hk <;> cases hk <;> rw [hm, ‹mode.toNat = _›] <;> exact ⟨rfl, rfl⟩

/-- 03 R66: SUB 1 of RAST, BLEND, TRAV and FILT is the set-up form. -/
theorem layoutOf_ctorX {o : Nat} {f : XFields} {k : Hdr → XFields → Instr} (hk : ctorX o f.sub.toNat = some k) (h : Hdr) :
    layoutOf (k h f) = words (BitVec.ofNat 8 o) h (packX f) ∧ subAgrees (k h f) = true := by
  have hsub : (f.sub.toNat == 1) = (f.sub == 1#2) := by
    rw [Bool.eq_iff_iff, beq_iff_eq, beq_iff_eq]
    exact BitVec.toNat_inj (y := 1#2)
  unfold ctorX at hk
  rw [hsub] at hk
  split at hk <;> cases hk <;> by_cases hs : f.sub = 1#2 <;> simp [layoutOf, subAgrees, hs]

/-- The instruction that a legal word holds is laid out as that word, with the word after it where XW is set. -/
theorem layoutOf_of_decodeLegal {w y : Word} {nv : Nat} {i : Instr} (hl : illegalReason w.toNat y.toNat nv = none)
    (hd : decodeLegal w y = some i) :
    layoutOf i = some { word := w, ext := if w.getLsbD 54 then some y else none } ∧ subAgrees i = true := by
  have hopc : bits w.toNat 63 56 = (readOpc w).toNat := bits_toNat w 63 56
  have fields : ∀ b, b = w.extractLsb' 0 48 → words (BitVec.ofNat 8 (readOpc w).toNat) (readHdr w y) b =
      some { word := w, ext := if w.getLsbD 54 then some y else none } := by
    intro b hb
    rw [BitVec.ofNat_toNat, BitVec.setWidth_eq]
    exact words_read w y b hb
  simp only [decodeLegal] at hd
  split at hd
  next => cases hd
  next =>
    obtain ⟨k, hk, rfl⟩ := Option.map_eq_some_iff.mp hd
    exact fields _ (packV_read w) ▸ layoutOf_ctorV hk _ _
  next hf =>
    obtain ⟨k, hk, rfl⟩ := Option.map_eq_some_iff.mp hd
    exact fields _ (packS_read w (sFormat_reserved hl (hopc ▸ hf))) ▸ layoutOf_ctorS hk _ _
  next =>
    obtain ⟨k, hk, rfl⟩ := Option.map_eq_some_iff.mp hd
    exact fields _ (packM_read w) ▸ layoutOf_ctorM hk _ _
  next hf =>
    obtain ⟨k, hk, rfl⟩ := Option.map_eq_some_iff.mp hd
    have hB : BitVec.ofNat 8 (readOpc w).toNat = 0x10#8 := by rw [formatOf_eq_B _ hf]; rfl
    exact fields _ (packB_read w) ▸ hB ▸ layoutOf_ctorB hk _ _
  next =>
    obtain ⟨k, hk, rfl⟩ := Option.map_eq_some_iff.mp hd
    exact fields _ (packC_read w) ▸ layoutOf_ctorC hk _ _
  next =>
    obtain ⟨k, hk, rfl⟩ := Option.map_eq_some_iff.mp hd
    exact fields _ (packX_read w) ▸ layoutOf_ctorX hk _
  next hf =>
    obtain ⟨k, hk, rfl⟩ := Option.map_eq_some_iff.mp hd
    exact fields _ (packY_read w (yFormat_reserved hl (hopc ▸ hf))) ▸ layoutOf_ctorY hk _ _

/-- The decoder answers an instruction exactly for a legal word that holds it. -/
theorem decode_eq_ok {w y : Word} {nv : Nat} {i : Instr} (h : decode w y nv = .ok i) :
    illegalReason w.toNat y.toNat nv = none ∧ decodeLegal w y = some i := by
  unfold decode at h
  split at h
  · cases h
  · split at h <;> cases h
    exact ⟨‹_›, ‹_›⟩

end Sys2Proof.Machine

namespace Sys2Proof.Laws.Word
open Sys2Proof.Machine

/-- Every constructor's own words, read as a legal word is read, hold it again. -/
theorem decodeLegal_layoutOf : ∀ i : Instr, Statement i
  | .nop a b => nop a b | .exit a b => exit a b | .yield a b => yield a b | .trap a b => trap a b | .tret a b => tret a b
  | .bkpt a b => bkpt a b | .sysrd a b => sysrd a b | .syswr a b => syswr a b | .fence a b => fence a b | .waitw a b => waitw a b
  | .bar a b => bar a b | .br a b => br a b | .bru a b => bru a b | .brs a b => brs a b | .jal a b => jal a b
  | .jmp a b => jmp a b | .setprio a b => setprio a b | .cvset a b => cvset a b | .cvsign a b => cvsign a b
  | .cvwait a b => cvwait a b | .spawn a b => spawn a b | .repack a b => repack a b | .iadd a b => iadd a b
  | .isub a b => isub a b | .imul a b => imul a b | .imad a b => imad a b | .imin a b => imin a b | .imax a b => imax a b
  | .iabs a b => iabs a b | .idiv a b => idiv a b | .irem a b => irem a b | .iaddc a b => iaddc a b | .and a b => and a b
  | .or a b => or a b | .xor a b => xor a b | .bmix a b => bmix a b | .shl a b => shl a b | .shr a b => shr a b
  | .rot a b => rot a b | .funnel a b => funnel a b | .bfe a b => bfe a b | .bfi a b => bfi a b | .popc a b => popc a b
  | .clz a b => clz a b | .brev a b => brev a b | .icmp a b => icmp a b | .sel a b => sel a b | .mov a b => mov a b
  | .lea a b => lea a b | .idp4 a b => idp4 a b | .sad a b => sad a b | .fadd a b => fadd a b | .fsub a b => fsub a b
  | .fmul a b => fmul a b | .fma a b => fma a b | .fmin a b => fmin a b | .fmax a b => fmax a b | .fneg a b => fneg a b
  | .fabs a b => fabs a b | .fcmp a b => fcmp a b | .fdiv a b => fdiv a b | .fsqrt a b => fsqrt a b | .frcp a b => frcp a b
  | .frsq a b => frsq a b | .fex2 a b => fex2 a b | .flg2 a b => flg2 a b | .fsin a b => fsin a b | .fcos a b => fcos a b
  | .frnd a b => frnd a b | .ffrac a b => ffrac a b | .fldexp a b => fldexp a b | .fclass a b => fclass a b
  | .fdot2 a b => fdot2 a b | .flerp a b => flerp a b | .fmed3 a b => fmed3 a b | .cvt a b => cvt a b | .pack a b => pack a b
  | .unpack a b => unpack a b | .tripack a b => tripack a b | .triunpk a b => triunpk a b | .lxch a b => lxch a b
  | .pqry a b => pqry a b | .wred a b => wred a b | .wscan a b => wscan a b | .lpeer a b => lpeer a b | .lread a b => lread a b
  | .lwrite a b => lwrite a b | .sadd a b => sadd a b | .ssub a b => ssub a b | .smul a b => smul a b | .sand a b => sand a b
  | .sor a b => sor a b | .sxor a b => sxor a b | .sshl a b => sshl a b | .sshr a b => sshr a b | .scmp a b => scmp a b
  | .smov a b => smov a b | .ssel a b => ssel a b | .sbfe a b => sbfe a b | .sff1 a b => sff1 a b | .spopc a b => spopc a b
  | .slea a b => slea a b | .ld a b => ld a b | .st a b => st a b | .ldl a b => ldl a b | .stl a b => stl a b
  | .lds a b => lds a b | .sts a b => sts a b | .ldcvt a b => ldcvt a b | .pref a b => pref a b | .cflush a b => cflush a b
  | .fifopush a b => fifopush a b | .fifopop a b => fifopop a b | .bankcfg a b => bankcfg a b | .qpop a b => qpop a b
  | .qstat a b => qstat a b | .strm a b => strm a b | .strmx a b => strmx a b | .atom a b => atom a b | .atomx a b => atomx a b
  | .red a b => red a b | .atoml a b => atoml a b | .xred a b => xred a b | .copy a b => copy a b | .copym a b => copym a b
  | .halo a b => halo a b | .gathv a b => gathv a b | .tagarm a b => tagarm a b | .tagwait a b => tagwait a b
  | .tagff a b => tagff a b | .tagclr a b => tagclr a b | .obres a b => obres a b | .obrel a b => obrel a b
  | .obld a b => obld a b | .mma a b => mma a b | .accz a b => accz a b | .accld a b => accld a b | .drain a b => drain a b
  | .accrd a b => accrd a b | .mstat a b => mstat a b | .rast a b => rast a b | .rastSet a b => rastSet a b
  | .blend a b => blend a b | .blendSet a b => blendSet a b | .trav a b => trav a b | .travSet a b => travSet a b
  | .filt a b => filt a b | .filtSet a b => filtSet a b | .bin a b => bin a b | .mcall a b => mcall a b
  | .taskpush a b => taskpush a b | .hqpush a b => hqpush a b | .hqpop a b => hqpop a b | .ordin a b => ordin a b
  | .ordout a b => ordout a b | .ordseq a b => ordseq a b | .trmark a b => trmark a b | .relaunch a b => relaunch a b
  | .launch a b => launch a b | .variableLatencyResult a b c => variableLatencyResult a b c | .trapDelivery a => trapDelivery a
  | .tlbWalkComplete a b => tlbWalkComplete a b | .walkDispatch a => walkDispatch a | .ringRecordWrite a => ringRecordWrite a
  | .fltdoneRetry a => fltdoneRetry a | .fltdoneAbort a => fltdoneAbort a | .scdone a b => scdone a b | .tlbicmd a => tlbicmd a
  | .tlbInvalidationDone => tlbInvalidationDone | .microcodeLoad a => microcodeLoad a | .microcodeUnload a => microcodeUnload a
  | .microcodeReplace => microcodeReplace | .kick a => kick a | .graphUpload => graphUpload | .graphFree a => graphFree a
  | .nodeStart a b => nodeStart a b | .copyNodeDone a b => copyNodeDone a b | .waitNodeCheck a b => waitNodeCheck a b
  | .kernelNodeComplete a b => kernelNodeComplete a b | .relaunchStart a => relaunchStart a | .teamPlace => teamPlace
  | .launchAgeing a => launchAgeing a | .poolReassign => poolReassign | .poolReassignDone a => poolReassignDone a
  | .timeSliceExpiry a => timeSliceExpiry a | .drainTimeout a => drainTimeout a | .teamFlush a => teamFlush a
  | .teamSave a => teamSave a | .teamRestore a => teamRestore a | .macroSliceStop a => macroSliceStop a
  | .waveForm a b => waveForm a b | .partialWaveTimeout a b => partialWaveTimeout a b
  | .copyDeliver a b c d e => copyDeliver a b c d e | .copyPrepass a b => copyPrepass a b | .streamFetch a b => streamFetch a b
  | .bankcfgDrainDone a b => bankcfgDrainDone a b | .accessPerform a b c d => accessPerform a b c d
  | .promotionNotice a b => promotionNotice a b | .engineOpStart a b => engineOpStart a b
  | .addOnStoreApply a b => addOnStoreApply a b | .binQueuePush a => binQueuePush a
  | .ordStallTimeout a b c => ordStallTimeout a b c | .ordqQuery a => ordqQuery a | .ordqPurge a => ordqPurge a
  | .waitwWake a => waitwWake a | .waitwTimeout a => waitwTimeout a | .meterTick => meterTick
  | .sentinelWarning a => sentinelWarning a | .sentinelDecay a => sentinelDecay a | .hostBar2Write a b => hostBar2Write a b
  | .hostBar2Read a b => hostBar2Read a b | .registerWrite a b c => registerWrite a b c | .rcfgEnable a b => rcfgEnable a b
  | .rcfgDisable a => rcfgDisable a | .rheadWrite a b => rheadWrite a b | .lkctlTail a b => lkctlTail a b
  | .lkctlEnable a b => lkctlEnable a b | .linkWidthChange a b => linkWidthChange a b
  | .linkDescriptorSend a => linkDescriptorSend a | .linkFlitReceive a b c d => linkFlitReceive a b c d
  | .linkAck a b => linkAck a b | .powerOn => powerOn | .functionLevelReset => functionLevelReset | .rstcmdWarm a => rstcmdWarm a
  | .rstcmdCold a => rstcmdCold a | .startStage a => startStage a | .reccmd a => reccmd a | .attestReport => attestReport
  | .notAnInstruction a b => notAnInstruction a b | .softError a b => softError a b | .pcieCompletion a b => pcieCompletion a b
  | .completionTimeout a => completionTimeout a | .pcieConfigWrite a => pcieConfigWrite a | .linkTrained a b => linkTrained a b

end Sys2Proof.Laws.Word

namespace Sys2Proof.Safety
open Sys2Proof.Machine

/-- 02 R23: an instruction has an extension word exactly when bit 54 of its word, XW, is set. -/
theorem layoutOf_ext_isSome (i : Instr) (l : Words) (hl : layoutOf i = some l) : l.ext.isSome = l.word.getLsbD 54 := by
  cases i <;> cases hl <;> exact (packHdr_x _ _ _).symm

/-- The reason of an instruction is that of its words, whatever follows a word without XW. -/
theorem reason_eq {i : Instr} {l : Words} {y : Word} (hl : layoutOf i = some l) (hy : l.ext = none ∨ l.ext = some y) (nv : Nat) :
    i.reason nv = illegalReason l.word.toNat y.toNat nv := by
  have hx := layoutOf_ext_isSome i l hl
  have hr : i.layout = some l := hl
  simp only [Instr.reason, hr]
  rcases hy with hy | hy <;> rw [hy] at hx ⊢
  exact illegalReason_of_xw_zero ((bit_toNat _ _).trans hx.symm) _ _ _

theorem decode_encode {i : Instr} {n : Nat} (hi : WellFormed i n = true) : ∃ (w : Word) (x : Option Word), encode i = some (w, x) ∧
    ∀ y, x = none ∨ x = some y → decode w y n = .ok i := by
  simp only [WellFormed, Bool.and_eq_true, Option.isSome_iff_exists, Option.isNone_iff_eq_none] at hi
  obtain ⟨⟨⟨l, hl⟩, hr⟩, hs⟩ := hi
  refine ⟨l.word, l.ext, by simp only [encode, hl], fun y hy => ?_⟩
  rw [reason_eq hl hy] at hr
  simp only [decode, hr, Laws.Word.decodeLegal_layoutOf i l y hl hs hy]

theorem encode_decode {w y : Word} {n : Nat} {i : Instr} (hd : decode w y n = .ok i) :
    WellFormed i n = true ∧ encode i = some (w, if w.getLsbD 54 then some y else none) := by
  obtain ⟨hr, hd⟩ := decode_eq_ok hd
  obtain ⟨hl, hs⟩ := layoutOf_of_decodeLegal hr hd
  have hy : (if w.getLsbD 54 then some y else none) = none ∨ (if w.getLsbD 54 then some y else none) = some y := by
    cases w.getLsbD 54 <;> simp
  have hreason : i.reason n = none := (reason_eq hl hy n).trans hr
  have hlay : i.layout = some _ := hl
  exact ⟨by simp [WellFormed, hlay, hreason, hs], by simp only [encode, hlay]⟩

/-- Settles O53: `decode_encode` for the words of an instruction, `encode_decode` for a word that decodes. -/
theorem decodeEncode : Obligations.DecodeEncode :=
  ⟨fun _ _ => decode_encode, fun _ _ _ _ => encode_decode⟩

end Sys2Proof.Safety
end

section
/-! PROOF. O5: what the operand forms read (02 R25 to R28), with the F64 operand of an F32 immediate (02 R26). -/

namespace Sys2Proof.Machine

/-! ### Immediates -/

theorem toSigned_toNat {v : Nat} (x : BitVec v) : toSigned v x.toNat = x.toInt := by
  simp only [toSigned, Nat.mod_eq_of_lt x.isLt, bit_toNat, BitVec.toInt_eq_msb_cond, BitVec.msb_eq_getLsbD_last]

/-- Sign extension, on the numbers of the model. -/
theorem wrap_toSigned {v : Nat} (n : Nat) (x : BitVec v) : wrap n (toSigned v x.toNat) = (x.signExtend n).toNat := by
  rw [toSigned_toNat, wrap, BitVec.signExtend, BitVec.toNat_ofInt]

/-- 02 R25: X[31:0]. -/
theorem toNat_extract_low (x : Word) : (x.extractLsb' 0 32).toNat = x.toNat % 2 ^ 32 := by
  rw [BitVec.extractLsb'_toNat, Nat.shiftRight_zero]

/-- 02 R25: X[63:32]. -/
theorem toNat_extract_high (x : Word) : (x.extractLsb' 32 32).toNat = x.toNat / 2 ^ 32 := by
  rw [BitVec.extractLsb'_toNat, Nat.shiftRight_eq_div_pow]
  omega

/-! ### The F64 code of a value that F64 holds (07 R135) -/

open Sys2Proof.Safety in
theorem sameValue_dyadic (s : Bool) (m j : Nat) (q : Int) :
    SameValue (Val.dyadic s (m * 2 ^ j) (q - j)) (Val.dyadic s m q) := by
  have hp (a b c : Nat) (h : j + a = b + c) : m * 2 ^ j * 2 ^ a = m * 2 ^ b * 2 ^ c := by
    rw [Nat.mul_assoc, Nat.mul_assoc, ← Nat.pow_add, ← Nat.pow_add, h]
  unfold Val.dyadic
  split <;> split <;> refine ⟨rfl, ?_⟩
  · rw [hp _ 0 (-(q - j)).toNat (by omega), Nat.pow_zero, Nat.mul_one]
  · rw [Nat.mul_one, ← hp 0 _ _ (by omega), Nat.pow_zero, Nat.mul_one]
  · omega
  · rw [Nat.mul_one, Nat.mul_one, Nat.mul_assoc, ← Nat.pow_add]
    congr 2
    omega

theorem log2_mul_two_pow {m : Nat} (hm : m ≠ 0) (k : Nat) : Nat.log2 (m * 2 ^ k) = Nat.log2 m + k := by
  rw [Nat.log2_eq_iff (Nat.mul_ne_zero hm (Nat.two_pow_pos k).ne'), Nat.pow_add, Nat.add_right_comm, Nat.pow_add]
  exact ⟨Nat.mul_le_mul_right _ (Nat.log2_self_le hm), Nat.mul_lt_mul_of_pos_right Nat.lt_log2_self (Nat.two_pow_pos k)⟩

theorem ilog2_div_two_pow {m : Nat} (hm : m ≠ 0) (k : Nat) : ilog2 m (2 ^ k) = (Nat.log2 m : Int) - k := by
  have hlow := Nat.log2_self_le hm
  have hdown (a : Nat) (h : Nat.log2 m = k + a) : 2 ^ k * 2 ^ a ≤ m := by rwa [← Nat.pow_add, ← h]
  have hup (a : Nat) (h : Nat.log2 m + a = k) : 2 ^ k ≤ m * 2 ^ a := by
    rw [← h, Nat.pow_add]
    exact Nat.mul_le_mul_right _ hlow
  simp only [ilog2, Nat.log2_two_pow]
  rw [if_neg]
  split
  · exact Nat.not_lt.mpr (hup _ (by omega))
  · exact Nat.not_lt.mpr (hdown _ (by omega))

/-- The fraction m of a dyadic value and its exponent q as `fencode` finds them: floor(log2), and the 53-bit significand. -/
theorem dyadic_parts {s : Bool} {m n d : Nat} {q : Int} (hm : m ≠ 0) (hl : Nat.log2 m ≤ 52) (hv : Val.dyadic s m q = .fin s n d) :
    n ≠ 0 ∧ ilog2 n d = Nat.log2 m + q ∧
      (if Nat.log2 m + q - 52 < 0 then n * 2 ^ (-(Nat.log2 m + q - 52)).toNat / d else n / (d * 2 ^ (Nat.log2 m + q - 52).toNat)) =
        m * 2 ^ (52 - Nat.log2 m) := by
  have hcancel (j i r : Nat) (h : j = 52 - Nat.log2 m + r) (hr : i = r) : m * 2 ^ j / 2 ^ i = m * 2 ^ (52 - Nat.log2 m) := by
    rw [h, hr, Nat.pow_add, ← Nat.mul_assoc, Nat.mul_div_cancel _ (Nat.two_pow_pos r)]
  unfold Val.dyadic at hv
  split at hv <;> obtain ⟨-, rfl, rfl⟩ := Val.fin.inj hv
  · refine ⟨hm, ?_, ?_⟩
    · rw [ilog2_div_two_pow hm]
      omega
    · rw [if_pos (by omega)]
      exact hcancel _ _ _ (by omega) rfl
  · refine ⟨Nat.mul_ne_zero hm (Nat.two_pow_pos _).ne', ?_, ?_⟩
    · rw [← Nat.pow_zero 2, ilog2_div_two_pow (Nat.mul_ne_zero hm (Nat.two_pow_pos _).ne'), log2_mul_two_pow hm]
      omega
    · split
      · rw [Nat.div_one, Nat.mul_assoc, ← Nat.pow_add]
        congr 2
        omega
      · rw [Nat.one_mul]
        exact hcancel _ _ _ (by omega) rfl

/-- A significand moved up to 53 bits. -/
theorem two_pow_52_le {m : Nat} (hm : m ≠ 0) (hl : Nat.log2 m ≤ 52) : 2 ^ 52 ≤ m * 2 ^ (52 - Nat.log2 m) := by
  calc 2 ^ 52 = 2 ^ Nat.log2 m * 2 ^ (52 - Nat.log2 m) := by rw [← Nat.pow_add, Nat.add_sub_cancel' hl]
    _ ≤ _ := Nat.mul_le_mul_right _ (Nat.log2_self_le hm)

/-- The code of m × 2^q with m of at most 53 bits and the exponent of a normal number: sign, biased exponent, fraction. -/
theorem fencode_f64_dyadic {m : Nat} {q : Int} (s : Bool) (hm : m ≠ 0) (hl : Nat.log2 m ≤ 52) (h1 : -1022 ≤ Nat.log2 m + q) :
    fencode .f64 (.dyadic s m q) =
      b2n s * 2 ^ 63 + (Nat.log2 m + q + 1023).toNat * 2 ^ 52 + (m * 2 ^ (52 - Nat.log2 m) - 2 ^ 52) := by
  obtain ⟨n, d, hv⟩ : ∃ n d, Val.dyadic s m q = .fin s n d := by
    unfold Val.dyadic
    split <;> exact ⟨_, _, rfl⟩
  obtain ⟨hn, he, hsig⟩ := dyadic_parts hm hl hv
  have hemin : max (Nat.log2 m + q) (Fmt.emin .f64) = Nat.log2 m + q := max_eq_left h1
  have hn0 : (n == 0) = false := by simpa using hn
  rw [hv]
  have hfrac : ((Fmt.frac .f64 : Nat) : Int) = 52 := rfl
  simp only [fencode, he, hemin, hn0, Bool.false_eq_true, if_false, hfrac, hsig]
  exact if_neg (Nat.not_lt.mpr (two_pow_52_le hm hl))

theorem fdecode_f64_normal (s : Bool) {e f : Nat} (h1 : 1 ≤ e) (h2 : e ≤ 2046) (hf : f < 2 ^ 52) :
    fdecode .f64 (b2n s * 2 ^ 63 + e * 2 ^ 52 + f) = .dyadic s (2 ^ 52 + f) (e - 1075) := by
  have hb : b2n s ≤ 1 := by cases s <;> decide
  have hs : bit (b2n s * 2 ^ 63 + e * 2 ^ 52 + f) (Fmt.width .f64 - 1) = s := by
    rw [bit, Nat.shiftRight_eq_div_pow]
    cases s <;> simp [b2n, Fmt.width] <;> omega
  have he : bits (b2n s * 2 ^ 63 + e * 2 ^ 52 + f) (Fmt.width .f64 - 2) (Fmt.frac .f64) = e := by
    rw [bits, Nat.shiftRight_eq_div_pow]
    simp [Fmt.width, Fmt.frac]
    omega
  have hm : (b2n s * 2 ^ 63 + e * 2 ^ 52 + f) % 2 ^ (Fmt.frac .f64) = f := by
    simp [Fmt.frac]
    omega
  have h3 : (e == 2 ^ Fmt.ebits .f64 - 1) = false := by
    simp [Fmt.ebits, Fmt.width, Fmt.frac]
    omega
  have h4 : (e == 0) = false := by simp; omega
  unfold fdecode
  simp only [hs, he, hm, h3, h4, Bool.false_eq_true, if_false]
  congr 1
  simp [Fmt.bias, Fmt.ebits, Fmt.width, Fmt.frac]
  omega

open Sys2Proof.Safety in
/-- A dyadic value of at most 53 bits in the range of the normal numbers: F64 holds it. -/
theorem fdecode_fencode_f64 {m : Nat} {q : Int} (s : Bool) (hm : m ≠ 0) (hl : Nat.log2 m ≤ 52) (h1 : -1022 ≤ Nat.log2 m + q)
    (h2 : Nat.log2 m + q ≤ 1023) :
    fencode .f64 (.dyadic s m q) < 2 ^ 64 ∧ SameValue (fdecode .f64 (fencode .f64 (.dyadic s m q))) (.dyadic s m q) := by
  have hlow : 2 ^ 52 ≤ m * 2 ^ (52 - Nat.log2 m) := two_pow_52_le hm hl
  have hhigh : m * 2 ^ (52 - Nat.log2 m) < 2 ^ 53 := by
    calc m * 2 ^ (52 - Nat.log2 m) < 2 ^ (Nat.log2 m + 1) * 2 ^ (52 - Nat.log2 m) :=
          Nat.mul_lt_mul_of_pos_right Nat.lt_log2_self (Nat.two_pow_pos _)
      _ = 2 ^ 53 := by rw [← Nat.pow_add]; congr 1; omega
  have hs : b2n s ≤ 1 := by cases s <;> decide
  have hsame := sameValue_dyadic s m (52 - Nat.log2 m) q
  rw [fencode_f64_dyadic s hm hl h1]
  generalize m * 2 ^ (52 - Nat.log2 m) = sig at hlow hhigh hsame ⊢
  rw [fdecode_f64_normal s (by omega) (by omega) (by omega), Nat.add_sub_cancel' hlow,
    show (((Nat.log2 m + q + 1023).toNat : Nat) : Int) - 1075 = q - (52 - Nat.log2 m : Nat) by omega]
  exact ⟨by omega, hsame⟩

end Sys2Proof.Machine

namespace Sys2Proof.Safety
open Sys2Proof.Machine

/-! ### An F32 immediate as an F64 operand (02 R26) -/

/-- The codes of an F32 that is no NaN: an infinity, a zero, and numbers of at most 24 bits (07 R135). -/
theorem fdecode_f32_cases {x : Nat} (hn : (fdecode .f32 x).isNaN = false) : ∃ s : Bool, fdecode .f32 x = .inf s ∨
    fdecode .f32 x = .dyadic s 0 (-149) ∨
    ∃ (m : Nat) (q : Int), m ≠ 0 ∧ m < 2 ^ 24 ∧ -149 ≤ q ∧ q ≤ 104 ∧ fdecode .f32 x = .dyadic s m q := by
  have hfrac : x % 2 ^ 23 < 2 ^ 23 := Nat.mod_lt _ (by decide)
  have hexp : bits x 30 23 < 256 := Nat.mod_lt _ (by decide)
  refine ⟨bit x 31, ?_⟩
  have hdef : fdecode .f32 x = if bits x 30 23 == 255 then (if x % 2 ^ 23 == 0 then .inf (bit x 31) else .nan (!bit x 22))
      else if bits x 30 23 == 0 then .dyadic (bit x 31) (x % 2 ^ 23) (-149)
      else .dyadic (bit x 31) (2 ^ 23 + x % 2 ^ 23) ((bits x 30 23 : Int) - 127 - 23) := rfl
  rw [hdef] at hn ⊢
  split at hn
  · split at hn
    · rw [if_pos ‹_›, if_pos ‹_›]
      exact .inl rfl
    · cases hn
  next h255 =>
    rw [if_neg h255]
    simp only [beq_iff_eq] at h255
    split
    · by_cases h0 : x % 2 ^ 23 = 0
      · exact .inr (.inl (by rw [h0]))
      · exact .inr (.inr ⟨_, _, h0, by omega, by omega, by omega, rfl⟩)
    next hz =>
      simp only [beq_iff_eq] at hz
      exact .inr (.inr ⟨_, _, by omega, by omega, by omega, by omega, rfl⟩)

/-- F64 holds every F32 value that is no NaN. -/
theorem f64_holds_f32 {x : Nat} (hn : (fdecode .f32 x).isNaN = false) :
    fencode .f64 (fdecode .f32 x) < 2 ^ 64 ∧ SameValue (fdecode .f64 (fencode .f64 (fdecode .f32 x))) (fdecode .f32 x) := by
  obtain ⟨s, h | h | ⟨m, q, hm, hlt, hq, hq', h⟩⟩ := fdecode_f32_cases hn <;> rw [h]
  · cases s <;> exact ⟨by decide, rfl⟩
  · have hcode : fencode .f64 (.dyadic s 0 (-149)) = b2n s * 2 ^ 63 := by cases s <;> rfl
    have hval : fdecode .f64 (b2n s * 2 ^ 63) = .dyadic s 0 (-1074) := by cases s <;> decide +kernel
    rw [hcode, hval]
    exact ⟨by cases s <;> decide, rfl, (Nat.zero_mul _).trans (Nat.zero_mul _).symm⟩
  · have hlog : Nat.log2 m < 24 := (Nat.log2_lt hm).mpr hlt
    exact fdecode_fencode_f64 s hm (by omega) (by omega) (by omega)

/-- A field on top of another. -/
theorem toNat_append_eq_add {v n : Nat} (x : BitVec v) (y : BitVec n) : (x ++ y).toNat = x.toNat * 2 ^ n + y.toNat := by
  rw [BitVec.toNat_append, ← Nat.shiftLeft_add_eq_or_of_lt y.isLt, Nat.shiftLeft_eq]

theorem widenedImm_f32ToF64Imm (x : BitVec 32) : WidenedImm x (f32ToF64Imm x.toNat) := by
  refine ⟨fun hn => ?_, fun hn => ?_⟩
  · have he : f32ToF64Imm x.toNat = fencode .f64 (fdecode .f32 x.toNat) := by
      unfold f32ToF64Imm
      cases hv : fdecode .f32 x.toNat <;> simp_all [Val.isNaN]
    exact he ▸ f64_holds_f32 hn
  · have he : f32ToF64Imm x.toNat = x.toNat / 2 ^ 31 * 2 ^ 63 + 2047 * 2 ^ 52 + x.toNat % 2 ^ 23 * 2 ^ 29 := by
      unfold f32ToF64Imm
      cases hv : fdecode .f32 x.toNat <;> simp_all [Val.isNaN]
    rw [he, toNat_append_eq_add, toNat_append_eq_add, toNat_append_eq_add, BitVec.extractLsb'_toNat, BitVec.extractLsb'_toNat,
      Nat.shiftRight_eq_div_pow, Nat.shiftRight_eq_div_pow]
    have := x.isLt
    simp
    omega

/-- What a source reads under its kind, when its immediate is the given half of the extension word. -/
theorem sourceReads_readSrc {k : Kind} {idx : BitVec 9} {w : Wave} {ln : Lane} {x : Option (BitVec 32)} {imm : Nat}
    (himm : ∀ i, x = some i → imm = i.toNat) :
    SourceReads k (fun j => ln.vr (idx.toNat + j)) (fun j => w.sr (idx.toNat + j)) x (fun n ty => readSrc k idx w ln n ty imm) := by
  refine ⟨?_, ?_, ?_, ?_⟩
  · rintro rfl ty
    simp [readSrc, Lane.vblock]
  · rintro rfl ty
    simp [readSrc, Wave.sblock]
  · rintro rfl n ty
    rfl
  · rintro i rfl hx
    rw [himm i hx]
    exact ⟨rfl, wrap_toSigned 64 i, widenedImm_f32ToF64Imm i⟩

/-- 02 R25, R26: the sources of Format V. -/
theorem formatV_sources (h : Hdr) (f : VFields) (w : Wave) (ln : Lane) :
    SourceReads f.ka (fun k => ln.vr (f.a.toNat + k)) (fun k => w.sr (f.a.toNat + k)) (h.x.map (fun x => x.extractLsb' 0 32)) (srcA h f w ln) ∧
    SourceReads f.kb (fun k => ln.vr (f.b.toNat + k)) (fun k => w.sr (f.b.toNat + k)) (h.x.map (fun x => x.extractLsb' 32 32)) (srcB h f w ln) ∧
    (f.kc = true → ∀ n, srcC f ln n = 0) ∧
    (f.kc = false → srcC f ln 1 = ln.vr f.c.toNat ∧ srcC f ln 2 = ln.vr f.c.toNat + 2 ^ 32 * ln.vr (f.c.toNat + 1)) := by
  have himm (half : Word → BitVec 32) (n : Nat) (hn : ∀ x, h.x = some x → n = (half x).toNat) (i : BitVec 32)
      (hi : h.x.map half = some i) : n = i.toNat := by
    obtain ⟨x, hx, rfl⟩ := Option.map_eq_some_iff.mp hi
    exact hn x hx
  refine ⟨sourceReads_readSrc (himm _ _ fun x hx => ?_), sourceReads_readSrc (himm _ _ fun x hx => ?_), ?_, ?_⟩
  · rw [hdrExt, hx, toNat_extract_low]
  · rw [hdrExt, hx, toNat_extract_high]
  · intro hc n
    simp [srcC, hc]
  · intro hc
    simp [srcC, hc, Lane.vblock]

theorem sblock_wide (w : Wave) (r : Nat) (wide : Bool) :
    w.sblock r (if wide then 2 else 1) = w.sr r + (if wide then 2 ^ 32 * w.sr (r + 1) else 0) := by
  cases wide <;> simp [Wave.sblock]

/-- 02 R27: the sources of Format S. -/
theorem formatS_sources (h : Hdr) (f : SFields) (w : Wave) (wide zx : Bool) :
    scaA f w wide = w.sr f.a.toNat + (if wide then 2 ^ 32 * w.sr (f.a.toNat + 1) else 0) ∧
    (f.ik = false → scaB h f w wide zx = w.sr f.b.toNat + (if wide then 2 ^ 32 * w.sr (f.b.toNat + 1) else 0)) ∧
    (f.ik = true → h.x = none → scaB h f w wide zx =
      if zx then f.imm.toNat else if wide then (f.imm.signExtend 64).toNat else (f.imm.signExtend 32).toNat) ∧
    ∀ x : Word, f.ik = true → h.x = some x → scaB h f w wide zx =
      if wide then ((x.extractLsb' 0 32).signExtend 64).toNat else (x.extractLsb' 0 32).toNat := by
  refine ⟨sblock_wide w _ wide, fun hk => ?_, fun hk hx => ?_, fun x hk hx => ?_⟩
  · simp only [scaB, hk, Bool.false_eq_true, if_false, sblock_wide]
  · simp only [scaB, hk, hx, if_true, wrap_toSigned]
    cases wide <;> rfl
  · simp only [scaB, hk, hx, if_true, ← wrap_toSigned, toNat_extract_low]

theorem operandKinds : Claims.OperandKinds := ⟨formatV_sources, formatS_sources⟩

/-- 02 R28: the offset of Format M. -/
theorem memOff_of_ext {h : Hdr} {x : Word} (hx : h.x = some x) (f : MFields) : memOff h f = (x.extractLsb' 0 32).toInt := by
  simp only [memOff, hx, ← toNat_extract_low, toSigned_toNat]

theorem memOff_of_none {h : Hdr} (hx : h.x = none) (f : MFields) : memOff h f = f.off.toInt := by
  simp only [memOff, hx, toSigned_toNat]

/-- 02 R28, 06 R120: the addresses of Format M, by `memOff_of_ext` and `memOff_of_none`. -/
theorem addressForms : Claims.AddressForms := by
  intro h f w ln
  cases hx : h.x with
  | none => rw [globalEa, localEa, memOff_of_none hx]; exact ⟨rfl, rfl⟩
  | some x => rw [globalEa, localEa, memOff_of_ext hx]; exact ⟨rfl, rfl⟩

/-- Settles O5: the sources of Formats V and S by `operandKinds`, the addresses of Format M by `addressForms`. -/
theorem operandForms : Obligations.OperandForms := ⟨operandKinds, addressForms⟩

end Sys2Proof.Safety
end

section
/-! PROOF. O54: words of the opcode tables, decoded. -/

namespace Sys2Proof.Safety

/-- Settles O54: the decoder computes on each of the words. -/
theorem decodeWords : Obligations.DecodeWords := by
  unfold Obligations.DecodeWords
  decide

end Sys2Proof.Safety
end

section
/-! PROOF. O22: the delivery of an outstanding result (02 R35): what it writes, and what it leaves. -/

namespace Sys2Proof.Machine

open Sys2Proof.Safety

/-! ### Pending register writes -/

theorem listDrop_eq_eraseIdx {α : Type} (l : List α) (k : Nat) : listDrop l k = l.eraseIdx k := by
  induction l generalizing k with
  | nil => rfl
  | cons x r ih =>
    cases k with
    | zero => rfl
    | succ k => rw [listDrop, ih]; rfl

/-- A register write touches register files alone. -/
theorem Wave.write_rest (w : Wave) (x : RegWrite) : { w.write x with lanes := w.lanes, sregs := w.sregs } = w := by
  rw [Wave.write]
  split <;> rfl

theorem Wave.lane_write_rest (w : Wave) (x : RegWrite) (l : Nat) : { (w.write x).lane l with v := (w.lane l).v } = w.lane l := by
  rw [Wave.write]
  split
  · rfl
  · rw [Wave.lane_updLanes]
    split <;> rfl

theorem foldl_write_length (ws : List RegWrite) (w : Wave) : (ws.foldl Wave.write w).lanes.length = w.lanes.length := by
  induction ws generalizing w with
  | nil => rfl
  | cons x ws ih => rw [List.foldl_cons, ih, Wave.write_length]

theorem foldl_write_rest (ws : List RegWrite) (w : Wave) : { ws.foldl Wave.write w with lanes := w.lanes, sregs := w.sregs } = w := by
  induction ws generalizing w with
  | nil => rfl
  | cons x ws ih =>
    have h := congrArg (fun y : Wave => { y with lanes := w.lanes, sregs := w.sregs }) (ih (w.write x))
    exact h.trans (w.write_rest x)

theorem foldl_write_lane_rest (ws : List RegWrite) (w : Wave) (l : Nat) :
    { (ws.foldl Wave.write w).lane l with v := (w.lane l).v } = w.lane l := by
  induction ws generalizing w with
  | nil => rfl
  | cons x ws ih =>
    have h := congrArg (fun y : Lane => { y with v := (w.lane l).v }) (ih (w.write x))
    exact h.trans (w.lane_write_rest x l)

/-- Vector writes leave the scalar registers. -/
theorem foldl_write_sregs (ws : List RegWrite) (w : Wave) (h : ∀ x ∈ ws, x.scalar = false) : (ws.foldl Wave.write w).sregs = w.sregs := by
  induction ws generalizing w with
  | nil => rfl
  | cons x ws ih =>
    rw [List.foldl_cons, ih _ fun y hy => h y (List.mem_cons_of_mem _ hy), Wave.write, h x List.mem_cons_self]
    rfl

/-- Scalar writes, in order: they leave the lanes. -/
theorem foldl_write_scalar (ws : List RegWrite) (w : Wave) (h : ∀ x ∈ ws, x.scalar = true) :
    (ws.foldl Wave.write w).lanes = w.lanes ∧
      ∀ r, (ws.foldl Wave.write w).sr r = (lastReg (ws.map fun x => (x.reg, x.val.toNat)) r).getD (w.sr r) := by
  induction ws generalizing w with
  | nil => exact ⟨rfl, fun _ => rfl⟩
  | cons x ws ih =>
    have hx : w.write x = w.setS x.reg x.val.toNat := by rw [Wave.write, h x List.mem_cons_self]; rfl
    obtain ⟨hl, hr⟩ := ih (w.write x) fun y hy => h y (List.mem_cons_of_mem _ hy)
    refine ⟨hl.trans (by rw [hx]; rfl), fun r => ?_⟩
    rw [List.foldl_cons, hr, hx, Wave.sr_setS]
    simp only [lastReg, List.map_cons, List.reverse_cons, List.find?_append]
    cases (ws.map fun x => (x.reg, x.val.toNat)).reverse.find? (fun p => p.1 == r) with
    | some p => rfl
    | none =>
      by_cases e : x.reg = r
      · subst e; simp
      · simp [e, Ne.symm e]

/-- The last write to a register of a block of consecutive registers. -/
theorem lastReg_range (d n : Nat) (f : Nat → Nat) (r : Nat) :
    lastReg ((List.range n).map fun i => (d + i, f i)) r = if d ≤ r ∧ r < d + n then some (f (r - d) % 2 ^ 32) else none := by
  induction n with
  | zero => simp [lastReg, show ¬ (d ≤ r ∧ r < d) by omega]
  | succ n ih =>
    simp only [lastReg] at ih
    simp only [lastReg, List.range_succ, List.map_append, List.map_cons, List.map_nil, List.reverse_append, List.reverse_cons,
      List.reverse_nil, List.nil_append, List.cons_append, List.find?_cons]
    by_cases h : d + n = r
    · subst h
      simp
    · simp only [beq_eq_false_iff_ne.mpr h, ih]
      by_cases hr : d ≤ r ∧ r < d + n
      · rw [if_pos hr, if_pos (by omega)]
      · rw [if_neg hr, if_neg (by omega)]

/-! ### What a delivery leaves -/

theorem State.updWave_bare (s : State) (r : WaveRef) (f : Wave → Wave) : (s.updWave r f).teams.map bare = s.teams.map bare := by
  simp only [State.updWave, State.updTeam, List.map_map]
  apply List.map_congr_left
  intro t _
  simp only [Function.comp]
  split <;> rfl

theorem State.healRegs_rest (s : State) (p : Site → Bool) : { s.healRegs p with poisonRegs := s.poisonRegs } = s := by
  rw [State.healRegs]
  split <;> rfl

@[simp] theorem State.healRegs_teams (s : State) (p : Site → Bool) : (s.healRegs p).teams = s.teams := by
  rw [State.healRegs]
  split <;> rfl

@[simp] theorem State.healRegs_cores (s : State) (p : Site → Bool) : (s.healRegs p).cores = s.cores := by
  rw [State.healRegs]
  split <;> rfl

@[simp] theorem State.unlatch_teams (s : State) (r : WaveRef) (ws : List RegWrite) : (s.unlatch r ws).teams = s.teams := by
  rw [State.unlatch]
  split <;> rfl

theorem State.unlatch_rest (s : State) (r : WaveRef) (ws : List RegWrite) : { s.unlatch r ws with cores := s.cores } = s := by
  rw [State.unlatch]
  split <;> rfl

theorem State.unlatch_cores (s : State) (r : WaveRef) (ws : List RegWrite) :
    (s.unlatch r ws).cores.map (fun c => { c with latch := [] }) = s.cores.map (fun c => { c with latch := [] }) := by
  rw [State.unlatch]
  split
  · rfl
  · rw [List.map_map]
    rfl

/-- The wave `w` once the result `o`, its `k`-th, is written. -/
def Wave.deliver (w : Wave) (k : Nat) (o : Out) : Wave :=
  { (o.resultWrites.foldl Wave.write w).orFlags o.resultFlags with outs := listDrop w.outs k }

/-- What the delivery of result `k` of wave `r` leaves: of the wave all but its registers, WSTAT and that result, and everything else but the
poison and the latches of registers. -/
def Delivered (r : WaveRef) (k : Nat) (s : State) (w w' : Wave) (t : State) : Prop :=
  t.wave? r = some w' ∧ w'.outs = w.outs.eraseIdx k ∧ w'.lanes.length = w.lanes.length ∧
    (∀ l < w.lanes.length, { w'.lane l with v := (w.lane l).v } = w.lane l) ∧
    { w' with lanes := w.lanes, outs := w.outs, sregs := w.sregs, wstat := w.wstat } = w ∧
    { t with teams := s.teams, poisonRegs := s.poisonRegs, cores := s.cores } = s ∧ OthersSame r s t ∧
    t.cores.map (fun c => { c with latch := [] }) = s.cores.map (fun c => { c with latch := [] })

/-- Registers lose their poison and their latches, and nothing else changes. -/
theorem unlatch_healRegs (s : State) (r : WaveRef) (ws : List RegWrite) (p : Site → Bool) :
    ((s.healRegs p).unlatch r ws).teams = s.teams ∧
      { (s.healRegs p).unlatch r ws with poisonRegs := s.poisonRegs, cores := s.cores } = s ∧
      ((s.healRegs p).unlatch r ws).cores.map (fun c => { c with latch := [] }) = s.cores.map (fun c => { c with latch := [] }) := by
  have hu := (s.healRegs p).unlatch_rest r ws
  have hh := s.healRegs_rest p
  refine ⟨by rw [State.unlatch_teams, State.healRegs_teams], ?_, by rw [State.unlatch_cores, State.healRegs_cores]⟩
  have h1 := congrArg (fun x : State => { x with poisonRegs := s.poisonRegs, cores := s.cores }) hu
  have h2 := congrArg (fun x : State => { x with cores := s.cores }) hh
  exact h1.trans h2

theorem wave?_of_teams {s t : State} (h : t.teams = s.teams) (r : WaveRef) : t.wave? r = s.wave? r := by
  simp only [State.wave?, State.team?, h]

theorem Wave.lane_deliver (w : Wave) (k : Nat) (o : Out) (l : Nat) : (w.deliver k o).lane l = (o.resultWrites.foldl Wave.write w).lane l := rfl

/-- 02 R35: the delivery of a result that is no GATHV's (which counts its tag besides). -/
theorem writeOut_delivered {s : State} {r : WaveRef} {k : Nat} {w : Wave} {o : Out} (hw : s.wave? r = some w) (ho : w.outs[k]? = some o)
    (hfin : ∀ tag, o.fin ≠ .gath tag) : Delivered r k s w (w.deliver k o) (s.writeOut r k) := by
  have hout : s.writeOut r k = (((s.updWave r fun w => w.deliver k o).healRegs fun p => o.resultWrites.any fun x => x.hits r p).unlatch r
      o.resultWrites) := by
    unfold State.writeOut
    rw [hw, Option.bind_some, ho]
    cases hf : o.fin
    case gath tag => exact absurd hf (hfin tag)
    all_goals simp only [hf]; rfl
  obtain ⟨hteams, hrest, hcores⟩ := unlatch_healRegs (s.updWave r fun w => w.deliver k o) r o.resultWrites
    (fun p => o.resultWrites.any fun x => x.hits r p)
  rw [← hout] at hteams hrest hcores
  have hwave (q : WaveRef) := wave?_of_teams hteams q
  refine ⟨?_, listDrop_eq_eraseIdx _ _, foldl_write_length _ _, fun l _ => ?_, ?_, ?_, ⟨?_, fun q hq => ?_⟩, hcores⟩
  · rw [hwave, State.wave?_updWave, hw]
    rfl
  · rw [Wave.lane_deliver]
    exact foldl_write_lane_rest _ _ _
  · have h := congrArg (fun x : Wave => { x with outs := w.outs, wstat := w.wstat }) (foldl_write_rest o.resultWrites w)
    exact h
  · have h := congrArg (fun x : State => { x with teams := s.teams }) hrest
    exact h
  · rw [hteams, State.updWave_bare]
  · rw [hwave, State.wave?_updWave_ne s r q _ hq]

/-! ### The accesses -/

/-- An access that has been performed is not performed again. -/
theorem doAcc_of_done {s : State} {r : WaveRef} {k : Nat} {w : Wave} {o : Out} (hw : s.wave? r = some w) (ho : w.outs[k]? = some o)
    (hd : ∀ a ∈ o.accs, a.state = .done) (j : Nat) : s.doAcc r k j = s := by
  have hready : s.accReady r k j = false := by
    unfold State.accReady
    cases s.team? r.team with
    | none => rfl
    | some t =>
      rw [hw]
      simp only [ho]
      cases ha : o.accs[j]? with
      | none => rfl
      | some a => simp [hd a (List.mem_of_getElem? ha)]
  unfold State.doAcc
  rw [hready]
  rfl

/-- 02 R35: once every access is performed, the result is written. -/
theorem exec_variableLatencyResult_of_done {s : State} {r : WaveRef} {k : Nat} {w : Wave} {o : Out} (hw : s.wave? r = some w)
    (ho : w.outs[k]? = some o) (hr : o.ready = true) (hd : ∀ a ∈ o.accs, a.state = .done) :
    exec (.variableLatencyResult r k none) s = .next (s.writeOut r k) := by
  have hfold (l : List Nat) : l.foldl (fun s j => s.doAcc r k j) s = s := by
    induction l with
    | nil => rfl
    | cons j l ih => rw [List.foldl_cons, doAcc_of_done hw ho hd, ih]
  have hout : s.outReady r k = true := by
    simp only [State.outReady, hw, Option.bind_some, ho, hr, Bool.true_and, List.all_eq_true, beq_iff_eq]
    exact hd
  show execVariableLatencyResult r k none s = _
  simp only [execVariableLatencyResult, State.evictOpt, hfold, hout, if_true]

theorem joinAccs_of_whole (l : List Acc) (h : ∀ a ∈ l, a.rest = false) : joinAccs l = l := by
  induction l with
  | nil => rfl
  | cons a l ih =>
    rw [joinAccs, ih fun b hb => h b (List.mem_cons_of_mem _ hb)]
    cases l with
    | nil => rfl
    | cons b l => simp [h b (by simp)]

/-- A vector register write of an access's lane. -/
def vecWrite (l : Nat) (p : Nat × Nat) : RegWrite := { scalar := false, lane := l, reg := p.1, val := BitVec.ofNat 32 p.2 }

/-- The writes of accesses of distinct lanes, seen from one lane. -/
theorem lane_foldl_write_accs {accs : List Acc} (hn : (accs.map Acc.lane).Nodup) (h64 : ∀ a ∈ accs, a.lane < 64) (g : Acc → List (Nat × Nat))
    {w : Wave} {l : Nat} (hl : l < w.lanes.length) :
    (∀ a ∈ accs, a.lane = l → ∀ i, (((accs.flatMap fun a => (g a).map (vecWrite a.lane)).foldl Wave.write w).lane l).vr i =
      (lastReg (g a) i).getD ((w.lane l).vr i)) ∧
    ((∀ a ∈ accs, a.lane ≠ l) → ∀ i, (((accs.flatMap fun a => (g a).map (vecWrite a.lane)).foldl Wave.write w).lane l).vr i =
      (w.lane l).vr i) := by
  classical
  obtain ⟨f, hf⟩ : ∃ f : Nat → List (Nat × Nat), ∀ a ∈ accs, f a.lane = g a := by
    refine ⟨fun l => if h : ∃ a ∈ accs, a.lane = l then g h.choose else [], fun a ha => ?_⟩
    have hex : ∃ b ∈ accs, b.lane = a.lane := ⟨a, ha, rfl⟩
    obtain ⟨hmem, hlane⟩ := hex.choose_spec
    simp only [dif_pos hex, List.inj_on_of_nodup_map hn hmem ha hlane]
  have hws : (accs.flatMap fun a => (g a).map (vecWrite a.lane)) = (accs.map Acc.lane).flatMap fun l => (f l).map (vecWrite l) := by
    rw [List.flatMap_map]
    exact List.flatMap_congr fun a ha => by rw [hf a ha]
  have hvec : ∀ x ∈ accs.flatMap (fun a => (g a).map (vecWrite a.lane)), x.scalar = false ∧ x.lane < 64 := by
    intro x hx
    obtain ⟨a, ha, hx⟩ := List.mem_flatMap.mp hx
    obtain ⟨p, -, rfl⟩ := List.mem_map.mp hx
    exact ⟨rfl, h64 a ha⟩
  have hval (i : Nat) : (((accs.flatMap fun a => (g a).map (vecWrite a.lane)).foldl Wave.write w).lane l).vr i =
      (lastReg (if l ∈ accs.map Acc.lane then f l else []) i).getD ((w.lane l).vr i) := by
    rw [foldl_write_lane _ _ _ hvec hl, foldl_setV_vr, hws]
    have h := flatMap_filter_lane (accs.map Acc.lane) f l hn
    rw [show (fun l => List.map (vecWrite l) (f l)) = fun l => (f l).map fun p =>
      ({ scalar := false, lane := l, reg := p.1, val := BitVec.ofNat 32 p.2 } : RegWrite) from rfl, h]
    split
    · simp only [List.map_map, Function.comp_def, BitVec.toNat_ofNat]
      rw [lastReg_mod]
    · rfl
  refine ⟨fun a ha hal i => ?_, fun hno i => ?_⟩
  · rw [hval, if_pos (List.mem_map.mpr ⟨a, ha, hal⟩), ← hal, hf a ha]
  · rw [hval, if_neg (fun h => by obtain ⟨a, ha, hal⟩ := List.mem_map.mp h; exact hno a ha hal), lastReg_nil]
    rfl

/-! ### The values -/

/-- 06 R124: the value that a load writes for an access: sign-extended to one register, or its bytes. -/
def loadValue (sx : Bool) (a : Acc) : Nat :=
  if a.len < 4 ∧ sx = true then (BitVec.ofInt 32 (({ w := 8 * a.len, signed := true } : IFmt).read (a.result % 2 ^ (8 * a.len)))).toNat
  else a.result % 2 ^ (32 * max 1 (a.len / 4))

/-- The register writes of a load, for one access. -/
def loadWrites (d : Nat) (sx : Bool) (a : Acc) : List (Nat × Nat) :=
  let v := if a.len < 4 && sx then wrap 32 (toSigned (8 * a.len) a.result) else a.result
  (List.range (max 1 (a.len / 4))).map fun i => (d + i, v / 2 ^ (32 * i))

/-- A register of a value cut to `n` registers. -/
theorem mod_div_mod_register (x n i : Nat) (hi : i < n) : x % 2 ^ (32 * n) / 2 ^ (32 * i) % 2 ^ 32 = x / 2 ^ (32 * i) % 2 ^ 32 := by
  have hpow : 2 ^ (32 * n) = 2 ^ (32 * i) * 2 ^ (32 * (n - i)) := by
    rw [← Nat.pow_add]
    congr 1
    omega
  rw [hpow, Nat.mod_mul_right_div_self, Nat.mod_mod_of_dvd]
  exact Nat.pow_dvd_pow 2 (by omega)

theorem lastReg_loadWrites (d : Nat) (sx : Bool) (a : Acc) (r : Nat) :
    lastReg (loadWrites d sx a) r = block d (max 1 (a.len / 4)) (loadValue sx a) r := by
  rw [loadWrites, lastReg_range, block]
  split
  next hr =>
    by_cases hs : a.len < 4 ∧ sx = true
    · have hread : ({ w := 8 * a.len, signed := true } : IFmt).read (a.result % 2 ^ (8 * a.len)) = toSigned (8 * a.len) a.result := by
        simp only [IFmt.read, toSigned, if_true, Nat.mod_mod]
      rw [loadValue, if_pos hs, hread, BitVec.toNat_ofInt, if_pos (by simpa using hs)]
      rfl
    · rw [loadValue, if_neg hs, if_neg (by simpa using hs), mod_div_mod_register _ _ _ (by omega)]
  · rfl

/-- 06 R124: the writes of a load that has no writes of its own. -/
theorem resultWrites_load {o : Out} {d : Nat} {scalar sx : Bool} (hf : o.fin = .load d scalar sx) (hw : o.writes = [])
    (hr : ∀ a ∈ o.accs, a.rest = false) : o.resultWrites = o.accs.flatMap fun a => (loadWrites d sx a).map fun p =>
      { scalar := scalar, lane := a.lane, reg := p.1, val := BitVec.ofNat 32 p.2 } := by
  simp only [Out.resultWrites, hf, hw, List.nil_append, joinAccs_of_whole _ hr, loadWrites, List.map_map]
  rfl

/-- The elements of a narrow load's access: their codes and flags (06 R125). -/
def narrowElem (desc : Nat) (a : Acc) (i : Nat) : Nat × Flags :=
  roundTo .f32 .rn (nfDecode (nfDesc desc) (a.result / 2 ^ (i * (nfDesc desc).n) % 2 ^ (nfDesc desc).n))

def narrowWrites (d desc : Nat) (a : Acc) : List (Nat × Nat) :=
  (List.range (8 * a.len / (nfDesc desc).n)).map fun i => (d + i, (narrowElem desc a i).1)

theorem resultWrites_narrow {o : Out} {d desc : Nat} (hf : o.fin = .narrow d desc) (hd : desc < 2 ^ 32)
    (hr : ∀ a ∈ o.accs, a.rest = false) : o.resultWrites = o.accs.flatMap fun a => (narrowWrites d desc a).map (vecWrite a.lane) := by
  have hdesc : (BitVec.ofNat 32 desc).toNat = desc := by rw [BitVec.toNat_ofNat, Nat.mod_eq_of_lt hd]
  simp only [Out.resultWrites, hf, hdesc, joinAccs_of_whole _ hr, narrowWrites, List.map_map]
  rfl

theorem lastReg_narrowWrites (d desc : Nat) (a : Acc) (r : Nat) : lastReg (narrowWrites d desc a) r =
    row d ((List.range (8 * a.len / (nfDesc desc).n)).map fun i => (narrowElem desc a i).1 % 2 ^ 32) r := by
  rw [narrowWrites, lastReg_range, row]
  by_cases h1 : d ≤ r
  · by_cases h2 : r < d + 8 * a.len / (nfDesc desc).n
    · rw [if_pos ⟨h1, h2⟩, if_pos h1, List.getElem?_map, List.getElem?_range (by omega)]
      rfl
    · rw [if_neg (fun h => h2 h.2), if_pos h1, List.getElem?_eq_none (by simp; omega)]
  · rw [if_neg (fun h => h1 h.1), if_neg h1]

/-! ### The flags -/

/-- The flags of a fold whose steps each OR some flags in. -/
theorem foldl_flags_getLsbD {α : Type} {step : Flags → α → Flags} {b : Nat} {P : α → Prop}
    (h : ∀ f x, (step f x).getLsbD b = true ↔ f.getLsbD b = true ∨ P x) (l : List α) (f : Flags) :
    (l.foldl step f).getLsbD b = true ↔ f.getLsbD b = true ∨ ∃ x ∈ l, P x := by
  induction l generalizing f with
  | nil => simp
  | cons x l ih => rw [List.foldl_cons, ih, h, List.exists_mem_cons_iff, or_assoc]

theorem resultFlags_narrow {o : Out} {d desc : Nat} (hf : o.fin = .narrow d desc) (hr : ∀ a ∈ o.accs, a.rest = false) (b : Nat) :
    o.resultFlags.getLsbD b = true ↔
      o.flags.getLsbD b = true ∨ ∃ a ∈ o.accs, ∃ i < 8 * a.len / (nfDesc desc).n, (narrowElem desc a i).2.getLsbD b = true := by
  simp only [Out.resultFlags, hf, joinAccs_of_whole _ hr]
  refine foldl_flags_getLsbD (fun f a => ?_) _ _
  rw [foldl_flags_getLsbD (P := fun i => (narrowElem desc a i).2.getLsbD b = true)]
  · simp only [List.mem_range]
  · intro f i
    rw [BitVec.getLsbD_or, Bool.or_eq_true]
    rfl

/-- WSTAT after a delivery (02 R44). -/
theorem Wave.deliver_wstat (w : Wave) (k : Nat) (o : Out) : (w.deliver k o).wstat = w.wstat ||| o.resultFlags.setWidth 32 := by
  have h := congrArg (fun x : Wave => x.wstat ||| o.resultFlags.setWidth 32) (foldl_write_rest o.resultWrites w)
  exact h

theorem Wave.deliver_wstat_getLsbD (w : Wave) (k : Nat) (o : Out) (b : Nat) : (w.deliver k o).wstat.getLsbD b = true ↔
    w.wstat.getLsbD b = true ∨ (b < 8 ∧ o.resultFlags.getLsbD b = true) := by
  rw [Wave.deliver_wstat, BitVec.getLsbD_or, BitVec.getLsbD_setWidth, Bool.or_eq_true, Bool.and_eq_true]
  have h8 : o.resultFlags.getLsbD b = true → b < 8 := fun h => by
    by_contra hb
    rw [BitVec.getLsbD_of_ge _ _ (by omega)] at h
    cases h
  constructor
  · rintro (h | ⟨-, h⟩)
    · exact .inl h
    · exact .inr ⟨h8 h, h⟩
  · rintro (h | ⟨hb, h⟩)
    · exact .inl h
    · exact .inr ⟨by simp; omega, h⟩

/-- The registers after a delivery whose writes are those of accesses of distinct lanes. -/
theorem deliver_vectors {w : Wave} {o : Out} {g : Acc → List (Nat × Nat)} {v : Acc → Nat → Option Nat} (k : Nat)
    (hws : o.resultWrites = o.accs.flatMap fun a => (g a).map (vecWrite a.lane)) (hv : ∀ a i, lastReg (g a) i = v a i)
    (h64 : ∀ a ∈ o.accs, a.lane < 64) (hn : (o.accs.map Acc.lane).Nodup) :
    (∀ i, (w.deliver k o).sr i = w.sr i) ∧ ∀ l < w.lanes.length,
      (∀ a ∈ o.accs, a.lane = l → ∀ i, ((w.deliver k o).lane l).vr i = (v a i).getD ((w.lane l).vr i)) ∧
      ((∀ a ∈ o.accs, a.lane ≠ l) → ∀ i, ((w.deliver k o).lane l).vr i = (w.lane l).vr i) := by
  refine ⟨fun i => ?_, fun l hl => ?_⟩
  · have hs : (o.resultWrites.foldl Wave.write w).sregs = w.sregs := by
      refine foldl_write_sregs _ _ fun x hx => ?_
      rw [hws] at hx
      obtain ⟨a, -, hx⟩ := List.mem_flatMap.mp hx
      obtain ⟨p, -, rfl⟩ := List.mem_map.mp hx
      rfl
    show (cellGet (o.resultWrites.foldl Wave.write w).sregs i).toNat = _
    rw [hs]
    rfl
  · rw [Wave.lane_deliver, hws]
    obtain ⟨h1, h2⟩ := lane_foldl_write_accs hn h64 g hl
    exact ⟨fun a ha hal i => (h1 a ha hal i).trans (by rw [hv]), h2⟩

end Sys2Proof.Machine

namespace Sys2Proof.Safety
open Sys2Proof.Machine

/-- Settles O22: `writeOut_delivered` says what a delivery leaves, and for each kind of result the registers and the flags follow. -/
theorem resultsDelivered : Obligations.ResultsDelivered := by
  intro r k s w o hw ho hr ha hn
  have hdone : ∀ a ∈ o.accs, a.state = .done := fun a h => (ha a h).1
  have hrest : ∀ a ∈ o.accs, a.rest = false := fun a h => (ha a h).2.1
  have h64 : ∀ a ∈ o.accs, a.lane < 64 := fun a h => (ha a h).2.2.2
  have hexec := exec_variableLatencyResult_of_done hw ho hr hdone
  have hleft (hfin : ∀ tag, o.fin ≠ .gath tag) := writeOut_delivered hw ho hfin
  refine ⟨fun d sx hf hnw _ => ?_, fun d sx a hf hnw hacc _ => ?_, fun d desc hf hd _ => ?_, fun hf _ => ?_⟩
  · refine ⟨_, _, hexec, hleft (by simp [hf]), ?_, ?_⟩
    · rw [Wave.deliver_wstat, Out.resultFlags, hf]
    · exact deliver_vectors k (resultWrites_load hf hnw hrest) (lastReg_loadWrites d sx) h64 hn
  · obtain ⟨hlanes, hsr⟩ := foldl_write_scalar o.resultWrites w (by
      rw [resultWrites_load hf hnw hrest]
      intro x hx
      obtain ⟨b, -, hx⟩ := List.mem_flatMap.mp hx
      obtain ⟨p, -, rfl⟩ := List.mem_map.mp hx
      rfl)
    refine ⟨_, _, hexec, hleft (by simp [hf]), ?_, fun i => ?_, fun l _ i => ?_⟩
    · rw [Wave.deliver_wstat, Out.resultFlags, hf]
    · refine (hsr i).trans ?_
      rw [resultWrites_load hf hnw hrest, hacc]
      simp only [List.flatMap_cons, List.flatMap_nil, List.append_nil, List.map_map, Function.comp_def, BitVec.toNat_ofNat]
      rw [lastReg_mod, lastReg_loadWrites]
      rfl
    · rw [Wave.lane_deliver, Wave.lane, hlanes]
      rfl
  · refine ⟨_, _, hexec, hleft (by simp [hf]), fun b => ?_, ?_⟩
    · rw [Wave.deliver_wstat_getLsbD, resultFlags_narrow hf hrest]
      rfl
    · exact deliver_vectors k (resultWrites_narrow hf hd hrest) (lastReg_narrowWrites d desc) h64 hn
  · refine ⟨_, _, hexec, hleft (by simp [hf]), ?_, fun l i _ => ?_⟩
    · rw [Wave.deliver_wstat, Out.resultFlags, hf]
    · rw [Wave.lane_deliver, Out.resultWrites, hf]

end Sys2Proof.Safety
end

section
/-! PROOF. O58: every instruction and every event of the device answers a next state, case by case along its own branches. -/

namespace Sys2Proof.Machine

/-- An outcome is a next state. -/
def Res.Goes (r : Res) : Prop := ∃ t : State, r = .next t

theorem goes_next (t : State) : Res.Goes (.next t) := ⟨t, rfl⟩

/-! One lemma for each instruction or event whose meaning has more than one branch: every branch ends in `.next`. The state of a leaf stays
folded, and is not split further: hence `with_reducible`.

Where a branch tests a computation over the lanes or over memory, the kernel would try to evaluate that computation to compare two forms of
the same `match`. There the function is unfolded as a whole, without its arguments, and what the branch tests is named as an unknown function
(`exists_eq`), which the kernel does not unfold. -/

/-! ### Accesses, results and their events (13 R276, 02 R35) -/

theorem execAccessPerform_goes (r : WaveRef) (k j : Nat) (part : AccessPart) (s : State) : (execAccessPerform r k j part s).Goes := by
  dsimp only [execAccessPerform]
  repeat' (split <;> try with_reducible exact goes_next _)

theorem execVariableLatencyResult_goes (r : WaveRef) (k : Nat) (evict : Option Nat) (s : State) : (execVariableLatencyResult r k evict s).Goes := by
  dsimp only [execVariableLatencyResult]
  repeat' (split <;> try with_reducible exact goes_next _)

theorem execPromotionNotice_goes (core k : Nat) (s : State) : (execPromotionNotice core k s).Goes := by
  dsimp only [execPromotionNotice]
  repeat' (split <;> try with_reducible exact goes_next _)

theorem execPcieCompletion_goes (k : Nat) (ok : Bool) (s : State) : (execPcieCompletion k ok s).Goes := by
  dsimp only [execPcieCompletion]
  repeat' (split <;> try with_reducible exact goes_next _)

/-! ### Control -/

theorem execExit_goes (h : Hdr) (f : YFields) (s : State) : (execExit h f s).Goes := by
  dsimp only [execExit]
  repeat' (split <;> try with_reducible exact goes_next _)

theorem execTret_goes (h : Hdr) (f : YFields) (s : State) : (execTret h f s).Goes := by
  dsimp only [execTret]
  repeat' (split <;> try with_reducible exact goes_next _)

theorem execBkpt_goes (h : Hdr) (f : YFields) (s : State) : (execBkpt h f s).Goes := by
  dsimp only [execBkpt]
  repeat' (split <;> try with_reducible exact goes_next _)

theorem execSysrd_goes (h : Hdr) (f : YFields) (s : State) : (execSysrd h f s).Goes := by
  dsimp only [execSysrd]
  repeat' (split <;> try with_reducible exact goes_next _)

theorem execSyswr_goes (h : Hdr) (f : YFields) (s : State) : (execSyswr h f s).Goes := by
  dsimp only [execSyswr]
  repeat' (split <;> try with_reducible exact goes_next _)

theorem execBru_goes (h : Hdr) (f : BFields) (s : State) : (execBru h f s).Goes := by
  dsimp only [execBru]
  repeat' (split <;> try with_reducible exact goes_next _)

theorem execJal_goes (h : Hdr) (f : YFields) (s : State) : (execJal h f s).Goes := by
  dsimp only [execJal]
  repeat' (split <;> try with_reducible exact goes_next _)

theorem execJmp_goes (h : Hdr) (f : YFields) (s : State) : (execJmp h f s).Goes := by
  obtain ⟨lanes, hlanes⟩ := exists_eq (a' := lanesOf)
  rw [(by delta execJmp; rfl : execJmp = _), ← hlanes]
  dsimp only
  repeat' (split <;> try with_reducible exact goes_next _)

theorem execCvset_goes (h : Hdr) (f : YFields) (s : State) : (execCvset h f s).Goes := by
  dsimp only [execCvset]
  repeat' (split <;> try with_reducible exact goes_next _)

theorem execCvwait_goes (h : Hdr) (f : YFields) (s : State) : (execCvwait h f s).Goes := by
  dsimp only [execCvwait]
  repeat' (split <;> try with_reducible exact goes_next _)

theorem execSpawn_goes (h : Hdr) (f : YFields) (s : State) : (execSpawn h f s).Goes := by
  dsimp only [execSpawn]
  repeat' (split <;> try with_reducible exact goes_next _)

theorem execRepack_goes (h : Hdr) (f : YFields) (s : State) : (execRepack h f s).Goes := by
  dsimp only [execRepack]
  repeat' (split <;> try with_reducible exact goes_next _)

theorem execBrs_goes (h : Hdr) (f : BFields) (s : State) : (execBrs h f s).Goes := by
  dsimp only [execBrs]
  repeat' (split <;> try with_reducible exact goes_next _)

/-! ### Synchronisation -/

theorem execFence_goes (h : Hdr) (f : YFields) (s : State) : (execFence h f s).Goes := by
  dsimp only [execFence]
  repeat' (split <;> try with_reducible exact goes_next _)

theorem execWaitw_goes (h : Hdr) (f : YFields) (s : State) : (execWaitw h f s).Goes := by
  obtain ⟨low, hlow⟩ := exists_eq (a' := lowestLane)
  rw [(by delta execWaitw; rfl : execWaitw = _), ← hlow]
  dsimp only
  repeat' (split <;> try with_reducible exact goes_next _)

theorem execWaitwWake_goes (r : WaveRef) (s : State) : (execWaitwWake r s).Goes := by
  dsimp only [execWaitwWake]
  repeat' (split <;> try with_reducible exact goes_next _)

theorem execWaitwTimeout_goes (r : WaveRef) (s : State) : (execWaitwTimeout r s).Goes := by
  dsimp only [execWaitwTimeout]
  repeat' (split <;> try with_reducible exact goes_next _)

theorem execBar_goes (h : Hdr) (f : YFields) (s : State) : (execBar h f s).Goes := by
  dsimp only [execBar]
  repeat' (split <;> try with_reducible exact goes_next _)

theorem execTrap_goes (h : Hdr) (f : YFields) (s : State) : (execTrap h f s).Goes := by
  dsimp only [execTrap]
  repeat' (split <;> try with_reducible exact goes_next _)

/-! ### Loads, stores, rings and streams -/

theorem execLdcvt_goes (h : Hdr) (f : MFields) (s : State) : (execLdcvt h f s).Goes := by
  dsimp only [execLdcvt]
  repeat' (split <;> try with_reducible exact goes_next _)

theorem execLdl_goes (h : Hdr) (f : MFields) (s : State) : (execLdl h f s).Goes := by
  dsimp only [execLdl]
  repeat' (split <;> try with_reducible exact goes_next _)

theorem execStl_goes (h : Hdr) (f : MFields) (s : State) : (execStl h f s).Goes := by
  dsimp only [execStl]
  repeat' (split <;> try with_reducible exact goes_next _)

theorem execPref_goes (h : Hdr) (f : MFields) (s : State) : (execPref h f s).Goes := by
  dsimp only [execPref]
  repeat' (split <;> try with_reducible exact goes_next _)

theorem execCflush_goes (h : Hdr) (f : MFields) (s : State) : (execCflush h f s).Goes := by
  obtain ⟨check, hcheck⟩ := exists_eq (a' := @State.memCheck)
  rw [(by delta execCflush; rfl : execCflush = _), ← hcheck]
  dsimp only
  repeat' (split <;> try with_reducible exact goes_next _)

theorem execFifopush_goes (h : Hdr) (f : MFields) (s : State) : (execFifopush h f s).Goes := by
  dsimp only [execFifopush]
  repeat' (split <;> try with_reducible exact goes_next _)

theorem execFifopop_goes (h : Hdr) (f : MFields) (s : State) : (execFifopop h f s).Goes := by
  dsimp only [execFifopop]
  repeat' (split <;> try with_reducible exact goes_next _)

theorem execBankcfg_goes (h : Hdr) (f : MFields) (s : State) : (execBankcfg h f s).Goes := by
  dsimp only [execBankcfg]
  repeat' (split <;> try with_reducible exact goes_next _)

theorem execBankcfgDrainDone_goes (core bank : Nat) (s : State) : (execBankcfgDrainDone core bank s).Goes := by
  dsimp only [execBankcfgDrainDone]
  repeat' (split <;> try with_reducible exact goes_next _)

theorem execStrm_goes (h : Hdr) (f : CFields) (s : State) : (execStrm h f s).Goes := by
  dsimp only [execStrm]
  repeat' (split <;> try with_reducible exact goes_next _)

theorem execStrmx_goes (h : Hdr) (f : CFields) (s : State) : (execStrmx h f s).Goes := by
  dsimp only [execStrmx]
  repeat' (split <;> try with_reducible exact goes_next _)

theorem execQstat_goes (h : Hdr) (f : MFields) (s : State) : (execQstat h f s).Goes := by
  dsimp only [execQstat]
  repeat' (split <;> try with_reducible exact goes_next _)

theorem execQpop_goes (h : Hdr) (f : MFields) (s : State) : (execQpop h f s).Goes := by
  obtain ⟨check, hcheck⟩ := exists_eq (a' := @State.memCheck)
  rw [(by delta execQpop; rfl : execQpop = _), ← hcheck]
  dsimp only
  repeat' (split <;> try with_reducible exact goes_next _)

theorem execStreamFetch_goes (r : WaveRef) (qn : BitVec 3) (s : State) : (execStreamFetch r qn s).Goes := by
  dsimp only [execStreamFetch]
  repeat' (split <;> try with_reducible exact goes_next _)

/-! ### Local atomics -/

theorem execAtoml_goes (h : Hdr) (f : MFields) (s : State) : (execAtoml h f s).Goes := by
  dsimp only [execAtoml]
  repeat' (split <;> try with_reducible exact goes_next _)

/-! ### Conversions and lanes -/

theorem execCvt_goes (h : Hdr) (f : VFields) (s : State) : (execCvt h f s).Goes := by
  dsimp only [execCvt]
  repeat' (split <;> try with_reducible exact goes_next _)

theorem execPack_goes (h : Hdr) (f : VFields) (s : State) : (execPack h f s).Goes := by
  dsimp only [execPack]
  repeat' (split <;> try with_reducible exact goes_next _)

theorem execUnpack_goes (h : Hdr) (f : VFields) (s : State) : (execUnpack h f s).Goes := by
  dsimp only [execUnpack]
  repeat' (split <;> try with_reducible exact goes_next _)

theorem execPqry_goes (h : Hdr) (f : VFields) (s : State) : (execPqry h f s).Goes := by
  dsimp only [execPqry]
  repeat' (split <;> try with_reducible exact goes_next _)

theorem execLwrite_goes (h : Hdr) (f : VFields) (s : State) : (execLwrite h f s).Goes := by
  dsimp only [execLwrite]
  repeat' (split <;> try with_reducible exact goes_next _)

/-! ### Ordered sections -/

theorem execOrdseq_goes (h : Hdr) (f : VFields) (s : State) : (execOrdseq h f s).Goes := by
  dsimp only [execOrdseq]
  repeat' (split <;> try with_reducible exact goes_next _)

theorem execOrdin_goes (h : Hdr) (f : VFields) (s : State) : (execOrdin h f s).Goes := by
  dsimp only [execOrdin]
  repeat' (split <;> try with_reducible exact goes_next _)

theorem execOrdout_goes (h : Hdr) (f : VFields) (s : State) : (execOrdout h f s).Goes := by
  obtain ⟨lanes, hlanes⟩ := exists_eq (a' := lanesOf)
  rw [(by delta execOrdout; rfl : execOrdout = _), ← hlanes]
  dsimp only
  repeat' (split <;> try with_reducible exact goes_next _)

theorem execOrdStallTimeout_goes (asn : BitVec 12) (key : Word) (space : Bool) (s : State) : (execOrdStallTimeout asn key space s).Goes := by
  dsimp only [execOrdStallTimeout]
  repeat' (split <;> try with_reducible exact goes_next _)

/-! ### Copy commands and tags -/

theorem execCopy_goes (h : Hdr) (f : CFields) (s : State) : (execCopy h f s).Goes := by
  obtain ⟨actor, hactor⟩ := exists_eq (a' := State.actor)
  rw [(by delta execCopy; rfl : execCopy = _), ← hactor]
  dsimp only
  repeat' (split <;> try with_reducible exact goes_next _)

theorem execCopym_goes (h : Hdr) (f : CFields) (s : State) : (execCopym h f s).Goes := by
  obtain ⟨actor, hactor⟩ := exists_eq (a' := State.actor)
  rw [(by delta execCopym; rfl : execCopym = _), ← hactor]
  dsimp only
  repeat' (split <;> try with_reducible exact goes_next _)

theorem execHalo_goes (h : Hdr) (f : CFields) (s : State) : (execHalo h f s).Goes := by
  obtain ⟨actor, hactor⟩ := exists_eq (a' := State.actor)
  rw [(by delta execHalo; rfl : execHalo = _), ← hactor]
  dsimp only
  repeat' (split <;> try with_reducible exact goes_next _)

theorem execGathv_goes (h : Hdr) (f : CFields) (s : State) : (execGathv h f s).Goes := by
  obtain ⟨check, hcheck⟩ := exists_eq (a' := @State.memCheck)
  rw [(by delta execGathv; rfl : execGathv = _), ← hcheck]
  dsimp only
  repeat' (split <;> try with_reducible exact goes_next _)

theorem execTagarm_goes (h : Hdr) (f : CFields) (s : State) : (execTagarm h f s).Goes := by
  obtain ⟨actor, hactor⟩ := exists_eq (a' := State.actor)
  rw [(by delta execTagarm; rfl : execTagarm = _), ← hactor]
  dsimp only
  repeat' (split <;> try with_reducible exact goes_next _)

theorem execTagclr_goes (h : Hdr) (f : CFields) (s : State) : (execTagclr h f s).Goes := by
  obtain ⟨actor, hactor⟩ := exists_eq (a' := State.actor)
  rw [(by delta execTagclr; rfl : execTagclr = _), ← hactor]
  dsimp only
  repeat' (split <;> try with_reducible exact goes_next _)

theorem execTagff_goes (h : Hdr) (f : CFields) (s : State) : (execTagff h f s).Goes := by
  obtain ⟨actor, hactor⟩ := exists_eq (a' := State.actor)
  rw [(by delta execTagff; rfl : execTagff = _), ← hactor]
  dsimp only
  repeat' (split <;> try with_reducible exact goes_next _)

theorem execTagwait_goes (h : Hdr) (f : CFields) (s : State) : (execTagwait h f s).Goes := by
  obtain ⟨actor, hactor⟩ := exists_eq (a' := State.actor)
  rw [(by delta execTagwait; rfl : execTagwait = _), ← hactor]
  dsimp only
  repeat' (split <;> try with_reducible exact goes_next _)

theorem execCopyPrepass_goes (core cmd : Nat) (s : State) : (execCopyPrepass core cmd s).Goes := by
  dsimp only [execCopyPrepass]
  repeat' (split <;> try with_reducible exact goes_next _)

theorem execCopyDeliver_goes (core cmd piece off n : Nat) (s : State) : (execCopyDeliver core cmd piece off n s).Goes := by
  dsimp only [execCopyDeliver]
  repeat' (split <;> try with_reducible exact goes_next _)

/-! ### The engine -/

theorem execEngineOpStart_goes (core : Nat) (old : List (Nat × Nat)) (s : State) : (execEngineOpStart core old s).Goes := by
  dsimp only [execEngineOpStart]
  repeat' (split <;> try with_reducible exact goes_next _)

/-! ### Matrix -/

theorem execObres_goes (h : Hdr) (f : CFields) (s : State) : (execObres h f s).Goes := by
  obtain ⟨actor, hactor⟩ := exists_eq (a' := State.actor)
  rw [(by delta execObres; rfl : execObres = _), ← hactor]
  dsimp only
  repeat' (split <;> try with_reducible exact goes_next _)

theorem execObrel_goes (h : Hdr) (f : YFields) (s : State) : (execObrel h f s).Goes := by
  obtain ⟨actor, hactor⟩ := exists_eq (a' := State.actor)
  rw [(by delta execObrel; rfl : execObrel = _), ← hactor]
  dsimp only
  repeat' (split <;> try with_reducible exact goes_next _)

theorem execObld_goes (h : Hdr) (f : CFields) (s : State) : (execObld h f s).Goes := by
  obtain ⟨actor, hactor⟩ := exists_eq (a' := State.actor)
  rw [(by delta execObld; rfl : execObld = _), ← hactor]
  dsimp only
  repeat' (split <;> try with_reducible exact goes_next _)

theorem execMma_goes (h : Hdr) (f : VFields) (s : State) : (execMma h f s).Goes := by
  dsimp only [execMma]
  repeat' (split <;> try with_reducible exact goes_next _)

theorem execAccz_goes (h : Hdr) (f : YFields) (s : State) : (execAccz h f s).Goes := by
  obtain ⟨actor, hactor⟩ := exists_eq (a' := State.actor)
  rw [(by delta execAccz; rfl : execAccz = _), ← hactor]
  dsimp only
  repeat' (split <;> try with_reducible exact goes_next _)

theorem execAccld_goes (h : Hdr) (f : MFields) (s : State) : (execAccld h f s).Goes := by
  obtain ⟨actor, hactor⟩ := exists_eq (a' := State.actor)
  rw [(by delta execAccld; rfl : execAccld = _), ← hactor]
  dsimp only
  repeat' (split <;> try with_reducible exact goes_next _)

theorem execAccrd_goes (h : Hdr) (f : VFields) (s : State) : (execAccrd h f s).Goes := by
  dsimp only [execAccrd]
  repeat' (split <;> try with_reducible exact goes_next _)

theorem execMstat_goes (h : Hdr) (f : YFields) (s : State) : (execMstat h f s).Goes := by
  obtain ⟨actor, hactor⟩ := exists_eq (a' := State.actor)
  rw [(by delta execMstat; rfl : execMstat = _), ← hactor]
  dsimp only
  repeat' (split <;> try with_reducible exact goes_next _)

theorem execDrain_goes (h : Hdr) (f : XFields) (s : State) : (execDrain h f s).Goes := by
  dsimp only [execDrain]
  repeat' (split <;> try with_reducible exact goes_next _)

theorem execAddOnStoreApply_goes (core k : Nat) (s : State) : (execAddOnStoreApply core k s).Goes := by
  dsimp only [execAddOnStoreApply]
  repeat' (split <;> try with_reducible exact goes_next _)

/-! ### Raster -/

theorem execRastSet_goes (h : Hdr) (f : XFields) (s : State) : (execRastSet h f s).Goes := by
  obtain ⟨actor, hactor⟩ := exists_eq (a' := State.actor)
  rw [(by delta execRastSet; rfl : execRastSet = _), ← hactor]
  dsimp only
  repeat' (split <;> try with_reducible exact goes_next _)

theorem execRast_goes (h : Hdr) (f : XFields) (s : State) : (execRast h f s).Goes := by
  obtain ⟨actor, hactor⟩ := exists_eq (a' := State.actor)
  rw [(by delta execRast; rfl : execRast = _), ← hactor]
  dsimp only
  repeat' (split <;> try with_reducible exact goes_next _)

theorem execBlendSet_goes (h : Hdr) (f : XFields) (s : State) : (execBlendSet h f s).Goes := by
  obtain ⟨windows, hwindows⟩ := exists_eq (a' := State.windows)
  rw [(by delta execBlendSet; rfl : execBlendSet = _), ← hwindows]
  dsimp only
  repeat' (split <;> try with_reducible exact goes_next _)

theorem execBlend_goes (h : Hdr) (f : XFields) (s : State) : (execBlend h f s).Goes := by
  obtain ⟨windows, hwindows⟩ := exists_eq (a' := State.windows)
  rw [(by delta execBlend; rfl : execBlend = _), ← hwindows]
  dsimp only
  repeat' (split <;> try with_reducible exact goes_next _)

theorem execBin_goes (h : Hdr) (f : XFields) (s : State) : (execBin h f s).Goes := by
  obtain ⟨windows, hwindows⟩ := exists_eq (a' := State.windows)
  rw [(by delta execBin; rfl : execBin = _), ← hwindows]
  dsimp only
  repeat' (split <;> try with_reducible exact goes_next _)

theorem execBinQueuePush_goes (r : WaveRef) (s : State) : (execBinQueuePush r s).Goes := by
  dsimp only [execBinQueuePush]
  repeat' (split <;> try with_reducible exact goes_next _)

theorem execMcall_goes (h : Hdr) (f : XFields) (s : State) : (execMcall h f s).Goes := by
  dsimp only [execMcall]
  repeat' (split <;> try with_reducible exact goes_next _)

/-! ### TRAV -/

theorem execTrav_goes (h : Hdr) (f : XFields) (s : State) : (execTrav h f s).Goes := by
  obtain ⟨windows, hwindows⟩ := exists_eq (a' := State.windows)
  rw [(by delta execTrav; rfl : execTrav = _), ← hwindows]
  dsimp only
  repeat' (split <;> try with_reducible exact goes_next _)

theorem execTravSet_goes (h : Hdr) (f : XFields) (s : State) : (execTravSet h f s).Goes := by
  obtain ⟨windows, hwindows⟩ := exists_eq (a' := State.windows)
  rw [(by delta execTravSet; rfl : execTravSet = _), ← hwindows]
  dsimp only
  repeat' (split <;> try with_reducible exact goes_next _)

/-! ### FILT and slice stops -/

theorem execFilt_goes (h : Hdr) (f : XFields) (s : State) : (execFilt h f s).Goes := by
  dsimp only [execFilt]
  repeat' (split <;> try with_reducible exact goes_next _)

theorem execFiltSet_goes (h : Hdr) (f : XFields) (s : State) : (execFiltSet h f s).Goes := by
  obtain ⟨windows, hwindows⟩ := exists_eq (a' := State.windows)
  rw [(by delta execFiltSet; rfl : execFiltSet = _), ← hwindows]
  dsimp only
  repeat' (split <;> try with_reducible exact goes_next _)

theorem execMacroSliceStop_goes (r : WaveRef) (s : State) : (execMacroSliceStop r s).Goes := by
  dsimp only [execMacroSliceStop]
  repeat' (split <;> try with_reducible exact goes_next _)

/-! ### Tasks, queues and waves -/

theorem execTaskpush_goes (h : Hdr) (f : VFields) (s : State) : (execTaskpush h f s).Goes := by
  obtain ⟨low, hlow⟩ := exists_eq (a' := lowestLane)
  rw [(by delta execTaskpush; rfl : execTaskpush = _), ← hlow]
  dsimp only
  repeat' (split <;> try with_reducible exact goes_next _)

theorem execHqpush_goes (h : Hdr) (f : MFields) (s : State) : (execHqpush h f s).Goes := by
  obtain ⟨low, hlow⟩ := exists_eq (a' := lowestLane)
  obtain ⟨check, hcheck⟩ := exists_eq (a' := @State.memCheck)
  rw [(by delta execHqpush; rfl : execHqpush = _), ← hlow, ← hcheck]
  dsimp only
  repeat' (split <;> try with_reducible exact goes_next _)

theorem execHqpop_goes (h : Hdr) (f : MFields) (s : State) : (execHqpop h f s).Goes := by
  obtain ⟨low, hlow⟩ := exists_eq (a' := lowestLane)
  obtain ⟨lanes, hlanes⟩ := exists_eq (a' := lanesOf)
  rw [(by delta execHqpop; rfl : execHqpop = _), ← hlow, ← hlanes]
  dsimp only
  repeat' (split <;> try with_reducible exact goes_next _)

theorem execWaveForm_goes (launch : Nat) (pc : BitVec 64) (s : State) : (execWaveForm launch pc s).Goes := by
  dsimp only [execWaveForm]
  repeat' (split <;> try with_reducible exact goes_next _)

theorem execPartialWaveTimeout_goes (launch : Nat) (pc : BitVec 64) (s : State) : (execPartialWaveTimeout launch pc s).Goes := by
  dsimp only [execPartialWaveTimeout]
  repeat' (split <;> try with_reducible exact goes_next _)

/-! ### Traces and relaunches -/

theorem execTrmark_goes (h : Hdr) (f : YFields) (s : State) : (execTrmark h f s).Goes := by
  obtain ⟨actor, hactor⟩ := exists_eq (a' := State.actor)
  rw [(by delta execTrmark; rfl : execTrmark = _), ← hactor]
  dsimp only
  repeat' (split <;> try with_reducible exact goes_next _)

theorem execRelaunch_goes (h : Hdr) (f : YFields) (s : State) : (execRelaunch h f s).Goes := by
  obtain ⟨actor, hactor⟩ := exists_eq (a' := State.actor)
  rw [(by delta execRelaunch; rfl : execRelaunch = _), ← hactor]
  dsimp only
  repeat' (split <;> try with_reducible exact goes_next _)

theorem execRelaunchStart_goes (id : Nat) (s : State) : (execRelaunchStart id s).Goes := by
  dsimp only [execRelaunchStart]
  repeat' (split <;> try with_reducible exact goes_next _)

/-! ### Nodes, launches and teams -/

theorem execLaunch_goes (h : Hdr) (f : YFields) (s : State) : (execLaunch h f s).Goes := by
  obtain ⟨actor, hactor⟩ := exists_eq (a' := State.actor)
  rw [(by delta execLaunch; rfl : execLaunch = _), ← hactor]
  dsimp only
  repeat' (split <;> try with_reducible exact goes_next _)

theorem execKernelNodeComplete_goes (replay node : Nat) (s : State) : (execKernelNodeComplete replay node s).Goes := by
  dsimp only [execKernelNodeComplete]
  repeat' (split <;> try with_reducible exact goes_next _)

theorem execNodeStart_goes (replay node : Nat) (s : State) : (execNodeStart replay node s).Goes := by
  dsimp only [execNodeStart]
  repeat' (split <;> try with_reducible exact goes_next _)

theorem execCopyNodeDone_goes (replay node : Nat) (s : State) : (execCopyNodeDone replay node s).Goes := by
  obtain ⟨xlate, hxlate⟩ := exists_eq (a' := State.nodeXlate)
  rw [(by delta execCopyNodeDone; rfl : execCopyNodeDone = _), ← hxlate]
  dsimp only
  repeat' (split <;> try with_reducible exact goes_next _)

theorem execWaitNodeCheck_goes (replay node : Nat) (s : State) : (execWaitNodeCheck replay node s).Goes := by
  obtain ⟨xlate, hxlate⟩ := exists_eq (a' := State.nodeXlate)
  rw [(by delta execWaitNodeCheck; rfl : execWaitNodeCheck = _), ← hxlate]
  dsimp only
  repeat' (split <;> try with_reducible exact goes_next _)

theorem execTeamPlace_goes (s : State) : (execTeamPlace s).Goes := by
  dsimp only [execTeamPlace]
  repeat' (split <;> try with_reducible exact goes_next _)

theorem execLaunchAgeing_goes (launch : Nat) (s : State) : (execLaunchAgeing launch s).Goes := by
  dsimp only [execLaunchAgeing]
  repeat' (split <;> try with_reducible exact goes_next _)

theorem execPoolReassign_goes (s : State) : (execPoolReassign s).Goes := by
  dsimp only [execPoolReassign]
  repeat' (split <;> try with_reducible exact goes_next _)

theorem execPoolReassignDone_goes (pool : Nat) (s : State) : (execPoolReassignDone pool s).Goes := by
  dsimp only [execPoolReassignDone]
  repeat' (split <;> try with_reducible exact goes_next _)

theorem execTimeSliceExpiry_goes (team : Nat) (s : State) : (execTimeSliceExpiry team s).Goes := by
  dsimp only [execTimeSliceExpiry]
  repeat' (split <;> try with_reducible exact goes_next _)

theorem execDrainTimeout_goes (team : Nat) (s : State) : (execDrainTimeout team s).Goes := by
  dsimp only [execDrainTimeout]
  repeat' (split <;> try with_reducible exact goes_next _)

/-! ### Saving and restoring teams -/

theorem execTeamFlush_goes (team : Nat) (s : State) : (execTeamFlush team s).Goes := by
  dsimp only [execTeamFlush]
  repeat' (split <;> try with_reducible exact goes_next _)

theorem execTeamSave_goes (team : Nat) (s : State) : (execTeamSave team s).Goes := by
  dsimp only [execTeamSave]
  repeat' (split <;> try with_reducible exact goes_next _)

theorem execTeamRestore_goes (image : Nat) (s : State) : (execTeamRestore image s).Goes := by
  dsimp only [execTeamRestore]
  repeat' (split <;> try with_reducible exact goes_next _)

/-! ### The TLB, host rings, links, meters and starts -/

theorem execWalkDispatch_goes (die : Nat) (s : State) : (execWalkDispatch die s).Goes := by
  dsimp only [execWalkDispatch]
  repeat' (split <;> try with_reducible exact goes_next _)

theorem execTlbWalkComplete_goes (die : Nat) (walk : Nat × Option Nat) (s : State) : (execTlbWalkComplete die walk s).Goes := by
  dsimp only [execTlbWalkComplete]
  repeat' (split <;> try with_reducible exact goes_next _)

theorem execTlbInvalidationDone_goes (s : State) : (execTlbInvalidationDone s).Goes := by
  dsimp only [execTlbInvalidationDone]
  repeat' (split <;> try with_reducible exact goes_next _)

theorem execMicrocodeReplace_goes (s : State) : (execMicrocodeReplace s).Goes := by
  dsimp only [execMicrocodeReplace]
  repeat' (split <;> try with_reducible exact goes_next _)

theorem execRingRecordWrite_goes (ring : Nat) (s : State) : (execRingRecordWrite ring s).Goes := by
  dsimp only [execRingRecordWrite]
  repeat' (split <;> try with_reducible exact goes_next _)

theorem execRcfgEnable_goes (ring : Nat) (log2n : BitVec 5) (s : State) : (execRcfgEnable ring log2n s).Goes := by
  dsimp only [execRcfgEnable]
  repeat' (split <;> try with_reducible exact goes_next _)

theorem execRcfgDisable_goes (ring : Nat) (s : State) : (execRcfgDisable ring s).Goes := by
  dsimp only [execRcfgDisable]
  repeat' (split <;> try with_reducible exact goes_next _)

theorem execRheadWrite_goes (ring : Nat) (value : BitVec 32) (s : State) : (execRheadWrite ring value s).Goes := by
  dsimp only [execRheadWrite]
  repeat' (split <;> try with_reducible exact goes_next _)

theorem execHostBar2Write_goes (off : Nat) (data : List (BitVec 8)) (s : State) : (execHostBar2Write off data s).Goes := by
  dsimp only [execHostBar2Write]
  repeat' (split <;> try with_reducible exact goes_next _)

theorem execHostBar2Read_goes (off n : Nat) (s : State) : (execHostBar2Read off n s).Goes := by
  dsimp only [execHostBar2Read]
  repeat' (split <;> try with_reducible exact goes_next _)

theorem execPcieConfigWrite_goes (reg : PcieReg) (s : State) : (execPcieConfigWrite reg s).Goes := by
  dsimp only [execPcieConfigWrite]
  repeat' (split <;> try with_reducible exact goes_next _)

theorem execLkctlTail_goes (port : Nat) (tail : BitVec 32) (s : State) : (execLkctlTail port tail s).Goes := by
  dsimp only [execLkctlTail]
  repeat' (split <;> try with_reducible exact goes_next _)

theorem execLkctlEnable_goes (port : Nat) (en : Bool) (s : State) : (execLkctlEnable port en s).Goes := by
  dsimp only [execLkctlEnable]
  repeat' (split <;> try with_reducible exact goes_next _)

theorem execLinkTrained_goes (port : Nat) (width : BitVec 2) (s : State) : (execLinkTrained port width s).Goes := by
  dsimp only [execLinkTrained]
  repeat' (split <;> try with_reducible exact goes_next _)

theorem execLinkWidthChange_goes (port : Nat) (width : BitVec 2) (s : State) : (execLinkWidthChange port width s).Goes := by
  dsimp only [execLinkWidthChange]
  repeat' (split <;> try with_reducible exact goes_next _)

theorem execLinkDescriptorSend_goes (port : Nat) (s : State) : (execLinkDescriptorSend port s).Goes := by
  dsimp only [execLinkDescriptorSend]
  repeat' (split <;> try with_reducible exact goes_next _)

theorem execLinkAck_goes (port : Nat) (rejected : Bool) (s : State) : (execLinkAck port rejected s).Goes := by
  dsimp only [execLinkAck]
  repeat' (split <;> try with_reducible exact goes_next _)

theorem execLinkFlitReceive_goes (port vc pa : Nat) (data : List (BitVec 8)) (s : State) : (execLinkFlitReceive port vc pa data s).Goes := by
  dsimp only [execLinkFlitReceive]
  repeat' (split <;> try with_reducible exact goes_next _)

theorem execMeterTick_goes (s : State) : (execMeterTick s).Goes := by
  dsimp only [execMeterTick]
  repeat' (split <;> try with_reducible exact goes_next _)

theorem execSentinelWarning_goes (die : Nat) (s : State) : (execSentinelWarning die s).Goes := by
  dsimp only [execSentinelWarning]
  repeat' (split <;> try with_reducible exact goes_next _)

theorem execSentinelDecay_goes (die : Nat) (s : State) : (execSentinelDecay die s).Goes := by
  dsimp only [execSentinelDecay]
  repeat' (split <;> try with_reducible exact goes_next _)

theorem execStartStage_goes (ok : Bool) (s : State) : (execStartStage ok s).Goes := by
  dsimp only [execStartStage]
  repeat' (split <;> try with_reducible exact goes_next _)

theorem execAttestReport_goes (s : State) : (execAttestReport s).Goes := by
  dsimp only [execAttestReport]
  repeat' (split <;> try with_reducible exact goes_next _)

theorem execSoftError_goes (site : Site) (bits : Nat) (s : State) : (execSoftError site bits s).Goes := by
  dsimp only [execSoftError]
  repeat' (split <;> try with_reducible exact goes_next _)

end Sys2Proof.Machine
end

section
/-! PROOF. O58: so does an issue, and so does a step (14 R299, 15 R335). -/

namespace Sys2Proof.Machine

theorem exec_goes (i : Instr) (s : State) : Res.Goes (exec i s) := by
  cases i with
  | exit h f => exact execExit_goes h f s
  | trap h f => exact execTrap_goes h f s
  | tret h f => exact execTret_goes h f s
  | bkpt h f => exact execBkpt_goes h f s
  | sysrd h f => exact execSysrd_goes h f s
  | syswr h f => exact execSyswr_goes h f s
  | fence h f => exact execFence_goes h f s
  | waitw h f => exact execWaitw_goes h f s
  | bar h f => exact execBar_goes h f s
  | bru h f => exact execBru_goes h f s
  | brs h f => exact execBrs_goes h f s
  | jal h f => exact execJal_goes h f s
  | jmp h f => exact execJmp_goes h f s
  | cvset h f => exact execCvset_goes h f s
  | cvwait h f => exact execCvwait_goes h f s
  | spawn h f => exact execSpawn_goes h f s
  | repack h f => exact execRepack_goes h f s
  | cvt h f => exact execCvt_goes h f s
  | pack h f => exact execPack_goes h f s
  | unpack h f => exact execUnpack_goes h f s
  | pqry h f => exact execPqry_goes h f s
  | lwrite h f => exact execLwrite_goes h f s
  | ldl h f => exact execLdl_goes h f s
  | stl h f => exact execStl_goes h f s
  | ldcvt h f => exact execLdcvt_goes h f s
  | pref h f => exact execPref_goes h f s
  | cflush h f => exact execCflush_goes h f s
  | fifopush h f => exact execFifopush_goes h f s
  | fifopop h f => exact execFifopop_goes h f s
  | bankcfg h f => exact execBankcfg_goes h f s
  | qpop h f => exact execQpop_goes h f s
  | qstat h f => exact execQstat_goes h f s
  | strm h f => exact execStrm_goes h f s
  | strmx h f => exact execStrmx_goes h f s
  | atoml h f => exact execAtoml_goes h f s
  | copy h f => exact execCopy_goes h f s
  | copym h f => exact execCopym_goes h f s
  | halo h f => exact execHalo_goes h f s
  | gathv h f => exact execGathv_goes h f s
  | tagarm h f => exact execTagarm_goes h f s
  | tagwait h f => exact execTagwait_goes h f s
  | tagff h f => exact execTagff_goes h f s
  | tagclr h f => exact execTagclr_goes h f s
  | obres h f => exact execObres_goes h f s
  | obrel h f => exact execObrel_goes h f s
  | obld h f => exact execObld_goes h f s
  | mma h f => exact execMma_goes h f s
  | accz h f => exact execAccz_goes h f s
  | accld h f => exact execAccld_goes h f s
  | drain h f => exact execDrain_goes h f s
  | accrd h f => exact execAccrd_goes h f s
  | mstat h f => exact execMstat_goes h f s
  | rast h f => exact execRast_goes h f s
  | rastSet h f => exact execRastSet_goes h f s
  | blend h f => exact execBlend_goes h f s
  | blendSet h f => exact execBlendSet_goes h f s
  | trav h f => exact execTrav_goes h f s
  | travSet h f => exact execTravSet_goes h f s
  | filt h f => exact execFilt_goes h f s
  | filtSet h f => exact execFiltSet_goes h f s
  | bin h f => exact execBin_goes h f s
  | mcall h f => exact execMcall_goes h f s
  | taskpush h f => exact execTaskpush_goes h f s
  | hqpush h f => exact execHqpush_goes h f s
  | hqpop h f => exact execHqpop_goes h f s
  | ordin h f => exact execOrdin_goes h f s
  | ordout h f => exact execOrdout_goes h f s
  | ordseq h f => exact execOrdseq_goes h f s
  | trmark h f => exact execTrmark_goes h f s
  | relaunch h f => exact execRelaunch_goes h f s
  | launch h f => exact execLaunch_goes h f s
  | variableLatencyResult w k evict => exact execVariableLatencyResult_goes w k evict s
  | tlbWalkComplete die walk => exact execTlbWalkComplete_goes die walk s
  | walkDispatch die => exact execWalkDispatch_goes die s
  | ringRecordWrite ring => exact execRingRecordWrite_goes ring s
  | tlbInvalidationDone => exact execTlbInvalidationDone_goes s
  | microcodeReplace => exact execMicrocodeReplace_goes s
  | nodeStart replay node => exact execNodeStart_goes replay node s
  | copyNodeDone replay node => exact execCopyNodeDone_goes replay node s
  | waitNodeCheck replay node => exact execWaitNodeCheck_goes replay node s
  | kernelNodeComplete replay node => exact execKernelNodeComplete_goes replay node s
  | relaunchStart launch => exact execRelaunchStart_goes launch s
  | teamPlace => exact execTeamPlace_goes s
  | launchAgeing launch => exact execLaunchAgeing_goes launch s
  | poolReassign => exact execPoolReassign_goes s
  | poolReassignDone pool => exact execPoolReassignDone_goes pool s
  | timeSliceExpiry team => exact execTimeSliceExpiry_goes team s
  | drainTimeout team => exact execDrainTimeout_goes team s
  | teamFlush team => exact execTeamFlush_goes team s
  | teamSave team => exact execTeamSave_goes team s
  | teamRestore image => exact execTeamRestore_goes image s
  | macroSliceStop w => exact execMacroSliceStop_goes w s
  | waveForm launch pc => exact execWaveForm_goes launch pc s
  | partialWaveTimeout launch pc => exact execPartialWaveTimeout_goes launch pc s
  | copyDeliver core cmd piece off n => exact execCopyDeliver_goes core cmd piece off n s
  | copyPrepass core cmd => exact execCopyPrepass_goes core cmd s
  | streamFetch w q => exact execStreamFetch_goes w q s
  | bankcfgDrainDone core bank => exact execBankcfgDrainDone_goes core bank s
  | accessPerform w k j part => exact execAccessPerform_goes w k j part s
  | promotionNotice core k => exact execPromotionNotice_goes core k s
  | engineOpStart core old => exact execEngineOpStart_goes core old s
  | addOnStoreApply core k => exact execAddOnStoreApply_goes core k s
  | binQueuePush w => exact execBinQueuePush_goes w s
  | ordStallTimeout asn key space => exact execOrdStallTimeout_goes asn key space s
  | waitwWake w => exact execWaitwWake_goes w s
  | waitwTimeout w => exact execWaitwTimeout_goes w s
  | meterTick => exact execMeterTick_goes s
  | sentinelWarning die => exact execSentinelWarning_goes die s
  | sentinelDecay die => exact execSentinelDecay_goes die s
  | hostBar2Write off data => exact execHostBar2Write_goes off data s
  | hostBar2Read off n => exact execHostBar2Read_goes off n s
  | rcfgEnable ring log2n => exact execRcfgEnable_goes ring log2n s
  | rcfgDisable ring => exact execRcfgDisable_goes ring s
  | rheadWrite ring value => exact execRheadWrite_goes ring value s
  | lkctlTail port tail => exact execLkctlTail_goes port tail s
  | lkctlEnable port en => exact execLkctlEnable_goes port en s
  | linkWidthChange port width => exact execLinkWidthChange_goes port width s
  | linkDescriptorSend port => exact execLinkDescriptorSend_goes port s
  | linkFlitReceive port vc pa data => exact execLinkFlitReceive_goes port vc pa data s
  | linkAck port rejected => exact execLinkAck_goes port rejected s
  | startStage ok => exact execStartStage_goes ok s
  | attestReport => exact execAttestReport_goes s
  | softError site bits => exact execSoftError_goes site bits s
  | pcieCompletion k ok => exact execPcieCompletion_goes k ok s
  | pcieConfigWrite reg => exact execPcieConfigWrite_goes reg s
  | linkTrained port width => exact execLinkTrained_goes port width s
  | _ => exact goes_next _

/-! ### Issue -/

theorem runInstr_goes (s : State) (i : Instr) : (s.runInstr i).Goes := by
  unfold State.runInstr
  split
  · exact goes_next _
  · obtain ⟨t, ht⟩ := exec_goes i s
    rw [ht]
    dsimp only
    split <;> exact goes_next _

theorem issueEntry_goes (s : State) (r : WaveRef) (m : BitVec 64) (pc : Word) : (s.issueEntry r m pc).Goes := by
  unfold State.issueEntry
  dsimp only
  split
  · exact goes_next _
  · split
    · exact goes_next _
    · exact runInstr_goes _ _

/-- What follows an attempt's issue, if it came to one, is a next state. -/
def TurnGoes (o : Option Turn) : Prop := ∀ e, o = some e → e.after.Goes

theorem turnGoes_none : TurnGoes none := fun _ h => nomatch h

theorem turnGoes_next (m : BitVec 64) (pc : Word) (t : State) : TurnGoes (some { mask := m, pc := pc, after := .next t }) := by
  rintro e ⟨⟩
  exact goes_next t

theorem firstEntry_goes (r : WaveRef) (es : List (BitVec 64 × Word)) : ∀ s : State, TurnGoes (s.firstEntry r es).2 := by
  induction es with
  | nil => exact fun s => turnGoes_none
  | cons e rest ih =>
    intro s
    obtain ⟨t, ht⟩ := issueEntry_goes s r e.1 e.2
    rw [State.firstEntry, ht]
    dsimp only
    split
    · exact turnGoes_next _ _ t
    · split
      · exact turnGoes_none
      · exact ih _

theorem attemptEntered_goes (s : State) (r : WaveRef) (w : Wave) : TurnGoes (s.attemptEntered r w).2 := by
  unfold State.attemptEntered
  split
  next => exact firstEntry_goes r _ s
  next p _ =>
    obtain ⟨t, ht⟩ := runInstr_goes (s.atIssue r p.mask p.pc) p.instr
    rw [ht]
    dsimp only
    split
    · exact turnGoes_next _ _ t
    · split
      · exact turnGoes_none
      · split
        · exact turnGoes_none
        · exact firstEntry_goes r _ _

theorem attempt_goes (s : State) (r : WaveRef) : TurnGoes (s.attempt r).2 := by
  unfold State.attempt
  split
  · exact turnGoes_none
  · split
    · exact turnGoes_none
    · exact attemptEntered_goes _ r _

theorem issue_goes (s : State) (r : WaveRef) : (s.issue r).Goes := by
  unfold State.issue
  split
  · split
    next => exact goes_next _
    next e he =>
      obtain ⟨t, ht⟩ := attempt_goes s r e (by rw [he])
      rw [ht]
      dsimp only
      repeat' split
      all_goals exact goes_next _
  · exact goes_next s

/-! ### Steps -/

theorem doMove_goes (s : State) (m : Move) : (s.doMove m).Goes := by
  cases m with
  | issue r => exact issue_goes s r
  | event i =>
    unfold State.doMove
    dsimp only
    split
    · exact exec_goes i s
    · exact goes_next s

theorem moveAndSettle_goes (s : State) (m : Move) : (s.moveAndSettle m).Goes := by
  obtain ⟨t, ht⟩ := doMove_goes s.idle m
  unfold State.moveAndSettle
  rw [ht]
  dsimp only
  split <;> exact goes_next _

theorem step_goes (s : State) : Res.Goes (step s) := by
  unfold step
  split
  · exact moveAndSettle_goes _ _
  · split
    · exact moveAndSettle_goes s _
    · exact goes_next s

end Sys2Proof.Machine

namespace Sys2Proof.Safety

/-- Settles O58: an instruction or event by `exec_goes`, a step by `step_goes`. -/
theorem nothingStops : Obligations.NothingStops := ⟨Machine.exec_goes, Machine.step_goes⟩

end Sys2Proof.Safety
end

section
/-! PROOF. O55: a step also moves on the admitted lanes of a second team that bears the issuing team's number. -/

namespace Sys2Proof.Machine

/-- A device with one team of one wave, whose next step issues NOP (14 R317) at 0x10000. -/
def nopIssue : State := State.reset.withFetchWord 64 0x0007000000000000

def nopHere : Instr := .nop { sw := false, keep := 0#2, gn := false, gp := 7#3, x := none } { imm := 0, d := 0, a := 0, sub := 0 }

/-- The team again, under the same number, on core 1: its wave has nine lanes, each admitted at an ORDIN of 8 bytes (16 R427). -/
def Team.admittedTwin (t : Team) : Team :=
  { t with
    core := 1
    waves := t.waves.map (fun w => { w with
      core := 1
      lanes := List.replicate 9 { Lane.reset with live := true, wait := .entered 8 } }) }

/-- The device with the team and its twin. -/
def nopTwice : State := { nopIssue with teams := nopIssue.teams ++ nopIssue.teams.map Team.admittedTwin }

/-- The state in which the statement runs the instruction. -/
def nopBegun : State := { nopTwice with agenda := [], cur := { team := 1, wave := 0, mask := 0xFF#64, pc := 0x10000#64, blocked := false } }

def nopRef : WaveRef := { team := 1, wave := 0 }
def nopTeam : Team := (nopTwice.team? 1).getD Team.reset
def nopWave : Wave := (nopTwice.wave? nopRef).getD Wave.reset
def nopEntry : TlbEntry := { asn := 0, page := 0x10, log2 := 12, pa := 0x10000, mtype := .cached, perms := 7 }

/-- How many lanes stand admitted in the state of an outcome. -/
def admittedLanes : Res → Nat
  | .next t => (t.teams.map (fun u => (u.waves.map (fun w => w.lanes.countP Lane.isEntered)).sum)).sum
  | _ => 0

theorem wait_ne_entered {ln : Lane} (h : ln.isEntered = false) (n : Nat) : ln.wait ≠ .entered n := by
  intro hn
  simp [Lane.isEntered, hn] at h

theorem nopWave_issues : nopWave.mayIssue = true ∧ nopWave.prog = none ∧ nopWave.xl = [] ∧ nopWave.issuable = [(0xFF#64, 0x10000#64)] ∧
    (∀ l < 64, (0xFF#64).getLsbD l = true → (nopWave.lane l).badRec = none) ∧ (∀ ln ∈ nopWave.lanes, ln.isEntered = false) ∧ nopWave.outs = [] := by
  decide +kernel

theorem nopTwice_meets : nopTwice.team? 1 = some nopTeam ∧ nopTwice.wave? nopRef = some nopWave ∧
    (∀ u ∈ nopTwice.teams, ∀ v ∈ u.waves, v.core = nopWave.core → v.part = nopWave.part → v.before nopWave = false) ∧
    (nopTwice.core nopWave.core).tlb.find? (fun e => e.covers nopBegun.curAsn 0x10000) = some nopEntry ∧
    (∀ x ∈ (nopTwice.core nopWave.core).tlb, 12 ≤ x.log2) ∧ nopBegun.watchdogDue = false := by
  decide +kernel

theorem admittedLanes_step : admittedLanes (step nopTwice) = 0 := by decide +kernel

/-- The word that the statement reads from memory, decoded. -/
def nopFetched : Instr :=
  let at' (a : Nat) : Word := BitVec.ofNat 64 (Safety.littleEndian (cellGet nopTwice.mem) (nopEntry.pa + a % 2 ^ nopEntry.log2) 8)
  let word := at' 0x10000
  let ext : Word := if needsExt word.toNat nopTeam.vregs then at' 0x10008 else 0#64
  match decode word ext nopTeam.vregs with
  | .ok i => i
  | .error reason => .notAnInstruction word reason

theorem nopFetched_eq : nopFetched = nopHere := by decide +kernel

/-- The state after NOP. -/
def nopDone : State := nopBegun.finish (instrHdr nopHere)

theorem exec_nopFetched : exec nopFetched nopBegun = .next nopDone := by
  rw [nopFetched_eq]
  rfl

theorem nopDone_goes : nopDone.cur.blocked = false ∧ nopDone.curWave.onWalk = false ∧ nopDone.poisonRegs = [] := by decide +kernel

/-- The state that the statement names. -/
def nopStated : State :=
  State.settle { nopTwice with agenda := [] }
    ((((nopDone.latchAfter nopFetched).countIssue.heldAlways.queueUnit).putPack nopWave.core
      { part := nopWave.part, launch := nopTeam.launch, pc := 0x10000#64, used := slices 0xFF#64,
        last := (nopWave.lastIssue, nopWave.id, nopWave.placed) }).idle.unblock)

theorem admittedLanes_nopStated : admittedLanes (.next nopStated) = 1 := by decide +kernel

end Sys2Proof.Machine

namespace Sys2Proof.Safety
open Sys2Proof.Machine

/-- Refutes O55: nothing keeps a second team from bearing the issuing team's number; the issue moves the admitted lanes of both on (16 R427),
and the stated state leaves the ninth lane of the second where it waits. -/
theorem not_stepRunsDecoded : ¬ Obligations.StepRunsDecoded := by
  unfold Obligations.StepRunsDecoded
  intro h
  obtain ⟨hmay, hprog, hxl, hissuable, hbad, hnone, houts⟩ := nopWave_issues
  obtain ⟨hteam, hwave, hfirst, htlb, hpages, hdog⟩ := nopTwice_meets
  obtain ⟨hblocked, hwalk, hpoison⟩ := nopDone_goes
  have hstep : step nopTwice = .next nopStated :=
    h nopTwice nopRef [] nopTeam nopWave 0xFF#64 0x10000#64 [] nopEntry rfl hteam hwave hmay hprog hxl hissuable hbad
      (fun ln hln => wait_ne_entered (hnone ln hln)) (by simp [houts]) hfirst rfl rfl (by decide) (by decide) (by decide) (by decide)
      htlb hpages (by decide) (.inl rfl) hdog nopDone exec_nopFetched hblocked hwalk hpoison
  have hcount : admittedLanes (step nopTwice) = 1 := hstep ▸ admittedLanes_nopStated
  rw [admittedLanes_step] at hcount
  exact absurd hcount (by decide)

end Sys2Proof.Safety
end

section
/-! PROOF. O56, O57: what the limits of a device and the canonical form of memory speak of, as a frame of the state (04 R70, 19 R402, R414).

The sections that follow say once for each function of the model that a step runs, in the order of the model, what it does to that frame. A
function that stores nothing in memory and starts no reset leaves it (`f_frame`, a rule for `simp`); any other keeps to what the state before it
keeps to (`f_keeps`); what a function hands on to its continuation is a hypothesis of its lemma. A proof `(rfl)` stands in parentheses so that
`simp` takes the lemma as a rewriting rule, not as a definition to unfold.

Where a branch tests a computation over the lanes or over memory, that computation is named as an unknown function (`exists_eq`), which the
kernel does not evaluate. -/

namespace Sys2Proof.Machine

/-- What the limits of a device and the canonical form of memory speak of: the bytes of memory, the numbers of its parts, the steps of its dies
and FAILS. -/
structure Frame where
  mem : List Host.Cell
  cores : Nat
  rings : Nat
  ports : Nat
  steps : List Nat
  fails : BitVec 4

/-- That part of a state. -/
def State.frame (s : State) : Frame :=
  { mem := s.mem, cores := s.cores.length, rings := s.rings.length, ports := s.ports.length,
    steps := s.dies.map Die.step, fails := s.regs.fails }

/-- The limits, beside the canonical form of memory. -/
structure Frame.Limits (a : Frame) : Prop where
  cores : a.cores = 256
  rings : a.rings = 3
  ports : a.ports = 12
  dies : a.steps.length = 8
  steps : ∀ n ∈ a.steps, n ≤ 6
  fails : a.fails.toNat ≤ 3

/-- `b` keeps to what `a` keeps to: the canonical form of memory, and the limits. -/
structure Frame.Keeps (a b : Frame) : Prop where
  memory : Memory.wf a.mem = true → Memory.wf b.mem = true
  limits : a.Limits → b.Limits

@[simp] theorem Frame.keeps_refl (a : Frame) : a.Keeps a := ⟨id, id⟩

theorem Frame.Keeps.trans {a b c : Frame} (h : a.Keeps b) (h' : b.Keeps c) : a.Keeps c :=
  ⟨h'.memory ∘ h.memory, h'.limits ∘ h.limits⟩

/-- An outcome keeps to what `a` keeps to. -/
def Res.Keeps (a : Frame) : Res → Prop
  | .next t => a.Keeps t.frame
  | _ => True

@[simp] theorem Res.keeps_next (a : Frame) (t : State) : Res.Keeps a (.next t) ↔ a.Keeps t.frame := Iff.rfl

/-- An update of every other field, of the parts of cores, rings and ports, and of dies and registers that keep STEP and FAILS. -/
@[simp] theorem State.frame_with (s : State) {rels poison poisonRegs promo rowans rowanOut hostAtomics cores dies teams images launches relaunches
    replays graphs nextLaunch nextToken nextHandle rings ports regs micro hostHeld attest attNonce attTaken recWindow flash pcie issues uid free
    cur agenda} (hcores : cores.length = s.cores.length) (hdies : dies.map Die.step = s.dies.map Die.step) (hrings : rings.length = s.rings.length)
    (hports : ports.length = s.ports.length) (hfails : regs.fails = s.regs.fails) :
    State.frame { s with
      rels := rels, poison := poison, poisonRegs := poisonRegs, promo := promo, rowans := rowans, rowanOut := rowanOut
      hostAtomics := hostAtomics, cores := cores, dies := dies, teams := teams, images := images, launches := launches
      relaunches := relaunches, replays := replays, graphs := graphs, nextLaunch := nextLaunch, nextToken := nextToken
      nextHandle := nextHandle, rings := rings, ports := ports, regs := regs, micro := micro, hostHeld := hostHeld
      attest := attest, attNonce := attNonce, attTaken := attTaken, recWindow := recWindow, flash := flash, pcie := pcie
      issues := issues, uid := uid, free := free, cur := cur, agenda := agenda } = s.frame := by
  simp [State.frame, hcores, hdies, hrings, hports, hfails]

@[simp] theorem mapFrom_map {α β : Type} (g : α → β) {f : Nat → α → α} (hf : ∀ i x, g (f i x) = g x) (k : Nat) (l : List α) :
    (mapFrom f k l).map g = l.map g := by
  induction l generalizing k with
  | nil => rfl
  | cons x r ih => simp [mapFrom, hf, ih]

@[simp] theorem listSet_map {α β : Type} (g : α → β) {f : α → α} (hf : ∀ x, g (f x) = g x) (l : List α) (i : Nat) :
    (listSet l i f).map g = l.map g := by
  induction l generalizing i with
  | nil => rfl
  | cons x r ih => cases i <;> simp [listSet, hf, ih]

/-- A fold of steps that leave the frame leaves it. -/
@[simp] theorem foldl_frame {α : Type} {f : State → α → State} (hf : ∀ s x, (f s x).frame = s.frame) (l : List α) (s : State) :
    (l.foldl f s).frame = s.frame := by
  induction l generalizing s with
  | nil => rfl
  | cons x r ih => rw [List.foldl_cons, ih, hf]

/-- A fold of steps that keep to a frame keeps to it. -/
theorem foldl_keeps {α : Type} {fr : Frame} {f : State → α → State} (hf : ∀ s x, fr.Keeps s.frame → fr.Keeps (f s x).frame) (l : List α) {s : State}
    (hs : fr.Keeps s.frame) :
    fr.Keeps (l.foldl f s).frame :=
  List.foldlRecOn (motive := fun t : State => fr.Keeps t.frame) l f hs (fun t ht x _ => hf t x ht)

/-- The same for a fold that carries an answer beside the state. -/
@[simp] theorem foldl_snd_frame {α β : Type} {f : β × State → α → β × State} (hf : ∀ acc x, (f acc x).2.frame = acc.2.frame) (l : List α)
    (acc : β × State) :
    (l.foldl f acc).2.frame = acc.2.frame := by
  induction l generalizing acc with
  | nil => rfl
  | cons x r ih => rw [List.foldl_cons, ih, hf]

theorem foldl_snd_keeps {α β : Type} {fr : Frame} {f : β × State → α → β × State} (hf : ∀ acc x, fr.Keeps acc.2.frame → fr.Keeps (f acc x).2.frame)
    (l : List α) {acc : β × State} (hs : fr.Keeps acc.2.frame) :
    fr.Keeps (l.foldl f acc).2.frame :=
  List.foldlRecOn (motive := fun acc : β × State => fr.Keeps acc.2.frame) l f hs (fun acc ht x _ => hf acc x ht)

@[simp] theorem ite_frame (c : Prop) [Decidable c] (s t : State) : (if c then s else t).frame = if c then s.frame else t.frame :=
  apply_ite State.frame c s t

@[simp] theorem Frame.keeps_ite (fr : Frame) (c : Prop) [Decidable c] (b d : Frame) :
    fr.Keeps (if c then b else d) ↔ if c then fr.Keeps b else fr.Keeps d := by
  split <;> rfl

theorem State.keeps_ite {fr : Frame} {c : Prop} [Decidable c] {s t : State} (hs : fr.Keeps s.frame) (ht : fr.Keeps t.frame) :
    fr.Keeps (if c then s else t).frame := by
  split
  · exact hs
  · exact ht

theorem Res.keeps_of_ite {a : Frame} {c : Prop} [Decidable c] {x y : Res} (hx : Res.Keeps a x) (hy : Res.Keeps a y) :
    Res.Keeps a (if c then x else y) := by
  split
  · exact hx
  · exact hy

@[simp] theorem Res.keeps_ite (a : Frame) (c : Prop) [Decidable c] (x y : Res) :
    Res.Keeps a (if c then x else y) ↔ if c then Res.Keeps a x else Res.Keeps a y := by
  split <;> rfl

end Sys2Proof.Machine
end

section
/-! PROOF. O56, O57: the operations on registers, lanes, waves and teams, and the frame. -/

namespace Sys2Proof.Machine

@[simp] theorem State.updTeam_frame (s : State) (u : Nat) (f : Team → Team) : (s.updTeam u f).frame = s.frame := (rfl)

@[simp] theorem State.updWave_frame (s : State) (r : WaveRef) (f : Wave → Wave) : (s.updWave r f).frame = s.frame := (rfl)

@[simp] theorem State.updCore_frame (s : State) (c : Nat) (f : Core → Core) : (s.updCore c f).frame = s.frame := by
  simp [State.updCore, listSet_length]

@[simp] theorem State.updDie_frame (s : State) (d : Nat) {f : Die → Die} (hf : ∀ x, (f x).step = x.step) : (s.updDie d f).frame = s.frame := by
  simp [State.updDie, hf]

@[simp] theorem State.updCur_frame (s : State) (f : Wave → Wave) : (s.updCur f).frame = s.frame := (rfl)

@[simp] theorem State.updCurTeam_frame (s : State) (f : Team → Team) : (s.updCurTeam f).frame = s.frame := (rfl)

@[simp] theorem State.finish_frame (s : State) (h : Hdr) : (s.finish h).frame = s.frame := (rfl)

@[simp] theorem State.moved_frame (s : State) (h : Hdr) : (s.moved h).frame = s.frame := (rfl)

@[simp] theorem State.blockIssue_frame (s : State) : s.blockIssue.frame = s.frame := (rfl)

@[simp] theorem State.hold_frame (s : State) (i : Instr) : (s.hold i).frame = s.frame := (rfl)

@[simp] theorem State.begin_frame (s : State) (i : Instr) (h : Hdr) (m : BitVec 64) (lanes : List MacLane) (data : List Nat) :
    (s.begin i h m lanes data).frame = s.frame := (rfl)

@[simp] theorem State.endRun_frame (s : State) : s.endRun.frame = s.frame := (rfl)

@[simp] theorem State.updLaunch_frame (s : State) (id : Nat) (f : Launch → Launch) : (s.updLaunch id f).frame = s.frame := (rfl)

@[simp] theorem State.pushRecord_frame (s : State) (ring : Nat) (rec : List Word) : (s.pushRecord ring rec).frame = s.frame := by
  simp [State.pushRecord, listSet_length]

@[simp] theorem State.takeToken_frame (s : State) : (s.takeToken).2.frame = s.frame := (rfl)

@[simp] theorem State.disarm_frame (s : State) (uid : Nat) (t : TrapInfo) : (s.disarm uid t).frame = s.frame := by
  simp [State.disarm]

@[simp] theorem State.undelivered_frame (s : State) (r : WaveRef) (m : BitVec 64) (pc : Word) (t : TrapInfo) :
    (s.undelivered r m pc t).frame = s.frame := by
  unfold State.undelivered
  split <;> simp

@[simp] theorem State.deliver_frame (n : Nat) (r : WaveRef) (s : State) : (State.deliver n r s).frame = s.frame := by
  induction n generalizing s with
  | zero => rfl
  | succ n ih =>
    unfold State.deliver
    repeat' split
    all_goals simp [ih]

@[simp] theorem State.raiseLanes_frame (s : State) (r : WaveRef) (m : BitVec 64) (pc : Word) (t : TrapInfo) :
    (s.raiseLanes r m pc t).frame = s.frame := by
  unfold State.raiseLanes
  split <;> simp

@[simp] theorem State.raiseAt_frame (s : State) (r : WaveRef) (m : BitVec 64) (pc : Word) (t : TrapInfo) : (s.raiseAt r m pc t).frame = s.frame := by
  simp [State.raiseAt]

@[simp] theorem State.raiseEach_frame (s : State) (r : WaveRef) (f : Nat → Option TrapInfo) : (s.raiseEach r f).frame = s.frame := by
  unfold State.raiseEach
  split
  · rfl
  · split
    · exact foldl_frame (fun s l => by split <;> simp) _ s
    · simp

@[simp] theorem State.trapLanes_frame (s : State) (h : Hdr) (m : BitVec 64) (t : TrapInfo) : (s.trapLanes h m t).frame = s.frame := by
  simp [State.trapLanes]

@[simp] theorem State.trap_frame (s : State) (h : Hdr) (t : TrapInfo) : (s.trap h t).frame = s.frame := by
  simp [State.trap]

@[simp] theorem State.hwerrIn_frame (s : State) (h : Hdr) (m : BitVec 64) (store index : Nat) : (s.hwerrIn h m store index).frame = s.frame := by
  simp [State.hwerrIn]

@[simp] theorem State.hwerr_frame (s : State) (h : Hdr) (store index : Nat) : (s.hwerr h store index).frame = s.frame := by
  simp [State.hwerr]

@[simp] theorem State.addOut_frame (s : State) (o : Out) : (s.addOut o).frame = s.frame := (rfl)

@[simp] theorem State.takeFree_frame (s : State) : (s.takeFree).2.frame = s.frame := (rfl)

end Sys2Proof.Machine
end

section
/-! PROOF. O56, O57: home memory, the Bramble map and the caches, and the frame. -/

namespace Sys2Proof.Machine

/-- Setting a bit of a Bramble map writes one byte (17 R370). -/
theorem setMapBit_wf {m : Cells 8} (d k : Nat) (h : Memory.wf m = true) : Memory.wf (setMapBit m d k) = true :=
  cellWrite_wf m _ _ _ h

/-- Memory of canonical form in place of a state's own, with every field that the frame leaves out. -/
theorem State.keeps_of_mem {fr : Frame} {s t : State} (hs : fr.Keeps s.frame) (hm : Memory.wf s.mem = true → Memory.wf t.mem = true)
    (h : { t.frame with mem := s.mem } = s.frame) : fr.Keeps t.frame where
  memory ha := hm (hs.memory ha)
  limits ha := by
    obtain ⟨hcores, hrings, hports, hdies, hsteps, hfails⟩ := h ▸ hs.limits ha
    exact ⟨hcores, hrings, hports, hdies, hsteps, hfails⟩

@[simp] theorem State.bramble_keeps {fr : Frame} (s : State) (pa n writer : Nat) (hs : fr.Keeps s.frame) :
    fr.Keeps (s.bramble pa n writer).frame := by
  refine foldl_keeps (fun s i hs => ?_) _ hs
  dsimp only
  repeat' split
  · exact hs
  · exact hs
  · exact keeps_of_mem hs (fun hm => List.foldlRecOn (motive := fun m => Memory.wf m = true) _ _ hm (fun _ hm k _ => setMapBit_wf _ k hm)) rfl

@[simp] theorem State.homeStore_keeps {fr : Frame} (s : State) (pa : Nat) (bs : List Byte) (writer : Nat) (ts : List RelTag) (hs : fr.Keeps s.frame) :
    fr.Keeps (s.homeStore pa bs writer ts).frame := by
  have hstored := keeps_of_mem (t := { s with
    mem := cellStore s.mem pa bs, rels := relPut s.rels pa bs.length ts,
    poison := s.poison.filter (fun w => !(pa ≤ w && w + 8 ≤ pa + bs.length)) }) hs (cellStore_wf s.mem pa bs) rfl
  unfold State.homeStore
  dsimp only
  split
  · exact hstored
  · exact bramble_keeps _ pa _ writer hstored

@[simp] theorem State.homeWrite_keeps {fr : Frame} (s : State) (pa n v writer : Nat) (ts : List RelTag) (hs : fr.Keeps s.frame) :
    fr.Keeps (s.homeWrite pa n v writer ts).frame := by
  simp [State.homeWrite, hs]

@[simp] theorem State.meterCharge_frame (s : State) (c pa n : Nat) : (s.meterCharge c pa n).frame = s.frame := by
  simp [State.meterCharge]

@[simp] theorem State.grant_frame (s : State) (c : Nat) (paid rs : List Request) : (s.grant c paid rs).2.frame = s.frame := by
  induction rs generalizing s paid with
  | nil => rfl
  | cons r rest ih =>
    unfold State.grant
    repeat' split
    all_goals simp [ih]

@[simp] theorem State.dropLine_frame (s : State) (c l : Nat) : (s.dropLine c l).frame = s.frame := by
  simp [State.dropLine]

@[simp] theorem State.dropDrain_frame (s : State) (c l : Nat) : (s.dropDrain c l).frame = s.frame := by
  simp [State.dropDrain]

@[simp] theorem State.writeBytes_keeps {fr : Frame} (s : State) (x : CLine) (hs : fr.Keeps s.frame) : fr.Keeps (s.writeBytes x).frame := by
  refine foldl_keeps (fun s b hs => ?_) x.bytes hs
  split
  · simp [hs]
  · exact hs

@[simp] theorem State.flushDrains_keeps {fr : Frame} (s : State) (c : Nat) (p : CLine → Bool) (hs : fr.Keeps s.frame) :
    fr.Keeps (s.flushDrains c p).frame := by
  unfold State.flushDrains
  split
  · exact hs
  · rw [updCore_frame]
    exact foldl_keeps (fun s d hs => foldl_keeps (fun s x hs => writeBytes_keeps s x hs) _ hs) _ hs

@[simp] theorem State.cleanLineRaw_keeps {fr : Frame} (s : State) (c l : Nat) (hs : fr.Keeps s.frame) : fr.Keeps (s.cleanLineRaw c l).frame := by
  dsimp only [State.cleanLineRaw]
  split <;> simp [hs]

@[simp] theorem State.writeBack_keeps {fr : Frame} (s : State) (c : Nat) (x : CLine) (hs : fr.Keeps s.frame) : fr.Keeps (s.writeBack c x).frame := by
  simp [State.writeBack, hs]

@[simp] theorem State.cleanSome_keeps {fr : Frame} (s : State) (c : Nat) (p : CLine → Bool) (hs : fr.Keeps s.frame) :
    fr.Keeps (s.cleanSome c p).frame :=
  foldl_keeps (fun s x hs => writeBack_keeps s c x hs) _ hs

@[simp] theorem State.cleanAllRaw_keeps {fr : Frame} (s : State) (c : Nat) (hs : fr.Keeps s.frame) : fr.Keeps (s.cleanAllRaw c).frame :=
  flushDrains_keeps _ c _ (foldl_keeps (fun s x hs => cleanLineRaw_keeps s c x.line hs) _ hs)

@[simp] theorem State.mapTags_frame (s : State) (f : RelTag → RelTag) : (s.mapTags f).frame = s.frame := by
  simp [State.mapTags]

@[simp] theorem State.promote_keeps {fr : Frame} (s : State) (l c n : Nat) (hs : fr.Keeps s.frame) : fr.Keeps (s.promote l c n).frame := by
  simp [State.promote, hs]

@[simp] theorem State.setPromo_keeps {fr : Frame} (s : State) (l c n : Nat) (hs : fr.Keeps s.frame) : fr.Keeps (s.setPromo l c n).frame := by
  dsimp only [State.setPromo]
  repeat' split
  all_goals simp [hs]

@[simp] theorem State.flushNotices_keeps {fr : Frame} (s : State) (c : Nat) (hs : fr.Keeps s.frame) : fr.Keeps (s.flushNotices c).frame :=
  foldl_keeps (fun s n hs => setPromo_keeps s n.1 c n.2 hs) _ ((updCore_frame s c _).symm ▸ hs)

@[simp] theorem State.cleanLine_keeps {fr : Frame} (s : State) (c l : Nat) (hs : fr.Keeps s.frame) : fr.Keeps (s.cleanLine c l).frame := by
  simp [State.cleanLine, hs]

@[simp] theorem State.cleanAll_keeps {fr : Frame} (s : State) (c : Nat) (hs : fr.Keeps s.frame) : fr.Keeps (s.cleanAll c).frame := by
  simp [State.cleanAll, hs]

@[simp] theorem State.cleanFree_keeps {fr : Frame} (s : State) (c : Nat) (hs : fr.Keeps s.frame) : fr.Keeps (s.cleanFree c).frame := by
  simp [State.cleanFree, hs]

@[simp] theorem State.evictLine_keeps {fr : Frame} (s : State) (c l : Nat) (hs : fr.Keeps s.frame) : fr.Keeps (s.evictLine c l).frame := by
  simp [State.evictLine, hs]

@[simp] theorem State.discardClean_frame (s : State) (c : Nat) : (s.discardClean c).frame = s.frame := by
  simp [State.discardClean]

@[simp] theorem State.dropRange_frame (s : State) (c pa n : Nat) : (s.dropRange c pa n).frame = s.frame := by
  simp [State.dropRange]

@[simp] theorem State.touchLine_keeps {fr : Frame} (s : State) (c l ch : Nat) (hs : fr.Keeps s.frame) : fr.Keeps (s.touchLine c l ch).frame := by
  unfold State.touchLine
  repeat' split
  all_goals simp [hs]

@[simp] theorem State.updLine_frame (s : State) (c l : Nat) (f : CLine → CLine) : (s.updLine c l f).frame = s.frame := by
  simp [State.updLine]

@[simp] theorem State.fillSectors_frame (s : State) (c pa n : Nat) : (s.fillSectors c pa n).frame = s.frame := by
  refine foldl_frame (fun s i => ?_) _ s
  dsimp only
  split <;> simp

@[simp] theorem State.cacheLoad_keeps {fr : Frame} (s : State) (c pa n ch : Nat) (hs : fr.Keeps s.frame) :
    fr.Keeps (s.cacheLoad c pa n ch).2.frame := by
  unfold State.cacheLoad
  repeat' split
  all_goals simp [hs]

@[simp] theorem State.healLine_frame (s : State) (c pa n : Nat) : (s.healLine c pa n).frame = s.frame := by
  simp [State.healLine]

@[simp] theorem State.refreshCopy_frame (s : State) (c pa n : Nat) : (s.refreshCopy c pa n).frame = s.frame := by
  refine foldl_frame (fun s i => ?_) _ s
  dsimp only
  split <;> simp

@[simp] theorem State.cacheStore_keeps {fr : Frame} (s : State) (c pa : Nat) (bs : List Byte) (ch writer : Nat) (ts : List RelTag)
    (hs : fr.Keeps s.frame) :
    fr.Keeps (s.cacheStore c pa bs ch writer ts).frame := by
  simp [State.cacheStore, hs]

@[simp] theorem State.promoteFor_keeps {fr : Frame} (s : State) (pa n : Nat) (d : Option Nat) (hs : fr.Keeps s.frame) :
    fr.Keeps (s.promoteFor pa n d).frame := by
  unfold State.promoteFor
  split
  · exact hs
  · refine foldl_keeps (fun s l hs => ?_) _ hs
    split <;> simp [hs]

@[simp] theorem State.promoteRange_keeps {fr : Frame} (s : State) (pa n : Nat) (hs : fr.Keeps s.frame) : fr.Keeps (s.promoteRange pa n).frame := by
  unfold State.promoteRange
  split
  · exact hs
  · exact foldl_keeps (fun s j hs => promoteFor_keeps s _ 1 none hs) _ hs

@[simp] theorem State.meterTick_frame (s : State) : s.meterTick.frame = s.frame := by
  simp [State.meterTick, mapFrom_length]

end Sys2Proof.Machine
end

section
/-! PROOF. O56, O57: translations, walks and the checks of an access, and the frame. -/

namespace Sys2Proof.Machine

@[simp] theorem State.installTlb_frame (s : State) (core : Nat) (e : TlbEntry) : (s.installTlb core e).frame = s.frame := by
  simp [State.installTlb]

@[simp] theorem State.refill_frame (s : State) (core : Nat) (asn : BitVec 12) (va : Nat) : (s.refill core asn va).frame = s.frame := by
  unfold State.refill
  repeat' split
  all_goals simp

@[simp] theorem State.queueAs_frame (s : State) (core : Nat) (asn : BitVec 12) (page : Nat) (join : Miss → Miss) :
    (s.queueAs core asn page join).frame = s.frame := by
  refine updDie_frame s _ (fun d => ?_)
  dsimp only
  repeat' split
  all_goals rfl

@[simp] theorem State.queueMiss_frame (s : State) (r : WaveRef) (core : Nat) (asn : BitVec 12) (page : Nat) :
    (s.queueMiss r core asn page).frame = s.frame := by
  simp [State.queueMiss]

@[simp] theorem State.queueEngine_frame (s : State) (e : Engine) (core : Nat) (asn : BitVec 12) (page : Nat) :
    (s.queueEngine e core asn page).frame = s.frame := by
  simp [State.queueEngine]

@[simp] theorem State.blockWave_frame (s : State) : s.blockWave.frame = s.frame := (rfl)

@[simp] theorem State.waitWalks_frame (s : State) (asn : BitVec 12) (pages : List Nat) : (s.waitWalks asn pages).frame = s.frame := by
  simp [State.waitWalks]

@[simp] theorem State.engineXlate_frame (s : State) (core : Nat) (asn : BitVec 12) (va : Nat) : (s.engineXlate core asn va).2.frame = s.frame := by
  unfold State.engineXlate
  split <;> simp

@[simp] theorem State.unitXlate_frame (s : State) (e : Engine) (xl : List XEntry) (core : Nat) (asn : BitVec 12) (va : Nat) :
    (s.unitXlate e xl core asn va).2.frame = s.frame := by
  unfold State.unitXlate
  split <;> simp

@[simp] theorem State.warrenXlate_frame (s : State) (core : Nat) (asn : BitVec 12) (va : Nat) : (s.warrenXlate core asn va).2.frame = s.frame := by
  unfold State.warrenXlate
  repeat' split
  all_goals simp

@[simp] theorem State.orWait_frame {s t : State} (h : t.frame = s.frame) : (s.orWait t).frame = s.frame := by
  have hdies : t.dies.map Die.step = s.dies.map Die.step := congrArg Frame.steps h
  unfold State.orWait
  repeat' split
  · simp [hdies]
  · rfl
  · simpa using h

/-- What a step is kept of keeps to what the states before and after it keep to. -/
theorem State.orWait_keeps {fr : Frame} {s t : State} (hs : fr.Keeps s.frame) (ht : fr.Keeps t.frame) : fr.Keeps (s.orWait t).frame := by
  have hdies : fr.Keeps ({ s with dies := t.dies } : State).frame := by
    refine ⟨hs.memory, fun hl => ?_⟩
    obtain ⟨hcores, hrings, hports, -, -, hfails⟩ := hs.limits hl
    obtain ⟨-, -, -, hlength, hsteps, -⟩ := ht.limits hl
    exact ⟨hcores, hrings, hports, hlength, hsteps, hfails⟩
  exact keeps_ite (by simpa using hdies) (keeps_ite (by simpa using hs) (by simpa using ht))

@[simp] theorem State.parkFaults_frame (s : State) (part : BitVec 64) (asn : BitVec 12) (kind : Nat) (fs : List (Nat × Nat × Nat)) :
    (s.parkFaults part asn kind fs).frame = s.frame := by
  simp [State.parkFaults]

/-- The state that a check leaves. -/
def Check.state : Check → State
  | .stop s => s
  | .ok s _ => s

@[simp] theorem Check.state_stop (s : State) : (Check.stop s).state = s := rfl

@[simp] theorem Check.state_ok (s : State) (xs : List Xlat) : (Check.ok s xs).state = s := rfl

@[simp] theorem State.memCheckAs_frame (s : State) (asn : BitVec 12) (i : Instr) (h : Hdr) (part : BitVec 64) (reqs : List Req) (align : Nat)
    (need : Need) (kind : Nat) (typeOk : MType → Bool) (mk : Nat → Nat → TrapInfo) :
    (s.memCheckAs asn i h part reqs align need kind typeOk mk).state.frame = s.frame := by
  unfold State.memCheckAs
  dsimp only
  repeat' split
  all_goals simp

theorem State.frame_of_memCheckAs_stop {s t : State} {asn : BitVec 12} {i : Instr} {h : Hdr} {part : BitVec 64} {reqs : List Req} {align : Nat}
    {need : Need} {kind : Nat} {typeOk : MType → Bool} {mk : Nat → Nat → TrapInfo}
    (hc : s.memCheckAs asn i h part reqs align need kind typeOk mk = .stop t) :
    t.frame = s.frame := by
  rw [← memCheckAs_frame s asn i h part reqs align need kind typeOk mk, hc, Check.state_stop]

theorem State.frame_of_memCheckAs_ok {s t : State} {asn : BitVec 12} {i : Instr} {h : Hdr} {part : BitVec 64} {reqs : List Req} {align : Nat}
    {need : Need} {kind : Nat} {typeOk : MType → Bool} {mk : Nat → Nat → TrapInfo} {xs : List Xlat}
    (hc : s.memCheckAs asn i h part reqs align need kind typeOk mk = .ok t xs) :
    t.frame = s.frame := by
  rw [← memCheckAs_frame s asn i h part reqs align need kind typeOk mk, hc, Check.state_ok]

theorem State.frame_of_memCheck_stop {s t : State} {i : Instr} {h : Hdr} {part : BitVec 64} {reqs : List Req} {align : Nat} {need : Need} {kind : Nat}
    {typeOk : MType → Bool} {mk : Nat → Nat → TrapInfo} (hc : s.memCheck i h part reqs align need kind typeOk mk = .stop t) :
    t.frame = s.frame :=
  frame_of_memCheckAs_stop hc

theorem State.frame_of_memCheck_ok {s t : State} {i : Instr} {h : Hdr} {part : BitVec 64} {reqs : List Req} {align : Nat} {need : Need} {kind : Nat}
    {typeOk : MType → Bool} {mk : Nat → Nat → TrapInfo} {xs : List Xlat} (hc : s.memCheck i h part reqs align need kind typeOk mk = .ok t xs) :
    t.frame = s.frame :=
  frame_of_memCheckAs_ok hc

end Sys2Proof.Machine
end

section
/-! PROOF. O56, O57: tags, Holly entries and accepted commands, and the frame. -/

namespace Sys2Proof.Machine

@[simp] theorem State.updTagOf_keeps {fr : Frame} (s : State) (uid k : Nat) (f : Tag → Tag) (hs : fr.Keeps s.frame) :
    fr.Keeps (s.updTagOf uid k f).frame := by
  unfold State.updTagOf
  repeat' split
  all_goals simp [hs]

@[simp] theorem State.countTag_keeps {fr : Frame} (s : State) (uid k n : Nat) (hs : fr.Keeps s.frame) : fr.Keeps (s.countTag uid k n).frame := by
  simp [State.countTag, hs]

@[simp] theorem State.failTag_keeps {fr : Frame} (s : State) (uid k reason : Nat) (hs : fr.Keeps s.frame) :
    fr.Keeps (s.failTag uid k reason).frame := by
  simp [State.failTag, hs]

@[simp] theorem State.updCmd_frame (s : State) (core id : Nat) (f : Cmd → Cmd) : (s.updCmd core id f).frame = s.frame := by
  simp [State.updCmd]

@[simp] theorem State.releaseHolly_frame (s : State) (p : Holly → Bool) : (s.releaseHolly p).frame = s.frame := by
  simp [State.releaseHolly]

@[simp] theorem State.dropCmd_frame (s : State) (core id : Nat) : (s.dropCmd core id).frame = s.frame := by
  simp [State.dropCmd]

@[simp] theorem State.failCmd_keeps {fr : Frame} (s : State) (core : Nat) (c : Cmd) (reason : Nat) (hs : fr.Keeps s.frame) :
    fr.Keeps (s.failCmd core c reason).frame := by
  have htags : fr.Keeps ((if c.receivers.isEmpty then [c.team] else c.receivers).foldl (fun s u => s.failTag u c.tag reason)
      (s.dropCmd core c.id)).frame :=
    foldl_keeps (fun s u hs => failTag_keeps s u c.tag reason hs) _ (by simp [hs])
  unfold State.failCmd
  dsimp only
  split
  · exact failTag_keeps _ _ _ _ htags
  · exact htags

@[simp] theorem State.clearWords_frame (s : State) (uid side : Nat) (ob : Bool) (a n : Nat) : (s.clearWords uid side ob a n).frame = s.frame := by
  simp [State.clearWords]

@[simp] theorem State.notePanels_frame (s : State) (uid side : Nat) : (s.notePanels uid side).frame = s.frame := by
  unfold State.notePanels
  split <;> simp

@[simp] theorem State.cmdWrite_keeps {fr : Frame} (s : State) (core : Nat) (c : Cmd) (recv a : Nat) (bs : List Byte) (hs : fr.Keeps s.frame) :
    fr.Keeps (s.cmdWrite core c recv a bs).frame := by
  unfold State.cmdWrite
  split
  · refine foldl_keeps (fun s i hs => ?_) _ hs
    split <;> simp [hs]
  · simp [hs]
  · repeat' split
    all_goals simp [hs]

@[simp] theorem State.settleCmd_frame (s : State) (core id : Nat) : (s.settleCmd core id).frame = s.frame := by
  unfold State.settleCmd
  split <;> simp

@[simp] theorem State.deliverBytes_keeps {fr : Frame} (s : State) (core : Nat) (c : Cmd) (k off n : Nat) (hs : fr.Keeps s.frame) :
    fr.Keeps (s.deliverBytes core c k off n).frame := by
  unfold State.deliverBytes
  split
  · exact hs
  next p _ =>
    have hwritten := cmdWrite_keeps s core c p.recv (p.dst + off) (s.cmdRead core c (p.src + off) n) hs
    dsimp only
    split <;> simp [hwritten]

end Sys2Proof.Machine
end

section
/-! PROOF. O56, O57: replays and their nodes, and the frame. -/

namespace Sys2Proof.Machine

@[simp] theorem State.updReplay_frame (s : State) (id : Nat) (f : Replay → Replay) : (s.updReplay id f).frame = s.frame := (rfl)

@[simp] theorem State.updNode_frame (s : State) (id i : Nat) (f : Node → Node) : (s.updNode id i f).frame = s.frame := (rfl)

@[simp] theorem State.checkReplay_frame (s : State) (id : Nat) : (s.checkReplay id).frame = s.frame := by
  unfold State.checkReplay
  split <;> simp

@[simp] theorem State.endNode_frame (s : State) (id i : Nat) (st : NodeState) : (s.endNode id i st).frame = s.frame := by
  simp [State.endNode]

@[simp] theorem State.releaseGraphs_frame (s : State) : s.releaseGraphs.frame = s.frame := (rfl)

@[simp] theorem State.startReplay_frame (s : State) (kick : Word) (tableOk : Bool) (rd : Nat → Nat → Nat) (addr : Nat) :
    (s.startReplay kick tableOk rd addr).frame = s.frame := by
  dsimp only [State.startReplay]
  repeat' split
  all_goals simp

@[simp] theorem State.kickWrite_keeps {fr : Frame} (s : State) (v : Word) (hs : fr.Keeps s.frame) : fr.Keeps (s.kickWrite v).frame := by
  simp [State.kickWrite, hs]

@[simp] theorem State.gerr_frame (s : State) (e : Nat) : (s.gerr e).frame = s.frame := (rfl)

@[simp] theorem State.graphUpload_frame (s : State) : s.graphUpload.frame = s.frame := by
  unfold State.graphUpload
  repeat' split
  all_goals simp

@[simp] theorem State.graphFree_frame (s : State) (h : BitVec 16) : (s.graphFree h).frame = s.frame := by
  simp [State.graphFree]

end Sys2Proof.Machine
end

section
/-! PROOF. O56, O57: the Rowan tables, and the frame. -/

namespace Sys2Proof.Machine

/-- The number of slots of a share is kept from the kernel, which would compute it to compare two forms of the same `match`. -/
@[simp] theorem State.rowanMoveOut_keeps {fr : Frame} (s : State) (slice : Nat) (hs : fr.Keeps s.frame) :
    fr.Keeps (s.rowanMoveOut slice).2.frame := by
  obtain ⟨size, hsize⟩ := exists_eq (a' := State.shareSize)
  unfold State.rowanMoveOut
  rw [← hsize]
  repeat' split
  · exact hs
  · exact hs
  · simp [hs]

@[simp] theorem State.rowanFind_keeps {fr : Frame} (s : State) (asn : BitVec 12) (space : Bool) (key : Word) (hs : fr.Keeps s.frame) :
    fr.Keeps (s.rowanFind asn space key).2.frame := by
  unfold State.rowanFind
  dsimp only
  repeat' split
  all_goals simp [hs]

@[simp] theorem State.rowanEntry_keeps {fr : Frame} (s : State) (asn : BitVec 12) (space : Bool) (key : Word) (hs : fr.Keeps s.frame) :
    fr.Keeps (s.rowanEntry asn space key).2.frame := by
  have hfind := rowanFind_keeps s asn space key hs
  unfold State.rowanEntry
  generalize s.rowanFind asn space key = q at hfind ⊢
  obtain ⟨found, t⟩ := q
  cases found with
  | entry e => exact hfind
  | badImage => exact hfind
  | none =>
    have hout := rowanMoveOut_keeps t (rowanSlice asn.toNat key.toNat) hfind
    dsimp only
    split
    · simpa using hfind
    · generalize t.rowanMoveOut (rowanSlice asn.toNat key.toNat) = q at hout ⊢
      obtain ⟨moved, u⟩ := q
      cases moved <;> simpa using hout

@[simp] theorem State.rowanPut_frame (s : State) (e : Rowan) : (s.rowanPut e).frame = s.frame := (rfl)

@[simp] theorem State.letIn_frame (s : State) (w : Waiter) (a : Await) : (s.letIn w a).frame = s.frame := by
  simp [State.letIn]

@[simp] theorem State.reexamine_frame (s : State) (e : Rowan) : (s.reexamine e).frame = s.frame := by
  dsimp only [State.reexamine]
  repeat' split
  all_goals simp

@[simp] theorem State.releaseKey_keeps {fr : Frame} (s : State) (asn : BitVec 12) (key : Word) (hs : fr.Keeps s.frame) :
    fr.Keeps (s.releaseKey asn key).frame := by
  have hfind := rowanFind_keeps s asn false key hs
  unfold State.releaseKey
  generalize s.rowanFind asn false key = q at hfind ⊢
  obtain ⟨found, t⟩ := q
  cases found <;> simpa using hfind

@[simp] theorem State.recallFor_keeps {fr : Frame} (s : State) (p : Waiter → Bool) (hs : fr.Keeps s.frame) : fr.Keeps (s.recallFor p).frame := by
  unfold State.recallFor
  split
  · exact hs
  · refine foldl_keeps (fun s x hs => ?_) _ hs
    repeat' split
    all_goals simp [hs]

@[simp] theorem State.withdraw_keeps {fr : Frame} (s : State) (p : Waiter → Bool) (hs : fr.Keeps s.frame) : fr.Keeps (s.withdraw p).frame := by
  simp [State.withdraw, hs]

@[simp] theorem State.purgeRowan_frame (s : State) (asn : BitVec 12) : (s.purgeRowan asn).frame = s.frame := (rfl)

end Sys2Proof.Machine
end

section
/-! PROOF. O56, O57: what the device registers do, and the frame. -/

namespace Sys2Proof.Machine

@[simp] theorem State.updRegs_frame (s : State) {f : Regs → Regs} (hf : ∀ r, (f r).fails = r.fails) : (s.updRegs f).frame = s.frame := by
  simp [State.updRegs, hf]

theorem State.updRegs_keeps {fr : Frame} (s : State) {f : Regs → Regs} (hf : s.regs.fails.toNat ≤ 3 → (f s.regs).fails.toNat ≤ 3)
    (hs : fr.Keeps s.frame) : fr.Keeps (s.updRegs f).frame where
  memory := hs.memory
  limits h := by
    obtain ⟨hcores, hrings, hports, hdies, hsteps, hfails⟩ := hs.limits h
    exact ⟨hcores, hrings, hports, hdies, hsteps, hf hfails⟩

@[simp] theorem State.tlbiWrite_frame (s : State) (v : Word) : (s.tlbiWrite v).frame = s.frame := by
  simp [State.tlbiWrite]

@[simp] theorem State.mcErr_frame (s : State) (e : Nat) : (s.mcErr e).frame = s.frame := (rfl)

@[simp] theorem State.mcLoad_frame (s : State) (slot : Nat) : (s.mcLoad slot).frame = s.frame := by
  simp [State.mcLoad]

@[simp] theorem State.mcUnload_frame (s : State) (slot : Nat) : (s.mcUnload slot).frame = s.frame := by
  simp [State.mcUnload]

@[simp] theorem State.mcReplace_frame (s : State) : s.mcReplace.frame = s.frame := by
  unfold State.mcReplace
  split <;> simp

@[simp] theorem State.ordQuery_keeps {fr : Frame} (s : State) (space : Bool) (asn : BitVec 12) (hs : fr.Keeps s.frame) :
    fr.Keeps (s.ordQuery space asn).frame := by
  have hfind := rowanFind_keeps s asn space s.regs.ordqkey hs
  unfold State.ordQuery
  generalize s.rowanFind asn space s.regs.ordqkey = q at hfind ⊢
  obtain ⟨found, t⟩ := q
  cases found <;> simpa using hfind

@[simp] theorem State.ordPurge_frame (s : State) (asn : BitVec 12) : (s.ordPurge asn).frame = s.frame := by
  simp [State.ordPurge]

@[simp] theorem State.answered_frame (s : State) (r : WaveRef) : (s.answered r).frame = s.frame := by
  dsimp only [State.answered]
  repeat' split
  all_goals simp

@[simp] theorem State.cmdAnswered_keeps {fr : Frame} (s : State) (core id : Nat) (hs : fr.Keeps s.frame) :
    fr.Keeps (s.cmdAnswered core id).frame := by
  unfold State.cmdAnswered
  split <;> simp [hs]

@[simp] theorem State.imageOutcome_keeps {fr : Frame} (s : State) (i : Image) (p : Nat × BitVec 64 × Word × List Token) (hs : fr.Keeps s.frame) :
    fr.Keeps (s.imageOutcome i p).frame := by
  simp [State.imageOutcome, hs]

@[simp] theorem State.putHostWait_keeps {fr : Frame} (s : State) (a low code : Nat) (toks : List (Nat × Nat)) (hs : fr.Keeps s.frame) :
    fr.Keeps (s.putHostWait a low code toks).frame := by
  simp [State.putHostWait, hs]

@[simp] theorem State.imageReply_keeps {fr : Frame} (s : State) (i : Image) (wave : Nat) (c : SysCall) (status : BitVec 16) (r0 r1 : Word)
    (hs : fr.Keeps s.frame) :
    fr.Keeps (s.imageReply i wave c status r0 r1).frame := by
  unfold State.imageReply
  dsimp only
  split
  · exact foldl_keeps (fun s l hs => homeWrite_keeps s _ _ _ _ _ hs) _
      (homeWrite_keeps _ _ _ _ _ _ (homeWrite_keeps _ _ _ _ _ _ (by simp [hs])))
  · exact foldl_keeps (fun s l hs => homeWrite_keeps _ _ _ _ _ _ (homeWrite_keeps s _ _ _ _ _ hs)) _ (by simp [hs])

@[simp] theorem State.fltdone_keeps {fr : Frame} (s : State) (token : BitVec 16) (o : Nat) (hs : fr.Keeps s.frame) :
    fr.Keeps (s.fltdone token o).frame := by
  refine foldl_keeps (fun s p hs => ?nodes) _ (foldl_keeps (fun s p hs => ?cmds) _ (foldl_keeps (fun s r hs => ?waves) _
    (foldl_keeps (fun s i hs => foldl_keeps (fun s p hs => imageOutcome_keeps s i p hs) _ hs) _ (by simp [hs]))))
  case nodes => split <;> simp [hs]
  case cmds => simp [hs]
  case waves =>
    dsimp only
    split <;> simp [hs]

@[simp] theorem State.scReply_frame (s : State) (r : WaveRef) (c : SysCall) (status : BitVec 16) : (s.scReply r c status).frame = s.frame := by
  simp [State.scReply]

@[simp] theorem State.scdone_keeps {fr : Frame} (s : State) (token status : BitVec 16) (hs : fr.Keeps s.frame) :
    fr.Keeps (s.scdone token status).frame := by
  dsimp only [State.scdone]
  repeat' split
  all_goals simp [hs]

@[simp] theorem State.updRing_frame (s : State) (i : Nat) (f : HostRing → HostRing) : (s.updRing i f).frame = s.frame := by
  simp [State.updRing, listSet_length]

@[simp] theorem State.rcfgWrite_frame (s : State) (i : Nat) (en : Bool) (log2n : BitVec 5) : (s.rcfgWrite i en log2n).frame = s.frame := by
  simp [State.rcfgWrite]

@[simp] theorem State.rheadWrite_frame (s : State) (i : Nat) (v : BitVec 32) : (s.rheadWrite i v).frame = s.frame := by
  simp [State.rheadWrite]

@[simp] theorem State.updPort_frame (s : State) (p : Nat) (f : Port → Port) : (s.updPort p f).frame = s.frame := by
  simp [State.updPort, listSet_length]

@[simp] theorem State.lkctlWrite_frame (s : State) (p : Nat) (tail : BitVec 32) (wreq : BitVec 2) (en : Bool) :
    (s.lkctlWrite p tail wreq en).frame = s.frame := by
  simp [State.lkctlWrite]

/-- 19 R414: reset meets the limits (`deviceLimits_reset`). -/
theorem State.limits_reset : State.reset.frame.Limits where
  cores := Safety.deviceLimits_reset.cores
  rings := Safety.deviceLimits_reset.rings
  ports := Safety.deviceLimits_reset.ports
  dies := List.length_map _ |>.trans Safety.deviceLimits_reset.dies
  steps := List.forall_mem_map.mpr Safety.deviceLimits_reset.steps
  fails := Safety.deviceLimits_reset.fails

/-- Every part as reset makes it, and FAILS in its range. -/
theorem State.keeps_of_reset {fr : Frame} {s t : State} (hs : fr.Keeps s.frame) (hmem : Memory.wf s.mem = true → Memory.wf t.mem = true)
    (hparts : { State.reset.frame with mem := t.mem, fails := t.regs.fails } = t.frame)
    (hfails : s.regs.fails.toNat ≤ 3 → t.regs.fails.toNat ≤ 3) : fr.Keeps t.frame where
  memory h := hmem (hs.memory h)
  limits h := by
    obtain ⟨hcores, hrings, hports, hdies, hsteps, -⟩ := State.limits_reset
    rw [← hparts]
    exact ⟨hcores, hrings, hports, hdies, hsteps, hfails (hs.limits h).fails⟩

@[simp] theorem State.discard_keeps {fr : Frame} (s : State) (hs : fr.Keeps s.frame) : fr.Keeps s.discard.frame :=
  keeps_of_reset hs id rfl (fun _ => Nat.zero_le 3)

theorem cellWfFrom_filter {w : Nat} (p : Nat × BitVec w → Bool) (lo : Nat) (m : Cells w) (h : cellWfFrom lo m = true) :
    cellWfFrom lo (m.filter p) = true := by
  induction m generalizing lo with
  | nil => rfl
  | cons x r ih =>
    obtain ⟨a, v⟩ := x
    simp only [cellWfFrom, Bool.and_eq_true, decide_eq_true_eq] at h
    obtain ⟨⟨hlo, hv⟩, hr⟩ := h
    rw [List.filter_cons]
    split
    · simp [cellWfFrom, hlo, ih (a + 1) hr, by simpa using hv]
    · exact cellWfFrom_mono _ _ _ (ih (a + 1) hr) (by omega)

@[simp] theorem State.zeroDevice_keeps {fr : Frame} (s : State) (hs : fr.Keeps s.frame) : fr.Keeps s.zeroDevice.frame :=
  keeps_of_mem hs (cellWfFrom_filter _ 0 s.mem) rfl

@[simp] theorem State.beginStart_keeps {fr : Frame} (s : State) (warm : Bool) (hs : fr.Keeps s.frame) : fr.Keeps (s.beginStart warm).frame := by
  unfold State.beginStart
  dsimp only
  repeat' split
  · exact keeps_of_reset hs id rfl id
  · exact keeps_of_reset hs id rfl id
  · exact zeroDevice_keeps _ (keeps_of_reset hs id rfl id)

@[simp] theorem State.failStage_keeps {fr : Frame} (s : State) (code : Nat) (hs : fr.Keeps s.frame) : fr.Keeps (s.failStage code).frame := by
  have hcounted : fr.Keeps (s.updRegs (fun r => { r with
      fails := BitVec.ofNat 4 (min 3 (s.regs.fails.toNat + 1)), err := BitVec.ofNat 8 code })).frame :=
    updRegs_keeps s (fun _ => (Nat.mod_le _ _).trans (Nat.min_le_left _ _)) hs
  unfold State.failStage
  dsimp only
  split
  · simp [hcounted]
  · exact beginStart_keeps _ false hcounted

@[simp] theorem State.retained_frame (s : State) : (s.retained).2.frame = s.frame := (rfl)

@[simp] theorem State.passStage_keeps {fr : Frame} (s : State) (n : Nat) (hs : fr.Keeps s.frame) : fr.Keeps (s.passStage n).frame := by
  unfold State.passStage
  dsimp only
  split
  · simp [hs]
  · have hretained : fr.Keeps s.retained.2.frame := by simp [hs]
    generalize s.retained = q at hretained ⊢
    obtain ⟨kept, t⟩ := q
    cases kept <;> simp [hs, show fr.Keeps t.frame from hretained]
  · simp [hs]
  · simp [hs]
  · simp [hs]
  · exact updRegs_keeps s (fun _ => Nat.zero_le 3) hs

@[simp] theorem State.recWrite_frame (s : State) (v : Word) : (s.recWrite v).frame = s.frame := by
  simp [State.recWrite]

@[simp] theorem State.recVerify_keeps {fr : Frame} (s : State) (hs : fr.Keeps s.frame) : fr.Keeps s.recVerify.frame := by
  unfold State.recVerify
  dsimp only
  repeat' split
  · simp [hs]
  · simp [hs]
  · simp [hs]
  · exact beginStart_keeps _ false (updRegs_keeps s (f := fun r => { r with recBusy := false, recov := false, fails := 0, vec3 := r.vec3 + 1 })
      (fun _ => Nat.zero_le 3) hs)

@[simp] theorem State.rstWrite_keeps {fr : Frame} (s : State) (key op : Nat) (hs : fr.Keeps s.frame) : fr.Keeps (s.rstWrite key op).frame := by
  simp [State.rstWrite, hs]

@[simp] theorem State.writeReport_frame (s : State) : s.writeReport.frame = s.frame := (rfl)

@[simp] theorem State.attRequest_frame (s : State) : s.attRequest.frame = s.frame := by
  simp [State.attRequest]

@[simp] theorem State.mailboxWrite_frame (s : State) (o n : Nat) (v : Word) : (s.mailboxWrite o n v).frame = s.frame := by
  simp [State.mailboxWrite]

@[simp] theorem State.regWrite64_keeps {fr : Frame} (s : State) (off : Nat) (v : Word) (hs : fr.Keeps s.frame) :
    fr.Keeps (s.regWrite64 off v).frame := by
  unfold State.regWrite64
  extract_lets set n
  refine keeps_ite ?rst (keeps_ite ?rec (keeps_ite ?recErr (keeps_ite hs (keeps_ite ?rings (keeps_ite ?metcls (keeps_ite ?ports ?others))))))
  case rings | ports | others =>
    split
    all_goals simp [set, hs]
  all_goals simp [set, hs]

@[simp] theorem State.devWrite_keeps {fr : Frame} (s : State) (held : List (Nat × Reg)) (pa n : Nat) (v : Word) (hs : fr.Keeps s.frame) :
    fr.Keeps (s.devWrite held pa n v).1.frame := by
  dsimp only [State.devWrite]
  repeat' split
  all_goals simp [hs]

@[simp] theorem State.hostRegWrite_keeps {fr : Frame} (s : State) (pa n : Nat) (v : Word) (hs : fr.Keeps s.frame) :
    fr.Keeps (s.hostRegWrite pa n v).frame := by
  simp [State.hostRegWrite, hs]

end Sys2Proof.Machine
end

section
/-! PROOF. O56, O57: operands and the delivery of results, and the frame. -/

namespace Sys2Proof.Machine

@[simp] theorem State.vecFixed_frame (s : State) (h : Hdr) (op : Wave → Nat → Lane → LaneOut) : (s.vecFixed h op).frame = s.frame := (rfl)

@[simp] theorem State.vecVar_frame (s : State) (h : Hdr) (op : Wave → Nat → Lane → LaneOut) : (s.vecVar h op).frame = s.frame := (rfl)

@[simp] theorem State.scalar_frame (s : State) (h : Hdr) (f : SFields) (wide : Bool) (v : Wave → Nat) : (s.scalar h f wide v).frame = s.frame := (rfl)

@[simp] theorem State.illegalWord_frame (s : State) (h : Hdr) (word reason : Nat) : (s.illegalWord h word reason).frame = s.frame := by
  simp [State.illegalWord]

@[simp] theorem State.illegal_frame (s : State) (h : Hdr) (i : Instr) (reason : Nat) : (s.illegal h i reason).frame = s.frame := by
  simp [State.illegal]

end Sys2Proof.Machine
end

section
/-! PROOF. O56, O57: accesses, releases and acquires, and the frame. -/

namespace Sys2Proof.Machine

@[simp] theorem State.releasePart_keeps {fr : Frame} (s : State) (core : Nat) (pair : Bool) (scope : Nat) (hs : fr.Keeps s.frame) :
    fr.Keeps (s.releasePart core pair scope).frame := by
  simp [State.releasePart, hs]

@[simp] theorem State.acquirePart_frame (s : State) (core : Nat) (pair : Bool) (scope : Nat) : (s.acquirePart core pair scope).frame = s.frame := by
  simp [State.acquirePart]

@[simp] theorem State.sideWrite_frame (s : State) (team side a n v : Nat) (ts : List RelTag) : (s.sideWrite team side a n v ts).frame = s.frame := by
  simp [State.sideWrite]

@[simp] theorem State.pointLoad_keeps {fr : Frame} (s : State) (core : Nat) (pair : Bool) (a : Acc) (hs : fr.Keeps s.frame) :
    fr.Keeps (s.pointLoad core pair a).2.frame := by
  unfold State.pointLoad
  repeat' split
  all_goals simp [hs]

@[simp] theorem State.pointStore_keeps {fr : Frame} (s : State) (core : Nat) (pair : Bool) (writer : Nat) (a : Acc) (ts : List RelTag)
    (hs : fr.Keeps s.frame) :
    fr.Keeps (s.pointStore core pair writer a ts).frame := by
  unfold State.pointStore
  split <;> simp [hs]

@[simp] theorem State.pointAtomic_keeps {fr : Frame} (s : State) (core : Nat) (pair : Bool) (writer : Nat) (op : AOp) (a : Acc) (own : List RelTag)
    (hs : fr.Keeps s.frame) :
    fr.Keeps (s.pointAtomic core pair writer op a own).2.frame := by
  have hclean : fr.Keeps (if a.mtype == .cached then s.cleanLine core (lineOf a.pa) else s).frame := keeps_ite (by simp [hs]) hs
  unfold State.pointAtomic
  dsimp only
  generalize (if a.mtype == .cached then s.cleanLine core (lineOf a.pa) else s) = t at hclean ⊢
  have hpromoted : fr.Keeps (if wideScope pair a.scope then t.promoteFor a.pa a.len (some core) else t).frame :=
    keeps_ite (by simp [hclean]) hclean
  generalize (if wideScope pair a.scope then t.promoteFor a.pa a.len (some core) else t) = u at hpromoted ⊢
  exact keeps_ite (by simp [hpromoted]) (by simp [hpromoted])

@[simp] theorem State.notice_frame (s : State) (core pa : Nat) (ts : List RelTag) : (s.notice core pa ts).frame = s.frame := by
  simp [State.notice]

@[simp] theorem State.updAcc_frame (s : State) (r : WaveRef) (k j : Nat) (f : Acc → Acc) : (s.updAcc r k j f).frame = s.frame := (rfl)

@[simp] theorem State.accDone_frame (s : State) (r : WaveRef) (k j : Nat) (a : Acc) (core val : Nat) (ts : List RelTag) :
    (s.accDone r k j a core val ts).frame = s.frame := (rfl)

@[simp] theorem State.ordoutBad_keeps {fr : Frame} (s : State) (r : WaveRef) (lane : Nat) (pc key : Word) (t : TrapInfo) (hs : fr.Keeps s.frame) :
    fr.Keeps (s.ordoutBad r lane pc key t).frame := by
  simp [State.ordoutBad, hs]

@[simp] theorem State.performAcc_keeps {fr : Frame} (s : State) (r : WaveRef) (k j : Nat) (hs : fr.Keeps s.frame) :
    fr.Keeps (s.performAcc r k j).frame := by
  unfold State.performAcc
  split
  case h_2 => exact hs
  next t w _ _ =>
    split
    · exact hs
    · split
      · exact hs
      next o a _ =>
        extract_lets +onlyGivenNames core rel own u
        have hreleased : fr.Keeps u.frame := foldl_keeps (fun s k hs => releasePart_keeps s core t.pair k hs) rel hs
        clear_value u
        dsimp only
        repeat' split
        all_goals simp [hreleased]

@[simp] theorem State.prepAcc_keeps {fr : Frame} (s : State) (core : Nat) (pair : Bool) (rel : List Nat) (a : Acc) (hs : fr.Keeps s.frame) :
    fr.Keeps (s.prepAcc core pair rel a).frame := by
  have hreleased : fr.Keeps (rel.foldl (fun s k => s.releasePart core pair k) s).frame :=
    foldl_keeps (fun s k hs => releasePart_keeps s core pair k hs) rel hs
  exact keeps_ite (by simp [hreleased]) hreleased

@[simp] theorem State.takeBack_frame (s : State) (r : WaveRef) (i : Nat) (m : BitVec 64) (t : TrapInfo) : (s.takeBack r i m t).frame = s.frame := by
  dsimp only [State.takeBack]
  repeat' split
  all_goals simp

@[simp] theorem State.outHwerr_frame (s : State) (r : WaveRef) (i : Nat) (m : BitVec 64) (store index : Nat) :
    (s.outHwerr r i m store index).frame = s.frame := by
  unfold State.outHwerr
  split <;> simp

@[simp] theorem State.doAcc_keeps {fr : Frame} (s : State) (r : WaveRef) (k j : Nat) (hs : fr.Keeps s.frame) : fr.Keeps (s.doAcc r k j).frame := by
  dsimp only [State.doAcc]
  repeat' split
  all_goals simp [hs]

@[simp] theorem State.performSome_keeps {fr : Frame} (s : State) (r : WaveRef) (p : Acc → Bool) (hs : fr.Keeps s.frame) :
    fr.Keeps (s.performSome r p).frame :=
  foldl_keeps (fun s x hs => keeps_ite (by simp [hs]) hs) _ hs

@[simp] theorem State.cutAcc_frame (s : State) (r : WaveRef) (k j n : Nat) : (s.cutAcc r k j n).frame = s.frame := (rfl)

@[simp] theorem State.healRegs_frame (s : State) (p : Site → Bool) : (s.healRegs p).frame = s.frame := by
  simp [State.healRegs]

@[simp] theorem State.unlatch_frame (s : State) (r : WaveRef) (ws : List RegWrite) : (s.unlatch r ws).frame = s.frame := by
  simp [State.unlatch]

@[simp] theorem State.writeOut_keeps {fr : Frame} (s : State) (r : WaveRef) (k : Nat) (hs : fr.Keeps s.frame) : fr.Keeps (s.writeOut r k).frame := by
  unfold State.writeOut
  repeat' split
  all_goals simp [hs]

@[simp] theorem State.evictOpt_keeps {fr : Frame} (s : State) (core : Nat) (evict : Option Nat) (hs : fr.Keeps s.frame) :
    fr.Keeps (s.evictOpt core evict).frame := by
  unfold State.evictOpt
  split <;> simp [hs]

theorem execAccessPerform_keeps (r : WaveRef) (k j : Nat) (part : AccessPart) (s : State) : Res.Keeps s.frame (execAccessPerform r k j part s) := by
  dsimp only [execAccessPerform]
  repeat' split
  all_goals simp

theorem execVariableLatencyResult_keeps (r : WaveRef) (k : Nat) (evict : Option Nat) (s : State) :
    Res.Keeps s.frame (execVariableLatencyResult r k evict s) := by
  unfold execVariableLatencyResult
  extract_lets n s1
  have hdone : s.frame.Keeps s1.frame := foldl_keeps (fun s j hs => State.doAcc_keeps s r k j hs) _ (by simp)
  split
  · simp [hdone]
  · simp

theorem execPromotionNotice_keeps (core k : Nat) (s : State) : Res.Keeps s.frame (execPromotionNotice core k s) := by
  dsimp only [execPromotionNotice]
  repeat' split
  all_goals simp

@[simp] theorem State.hostFail_frame (s : State) (k reason : Nat) : (s.hostFail k reason).frame = s.frame := by
  unfold State.hostFail
  repeat' split
  all_goals simp

theorem execPcieCompletion_keeps (k : Nat) (ok : Bool) (s : State) : Res.Keeps s.frame (execPcieCompletion k ok s) := by
  dsimp only [execPcieCompletion]
  repeat' split
  all_goals simp

theorem execCompletionTimeout_keeps (k : Nat) (s : State) : Res.Keeps s.frame (execCompletionTimeout k s) := by
  simp [execCompletionTimeout]

end Sys2Proof.Machine
end

section
/-! PROOF. O56, O57: recorded sets, and what waits for earlier accesses, and the frame. -/

namespace Sys2Proof.Machine

@[simp] theorem State.recordFor_frame (s : State) (uid : Nat) (ps : List (Nat × Nat)) : (s.recordFor uid ps).frame = s.frame := by
  unfold State.recordFor
  split <;> simp

@[simp] theorem State.record_frame (s : State) (ps : List (Nat × Nat)) : (s.record ps).frame = s.frame := by
  simp [State.record]

@[simp] theorem State.always_frame (s : State) : s.always.frame = s.frame := (rfl)

/-- What goes on from any state goes on from the one that the accesses leave. -/
theorem State.afterAccs_keeps {fr : Frame} {s : State} {i : Instr} {p : Acc → Bool} {k : State → State}
    (hk : ∀ t, fr.Keeps t.frame → fr.Keeps (k t).frame) (hs : fr.Keeps s.frame) :
    fr.Keeps (s.afterAccs i p k).frame := by
  have hdone := performSome_keeps s s.curRef p hs
  exact keeps_ite hdone (keeps_ite (hk _ hdone) (by simp [hdone]))

theorem State.afterLanes_keeps {fr : Frame} {s : State} {i : Instr} {m : BitVec 64} {k : State → State}
    (hk : ∀ t, fr.Keeps t.frame → fr.Keeps (k t).frame) (hs : fr.Keeps s.frame) :
    fr.Keeps (s.afterLanes i m k).frame :=
  afterAccs_keeps hk hs

theorem State.afterRelease_keeps {fr : Frame} {s : State} {i : Instr} {scope : Nat} {k : State → State}
    (hk : ∀ t, fr.Keeps t.frame → fr.Keeps (k t).frame) (hs : fr.Keeps s.frame) :
    fr.Keeps (s.afterRelease i scope k).frame := by
  have hreleased := releasePart_keeps s s.curWave.core s.curTeam.pair scope hs
  exact keeps_ite (hk _ hreleased) (by simp [hreleased])

theorem State.afterClean_keeps {fr : Frame} {s : State} {i : Instr} {ls : List Nat} {k : State → State}
    (hk : ∀ t, fr.Keeps t.frame → fr.Keeps (k t).frame) (hs : fr.Keeps s.frame) :
    fr.Keeps (s.afterClean i ls k).frame := by
  have hclean : fr.Keeps (ls.foldl (fun t l => t.cleanLine s.curWave.core l) s).frame := foldl_keeps (fun s l hs => cleanLine_keeps s _ l hs) ls hs
  exact keeps_ite (by simp [hclean]) (hk _ hclean)

theorem State.afterWrites_keeps {fr : Frame} {s : State} {i : Instr} {m : BitVec 64} {scope : Nat} {k : State → State}
    (hk : ∀ t, fr.Keeps t.frame → fr.Keeps (k t).frame) (hs : fr.Keeps s.frame) :
    fr.Keeps (s.afterWrites i m scope k).frame :=
  afterLanes_keeps (fun t ht => keeps_ite (by simp [ht]) (afterRelease_keeps hk ht)) hs

theorem State.afterUpdates_keeps {fr : Frame} {s : State} {i : Instr} {l : Nat} {k : State → State}
    (hk : ∀ t, fr.Keeps t.frame → fr.Keeps (k t).frame) (hs : fr.Keeps s.frame) :
    fr.Keeps (s.afterUpdates i l k).frame :=
  afterLanes_keeps (fun t ht => keeps_ite (by simp [ht]) (hk t ht)) hs

theorem State.afterResults_keeps {fr : Frame} {s : State} {i : Instr} {m : BitVec 64} {k : State → State}
    (hk : ∀ t, fr.Keeps t.frame → fr.Keeps (k t).frame) (hs : fr.Keeps s.frame) :
    fr.Keeps (s.afterResults i m k).frame := by
  have hdone := performSome_keeps s s.curRef (ofLanes m) hs
  exact keeps_ite hdone (keeps_ite (hk _ hdone) (by simp [hdone]))

end Sys2Proof.Machine
end

section
/-! PROOF. O56, O57: control instructions, and the frame. -/

namespace Sys2Proof.Machine

@[simp] theorem State.endLanes_frame (s : State) (m : BitVec 64) : (s.endLanes m).frame = s.frame := by
  simp [State.endLanes]

@[simp] theorem State.endHere_frame (s : State) (h : Hdr) (m : BitVec 64) : (s.endHere h m).frame = s.frame := by
  simp [State.endHere]

@[simp] theorem State.raiseAbandon_keeps {fr : Frame} (s : State) (m : BitVec 64) (hs : fr.Keeps s.frame) : fr.Keeps (s.raiseAbandon m).frame := by
  simp [State.raiseAbandon, hs]

theorem execNop_keeps (h : Hdr) (_f : YFields) (s : State) : Res.Keeps s.frame (execNop h _f s) := by
  simp [execNop]

theorem execExit_keeps (h : Hdr) (_f : YFields) (s : State) : Res.Keeps s.frame (execExit h _f s) := by
  dsimp only [execExit]
  repeat' split
  all_goals simp

theorem execYield_keeps (h : Hdr) (_f : YFields) (s : State) : Res.Keeps s.frame (execYield h _f s) := by
  simp [execYield]

theorem execTret_keeps (h : Hdr) (_f : YFields) (s : State) : Res.Keeps s.frame (execTret h _f s) := by
  dsimp only [execTret]
  repeat' split
  all_goals simp

theorem execBkpt_keeps (h : Hdr) (f : YFields) (s : State) : Res.Keeps s.frame (execBkpt h f s) := by
  dsimp only [execBkpt]
  repeat' split
  all_goals simp

theorem execSysrd_keeps (h : Hdr) (f : YFields) (s : State) : Res.Keeps s.frame (execSysrd h f s) := by
  dsimp only [execSysrd]
  repeat' split
  all_goals simp

theorem execSyswr_keeps (h : Hdr) (f : YFields) (s : State) : Res.Keeps s.frame (execSyswr h f s) := by
  dsimp only [execSyswr]
  repeat' split
  all_goals simp

@[simp] theorem State.branch_frame (s : State) (h : Hdr) (f : BFields) : (s.branch h f).frame = s.frame := (rfl)

theorem execBr_keeps (h : Hdr) (f : BFields) (s : State) : Res.Keeps s.frame (execBr h f s) := by
  simp [execBr]

theorem execBru_keeps (h : Hdr) (f : BFields) (s : State) : Res.Keeps s.frame (execBru h f s) := by
  dsimp only [execBru]
  repeat' split
  all_goals simp

theorem execJal_keeps (h : Hdr) (f : YFields) (s : State) : Res.Keeps s.frame (execJal h f s) := by
  dsimp only [execJal]
  repeat' split
  all_goals simp

theorem execJmp_keeps (h : Hdr) (f : YFields) (s : State) : Res.Keeps s.frame (execJmp h f s) := by
  obtain ⟨lanes, hlanes⟩ := exists_eq (a' := lanesOf)
  rw [(by delta execJmp; rfl : execJmp = _), ← hlanes]
  dsimp only
  repeat' split
  all_goals simp

theorem execSetprio_keeps (h : Hdr) (f : YFields) (s : State) : Res.Keeps s.frame (execSetprio h f s) := by
  simp [execSetprio]

theorem execCvset_keeps (h : Hdr) (f : YFields) (s : State) : Res.Keeps s.frame (execCvset h f s) := by
  dsimp only [execCvset]
  repeat' split
  all_goals simp

theorem execCvsign_keeps (h : Hdr) (f : YFields) (s : State) : Res.Keeps s.frame (execCvsign h f s) := by
  simp [execCvsign]

@[simp] theorem State.waitPart_frame (s : State) (h : Hdr) (wt : Wait) : (s.waitPart h wt).frame = s.frame := (rfl)

theorem execCvwait_keeps (h : Hdr) (f : YFields) (s : State) : Res.Keeps s.frame (execCvwait h f s) := by
  dsimp only [execCvwait]
  repeat' split
  all_goals simp

@[simp] theorem State.storeThrough_keeps {fr : Frame} (s : State) (x : Xlat) (bs : List Byte) (ts : List RelTag) (hs : fr.Keeps s.frame) :
    fr.Keeps (s.storeThrough x bs ts).frame := by
  simp [State.storeThrough, hs]

theorem State.deposit_keeps {fr : Frame} {s : State} {i : Instr} {h : Hdr} {part : BitVec 64} {id n : Nat} {deps : List Dep} {k : State → State}
    (hk : ∀ t, fr.Keeps t.frame → fr.Keeps (k t).frame) (hs : fr.Keeps s.frame) :
    fr.Keeps (s.deposit i h part id n deps k).frame := by
  unfold State.deposit
  split
  · exact hs
  · refine keeps_ite (by simp [hs]) ?_
    extract_lets slots pieces reqs
    split
    next hc => simp [frame_of_memCheckAs_stop hc, hs]
    next hc =>
      refine keeps_ite (by simp [frame_of_memCheckAs_ok hc, hs]) (afterRelease_keeps (fun t ht => ?_) (by simp [frame_of_memCheckAs_ok hc, hs]))
      extract_lets rank u recs
      have hstored : fr.Keeps u.frame := foldl_keeps (fun s q hs => storeThrough_keeps s _ _ _ hs) _ ht
      exact hk _ (by simp [hstored])

theorem execSpawn_keeps (h : Hdr) (f : YFields) (s : State) : Res.Keeps s.frame (execSpawn h f s) := by
  unfold execSpawn
  dsimp only
  split
  · simp
  · refine State.afterResults_keeps (fun t ht => ?_) s.frame.keeps_refl
    split
    · simp [ht]
    · exact State.keeps_ite (by simp [ht]) (State.deposit_keeps (fun u hu => by simp [hu]) ht)

theorem execRepack_keeps (h : Hdr) (f : YFields) (s : State) : Res.Keeps s.frame (execRepack h f s) := by
  unfold execRepack
  dsimp only
  split
  · simp
  · exact State.afterResults_keeps (fun t ht =>
      State.keeps_ite (by simp [ht]) (State.deposit_keeps (fun u hu => by simp [hu]) ht)) s.frame.keeps_refl

theorem execBrs_keeps (h : Hdr) (f : BFields) (s : State) : Res.Keeps s.frame (execBrs h f s) := by
  unfold execBrs
  dsimp only
  split
  · simp
  · exact State.afterResults_keeps (fun t ht =>
      State.keeps_ite (by simp [ht]) (State.deposit_keeps (fun u hu => by simp [hu]) ht)) s.frame.keeps_refl

theorem execNotAnInstruction_keeps (word : BitVec 64) (reason : Nat) (s : State) : Res.Keeps s.frame (execNotAnInstruction word reason s) := by
  simp [execNotAnInstruction]

end Sys2Proof.Machine
end

section
/-! PROOF. O56, O57: fences, barriers, traps and their delivery, and the frame. -/

namespace Sys2Proof.Machine

@[simp] theorem State.returnReads_keeps {fr : Frame} (s : State) (r : WaveRef) (m : BitVec 64) (n : Nat) (hs : fr.Keeps s.frame) :
    fr.Keeps (s.returnReads r m n).frame := by
  induction n generalizing s with
  | zero => exact hs
  | succ n ih =>
    unfold State.returnReads
    split
    · exact hs
    · exact ih _ (by simp [hs])

theorem execFence_keeps (h : Hdr) (f : YFields) (s : State) : Res.Keeps s.frame (execFence h f s) := by
  unfold execFence
  extract_lets i m scope acq rel s1
  have hs1 : s1.frame = s.frame := by simp [s1]
  split
  · simp [hs1]
  · refine State.afterAccs_keeps (fun t ht => ?_) (by simp [hs1])
    extract_lets u w go
    have hu : s.frame.Keeps u.frame := State.keeps_ite (by simp [ht]) ht
    have hgo : ∀ v, s.frame.Keeps v.frame → s.frame.Keeps (go v).frame := fun v hv => by simp [go, hv]
    exact State.keeps_ite (by simp [hu]) (State.keeps_ite (State.afterRelease_keeps hgo hu) (hgo u hu))

theorem State.afterReads_keeps {fr : Frame} {s : State} {i : Instr} {m : BitVec 64} {k : State → State}
    (hk : ∀ t, fr.Keeps t.frame → fr.Keeps (k t).frame) (hs : fr.Keeps s.frame) :
    fr.Keeps (s.afterReads i m k).frame :=
  afterAccs_keeps (fun t ht =>
    have hread := returnReads_keeps t t.curRef m t.curWave.outs.length ht
    keeps_ite (by simp [hread]) (hk _ hread)) hs

@[simp] theorem State.waitwDone_frame (s : State) (r : WaveRef) (m : BitVec 64) : (s.waitwDone r m).frame = s.frame := (rfl)

theorem execWaitw_keeps (h : Hdr) (f : YFields) (s : State) : Res.Keeps s.frame (execWaitw h f s) := by
  obtain ⟨low, hlow⟩ := exists_eq (a' := lowestLane)
  rw [(by delta execWaitw; rfl : execWaitw = _), ← hlow]
  dsimp only
  split
  · simp
  · split
    next hc => simp [State.frame_of_memCheck_stop hc]
    next hc =>
      have hframe := State.frame_of_memCheck_ok hc
      repeat' split
      all_goals simp [hframe]

theorem execWaitwWake_keeps (r : WaveRef) (s : State) : Res.Keeps s.frame (execWaitwWake r s) := by
  dsimp only [execWaitwWake]
  repeat' split
  all_goals simp

theorem execWaitwTimeout_keeps (r : WaveRef) (s : State) : Res.Keeps s.frame (execWaitwTimeout r s) := by
  dsimp only [execWaitwTimeout]
  repeat' split
  all_goals simp

@[simp] theorem State.barCheck_frame (s : State) (uid : Nat) : (s.barCheck uid).frame = s.frame := by
  refine foldl_frame (fun s b => ?_) _ s
  dsimp only
  repeat' split
  all_goals simp

theorem execBar_keeps (h : Hdr) (f : YFields) (s : State) : Res.Keeps s.frame (execBar h f s) := by
  unfold execBar
  dsimp only
  split
  · simp
  · exact State.afterWrites_keeps (fun t ht => by simp [ht]) s.frame.keeps_refl

theorem execTrap_keeps (h : Hdr) (f : YFields) (s : State) : Res.Keeps s.frame (execTrap h f s) := by
  unfold execTrap
  dsimp only
  split
  · simp
  · exact State.afterLanes_keeps (fun t ht => by simp [ht]) s.frame.keeps_refl

theorem execTrapDelivery_keeps (r : WaveRef) (s : State) : Res.Keeps s.frame (execTrapDelivery r s) := by
  simp [execTrapDelivery]

theorem execFltdoneRetry_keeps (token : BitVec 16) (s : State) : Res.Keeps s.frame (execFltdoneRetry token s) := by
  simp [execFltdoneRetry]

theorem execFltdoneAbort_keeps (token : BitVec 16) (s : State) : Res.Keeps s.frame (execFltdoneAbort token s) := by
  simp [execFltdoneAbort]

theorem execScdone_keeps (token status : BitVec 16) (s : State) : Res.Keeps s.frame (execScdone token status s) := by
  simp [execScdone]

end Sys2Proof.Machine
end

section
/-! PROOF. O56, O57: loads, stores, caches, rings and streams, and the frame. -/

namespace Sys2Proof.Machine

@[simp] theorem State.globalGo_frame {s : State} {i : Instr} {h : Hdr} {reqs : List Req} {n align : Nat} {need : Need} {kind : Nat}
    {typeOk : MType → Bool} {k : State → List GAccess → State} (hk : ∀ t gs, (k t gs).frame = t.frame) :
    (s.globalGo i h reqs n align need kind typeOk k).frame = s.frame := by
  unfold State.globalGo
  split
  next hc => exact frame_of_memCheck_stop hc
  next hc =>
    rw [← frame_of_memCheck_ok hc]
    dsimp only
    repeat' split
    all_goals simp [hk]

@[simp] theorem State.scoped_frame (s : State) (f : MFields) : (s.scoped f).frame = s.frame := by
  simp [State.scoped]

@[simp] theorem State.recordAccs_frame (s : State) (gs : List GAccess) (n : Nat) : (s.recordAccs gs n).frame = s.frame := by
  simp [State.recordAccs]

@[simp] theorem State.issueAccs_frame (s : State) (h : Hdr) (vlr : Bool) (fin : Fin) (accs : List Acc) :
    (s.issueAccs h vlr fin accs).frame = s.frame := by
  simp [State.issueAccs]

@[simp] theorem State.loadGlobal_frame (s : State) (i : Instr) (h : Hdr) (f : MFields) (lanes : List Nat) (n : Nat) (fin : Fin) :
    (s.loadGlobal i h f lanes n fin).frame = s.frame := by
  simp [State.loadGlobal]

theorem execLd_keeps (h : Hdr) (f : MFields) (s : State) : Res.Keeps s.frame (execLd h f s) := by
  simp [execLd]

theorem execLds_keeps (h : Hdr) (f : MFields) (s : State) : Res.Keeps s.frame (execLds h f s) := by
  simp [execLds]

theorem execLdcvt_keeps (h : Hdr) (f : MFields) (s : State) : Res.Keeps s.frame (execLdcvt h f s) := by
  dsimp only [execLdcvt]
  repeat' split
  all_goals simp

@[simp] theorem State.storeGlobal_frame (s : State) (i : Instr) (h : Hdr) (f : MFields) (lanes : List Nat) (scalar : Bool) :
    (s.storeGlobal i h f lanes scalar).frame = s.frame := by
  simp [State.storeGlobal]

theorem execSt_keeps (h : Hdr) (f : MFields) (s : State) : Res.Keeps s.frame (execSt h f s) := by
  simp [execSt]

theorem execSts_keeps (h : Hdr) (f : MFields) (s : State) : Res.Keeps s.frame (execSts h f s) := by
  simp [execSts]

@[simp] theorem State.localGo_frame {s : State} {h : Hdr} {f : MFields} {lanes : List Nat} {n : Nat} {writes reads : Bool}
    {k : State → List LAccess → State} (hk : ∀ ls, (k s ls).frame = s.frame) :
    (s.localGo h f lanes n writes reads k).frame = s.frame := by
  unfold State.localGo
  dsimp only
  repeat' split
  all_goals simp [hk]

theorem execLdl_keeps (h : Hdr) (f : MFields) (s : State) : Res.Keeps s.frame (execLdl h f s) := by
  dsimp only [execLdl]
  repeat' split
  all_goals simp

theorem execStl_keeps (h : Hdr) (f : MFields) (s : State) : Res.Keeps s.frame (execStl h f s) := by
  dsimp only [execStl]
  repeat' split
  all_goals simp

@[simp] theorem State.prefAccs_frame (s : State) (f : MFields) (l : Nat) (va : Int) (n : Nat) : (s.prefAccs f l va n).2.frame = s.frame := by
  refine foldl_snd_frame (fun acc j => ?_) _ _
  dsimp only
  repeat' split
  all_goals simp

theorem execPref_keeps (h : Hdr) (f : MFields) (s : State) : Res.Keeps s.frame (execPref h f s) := by
  obtain ⟨lanes, hlanes⟩ := exists_eq (a' := lanesOf)
  rw [(by delta execPref; rfl : execPref = _), ← hlanes]
  extract_lets w q
  have hq : q.2.frame = s.frame := foldl_snd_frame (fun acc l => by simp) _ _
  have hwait : ((s.hold (.pref h f)).orWait q.2).frame = s.frame := State.orWait_frame hq
  clear_value q
  repeat' split
  all_goals simp [hq, hwait]

theorem execCflush_keeps (h : Hdr) (f : MFields) (s : State) : Res.Keeps s.frame (execCflush h f s) := by
  obtain ⟨check, hcheck⟩ := exists_eq (a' := @State.memCheck)
  rw [(by delta execCflush; rfl : execCflush = _), ← hcheck]
  dsimp only
  split
  · simp
  · split
    next hc => simp [State.frame_of_memCheck_stop (hcheck ▸ hc)]
    next hc => split <;> simp [State.frame_of_memCheck_ok (hcheck ▸ hc)]

@[simp] theorem State.updRingOf_frame (s : State) (core bank : Nat) (f : Ring → Ring) : (s.updRingOf core bank f).frame = s.frame := by
  simp [State.updRingOf]

@[simp] theorem State.fifoGo_frame {s : State} {h : Hdr} {f : MFields} {k : Nat → Ring → State} (hk : ∀ bank g, (k bank g).frame = s.frame) :
    (s.fifoGo h f k).frame = s.frame := by
  unfold State.fifoGo
  dsimp only
  repeat' split
  all_goals simp [hk]

theorem State.fifoGo_keeps {fr : Frame} {s : State} {h : Hdr} {f : MFields} {k : Nat → Ring → State} (hk : ∀ bank g, fr.Keeps (k bank g).frame)
    (hs : fr.Keeps s.frame) :
    fr.Keeps (s.fifoGo h f k).frame := by
  unfold State.fifoGo
  dsimp only
  repeat' split
  · simp [hs]
  · simp [hs]
  · exact hk _ _

theorem execFifopush_keeps (h : Hdr) (f : MFields) (s : State) : Res.Keeps s.frame (execFifopush h f s) := by
  unfold execFifopush
  dsimp only
  split
  · simp
  · exact State.fifoGo_keeps (fun bank g => State.keeps_ite (by simp) (State.afterWrites_keeps (fun t ht => by simp [ht]) (by simp)))
      s.frame.keeps_refl

theorem execFifopop_keeps (h : Hdr) (f : MFields) (s : State) : Res.Keeps s.frame (execFifopop h f s) := by
  unfold execFifopop
  dsimp only
  split
  · simp
  · refine State.fifoGo_keeps (fun bank g => ?_) s.frame.keeps_refl
    repeat' split
    all_goals simp

@[simp] theorem State.setBank_keeps {fr : Frame} (s : State) (core bank mode v out : Nat) (hs : fr.Keeps s.frame) :
    fr.Keeps (s.setBank core bank mode v out).frame := by
  simp [State.setBank, hs]

theorem execBankcfg_keeps (h : Hdr) (f : MFields) (s : State) : Res.Keeps s.frame (execBankcfg h f s) := by
  dsimp only [execBankcfg]
  repeat' split
  all_goals simp

theorem execBankcfgDrainDone_keeps (core bank : Nat) (s : State) : Res.Keeps s.frame (execBankcfgDrainDone core bank s) := by
  dsimp only [execBankcfgDrainDone]
  repeat' split
  all_goals simp

theorem execStrm_keeps (h : Hdr) (f : CFields) (s : State) : Res.Keeps s.frame (execStrm h f s) := by
  dsimp only [execStrm]
  repeat' split
  all_goals simp

theorem execStrmx_keeps (h : Hdr) (f : CFields) (s : State) : Res.Keeps s.frame (execStrmx h f s) := by
  dsimp only [execStrmx]
  repeat' split
  all_goals simp

theorem execQstat_keeps (h : Hdr) (f : MFields) (s : State) : Res.Keeps s.frame (execQstat h f s) := by
  dsimp only [execQstat]
  repeat' split
  all_goals simp

@[simp] theorem State.popStream_frame (s : State) (k : Nat) : (s.popStream k).frame = s.frame := (rfl)

theorem execQpop_keeps (h : Hdr) (f : MFields) (s : State) : Res.Keeps s.frame (execQpop h f s) := by
  obtain ⟨check, hcheck⟩ := exists_eq (a' := @State.memCheck)
  rw [(by delta execQpop; rfl : execQpop = _), ← hcheck]
  dsimp only
  iterate 3 (split; · simp)
  split
  · simp
  · split
    next hc => simp [State.frame_of_memCheck_stop (hcheck ▸ hc)]
    next hc =>
      have hframe := State.frame_of_memCheck_ok (hcheck ▸ hc)
      repeat' split
      all_goals simp [hframe]

@[simp] theorem State.stepXlate_frame (s : State) (r : WaveRef) (qn : Nat) (q : Stream) (core width : Nat) (asn : BitVec 12) :
    (s.stepXlate r qn q core width asn).2.frame = s.frame := by
  refine foldl_snd_frame (fun acc l => ?_) _ _
  dsimp only
  repeat' split
  all_goals simp

@[simp] theorem State.stepLoad_keeps {fr : Frame} (s : State) (core n : Nat) (xs : List Xlat) (hs : fr.Keeps s.frame) :
    fr.Keeps (s.stepLoad core n xs).2.frame := by
  refine foldl_snd_keeps (fun acc x hs => ?_) xs hs
  split <;> simp [hs]

theorem execStreamFetch_keeps (r : WaveRef) (qn : BitVec 3) (s : State) : Res.Keeps s.frame (execStreamFetch r qn s) := by
  unfold execStreamFetch
  split
  next t w _ _ =>
    extract_lets +onlyGivenNames q upd
    have hupd : ∀ u f, (upd u f).frame = u.frame := fun u f => State.updWave_frame u r _
    split
    · simp
    · extract_lets +onlyGivenNames go
      have hgo : go.2.frame = s.frame := by simp [go]
      clear_value go
      split
      · simp [hgo]
      · simp [hgo, hupd]
      · extract_lets u near inDrain v need reqs g y
        have hv : s.frame.Keeps v.frame := State.cleanSome_keeps go.2 w.core inDrain (by simp [hgo])
        split
        · exact hv
        · split <;> simp [hupd, g, y, hv]
  · simp

end Sys2Proof.Machine
end

section
/-! PROOF. O56, O57: atomics, and the frame. -/

namespace Sys2Proof.Machine

@[simp] theorem State.atomAlways_frame (s : State) (f : MFields) : (s.atomAlways f).frame = s.frame := by
  simp [State.atomAlways]

@[simp] theorem State.atomGlobal_frame (s : State) (i : Instr) (h : Hdr) (f : MFields) (op : AOp) (ret img : Bool) :
    (s.atomGlobal i h f op ret img).frame = s.frame := by
  unfold State.atomGlobal
  extract_lets n helpers lanes
  clear_value lanes
  split
  · simp
  · split
    · split <;> simp
    · refine globalGo_frame (fun t gs => ?_)
      split
      · simp
      · split <;> simp

theorem execAtom_keeps (h : Hdr) (f : MFields) (s : State) : Res.Keeps s.frame (execAtom h f s) := by
  simp [execAtom]

theorem execAtomx_keeps (h : Hdr) (f : MFields) (s : State) : Res.Keeps s.frame (execAtomx h f s) := by
  simp [execAtomx]

theorem execRed_keeps (h : Hdr) (f : MFields) (s : State) : Res.Keeps s.frame (execRed h f s) := by
  simp [execRed]

theorem execXred_keeps (h : Hdr) (f : MFields) (s : State) : Res.Keeps s.frame (execXred h f s) := by
  simp [execXred]

theorem execAtoml_keeps (h : Hdr) (f : MFields) (s : State) : Res.Keeps s.frame (execAtoml h f s) := by
  dsimp only [execAtoml]
  repeat' split
  all_goals simp

end Sys2Proof.Machine
end

section
/-! PROOF. O56, O57: conversion and the cross-lane instructions, and the frame. -/

namespace Sys2Proof.Machine

theorem execCvt_keeps (h : Hdr) (f : VFields) (s : State) : Res.Keeps s.frame (execCvt h f s) := by
  dsimp only [execCvt]
  repeat' split
  all_goals simp

theorem execPack_keeps (h : Hdr) (f : VFields) (s : State) : Res.Keeps s.frame (execPack h f s) := by
  dsimp only [execPack]
  repeat' split
  all_goals simp

theorem execUnpack_keeps (h : Hdr) (f : VFields) (s : State) : Res.Keeps s.frame (execUnpack h f s) := by
  dsimp only [execUnpack]
  repeat' split
  all_goals simp

theorem execTripack_keeps (h : Hdr) (f : VFields) (s : State) : Res.Keeps s.frame (execTripack h f s) := by
  simp [execTripack]

theorem execTriunpk_keeps (h : Hdr) (f : VFields) (s : State) : Res.Keeps s.frame (execTriunpk h f s) := by
  simp [execTriunpk]

theorem execLxch_keeps (h : Hdr) (f : VFields) (s : State) : Res.Keeps s.frame (execLxch h f s) := by
  simp [execLxch]

theorem execPqry_keeps (h : Hdr) (f : VFields) (s : State) : Res.Keeps s.frame (execPqry h f s) := by
  simp [execPqry]

theorem execWred_keeps (h : Hdr) (f : VFields) (s : State) : Res.Keeps s.frame (execWred h f s) := by
  simp [execWred]

theorem execWscan_keeps (h : Hdr) (f : VFields) (s : State) : Res.Keeps s.frame (execWscan h f s) := by
  simp [execWscan]

theorem execLpeer_keeps (h : Hdr) (f : VFields) (s : State) : Res.Keeps s.frame (execLpeer h f s) := by
  simp [execLpeer]

theorem execLread_keeps (h : Hdr) (f : VFields) (s : State) : Res.Keeps s.frame (execLread h f s) := by
  simp [execLread]

theorem execLwrite_keeps (h : Hdr) (f : VFields) (s : State) : Res.Keeps s.frame (execLwrite h f s) := by
  dsimp only [execLwrite]
  repeat' split
  all_goals simp

end Sys2Proof.Machine
end

section
/-! PROOF. O56, O57: ordered sections, and the frame. -/

namespace Sys2Proof.Machine

@[simp] theorem State.failLanes_frame (s : State) (h : Hdr) (fails : List (Nat × TrapInfo)) : (s.failLanes h fails).frame = s.frame := by
  simp [State.failLanes]

@[simp] theorem State.ordTake_keeps {fr : Frame} (s : State) (l : Nat) (k : Word) (hs : fr.Keeps s.frame) : fr.Keeps (s.ordTake l k).2.frame := by
  have hentry := rowanEntry_keeps s s.curAsn false k hs
  unfold State.ordTake
  generalize s.rowanEntry s.curAsn false k = q at hentry ⊢
  obtain ⟨found, t⟩ := q
  cases found <;> simpa using hentry

@[simp] theorem State.ordTakeKey_keeps {fr : Frame} (s : State) (k : Word) (ls : List Nat) (hs : fr.Keeps s.frame) :
    fr.Keeps (s.ordTakeKey k ls).2.frame :=
  foldl_snd_keeps (f := fun acc l => (acc.1 ++ [ordAnswer l (acc.2.ordTake l k).1], (acc.2.ordTake l k).2))
    (fun acc l hs => ordTake_keeps acc.2 l k hs) ls hs

@[simp] theorem State.ordseqEnd_frame (s : State) (h : Hdr) (f : VFields) (xs : List Nat) : (s.ordseqEnd h f xs).frame = s.frame := by
  simp [State.ordseqEnd]

/-- The lanes of a mask are kept from the kernel, which would compute them to compare two forms of the same `match`. -/
@[simp] theorem State.ordseqStep_keeps {fr : Frame} (s : State) (h : Hdr) (f : VFields) (hs : fr.Keeps s.frame) :
    fr.Keeps (s.ordseqStep h f).frame := by
  obtain ⟨lanes, hlanes⟩ := exists_eq (a' := lanesOf)
  rw [(by delta State.ordseqStep; rfl : State.ordseqStep = _), ← hlanes]
  extract_lets w act done rest
  split
  · simp [hs]
  next k _ =>
    extract_lets q xs
    have hq : fr.Keeps q.2.frame := ordTakeKey_keeps s k _ hs
    exact keeps_ite (by simp [hq]) (by simp [hq])

theorem execOrdseq_keeps (h : Hdr) (f : VFields) (s : State) : Res.Keeps s.frame (execOrdseq h f s) := by
  dsimp only [execOrdseq]
  repeat' split
  all_goals simp

@[simp] theorem State.ordRequest_keeps {fr : Frame} (s : State) (l : Nat) (a : Await) (hs : fr.Keeps s.frame) :
    fr.Keeps (s.ordRequest l a).2.frame := by
  have hentry := rowanEntry_keeps s s.curAsn false a.key hs
  unfold State.ordRequest
  generalize s.rowanEntry s.curAsn false a.key = q at hentry ⊢
  obtain ⟨found, t⟩ := q
  cases found with
  | error r => exact hentry
  | ok e =>
    dsimp only
    split <;> simpa using hentry

@[simp] theorem State.ordRequests_keeps {fr : Frame} (s : State) (h : Hdr) (wide : Bool) (act : List Nat) (key : Nat → Word) (num : Nat → BitVec 32)
    (hs : fr.Keeps s.frame) :
    fr.Keeps (s.ordRequests h wide act key num).frame := by
  unfold State.ordRequests
  extract_lets am s1 r u
  have hr : fr.Keeps r.2.frame := by
    refine foldl_snd_keeps (fun acc l hs => ?_) act (by simp [s1, hs])
    extract_lets a
    have hasked := ordRequest_keeps acc.2 l a hs
    generalize acc.2.ordRequest l a = q at hasked ⊢
    obtain ⟨trap, t⟩ := q
    cases trap <;> exact hasked
  exact keeps_ite (by simp [u, hr]) (by simp [u, hr])

theorem execOrdin_keeps (h : Hdr) (f : VFields) (s : State) : Res.Keeps s.frame (execOrdin h f s) := by
  unfold execOrdin
  extract_lets w wide act key
  clear_value act
  split
  · simp
  · split
    · simp
    · exact State.afterReads_keeps (fun t ht => State.ordRequests_keeps t h _ _ _ _ ht) (by simp)

theorem execOrdout_keeps (h : Hdr) (f : VFields) (s : State) : Res.Keeps s.frame (execOrdout h f s) := by
  obtain ⟨lanes, hlanes⟩ := exists_eq (a' := lanesOf)
  rw [(by delta execOrdout; rfl : execOrdout = _), ← hlanes]
  dsimp only
  repeat' split
  all_goals simp

@[simp] theorem State.stallWave_frame (s : State) (r : WaveRef) (space : Bool) (ls : List Nat) (t : TrapInfo) :
    (s.stallWave r space ls t).frame = s.frame := by
  unfold State.stallWave
  split <;> simp

@[simp] theorem State.stall_frame (s : State) (e : Rowan) : (s.stall e).frame = s.frame := by
  simp [State.stall]

theorem execOrdStallTimeout_keeps (asn : BitVec 12) (key : Word) (space : Bool) (s : State) :
    Res.Keeps s.frame (execOrdStallTimeout asn key space s) := by
  have hfind := State.rowanFind_keeps s asn space key s.frame.keeps_refl
  unfold execOrdStallTimeout
  generalize s.rowanFind asn space key = q at hfind ⊢
  obtain ⟨found, t⟩ := q
  cases found with
  | badImage => simp
  | none => simp
  | entry e =>
    dsimp only at hfind ⊢
    repeat' split
    all_goals simp [hfind]

theorem execOrdqQuery_keeps (value : Word) (s : State) : Res.Keeps s.frame (execOrdqQuery value s) := by
  simp [execOrdqQuery]

theorem execOrdqPurge_keeps (value : Word) (s : State) : Res.Keeps s.frame (execOrdqPurge value s) := by
  simp [execOrdqPurge]

end Sys2Proof.Machine
end

section
/-! PROOF. O56, O57: the copy engine, and the frame. -/

namespace Sys2Proof.Machine

@[simp] theorem State.recordCmd_frame (s : State) (c : Cmd) (xlat : Nat → Option Xlat) : (s.recordCmd c xlat).frame = s.frame := by
  simp [State.recordCmd]

@[simp] theorem State.startCmd_keeps {fr : Frame} (s : State) (core : Nat) (c : Cmd) (hs : fr.Keeps s.frame) :
    fr.Keeps (s.startCmd core c).frame := by
  unfold State.startCmd
  split <;> simp [hs]

theorem State.accept_keeps {fr : Frame} {s : State} {h : Hdr} {c : Cmd} {empty : Bool} {es : List (Nat × Holly)} {k : State → State}
    (hk : ∀ t, fr.Keeps t.frame → fr.Keeps (k t).frame) (hs : fr.Keeps s.frame) :
    fr.Keeps (s.accept h c empty es k).frame := by
  unfold State.accept
  refine keeps_ite (by simp [hk s hs]) (keeps_ite (by simp [hs]) ?_)
  extract_lets t u v w x
  have hw : fr.Keeps w.frame := by simp [w, v, u, t, hs]
  have hx : fr.Keeps x.frame := keeps_ite (startCmd_keeps w _ c hw) hw
  simp [hk x hx]

@[simp] theorem State.copyList_keeps {fr : Frame} (s : State) (h : Hdr) (f : CFields) (w : Wave) (hs : fr.Keeps s.frame) :
    fr.Keeps (s.copyList h f w).frame := by
  dsimp only [State.copyList]
  split
  · simp [hs]
  · exact accept_keeps (fun _ => id) hs

theorem execCopy_keeps (h : Hdr) (f : CFields) (s : State) : Res.Keeps s.frame (execCopy h f s) := by
  obtain ⟨actor, hactor⟩ := exists_eq (a' := State.actor)
  rw [(by delta execCopy; rfl : execCopy = _), ← hactor]
  dsimp only
  split
  · simp
  · refine State.afterUpdates_keeps (fun t ht => ?_) s.frame.keeps_refl
    refine State.keeps_ite (by simp [ht]) ?_
    split
    · simp [ht]
    · exact State.accept_keeps (fun _ => id) ht

@[simp] theorem State.mergeImage_keeps {fr : Frame} (s : State) (me : Team) (i : Image) (hs : fr.Keeps s.frame) :
    fr.Keeps (s.mergeImage me i).frame := by
  simp [State.mergeImage, hs]

@[simp] theorem State.carry_keeps {fr : Frame} (s : State) (rs : List Receiver) (hs : fr.Keeps s.frame) : fr.Keeps (s.carry rs).frame :=
  foldl_keeps (fun t i ht => mergeImage_keeps t s.curTeam i ht) _ hs

theorem execCopym_keeps (h : Hdr) (f : CFields) (s : State) : Res.Keeps s.frame (execCopym h f s) := by
  obtain ⟨actor, hactor⟩ := exists_eq (a' := State.actor)
  rw [(by delta execCopym; rfl : execCopym = _), ← hactor]
  dsimp only
  split
  · simp
  · refine State.afterUpdates_keeps (fun t ht => ?_) s.frame.keeps_refl
    split
    · simp [ht]
    · exact State.accept_keeps (fun t ht => State.carry_keeps t _ ht) ht

theorem execHalo_keeps (h : Hdr) (f : CFields) (s : State) : Res.Keeps s.frame (execHalo h f s) := by
  obtain ⟨actor, hactor⟩ := exists_eq (a' := State.actor)
  rw [(by delta execHalo; rfl : execHalo = _), ← hactor]
  dsimp only
  split
  · simp
  · refine State.afterUpdates_keeps (fun t ht => ?_) s.frame.keeps_refl
    split
    · simp [ht]
    · exact State.accept_keeps (fun t ht => State.carry_keeps t _ ht) ht

theorem execGathv_keeps (h : Hdr) (f : CFields) (s : State) : Res.Keeps s.frame (execGathv h f s) := by
  obtain ⟨check, hcheck⟩ := exists_eq (a' := @State.memCheck)
  rw [(by delta execGathv; rfl : execGathv = _), ← hcheck]
  dsimp only
  iterate 2 (split; · simp)
  split
  next hc => simp [State.frame_of_memCheck_stop (hcheck ▸ hc)]
  next hc => split <;> simp [State.frame_of_memCheck_ok (hcheck ▸ hc)]

theorem execTagarm_keeps (h : Hdr) (f : CFields) (s : State) : Res.Keeps s.frame (execTagarm h f s) := by
  obtain ⟨actor, hactor⟩ := exists_eq (a' := State.actor)
  rw [(by delta execTagarm; rfl : execTagarm = _), ← hactor]
  dsimp only
  split <;> simp

theorem execTagclr_keeps (h : Hdr) (f : CFields) (s : State) : Res.Keeps s.frame (execTagclr h f s) := by
  obtain ⟨actor, hactor⟩ := exists_eq (a' := State.actor)
  rw [(by delta execTagclr; rfl : execTagclr = _), ← hactor]
  dsimp only
  split <;> simp

theorem execTagff_keeps (h : Hdr) (f : CFields) (s : State) : Res.Keeps s.frame (execTagff h f s) := by
  obtain ⟨actor, hactor⟩ := exists_eq (a' := State.actor)
  rw [(by delta execTagff; rfl : execTagff = _), ← hactor]
  dsimp only
  repeat' split
  all_goals simp

@[simp] theorem State.tagwaitCheck_frame (s : State) (r : WaveRef) : (s.tagwaitCheck r).frame = s.frame := by
  unfold State.tagwaitCheck
  repeat' split
  all_goals simp

theorem execTagwait_keeps (h : Hdr) (f : CFields) (s : State) : Res.Keeps s.frame (execTagwait h f s) := by
  obtain ⟨actor, hactor⟩ := exists_eq (a' := State.actor)
  rw [(by delta execTagwait; rfl : execTagwait = _), ← hactor]
  dsimp only
  split <;> simp

@[simp] theorem State.cmdFaults_frame (s : State) (core : Nat) (c : Cmd) (fs : List (Nat × Nat × Nat × Nat)) :
    (s.cmdFaults core c fs).frame = s.frame := by
  simp [State.cmdFaults]

@[simp] theorem State.cmdHwerr_keeps {fr : Frame} (s : State) (core : Nat) (c : Cmd) (store index : Nat) (hs : fr.Keeps s.frame) :
    fr.Keeps (s.cmdHwerr core c store index).frame := by
  simp [State.cmdHwerr, hs]

@[simp] theorem State.boundHolly_frame (s : State) (id : Nat) (ps : List Piece) : (s.boundHolly id ps).frame = s.frame := by
  simp [State.boundHolly]

@[simp] theorem Pass.page_frame (p : Pass) (core kind page : Nat) : (p.page core kind page).s.frame = p.s.frame := by
  unfold Pass.page
  split
  · rfl
  · extract_lets known q
    split
    · extract_lets need
      split <;> simp [q]
    all_goals simp [q]

@[simp] theorem Pass.span_frame (p : Pass) (core : Nat) (g : Nat × Nat × Nat) : (p.span core g).s.frame = p.s.frame :=
  List.foldlRecOn (motive := fun q : Pass => q.s.frame = p.s.frame) _ _ rfl (fun q hq _ _ => (q.page_frame core _ _).trans hq)

/-- The pre-pass of any pages leaves the frame. -/
theorem Pass.foldl_span_frame (p : Pass) (core : Nat) (gs : List (Nat × Nat × Nat)) : (gs.foldl (fun p g => p.span core g) p).s.frame = p.s.frame :=
  List.foldlRecOn (motive := fun q : Pass => q.s.frame = p.s.frame) _ _ rfl (fun q hq g _ => (q.span_frame core g).trans hq)

theorem execCopyPrepass_keeps (core cmd : Nat) (s : State) : Res.Keeps s.frame (execCopyPrepass core cmd s) := by
  unfold execCopyPrepass
  split
  · simp
  next c _ =>
    split
    · simp
    · extract_lets p t
      have ht : t.frame = s.frame := by simp [t, p, Pass.foldl_span_frame]
      clear_value p t
      repeat' split
      all_goals simp [ht]

theorem execCopyDeliver_keeps (core cmd piece off n : Nat) (s : State) : Res.Keeps s.frame (execCopyDeliver core cmd piece off n s) := by
  unfold execCopyDeliver
  iterate 2 (split; · simp)
  extract_lets whole parts reqs lines inDrain g t
  have ht : t.frame = s.frame := by simp [t, g]
  iterate 2 (split; · simp)
  split
  · simp [g]
  · split
    · simp [ht]
    · exact foldl_keeps (fun t x hs => t.deliverBytes_keeps core _ x.1 x.2.1 x.2.2 hs) parts (by simp [ht])

end Sys2Proof.Machine
end

section
/-! PROOF. O56, O57: the matrix engine, and the frame. -/

namespace Sys2Proof.Machine

@[simp] theorem State.updSideOf_frame (s : State) (uid k : Nat) (f : Side → Side) : (s.updSideOf uid k f).frame = s.frame := (rfl)

@[simp] theorem State.clearAcc_frame (s : State) (uid side n cnt : Nat) : (s.clearAcc uid side n cnt).frame = s.frame := (rfl)

@[simp] theorem State.engineRecord_frame (s : State) (launch store index : Nat) : (s.engineRecord launch store index).frame = s.frame := by
  simp [State.engineRecord]

@[simp] theorem State.enqueue_frame (s : State) (i : Instr) (m : BitVec 64) (out : Nat) (rows : List (Nat × Nat)) (panels : List Nat) :
    (s.enqueue i m out rows panels).frame = s.frame := by
  simp [State.enqueue]

@[simp] theorem State.engineIssue_frame (s : State) (h : Hdr) (i : Instr) (m : BitVec 64) (fin : Fin) (accs : List Acc) (rows : List (Nat × Nat))
    (panels : List Nat) :
    (s.engineIssue h i m fin accs rows panels).frame = s.frame := by
  simp [State.engineIssue]

@[simp] theorem State.engineDone_frame (s : State) (op : EngineOp) (ws : List RegWrite) (fl : Flags) : (s.engineDone op ws fl).frame = s.frame :=
    (rfl)

@[simp] theorem State.orMstat_frame (s : State) (uid side : Nat) (fl : Flags) : (s.orMstat uid side fl).frame = s.frame := (rfl)

@[simp] theorem State.runMma_frame (s : State) (op : EngineOp) (f : VFields) (side : Nat) (old : List (Nat × Nat)) :
    (s.runMma op f side old).frame = s.frame := by
  unfold State.runMma
  extract_lets slot sparse n
  split
  · rfl
  · split
    · simp
    · rw [engineDone_frame, orMstat_frame]
      simp only [updSideOf_frame]

@[simp] theorem State.runAccrd_frame (s : State) (op : EngineOp) (f : VFields) (ty side : Nat) : (s.runAccrd op f ty side).frame = s.frame := by
  unfold State.runAccrd
  split <;> simp

@[simp] theorem State.runDrainReg_frame (s : State) (op : EngineOp) (f : XFields) (ty cv desc side : Nat) :
    (s.runDrainReg op f ty cv desc side).frame = s.frame := by
  unfold State.runDrainReg
  split <;> simp

@[simp] theorem State.runAccld_keeps {fr : Frame} (s : State) (op : EngineOp) (n ty side : Nat) (hs : fr.Keeps s.frame) :
    fr.Keeps (s.runAccld op n ty side).frame := by
  unfold State.runAccld
  extract_lets r
  split
  · exact hs
  next k _ =>
    extract_lets cnt t
    have ht : fr.Keeps t.frame := foldl_keeps (fun s j hs => doAcc_keeps s r k j hs) _ hs
    clear_value t
    dsimp only
    split
    · simp [ht]
    · simp [ht]

theorem execEngineOpStart_keeps (core : Nat) (old : List (Nat × Nat)) (s : State) : Res.Keeps s.frame (execEngineOpStart core old s) := by
  dsimp only [execEngineOpStart]
  repeat' split
  all_goals simp

end Sys2Proof.Machine
end

section
/-! PROOF. O56, O57: the matrix instructions, and the frame. -/

namespace Sys2Proof.Machine

theorem execObres_keeps (h : Hdr) (f : CFields) (s : State) : Res.Keeps s.frame (execObres h f s) := by
  obtain ⟨actor, hactor⟩ := exists_eq (a' := State.actor)
  rw [(by delta execObres; rfl : execObres = _), ← hactor]
  dsimp only
  repeat' split
  all_goals simp

theorem execObrel_keeps (h : Hdr) (f : YFields) (s : State) : Res.Keeps s.frame (execObrel h f s) := by
  obtain ⟨actor, hactor⟩ := exists_eq (a' := State.actor)
  rw [(by delta execObrel; rfl : execObrel = _), ← hactor]
  dsimp only
  split
  · simp
  · split <;> simp

theorem execObld_keeps (h : Hdr) (f : CFields) (s : State) : Res.Keeps s.frame (execObld h f s) := by
  obtain ⟨actor, hactor⟩ := exists_eq (a' := State.actor)
  rw [(by delta execObld; rfl : execObld = _), ← hactor]
  dsimp only
  split
  · simp
  · refine State.afterUpdates_keeps (fun t ht => ?_) s.frame.keeps_refl
    split
    · simp [ht]
    · split
      · simp [ht]
      · exact State.accept_keeps (fun _ => id) ht

theorem execMma_keeps (h : Hdr) (f : VFields) (s : State) : Res.Keeps s.frame (execMma h f s) := by
  unfold execMma
  extract_lets w t side d slot n cv sparse cvd ty u
  have hu : u.frame = s.frame := by simp [u]
  clear_value u
  iterate 2 (split; · simp)
  split
  · simp
  · iterate 5 refine Res.keeps_of_ite (by simp) ?_
    split <;> simp [hu]

theorem execAccz_keeps (h : Hdr) (f : YFields) (s : State) : Res.Keeps s.frame (execAccz h f s) := by
  obtain ⟨actor, hactor⟩ := exists_eq (a' := State.actor)
  rw [(by delta execAccz; rfl : execAccz = _), ← hactor]
  dsimp only
  split <;> simp

theorem State.tileReads_frame {s : State} {h : Hdr} {f : MFields} {l bytes : Nat} {k : State → List Acc → State}
    (hk : ∀ t accs, (k t accs).frame = t.frame) :
    (s.tileReads h f l bytes k).frame = s.frame := by
  unfold State.tileReads
  extract_lets w chunks base ea ea' reqs
  split
  · split
    · simp
    · split
      · simp
      · split <;> simp [hk]
  · split
    next hc => exact frame_of_memCheck_stop hc
    next hc => split <;> simp [hk, frame_of_memCheck_ok hc]

theorem execAccld_keeps (h : Hdr) (f : MFields) (s : State) : Res.Keeps s.frame (execAccld h f s) := by
  obtain ⟨actor, hactor⟩ := exists_eq (a' := State.actor)
  rw [(by delta execAccld; rfl : execAccld = _), ← hactor]
  dsimp only
  split
  · simp
  · simp [State.tileReads_frame]

theorem execAccrd_keeps (h : Hdr) (f : VFields) (s : State) : Res.Keeps s.frame (execAccrd h f s) := by
  dsimp only [execAccrd]
  repeat' split
  all_goals simp

theorem execMstat_keeps (h : Hdr) (f : YFields) (s : State) : Res.Keeps s.frame (execMstat h f s) := by
  obtain ⟨actor, hactor⟩ := exists_eq (a' := State.actor)
  rw [(by delta execMstat; rfl : execMstat = _), ← hactor]
  dsimp only
  split <;> simp

@[simp] theorem State.rowCheck_frame (s : State) (q : Drain) (r : Nat) : (s.rowCheck q r).2.frame = s.frame := by
  unfold State.rowCheck
  extract_lets b a eas z typeOk fs
  have hz : z.2.frame = s.frame := by simp [z]
  clear_value fs z
  split
  · split <;> simp
  · split
    · rfl
    · split
      · exact hz
      · split
        · exact hz
        · exact hz
        · split <;> exact hz

@[simp] theorem State.drainStop_frame (s : State) (h : Hdr) (f : XFields) (val : Nat) : (s.drainStop h f val).frame = s.frame := by
  simp [State.drainStop]

@[simp] theorem State.drainPut_frame (s : State) (l : Nat) (q : Drain) (r : Nat) (p : RowAt) : (s.drainPut l q r p).frame = s.frame := (rfl)

theorem State.macClean_keeps {fr : Frame} {s : State} {lines : List Nat} {k : State → State} (hk : ∀ t, fr.Keeps t.frame → fr.Keeps (k t).frame)
    (hs : fr.Keeps s.frame) :
    fr.Keeps (s.macClean lines k).frame := by
  have hclean := cleanSome_keeps s s.curWave.core (fun x : CLine => lines.elem x.line) hs
  exact keeps_ite (hk _ hclean) (keeps_ite hclean (by simp [hs]))

theorem State.drainAdd_keeps {fr : Frame} {s : State} {n : Nat} {ups : List AddOn} {k : State → State}
    (hk : ∀ t, fr.Keeps t.frame → fr.Keeps (k t).frame) (hs : fr.Keeps s.frame) :
    fr.Keeps (s.drainAdd n ups k).frame := by
  unfold State.drainAdd
  extract_lets core
  refine macClean_keeps (fun t ht => ?_) hs
  extract_lets u
  have hu : fr.Keeps u.frame := by simp [u, ht]
  exact hk _ (by simp [hu])

/-- A pass over the rows of a tile leaves the frame, with what it found and where it stopped beside the state. -/
theorem foldl_snd_snd_frame {α β γ : Type} {f : β × γ × State → α → β × γ × State} (hf : ∀ acc x, (f acc x).2.2.frame = acc.2.2.frame) (l : List α)
    (acc : β × γ × State) :
    (l.foldl f acc).2.2.frame = acc.2.2.frame :=
  List.foldlRecOn (motive := fun q : β × γ × State => q.2.2.frame = acc.2.2.frame) l f rfl (fun q hq x _ => (hf q x).trans hq)

@[simp] theorem State.drainAll_keeps {fr : Frame} (s : State) (h : Hdr) (f : XFields) (l id : Nat) (q : Drain) (part : BitVec 64)
    (hs : fr.Keeps s.frame) :
    fr.Keeps (s.drainAll h f l id q part).frame := by
  unfold State.drainAll
  extract_lets z t
  have ht : fr.Keeps t.frame := by
    simp only [t, z]
    rwa [foldl_snd_snd_frame]
    intro acc r
    split
    · rfl
    · split <;> simp
  clear_value z t
  split
  iterate 4 simp [ht]
  split
  · simp [ht]
  · exact drainAdd_keeps (fun u hu => by simp [hu]) ht

@[simp] theorem State.drainStep_keeps {fr : Frame} (s : State) (h : Hdr) (f : XFields) (l : Nat) (hs : fr.Keeps s.frame) :
    fr.Keeps (s.drainStep h f l).frame := by
  dsimp only [State.drainStep]
  repeat' split
  all_goals simp [hs]

theorem execDrain_keeps (h : Hdr) (f : XFields) (s : State) : Res.Keeps s.frame (execDrain h f s) := by
  obtain ⟨actor, hactor⟩ := exists_eq (a' := State.actor)
  rw [(by delta execDrain; rfl : execDrain = _), ← hactor]
  dsimp only
  refine Res.keeps_of_ite (State.orWait_keeps s.frame.keeps_refl (by simp)) (Res.keeps_of_ite (by simp) ?_)
  split
  · simp
  · split
    · simp
    · split <;> simp

@[simp] theorem State.addApplied_frame (s : State) (core k drain : Nat) : (s.addApplied core k drain).frame = s.frame := by
  simp [State.addApplied]

theorem execAddOnStoreApply_keeps (core k : Nat) (s : State) : Res.Keeps s.frame (execAddOnStoreApply core k s) := by
  dsimp only [execAddOnStoreApply]
  repeat' split
  all_goals simp

end Sys2Proof.Machine
end

section
/-! PROOF. O56, O57: what RAST, BLEND, BIN, TRAV, FILT and MCALL share, and the frame. -/

namespace Sys2Proof.Machine

@[simp] theorem State.updMac_frame (s : State) (f : MacLane → MacLane) : (s.updMac f).frame = s.frame := (rfl)

@[simp] theorem State.setMac_frame (s : State) (m : MacLane) : (s.setMac m).frame = s.frame := (rfl)

@[simp] theorem State.macFlags_frame (s : State) (fl : Flags) : (s.macFlags fl).frame = s.frame := (rfl)

@[simp] theorem State.count_frame (s : State) (k n : Nat) : (s.count k n).frame = s.frame := (rfl)

@[simp] theorem State.macroFinish_frame (s : State) (h : Hdr) (q : MacForm) : (s.macroFinish h q).frame = s.frame := by
  unfold State.macroFinish
  extract_lets ms fl pc t u v
  have hu : u.frame = s.frame := by
    simp only [u, t]
    rw [foldl_frame, foldl_frame]
    · exact fun t m => updCur_frame t _
    · intro t m
      split <;> simp
  have hv : v.frame = s.frame := by simp [v, hu]
  clear_value v
  split
  · simp [hv]
  · simp [hv]

@[simp] theorem State.macroSlice_keeps {fr : Frame} (s : State) (hs : fr.Keeps s.frame) : fr.Keeps s.macroSlice.frame := by
  simp [State.macroSlice, hs]

@[simp] theorem State.macroProtect_frame (s : State) (l : Nat) (t : TrapInfo) : (s.macroProtect l t).frame = s.frame := (rfl)

@[simp] theorem State.macroFault_frame (s : State) (l va reason level : Nat) : (s.macroFault l va reason level).frame = s.frame := (rfl)

theorem State.macroTick_keeps {fr : Frame} {s : State} {h : Hdr} {q : MacForm} {step : State → MacLane → State}
    (hstep : ∀ t m, fr.Keeps t.frame → fr.Keeps (step t m).frame) (hs : fr.Keeps s.frame) :
    fr.Keeps (s.macroTick h q step).frame := by
  unfold State.macroTick
  extract_lets t
  have ht : fr.Keeps t.frame := by
    refine keeps_ite (by simp [hs]) ?_
    split
    · exact hs
    · exact orWait_keeps hs (hstep s _ hs)
  exact keeps_ite ht (by simp [ht])

@[simp] theorem State.macXlate_frame (s : State) (va : Nat) (need : Need) (typeOk : MType → Bool) :
    (s.macXlate va need typeOk).2.frame = s.frame := by
  dsimp only [State.macXlate]
  repeat' split
  all_goals simp

@[simp] theorem State.meet_frame (s : State) (l : Nat) (ts : List RelTag) : (s.meet l ts).frame = s.frame := by
  simp [State.meet]

@[simp] theorem State.loadAs_keeps {fr : Frame} (s : State) (l : Nat) (x : Xlat) (n : Nat) (hs : fr.Keeps s.frame) :
    fr.Keeps (s.loadAs l x n).2.frame := by
  unfold State.loadAs
  repeat' split
  all_goals simp [hs]

@[simp] theorem State.macRead_keeps {fr : Frame} (s : State) (l : Nat) (x : Xlat) (n : Nat) (hs : fr.Keeps s.frame) :
    fr.Keeps (s.macRead l x n).2.frame := by
  simp [State.macRead, hs]

@[simp] theorem State.macHwerr_frame (s : State) (l store index : Nat) : (s.macHwerr l store index).frame = s.frame := by
  simp [State.macHwerr]

@[simp] theorem State.homeLoad_keeps {fr : Frame} (s : State) (x : Xlat) (n : Nat) (hs : fr.Keeps s.frame) : fr.Keeps (s.homeLoad x n).2.frame := by
  dsimp only [State.homeLoad]
  repeat' split
  all_goals simp [hs]

@[simp] theorem State.homePut_keeps {fr : Frame} (s : State) (x : Xlat) (bs : List Byte) (ts : List RelTag) (hs : fr.Keeps s.frame) :
    fr.Keeps (s.homePut x bs ts).frame := by
  simp [State.homePut, hs]

theorem State.macRelease_keeps {fr : Frame} {s : State} {k : State → State} (hk : ∀ t, fr.Keeps t.frame → fr.Keeps (k t).frame)
    (hs : fr.Keeps s.frame) :
    fr.Keeps (s.macRelease k).frame := by
  unfold State.macRelease
  extract_lets core t
  have ht : fr.Keeps t.frame := by simp [t, hs]
  exact keeps_ite (hk t ht) (keeps_ite ht (by simp [hs]))

@[simp] theorem State.pushSlot_keeps {fr : Frame} (s : State) (l : Nat) (hx sx : Xlat) (hdr rec : Nat) (hs : fr.Keeps s.frame) :
    fr.Keeps (s.pushSlot l hx sx hdr rec).frame := by
  simp [State.pushSlot, hs]

end Sys2Proof.Machine
end

section
/-! PROOF. O56, O57: RAST, BLEND, BIN and MCALL, and the frame. -/

namespace Sys2Proof.Machine

theorem execRastSet_keeps (h : Hdr) (f : XFields) (s : State) : Res.Keeps s.frame (execRastSet h f s) := by
  obtain ⟨actor, hactor⟩ := exists_eq (a' := State.actor)
  rw [(by delta execRastSet; rfl : execRastSet = _), ← hactor]
  dsimp only
  split
  · simp
  · refine Res.keeps_of_ite (by simp) ?_
    split <;> simp

@[simp] theorem State.rastEmit_frame (s : State) (p cov : Nat) : (s.rastEmit p cov).frame = s.frame := (rfl)

@[simp] theorem State.rastStep_frame (h : Hdr) (f : XFields) (s : State) (m : MacLane) : (State.rastStep h f s m).frame = s.frame := by
  unfold State.rastStep
  repeat' split
  all_goals simp

theorem execRast_keeps (h : Hdr) (f : XFields) (s : State) : Res.Keeps s.frame (execRast h f s) := by
  obtain ⟨actor, hactor⟩ := exists_eq (a' := State.actor)
  rw [(by delta execRast; rfl : execRast = _), ← hactor]
  dsimp only
  refine Res.keeps_of_ite (State.macroTick_keeps (fun t m ht => by simp [ht]) s.frame.keeps_refl) ?_
  split
  · simp
  · split
    · simp
    · refine Res.keeps_of_ite (by simp) ?_
      split <;> simp

theorem execBlendSet_keeps (h : Hdr) (f : XFields) (s : State) : Res.Keeps s.frame (execBlendSet h f s) := by
  obtain ⟨windows, hwindows⟩ := exists_eq (a' := State.windows)
  rw [(by delta execBlendSet; rfl : execBlendSet = _), ← hwindows]
  dsimp only
  refine Res.keeps_of_ite (by simp) ?_
  split <;> simp

@[simp] theorem State.blendCommit_frame (s : State) (h : Hdr) (fm : Nat) (m : MacLane) (e : Rowan) : (s.blendCommit h fm m e).frame = s.frame := by
  dsimp only [State.blendCommit]
  repeat' split
  all_goals simp

@[simp] theorem State.blendLane_keeps {fr : Frame} (h : Hdr) (f : XFields) (s : State) (m : MacLane) (hs : fr.Keeps s.frame) :
    fr.Keeps (State.blendLane h f s m).frame := by
  have hentry := rowanEntry_keeps s s.curAsn true (blendKey m.win) hs
  unfold State.blendLane
  extract_lets key num me waiting
  generalize s.rowanEntry s.curAsn true key = q at hentry ⊢
  obtain ⟨found, t⟩ := q
  cases found with
  | error r => simpa using hentry
  | ok e =>
    refine keeps_ite ?_ (by simpa using hentry)
    split <;> simpa using hentry

@[simp] theorem State.blendStep_keeps {fr : Frame} (h : Hdr) (f : XFields) (s : State) (_m : MacLane) (hs : fr.Keeps s.frame) :
    fr.Keeps (State.blendStep h f s _m).frame := by
  dsimp only [State.blendStep]
  split <;> simp [hs]

theorem execBlend_keeps (h : Hdr) (f : XFields) (s : State) : Res.Keeps s.frame (execBlend h f s) := by
  obtain ⟨windows, hwindows⟩ := exists_eq (a' := State.windows)
  rw [(by delta execBlend; rfl : execBlend = _), ← hwindows]
  dsimp only
  refine Res.keeps_of_ite (State.macroTick_keeps (fun t m ht => by simp [ht]) s.frame.keeps_refl) (Res.keeps_of_ite (by simp) ?_)
  split
  · simp
  · split <;> simp

@[simp] theorem State.binStep_keeps {fr : Frame} (h : Hdr) (b : BinSet) (s : State) (m : MacLane) (hs : fr.Keeps s.frame) :
    fr.Keeps (State.binStep h b s m).frame := by
  unfold State.binStep
  extract_lets +onlyGivenNames l
  split
  · simp [hs]
  · extract_lets +onlyGivenNames q t core
    have ht : fr.Keeps t.frame := by simp [t, hs]
    clear_value core t
    refine keeps_ite (by simp [ht]) ?_
    have hx := macXlate_frame t q Need.write (fun t => t != .io)
    generalize t.macXlate q Need.write (fun t => t != .io) = found at hx ⊢
    obtain ⟨x, t'⟩ := found
    change t'.frame = t.frame at hx
    rw [← hx] at ht
    cases x with
    | ok x =>
      dsimp -zeta only
      split
      · simp [ht]
      · extract_lets +onlyGivenNames y
        have hy : fr.Keeps y.2.frame := by simp [y, ht]
        clear_value y
        refine keeps_ite (by simp [hy]) ?_
        have hz := macXlate_frame y.2 (slotVa q y.1 b.cap) Need.write (fun t => t != .io)
        generalize y.2.macXlate (slotVa q y.1 b.cap) Need.write (fun t => t != .io) = found at hz ⊢
        obtain ⟨z, u⟩ := found
        change u.frame = y.2.frame at hz
        rw [← hz] at hy
        cases z with
        | ok z => exact macRelease_keeps (fun t ht => keeps_ite (by simp [ht]) (by simp [ht])) hy
        | _ => simp [hy]
    | _ => simp [ht]

@[simp] theorem State.binTick_keeps {fr : Frame} (s : State) (h : Hdr) (f : XFields) (hs : fr.Keeps s.frame) : fr.Keeps (s.binTick h f).frame :=
  macroTick_keeps (fun t m ht => binStep_keeps h s.binSet t m ht) hs

@[simp] theorem State.faultWindows_frame (s : State) (r : WaveRef) (m : BitVec 64) (reg : Nat) : (s.faultWindows r m reg).frame = s.frame := by
  unfold State.faultWindows
  repeat' split
  all_goals simp

theorem execBin_keeps (h : Hdr) (f : XFields) (s : State) : Res.Keeps s.frame (execBin h f s) := by
  obtain ⟨windows, hwindows⟩ := exists_eq (a' := State.windows)
  obtain ⟨check, hcheck⟩ := exists_eq (a' := @State.memCheck)
  rw [(by delta execBin; rfl : execBin = _), ← hwindows, ← hcheck]
  dsimp only
  refine Res.keeps_of_ite (by simp) ?_
  split
  · simp
  · split
    · simp
    · refine Res.keeps_of_ite (by simp) ?_
      split
      next hc => simp [State.frame_of_memCheck_stop (hcheck ▸ hc)]
      next hc =>
        have hframe := State.frame_of_memCheck_ok (hcheck ▸ hc)
        split
        · simp [hframe]
        · split
          · simp [hframe]
          · simp [hframe]

theorem execBinQueuePush_keeps (r : WaveRef) (s : State) : Res.Keeps s.frame (execBinQueuePush r s) := by
  dsimp only [execBinQueuePush]
  repeat' split
  all_goals simp

@[simp] theorem State.mcallLane_frame (h : Hdr) (f : XFields) (img : Microcode) (s : State) (m : MacLane) :
    (State.mcallLane h f img s m).frame = s.frame := by
  simp [State.mcallLane]

theorem execMcall_keeps (h : Hdr) (f : XFields) (s : State) : Res.Keeps s.frame (execMcall h f s) := by
  unfold execMcall
  extract_lets slot img n form ws
  clear_value img
  refine Res.keeps_of_ite ?_ (Res.keeps_of_ite (by simp) ?_)
  · cases img with
    | none => simp
    | some m => exact State.macroTick_keeps (fun t m ht => by simp [ht]) s.frame.keeps_refl
  · split <;> simp

end Sys2Proof.Machine
end

section
/-! PROOF. O56, O57: TRAV, and the frame. -/

namespace Sys2Proof.Machine

theorem State.macPieces_keeps {fr : Frame} {s : State} {l : Nat} {typeOk : MType → Bool} {ps : List (Nat × Nat)} {acc sh : Nat}
    {k : Nat → State → State} (hk : ∀ n t, fr.Keeps t.frame → fr.Keeps (k n t).frame) (hs : fr.Keeps s.frame) :
    fr.Keeps (s.macPieces l typeOk ps acc sh k).frame := by
  obtain ⟨xlate, hxlate⟩ := exists_eq (a' := State.macXlate)
  have hframe : ∀ s va need typeOk, (xlate s va need typeOk).2.frame = s.frame := hxlate ▸ macXlate_frame
  delta State.macPieces State.macPieces._f
  rw [← hxlate]
  induction ps generalizing s acc sh with
  | nil => exact hk acc s hs
  | cons p rest ih =>
    obtain ⟨va, n⟩ := p
    dsimp -zeta only
    dsimp -zeta only at ih
    have hx := hframe s va Need.read typeOk
    generalize xlate s va Need.read typeOk = found at hx ⊢
    obtain ⟨x, t⟩ := found
    change t.frame = s.frame at hx
    rw [← hx] at hs
    cases x with
    | ok x =>
      dsimp -zeta only
      split
      · simp [hs]
      · exact keeps_ite (by simp [hs]) (ih (by simp [hs]))
    | _ => simp [hs]

theorem State.macGet_keeps {fr : Frame} {s : State} {l va n : Nat} {k : Nat → State → State} (hk : ∀ n t, fr.Keeps t.frame → fr.Keeps (k n t).frame)
    (hs : fr.Keeps s.frame) :
    fr.Keeps (s.macGet l va n k).frame :=
  macPieces_keeps hk hs

@[simp] theorem State.macEnd_frame (s : State) (h : Hdr) (m : MacLane) (reason : Nat) : (s.macEnd h m reason).frame = s.frame := (rfl)

theorem State.instGet_keeps {fr : Frame} {s : State} {m : MacLane} {ref : Nat} {k : Nat → State → State}
    (hk : ∀ n t, fr.Keeps t.frame → fr.Keeps (k n t).frame) (hs : fr.Keeps s.frame) :
    fr.Keeps (s.instGet m ref k).frame := by
  unfold State.instGet
  extract_lets tag data
  split
  · exact hk _ s hs
  · exact macGet_keeps (fun n t ht => hk n _ (by rwa [updCur_frame])) hs

theorem State.structGet_keeps {fr : Frame} {s : State} {h : Hdr} {m : MacLane} {lvl : Nat} {k : Nat → Option Ray → State → State}
    (hk : ∀ n ray t, fr.Keeps t.frame → fr.Keeps (k n ray t).frame) (hs : fr.Keeps s.frame) :
    fr.Keeps (s.structGet h m lvl k).frame :=
  keeps_ite (hk _ _ s hs) (instGet_keeps (fun n t ht => keeps_ite (by simp [ht]) (hk _ _ _ (by simp [ht]))) hs)

theorem State.travList_keeps {fr : Frame} {s : State} {h : Hdr} {m : MacLane} {k : List Nat → State → State}
    (hk : ∀ refs t, fr.Keeps t.frame → fr.Keeps (k refs t).frame) (hs : fr.Keeps s.frame) :
    fr.Keeps (s.travList h m k).frame := by
  unfold State.travList
  extract_lets cur lvl
  split
  · refine structGet_keeps (fun base ray t ht => macGet_keeps (fun n t ht => ?_) ht) hs
    split
    · simp [ht]
    · exact hk _ t ht
  · exact keeps_ite (by simp [hs]) (instGet_keeps (fun n t ht => keeps_ite (by simp [ht]) (hk _ t ht)) hs)
  · exact hk [] s hs

@[simp] theorem State.macWin_frame (s : State) (m : MacLane) (win : Nat) : (s.macWin m win).frame = s.frame := (rfl)

@[simp] theorem State.travPopLane_frame (s : State) (h : Hdr) (m : MacLane) (win : Nat) : (s.travPopLane h m win).frame = s.frame := by
  unfold State.travPopLane
  split <;> simp

theorem State.pubGet_keeps {fr : Frame} {s : State} {h : Hdr} {m : MacLane} {k : Nat → Option Nat → State → State}
    (hk : ∀ n ref t, fr.Keeps t.frame → fr.Keeps (k n ref t).frame) (hs : fr.Keeps s.frame) :
    fr.Keeps (s.pubGet h m k).frame := by
  unfold State.pubGet
  extract_lets cur lvl
  refine structGet_keeps (fun base ray t ht => ?_) hs
  extract_lets +onlyGivenNames node
  refine macGet_keeps (fun n t ht => ?_) ht
  extract_lets +onlyGivenNames pub
  refine keeps_ite (by simp [ht]) ?_
  have hx := macXlate_frame t pub Need.read (fun _ => true)
  generalize t.macXlate pub Need.read (fun _ => true) = found at hx ⊢
  obtain ⟨x, u⟩ := found
  change u.frame = t.frame at hx
  rw [← hx] at ht
  cases x with
  | ok x =>
    dsimp -zeta only
    extract_lets +onlyGivenNames core
    split
    · simp [ht]
    · refine keeps_ite (by simp [ht]) ?_
      extract_lets +onlyGivenNames v y ts w n
      have hv : fr.Keeps v.frame := keeps_ite (by simp [ht]) ht
      have hy : fr.Keeps y.2.frame := by
        unfold y
        split
        · exact hv
        · simp [hv]
      have hw : fr.Keeps w.frame := by simp [w, hy]
      clear_value n w
      exact keeps_ite (hk _ _ w hw) (keeps_ite (by simp [hw]) (hk _ _ w hw))
  | _ => simp [ht]

@[simp] theorem State.travWalk_keeps {fr : Frame} (s : State) (h : Hdr) (m : MacLane) (hs : fr.Keeps s.frame) : fr.Keeps (s.travWalk h m).frame := by
  unfold State.travWalk
  extract_lets go
  have hgo : ∀ m l t, fr.Keeps t.frame → fr.Keeps (go m l t).frame := fun m l t ht => by simp [go, ht]
  refine keeps_ite (pubGet_keeps (fun n ref t ht => ?_) hs) (travList_keeps (hgo m) hs)
  cases ref with
  | none => exact hgo m [] t ht
  | some ref => exact keeps_ite (by simp [ht]) (travList_keeps (hgo _) ht)

@[simp] theorem State.travTriangle_keeps {fr : Frame} (s : State) (h : Hdr) (f : XFields) (m : MacLane) (hs : fr.Keeps s.frame) :
    fr.Keeps (s.travTriangle h f m).frame := by
  unfold State.travTriangle
  extract_lets w cur i
  refine structGet_keeps (fun base ray t ht => macGet_keeps (fun n t ht => ?_) ht) hs
  extract_lets +onlyGivenNames count
  refine keeps_ite (by simp [ht]) (keeps_ite (by simp [ht]) (macGet_keeps (fun v t ht => ?_) ht))
  extract_lets +onlyGivenNames hit
  clear_value hit
  split <;> simp [ht]

@[simp] theorem State.travBrick_keeps {fr : Frame} (s : State) (h : Hdr) (f : XFields) (m : MacLane) (hs : fr.Keeps s.frame) :
    fr.Keeps (s.travBrick h f m).frame := by
  unfold State.travBrick
  extract_lets w cur
  refine structGet_keeps (fun base ray t ht => macGet_keeps (fun n t ht => ?_) ht) hs
  split
  · refine keeps_ite (by simp [ht]) ?_
    extract_lets +onlyGivenNames b leave
    have hleave : ∀ win, fr.Keeps (leave win).frame := fun win => by simp [leave, ht]
    clear_value leave
    split
    · exact hleave w
    · extract_lets +onlyGivenNames v tc tv
      refine keeps_ite (hleave w) (keeps_ite ?_ ?_)
      · extract_lets u w'
        refine keeps_ite ?_ (by simp [u, ht])
        split <;> simp [u, ht]
      · split
        · exact hleave w
        · simp [ht]
  · simp [ht]

@[simp] theorem State.travStep_keeps {fr : Frame} (h : Hdr) (f : XFields) (s : State) (m : MacLane) (hs : fr.Keeps s.frame) :
    fr.Keeps (State.travStep h f s m).frame := by
  unfold State.travStep
  extract_lets +onlyGivenNames w cur
  refine keeps_ite (by simp [hs]) (keeps_ite (by simp [hs]) ?_)
  split
  · simp [hs]
  · simp [hs]
  · refine pubGet_keeps (fun n ref t ht => ?_) hs
    cases ref <;> simp [ht]
  · refine travList_keeps (fun refs t ht => ?_) hs
    cases refs <;> simp [ht]

theorem execTrav_keeps (h : Hdr) (f : XFields) (s : State) : Res.Keeps s.frame (execTrav h f s) := by
  obtain ⟨windows, hwindows⟩ := exists_eq (a' := State.windows)
  rw [(by delta execTrav; rfl : execTrav = _), ← hwindows]
  dsimp only
  refine Res.keeps_of_ite (State.macroTick_keeps (fun t m ht => by simp [ht]) s.frame.keeps_refl) (Res.keeps_of_ite (by simp) ?_)
  split <;> simp

theorem execTravSet_keeps (h : Hdr) (f : XFields) (s : State) : Res.Keeps s.frame (execTravSet h f s) := by
  obtain ⟨windows, hwindows⟩ := exists_eq (a' := State.windows)
  rw [(by delta execTravSet; rfl : execTravSet = _), ← hwindows]
  dsimp only
  split <;> simp

end Sys2Proof.Machine
end

section
/-! PROOF. O56, O57: FILT, and slice stops, and the frame. -/

namespace Sys2Proof.Machine

theorem State.readTexels_keeps {fr : Frame} {s : State} {l : Nat} {t : Texture} {taps : List Tap} {acc : List (Frac × List Val)}
    {k : List (Frac × List Val) → State → State} (hk : ∀ ts t, fr.Keeps t.frame → fr.Keeps (k ts t).frame) (hs : fr.Keeps s.frame) :
    fr.Keeps (s.readTexels l t taps acc k).frame := by
  induction taps generalizing s acc with
  | nil => exact hk acc s hs
  | cons tap rest ih => exact macGet_keeps (fun x t ht => ih ht) hs

@[simp] theorem State.filtStep_keeps {fr : Frame} (h : Hdr) (f : XFields) (s : State) (m : MacLane) (hs : fr.Keeps s.frame) :
    fr.Keeps (State.filtStep h f s m).frame := by
  unfold State.filtStep
  extract_lets done put
  refine macGet_keeps (fun d t ht => ?_) hs
  extract_lets +onlyGivenNames texture
  refine keeps_ite (by simp [ht]) ?_
  split
  · simp [done, ht]
  · exact readTexels_keeps (fun ts t ht => by simp [done, ht]) ht

theorem execFilt_keeps (h : Hdr) (f : XFields) (s : State) : Res.Keeps s.frame (execFilt h f s) := by
  obtain ⟨windows, hwindows⟩ := exists_eq (a' := State.windows)
  rw [(by delta execFilt; rfl : execFilt = _), ← hwindows]
  dsimp only
  refine Res.keeps_of_ite (State.macroTick_keeps (fun t m ht => by simp [ht]) s.frame.keeps_refl) (Res.keeps_of_ite (by simp) ?_)
  split <;> simp

theorem execFiltSet_keeps (h : Hdr) (f : XFields) (s : State) : Res.Keeps s.frame (execFiltSet h f s) := by
  obtain ⟨windows, hwindows⟩ := exists_eq (a' := State.windows)
  rw [(by delta execFiltSet; rfl : execFiltSet = _), ← hwindows]
  dsimp only
  refine Res.keeps_of_ite (by simp) ?_
  split <;> simp

@[simp] theorem State.sliceStop_keeps {fr : Frame} (s : State) (p : Prog) (hs : fr.Keeps s.frame) : fr.Keeps (s.sliceStop p).frame := by
  unfold State.sliceStop
  split
  · exact drainStep_keeps s _ _ _ hs
  iterate 6 exact macroTick_keeps (fun t _ ht => ht) hs
  · exact hs

theorem execMacroSliceStop_keeps (r : WaveRef) (s : State) : Res.Keeps s.frame (execMacroSliceStop r s) := by
  dsimp only [execMacroSliceStop]
  repeat' split
  all_goals simp

end Sys2Proof.Machine
end

section
/-! PROOF. O56, O57: the placing of teams, and the frame. -/

namespace Sys2Proof.Machine

@[simp] theorem State.freshCores_frame (s : State) (p : Place) : (s.freshCores p).frame = s.frame := by
  simp [State.freshCores]

@[simp] theorem State.placeTeam_frame (s : State) (l : Launch) (rank : Nat) (p : Place) : (s.placeTeam l rank p).frame = s.frame := by
  simp [State.placeTeam]

@[simp] theorem State.standFormed_frame (s : State) (l : Launch) (x : Formed) (p : Place) : (s.standFormed l x p).frame = s.frame := by
  simp [State.standFormed]

@[simp] theorem State.placeFormed_frame (s : State) (l : Launch) (x : Formed) (p : Place) : (s.placeFormed l x p).frame = s.frame := by
  simp [State.placeFormed]

@[simp] theorem State.admitLaunch_frame (s : State) (b : Block) (replay node : Nat) (unplaced : List Nat) :
    (s.admitLaunch b replay node unplaced).2.frame = s.frame := (rfl)

@[simp] theorem State.checkFit_frame (s : State) (id : Nat) : (s.checkFit id).frame = s.frame := by
  unfold State.checkFit
  split <;> simp

end Sys2Proof.Machine
end

section
/-! PROOF. O56, O57: tasks, hardware queues and formed waves, and the frame. -/

namespace Sys2Proof.Machine

theorem State.blockAt_keeps {fr : Frame} {s : State} {i : Instr} {h : Hdr} {l va : Nat} {k : State → Block → State}
    (hk : ∀ t b, fr.Keeps t.frame → fr.Keeps (k t b).frame) (hs : fr.Keeps s.frame) :
    fr.Keeps (s.blockAt i h l va k).frame := by
  unfold State.blockAt
  extract_lets +onlyGivenNames reqs
  clear_value reqs
  split
  next hc => simpa [frame_of_memCheck_stop hc] using hs
  next hc =>
    rw [← frame_of_memCheck_ok hc] at hs
    split
    · simp [hs]
    · exact hk _ _ (foldl_snd_keeps (fun acc x hs => by simp [hs]) _ hs)

@[simp] theorem State.taskRecords_keeps {fr : Frame} (s : State) (i : Instr) (h : Hdr) (f : VFields) (id : Nat) (hs : fr.Keeps s.frame) :
    fr.Keeps (s.taskRecords i h f id).frame := by
  unfold State.taskRecords
  extract_lets w b act deps me replay
  clear_value deps
  exact deposit_keeps (fun t ht => by simp [ht]) hs

@[simp] theorem State.orUndo_frame (s old : State) (id : Nat) : (s.orUndo old id).frame = s.frame := by
  unfold State.orUndo
  split <;> simp

@[simp] theorem State.taskFit_frame (s : State) (id : Nat) : (s.taskFit id).frame = s.frame := by
  unfold State.taskFit
  split <;> simp

theorem execTaskpush_keeps (h : Hdr) (f : VFields) (s : State) : Res.Keeps s.frame (execTaskpush h f s) := by
  obtain ⟨low, hlow⟩ := exists_eq (a' := lowestLane)
  rw [(by delta execTaskpush; rfl : execTaskpush = _), ← hlow]
  extract_lets +onlyGivenNames i m
  split
  · simp
  · refine State.afterWrites_keeps (fun t ht => State.blockAt_keeps (fun t b ht => ?_) ht) s.frame.keeps_refl
    refine State.keeps_ite (by simp [ht]) (State.keeps_ite (by simp [ht]) ?_)
    split
    · simp [ht]
    · extract_lets mine q u
      have hu : t.frame.Keeps u.frame := by simp [u, q]
      simp [ht.trans hu]

theorem State.binSetAt_keeps {fr : Frame} {s : State} {i : Instr} {h : Hdr} {f : MFields} {l : Nat} {k : State → BinSet → State}
    (hk : ∀ t b, fr.Keeps t.frame → fr.Keeps (k t b).frame) (hs : fr.Keeps s.frame) :
    fr.Keeps (s.binSetAt i h f l k).frame := by
  unfold State.binSetAt
  extract_lets +onlyGivenNames va bad
  refine keeps_ite (by simp [hs]) ?_
  split
  next hc => simpa [frame_of_memCheck_stop hc] using hs
  next hc =>
    rw [← frame_of_memCheck_ok hc] at hs
    split
    · exact hs
    · split
      · simp [hs]
      · refine keeps_ite (by simp [hs]) ?_
        extract_lets +onlyGivenNames y
        have hy : fr.Keeps y.2.frame := by simp [y, hs]
        exact keeps_ite (by simp [hy]) (hk _ _ hy)

theorem execHqpush_keeps (h : Hdr) (f : MFields) (s : State) : Res.Keeps s.frame (execHqpush h f s) := by
  obtain ⟨low, hlow⟩ := exists_eq (a' := lowestLane)
  obtain ⟨check, hcheck⟩ := exists_eq (a' := @State.memCheck)
  obtain ⟨lanes, hlanes⟩ := exists_eq (a' := lanesOf)
  rw [(by delta execHqpush; rfl : execHqpush = _), ← hlow, ← hcheck, ← hlanes]
  extract_lets +onlyGivenNames i m
  split
  · simp
  · refine State.afterWrites_keeps (fun t ht => State.binSetAt_keeps (fun t b ht => ?_) ht) s.frame.keeps_refl
    extract_lets +onlyGivenNames w act bin
    refine State.keeps_ite (by simp [ht]) ?_
    extract_lets +onlyGivenNames hreqs
    split
    next hc => simpa [State.frame_of_memCheck_stop (hcheck ▸ hc)] using ht
    next hc =>
      rw [← State.frame_of_memCheck_ok (s := t) (hcheck ▸ hc)] at ht
      extract_lets +onlyGivenNames r plan go sreqs
      have hr : s.frame.Keeps r.2.frame := foldl_snd_keeps (fun acc x hs => by simp [hs]) _ ht
      clear_value sreqs go plan r
      split
      next hc => simpa [State.frame_of_memCheck_stop (hcheck ▸ hc)] using hr
      next hc =>
        rw [← State.frame_of_memCheck_ok (s := r.2) (hcheck ▸ hc)] at hr
        split
        · simp [hr]
        · extract_lets v lost x
          have hx : s.frame.Keeps x.frame := by
            simpa [x] using foldl_keeps (fun s p hs => State.pushSlot_keeps s _ _ _ _ _ hs) _ hr
          exact State.keeps_ite (by simp [hx]) (by simp [hx])

theorem State.popScan_keeps {fr : Frame} {s : State} {i : Instr} {h : Hdr} {l : Nat} {b : BinSet} {acc : List Popped} {n : Nat}
    {k : State → List Popped → State} {bins : List (Nat × Nat)} (hk : ∀ t ps, fr.Keeps t.frame → fr.Keeps (k t ps).frame) (hs : fr.Keeps s.frame) :
    fr.Keeps (s.popScan i h l b acc n k bins).frame := by
  induction bins generalizing s acc n with
  | nil => exact hk s acc hs
  | cons p rest ih =>
    rw [State.popScan]
    refine keeps_ite (hk s acc hs) ?_
    extract_lets +onlyGivenNames q
    split
    next hc => simpa [frame_of_memCheck_stop hc] using hs
    next hc =>
      rw [← frame_of_memCheck_ok hc] at hs
      split
      · exact hs
      · split
        · simp [hs]
        · refine keeps_ite (by simp [hs]) (afterClean_keeps (fun t ht => ih (by simp [ht])) hs)

@[simp] theorem State.takeRecord_keeps {fr : Frame} (s : State) (l : Nat) (p : Popped) (sx : Xlat) (hs : fr.Keeps s.frame) :
    fr.Keeps (s.takeRecord l p sx).2.frame := by
  unfold State.takeRecord
  extract_lets y z ts t c u
  have hz : fr.Keeps z.2.frame := by simp [z, y, hs]
  have hu : fr.Keeps u.frame := by simp [u, t, hz]
  simp [hu]

theorem execHqpop_keeps (h : Hdr) (f : MFields) (s : State) : Res.Keeps s.frame (execHqpop h f s) := by
  obtain ⟨low, hlow⟩ := exists_eq (a' := lowestLane)
  obtain ⟨lanes, hlanes⟩ := exists_eq (a' := lanesOf)
  rw [(by delta execHqpop; rfl : execHqpop = _), ← hlow, ← hlanes]
  extract_lets +onlyGivenNames i m
  split
  · simp
  · refine State.binSetAt_keeps (fun t b ht => State.popScan_keeps (fun t ps ht => ?_) ht) s.frame.keeps_refl
    extract_lets +onlyGivenNames sreqs
    split
    next hc => simpa [State.frame_of_memCheck_stop hc] using ht
    next hc =>
      rw [← State.frame_of_memCheck_ok hc] at ht
      split
      · simp [ht]
      · extract_lets +onlyGivenNames takes
        refine State.keeps_ite (by simp [ht]) (State.afterClean_keeps (fun t ht => ?_) ht)
        extract_lets +onlyGivenNames r
        have hr : s.frame.Keeps r.2.frame := foldl_snd_keeps (fun acc p hs => by simp [hs]) _ ht
        clear_value r
        dsimp only
        simp [hr]

@[simp] theorem State.burrowRead_frame (s : State) (core : Nat) (asn : BitVec 12) (r : BurrowRec) : (s.burrowRead core asn r).2.frame = s.frame := by
  refine foldl_snd_frame (fun acc j => ?_) _ _
  split
  · rfl
  · dsimp only
    split <;> simp

@[simp] theorem State.formWave_frame (s : State) (l : Launch) (pc : Word) (n : Nat) : (s.formWave l pc n).frame = s.frame := by
  unfold State.formWave
  extract_lets b recs
  split
  · rfl
  · extract_lets r
    have hr : r.2.frame = s.frame := by
      refine foldl_snd_frame (fun acc x => ?_) _ _
      split <;> simp
    clear_value r
    split
    · exact hr
    · simp [hr]

theorem execWaveForm_keeps (launch : Nat) (pc : BitVec 64) (s : State) : Res.Keeps s.frame (execWaveForm launch pc s) := by
  dsimp only [execWaveForm]
  repeat' split
  all_goals simp

theorem execPartialWaveTimeout_keeps (launch : Nat) (pc : BitVec 64) (s : State) : Res.Keeps s.frame (execPartialWaveTimeout launch pc s) := by
  dsimp only [execPartialWaveTimeout]
  repeat' split
  all_goals simp

end Sys2Proof.Machine
end

section
/-! PROOF. O56, O57: the dependence trace, and the frame. -/

namespace Sys2Proof.Machine

@[simp] theorem State.putTraceHdr_keeps {fr : Frame} (s : State) (set writer : Nat) (t : TraceHdr) (hs : fr.Keeps s.frame) :
    fr.Keeps (s.putTraceHdr set writer t).frame := by
  simp [State.putTraceHdr, hs]

@[simp] theorem State.clearMap_keeps {fr : Frame} (s : State) (d writer : Nat) (act : Bool) (hs : fr.Keeps s.frame) :
    fr.Keeps (s.clearMap d writer act).frame := by
  simp [State.clearMap, hs]

@[simp] theorem State.startTraced_keeps {fr : Frame} (s : State) (b : Block) (id : Nat) (hs : fr.Keeps s.frame) :
    fr.Keeps (s.startTraced b id).frame := by
  have hcleared : fr.Keeps ((s.clearMap (s.setDesc b.tset) id false).clearMap (s.setDesc b.tset) id true).frame := by simp [hs]
  exact keeps_ite hs (putTraceHdr_keeps _ _ _ _ hcleared)

@[simp] theorem State.relaunchSteps_keeps {fr : Frame} (s : State) (b : Block) (id : Nat) (rerun : List Nat) (hs : fr.Keeps s.frame) :
    fr.Keeps (s.relaunchSteps b id rerun).frame := by
  unfold State.relaunchSteps
  extract_lets d t hash n u v
  have hv : fr.Keeps v.frame := by simp [v, u, hs]
  simp [hv]

@[simp] theorem State.endTraced_keeps {fr : Frame} (s : State) (l : Launch) (done : Bool) (hs : fr.Keeps s.frame) :
    fr.Keeps (s.endTraced l done).frame := by
  simp [State.endTraced, hs]

@[simp] theorem State.writeTeamRecord_keeps {fr : Frame} (s : State) (t : Team) (hs : fr.Keeps s.frame) : fr.Keeps (s.writeTeamRecord t).frame := by
  simp [State.writeTeamRecord, hs]

theorem execTrmark_keeps (h : Hdr) (f : YFields) (s : State) : Res.Keeps s.frame (execTrmark h f s) := by
  obtain ⟨actor, hactor⟩ := exists_eq (a' := State.actor)
  rw [(by delta execTrmark; rfl : execTrmark = _), ← hactor]
  dsimp only
  split
  · simp
  · refine Res.keeps_of_ite (by simp) ?_
    split
    next hc => simp [State.frame_of_memCheck_stop hc]
    next hc => simp [State.frame_of_memCheck_ok hc]

theorem execRelaunch_keeps (h : Hdr) (f : YFields) (s : State) : Res.Keeps s.frame (execRelaunch h f s) := by
  obtain ⟨actor, hactor⟩ := exists_eq (a' := State.actor)
  rw [(by delta execRelaunch; rfl : execRelaunch = _), ← hactor]
  dsimp only
  split
  · simp
  · refine Res.keeps_of_ite (by simp) (State.afterWrites_keeps (fun t ht => State.blockAt_keeps (fun t b ht => ?_) ht) s.frame.keeps_refl)
    split <;> simp [ht]

@[simp] theorem State.relaunchFails_frame (s : State) (q : Relaunch) (st : Nat) : (s.relaunchFails q st).frame = s.frame := by
  dsimp only [State.relaunchFails]
  repeat' split
  all_goals simp

theorem execRelaunchStart_keeps (id : Nat) (s : State) : Res.Keeps s.frame (execRelaunchStart id s) := by
  dsimp only [execRelaunchStart]
  repeat' split
  all_goals simp

end Sys2Proof.Machine
end

section
/-! PROOF. O56, O57: launches, nodes and pre-emption, and the frame. -/

namespace Sys2Proof.Machine

theorem State.tableAt_keeps {fr : Frame} {s : State} {i : Instr} {h : Hdr} {l va n : Nat} {k : State → (Nat → Nat → Nat) → State}
    (hk : ∀ t rd, fr.Keeps t.frame → fr.Keeps (k t rd).frame) (hs : fr.Keeps s.frame) :
    fr.Keeps (s.tableAt i h l va n k).frame := by
  unfold State.tableAt
  extract_lets ps
  split
  next hc => simpa [frame_of_memCheck_stop hc] using hs
  next hc =>
    rw [← frame_of_memCheck_ok hc] at hs
    split
    · simp [hs]
    · extract_lets ms byte
      exact hk _ _ (foldl_keeps (fun s m hs => by simp [hs]) ms hs)

theorem execLaunch_keeps (h : Hdr) (f : YFields) (s : State) : Res.Keeps s.frame (execLaunch h f s) := by
  obtain ⟨actor, hactor⟩ := exists_eq (a' := State.actor)
  rw [(by delta execLaunch; rfl : execLaunch = _), ← hactor]
  dsimp only
  split
  · simp
  · refine Res.keeps_of_ite (by simp) (State.afterWrites_keeps (fun t ht => State.keeps_ite (by simp [ht]) ?_) s.frame.keeps_refl)
    exact State.tableAt_keeps (fun t rd ht => State.tableAt_keeps (fun t rd ht => by simp [ht]) ht) ht

@[simp] theorem State.cleanCores_keeps {fr : Frame} (s : State) (hs : fr.Keeps s.frame) : fr.Keeps s.cleanCores.frame :=
  foldl_keeps (fun _ c ht => keeps_ite ht (cleanAll_keeps _ c ht)) _ hs

@[simp] theorem State.closeLaunch_keeps {fr : Frame} (s : State) (l : Launch) (hs : fr.Keeps s.frame) : fr.Keeps (s.closeLaunch l).frame := by
  unfold State.closeLaunch
  extract_lets asn t u v
  have ht : fr.Keeps t.frame := foldl_keeps (fun s k hs => releaseKey_keeps s asn k hs) _ hs
  have hv : fr.Keeps v.frame := by simp [v, u, ht]
  clear_value v
  split <;> simp [hv]

@[simp] theorem State.closeOver_keeps {fr : Frame} (s : State) (hs : fr.Keeps s.frame) : fr.Keeps s.closeOver.frame := by
  refine foldl_keeps (fun t l ht => ?_) _ hs
  split
  · exact keeps_ite (closeLaunch_keeps t _ ht) ht
  · exact ht

theorem execKernelNodeComplete_keeps (replay node : Nat) (s : State) : Res.Keeps s.frame (execKernelNodeComplete replay node s) := by
  dsimp only [execKernelNodeComplete]
  repeat' split
  all_goals simp

@[simp] theorem State.startKernel_keeps {fr : Frame} (s : State) (replay node : Nat) (b : Block) (hs : fr.Keeps s.frame) :
    fr.Keeps (s.startKernel replay node b).frame := by
  simp [State.startKernel, hs]

@[simp] theorem State.startRelaunchNode_frame (s : State) (r : Replay) (node : Nat) (nd : Node) :
    (s.startRelaunchNode r node nd).frame = s.frame := by
  unfold State.startRelaunchNode
  split <;> simp

theorem execNodeStart_keeps (replay node : Nat) (s : State) : Res.Keeps s.frame (execNodeStart replay node s) := by
  dsimp only [execNodeStart]
  repeat' split
  all_goals simp

@[simp] theorem State.nodeHwerr_frame (s : State) (replay node word : Nat) (asn : BitVec 12) :
    (s.nodeHwerr replay node word asn).frame = s.frame := by
  simp [State.nodeHwerr]

@[simp] theorem State.nodeFault_frame (s : State) (replay node va reason level kind : Nat) (asn : BitVec 12) :
    (s.nodeFault replay node va reason level kind asn).frame = s.frame := by
  unfold State.nodeFault
  extract_lets q v
  rw [updNode_frame, pushRecord_frame, takeToken_frame]

theorem execCopyNodeDone_keeps (replay node : Nat) (s : State) : Res.Keeps s.frame (execCopyNodeDone replay node s) := by
  obtain ⟨xlate, hxlate⟩ := exists_eq (a' := State.nodeXlate)
  rw [(by delta execCopyNodeDone; rfl : execCopyNodeDone = _), ← hxlate]
  dsimp only
  split
  · simp
  · refine Res.keeps_of_ite (by simp) ?_
    split <;> simp

theorem execWaitNodeCheck_keeps (replay node : Nat) (s : State) : Res.Keeps s.frame (execWaitNodeCheck replay node s) := by
  obtain ⟨xlate, hxlate⟩ := exists_eq (a' := State.nodeXlate)
  rw [(by delta execWaitNodeCheck; rfl : execWaitNodeCheck = _), ← hxlate]
  dsimp only
  split
  · simp
  · split <;> simp

/-- Placing teams leaves the frame. -/
theorem State.placeAll_frame {s t : State} {l : Launch} {xs : List (Nat × Option Formed)} (ht : s.placeAll l xs = some t) : t.frame = s.frame := by
  induction xs generalizing s with
  | nil =>
    rw [State.placeAll, Option.some_inj] at ht
    rw [ht]
  | cons x rest ih =>
    obtain ⟨r, formed⟩ := x
    cases formed with
    | none =>
      rw [State.placeAll] at ht
      split at ht
      · cases ht
      · rw [ih ht, placeTeam_frame]
    | some y =>
      rw [State.placeAll] at ht
      split at ht
      · cases ht
      · rw [ih ht, placeFormed_frame]

theorem State.placeNext_frame {s t : State} {l : Launch} (ht : s.placeNext l = some t) : t.frame = s.frame := by
  unfold State.placeNext at ht
  repeat' split at ht
  · cases ht
  · exact placeAll_frame ht
  · exact placeAll_frame ht

/-- What comes of a choice, or of none, keeps to what both keep to. -/
theorem getD_keeps {fr : Frame} {o : Option State} {s : State} (ho : ∀ t, o = some t → fr.Keeps t.frame) (hs : fr.Keeps s.frame) :
    fr.Keeps (o.getD s).frame := by
  cases o with
  | none => exact hs
  | some t => exact ho t rfl

theorem execTeamPlace_keeps (s : State) : Res.Keeps s.frame (execTeamPlace s) := by
  unfold execTeamPlace
  split
  · simp
  · exact getD_keeps (fun t ht => by simp [State.placeNext_frame ht]) s.frame.keeps_refl

theorem execLaunchAgeing_keeps (launch : Nat) (s : State) : Res.Keeps s.frame (execLaunchAgeing launch s) := by
  dsimp only [execLaunchAgeing]
  repeat' split
  all_goals simp

theorem execPoolReassign_keeps (s : State) : Res.Keeps s.frame (execPoolReassign s) := by
  dsimp only [execPoolReassign]
  repeat' split
  all_goals simp

/-- What holds of every entry still holds of every entry once one of them is set to what it holds of. -/
theorem listSet_forall {α : Type} {p : α → Prop} {f : α → α} (hf : ∀ x, p x → p (f x)) {l : List α} (hl : ∀ x ∈ l, p x) (i : Nat) :
    ∀ x ∈ listSet l i f, p x := by
  induction l generalizing i with
  | nil => exact hl
  | cons x r ih =>
    obtain ⟨hx, hr⟩ := List.forall_mem_cons.mp hl
    cases i with
    | zero => exact List.forall_mem_cons.mpr ⟨hf x hx, hr⟩
    | succ i => exact List.forall_mem_cons.mpr ⟨hx, ih hr i⟩

/-- A die may take any step that a pool may have. -/
theorem State.updDie_keeps {fr : Frame} {s : State} {f : Die → Die} (i : Nat) (hf : ∀ d, d.step ≤ 6 → (f d).step ≤ 6) (hs : fr.Keeps s.frame) :
    fr.Keeps (s.updDie i f).frame := by
  refine ⟨hs.memory, fun hl => ?_⟩
  obtain ⟨hcores, hrings, hports, hdies, hsteps, hfails⟩ := hs.limits hl
  have hlength : s.dies.length = 8 := by simpa [State.frame] using hdies
  have hall : ∀ d ∈ s.dies, d.step ≤ 6 := by simpa [State.frame] using hsteps
  refine ⟨hcores, hrings, hports, ?_, ?_, hfails⟩
  · simp [State.frame, State.updDie, listSet_length, hlength]
  · simpa [State.frame, State.updDie] using listSet_forall hf hall i

theorem execPoolReassignDone_keeps (pool : Nat) (s : State) : Res.Keeps s.frame (execPoolReassignDone pool s) := by
  unfold execPoolReassignDone
  split
  · simp
  · extract_lets cls t
    have ht : s.frame.Keeps t.frame := State.updDie_keeps pool (fun d _ => Nat.zero_le 6) s.frame.keeps_refl
    simp [mapFrom_length, ht]

@[simp] theorem State.setPhase_frame (s : State) (uid : Nat) (p : Phase) : (s.setPhase uid p).frame = s.frame := (rfl)

theorem State.preempt_frame {s t : State} {v : Team} {drain : Bool} (ht : s.preempt v drain = some t) : t.frame = s.frame := by
  unfold State.preempt at ht
  extract_lets b all at ht
  repeat' split at ht
  · cases ht; simp
  · cases ht; simp
  · cases ht; simp
  · cases ht

theorem State.preemptFor_frame {s t : State} {id : Nat} {v : Team} (ht : s.preemptFor id v = some t) : t.frame = s.frame := by
  obtain ⟨u, hu, rfl⟩ := Option.map_eq_some_iff.mp ht
  simp [preempt_frame hu]

@[simp] theorem State.serve_frame (l : Launch) (n : Nat) (s : State) : (State.serve l n s).frame = s.frame := by
  induction n generalizing s with
  | zero => rfl
  | succ n ih =>
    rw [State.serve]
    split
    · rfl
    · split
      next ht =>
        obtain ⟨v, -, ht⟩ := List.exists_of_findSome?_eq_some ht
        rw [ih, preemptFor_frame ht]
      · rfl

theorem execTimeSliceExpiry_keeps (team : Nat) (s : State) : Res.Keeps s.frame (execTimeSliceExpiry team s) := by
  unfold execTimeSliceExpiry
  split
  · simp
  · extract_lets own t
    split
    · simp
    · simp [t]

theorem execDrainTimeout_keeps (team : Nat) (s : State) : Res.Keeps s.frame (execDrainTimeout team s) := by
  unfold execDrainTimeout
  split
  · simp
  next t _ =>
    exact Res.keeps_of_ite (getD_keeps (fun u hu => by simp [State.preempt_frame hu]) (by simp)) (by simp)

end Sys2Proof.Machine
end

section
/-! PROOF. O56, O57: saving, flushing and restoring teams, and the frame. -/

namespace Sys2Proof.Machine

@[simp] theorem State.putFields_keeps {fr : Frame} (s : State) (a : Nat) (l : List (Nat × Nat × Nat)) (hs : fr.Keeps s.frame) :
    fr.Keeps (s.putFields a l).frame :=
  foldl_keeps (fun s _ hs => homeWrite_keeps s _ _ _ _ _ hs) l hs

@[simp] theorem State.saveWave_keeps {fr : Frame} (s : State) (a width vregs : Nat) (w : Wave) (hs : fr.Keeps s.frame) :
    fr.Keeps (s.saveWave a width vregs w).frame := by
  unfold State.saveWave
  extract_lets hw t u v x
  have ht : fr.Keeps t.frame := by simp [t, hs]
  have hx : fr.Keeps x.frame := homeStore_keeps v _ _ _ _ (putFields_keeps u _ _ (putFields_keeps t _ _ ht))
  exact foldl_keeps (fun s l hs => homeStore_keeps _ _ _ _ _ (homeWrite_keeps s _ _ _ _ _ hs)) _ hx

@[simp] theorem State.saveImage_keeps {fr : Frame} (s : State) (t : Team) (a : Nat) (hs : fr.Keeps s.frame) : fr.Keeps (s.saveImage t a).frame := by
  unfold State.saveImage
  extract_lets b n side two ty s₁ s₂ s₃ s₄ s₅ s₆
  have h₂ : fr.Keeps s₂.frame := putFields_keeps s₁ _ _ (homeStore_keeps s _ _ _ _ hs)
  have h₄ : fr.Keeps s₄.frame := putFields_keeps s₃ _ _ (putFields_keeps s₂ _ _ h₂)
  have h₅ : fr.Keeps s₅.frame := putFields_keeps s₄ _ _ h₄
  have h₆ : fr.Keeps s₆.frame := by
    refine foldl_keeps (fun u c hu => ?_) _ h₅
    exact homeStore_keeps _ _ _ _ _ (homeStore_keeps _ _ _ _ _ (homeStore_keeps _ _ _ _ _ (putFields_keeps u _ _ hu)))
  exact foldl_keeps (fun s w hs => saveWave_keeps s _ _ _ w hs) _ h₆

@[simp] theorem State.leave_keeps {fr : Frame} (s : State) (uid : Nat) (hs : fr.Keeps s.frame) : fr.Keeps (s.leave uid).frame := by
  simp [State.leave, hs]

@[simp] theorem State.dropSites_frame (s : State) (uid : Nat) : (s.dropSites uid).frame = s.frame := by
  simp [State.dropSites]

theorem execTeamFlush_keeps (team : Nat) (s : State) : Res.Keeps s.frame (execTeamFlush team s) := by
  dsimp only [execTeamFlush]
  repeat' split
  all_goals simp

theorem execTeamSave_keeps (team : Nat) (s : State) : Res.Keeps s.frame (execTeamSave team s) := by
  unfold execTeamSave
  split
  · simp
  · split
    · refine Res.keeps_of_ite (by simp) ?_
      split
      · simp
      next a _ =>
        extract_lets u v parks img w x
        have hv : s.frame.Keeps v.frame := State.saveImage_keeps u _ a (foldl_keeps (fun s c hs => State.cleanFree_keeps s c hs) _ s.frame.keeps_refl)
        have hw : s.frame.Keeps w.frame := State.leave_keeps v team hv
        have hx : s.frame.Keeps x.frame := by simp [x, hw]
        refine foldl_keeps (fun s c hs => ?_) _ hx
        split
        · exact State.imageReply_keeps s _ _ _ _ _ _ hs
        · exact hs
    · simp

@[simp] theorem State.lateTraps_frame (n : Nat) (r : WaveRef) (s : State) : (State.lateTraps n r s).frame = s.frame := by
  induction n generalizing s with
  | zero => rfl
  | succ n ih =>
    rw [State.lateTraps]
    split
    · rfl
    · extract_lets late
      split
      · rfl
      · rw [ih, undelivered_frame]

@[simp] theorem State.late_frame (s : State) (r : WaveRef) : (s.late r).frame = s.frame :=
  lateTraps_frame 64 r s

theorem State.restoreOne_keeps {fr : Frame} {s t : State} {i : Image} (hs : fr.Keeps s.frame) (ht : s.restoreOne i = some t) : fr.Keeps t.frame := by
  unfold State.restoreOne at ht
  split at ht
  · cases ht
  · cases ht
    refine foldl_keeps (fun s k hs => by simp [hs]) _ ?_
    simp [hs]

theorem execTeamRestore_keeps (image : Nat) (s : State) : Res.Keeps s.frame (execTeamRestore image s) := by
  unfold execTeamRestore
  split
  · simp
  · split
    · simp
    · extract_lets all
      refine Res.keeps_of_ite (by simp) ?_
      refine getD_keeps ?_ s.frame.keeps_refl
      refine List.foldlRecOn (motive := fun o : Option State => ∀ t, o = some t → s.frame.Keeps t.frame) _ _ ?_ (fun o ho i _ t ht => ?_)
      · rintro t ⟨⟩
        exact s.frame.keeps_refl
      · obtain ⟨u, hu, ht⟩ := Option.bind_eq_some_iff.mp ht
        exact State.restoreOne_keeps (ho u hu) ht

end Sys2Proof.Machine
end

section
/-! PROOF. O56, O57: the device events, and the frame. -/

namespace Sys2Proof.Machine

theorem execWalkDispatch_keeps (die : Nat) (s : State) : Res.Keeps s.frame (execWalkDispatch die s) := by
  dsimp only [execWalkDispatch]
  repeat' split
  all_goals simp

@[simp] theorem State.engineLearns_frame (s : State) (page : Nat) (x : XEntry) (e : Engine) : (s.engineLearns page x e).frame = s.frame := by
  cases e <;> simp [State.engineLearns]

@[simp] theorem State.walkEnds_frame (s : State) (die k : Nat) (m : Miss) (res : Walk) : (s.walkEnds die k m res).frame = s.frame := by
  unfold State.walkEnds
  extract_lets t cores u x v
  have ht : t.frame = s.frame := by simp [t]
  have hu : u.frame = t.frame := by
    unfold u
    split <;> simp
  simp [v, hu, ht]

theorem execTlbWalkComplete_keeps (die : Nat) (walk : Nat × Option Nat) (s : State) : Res.Keeps s.frame (execTlbWalkComplete die walk s) := by
  dsimp only [execTlbWalkComplete]
  repeat' split
  all_goals simp

theorem execTlbicmd_keeps (value : BitVec 64) (s : State) : Res.Keeps s.frame (execTlbicmd value s) := by
  simp [execTlbicmd]

theorem execTlbInvalidationDone_keeps (s : State) : Res.Keeps s.frame (execTlbInvalidationDone s) := by
  simp [execTlbInvalidationDone]

theorem execMicrocodeLoad_keeps (slot : BitVec 6) (s : State) : Res.Keeps s.frame (execMicrocodeLoad slot s) := by
  simp [execMicrocodeLoad]

theorem execMicrocodeUnload_keeps (slot : BitVec 6) (s : State) : Res.Keeps s.frame (execMicrocodeUnload slot s) := by
  simp [execMicrocodeUnload]

theorem execMicrocodeReplace_keeps (s : State) : Res.Keeps s.frame (execMicrocodeReplace s) := by
  dsimp only [execMicrocodeReplace]
  repeat' split
  all_goals simp

theorem execKick_keeps (value : BitVec 64) (s : State) : Res.Keeps s.frame (execKick value s) := by
  simp [execKick]

theorem execGraphUpload_keeps (s : State) : Res.Keeps s.frame (execGraphUpload s) := by
  simp [execGraphUpload]

theorem execGraphFree_keeps (handle : BitVec 16) (s : State) : Res.Keeps s.frame (execGraphFree handle s) := by
  simp [execGraphFree]

@[simp] theorem State.recordWritten_frame (s : State) (rec : List Word) : (s.recordWritten rec).frame = s.frame := by
  unfold State.recordWritten
  split <;> simp

theorem execRingRecordWrite_keeps (ring : Nat) (s : State) : Res.Keeps s.frame (execRingRecordWrite ring s) := by
  dsimp only [execRingRecordWrite]
  repeat' split
  all_goals simp

theorem execRcfgEnable_keeps (ring : Nat) (log2n : BitVec 5) (s : State) : Res.Keeps s.frame (execRcfgEnable ring log2n s) := by
  simp [execRcfgEnable]

theorem execRcfgDisable_keeps (ring : Nat) (s : State) : Res.Keeps s.frame (execRcfgDisable ring s) := by
  simp [execRcfgDisable]

theorem execRheadWrite_keeps (ring : Nat) (value : BitVec 32) (s : State) : Res.Keeps s.frame (execRheadWrite ring value s) := by
  simp [execRheadWrite]

theorem execRegisterWrite_keeps (pa n : Nat) (value : BitVec 64) (s : State) : Res.Keeps s.frame (execRegisterWrite pa n value s) := by
  simp [execRegisterWrite]

theorem execHostBar2Write_keeps (off : Nat) (data : List (BitVec 8)) (s : State) : Res.Keeps s.frame (execHostBar2Write off data s) := by
  simp [execHostBar2Write]

theorem execHostBar2Read_keeps (off n : Nat) (s : State) : Res.Keeps s.frame (execHostBar2Read off n s) := by
  simp [execHostBar2Read]

theorem execPcieConfigWrite_keeps (reg : PcieReg) (s : State) : Res.Keeps s.frame (execPcieConfigWrite reg s) := by
  dsimp only [execPcieConfigWrite]
  repeat' split
  all_goals simp

theorem execLkctlTail_keeps (port : Nat) (tail : BitVec 32) (s : State) : Res.Keeps s.frame (execLkctlTail port tail s) := by
  simp [execLkctlTail]

theorem execLkctlEnable_keeps (port : Nat) (en : Bool) (s : State) : Res.Keeps s.frame (execLkctlEnable port en s) := by
  simp [execLkctlEnable]

theorem execLinkTrained_keeps (port : Nat) (width : BitVec 2) (s : State) : Res.Keeps s.frame (execLinkTrained port width s) := by
  simp [execLinkTrained]

theorem execLinkWidthChange_keeps (port : Nat) (width : BitVec 2) (s : State) : Res.Keeps s.frame (execLinkWidthChange port width s) := by
  simp [execLinkWidthChange]

@[simp] theorem State.linkMark_keeps {fr : Frame} (s : State) (port : Nat) (k : Option Nat) (hs : fr.Keeps s.frame) :
    fr.Keeps (s.linkMark port k).frame := by
  unfold State.linkMark
  split <;> simp [hs]

theorem execLinkDescriptorSend_keeps (port : Nat) (s : State) : Res.Keeps s.frame (execLinkDescriptorSend port s) := by
  simp [execLinkDescriptorSend]

theorem execLinkAck_keeps (port : Nat) (rejected : Bool) (s : State) : Res.Keeps s.frame (execLinkAck port rejected s) := by
  simp [execLinkAck]

@[simp] theorem State.linkImage_keeps {fr : Frame} (s : State) (pa v : Nat) (hs : fr.Keeps s.frame) : fr.Keeps (s.linkImage pa v).frame := by
  simp [State.linkImage, hs]

theorem execLinkFlitReceive_keeps (port vc pa : Nat) (data : List (BitVec 8)) (s : State) :
    Res.Keeps s.frame (execLinkFlitReceive port vc pa data s) := by
  unfold execLinkFlitReceive
  extract_lets n step parts good t
  have ht : s.frame.Keeps t.frame := foldl_keeps (fun s q hs => State.keeps_ite (by simp [hs]) (by simp [hs])) good s.frame.keeps_refl
  clear_value t
  simp [ht]

theorem execMeterTick_keeps (s : State) : Res.Keeps s.frame (execMeterTick s) := by
  simp [execMeterTick]

theorem execSentinelWarning_keeps (die : Nat) (s : State) : Res.Keeps s.frame (execSentinelWarning die s) := by
  refine Res.keeps_of_ite (State.updDie_keeps die (fun d hd => ?_) s.frame.keeps_refl) (by simp)
  split
  next h => exact h
  next => exact hd

theorem execSentinelDecay_keeps (die : Nat) (s : State) : Res.Keeps s.frame (execSentinelDecay die s) :=
  Res.keeps_of_ite (State.updDie_keeps die (fun _ hd => (Nat.sub_le _ 1).trans hd) s.frame.keeps_refl) s.frame.keeps_refl

theorem execPowerOn_keeps (s : State) : Res.Keeps s.frame (execPowerOn s) := by
  simp [execPowerOn]

theorem execFunctionLevelReset_keeps (s : State) : Res.Keeps s.frame (execFunctionLevelReset s) := by
  simp [execFunctionLevelReset]

theorem execRstcmdWarm_keeps (key : BitVec 16) (s : State) : Res.Keeps s.frame (execRstcmdWarm key s) := by
  simp [execRstcmdWarm]

theorem execRstcmdCold_keeps (key : BitVec 16) (s : State) : Res.Keeps s.frame (execRstcmdCold key s) := by
  simp [execRstcmdCold]

theorem execStartStage_keeps (ok : Bool) (s : State) : Res.Keeps s.frame (execStartStage ok s) := by
  simp [execStartStage]

theorem execReccmd_keeps (value : BitVec 64) (s : State) : Res.Keeps s.frame (execReccmd value s) := by
  simp [execReccmd]

theorem execAttestReport_keeps (s : State) : Res.Keeps s.frame (execAttestReport s) := by
  simp [execAttestReport]

theorem execSoftError_keeps (site : Site) (bits : Nat) (s : State) : Res.Keeps s.frame (execSoftError site bits s) := by
  dsimp only [execSoftError]
  repeat' split
  all_goals simp

end Sys2Proof.Machine
end

section
/-! PROOF. O56, O57: floating-point instructions, and the frame. -/

namespace Sys2Proof.Machine

theorem execFadd_keeps (h : Hdr) (f : VFields) (s : State) : Res.Keeps s.frame (execFadd h f s) := by
  simp [execFadd]

theorem execFsub_keeps (h : Hdr) (f : VFields) (s : State) : Res.Keeps s.frame (execFsub h f s) := by
  simp [execFsub]

theorem execFmul_keeps (h : Hdr) (f : VFields) (s : State) : Res.Keeps s.frame (execFmul h f s) := by
  simp [execFmul]

theorem execFma_keeps (h : Hdr) (f : VFields) (s : State) : Res.Keeps s.frame (execFma h f s) := by
  simp [execFma]

theorem execFmin_keeps (h : Hdr) (f : VFields) (s : State) : Res.Keeps s.frame (execFmin h f s) := by
  simp [execFmin]

theorem execFmax_keeps (h : Hdr) (f : VFields) (s : State) : Res.Keeps s.frame (execFmax h f s) := by
  simp [execFmax]

theorem execFmed3_keeps (h : Hdr) (f : VFields) (s : State) : Res.Keeps s.frame (execFmed3 h f s) := by
  simp [execFmed3]

theorem execFneg_keeps (h : Hdr) (f : VFields) (s : State) : Res.Keeps s.frame (execFneg h f s) := by
  simp [execFneg]

theorem execFabs_keeps (h : Hdr) (f : VFields) (s : State) : Res.Keeps s.frame (execFabs h f s) := by
  simp [execFabs]

theorem execFcmp_keeps (h : Hdr) (f : VFields) (s : State) : Res.Keeps s.frame (execFcmp h f s) := by
  simp [execFcmp]

theorem execFdiv_keeps (h : Hdr) (f : VFields) (s : State) : Res.Keeps s.frame (execFdiv h f s) := by
  simp [execFdiv]

theorem execFsqrt_keeps (h : Hdr) (f : VFields) (s : State) : Res.Keeps s.frame (execFsqrt h f s) := by
  simp [execFsqrt]

theorem execFrcp_keeps (h : Hdr) (f : VFields) (s : State) : Res.Keeps s.frame (execFrcp h f s) := by
  simp [execFrcp]

theorem execFrsq_keeps (h : Hdr) (f : VFields) (s : State) : Res.Keeps s.frame (execFrsq h f s) := by
  simp [execFrsq]

theorem execFex2_keeps (h : Hdr) (f : VFields) (s : State) : Res.Keeps s.frame (execFex2 h f s) := by
  simp [execFex2]

theorem execFlg2_keeps (h : Hdr) (f : VFields) (s : State) : Res.Keeps s.frame (execFlg2 h f s) := by
  simp [execFlg2]

theorem execFsin_keeps (h : Hdr) (f : VFields) (s : State) : Res.Keeps s.frame (execFsin h f s) := by
  simp [execFsin]

theorem execFcos_keeps (h : Hdr) (f : VFields) (s : State) : Res.Keeps s.frame (execFcos h f s) := by
  simp [execFcos]

theorem execFrnd_keeps (h : Hdr) (f : VFields) (s : State) : Res.Keeps s.frame (execFrnd h f s) := by
  simp [execFrnd]

theorem execFfrac_keeps (h : Hdr) (f : VFields) (s : State) : Res.Keeps s.frame (execFfrac h f s) := by
  simp [execFfrac]

theorem execFldexp_keeps (h : Hdr) (f : VFields) (s : State) : Res.Keeps s.frame (execFldexp h f s) := by
  simp [execFldexp]

theorem execFclass_keeps (h : Hdr) (f : VFields) (s : State) : Res.Keeps s.frame (execFclass h f s) := by
  simp [execFclass]

theorem execFdot2_keeps (h : Hdr) (f : VFields) (s : State) : Res.Keeps s.frame (execFdot2 h f s) := by
  simp [execFdot2]

theorem execFlerp_keeps (h : Hdr) (f : VFields) (s : State) : Res.Keeps s.frame (execFlerp h f s) := by
  simp [execFlerp]

end Sys2Proof.Machine
end

section
/-! PROOF. O56, O57: integer vector instructions, and the frame. -/

namespace Sys2Proof.Machine

theorem execIadd_keeps (h : Hdr) (f : VFields) (s : State) : Res.Keeps s.frame (execIadd h f s) := by
  simp [execIadd]

theorem execIsub_keeps (h : Hdr) (f : VFields) (s : State) : Res.Keeps s.frame (execIsub h f s) := by
  simp [execIsub]

theorem execImul_keeps (h : Hdr) (f : VFields) (s : State) : Res.Keeps s.frame (execImul h f s) := by
  simp [execImul]

theorem execImad_keeps (h : Hdr) (f : VFields) (s : State) : Res.Keeps s.frame (execImad h f s) := by
  simp [execImad]

theorem execImin_keeps (h : Hdr) (f : VFields) (s : State) : Res.Keeps s.frame (execImin h f s) := by
  simp [execImin]

theorem execImax_keeps (h : Hdr) (f : VFields) (s : State) : Res.Keeps s.frame (execImax h f s) := by
  simp [execImax]

theorem execIabs_keeps (h : Hdr) (f : VFields) (s : State) : Res.Keeps s.frame (execIabs h f s) := by
  simp [execIabs]

theorem execIdiv_keeps (h : Hdr) (f : VFields) (s : State) : Res.Keeps s.frame (execIdiv h f s) := by
  simp [execIdiv]

theorem execIrem_keeps (h : Hdr) (f : VFields) (s : State) : Res.Keeps s.frame (execIrem h f s) := by
  simp [execIrem]

theorem execIaddc_keeps (h : Hdr) (f : VFields) (s : State) : Res.Keeps s.frame (execIaddc h f s) := by
  simp [execIaddc]

theorem execAnd_keeps (h : Hdr) (f : VFields) (s : State) : Res.Keeps s.frame (execAnd h f s) := by
  simp [execAnd]

theorem execOr_keeps (h : Hdr) (f : VFields) (s : State) : Res.Keeps s.frame (execOr h f s) := by
  simp [execOr]

theorem execXor_keeps (h : Hdr) (f : VFields) (s : State) : Res.Keeps s.frame (execXor h f s) := by
  simp [execXor]

theorem execBmix_keeps (h : Hdr) (f : VFields) (s : State) : Res.Keeps s.frame (execBmix h f s) := by
  simp [execBmix]

theorem execShl_keeps (h : Hdr) (f : VFields) (s : State) : Res.Keeps s.frame (execShl h f s) := by
  simp [execShl]

theorem execShr_keeps (h : Hdr) (f : VFields) (s : State) : Res.Keeps s.frame (execShr h f s) := by
  simp [execShr]

theorem execRot_keeps (h : Hdr) (f : VFields) (s : State) : Res.Keeps s.frame (execRot h f s) := by
  simp [execRot]

theorem execFunnel_keeps (h : Hdr) (f : VFields) (s : State) : Res.Keeps s.frame (execFunnel h f s) := by
  simp [execFunnel]

theorem execBfe_keeps (h : Hdr) (f : VFields) (s : State) : Res.Keeps s.frame (execBfe h f s) := by
  simp [execBfe]

theorem execBfi_keeps (h : Hdr) (f : VFields) (s : State) : Res.Keeps s.frame (execBfi h f s) := by
  simp [execBfi]

theorem execPopc_keeps (h : Hdr) (f : VFields) (s : State) : Res.Keeps s.frame (execPopc h f s) := by
  simp [execPopc]

theorem execClz_keeps (h : Hdr) (f : VFields) (s : State) : Res.Keeps s.frame (execClz h f s) := by
  simp [execClz]

theorem execBrev_keeps (h : Hdr) (f : VFields) (s : State) : Res.Keeps s.frame (execBrev h f s) := by
  simp [execBrev]

theorem execMov_keeps (h : Hdr) (f : VFields) (s : State) : Res.Keeps s.frame (execMov h f s) := by
  simp [execMov]

theorem execIcmp_keeps (h : Hdr) (f : VFields) (s : State) : Res.Keeps s.frame (execIcmp h f s) := by
  simp [execIcmp]

theorem execSel_keeps (h : Hdr) (f : VFields) (s : State) : Res.Keeps s.frame (execSel h f s) := by
  simp [execSel]

theorem execLea_keeps (h : Hdr) (f : VFields) (s : State) : Res.Keeps s.frame (execLea h f s) := by
  simp [execLea]

theorem execIdp4_keeps (h : Hdr) (f : VFields) (s : State) : Res.Keeps s.frame (execIdp4 h f s) := by
  simp [execIdp4]

theorem execSad_keeps (h : Hdr) (f : VFields) (s : State) : Res.Keeps s.frame (execSad h f s) := by
  simp [execSad]

end Sys2Proof.Machine
end

section
/-! PROOF. O56, O57: scalar instructions, and the frame. -/

namespace Sys2Proof.Machine

theorem execSadd_keeps (h : Hdr) (f : SFields) (s : State) : Res.Keeps s.frame (execSadd h f s) := by
  simp [execSadd]

theorem execSsub_keeps (h : Hdr) (f : SFields) (s : State) : Res.Keeps s.frame (execSsub h f s) := by
  simp [execSsub]

theorem execSmul_keeps (h : Hdr) (f : SFields) (s : State) : Res.Keeps s.frame (execSmul h f s) := by
  simp [execSmul]

theorem execSand_keeps (h : Hdr) (f : SFields) (s : State) : Res.Keeps s.frame (execSand h f s) := by
  simp [execSand]

theorem execSor_keeps (h : Hdr) (f : SFields) (s : State) : Res.Keeps s.frame (execSor h f s) := by
  simp [execSor]

theorem execSxor_keeps (h : Hdr) (f : SFields) (s : State) : Res.Keeps s.frame (execSxor h f s) := by
  simp [execSxor]

theorem execSshl_keeps (h : Hdr) (f : SFields) (s : State) : Res.Keeps s.frame (execSshl h f s) := by
  simp [execSshl]

theorem execSshr_keeps (h : Hdr) (f : SFields) (s : State) : Res.Keeps s.frame (execSshr h f s) := by
  simp [execSshr]

theorem execSmov_keeps (h : Hdr) (f : SFields) (s : State) : Res.Keeps s.frame (execSmov h f s) := by
  simp [execSmov]

theorem execSsel_keeps (h : Hdr) (f : SFields) (s : State) : Res.Keeps s.frame (execSsel h f s) := by
  simp [execSsel]

theorem execSbfe_keeps (h : Hdr) (f : SFields) (s : State) : Res.Keeps s.frame (execSbfe h f s) := by
  simp [execSbfe]

theorem execSff1_keeps (h : Hdr) (f : SFields) (s : State) : Res.Keeps s.frame (execSff1 h f s) := by
  simp [execSff1]

theorem execSpopc_keeps (h : Hdr) (f : SFields) (s : State) : Res.Keeps s.frame (execSpopc h f s) := by
  simp [execSpopc]

theorem execSlea_keeps (h : Hdr) (f : SFields) (s : State) : Res.Keeps s.frame (execSlea h f s) := by
  simp [execSlea]

theorem execScmp_keeps (h : Hdr) (f : SFields) (s : State) : Res.Keeps s.frame (execScmp h f s) := by
  simp [execScmp]

end Sys2Proof.Machine
end

section
/-! PROOF. O56, O57: every instruction and event, and the frame. -/

namespace Sys2Proof.Machine

theorem exec_keeps (i : Instr) (s : State) : Res.Keeps s.frame (exec i s) := by
  cases i with
  | nop h f => exact execNop_keeps h f s
  | exit h f => exact execExit_keeps h f s
  | yield h f => exact execYield_keeps h f s
  | trap h f => exact execTrap_keeps h f s
  | tret h f => exact execTret_keeps h f s
  | bkpt h f => exact execBkpt_keeps h f s
  | sysrd h f => exact execSysrd_keeps h f s
  | syswr h f => exact execSyswr_keeps h f s
  | fence h f => exact execFence_keeps h f s
  | waitw h f => exact execWaitw_keeps h f s
  | bar h f => exact execBar_keeps h f s
  | br h f => exact execBr_keeps h f s
  | bru h f => exact execBru_keeps h f s
  | brs h f => exact execBrs_keeps h f s
  | jal h f => exact execJal_keeps h f s
  | jmp h f => exact execJmp_keeps h f s
  | setprio h f => exact execSetprio_keeps h f s
  | cvset h f => exact execCvset_keeps h f s
  | cvsign h f => exact execCvsign_keeps h f s
  | cvwait h f => exact execCvwait_keeps h f s
  | spawn h f => exact execSpawn_keeps h f s
  | repack h f => exact execRepack_keeps h f s
  | iadd h f => exact execIadd_keeps h f s
  | isub h f => exact execIsub_keeps h f s
  | imul h f => exact execImul_keeps h f s
  | imad h f => exact execImad_keeps h f s
  | imin h f => exact execImin_keeps h f s
  | imax h f => exact execImax_keeps h f s
  | iabs h f => exact execIabs_keeps h f s
  | idiv h f => exact execIdiv_keeps h f s
  | irem h f => exact execIrem_keeps h f s
  | iaddc h f => exact execIaddc_keeps h f s
  | and h f => exact execAnd_keeps h f s
  | or h f => exact execOr_keeps h f s
  | xor h f => exact execXor_keeps h f s
  | bmix h f => exact execBmix_keeps h f s
  | shl h f => exact execShl_keeps h f s
  | shr h f => exact execShr_keeps h f s
  | rot h f => exact execRot_keeps h f s
  | funnel h f => exact execFunnel_keeps h f s
  | bfe h f => exact execBfe_keeps h f s
  | bfi h f => exact execBfi_keeps h f s
  | popc h f => exact execPopc_keeps h f s
  | clz h f => exact execClz_keeps h f s
  | brev h f => exact execBrev_keeps h f s
  | icmp h f => exact execIcmp_keeps h f s
  | sel h f => exact execSel_keeps h f s
  | mov h f => exact execMov_keeps h f s
  | lea h f => exact execLea_keeps h f s
  | idp4 h f => exact execIdp4_keeps h f s
  | sad h f => exact execSad_keeps h f s
  | fadd h f => exact execFadd_keeps h f s
  | fsub h f => exact execFsub_keeps h f s
  | fmul h f => exact execFmul_keeps h f s
  | fma h f => exact execFma_keeps h f s
  | fmin h f => exact execFmin_keeps h f s
  | fmax h f => exact execFmax_keeps h f s
  | fneg h f => exact execFneg_keeps h f s
  | fabs h f => exact execFabs_keeps h f s
  | fcmp h f => exact execFcmp_keeps h f s
  | fdiv h f => exact execFdiv_keeps h f s
  | fsqrt h f => exact execFsqrt_keeps h f s
  | frcp h f => exact execFrcp_keeps h f s
  | frsq h f => exact execFrsq_keeps h f s
  | fex2 h f => exact execFex2_keeps h f s
  | flg2 h f => exact execFlg2_keeps h f s
  | fsin h f => exact execFsin_keeps h f s
  | fcos h f => exact execFcos_keeps h f s
  | frnd h f => exact execFrnd_keeps h f s
  | ffrac h f => exact execFfrac_keeps h f s
  | fldexp h f => exact execFldexp_keeps h f s
  | fclass h f => exact execFclass_keeps h f s
  | fdot2 h f => exact execFdot2_keeps h f s
  | flerp h f => exact execFlerp_keeps h f s
  | fmed3 h f => exact execFmed3_keeps h f s
  | cvt h f => exact execCvt_keeps h f s
  | pack h f => exact execPack_keeps h f s
  | unpack h f => exact execUnpack_keeps h f s
  | tripack h f => exact execTripack_keeps h f s
  | triunpk h f => exact execTriunpk_keeps h f s
  | lxch h f => exact execLxch_keeps h f s
  | pqry h f => exact execPqry_keeps h f s
  | wred h f => exact execWred_keeps h f s
  | wscan h f => exact execWscan_keeps h f s
  | lpeer h f => exact execLpeer_keeps h f s
  | lread h f => exact execLread_keeps h f s
  | lwrite h f => exact execLwrite_keeps h f s
  | sadd h f => exact execSadd_keeps h f s
  | ssub h f => exact execSsub_keeps h f s
  | smul h f => exact execSmul_keeps h f s
  | sand h f => exact execSand_keeps h f s
  | sor h f => exact execSor_keeps h f s
  | sxor h f => exact execSxor_keeps h f s
  | sshl h f => exact execSshl_keeps h f s
  | sshr h f => exact execSshr_keeps h f s
  | scmp h f => exact execScmp_keeps h f s
  | smov h f => exact execSmov_keeps h f s
  | ssel h f => exact execSsel_keeps h f s
  | sbfe h f => exact execSbfe_keeps h f s
  | sff1 h f => exact execSff1_keeps h f s
  | spopc h f => exact execSpopc_keeps h f s
  | slea h f => exact execSlea_keeps h f s
  | ld h f => exact execLd_keeps h f s
  | st h f => exact execSt_keeps h f s
  | ldl h f => exact execLdl_keeps h f s
  | stl h f => exact execStl_keeps h f s
  | lds h f => exact execLds_keeps h f s
  | sts h f => exact execSts_keeps h f s
  | ldcvt h f => exact execLdcvt_keeps h f s
  | pref h f => exact execPref_keeps h f s
  | cflush h f => exact execCflush_keeps h f s
  | fifopush h f => exact execFifopush_keeps h f s
  | fifopop h f => exact execFifopop_keeps h f s
  | bankcfg h f => exact execBankcfg_keeps h f s
  | qpop h f => exact execQpop_keeps h f s
  | qstat h f => exact execQstat_keeps h f s
  | strm h f => exact execStrm_keeps h f s
  | strmx h f => exact execStrmx_keeps h f s
  | atom h f => exact execAtom_keeps h f s
  | atomx h f => exact execAtomx_keeps h f s
  | red h f => exact execRed_keeps h f s
  | atoml h f => exact execAtoml_keeps h f s
  | xred h f => exact execXred_keeps h f s
  | copy h f => exact execCopy_keeps h f s
  | copym h f => exact execCopym_keeps h f s
  | halo h f => exact execHalo_keeps h f s
  | gathv h f => exact execGathv_keeps h f s
  | tagarm h f => exact execTagarm_keeps h f s
  | tagwait h f => exact execTagwait_keeps h f s
  | tagff h f => exact execTagff_keeps h f s
  | tagclr h f => exact execTagclr_keeps h f s
  | obres h f => exact execObres_keeps h f s
  | obrel h f => exact execObrel_keeps h f s
  | obld h f => exact execObld_keeps h f s
  | mma h f => exact execMma_keeps h f s
  | accz h f => exact execAccz_keeps h f s
  | accld h f => exact execAccld_keeps h f s
  | drain h f => exact execDrain_keeps h f s
  | accrd h f => exact execAccrd_keeps h f s
  | mstat h f => exact execMstat_keeps h f s
  | rast h f => exact execRast_keeps h f s
  | rastSet h f => exact execRastSet_keeps h f s
  | blend h f => exact execBlend_keeps h f s
  | blendSet h f => exact execBlendSet_keeps h f s
  | trav h f => exact execTrav_keeps h f s
  | travSet h f => exact execTravSet_keeps h f s
  | filt h f => exact execFilt_keeps h f s
  | filtSet h f => exact execFiltSet_keeps h f s
  | bin h f => exact execBin_keeps h f s
  | mcall h f => exact execMcall_keeps h f s
  | taskpush h f => exact execTaskpush_keeps h f s
  | hqpush h f => exact execHqpush_keeps h f s
  | hqpop h f => exact execHqpop_keeps h f s
  | ordin h f => exact execOrdin_keeps h f s
  | ordout h f => exact execOrdout_keeps h f s
  | ordseq h f => exact execOrdseq_keeps h f s
  | trmark h f => exact execTrmark_keeps h f s
  | relaunch h f => exact execRelaunch_keeps h f s
  | launch h f => exact execLaunch_keeps h f s
  | variableLatencyResult w k evict => exact execVariableLatencyResult_keeps w k evict s
  | trapDelivery w => exact execTrapDelivery_keeps w s
  | tlbWalkComplete die walk => exact execTlbWalkComplete_keeps die walk s
  | walkDispatch die => exact execWalkDispatch_keeps die s
  | ringRecordWrite ring => exact execRingRecordWrite_keeps ring s
  | fltdoneRetry token => exact execFltdoneRetry_keeps token s
  | fltdoneAbort token => exact execFltdoneAbort_keeps token s
  | scdone token status => exact execScdone_keeps token status s
  | tlbicmd value => exact execTlbicmd_keeps value s
  | tlbInvalidationDone => exact execTlbInvalidationDone_keeps s
  | microcodeLoad slot => exact execMicrocodeLoad_keeps slot s
  | microcodeUnload slot => exact execMicrocodeUnload_keeps slot s
  | microcodeReplace => exact execMicrocodeReplace_keeps s
  | kick value => exact execKick_keeps value s
  | graphUpload => exact execGraphUpload_keeps s
  | graphFree handle => exact execGraphFree_keeps handle s
  | nodeStart replay node => exact execNodeStart_keeps replay node s
  | copyNodeDone replay node => exact execCopyNodeDone_keeps replay node s
  | waitNodeCheck replay node => exact execWaitNodeCheck_keeps replay node s
  | kernelNodeComplete replay node => exact execKernelNodeComplete_keeps replay node s
  | relaunchStart launch => exact execRelaunchStart_keeps launch s
  | teamPlace => exact execTeamPlace_keeps s
  | launchAgeing launch => exact execLaunchAgeing_keeps launch s
  | poolReassign => exact execPoolReassign_keeps s
  | poolReassignDone pool => exact execPoolReassignDone_keeps pool s
  | timeSliceExpiry team => exact execTimeSliceExpiry_keeps team s
  | drainTimeout team => exact execDrainTimeout_keeps team s
  | teamFlush team => exact execTeamFlush_keeps team s
  | teamSave team => exact execTeamSave_keeps team s
  | teamRestore image => exact execTeamRestore_keeps image s
  | macroSliceStop w => exact execMacroSliceStop_keeps w s
  | waveForm launch pc => exact execWaveForm_keeps launch pc s
  | partialWaveTimeout launch pc => exact execPartialWaveTimeout_keeps launch pc s
  | copyDeliver core cmd piece off n => exact execCopyDeliver_keeps core cmd piece off n s
  | copyPrepass core cmd => exact execCopyPrepass_keeps core cmd s
  | streamFetch w q => exact execStreamFetch_keeps w q s
  | bankcfgDrainDone core bank => exact execBankcfgDrainDone_keeps core bank s
  | accessPerform w k j part => exact execAccessPerform_keeps w k j part s
  | promotionNotice core k => exact execPromotionNotice_keeps core k s
  | engineOpStart core old => exact execEngineOpStart_keeps core old s
  | addOnStoreApply core k => exact execAddOnStoreApply_keeps core k s
  | binQueuePush w => exact execBinQueuePush_keeps w s
  | ordStallTimeout asn key space => exact execOrdStallTimeout_keeps asn key space s
  | ordqQuery value => exact execOrdqQuery_keeps value s
  | ordqPurge value => exact execOrdqPurge_keeps value s
  | waitwWake w => exact execWaitwWake_keeps w s
  | waitwTimeout w => exact execWaitwTimeout_keeps w s
  | meterTick => exact execMeterTick_keeps s
  | sentinelWarning die => exact execSentinelWarning_keeps die s
  | sentinelDecay die => exact execSentinelDecay_keeps die s
  | hostBar2Write off data => exact execHostBar2Write_keeps off data s
  | hostBar2Read off n => exact execHostBar2Read_keeps off n s
  | registerWrite pa n value => exact execRegisterWrite_keeps pa n value s
  | rcfgEnable ring log2n => exact execRcfgEnable_keeps ring log2n s
  | rcfgDisable ring => exact execRcfgDisable_keeps ring s
  | rheadWrite ring value => exact execRheadWrite_keeps ring value s
  | lkctlTail port tail => exact execLkctlTail_keeps port tail s
  | lkctlEnable port en => exact execLkctlEnable_keeps port en s
  | linkWidthChange port width => exact execLinkWidthChange_keeps port width s
  | linkDescriptorSend port => exact execLinkDescriptorSend_keeps port s
  | linkFlitReceive port vc pa data => exact execLinkFlitReceive_keeps port vc pa data s
  | linkAck port rejected => exact execLinkAck_keeps port rejected s
  | powerOn => exact execPowerOn_keeps s
  | functionLevelReset => exact execFunctionLevelReset_keeps s
  | rstcmdWarm key => exact execRstcmdWarm_keeps key s
  | rstcmdCold key => exact execRstcmdCold_keeps key s
  | startStage ok => exact execStartStage_keeps ok s
  | reccmd value => exact execReccmd_keeps value s
  | attestReport => exact execAttestReport_keeps s
  | notAnInstruction word reason => exact execNotAnInstruction_keeps word reason s
  | softError site bits => exact execSoftError_keeps site bits s
  | pcieCompletion k ok => exact execPcieCompletion_keeps k ok s
  | completionTimeout k => exact execCompletionTimeout_keeps k s
  | pcieConfigWrite reg => exact execPcieConfigWrite_keeps reg s
  | linkTrained port width => exact execLinkTrained_keeps port width s

end Sys2Proof.Machine
end

section
/-! PROOF. O56, O57: issues, and the frame. -/

namespace Sys2Proof.Machine

@[simp] theorem State.healIssue_frame (s : State) (before : Wave) (i : Instr) : (s.healIssue before i).frame = s.frame := by
  simp [State.healIssue]

@[simp] theorem State.latchAfter_frame (s : State) (i : Instr) : (s.latchAfter i).frame = s.frame := by
  simp [State.latchAfter]

@[simp] theorem State.watchdogTrap_frame (s : State) (h : Hdr) : (s.watchdogTrap h).frame = s.frame := by
  simp [State.watchdogTrap]

@[simp] theorem State.countIssue_frame (s : State) : s.countIssue.frame = s.frame := (rfl)

@[simp] theorem State.queueUnit_frame (s : State) : s.queueUnit.frame = s.frame := by
  unfold State.queueUnit
  split <;> simp

@[simp] theorem State.heldAlways_frame (s : State) : s.heldAlways.frame = s.frame := by
  unfold State.heldAlways
  split <;> simp

theorem Res.Keeps.of_keeps {a b : Frame} {r : Res} (hab : a.Keeps b) (hr : Res.Keeps b r) : Res.Keeps a r := by
  cases r with
  | next t => exact hab.trans hr
  | _ => trivial

/-- The state that a fetch of a word leaves. -/
def Fetched.state : Fetched → State
  | .stop s => s
  | .word s _ => s

@[simp] theorem State.fetchWord_frame (s : State) (pc : Word) : (s.fetchWord pc).state.frame = s.frame := by
  obtain ⟨check, hcheck⟩ := exists_eq (a' := @State.memCheck)
  rw [(by delta State.fetchWord; rfl : State.fetchWord = _), ← hcheck]
  split
  · simp [Fetched.state]
  · split
    next hc => simp [Fetched.state, frame_of_memCheck_stop (hcheck ▸ hc)]
    next hc =>
      have hframe := frame_of_memCheck_ok (hcheck ▸ hc)
      split
      · simp [Fetched.state, hframe]
      · split <;> simp [Fetched.state, hframe]

theorem State.frame_of_fetchWord_stop {s t : State} {pc : Word} (h : s.fetchWord pc = .stop t) : t.frame = s.frame := by
  rw [← fetchWord_frame s pc, h, Fetched.state]

theorem State.frame_of_fetchWord_word {s t : State} {pc w : Word} (h : s.fetchWord pc = .word t w) : t.frame = s.frame := by
  rw [← fetchWord_frame s pc, h, Fetched.state]

/-- The state that a fetch leaves. -/
def Next.state : Next → State
  | .stop s => s
  | .instr s _ => s

@[simp] theorem State.fetch_frame (s : State) : s.fetch.state.frame = s.frame := by
  unfold State.fetch
  split
  next h => exact frame_of_fetchWord_stop h
  next h =>
    have hfirst := frame_of_fetchWord_word h
    split
    · split
      next h => exact (frame_of_fetchWord_stop h).trans hfirst
      next h => exact (frame_of_fetchWord_word h).trans hfirst
    · exact hfirst

theorem State.frame_of_fetch_stop {s t : State} (h : s.fetch = .stop t) : t.frame = s.frame := by
  rw [← fetch_frame s, h, Next.state]

theorem State.frame_of_fetch_instr {s t : State} {i : Instr} (h : s.fetch = .instr t i) : t.frame = s.frame := by
  rw [← fetch_frame s, h, Next.state]

/-- An issue that is counted keeps to what the states before and after it keep to. -/
theorem State.account_keeps {fr : Frame} {s t : State} (i : Instr) (hs : fr.Keeps s.frame) (ht : fr.Keeps t.frame) :
    fr.Keeps (s.account t i).frame := by
  unfold State.account
  extract_lets was
  exact keeps_ite ht (keeps_ite (by simp [ht]) (keeps_ite (by simp [hs]) (by simp [ht])))

theorem State.runInstr_keeps (s : State) (i : Instr) : Res.Keeps s.frame (s.runInstr i) := by
  unfold State.runInstr
  split
  · exact account_keeps i s.frame.keeps_refl (by simp)
  · have hexec := exec_keeps i s
    split
    next h =>
      rw [h] at hexec
      exact Res.keeps_of_ite hexec (account_keeps i s.frame.keeps_refl hexec)
    next => exact hexec

theorem State.badRecords_frame {s t : State} (h : s.badRecords = some t) : t.frame = s.frame := by
  unfold State.badRecords at h
  extract_lets w u at h
  repeat' split at h
  · cases h
    simp
  · cases h
    simp [u]
  · cases h

@[simp] theorem State.atIssue_frame (s : State) (r : WaveRef) (m : BitVec 64) (pc : Word) : (s.atIssue r m pc).frame = s.frame := (rfl)

theorem State.issueEntry_keeps (s : State) (r : WaveRef) (m : BitVec 64) (pc : Word) : Res.Keeps s.frame (s.issueEntry r m pc) := by
  unfold State.issueEntry
  extract_lets t
  split
  next h => simp [badRecords_frame h, t]
  next =>
    split
    next h => simp [frame_of_fetch_stop h, t]
    next u i h => simpa [frame_of_fetch_instr h, t] using runInstr_keeps u i

/-- An attempt to issue keeps to a frame: what it leaves of the state, and what follows the issue that it came to. -/
structure AttemptKeeps (fr : Frame) (q : State × Option Turn) : Prop where
  left : fr.Keeps q.1.frame
  issued : ∀ e, q.2 = some e → Res.Keeps fr e.after

theorem attemptKeeps_none {fr : Frame} {s : State} (hs : fr.Keeps s.frame) : AttemptKeeps fr (s, none) := ⟨hs, fun e h => absurd h.symm
    (Option.some_ne_none e)⟩

theorem attemptKeeps_some {fr : Frame} {s : State} {e : Turn} (hs : fr.Keeps s.frame) (he : Res.Keeps fr e.after) : AttemptKeeps fr (s, some e) :=
  ⟨hs, fun _ h => Option.some_inj.mp h ▸ he⟩

@[simp] theorem State.keepBlocked_frame (s t : State) (r : WaveRef) (m : BitVec 64) (pc : Word) : (s.keepBlocked t r m pc).frame = s.frame := by
  simp [State.keepBlocked]

theorem State.firstEntry_keeps {fr : Frame} {s : State} (r : WaveRef) (es : List (BitVec 64 × Word)) (hs : fr.Keeps s.frame) :
    AttemptKeeps fr (s.firstEntry r es) := by
  induction es generalizing s with
  | nil => exact attemptKeeps_none hs
  | cons e rest ih =>
    have hissue := (issueEntry_keeps s r e.1 e.2).of_keeps hs
    rw [State.firstEntry]
    split
    next h =>
      rw [h] at hissue
      split
      · exact attemptKeeps_some hs hissue
      · split
        · exact attemptKeeps_none hs
        · exact ih (by simp [hs])
    next => exact attemptKeeps_some hs hissue

theorem State.keepTries_keeps {fr : Frame} {s t : State} (r : WaveRef) (hs : fr.Keeps s.frame) (ht : fr.Keeps t.frame) :
    fr.Keeps (s.keepTries t r).frame := by
  unfold State.keepTries
  split
  · exact keeps_ite ht (by simp [hs])
  · exact hs

theorem State.attemptEntered_keeps {fr : Frame} {s : State} (r : WaveRef) (w : Wave) (hs : fr.Keeps s.frame) :
    AttemptKeeps fr (s.attemptEntered r w) := by
  unfold State.attemptEntered
  split
  next => exact firstEntry_keeps r _ hs
  next p _ =>
    have hrun := (runInstr_keeps (s.atIssue r p.mask p.pc) p.instr).of_keeps hs
    split
    next h =>
      rw [h] at hrun
      split
      · exact attemptKeeps_some hs hrun
      · split
        · exact attemptKeeps_none hs
        · split
          · exact attemptKeeps_none (by simp [hs])
          · exact firstEntry_keeps r _ (by simp [hs])
    next => exact attemptKeeps_some hs hrun

theorem State.attempt_keeps {fr : Frame} {s : State} (r : WaveRef) (hs : fr.Keeps s.frame) : AttemptKeeps fr (s.attempt r) := by
  unfold State.attempt
  split
  · exact attemptKeeps_none hs
  next w _ =>
    split
    · exact attemptKeeps_none hs
    · have henter : AttemptKeeps fr ((s.enter r).attemptEntered r w) := attemptEntered_keeps r w (by simpa [State.enter] using hs)
      exact ⟨keepTries_keeps r hs henter.left, henter.issued⟩

@[simp] theorem State.putPack_frame (s : State) (core : Nat) (k : Pack) : (s.putPack core k).frame = s.frame := by
  simp [State.putPack]

@[simp] theorem State.probed_frame (s : State) (r : WaveRef) : (s.probed r).frame = s.frame := by
  simp [State.probed]

theorem State.issue_keeps (s : State) (r : WaveRef) : Res.Keeps s.frame (s.issue r) := by
  have hattempt := attempt_keeps r s.frame.keeps_refl
  unfold State.issue
  split
  · split
    next h => 
      rw [h] at hattempt
      simpa using hattempt.left
    next e h =>
      have hissued := hattempt.issued e (by rw [h])
      split
      · exact Res.keeps_of_ite hissued (by simp)
      · split
        · simp
        · split
          next h =>
            rw [h] at hissued
            simpa using hissued
          next => exact hissued
  · simp

@[simp] theorem State.enter_frame (s : State) (r : WaveRef) : (s.enter r).frame = s.frame := (rfl)

end Sys2Proof.Machine
end

section
/-! PROOF. O56, O57: what follows every step, and the frame. -/

namespace Sys2Proof.Machine

@[simp] theorem State.mapWaves_frame (s : State) (f : Team → Wave → Wave) : (s.mapWaves f).frame = s.frame := (rfl)

@[simp] theorem State.endWaves_frame (s old : State) : (s.endWaves old).frame = s.frame := by
  simp [State.endWaves]

@[simp] theorem State.checkTags_frame (s : State) : s.checkTags.frame = s.frame := by
  simp [State.checkTags]

@[simp] theorem State.releaseLatches_frame (s : State) : s.releaseLatches.frame = s.frame := by
  simp [State.releaseLatches]

@[simp] theorem State.dropStats_frame (s : State) (t : Team) (x : TrapInfo) : (s.dropStats t x).frame = s.frame := by
  simp [State.dropStats]

@[simp] theorem State.commitStats_keeps {fr : Frame} (s : State) (t : Team) (hs : fr.Keeps s.frame) : fr.Keeps (s.commitStats t).2.frame := by
  unfold State.commitStats
  extract_lets b a w q u k
  have hu : fr.Keeps u.frame := by simp [u, q, hs]
  have hk : fr.Keeps k.2.frame := by simp [k, hu]
  clear_value k u
  split
  · exact hs
  · split
    · exact hs
    · split
      · simp [hs]
      · split
        · exact hu
        · simp [hu]
        · simp [hk]
        · split
          · simp [hu]
          · split
            · simp [hu]
            · extract_lets x y bs z
              have hx : fr.Keeps x.frame := keeps_ite (by simp [hu]) hu
              have hz : fr.Keeps z.frame := by simp [z, y, hx]
              split
              · exact hx
              · exact keeps_ite (by simp [hz]) hz

@[simp] theorem State.endTeam_keeps {fr : Frame} (s : State) (t : Team) (hs : fr.Keeps s.frame) : fr.Keeps (s.endTeam t).frame := by
  have hcommit := commitStats_keeps s t hs
  unfold State.endTeam
  generalize s.commitStats t = q at hcommit ⊢
  obtain ⟨goes, u⟩ := q
  cases goes with
  | false => exact hcommit
  | true =>
    have hleave := leave_keeps _ t.uid (((u.writeTeamRecord t).updLaunch_frame t.launch
      (fun l => { l with heldKeys := l.heldKeys ++ t.keysHeld })).symm ▸ writeTeamRecord_keeps u t hcommit)
    simpa using hleave

@[simp] theorem State.endTeams_keeps {fr : Frame} (s : State) (hs : fr.Keeps s.frame) : fr.Keeps s.endTeams.frame :=
  foldl_keeps (fun s t hs => endTeam_keeps s t hs) _ hs

/-- What holds of every entry still holds once every entry is set to what it holds of. -/
theorem mapFrom_forall {α : Type} {p : α → Prop} {f : Nat → α → α} (hf : ∀ i x, p x → p (f i x)) (k : Nat) {l : List α} (hl : ∀ x ∈ l, p x) :
    ∀ x ∈ mapFrom f k l, p x := by
  induction l generalizing k with
  | nil => exact hl
  | cons x r ih =>
    obtain ⟨hx, hr⟩ := List.forall_mem_cons.mp hl
    exact List.forall_mem_cons.mpr ⟨hf k x hx, ih (k + 1) hr⟩

@[simp] theorem State.restPools_keeps {fr : Frame} (s : State) (hs : fr.Keeps s.frame) : fr.Keeps s.restPools.frame := by
  refine ⟨hs.memory, fun hl => ?_⟩
  obtain ⟨hcores, hrings, hports, hdies, hsteps, hfails⟩ := hs.limits hl
  have hlength : s.dies.length = 8 := by simpa [State.frame] using hdies
  have hall : ∀ d ∈ s.dies, d.step ≤ 6 := by simpa [State.frame] using hsteps
  have hrest : ∀ d ∈ s.restPools.dies, d.step ≤ 6 := mapFrom_forall (fun d x hx => by split <;> simp [hx]) 0 hall
  refine ⟨hcores, hrings, hports, ?_, ?_, hfails⟩
  · simp [State.frame, State.restPools, mapFrom_length, hlength]
  · simpa [State.frame] using hrest

theorem State.settle_keeps {fr : Frame} (old : State) {s : State} (hs : fr.Keeps s.frame) : fr.Keeps (old.settle s).frame := by
  unfold State.settle
  extract_lets t u v
  have hv : fr.Keeps v.frame := by simp [v, u, t, hs]
  exact restPools_keeps _ (closeOver_keeps _ (endTeams_keeps v hv))

end Sys2Proof.Machine
end

section
/-! PROOF. O56, O57: moves, and the frame. -/

namespace Sys2Proof.Machine

theorem State.doMove_keeps (s : State) (m : Move) : Res.Keeps s.frame (s.doMove m) := by
  cases m with
  | issue r => exact issue_keeps s r
  | event i => exact Res.keeps_of_ite (exec_keeps i s) s.frame.keeps_refl

@[simp] theorem State.idle_frame (s : State) : s.idle.frame = s.frame := (rfl)

@[simp] theorem State.unblock_frame (s : State) : s.unblock.frame = s.frame := (rfl)

@[simp] theorem State.entered_frame (s t : State) (r : WaveRef) : (s.entered t r).frame = s.frame := by
  simp [State.entered]

theorem State.moveAndSettle_keeps (s : State) (m : Move) : Res.Keeps s.frame (s.moveAndSettle m) := by
  have hmove := doMove_keeps s.idle m
  unfold State.moveAndSettle
  split
  next h =>
    rw [h] at hmove
    split
    · simpa using hmove
    · exact settle_keeps _ (by simpa using hmove)
  next => simpa using hmove

end Sys2Proof.Machine
end

section
/-! PROOF. O56, O57: steps, and the frame. -/

namespace Sys2Proof.Machine

theorem step_keeps (s : State) : Res.Keeps s.frame (step s) := by
  unfold step
  split
  next rest _ => exact State.moveAndSettle_keeps { s with agenda := rest } _
  next =>
    split
    · exact State.moveAndSettle_keeps s _
    · exact s.frame.keeps_refl

end Sys2Proof.Machine
end

section
/-! PROOF. O56, O57: from the frame to the statements. -/

namespace Sys2Proof.Safety
open Sys2Proof.Machine

theorem deviceLimits_iff (s : State) : DeviceLimits s ↔ Memory.wf s.mem = true ∧ s.frame.Limits := by
  constructor
  · rintro ⟨hmemory, hcores, hdies, hrings, hports, hsteps, hfails⟩
    exact ⟨hmemory, hcores, hrings, hports, by simpa [State.frame] using hdies, by simpa [State.frame] using hsteps, hfails⟩
  · rintro ⟨hmemory, hcores, hrings, hports, hdies, hsteps, hfails⟩
    exact ⟨hmemory, hcores, by simpa [State.frame] using hdies, hrings, hports, by simpa [State.frame] using hsteps, hfails⟩

theorem step_next_keeps {s t : State} (h : step s = .next t) : s.frame.Keeps t.frame := by
  have hkeeps := step_keeps s
  rwa [h] at hkeeps

/-- Settles O56: a step keeps to the frame's limits, part by part of the model (`step_keeps`). -/
theorem stepsKeepLimits : Obligations.StepsKeepLimits := by
  intro s t hs hstep
  have hkeeps := step_next_keeps hstep
  obtain ⟨hmemory, hlimits⟩ := (deviceLimits_iff s).mp hs
  exact (deviceLimits_iff t).mpr ⟨hkeeps.memory hmemory, hkeeps.limits hlimits⟩

/-- Settles O57: memory is written through `cellStore` alone, or filtered, in every part of a step (`step_keeps`). -/
theorem stepsKeepMemoryCanonical : Obligations.StepsKeepMemoryCanonical :=
  fun _ _ hs hstep => (step_next_keeps hstep).memory hs

end Sys2Proof.Safety
end

section
/-! PROOF. O60: what the registers of the state after reset read as. -/

namespace Sys2Proof.Safety
open Sys2Proof.Machine

/-- Settles O60: each register is read once, family by family; the rest of the state after reset is empty (log entries 3, 14 and 56 for memory
and for READY). -/
theorem resetValues : Obligations.ResetValues := by
  unfold Obligations.ResetValues
  refine ⟨?registers, ?dies, ?rings, ?ports, fun _ => rfl, rfl, rfl, rfl, rfl, rfl, rfl, rfl⟩
  case registers => decide +kernel
  case dies => decide +kernel
  case rings => decide +kernel
  case ports => decide +kernel

end Sys2Proof.Safety
end

section
/-! PROOF. O45: the model's walk and the outcomes of 04 R77 to R80. -/

namespace Sys2Proof.Safety
open Sys2Proof.Machine

/-! ### Bytes and fields of an entry -/

theorem littleEndian_succ (m : Nat → Byte) (a n : Nat) : littleEndian m a (n + 1) = (m a).toNat + 256 * littleEndian m (a + 1) n := by
  simp only [littleEndian, List.range_succ_eq_map, List.map_cons, List.map_map, List.sum_cons, Nat.mul_zero, pow_zero, mul_one, Nat.add_zero,
    ← List.sum_map_mul_left]
  refine congrArg _ (congrArg List.sum (List.map_congr_left fun i _ => ?_))
  simp only [Function.comp_apply, Nat.succ_eq_add_one, Nat.mul_add, pow_add, show a + (i + 1) = a + 1 + i by omega]
  ring

theorem littleEndian_lt (m : Nat → Byte) (a n : Nat) : littleEndian m a n < 256 ^ n := by
  induction n generalizing a with
  | zero => simp [littleEndian]
  | succ n ih =>
    have hbyte := (m a).isLt
    have hrest := ih (a + 1)
    rw [littleEndian_succ, pow_succ]
    omega

theorem cellRead_eq_littleEndian (m : Cells 8) (a n : Nat) : cellRead m a n = littleEndian (cellGet m) a n := by
  induction n generalizing a with
  | zero => rfl
  | succ n ih => rw [littleEndian_succ, ← ih]; rfl

theorem bits_eq_div_mod (x hi lo : Nat) : bits x hi lo = x / 2 ^ lo % 2 ^ (hi + 1 - lo) := by
  rw [bits, Nat.shiftRight_eq_div_pow]

theorem bit_eq_testBit (x i : Nat) : bit x i = x.testBit i := by
  rw [bit, Nat.shiftRight_eq_div_pow, Nat.testBit_eq_decide_div_mod_eq]
  rfl

theorem poisoned_iff (s : State) (a : Nat) : s.poisoned a 8 = true ↔ Spoiled s a := by simp [State.poisoned, Spoiled]

theorem isDev_iff (s : State) (pa : Nat) : s.isDev pa = true ↔ InDevice s pa := by simp [State.isDev, InDevice]

theorem typeAgrees_iff (s : State) (pa code : Nat) (h : code < 4) : typeAgrees (s.region pa) (mtypeOf code) = true ↔ TypeFits s pa code := by
  unfold TypeFits
  cases s.region pa <;> interval_cases code <;> decide

theorem mtypeOf_eq (code : Nat) (h : code < 4) : mtypeOf code = [MType.cached, .homeonly, .host, .io].getD code .cached := by
  interval_cases code <;> rfl

theorem leafLog2_eq (level e : Nat) : leafLog2 level (e.testBit 5) = pageLog level e := by
  unfold leafLog2 pageLog
  split <;> simp_all

/-! ### One entry -/

/-- The physical address in an entry. -/
def entryPa (e : Nat) : Nat := e / 2 ^ 12 % 2 ^ 40 * 2 ^ 12

/-- The model's test for an entry that breaks 04 R79. -/
def malformed (s : State) (level e : Nat) : Bool :=
  (bits e 63 60 != 0 || bits e 57 52 != 0 || bits e 7 6 != 0 || (bit e 4 && level == 3) || (!bit e 4 && level == 0) ||
    (bit e 5 && (level != 0 || !bit e 4))) ||
  if bit e 4 then entryPa e % 2 ^ leafLog2 level (bit e 5) != 0 || !typeAgrees (s.region (entryPa e)) (mtypeOf (bits e 59 58))
  else bits e 59 58 != 0 || bits e 3 1 != 0 || !s.isDev (entryPa e)

theorem malformed_iff (s : State) (level e : Nat) (he : e < 2 ^ 64) : malformed s level e = true ↔ BadEntry s level e := by
  have htop : bits e 63 60 = 0 ↔ ¬ 2 ^ 60 ≤ e := by rw [bits_eq_div_mod]; omega
  have hagree := typeAgrees_iff s (entryPa e) (e / 2 ^ 58 % 4) (Nat.mod_lt _ (by decide))
  have hdev := isDev_iff s (entryPa e)
  have htype : bits e 59 58 = e / 2 ^ 58 % 4 := bits_eq_div_mod e 59 58
  have hperm : bits e 3 1 = e / 2 % 8 := bits_eq_div_mod e 3 1
  have hmid : bits e 57 52 = e / 2 ^ 52 % 2 ^ 6 := bits_eq_div_mod e 57 52
  have hlow : bits e 7 6 = e / 2 ^ 6 % 4 := bits_eq_div_mod e 7 6
  unfold malformed BadEntry
  rw [htype, hperm, hmid, hlow]
  simp only [bit_eq_testBit, leafLog2_eq]
  change _ ↔ 2 ^ 60 ≤ e ∨ _ ∨ _ ∨ _ ∨ _ ∨ _ ∨ (_ ∧ (_ ∨ _ ∨ ¬ InDevice s (entryPa e))) ∨ (_ ∧ (entryPa e % _ ≠ 0 ∨ ¬ TypeFits s (entryPa e) _))
  rw [← hagree, ← hdev]
  cases hleaf : e.testBit 4 <;> simp [htop, not_le, or_assoc]

/-- The translation that a leaf gives. -/
def leafEntry (asn : BitVec 12) (va level e : Nat) : TlbEntry :=
  { asn := asn, page := va % 2 ^ 56 / 2 ^ pageLog level e, log2 := pageLog level e, pa := entryPa e,
    mtype := mtypeOf (e / 2 ^ 58 % 4), perms := BitVec.ofNat 3 (e / 2 % 8) }

/-- What an entry says, in the order of the checks. -/
theorem tableEntry_eq (s : State) (asn : BitVec 12) (va level e : Nat) : s.tableEntry asn va level e =
    if e.testBit 0 = false then .done (.fault 1 level)
    else if malformed s level e then .done (.fault 2 level)
    else if e.testBit 4 = false then .go (level - 1) (entryPa e)
    else if s.region (entryPa e) = .hole then .done (.fault 3 level)
    else .done (.ok (leafEntry asn va level e)) := by
  have hpa : bits e 51 12 * 4096 = entryPa e := by rw [bits_eq_div_mod]; rfl
  have htype : bits e 59 58 = e / 2 ^ 58 % 4 := bits_eq_div_mod e 59 58
  have hperm : bits e 3 1 = e / 2 % 8 := bits_eq_div_mod e 3 1
  unfold State.tableEntry malformed leafEntry
  simp only [hpa, bit_eq_testBit, leafLog2_eq, htype, hperm]
  cases e.testBit 0
  · rfl
  · simp only [Bool.not_true, Bool.false_eq_true, if_false, Bool.true_eq_false]
    cases e.testBit 4 <;> simp only [Bool.not_true, Bool.not_false, Bool.false_eq_true, if_false, if_true, Bool.true_eq_false]
    all_goals
      generalize (bits e 63 60 != 0 || bits e 57 52 != 0 || bits e 7 6 != 0 || _ || _ || _ : Bool) = broken
      cases broken <;> simp [xMALFORMED, xABSENT]

/-! ### One read -/

/-- Below the address-space table a read takes the entry of the spec's place. -/
theorem walkRead_eq {s : State} {asn : BitVec 12} {va level table : Nat} (hlevel : level ≤ 3) : s.walkRead asn va level table =
    if s.poisoned (entryPlace va level table) 8 then .done (.bad (entryPlace va level table / 8))
    else s.tableEntry asn va level (entryAt s va level table) := by
  have hplace : Machine.entryAt asn va level table = entryPlace va level table := by
    unfold Machine.entryAt entryPlace
    simp only [beq_iff_eq, show level ≠ 4 by omega, if_false, bits_eq_div_mod]
    split
    · rfl
    · rw [show 20 + 9 * level + 1 - (12 + 9 * level) = 9 by omega]
  simp only [State.walkRead, hplace, beq_iff_eq, show level ≠ 4 by omega, if_false, State.homeRead, cellRead_eq_littleEndian]
  rfl

section
variable {s : State} {asn : BitVec 12} {va level table : Nat} (hlevel : level ≤ 3)
include hlevel

theorem walkRead_spoiled (h : Spoiled s (entryPlace va level table)) :
    s.walkRead asn va level table = .done (.bad (entryPlace va level table / 8)) := by
  rw [walkRead_eq hlevel, if_pos ((poisoned_iff s _).mpr h)]

theorem walkRead_entry (h : ¬ Spoiled s (entryPlace va level table)) :
    s.walkRead asn va level table = s.tableEntry asn va level (entryAt s va level table) := by
  rw [walkRead_eq hlevel, if_neg (mt (poisoned_iff s _).mp h)]

end

theorem malformed_entryAt_iff (s : State) (va level table : Nat) :
    malformed s level (entryAt s va level table) = true ↔ BadEntry s level (entryAt s va level table) :=
  malformed_iff s level _ (littleEndian_lt _ _ 8)

/-- A translation with the fields that 04 R78 gives a leaf is that of the leaf. -/
theorem eq_leafEntry {asn : BitVec 12} {va level e : Nat} {x : TlbEntry} (hasn : x.asn = asn) (hlog : x.log2 = pageLog level e)
    (hpage : x.page = va % 2 ^ 56 / 2 ^ pageLog level e) (hpa : x.pa = entryPa e)
    (htype : x.mtype = [MType.cached, .homeonly, .host, .io].getD (e / 2 ^ 58 % 4) .cached) (hperm : x.perms.toNat = e / 2 % 8) :
    x = leafEntry asn va level e := by
  obtain ⟨xasn, xpage, xlog, xpa, xtype, xperms⟩ := x
  simp only at hasn hlog hpage hpa htype hperm
  have hperms : xperms = BitVec.ofNat 3 (e / 2 % 8) := by rw [← hperm]; simp
  rw [leafEntry, mtypeOf_eq _ (Nat.mod_lt _ (by decide))]
  subst hasn hlog hpage hpa htype hperms
  rfl

/-! ### A walk from a table -/

theorem walkGo_of_done {s : State} {asn : BitVec 12} {va level table n : Nat} {r : Walk} (h : s.walkRead asn va level table = .done r)
    (hn : level < n) : s.walkGo asn va n level table = .done r := by
  obtain ⟨k, rfl⟩ : ∃ k, n = k + 1 := ⟨n - 1, by omega⟩
  rw [State.walkGo, h]

/-- The model's walk finds every outcome that a walk can come to, in as many reads as there are levels left. -/
theorem walkGo_of_walkEnds {s : State} {asn : BitVec 12} {va level table : Nat} {r : Walk} (h : WalkEnds s asn va level table r)
    (hlevel : level ≤ 3) (n : Nat) (hn : level < n) : s.walkGo asn va n level table = .done r := by
  induction h generalizing n with
  | spoiled level table hbad => exact walkGo_of_done (walkRead_spoiled hlevel hbad) hn
  | invalid level table hgood hvalid =>
    refine walkGo_of_done ?_ hn
    rw [walkRead_entry hlevel hgood, tableEntry_eq, if_pos hvalid]
  | bad level table hgood hvalid hbad =>
    refine walkGo_of_done ?_ hn
    rw [walkRead_entry hlevel hgood, tableEntry_eq, if_neg (by simp [hvalid]), if_pos ((malformed_entryAt_iff s va level table).mpr hbad)]
  | down level table e r hgood he hvalid hwell hleaf _ ih =>
    subst he
    obtain ⟨k, rfl⟩ : ∃ k, n = k + 1 := ⟨n - 1, by omega⟩
    rw [State.walkGo, walkRead_entry hlevel hgood, tableEntry_eq, if_neg (by simp [hvalid]),
      if_neg (mt (malformed_entryAt_iff s va (level + 1) table).mp hwell), if_pos hleaf]
    exact ih (by omega) k (by omega)
  | absent level table e hgood he hvalid hwell hleaf hhole =>
    subst he
    refine walkGo_of_done ?_ hn
    rw [walkRead_entry hlevel hgood, tableEntry_eq, if_neg (by simp [hvalid]), if_neg (mt (malformed_entryAt_iff s va level table).mp hwell),
      if_neg (by simp [hleaf]), if_pos (by exact hhole)]
  | leaf level table e x hgood he hvalid hwell hleaf hhole hasn hlog hpage hpa htype hperm =>
    subst he
    refine walkGo_of_done ?_ hn
    rw [walkRead_entry hlevel hgood, tableEntry_eq, if_neg (by simp [hvalid]), if_neg (mt (malformed_entryAt_iff s va level table).mp hwell),
      if_neg (by simp [hleaf]), if_neg (by exact hhole), eq_leafEntry hasn hlog hpage hpa htype hperm]

theorem leaf_walkEnds {s : State} {asn : BitVec 12} {va level table : Nat} (hgood : ¬ Spoiled s (entryPlace va level table))
    (hvalid : (entryAt s va level table).testBit 0 = true) (hwell : ¬ BadEntry s level (entryAt s va level table))
    (hleaf : (entryAt s va level table).testBit 4 = true) : ∃ r, WalkEnds s asn va level table r := by
  by_cases hhole : s.region (entryPa (entryAt s va level table)) = .hole
  · exact ⟨_, .absent level table _ hgood rfl hvalid hwell hleaf hhole⟩
  · refine ⟨_, .leaf level table _ (leafEntry asn va level (entryAt s va level table)) hgood rfl hvalid hwell hleaf hhole rfl rfl rfl rfl
      (mtypeOf_eq _ (Nat.mod_lt _ (by decide))) ?_⟩
    simp [leafEntry]

/-- Every walk comes to an outcome: level 0 holds no pointer. -/
theorem exists_walkEnds (s : State) (asn : BitVec 12) (va level table : Nat) : ∃ r, WalkEnds s asn va level table r := by
  by_cases hgood : Spoiled s (entryPlace va level table)
  · exact ⟨_, .spoiled level table hgood⟩
  cases hvalid : (entryAt s va level table).testBit 0
  · exact ⟨_, .invalid level table hgood hvalid⟩
  by_cases hwell : BadEntry s level (entryAt s va level table)
  · exact ⟨_, .bad level table hgood hvalid hwell⟩
  cases hleaf : (entryAt s va level table).testBit 4
  case true => exact leaf_walkEnds hgood hvalid hwell hleaf
  case false =>
    cases level with
    | zero => exact absurd (.inr (.inr (.inr (.inr (.inl ⟨by simp [hleaf], rfl⟩))))) hwell
    | succ level =>
      obtain ⟨r, hr⟩ := exists_walkEnds s asn va level (entryPa (entryAt s va (level + 1) table))
      exact ⟨r, .down level table _ r hgood rfl hvalid hwell hleaf hr⟩

/-- 04 R78 to R80, R88: from a table of level 3 or below the model's walk ends, and with the walk's one outcome. -/
theorem walkEnds_iff {s : State} {asn : BitVec 12} {va level table n : Nat} {r : Walk} (hlevel : level ≤ 3) (hn : level < n) :
    WalkEnds s asn va level table r ↔ s.walkGo asn va n level table = .done r := by
  refine ⟨fun h => walkGo_of_walkEnds h hlevel n hn, fun h => ?_⟩
  obtain ⟨r', hr'⟩ := exists_walkEnds s asn va level table
  have heq := walkGo_of_walkEnds hr' hlevel n hn
  rw [h] at heq
  cases heq
  exact hr'

/-! ### The entry of the address space -/

/-- The address of an address space's entry in the table at `base`, its value, and the root that it names. -/
def rootPlace (asn : BitVec 12) (base : Nat) : Nat := base + 8 * asn.toNat
def rootAt (s : State) (asn : BitVec 12) (base : Nat) : Nat := littleEndian (cellGet s.mem) (rootPlace asn base) 8
def rootOf (e : Nat) : Nat := e / 2 ^ 20 % 2 ^ 32 * 2 ^ 20
/-- A valid entry that breaks 04 R77. -/
def BadRoot (s : State) (e : Nat) : Prop := e / 2 ^ 52 % 2 ^ 11 ≠ 0 ∨ e % 2 ^ 20 ≠ 0 ∨ ¬ InDevice s (rootOf e)

theorem walkRead_root_eq (s : State) (asn : BitVec 12) (va base : Nat) : s.walkRead asn va 4 base =
    if s.poisoned (rootPlace asn base) 8 then .done (.bad (rootPlace asn base / 8)) else s.rootEntry (rootAt s asn base) := by
  have hplace : Machine.entryAt asn va 4 base = rootPlace asn base := by simp [Machine.entryAt, rootPlace]
  simp only [State.walkRead, hplace, beq_self_eq_true, if_true, State.homeRead, cellRead_eq_littleEndian, rootAt]

theorem rootEntry_invalid (s : State) (e : Nat) (h : e.testBit 63 = false) : s.rootEntry e = .done (.fault 4 4) := by
  simp [State.rootEntry, bit_eq_testBit, h, xASINVALID]

theorem rootEntry_valid (s : State) (e : Nat) (h : e.testBit 63 = true) [Decidable (BadRoot s e)] :
    s.rootEntry e = if BadRoot s e then .done (.fault 2 4) else .go 3 (rootOf e) := by
  have hbad : (bits e 62 52 != 0 || bits e 19 0 != 0 || !s.isDev (rootOf e)) = true ↔ BadRoot s e := by
    have hdev := isDev_iff s (rootOf e)
    simp [BadRoot, ← hdev, bits_eq_div_mod, or_assoc]
  have hroot : bits e 51 20 * 2 ^ 20 = rootOf e := by rw [bits_eq_div_mod]; rfl
  simp only [State.rootEntry, bit_eq_testBit, h, hroot, Bool.not_true, Bool.false_eq_true, if_false, xMALFORMED]
  by_cases hb : BadRoot s e
  · rw [if_pos hb, if_pos (hbad.mpr hb)]
  · rw [if_neg hb, if_neg (mt hbad.mp hb)]

/-- What a walk from the address-space table at `base` comes to (04 R77). -/
def RootEnds (s : State) (asn : BitVec 12) (va base : Nat) (r : Walk) : Prop :=
  (Spoiled s (rootPlace asn base) ∧ r = .bad (rootPlace asn base / 8)) ∨
  (¬ Spoiled s (rootPlace asn base) ∧
    (((rootAt s asn base).testBit 63 = false ∧ r = .fault 4 4) ∨
      ((rootAt s asn base).testBit 63 = true ∧ BadRoot s (rootAt s asn base) ∧ r = .fault 2 4) ∨
      ((rootAt s asn base).testBit 63 = true ∧ ¬ BadRoot s (rootAt s asn base) ∧ WalkEnds s asn va 3 (rootOf (rootAt s asn base)) r)))

theorem walkComesTo_iff (s : State) (asn : BitVec 12) (va : Nat) (r : Walk) :
    WalkComesTo s asn va r ↔ RootEnds s asn va (s.regs.astbase.toNat / 2 ^ 15 % 2 ^ 37 * 2 ^ 15) r := Iff.rfl

theorem walkStart_eq (s : State) : s.walkStart = (4, s.regs.astbase.toNat / 2 ^ 15 % 2 ^ 37 * 2 ^ 15) := by
  rw [State.walkStart, bits_eq_div_mod]

/-- 04 R77: a whole walk of the model, five reads at most, comes to the one outcome of a walk from its table. -/
theorem rootEnds_iff (s : State) (asn : BitVec 12) (va base : Nat) (r : Walk) :
    RootEnds s asn va base r ↔ s.walkGo asn va 5 4 base = .done r := by
  classical
  unfold RootEnds
  rw [State.walkGo, walkRead_root_eq]
  simp only [poisoned_iff]
  by_cases hgood : Spoiled s (rootPlace asn base)
  · simp only [hgood, if_true, true_and, not_true_eq_false, false_and, or_false, WalkStep.done.injEq, @eq_comm _ r]
  simp only [hgood, if_false, false_and, false_or, not_false_eq_true, true_and]
  cases hvalid : (rootAt s asn base).testBit 63
  · simp only [rootEntry_invalid s _ hvalid, true_and, Bool.false_eq_true, false_and, or_false, WalkStep.done.injEq, @eq_comm _ r]
  rw [rootEntry_valid s _ hvalid]
  by_cases hbad : BadRoot s (rootAt s asn base)
  · rw [if_pos hbad]
    simp only [hbad, true_and, Bool.true_eq_false, not_true_eq_false, false_and, false_or, or_false, WalkStep.done.injEq, @eq_comm _ r]
  · rw [if_neg hbad, ← walkEnds_iff (le_refl 3) (show 3 < 4 by decide)]
    simp [hbad]

theorem exists_rootEnds (s : State) (asn : BitVec 12) (va base : Nat) : ∃ r, RootEnds s asn va base r := by
  by_cases hgood : Spoiled s (rootPlace asn base)
  · exact ⟨_, .inl ⟨hgood, rfl⟩⟩
  cases hvalid : (rootAt s asn base).testBit 63
  · exact ⟨_, .inr ⟨hgood, .inl ⟨hvalid, rfl⟩⟩⟩
  by_cases hbad : BadRoot s (rootAt s asn base)
  · exact ⟨_, .inr ⟨hgood, .inr (.inl ⟨hvalid, hbad, rfl⟩)⟩⟩
  · obtain ⟨r, hr⟩ := exists_walkEnds s asn va 3 (rootOf (rootAt s asn base))
    exact ⟨r, .inr ⟨hgood, .inr (.inr ⟨hvalid, hbad, hr⟩)⟩⟩

/-- Settles O45: the model's walk ends, and its end is the one outcome of the relation over the entries (`rootEnds_iff`, `walkEnds_iff`). -/
theorem pageWalks : Obligations.PageWalks := by
  intro s asn va r
  obtain ⟨w, hw⟩ := exists_rootEnds s asn va s.walkStart.2
  rw [rootEnds_iff] at hw
  have hwalk : s.walk asn va = w := by rw [State.walk, hw]
  have hstart : s.walkStart.2 = s.regs.astbase.toNat / 2 ^ 15 % 2 ^ 37 * 2 ^ 15 := by rw [walkStart_eq]
  rw [walkComesTo_iff, rootEnds_iff, ← hstart, hw, hwalk, WalkStep.done.injEq]

end Sys2Proof.Safety
end

section
/-! PROOF. O46: walks dispatched, read on and completed. -/

namespace Sys2Proof.Safety
open Sys2Proof.Machine

/-! ### Dies and cores after an update -/

theorem listSet_eq_modify {α : Type} (l : List α) (i : Nat) (f : α → α) : listSet l i f = l.modify i f := by
  ext j x
  rw [listSet_getElem?, List.getElem?_modify]
  by_cases h : j = i
  · subst h; simp
  · rw [if_neg h]
    simp [Ne.symm h]

theorem die_updDie {s : State} {d : Nat} (f : Die → Die) (h : d < s.dies.length) : (s.updDie d f).die d = f (s.die d) := by
  simp [State.die, State.updDie, listSet_getElem?, List.getD_eq_getElem?_getD, List.getElem?_eq_getElem h]

theorem core_updCore {s : State} {c : Nat} (f : Core → Core) (h : c < s.cores.length) : (s.updCore c f).core c = f (s.core c) := by
  simp [State.core, State.updCore, listSet_getElem?, List.getD_eq_getElem?_getD, List.getElem?_eq_getElem h]

theorem core_updCore_ne (s : State) {c j : Nat} (f : Core → Core) (h : j ≠ c) : (s.updCore c f).core j = s.core j := by
  simp [State.core, State.updCore, listSet_getElem?, List.getD_eq_getElem?_getD, h]

/-- A part of a core that an update keeps is kept in every core. -/
theorem core_updCore_keeps {α : Type} (g : Core → α) (s : State) (c j : Nat) (f : Core → Core) (hf : ∀ k, g (f k) = g k) :
    g ((s.updCore c f).core j) = g (s.core j) := by
  by_cases h : j = c
  · subst h
    by_cases hlen : j < s.cores.length
    · rw [core_updCore f hlen, hf]
    · simp [State.core, State.updCore, List.getD_eq_getElem?_getD, listSet_getElem?, List.getElem?_eq_none (Nat.le_of_not_lt hlen)]
  · rw [core_updCore_ne s f h]

/-! ### Dispatch and single reads -/

theorem execWalkDispatch_idle {d : Nat} {s : State} (h : (s.die d).missq = [] ∨ 512 ≤ (s.die d).walks.length) :
    execWalkDispatch d s = .next s := by
  unfold execWalkDispatch
  split
  · rfl
  next m rest hq =>
    rw [if_neg]
    rcases h with hempty | hfull
    · simp [hq] at hempty
    · omega

theorem execWalkDispatch_starts {d : Nat} {s : State} {m : Miss} {rest : List Miss} (hq : (s.die d).missq = m :: rest)
    (hroom : (s.die d).walks.length < 512) :
    execWalkDispatch d s = .next { s with dies := s.dies.modify d (fun x => { x with
      missq := rest, walks := x.walks ++ [{ m with pos := some (4, s.regs.astbase.toNat / 2 ^ 15 % 2 ^ 37 * 2 ^ 15) }] }) } := by
  unfold execWalkDispatch
  rw [hq]
  simp only [hroom, if_true, State.updDie, listSet_eq_modify, walkStart_eq]

theorem execTlbWalkComplete_moves {s : State} {d k : Nat} {m : Miss} {level table n p : Nat} (hwalk : (s.die d).walks[k]? = some m)
    (hpos : m.pos = some (level, table)) (hread : s.walkRead m.asn (m.page * 4096) level table = .go n p) :
    execTlbWalkComplete d (k, some 1) s = .next { s with dies := s.dies.modify d (fun x => { x with
      walks := x.walks.modify k (fun m => { m with pos := some (n, p) }) }) } := by
  simp only [execTlbWalkComplete, hwalk, hpos, Option.getD_some, State.walkGo, hread, Option.isNone_some, Bool.false_eq_true, if_false,
    State.updDie, listSet_eq_modify]

theorem execTlbWalkComplete_ends {s : State} {d k : Nat} {m : Miss} {level table : Nat} {o : Walk} (hwalk : (s.die d).walks[k]? = some m)
    (hpos : m.pos = some (level, table)) (hgo : s.walkGo m.asn (m.page * 4096) 5 level table = .done o) :
    execTlbWalkComplete d (k, none) s = .next (s.walkEnds d k m o) := by
  simp only [execTlbWalkComplete, hwalk, hpos, Option.getD_some, Option.getD_none, hgo]

/-- A walk reads memory, poison and the map of the tiers alone. -/
theorem walkGo_setRegs (s : State) (g : Regs) (asn : BitVec 12) (va n level table : Nat) :
    ({ s with regs := g } : State).walkGo asn va n level table = s.walkGo asn va n level table := by
  induction n generalizing level table with
  | zero => rfl
  | succ n ih =>
    simp only [State.walkGo]
    rw [show ({ s with regs := g } : State).walkRead asn va level table = s.walkRead asn va level table from rfl]
    split
    · exact ih _ _
    · rfl

/-- Where a walk under way ends, from the address-space table or from a table of a level. -/
theorem walkGo_of_ends {s : State} {m : Miss} {o : Walk}
    (h : (∃ base : Word, base.toNat < 2 ^ 52 ∧ base.toNat % 2 ^ 15 = 0 ∧ m.pos = some (4, base.toNat) ∧
        WalkComesTo { s with regs := { s.regs with astbase := base } } m.asn (m.page * 4096) o) ∨
      ∃ level table, level ≤ 3 ∧ m.pos = some (level, table) ∧ WalkEnds s m.asn (m.page * 4096) level table o) :
    ∃ level table, m.pos = some (level, table) ∧ s.walkGo m.asn (m.page * 4096) 5 level table = .done o := by
  rcases h with ⟨base, hlt, halign, hpos, hends⟩ | ⟨level, table, hlevel, hpos, hends⟩
  · have hbase : base.toNat / 2 ^ 15 % 2 ^ 37 * 2 ^ 15 = base.toNat := by omega
    rw [walkComesTo_iff, rootEnds_iff, walkGo_setRegs] at hends
    exact ⟨4, base.toNat, hpos, by simpa only [hbase] using hends⟩
  · exact ⟨level, table, hpos, (walkEnds_iff hlevel (by omega)).mp hends⟩

theorem walkRead_root_go {s : State} {asn : BitVec 12} {va base : Nat} (hgood : ¬ Spoiled s (rootPlace asn base))
    (hvalid : (rootAt s asn base).testBit 63 = true) (hwell : ¬ BadRoot s (rootAt s asn base)) :
    s.walkRead asn va 4 base = .go 3 (rootOf (rootAt s asn base)) := by
  classical
  rw [walkRead_root_eq, if_neg (mt (poisoned_iff s _).mp hgood), rootEntry_valid s _ hvalid, if_neg hwell]

theorem walkRead_go {s : State} {asn : BitVec 12} {va level table : Nat} (hlevel : level ≤ 3) (hgood : ¬ Spoiled s (entryPlace va level table))
    (hvalid : (entryAt s va level table).testBit 0 = true) (hwell : ¬ BadEntry s level (entryAt s va level table))
    (hleaf : (entryAt s va level table).testBit 4 = false) :
    s.walkRead asn va level table = .go (level - 1) (entryPa (entryAt s va level table)) := by
  rw [walkRead_entry hlevel hgood, tableEntry_eq, if_neg (by simp [hvalid]), if_neg (mt (malformed_entryAt_iff s va level table).mp hwell),
    if_pos hleaf]

/-! ### Translations installed -/

theorem mem_tlbPut_self (l : List TlbEntry) (e : TlbEntry) : e ∈ tlbPut l e := by
  unfold tlbPut
  split
  next h => exact List.elem_iff.mp h
  · simp

theorem mem_tlbPutShared_self (l : List TlbEntry) (e : TlbEntry) : e ∈ tlbPutShared l e := by
  unfold tlbPutShared
  split
  next h => exact List.elem_iff.mp h
  · split <;> simp

theorem mem_of_mem_tlbPutShared {l : List TlbEntry} {e y : TlbEntry} (h : y ∈ tlbPutShared l e) : y = e ∨ y ∈ l := by
  unfold tlbPutShared at h
  split at h
  · exact .inr h
  split at h
  · simpa [or_comm] using h
  · rcases List.mem_append.mp h with hold | hnew
    · right
      split at hold
      · exact List.mem_of_mem_eraseIdx hold
      · exact hold
    · exact .inl (by simpa using hnew)

/-- `t` is `s` with the translation `e` installed on cores of die `d`, among them those of `cs`. -/
structure Installed (d : Nat) (e : TlbEntry) (cs : List Nat) (s t : State) : Prop where
  rest : { t with cores := s.cores, dies := s.dies } = s
  cores : t.cores.length = s.cores.length
  dies : t.dies.length = s.dies.length
  walks : (t.die d).walks = (s.die d).walks
  missq : (t.die d).missq = (s.die d).missq
  cmds : ∀ c, (t.core c).cmds = (s.core c).cmds
  core : ∀ c ∈ cs, e ∈ (t.core c).tlb
  die : cs ≠ [] → e ∈ (t.die d).tlb
  old : ∀ y ∈ (t.die d).tlb, y = e ∨ y ∈ (s.die d).tlb

theorem Installed.nil (d : Nat) (e : TlbEntry) (s : State) : Installed d e [] s s where
  rest := rfl
  cores := rfl
  dies := rfl
  walks := rfl
  missq := rfl
  cmds := fun _ => rfl
  core := by simp
  die := by simp
  old := fun _ h => .inr h

/-- One more core of the die. -/
theorem Installed.snoc {d : Nat} {e : TlbEntry} {cs : List Nat} {s t : State} (h : Installed d e cs s t) {c : Nat} (hdie : c / 32 = d)
    (hcore : c < s.cores.length) (hlen : d < s.dies.length) : Installed d e (cs ++ [c]) s (t.installTlb c e) := by
  subst hdie
  have hc : c < t.cores.length := h.cores ▸ hcore
  have hd : c / 32 < t.dies.length := h.dies ▸ hlen
  have hdieEq : (t.installTlb c e).die (c / 32) = { t.die (c / 32) with tlb := tlbPutShared (t.die (c / 32)).tlb e } :=
    die_updDie (s := t.updCore c _) _ hd
  have hother : ∀ {α : Type} (g : Core → α), (∀ k tlb, g { k with tlb := tlb } = g k) → ∀ j, g ((t.installTlb c e).core j) = g (t.core j) :=
    fun g hg j => core_updCore_keeps g t c j _ (fun k => hg k _)
  have hput : ((t.installTlb c e).core c).tlb = tlbPut (t.core c).tlb e := congrArg Core.tlb (core_updCore (s := t) _ hc)
  refine ⟨h.rest, ?_, ?_, ?_, ?_, fun j => (hother Core.cmds (fun _ _ => rfl) j).trans (h.cmds j), ?_, ?_, ?_⟩
  · exact (listSet_length _ _ _).trans h.cores
  · exact (listSet_length _ _ _).trans h.dies
  · rw [hdieEq]; exact h.walks
  · rw [hdieEq]; exact h.missq
  · intro j hj
    by_cases hjc : j = c
    · subst hjc
      rw [hput]
      exact mem_tlbPut_self _ e
    · have hkeep : (t.installTlb c e).core j = t.core j := core_updCore_ne t _ hjc
      rw [hkeep]
      exact h.core j (by simpa [hjc] using hj)
  · intro _
    rw [hdieEq]
    exact mem_tlbPutShared_self _ e
  · intro y hy
    rw [hdieEq] at hy
    rcases mem_of_mem_tlbPutShared hy with heq | hold
    · exact .inl heq
    · exact h.old y hold

theorem installed_foldl {d : Nat} {e : TlbEntry} {s : State} (hlen : d < s.dies.length) (cs : List Nat)
    (hcs : ∀ c ∈ cs, c / 32 = d ∧ c < s.cores.length) : Installed d e cs s (cs.foldl (fun s c => s.installTlb c e) s) := by
  induction cs using List.reverseRecOn with
  | nil => exact .nil d e s
  | append_singleton cs c ih =>
    obtain ⟨hdie, hcore⟩ := hcs c (by simp)
    rw [List.foldl_append]
    exact (ih fun c hc => hcs c (by simp [hc])).snoc hdie hcore hlen

end Sys2Proof.Safety
end

section
/-! PROOF. O46: what the waiters and the engines of a walk learn. -/

namespace Sys2Proof.Safety
open Sys2Proof.Machine

theorem mem_foldl_dedup {α : Type} [BEq α] [LawfulBEq α] (l acc : List α) (x : α) :
    x ∈ l.foldl (fun acc y => if acc.elem y then acc else acc ++ [y]) acc ↔ x ∈ acc ∨ x ∈ l := by
  induction l generalizing acc with
  | nil => simp
  | cons y l ih =>
    rw [List.foldl_cons, ih, List.mem_cons]
    split
    next hy =>
      have hmem : y ∈ acc := List.elem_iff.mp hy
      exact ⟨fun h => h.imp_right .inr, by rintro (h | rfl | h) <;> simp [*]⟩
    · simp [or_assoc]

theorem mem_dedup {α : Type} [BEq α] [LawfulBEq α] (l : List α) (x : α) : x ∈ dedup l ↔ x ∈ l := by
  rw [dedup, mem_foldl_dedup]
  simp

/-! ### Waiters -/

theorem foldl_updWave_rest (s : State) (f : Wave → Wave) (rs : List WaveRef) :
    { rs.foldl (fun s r => s.updWave r f) s with teams := s.teams } = s := by
  induction rs using List.reverseRecOn with
  | nil => rfl
  | append_singleton rs r ih =>
    rw [List.foldl_append]
    exact ih

/-- An update of waves depends on the teams alone. -/
theorem foldl_updWave_teams {s t : State} (h : t.teams = s.teams) (f : Wave → Wave) (rs : List WaveRef) :
    (rs.foldl (fun s r => s.updWave r f) t).teams = (rs.foldl (fun s r => s.updWave r f) s).teams := by
  induction rs generalizing s t with
  | nil => exact h
  | cons r rs ih => exact ih (by simp [State.updWave, State.updTeam, h])

theorem wave?_foldl_updWave_of_not_mem (s : State) (f : Wave → Wave) {rs : List WaveRef} {r : WaveRef} (h : r ∉ rs) :
    (rs.foldl (fun s r => s.updWave r f) s).wave? r = s.wave? r := by
  induction rs generalizing s with
  | nil => rfl
  | cons q rs ih =>
    simp only [List.mem_cons, not_or] at h
    obtain ⟨hq, hrs⟩ := h
    rw [List.foldl_cons, ih _ hrs, State.wave?_updWave_ne s q r f hq]

theorem wave?_foldl_updWave_of_mem (s : State) (f : Wave → Wave) {rs : List WaveRef} (hnodup : rs.Nodup) {r : WaveRef} (h : r ∈ rs) :
    (rs.foldl (fun s r => s.updWave r f) s).wave? r = (s.wave? r).map f := by
  induction rs generalizing s with
  | nil => simp at h
  | cons q rs ih =>
    obtain ⟨hq, hrs⟩ := List.nodup_cons.mp hnodup
    rw [List.foldl_cons]
    rcases List.mem_cons.mp h with heq | hmem
    · subst heq
      rw [wave?_foldl_updWave_of_not_mem _ f hq, State.wave?_updWave]
    · rw [ih _ hrs hmem, State.wave?_updWave_ne s q r f (fun e => hq (e ▸ hmem))]

theorem learn_of_waits {w : Wave} {page : Nat} {x : XEntry} {ps : List Nat} (hpark : w.park = .walk ps) (hpage : page ∈ ps) :
    w.learn page x = { w with
      xl := w.xl ++ [x], park := if ps.filter (fun p => p != page) = [] then .none else .walk (ps.filter (fun p => p != page)) } := by
  simp [Wave.learn, hpark, hpage]

theorem learn_of_not_waits {w : Wave} {page : Nat} {x : XEntry} (h : ∀ ps, w.park = .walk ps → page ∉ ps) : w.learn page x = w := by
  unfold Wave.learn
  split
  next ps hpark => simp [h ps hpark]
  · rfl

/-! ### Engines -/

/-- What an engine that learns leaves as it was: everything but teams and cores, and of a core everything but its commands. -/
theorem engineLearns_rest (s : State) (page : Nat) (x : XEntry) (g : Engine) :
    { s.engineLearns page x g with teams := s.teams, cores := s.cores } = s := by
  cases g <;> rfl

theorem core_tlb_engineLearns (s : State) (page : Nat) (x : XEntry) (g : Engine) (c : Nat) :
    ((s.engineLearns page x g).core c).tlb = (s.core c).tlb := by
  cases g with
  | cmd core id => exact core_updCore_keeps Core.tlb s core c _ (fun _ => rfl)
  | stream r q => rfl

theorem foldl_engineLearns_rest (s : State) (page : Nat) (x : XEntry) (gs : List Engine) :
    { gs.foldl (fun s g => s.engineLearns page x g) s with teams := s.teams, cores := s.cores } = s := by
  induction gs using List.reverseRecOn with
  | nil => rfl
  | append_singleton gs g ih =>
    rw [List.foldl_append, List.foldl_cons, List.foldl_nil]
    have hstep := engineLearns_rest (gs.foldl (fun s g => s.engineLearns page x g) s) page x g
    exact (congrArg (fun u : State => { u with teams := s.teams, cores := s.cores }) hstep).trans ih

theorem core_tlb_foldl_engineLearns (s : State) (page : Nat) (x : XEntry) (gs : List Engine) (c : Nat) :
    ((gs.foldl (fun s g => s.engineLearns page x g) s).core c).tlb = (s.core c).tlb := by
  induction gs generalizing s with
  | nil => rfl
  | cons g gs ih => rw [List.foldl_cons, ih, core_tlb_engineLearns]

theorem cmds_engineLearns {s : State} {c id page : Nat} {x : XEntry} (h : c < s.cores.length) :
    ((s.engineLearns page x (.cmd c id)).core c).cmds =
      (s.core c).cmds.map (fun y => if y.id = id then { y with xl := y.xl.filter (fun z => z.page != page) ++ [x] } else y) := by
  have hcore : (s.engineLearns page x (.cmd c id)).core c = _ := core_updCore (s := s) _ h
  rw [hcore]
  simp only [beq_iff_eq]

/-- What a stream learns of a page, with `n` lanes. -/
def streamLearns (n page : Nat) (x : XEntry) (z : Stream) : Stream :=
  if (x.fault.isSome || x.bad.isSome) && (List.range n).any (fun l => pageOf (z.addr z.fetched l).toNat == page) then
    { z with stopped := true } else z

theorem wave?_engineLearns_stream {s : State} {r : WaveRef} {q page : Nat} {x : XEntry} {w : Wave} (h : s.wave? r = some w) :
    (s.engineLearns page x (.stream r q)).wave? r = some { w with streams := w.streams.modify q (streamLearns w.lanes.length page x) } := by
  simp only [State.engineLearns, State.wave?_updWave, h, Option.map_some, Wave.updStream, listSet_eq_modify]
  rfl

theorem streamLearns_eq (n page : Nat) (asn : BitVec 12) (o : Walk) (z : Stream) :
    let here : Prop := ∃ l < n, (z.addr z.fetched l).toNat % 2 ^ 56 / 2 ^ 12 = page
    (((∀ e, o ≠ .ok e) ∧ here) → streamLearns n page (o.entry asn page) z = { z with stopped := true }) ∧
      (¬ ((∀ e, o ≠ .ok e) ∧ here) → streamLearns n page (o.entry asn page) z = z) := by
  have hhere : ((List.range n).any (fun l => pageOf (z.addr z.fetched l).toNat == page)) = true ↔
      ∃ l < n, (z.addr z.fetched l).toNat % 2 ^ 56 / 2 ^ 12 = page := by simp [pageOf]
  have hbad : ((o.entry asn page).fault.isSome || (o.entry asn page).bad.isSome) = true ↔ ∀ e, o ≠ .ok e := by
    cases o <;> simp [Walk.entry]
  intro here
  have hcond := and_congr hbad hhere
  rw [← Bool.and_eq_true] at hcond
  exact ⟨fun h => if_pos (hcond.mpr h), fun h => if_neg (mt hcond.mp h)⟩

end Sys2Proof.Safety
end

section
/-! PROOF. O46: the end of a walk. -/

namespace Sys2Proof.Safety
open Sys2Proof.Machine

/-- The state after a walk has left its walker. -/
def walkLeft (s : State) (d k : Nat) : State := s.updDie d (fun x => { x with walks := listDrop x.walks k })

/-- The cores that the end of a walk installs its translation on. -/
def walkCores (s : State) (m : Miss) : List Nat := dedup (m.core :: m.waiters.map (fun r => ((s.wave? r).getD Wave.reset).core))

/-- The state after the installation. -/
def walkInstalled (s : State) (d k : Nat) (m : Miss) : Walk → State
  | .ok e => (walkCores s m).foldl (fun s c => s.installTlb c e) (walkLeft s d k)
  | _ => walkLeft s d k

/-- The state after the waiters have learnt the outcome. -/
def walkLearnt (s : State) (d k : Nat) (m : Miss) (o : Walk) : State :=
  m.waiters.foldl (fun s r => s.updWave r (fun w => w.learn m.page (o.entry m.asn m.page))) (walkInstalled s d k m o)

theorem walkEnds_eq (s : State) (d k : Nat) (m : Miss) (o : Walk) :
    s.walkEnds d k m o = m.engines.foldl (fun s g => s.engineLearns m.page (o.entry m.asn m.page) g) (walkLearnt s d k m o) := by
  cases o <;> rfl

section
variable {s : State} {d k : Nat} {m : Miss} {o : Walk} (hd : d < s.dies.length) (hcore : m.core < s.cores.length) (hdie : m.core / 32 = d)
  (hwaiters : ∀ r ∈ m.waiters, ∃ w : Wave, s.wave? r = some w ∧ w.core / 32 = d ∧ w.core < s.cores.length)

theorem core_mem_walkCores (s : State) (m : Miss) : m.core ∈ walkCores s m := by simp [walkCores, mem_dedup]

theorem waiter_mem_walkCores {r : WaveRef} {w : Wave} (hr : r ∈ m.waiters) (hw : s.wave? r = some w) : w.core ∈ walkCores s m := by
  rw [walkCores, mem_dedup]
  exact List.mem_cons_of_mem _ (List.mem_map.mpr ⟨r, hr, by rw [hw, Option.getD_some]⟩)

include hcore hdie hwaiters in
theorem walkCores_die : ∀ c ∈ walkCores s m, c / 32 = d ∧ c < s.cores.length := by
  intro c hc
  rw [walkCores, mem_dedup] at hc
  rcases List.mem_cons.mp hc with rfl | hc
  · exact ⟨hdie, hcore⟩
  · obtain ⟨r, hr, rfl⟩ := List.mem_map.mp hc
    obtain ⟨w, hw, hwdie, hwcore⟩ := hwaiters r hr
    rw [hw]
    exact ⟨hwdie, hwcore⟩

include hd in
theorem die_walkLeft : (walkLeft s d k).die d = { s.die d with walks := (s.die d).walks.eraseIdx k } := by
  rw [walkLeft, die_updDie _ hd, listDrop_eq_eraseIdx]

include hd hcore hdie hwaiters in
theorem walkInstalled_ok (e : TlbEntry) : Installed d e (walkCores s m) (walkLeft s d k) (walkInstalled s d k m (.ok e)) :=
  installed_foldl (by rw [walkLeft, State.updDie, listSet_length]; exact hd) _ (walkCores_die hcore hdie hwaiters)

theorem walkInstalled_of_not_ok (h : ∀ e, o ≠ .ok e) : walkInstalled s d k m o = walkLeft s d k := by
  cases o with
  | ok e => exact absurd rfl (h e)
  | fault _ _ => rfl
  | bad _ => rfl

theorem walkLearnt_eq : { walkLearnt s d k m o with teams := (walkInstalled s d k m o).teams } = walkInstalled s d k m o :=
  foldl_updWave_rest _ _ _

theorem walkLearnt_cores : (walkLearnt s d k m o).cores = (walkInstalled s d k m o).cores :=
  (congrArg State.cores (walkLearnt_eq (s := s) (d := d) (k := k) (m := m) (o := o)) :)

theorem walkLearnt_dies : (walkLearnt s d k m o).dies = (walkInstalled s d k m o).dies :=
  (congrArg State.dies (walkLearnt_eq (s := s) (d := d) (k := k) (m := m) (o := o)) :)

theorem walkEnds_dies : (s.walkEnds d k m o).dies = (walkInstalled s d k m o).dies := by
  rw [walkEnds_eq, ← walkLearnt_dies]
  exact (congrArg State.dies (foldl_engineLearns_rest (walkLearnt s d k m o) m.page (o.entry m.asn m.page) m.engines) :)

theorem walkEnds_die : (s.walkEnds d k m o).die d = (walkInstalled s d k m o).die d := by
  rw [State.die, State.die, walkEnds_dies]

theorem walkEnds_tlb (c : Nat) : ((s.walkEnds d k m o).core c).tlb = ((walkInstalled s d k m o).core c).tlb := by
  rw [walkEnds_eq, core_tlb_foldl_engineLearns, State.core, State.core, walkLearnt_cores]

include hd in
/-- A fault installs nothing. -/
theorem walkEnds_of_not_ok (h : ∀ e, o ≠ .ok e) : ((s.walkEnds d k m o).die d).tlb = (s.die d).tlb ∧
    (m.engines = [] → (s.walkEnds d k m o).cores = s.cores) := by
  have hinstalled := walkInstalled_of_not_ok (s := s) (d := d) (k := k) (m := m) h
  constructor
  · rw [walkEnds_die, hinstalled, die_walkLeft hd]
  · intro hengines
    rw [walkEnds_eq, hengines, List.foldl_nil, walkLearnt_cores, hinstalled]
    rfl

include hd hcore hdie hwaiters

theorem walkInstalled_rest : { walkInstalled s d k m o with cores := s.cores, dies := s.dies } = s := by
  cases o with
  | ok e => exact congrArg (fun u : State => { u with cores := s.cores, dies := s.dies }) (walkInstalled_ok hd hcore hdie hwaiters e).rest
  | fault _ _ => rfl
  | bad _ => rfl

theorem walkInstalled_queues : ((walkInstalled s d k m o).die d).walks = (s.die d).walks.eraseIdx k ∧
    ((walkInstalled s d k m o).die d).missq = (s.die d).missq := by
  have hleft := die_walkLeft (k := k) hd
  cases o with
  | ok e =>
    have hin := walkInstalled_ok (k := k) hd hcore hdie hwaiters e
    rw [hin.walks, hin.missq, hleft]
    exact ⟨rfl, rfl⟩
  | fault _ _ => exact ⟨(congrArg Die.walks hleft :), (congrArg Die.missq hleft :)⟩
  | bad _ => exact ⟨(congrArg Die.walks hleft :), (congrArg Die.missq hleft :)⟩

theorem walkInstalled_cores_length : (walkInstalled s d k m o).cores.length = s.cores.length := by
  cases o with
  | ok e => exact (walkInstalled_ok (k := k) hd hcore hdie hwaiters e).cores
  | fault _ _ => rfl
  | bad _ => rfl

theorem walkInstalled_cmds (c : Nat) : ((walkInstalled s d k m o).core c).cmds = (s.core c).cmds := by
  cases o with
  | ok e => exact (walkInstalled_ok (k := k) hd hcore hdie hwaiters e).cmds c
  | fault _ _ => rfl
  | bad _ => rfl

theorem walkInstalled_teams : (walkInstalled s d k m o).teams = s.teams :=
  (congrArg State.teams (walkInstalled_rest (k := k) (o := o) hd hcore hdie hwaiters) :)

theorem walkEnds_rest : { s.walkEnds d k m o with teams := s.teams, cores := s.cores, dies := s.dies } = s := by
  have hengines := foldl_engineLearns_rest (walkLearnt s d k m o) m.page (o.entry m.asn m.page) m.engines
  rw [← walkEnds_eq] at hengines
  have h1 := congrArg (fun u : State => { u with teams := s.teams, cores := s.cores, dies := s.dies }) hengines
  have h2 := congrArg (fun u : State => { u with teams := s.teams, cores := s.cores, dies := s.dies }) (walkLearnt_eq (s := s) (d := d) (k := k) (m := m) (o := o))
  have h3 := congrArg (fun u : State => { u with teams := s.teams }) (walkInstalled_rest (k := k) (o := o) hd hcore hdie hwaiters)
  exact h1.trans (h2.trans h3)

/-- A translation is installed on the cores that wait for it, and on their die. -/
theorem walkEnds_of_ok {e : TlbEntry} : e ∈ ((s.walkEnds d k m (.ok e)).core m.core).tlb ∧ e ∈ ((s.walkEnds d k m (.ok e)).die d).tlb ∧
    (∀ r ∈ m.waiters, ∀ w, s.wave? r = some w → e ∈ ((s.walkEnds d k m (.ok e)).core w.core).tlb) ∧
    ∀ y ∈ ((s.walkEnds d k m (.ok e)).die d).tlb, y = e ∨ y ∈ (s.die d).tlb := by
  have hin := walkInstalled_ok (k := k) hd hcore hdie hwaiters e
  refine ⟨?_, ?_, fun r hr w hw => ?_, fun y hy => ?_⟩
  · rw [walkEnds_tlb]
    exact hin.core _ (core_mem_walkCores s m)
  · rw [walkEnds_die]
    exact hin.die (List.ne_nil_of_mem (core_mem_walkCores s m))
  · rw [walkEnds_tlb]
    exact hin.core _ (waiter_mem_walkCores hr hw)
  · rw [walkEnds_die] at hy
    have hold := hin.old y hy
    rwa [die_walkLeft hd] at hold

theorem walkLearnt_teams : (walkLearnt s d k m o).teams =
    (m.waiters.foldl (fun s r => s.updWave r (fun w => w.learn m.page (o.entry m.asn m.page))) s).teams :=
  foldl_updWave_teams (walkInstalled_teams hd hcore hdie hwaiters) _ _

theorem wave?_walkLearnt_of_not_mem {r : WaveRef} (h : r ∉ m.waiters) : (walkLearnt s d k m o).wave? r = s.wave? r := by
  rw [wave?_of_teams (walkLearnt_teams hd hcore hdie hwaiters), wave?_foldl_updWave_of_not_mem s _ h]

theorem wave?_walkLearnt_of_mem (hnodup : m.waiters.Nodup) {r : WaveRef} {w : Wave} (h : r ∈ m.waiters) (hw : s.wave? r = some w) :
    (walkLearnt s d k m o).wave? r = some (w.learn m.page (o.entry m.asn m.page)) := by
  rw [wave?_of_teams (walkLearnt_teams hd hcore hdie hwaiters), wave?_foldl_updWave_of_mem s _ hnodup h, hw, Option.map_some]

end

/-- 04 R82 to R84, R87: dispatch, single reads, and the end of a walk with all that learns of it. -/
theorem walks : Claims.Walks := by
  refine ⟨?dispatch, ?read, ?finish⟩
  case dispatch =>
    exact fun s d _ => ⟨execWalkDispatch_idle, fun m rest hq hroom => execWalkDispatch_starts hq hroom⟩
  case read =>
    intro s d k m level table hd hwalk hpos moves va
    constructor
    · intro hlevel a e root hgood hvalid hhigh hlow hdev
      subst hlevel
      have hwell : ¬ BadRoot s (rootAt s m.asn table) := by
        rintro (h | h | h)
        · exact h hhigh
        · exact h hlow
        · exact h hdev
      exact execTlbWalkComplete_moves hwalk hpos (walkRead_root_go hgood hvalid hwell)
    · intro _ hlevel e hgood hvalid hwell hleaf
      exact execTlbWalkComplete_moves hwalk hpos (walkRead_go hlevel hgood hvalid hwell hleaf)
  case finish =>
    intro s d k m o hd hwalk hcore hdie hnodup hwaiters hends blank x
    have hx : x = o.entry m.asn m.page := by cases o <;> rfl
    obtain ⟨level, table, hpos, hgo⟩ := walkGo_of_ends hends
    obtain ⟨hwalks, hmissq⟩ := walkInstalled_queues (k := k) (o := o) hd hcore hdie hwaiters
    refine ⟨s.walkEnds d k m o, execTlbWalkComplete_ends hwalk hpos hgo, walkEnds_rest hd hcore hdie hwaiters, ?_, ?_,
      walkEnds_of_not_ok hd, ?_, ?_, ?_, ?_⟩
    · rw [walkEnds_die, hwalks]
    · rw [walkEnds_die, hmissq]
    · rintro e rfl
      exact walkEnds_of_ok hd hcore hdie hwaiters
    · intro hengines
      have hend : s.walkEnds d k m o = walkLearnt s d k m o := by rw [walkEnds_eq, hengines, List.foldl_nil]
      rw [hend, hx]
      refine ⟨fun r hr => wave?_walkLearnt_of_not_mem hd hcore hdie hwaiters hr, fun r hr w hw => ?_⟩
      rw [wave?_walkLearnt_of_mem hd hcore hdie hwaiters hnodup hr hw]
      exact ⟨fun ps hpark hpage => congrArg some (learn_of_waits hpark hpage), fun hno => congrArg some (learn_of_not_waits hno)⟩
    · intro c id hengines hc
      have hend : s.walkEnds d k m o = (walkLearnt s d k m o).engineLearns m.page (o.entry m.asn m.page) (.cmd c id) := by
        rw [walkEnds_eq, hengines, List.foldl_cons, List.foldl_nil]
      rw [hend, hx]
      refine ⟨walkLearnt_teams hd hcore hdie hwaiters, ?_⟩
      have hlen : c < (walkLearnt s d k m o).cores.length := by
        rw [walkLearnt_cores, walkInstalled_cores_length hd hcore hdie hwaiters]
        exact hc
      rw [cmds_engineLearns hlen, State.core, walkLearnt_cores]
      exact congrArg _ (walkInstalled_cmds hd hcore hdie hwaiters c)
    · intro r q w hengines hr hw
      refine ⟨streamLearns w.lanes.length m.page (o.entry m.asn m.page), ?_, fun z => streamLearns_eq _ _ _ _ _⟩
      rw [walkEnds_eq, hengines, List.foldl_cons, List.foldl_nil]
      exact wave?_engineLearns_stream ((wave?_walkLearnt_of_not_mem hd hcore hdie hwaiters hr).trans hw)

end Sys2Proof.Safety
end

section
/-! PROOF. O46: invalidation. -/

namespace Sys2Proof.Safety
open Sys2Proof.Machine

/-! ### Pages in a range -/

/-- Two ranges of addresses, the first with a byte in it, meet when each begins before the other ends. -/
theorem ranges_meet_iff (lo hi first last : Nat) (hlo : lo < hi) (hfirst : first < last) :
    (∃ a, lo ≤ a ∧ a < hi ∧ first ≤ a ∧ a < last) ↔ lo < last ∧ first < hi := by
  constructor
  · rintro ⟨a, h1, h2, h3, h4⟩
    omega
  · rintro ⟨h1, h2⟩
    exact ⟨max lo first, by omega, by omega, by omega, by omega⟩

theorem tlbiHits_iff (cmd va : Word) (asn : BitVec 12) (page log2 : Nat) :
    tlbiHits cmd va asn page log2 = true ↔ Invalidates cmd va asn page log2 := by
  have hasn : bits cmd.toNat 63 52 = cmd.toNat / 2 ^ 52 := by
    have hlt := cmd.isLt
    rw [bits_eq_div_mod]
    omega
  have hfirst : bits va.toNat 55 12 * 4096 = va.toNat % 2 ^ 56 / 2 ^ 12 * 2 ^ 12 := by
    rw [bits_eq_div_mod]
    omega
  have hn : bits cmd.toNat 31 0 = cmd.toNat % 2 ^ 32 := by rw [bits_eq_div_mod, pow_zero, Nat.div_one]
  simp only [tlbiHits, Invalidates, hasn, hfirst, hn, Bool.and_eq_true, Bool.or_eq_true, beq_iff_eq, decide_eq_true_eq, Nat.mul_comm 4096]
  refine and_congr_right fun _ => or_congr_right' fun hpos => ?_
  have hpage : page * 2 ^ log2 < (page + 1) * 2 ^ log2 := Nat.mul_lt_mul_of_pos_right (by omega) (by positivity)
  exact (ranges_meet_iff _ _ _ _ hpage (by omega)).symm

theorem tlbiMeets_iff (cmd va : Word) (asn : BitVec 12) (a log2 : Nat) :
    tlbiMeets cmd va asn a log2 = true ↔ Invalidates cmd va asn (a % 2 ^ 56 / 2 ^ log2) log2 := tlbiHits_iff _ _ _ _ _

theorem hit_iff (e : XEntry) (cmd va : Word) :
    e.hit cmd va = true ↔ e.fault = none ∧ e.bad = none ∧ Invalidates cmd va e.asn (e.page * 4096 / 2 ^ e.log2) e.log2 := by
  simp [XEntry.hit, tlbiHits_iff, and_assoc]

/-- A page that meets the range makes every larger page around it meet it. -/
theorem Invalidates.wider {cmd va : Word} {asn : BitVec 12} {page j : Nat} (h : Invalidates cmd va asn page 12) :
    Invalidates cmd va asn (page / 2 ^ j) (12 + j) := by
  obtain ⟨hasn, hrange⟩ := h
  refine ⟨hasn, hrange.imp_right ?_⟩
  rintro ⟨a, hlo, hhi, hfirst, hlast⟩
  have hdiv : page + 1 ≤ (page / 2 ^ j + 1) * 2 ^ j := by
    have hlt := Nat.lt_div_mul_add (a := page) (Nat.two_pow_pos j)
    rw [Nat.add_mul]
    omega
  refine ⟨a, ?_, ?_, hfirst, hlast⟩
  · calc page / 2 ^ j * 2 ^ (12 + j) = page / 2 ^ j * 2 ^ j * 2 ^ 12 := by rw [pow_add]; ring
      _ ≤ page * 2 ^ 12 := Nat.mul_le_mul_right _ (Nat.div_mul_le_self _ _)
      _ ≤ a := hlo
  · calc a < (page + 1) * 2 ^ 12 := hhi
      _ ≤ (page / 2 ^ j + 1) * 2 ^ j * 2 ^ 12 := Nat.mul_le_mul_right _ hdiv
      _ = (page / 2 ^ j + 1) * 2 ^ (12 + j) := by rw [pow_add]; ring

theorem mem_map_filter_iff {α : Type} (l : List α) (p : α → Bool) (f : α → Nat) (i : Nat) :
    i ∈ (l.filter p).map f ↔ ∃ x ∈ l, f x = i ∧ p x = true := by
  simp only [List.mem_map, List.mem_filter]
  exact exists_congr fun _ => and_right_comm.trans and_assoc

theorem mem_tlbiUsers_iff (s : State) (v va : Word) (i : Nat) : i ∈ s.tlbiUsers v va ↔ UsesRemoved s v va i := by
  simp only [State.tlbiUsers, UsesRemoved, List.mem_append, List.mem_flatMap, mem_map_filter_iff, List.any_eq_true,
    Bool.and_eq_true, tlbiMeets_iff, hit_iff, Option.isNone_iff_eq_none, bne_iff_ne, and_assoc]

theorem tlbiQuiet_iff (s : State) : s.tlbiQuiet = true ↔ ∀ i ∈ s.regs.tlbiIds, ¬ UsesRemoved s s.regs.tlbiCmd s.regs.tlbiAt i := by
  simp only [State.tlbiQuiet, List.all_eq_true, Bool.not_eq_true', ← mem_tlbiUsers_iff]
  constructor
  · intro h i hi hu
    simpa [hi] using h i hu
  · intro h i hu
    simpa using fun hi => h i hi hu

/-! ### The write to TLBICMD -/

theorem execTlbicmd_eq {s : State} (hrun : Running s) (v : Word) : execTlbicmd v s = .next (s.tlbiWrite v) := by
  obtain ⟨hready, hrecov⟩ := hrun
  simp [execTlbicmd, State.regWrite64, hready, hrecov]

/-- The translations that a write keeps. -/
def tlbKept (s : State) (v : Word) (l : List TlbEntry) : List TlbEntry := l.filter (fun e => !tlbiHits v s.regs.tlbiva e.asn e.page e.log2)

theorem mem_tlbKept_iff {s : State} {v : Word} {l : List TlbEntry} {e : TlbEntry} (he : e ∈ l) :
    e ∈ tlbKept s v l ↔ ¬ Invalidates v s.regs.tlbiva e.asn e.page e.log2 := by
  simp [tlbKept, he, ← tlbiHits_iff]

/-- A wave of a team of an address space after a write. -/
def waveKept (s : State) (v : Word) (asn : BitVec 12) (w : Wave) : Wave :=
  { w with
    xl := w.xl.filter (fun e => !e.hit v s.regs.tlbiva)
    park := match w.park with
      | .waitw a _ _ _ k _ _ _ => if tlbiMeets v s.regs.tlbiva asn a k then .none else w.park
      | p => p }

def teamKept (s : State) (v : Word) (t : Team) : Team :=
  { t with waves := t.waves.map (waveKept s v (BitVec.ofNat 12 (s.block t.launch).asn)) }

theorem tlbiWrite_busy {s : State} (h : s.regs.tlbiBusy = true) (v : Word) :
    s.tlbiWrite v = { s with regs := { s.regs with tlbiLost := true } } := by
  rw [State.tlbiWrite, if_pos h]
  rfl

theorem tlbiWrite_idle {s : State} (h : s.regs.tlbiBusy = false) (v : Word) : s.tlbiWrite v = { s with
    cores := s.cores.map (fun c => { c with tlb := tlbKept s v c.tlb })
    dies := s.dies.map (fun d => { d with tlb := tlbKept s v d.tlb, walks := d.walks.map (s.walkAgain v s.regs.tlbiva) })
    teams := s.teams.map (teamKept s v)
    regs := { s.regs with tlbiBusy := true, tlbiCmd := v, tlbiAt := s.regs.tlbiva, tlbiIds := s.tlbiUsers v s.regs.tlbiva } } := by
  rw [State.tlbiWrite, if_neg (by simp [h])]
  rfl

theorem walkAgain_hit {s : State} {v : Word} {m : Miss} (h : Invalidates v s.regs.tlbiva m.asn (m.page % 2 ^ 44) 12) :
    s.walkAgain v s.regs.tlbiva m = { m with pos := some (4, s.regs.astbase.toNat / 2 ^ 15 % 2 ^ 37 * 2 ^ 15) } := by
  have hpage : 4096 * m.page % 2 ^ 56 / 2 ^ 30 = m.page % 2 ^ 44 / 2 ^ 18 := by omega
  rw [State.walkAgain, if_pos ((tlbiMeets_iff _ _ _ _ _).mpr (hpage ▸ h.wider (j := 18))), walkStart_eq]

theorem walkAgain_miss {s : State} {v : Word} {m : Miss} (h : ¬ Invalidates v s.regs.tlbiva m.asn (m.page % 2 ^ 44 / 2 ^ 18) 30) :
    s.walkAgain v s.regs.tlbiva m = m := by
  have hpage : 4096 * m.page % 2 ^ 56 / 2 ^ 30 = m.page % 2 ^ 44 / 2 ^ 18 := by omega
  rw [State.walkAgain, if_neg (mt (tlbiMeets_iff _ _ _ _ _).mp (by rwa [hpage]))]

theorem mem_waveKept_xl_iff {s : State} {v : Word} {asn : BitVec 12} {w : Wave} {e : XEntry} (he : e ∈ w.xl) :
    e ∈ (waveKept s v asn w).xl ↔
      (e.fault ≠ none ∨ e.bad ≠ none ∨ ¬ Invalidates v s.regs.tlbiva e.asn (e.page * 4096 / 2 ^ e.log2) e.log2) := by
  have hhit := hit_iff e v s.regs.tlbiva
  simp only [waveKept, List.mem_filter, he, true_and, Bool.not_eq_true', ← Bool.not_eq_true, hhit]
  tauto

theorem waveKept_park {s : State} {v : Word} {asn : BitVec 12} {w : Wave} (h : ∀ a p z ty k c d m, w.park ≠ .waitw a p z ty k c d m) :
    (waveKept s v asn w).park = w.park := by
  unfold waveKept
  cases hpark : w.park with
  | waitw a p z ty k c d m => exact absurd hpark (h a p z ty k c d m)
  | _ => rfl

theorem waveKept_park_waitw {s : State} {v : Word} {asn : BitVec 12} {w : Wave} {a p z ty k c d m} (h : w.park = .waitw a p z ty k c d m) :
    (waveKept s v asn w).park = if tlbiMeets v s.regs.tlbiva asn a k then .none else w.park := by
  simp only [waveKept, h]

/-- A wave after the write, with the address space of its team. -/
theorem wave?_tlbiWrite {s : State} (h : s.regs.tlbiBusy = false) (v : Word) {r : WaveRef} {w : Wave} (hw : s.wave? r = some w) :
    ∃ tm, s.teams.find? (fun x => x.uid == r.team) = some tm ∧
      (s.tlbiWrite v).wave? r = some (waveKept s v (BitVec.ofNat 12 (s.block tm.launch).asn) w) := by
  unfold State.wave? State.team? at hw ⊢
  rw [tlbiWrite_idle h]
  simp only [List.find?_map, show ((fun t : Team => t.uid == r.team) ∘ teamKept s v) = (fun t => t.uid == r.team) from rfl]
  cases htm : s.teams.find? (fun t => t.uid == r.team) with
  | none => simp [htm] at hw
  | some tm =>
    simp only [htm] at hw
    exact ⟨tm, rfl, by simp [teamKept, hw]⟩

theorem execTlbInvalidationDone_eq (s : State) : execTlbInvalidationDone s =
    if s.regs.tlbiBusy = true ∧ s.tlbiQuiet = true then .next { s with regs := { s.regs with tlbiBusy := false } } else .next s := by
  simp only [execTlbInvalidationDone, Bool.and_eq_true]
  rfl

theorem invalidation : Claims.Invalidation := by
  intro s hrun
  refine ⟨fun v => ⟨fun hbusy => ?_, fun hidle => ?_⟩, fun hidle => ?_, fun hbusy => ⟨fun huse => ?_, fun hquiet => ?_⟩⟩
  · exact (execTlbicmd_eq hrun v).trans (congrArg _ (tlbiWrite_busy hbusy v))
  · intro va start meets
    have hwrite := tlbiWrite_idle hidle v
    refine ⟨s.tlbiWrite v, execTlbicmd_eq hrun v, by rw [hwrite], ⟨s.tlbiUsers v va, by rw [hwrite], mem_tlbiUsers_iff s v va⟩,
      by simp [hwrite], by simp [hwrite], ?_, ?_, ?_⟩
    · intro c x y hx hy
      obtain rfl : { x with tlb := tlbKept s v x.tlb } = y := by simpa [hwrite, hx] using hy
      exact ⟨rfl, List.filter_sublist, fun e he => mem_tlbKept_iff he⟩
    · intro d x y hx hy
      obtain rfl : { x with tlb := tlbKept s v x.tlb, walks := x.walks.map (s.walkAgain v s.regs.tlbiva) } = y := by simpa [hwrite, hx] using hy
      refine ⟨rfl, List.filter_sublist, fun e he => mem_tlbKept_iff he, List.length_map _, fun k m n hm hn => ?_⟩
      obtain rfl : s.walkAgain v s.regs.tlbiva m = n := by simpa [hm] using hn
      exact ⟨walkAgain_hit, walkAgain_miss⟩
    · intro r w hw
      obtain ⟨tm, htm, hkept⟩ := wave?_tlbiWrite hidle v hw
      refine ⟨_, hkept, rfl, List.filter_sublist, fun e he => mem_waveKept_xl_iff he, waveKept_park, ?_⟩
      intro tm' a p z ty k c d m htm' hpark
      obtain rfl : tm = tm' := Option.some.inj (htm.symm.trans htm')
      rw [waveKept_park_waitw hpark]
      exact ⟨fun h => if_pos ((tlbiMeets_iff _ _ _ _ _).mpr h), fun h => if_neg (mt (tlbiMeets_iff _ _ _ _ _).mp h)⟩
  · exact (execTlbInvalidationDone_eq s).trans (if_neg (by simp [hidle]))
  · obtain ⟨i, hi, hused⟩ := huse
    exact (execTlbInvalidationDone_eq s).trans (if_neg fun h => (tlbiQuiet_iff s).mp h.2 i hi hused)
  · exact (execTlbInvalidationDone_eq s).trans (if_pos ⟨hbusy, (tlbiQuiet_iff s).mpr hquiet⟩)

/-- Settles O46: the clauses of walks, and those of invalidation (log entry 16). -/
theorem walksAndInvalidation : Obligations.WalksAndInvalidation := ⟨walks, invalidation⟩

end Sys2Proof.Safety
end

section
/-! PROOF. O32: a COPYM takes no range lock for a receiver whose save has begun. -/

namespace Sys2Proof.Machine

/-- COPYM.1D from the issuer's scratch, its operands in s0:s1 and its shape in s4 to s7 (05 R101). -/
def copymHdr : Hdr := { sw := false, keep := 0, gn := false, gp := 7, x := none }
def copymFields : CFields := { d := 0, a := 0, b := 0, e := 4, tag := 1, mode := 4, sub := 0 }

/-- A device with one team of one wave, all eight lanes of it in the current issue. -/
def copymIssue : State := (State.reset.withFetchWord 64 0).atIssue { team := 1, wave := 0 } 0xFF#64 0x10000#64

/-- The issuer, rank 0 on core 0, names 4 bytes for the mask 1 of receivers from rank 1. -/
def Team.sendsFour (t : Team) : Team :=
  { t with scratchBytes := 4096, waves := t.waves.map (fun w => ((w.setS 4 4).setS 6 1).setS 7 1) }

/-- The receiver, rank 1 on core 1 of the same die: its wave is live and the team is being saved (18 R394). -/
def Team.savedOnCoreOne (t : Team) : Team :=
  { t with uid := 2, rank := 1, core := 1, phase := .saving 3, waves := t.waves.map (fun w => { w with core := 1 }) }

/-- Both teams in one launch of grid 2 × 1 × 1 (15 R323). -/
def copymToSaved : State :=
  { copymIssue with
    teams := copymIssue.teams.map Team.sendsFour ++ copymIssue.teams.map Team.savedOnCoreOne
    launches := copymIssue.launches.map (fun l => { l with block := l.block.set 1 0x0000000100010002 }) }

def copymWave : Wave := (copymToSaved.wave? copymToSaved.curRef).getD Wave.reset
def copymTeam : Team := (copymToSaved.team? 1).getD Team.reset
def copymReceiver : Team := (copymToSaved.team? 2).getD Team.reset
def copymLaunch : Launch := (copymToSaved.launch? 1).getD (newLaunch [] 0 0 0 0 [])

/-- Whether a range lock stands in the table of a core in the state of an outcome. -/
def locksOn (core : Nat) : Res → Bool
  | .next t => (t.core core).holly.any Option.isSome
  | _ => false

/-- 05 R113, R114: the bytes of a receiver being saved go to its image, and no range of it is locked. -/
theorem copymToSaved_locks_nothing : locksOn 1 (exec (.copym copymHdr copymFields) copymToSaved) = false := by decide +kernel

end Sys2Proof.Machine

namespace Sys2Proof.Safety
open Sys2Proof.Machine

theorem copymToSaved_copyRoom : CopyRoom copymToSaved copymWave := by
  unfold CopyRoom
  decide +kernel

theorem copymToSaved_noUpdates : NoUpdates copymToSaved := by
  unfold NoUpdates
  decide +kernel

/-- The premises of the COPYM clause about the issuing wave, its team and its launch. -/
theorem copymToSaved_issues : Issuing copymToSaved copymWave ∧ Acting copymToSaved copymHdr copymWave ∧
    copymToSaved.team? copymToSaved.cur.team = some copymTeam ∧ copymWave.outs = [] ∧ copymTeam.core + 1 < copymToSaved.cores.length ∧
    copymToSaved.launches.find? (fun x => x.id == copymTeam.launch) = some copymLaunch ∧
    (copymLaunch.block.getD 2 0).toNat / 2 ^ 30 % 4 = 0 :=
  ⟨by decide, ⟨0, by decide⟩, by decide, by decide, by decide +kernel, by decide, by decide⟩

/-- Refutes O32: the COPYM clause takes a receiver for resident whose save has begun, and states its range lock; such a receiver's
bytes go to its image (05 R114), and nothing is locked for it. -/
theorem not_copyCommands : ¬ Obligations.CopyCommands := by
  unfold Obligations.CopyCommands
  rintro ⟨-, ⟨hteams, -⟩, -⟩
  obtain ⟨hissuing, hacting, hteam, houts, hcores, hlaunch, hclass⟩ := copymToSaved_issues
  obtain ⟨hcopym, -⟩ := hteams copymHdr copymFields copymToSaved copymWave copymTeam copymLaunch hissuing hacting hteam houts
    copymToSaved_noUpdates copymToSaved_copyRoom hcores hlaunch hclass
  obtain ⟨t, w', hexec, haccepted⟩ := hcopym (.inl rfl) (fun _ => copymReceiver) (.scratch 0) 0 (by decide) (by decide) (by decide)
    (by decide) (by decide) (by decide +kernel) (by decide) ⟨by decide, by decide, by decide, by decide, by decide⟩
    ⟨by decide, by decide, by decide, by decide, by decide⟩
  have hlock := (haccepted.locked 1 (by decide +kernel) (lockOf copymToSaved 2 (.scratch 0) 0 4 1 false)).mpr (.inr (by decide))
  have hsome : locksOn 1 (exec (.copym copymHdr copymFields) copymToSaved) = true := by
    rw [hexec]
    exact List.any_eq_true.mpr ⟨_, hlock, rfl⟩
  exact absurd (hsome.symm.trans copymToSaved_locks_nothing) (by decide)

end Sys2Proof.Safety
end

section
/-! PROOF. O24: a flush of a line that a cache holds twice. -/

namespace Sys2Proof.Machine
open Sys2Proof.Safety

/-- A device with one team of one wave on core 0. -/
def flushIssue : State := (State.reset.withFetchWord 64 0).atIssue { team := 1, wave := 0 } 0xFF#64 0x10000#64
def flushRef : WaveRef := { team := 1, wave := 0 }

/-- A copy of the line at 0x10000. -/
def copyOfLine (bytes : List CByte) : CLine := { line := 256, bank := 0, mark := 0, bytes := bytes, poison := [] }

/-- The one access of CFLUSH.WB for that line, and the result it belongs to. -/
def flushOfLine : Acc :=
  { lane := 0, kind := .flush 0, side := none, va := 0x10000, pa := 0x10000, len := 256, mtype := .cached, scope := 0, ord := 0, ch := 0, data := 0,
    state := .todo, result := 0 }
def owedFlush : Out := outOf flushIssue true .none [] [flushOfLine]

/-- The wave owes the flush, and core 0's cache holds the line twice: a clean copy stands before a dirty one. -/
def twiceHeld : State :=
  (flushIssue.updWave flushRef (fun w => { w with outs := [owedFlush] })).updCore 0 (fun c => { c with
    cache := [copyOfLine [], copyOfLine [{ off := 0, val := 7, dirty := true, writer := 0, rel := [] }]] })

def twiceHeldTeam : Team := (twiceHeld.team? 1).getD Team.reset
def twiceHeldWave : Wave := (twiceHeld.wave? flushRef).getD Wave.reset

/-- Where the flush stands in the state of an outcome. -/
def flushState : Res → Option AccState
  | .next t => (((t.wave? flushRef).bind (fun w => w.outs[0]?)).bind (fun o => o.accs[0]?)).map Acc.state
  | _ => none

/-- 06 R116: the write-back finds the clean copy and writes nothing; the dirty one holds the flush back. -/
theorem twiceHeld_flush_waits : flushState (exec (.accessPerform flushRef 0 0 (.whole none)) twiceHeld) = some .todo := by decide +kernel

/-- The premises of the CFLUSH clause about the state, the wave, the result and its access. -/
theorem twiceHeld_owes : twiceHeld.team? flushRef.team = some twiceHeldTeam ∧ twiceHeld.wave? flushRef = some twiceHeldWave ∧
    twiceHeldWave.outs[0]? = some owedFlush ∧ twiceHeld.accReady flushRef 0 0 = true ∧ twiceHeldWave.core < twiceHeld.cores.length := by
  decide +kernel

/-- The premises about the core: nothing on its way home, offsets apart and inside the line, no budget. -/
theorem twiceHeld_core : (twiceHeld.core twiceHeldWave.core).notices = [] ∧ (twiceHeld.core twiceHeldWave.core).draining = [] ∧
    (∀ x ∈ (twiceHeld.core twiceHeldWave.core).cache, (x.bytes.map CByte.off).Nodup ∧ ∀ b ∈ x.bytes, b.off < 256) ∧
    (twiceHeld.core twiceHeldWave.core).hsb = 0 ∧ (twiceHeld.core twiceHeldWave.core).fmb = 0 := by
  decide +kernel

/-- An access that has been performed is done. -/
theorem AccessDone.flushState_eq {s t : State} {w : Wave} {o : Out} {a : Acc} {v : Nat} (hdone : AccessDone s flushRef w 0 0 a v t)
    (hout : w.outs[0]? = some o) (hacc : o.accs[0]? = some a) : flushState (.next t) = some .done := by
  obtain ⟨⟨w', hwave, houts, -⟩, -⟩ := hdone
  obtain ⟨hlen, -⟩ := List.getElem?_eq_some_iff.mp hout
  obtain ⟨hlen', -⟩ := List.getElem?_eq_some_iff.mp hacc
  simp [flushState, hwave, houts o hout, List.getElem?_set_self hlen, List.getElem?_set_self hlen']

end Sys2Proof.Machine

namespace Sys2Proof.Safety
open Sys2Proof.Machine

/-- No trace range is valid, and none reaches the line. -/
theorem twiceHeld_untraced : Untraced twiceHeld 0x10000 256 := by
  unfold Untraced
  decide +kernel

/-- Refutes O24: the CFLUSH clause does not ask that a cache hold one copy of a line; where a clean copy stands before a dirty one, the
model's write-back looks at the clean copy alone, and the flush is not performed. -/
theorem not_cacheAndBanks : ¬ Obligations.CacheAndBanks := by
  unfold Obligations.CacheAndBanks
  rintro ⟨⟨-, -, hflush⟩, -⟩
  obtain ⟨hteam, hwave, hout, hready, hcore⟩ := twiceHeld_owes
  obtain ⟨hnotices, hdraining, hbytes, hunmetered⟩ := twiceHeld_core
  obtain ⟨t, hexec, hdone, -⟩ := hflush flushRef 0 0 twiceHeld twiceHeldTeam twiceHeldWave owedFlush flushOfLine 0 hteam hwave hout rfl hready
    rfl rfl rfl hcore hnotices hdraining twiceHeld_untraced rfl hbytes (fun _ => hunmetered)
  have hwaits := twiceHeld_flush_waits
  rw [hexec, AccessDone.flushState_eq hdone hout rfl] at hwaits
  cases hwaits

end Sys2Proof.Safety
end

section
/-! PROOF. O25: FIFOPUSH and FIFOPOP, by the order of their waiting entries, the bytes of a slot, and what moving on leaves. -/

namespace Sys2Proof.Machine
open Sys2Proof.Safety

/-! ### Bytes -/

/-- A byte of a number is not changed by the bytes above it. -/
theorem leBytes_getElem? (n v i : Nat) (hi : i < n) : (leBytes n v)[i]? = some (BitVec.ofNat 8 (v / 2 ^ (8 * i))) := by
  induction n generalizing v i with
  | zero => omega
  | succ n ih =>
    cases i with
    | zero => simp [leBytes]
    | succ i =>
      rw [leBytes, List.getElem?_cons_succ, ih _ _ (by omega), Nat.div_div_eq_div_mul, show (256 : Nat) = 2 ^ 8 from rfl, ← Nat.pow_add]
      congr 4
      omega

theorem ofNat_byte_mod (n v i : Nat) (hi : i < n) :
    BitVec.ofNat 8 (v % 2 ^ (8 * n) / 2 ^ (8 * i)) = BitVec.ofNat 8 (v / 2 ^ (8 * i)) := by
  apply BitVec.eq_of_toNat_eq
  have hpow : 2 ^ (8 * n) = 2 ^ (8 * i) * 2 ^ (8 * (n - i)) := by rw [← Nat.pow_add]; congr 1; omega
  have hdvd : 2 ^ 8 ∣ 2 ^ (8 * (n - i)) := Nat.pow_dvd_pow 2 (by omega)
  rw [BitVec.toNat_ofNat, BitVec.toNat_ofNat, hpow, Nat.mod_mul_right_div_self, Nat.mod_mod_of_dvd _ hdvd]

/-- A list of chunks of one length is read chunk by chunk. -/
theorem flatMap_chunks {α : Type} (n k : Nat) (f : Nat → List α) (hf : ∀ l, (f l).length = n) :
    ((List.range k).flatMap f).length = k * n ∧ ∀ b, b < k * n → ((List.range k).flatMap f)[b]? = (f (b / n))[b % n]? := by
  induction k with
  | zero => simp
  | succ k ih =>
    obtain ⟨hlen, hget⟩ := ih
    rw [List.range_succ, List.flatMap_append, List.flatMap_singleton]
    refine ⟨by rw [List.length_append, hlen, hf, Nat.succ_mul], fun b hb => ?_⟩
    rcases Nat.lt_or_ge b (k * n) with h | h
    · rw [List.getElem?_append_left (by omega), hget b h]
    · have hdiv : b / n = k := Nat.div_eq_of_lt_le h hb
      have hmod : b % n = b - k * n := by rw [Nat.mod_eq_sub_div_mul, hdiv]
      rw [List.getElem?_append_right (by omega), hlen, hdiv, hmod]

theorem leNat_take_drop (bs : List Byte) (a n : Nat) : leNat ((bs.drop a).take n) = littleEndian (fun b => bs.getD b 0#8) a n := by
  induction n generalizing a with
  | zero => simp [leNat, littleEndian]
  | succ n ih =>
    rw [littleEndian_succ, ← ih (a + 1)]
    rcases Nat.lt_or_ge a bs.length with h | h
    · rw [List.drop_eq_getElem_cons h, List.take_succ_cons, leNat, List.getD_eq_getElem _ _ h]
    · simp [List.drop_eq_nil_of_le h, List.drop_eq_nil_of_le (show bs.length ≤ a + 1 by omega), List.getElem?_eq_none h, leNat]

/-! ### The orders of waiting pushers and poppers -/

theorem waitsAt_iff (s : State) (x : WaveRef × Word) : s.waitsAt x = true ↔ StillWaits s x := by
  unfold State.waitsAt StillWaits
  cases s.wave? x.1 with
  | none => simp
  | some w =>
    simp only [List.any_eq_true, Bool.and_eq_true, beq_iff_eq, Option.some.injEq, exists_eq_left', and_assoc]
    refine exists_congr fun ln => and_congr_right fun _ => and_congr_right fun _ => and_congr_right fun _ => ?_
    cases ln.stall <;> simp

/-- 06 R128: an entry is next when the first entry that still waits is the entry itself, or none waits. -/
theorem isNext_iff (s : State) (l : List (WaveRef × Word)) (me : WaveRef × Word) : s.isNext l me = true ↔ IsTurn s l me := by
  induction l with
  | nil => simp [State.isNext, IsTurn]
  | cons y l ih =>
    by_cases hy : s.waitsAt y = true
    · have hnext : s.isNext (y :: l) me = (y == me) := by simp [State.isNext, hy]
      rw [hnext, beq_iff_eq]
      refine ⟨?_, fun h => h [] y l rfl (by simp) ((waitsAt_iff s y).mp hy)⟩
      rintro rfl pre x post hl hpre hx
      cases pre with
      | nil => exact (List.cons.inj hl).1.symm
      | cons z pre =>
        obtain ⟨rfl, -⟩ := List.cons.inj hl
        exact absurd ((waitsAt_iff s y).mp hy) (hpre y (by simp))
    · have hnext : s.isNext (y :: l) me = s.isNext l me := by simp [State.isNext, hy]
      have hwaits : ¬ StillWaits s y := mt (waitsAt_iff s y).mpr hy
      rw [hnext, ih]
      constructor
      · intro h pre x post hl hpre hx
        cases pre with
        | nil =>
          obtain ⟨rfl, -⟩ := List.cons.inj hl
          exact absurd hx hwaits
        | cons z pre =>
          obtain ⟨-, rfl⟩ := List.cons.inj hl
          exact h pre x post rfl (fun q hq => hpre q (by simp [hq])) hx
      · rintro h pre x post rfl hpre hx
        refine h (y :: pre) x post rfl (fun q hq => ?_) hx
        rcases List.mem_cons.mp hq with rfl | hq
        · exact hwaits
        · exact hpre q hq

/-! ### The ring of a bank -/

theorem Core.ring?_none {c : Core} {bank : Nat} (h : c.banks[bank]? ≠ some .fifo) : c.ring? bank = none := by
  refine if_neg fun e => h ?_
  rw [beq_iff_eq, List.getD_eq_getElem?_getD] at e
  cases hb : c.banks[bank]? with
  | none => simp [hb] at e
  | some m => simpa [hb] using e

theorem Core.ring?_some {c : Core} {bank : Nat} {g : Ring} (hb : c.banks[bank]? = some .fifo) (hg : c.rings.find? (fun x => x.bank == bank) = some g) :
    c.ring? bank = some g := by
  rw [Core.ring?, List.getD_eq_getElem?_getD, hb, hg]
  rfl

theorem listSet_congr_at {α : Type} (l : List α) (i : Nat) (f g : α → α) (h : ∀ x, l[i]? = some x → f x = g x) : listSet l i f = listSet l i g := by
  apply List.ext_getElem?
  intro j
  rw [listSet_getElem?, listSet_getElem?]
  by_cases e : j = i
  · subst e
    cases hx : l[j]? with
    | none => rfl
    | some x => simp [h x hx]
  · simp [e]

/-- The ring of a bank replaced. -/
def State.putRing (s : State) (c bank : Nat) (g : Ring) : State :=
  s.updCore c (fun k => { k with rings := k.rings.map (fun x => if x.bank == bank then g else x) })

/-- Where a bank has one ring, an update of its rings replaces that ring. -/
theorem updRingOf_eq {s : State} {c bank : Nat} {g : Ring} (f : Ring → Ring)
    (hg : (s.core c).rings.find? (fun x => x.bank == bank) = some g)
    (hone : ∀ x y, x ∈ (s.core c).rings → y ∈ (s.core c).rings → x.bank = y.bank → x = y) :
    s.updRingOf c bank f = s.putRing c bank (f g) := by
  unfold State.updRingOf State.putRing State.updCore
  rw [listSet_congr_at]
  intro k hk
  have hcore : s.core c = k := by rw [State.core, List.getD_eq_getElem?_getD, hk, Option.getD_some]
  rw [hcore] at hg hone
  have hbank : g.bank = bank := by simpa using List.find?_some hg
  congr 1
  apply List.map_congr_left
  intro x hx
  by_cases e : x.bank = bank
  · rw [hone x g hx (List.mem_of_find?_eq_some hg) (e.trans hbank.symm)]
  · simp [e]

/-! ### The checks -/

theorem part_ne_zero {s : State} {h : Hdr} {w : Wave} (hw : Issuing s w) (hsome : Someone s h w) : s.part h ≠ 0 := by
  obtain ⟨l, hl⟩ := hsome
  intro e
  rw [← takes_eq s h w l hw, e] at hl
  simp at hl

theorem State.curTeam_eq (s : State) (tm : Team) (h : s.team? s.cur.team = some tm) : s.curTeam = tm := by
  rw [State.curTeam, h, Option.getD_some]

/-- A trap of the lanes that take part. -/
theorem traps_part {i : Instr} {h : Hdr} {s : State} {w : Wave} {x : TrapInfo} (hw : Issuing s w) (hexec : exec i s = .next (s.trap h x)) :
    Traps i h s (takes s h w) x :=
  ⟨s.part h, fun l _ => takes_eq s h w l hw, hexec⟩

section
variable {s : State} {w : Wave} {h : Hdr} {f : MFields}

theorem fifoGo_noRing (hw : Issuing s w) (k : Nat → Ring → State) (hb : (s.core w.core).banks[f.off.toNat % 64]? ≠ some .fifo) :
    s.fifoGo h f k = s.trap h (cause 3 9 0 0) := by
  simp only [State.fifoGo, State.curWave_eq s w hw, Core.ring?_none hb]
  rfl

variable {tm : Team} {g : Ring}

theorem fifoGo_smallSlot (hw : Issuing s w) (htm : s.team? s.cur.team = some tm) (k : Nat → Ring → State)
    (hring : (s.core w.core).ring? (f.off.toNat % 64) = some g) (hslot : g.slotBytes < tm.width * 2 ^ f.size.toNat) :
    s.fifoGo h f k = s.trap h (cause 3 10 0 0) := by
  simp only [State.fifoGo, State.curWave_eq s w hw, State.curTeam_eq s tm htm, hring]
  rw [if_pos (decide_eq_true (p := tm.width * sizeBytes f > g.slotBytes) hslot)]
  rfl

theorem fifoGo_goes (hw : Issuing s w) (htm : s.team? s.cur.team = some tm) (k : Nat → Ring → State)
    (hring : (s.core w.core).ring? (f.off.toNat % 64) = some g) (hslot : tm.width * 2 ^ f.size.toNat ≤ g.slotBytes) :
    s.fifoGo h f k = k (f.off.toNat % 64) g := by
  simp only [State.fifoGo, State.curWave_eq s w hw, State.curTeam_eq s tm htm, hring]
  rw [if_neg (by simpa [sizeBytes] using hslot)]

/-- With nothing outstanding, a release at core scope waits for nothing (13 R282). -/
theorem afterWrites_core_idle (hw : Issuing s w) (houts : w.outs = []) (hquiet : NoUpdates s) (i : Instr) (m : BitVec 64) (k : State → State) :
    s.afterWrites i m 3 k = k s := by
  have hlist : w.accList = [] := by simp [Wave.accList, houts]
  have hsome : s.performSome s.curRef (ofLanes m) = s := by
    simp only [State.performSome, show s.wave? s.curRef = some w from hw, Option.getD_some, hlist, List.foldl_nil]
  have hstay : s.stayed s = true := by simp [State.stayed]
  have hdone : s.curWave.performed (ofLanes m) = true := by simp [Wave.performed, State.curWave_eq s w hw, hlist]
  have howes : s.engineWrites s.curRef s.curWave = false := by
    simp only [State.engineWrites, State.curWave_eq s w hw, houts, List.any_nil, Bool.false_or, List.any_eq_false]
    intro c hc
    simp [hquiet c hc]
  have hnarrow : wideScope s.curTeam.pair 3 = false := by simp [wideScope]
  simp [State.afterWrites, State.afterLanes, State.afterAccs, hsome, hstay, hdone, howes, State.afterRelease, State.released, State.releasePart, hnarrow]

/-! ### What is written -/

/-- 06 R128: the bytes of a slot. -/
theorem pushBytes_spec (hw : Issuing s w) (htm : s.team? s.cur.team = some tm) (hwidth : tm.width ≤ 64) (hslot : tm.width * 2 ^ f.size.toNat ≤ g.slotBytes) :
    (s.pushBytes h f g).length = g.slotBytes ∧ ∀ b < g.slotBytes, (s.pushBytes h f g)[b]? = some (
      if b / 2 ^ f.size.toNat < tm.width ∧ takes s h w (b / 2 ^ f.size.toNat) = true ∧ w.helper.getLsbD (b / 2 ^ f.size.toNat) = false then
        BitVec.ofNat 8 ((w.lane (b / 2 ^ f.size.toNat)).vblock f.d.toNat (max 1 (2 ^ f.size.toNat / 4)) / 2 ^ (8 * (b % 2 ^ f.size.toNat)))
      else 0#8) := by
  have hpos : 0 < 2 ^ f.size.toNat := Nat.two_pow_pos _
  simp only [State.pushBytes, State.curWave_eq s w hw, State.curTeam_eq s tm htm, sizeBytes]
  generalize hn : 2 ^ f.size.toNat = n at *
  obtain ⟨hlen, hget⟩ := flatMap_chunks n tm.width
    (fun l => if (s.part h &&& ~~~ w.helper).getLsbD l then leBytes n (storeData f w false l) else List.replicate n 0)
    (fun l => by split <;> simp [leBytes_length])
  refine ⟨by rw [List.length_append, List.length_replicate, hlen]; omega, fun b hb => ?_⟩
  rcases Nat.lt_or_ge b (tm.width * n) with hlt | hge
  · have hlane : b / n < tm.width := Nat.div_lt_of_lt_mul (by rwa [Nat.mul_comm])
    have hbyte : b % n < n := Nat.mod_lt _ hpos
    rw [List.getElem?_append_left (by omega), hget b hlt]
    simp only [BitVec.getLsbD_and, BitVec.getLsbD_not, takes_eq s h w _ hw, show b / n < 64 by omega, decide_true, Bool.true_and,
      Bool.and_eq_true, Bool.not_eq_true', hlane, true_and]
    split
    · rw [leBytes_getElem? _ _ _ hbyte, storeData, sizeBytes, hn, ofNat_byte_mod _ _ _ hbyte]
      rfl
    · rw [List.getElem?_replicate, if_pos hbyte]
      rfl
  · have hlane : ¬ b / n < tm.width := Nat.not_lt.mpr ((Nat.le_div_iff_mul_le hpos).mpr hge)
    rw [List.getElem?_append_right (by omega), List.getElem?_replicate, if_pos (by omega), if_neg fun e => hlane e.1]
    rfl

/-- The register writes of a value of each lane that takes part, one block of registers from `d`. -/
theorem blockWrites_deliver (hw : Issuing s w) (d n : Nat) (v : Nat → Nat) :
    Delivers ((lanesOf (s.part h)).flatMap (fun l => (List.range n).map (fun i =>
      ({ scalar := false, lane := l, reg := d + i, val := BitVec.ofNat 32 (v l / 2 ^ (32 * i)) } : RegWrite)))) s h w (fun l => block d n (v l)) := by
  have hdeliver := writesOf_delivers s h w (fun l => (List.range n).map (fun i => (d + i, v l / 2 ^ (32 * i)))) hw
  have hblock : (fun l => lastReg ((List.range n).map (fun i => (d + i, v l / 2 ^ (32 * i))))) = fun l => block d n (v l) := by
    funext l r
    exact lastReg_range d n _ r
  rw [hblock] at hdeliver
  simpa only [writesOf, List.map_map, Function.comp_def] using hdeliver

/-! ### Moving on -/

/-- An update of a team that keeps its waves changes no wave. -/
theorem wave?_updTeam (s : State) (u : Nat) (q : WaveRef) (f : Team → Team) (huid : ∀ t, (f t).uid = t.uid) (hwaves : ∀ t, (f t).waves = t.waves) :
    (s.updTeam u f).wave? q = s.wave? q := by
  unfold State.wave?
  rw [State.team?_updTeam s u q.team f huid]
  by_cases hq : q.team = u
  · rw [if_pos hq]
    cases s.team? q.team with
    | none => rfl
    | some t => simp only [Option.map_some, hwaves]
  · rw [if_neg hq]

theorem wave?_always (s : State) (q : WaveRef) : s.always.wave? q = s.wave? q := wave?_updTeam s _ q _ (fun _ => rfl) (fun _ => rfl)

/-- An outstanding result of the current wave changes no other wave. -/
theorem wave?_addOut {w : Wave} (t : State) (o : Out) (hw : t.wave? t.curRef = some w) :
    (t.addOut o).wave? t.curRef = some { w with outs := w.outs ++ [{ o with id := t.uid }] } ∧
      ∀ q, q ≠ t.curRef → (t.addOut o).wave? q = t.wave? q :=
  ⟨t.wave?_updCur _ w hw, fun q hq => State.wave?_updWave_ne t t.curRef q _ hq⟩

/-- An instruction that has left wave `x` where `w` was, and every other wave, moves on (14 R299). -/
theorem finish_turns {t : State} {x : Wave} (hx : t.wave? s.curRef = some x) (hcur : t.cur = s.cur) (hothers : ∀ q, q ≠ s.curRef → t.wave? q = s.wave? q)
    (hlanes : x.lanes = w.lanes) (hrun : x.runEnd = w.runEnd) :
    ∃ w', Turns s w x (onwards s h w) (w.runEnd || h.sw) (t.finish h) w' := by
  have href : t.curRef = s.curRef := by rw [State.curRef, hcur, State.curRef]
  have hlane : ∀ l, x.lane l = w.lane l := fun l => by rw [Wave.lane, Wave.lane, hlanes]
  refine ⟨{ x.goto t.cur.mask (t.nextPc h) with runEnd := x.runEnd || h.sw, prog := none, xl := [] }, ?_, ?_, ?_, by rw [← hrun], rfl, rfl, ?_⟩
  · rw [← href]
    exact t.wave?_finish h x (href ▸ hx)
  · exact (Wave.updLanes_length _ _ _).trans (by rw [hlanes])
  · intro l hl
    show (x.goto t.cur.mask (t.nextPc h)).lane l = _
    rw [Wave.lane_goto, hlane, hlanes, hcur, onwards]
    simp only [hl, true_and, onward, nextPc_eq, after, hcur]
    rfl
  · intro q hq
    exact (State.wave?_updWave_ne t t.curRef q _ (href ▸ hq)).trans (hothers q hq)

end

end Sys2Proof.Machine

namespace Sys2Proof.Safety
open Sys2Proof.Machine

/-- A bank is a FIFO with one ring. -/
structure RingAt (s : State) (w : Wave) (bank : Nat) (g : Ring) : Prop where
  fifo : (s.core w.core).banks[bank]? = some .fifo
  ring : (s.core w.core).rings.find? (fun x => x.bank == bank) = some g
  one : ∀ x y, x ∈ (s.core w.core).rings → y ∈ (s.core w.core).rings → x.bank = y.bank → x = y

/-- An instruction of a lane that takes part names the ring of a FIFO bank whose slots are large enough. -/
structure OnRing (s : State) (h : Hdr) (f : MFields) (w : Wave) (tm : Team) (g : Ring) : Prop extends RingAt s w (f.off.toNat % 64) g where
  issuing : Issuing s w
  someone : Someone s h w
  team : s.team? s.cur.team = some tm
  slot : tm.width * 2 ^ f.size.toNat ≤ g.slotBytes

section
variable {s : State} {h : Hdr} {f : MFields} {w : Wave} {tm : Team} {g : Ring} (on : OnRing s h f w tm g)
include on

theorem OnRing.fifoGo (k : Nat → Ring → State) : s.fifoGo h f k = k (f.off.toNat % 64) g :=
  fifoGo_goes on.issuing on.team k (Core.ring?_some on.fifo on.ring) on.slot

theorem OnRing.part : (s.part h == 0) = false := by simpa using part_ne_zero on.issuing on.someone

/-- A full ring, or an earlier waiter, holds FIFOPUSH back (06 R128). -/
theorem OnRing.push_waits (hfull : g.nslot ≤ g.slots.length ∨ ¬ IsTurn s g.pushers (s.curRef, s.cur.pc)) :
    exec (.fifopush h f) s = .next (s.putRing w.core (f.off.toNat % 64) { g with pushers := joinOrder g.pushers (s.curRef, s.cur.pc) }).blockIssue := by
  show execFifopush h f s = _
  have hheld : (decide (g.slots.length ≥ g.nslot) || !s.isNext g.pushers (s.curRef, s.cur.pc)) = true := by
    simpa [← isNext_iff] using hfull
  rw [execFifopush, on.part, if_neg Bool.false_ne_true, on.fifoGo]
  simp only [State.curWave_eq s w on.issuing, hheld, if_true, updRingOf_eq _ on.ring on.one]

/-- FIFOPUSH at its turn fills the tail slot (06 R128). -/
theorem OnRing.push_goes (houts : w.outs = []) (hquiet : NoUpdates s) (hroom : g.slots.length < g.nslot) (hturn : IsTurn s g.pushers (s.curRef, s.cur.pc)) :
    exec (.fifopush h f) s = .next (((s.putRing w.core (f.off.toNat % 64) { g with
      slots := g.slots ++ [(s.pushBytes h f g, (lanesOf (s.part h)).flatMap (fun l => s.relTags l 3))], tail := (g.tail + 1) % g.nslot,
      pushers := g.pushers.filter (fun x => x != (s.curRef, s.cur.pc)) }).always).finish h) := by
  show execFifopush h f s = _
  have hgoes : (decide (g.slots.length ≥ g.nslot) || !s.isNext g.pushers (s.curRef, s.cur.pc)) = false := by
    simpa [(isNext_iff s _ _).mpr hturn] using hroom
  rw [execFifopush, on.part, if_neg Bool.false_ne_true, on.fifoGo]
  simp only [State.curWave_eq s w on.issuing, hgoes, Bool.false_eq_true, if_false, afterWrites_core_idle on.issuing houts hquiet,
    updRingOf_eq _ on.ring on.one]

/-- An empty ring, or an earlier waiter, holds FIFOPOP back (06 R128). -/
theorem OnRing.pop_waits (hempty : g.slots = [] ∨ ¬ IsTurn s g.poppers (s.curRef, s.cur.pc)) :
    exec (.fifopop h f) s = .next (s.putRing w.core (f.off.toNat % 64) { g with poppers := joinOrder g.poppers (s.curRef, s.cur.pc) }).blockIssue := by
  show execFifopop h f s = _
  rw [execFifopop, on.part, if_neg Bool.false_ne_true, on.fifoGo]
  simp only [State.curWave_eq s w on.issuing, updRingOf_eq _ on.ring on.one]
  cases hslots : g.slots with
  | nil => rfl
  | cons slot rest =>
    have hlate : s.isNext g.poppers (s.curRef, s.cur.pc) = false := by
      rw [← Bool.not_eq_true, isNext_iff]
      exact hempty.resolve_left (by simp [hslots])
    simp only [hlate, Bool.not_false, if_true]

/-- FIFOPOP at its turn empties the head slot into an outstanding result (06 R128). -/
theorem OnRing.pop_goes {bs : List Byte} {ts : List RelTag} {rest : List (List Byte × List RelTag)} (hslots : g.slots = (bs, ts) :: rest)
    (hturn : IsTurn s g.poppers (s.curRef, s.cur.pc)) :
    exec (.fifopop h f) s = .next ((((s.putRing w.core (f.off.toNat % 64) { g with
        slots := rest, head := (g.head + 1) % g.nslot, poppers := g.poppers.filter (fun x => x != (s.curRef, s.cur.pc)) }).addOut
      (Out.ofWrites s.cur.pc ((lanesOf (s.part h)).flatMap (fun l => (List.range (regsOf (sizeBytes f))).map (fun i =>
        { scalar := false, lane := l, reg := f.d.toNat + i,
          val := BitVec.ofNat 32 (leNat ((bs.drop (l * sizeBytes f)).take (sizeBytes f)) / 2 ^ (32 * i)) }))) 0)).always).finish h) := by
  show execFifopop h f s = _
  rw [execFifopop, on.part, if_neg Bool.false_ne_true, on.fifoGo]
  simp only [State.curWave_eq s w on.issuing, hslots, (isNext_iff s _ _).mpr hturn, Bool.not_true, Bool.false_eq_true, if_false]
  rw [updRingOf_eq _ on.ring on.one]
  rfl

end

/-- A check that fails traps FIFOPUSH and FIFOPOP alike (06 R128, R129). -/
theorem fifo_traps {s : State} {h : Hdr} {f : MFields} {w : Wave} {x : TrapInfo} (hw : Issuing s w) (hsome : Someone s h w)
    (hgo : ∀ k, s.fifoGo h f k = s.trap h x) : ∀ i ∈ [Instr.fifopush h f, .fifopop h f], Traps i h s (takes s h w) x := by
  have hpart : (s.part h == 0) = false := by simpa using part_ne_zero hw hsome
  have hpush : exec (.fifopush h f) s = .next (s.trap h x) := by
    show execFifopush h f s = _
    rw [execFifopush, hpart, if_neg Bool.false_ne_true, hgo]
  have hpop : exec (.fifopop h f) s = .next (s.trap h x) := by
    show execFifopop h f s = _
    rw [execFifopop, hpart, if_neg Bool.false_ne_true, hgo]
  simpa using ⟨traps_part hw hpush, traps_part hw hpop⟩

/-- Settles O25: the traps by the checks of `fifoGo`, the rest by `OnRing`'s four outcomes (log entries 44, 59). -/
theorem fifoRings : Obligations.FifoRings := by
  unfold Obligations.FifoRings
  intro h f s w tm g hw hsome htm hcore houts hquiet hwidth bank n k fifo me turn ring others joined waits one
  have on (hfifo : fifo) (hone : one) (hslot : tm.width * n ≤ g.slotBytes) : OnRing s h f w tm g :=
    { fifo := hfifo.1, ring := hfifo.2, one := hone, issuing := hw, someone := hsome, team := htm, slot := hslot }
  refine ⟨fun hbank => ?_, fun hfifo hslot => ?_, fun hfifo hslot hroom hturn hone => ?_, fun hfifo hslot hfull hone => ?_,
    fun hfifo hslot bs ts rest hslots hturn hone => ?_, fun hfifo hslot hempty hone => ?_⟩
  · exact fifo_traps hw hsome fun k => fifoGo_noRing hw k hbank
  · exact fifo_traps hw hsome fun k => fifoGo_smallSlot hw htm k (Core.ring?_some hfifo.1 hfifo.2) hslot
  · have hexec := (on hfifo hone hslot).push_goes houts hquiet hroom hturn
    obtain ⟨w', hturns⟩ := finish_turns (s := s) (w := w) (h := h) (x := w)
      (t := (s.putRing w.core bank { g with
        slots := g.slots ++ [(s.pushBytes h f g, (lanesOf (s.part h)).flatMap (fun l => s.relTags l 3))], tail := (g.tail + 1) % g.nslot,
        pushers := others g.pushers }).always)
      ((wave?_always _ _).trans hw) rfl (fun q _ => wave?_always _ _) rfl rfl
    obtain ⟨hlen, hbytes⟩ := pushBytes_spec (h := h) hw htm hwidth hslot
    exact ⟨_, w', _, _, hexec, hturns, rfl, hlen, hbytes⟩
  · exact ⟨_, (on hfifo hone hslot).push_waits hfull, rfl, rfl⟩
  · have hexec := (on hfifo hone hslot).pop_goes hslots hturn
    have hdeliver := blockWrites_deliver (h := h) hw f.d.toNat k (fun l => leNat ((bs.drop (l * n)).take n))
    simp only [leNat_take_drop] at hdeliver hexec
    generalize hring : ({ g with slots := rest, head := _, poppers := _ } : Ring) = g' at hexec
    obtain ⟨hhere, hother⟩ := wave?_addOut (s.putRing w.core bank g') _ hw
    obtain ⟨w', hturns⟩ := finish_turns (s := s) (w := w) (h := h) ((wave?_always _ _).trans hhere) rfl
      (fun q hq => (wave?_always _ _).trans (hother q hq)) rfl rfl
    rw [houts, List.nil_append] at hturns
    exact ⟨_, w', _, hexec, hturns, by rw [← hring]; rfl, rfl, rfl, rfl, rfl, hdeliver⟩
  · exact ⟨_, (on hfifo hone hslot).pop_waits hempty, rfl, rfl⟩

end Sys2Proof.Safety
end

section
/-! PROOF. O20: loads, stores, LDCVT and the local accesses, through what the checks of a memory instruction answer. -/

namespace Sys2Proof.Machine
open Sys2Proof.Safety

/-! ### What checks and records change -/

def Core.noTlb (c : Core) : Core := { c with tlb := [] }
def Team.unmarked (x : Team) : Team := { x with recorded := [], always := false, escape := false }

/-- Only TLBs, and what teams have recorded and whether they have escaped, differ (04 R82, 17 R365, R367). -/
structure Beside (s t : State) : Prop where
  rest : { t with teams := s.teams, cores := s.cores } = s
  cores : t.cores.map Core.noTlb = s.cores.map Core.noTlb
  teams : t.teams.map Team.unmarked = s.teams.map Team.unmarked

theorem Beside.refl (s : State) : Beside s s := ⟨rfl, rfl, rfl⟩

theorem Beside.trans {s t u : State} (hst : Beside s t) (htu : Beside t u) : Beside s u where
  rest := by
    have e := congrArg (fun x : State => { x with teams := s.teams, cores := s.cores }) htu.rest
    exact e.trans hst.rest
  cores := htu.cores.trans hst.cores
  teams := htu.teams.trans hst.teams

theorem listSet_map_keeps {α β : Type} (l : List α) (i : Nat) (f : α → α) (g : α → β) (hf : ∀ x, g (f x) = g x) : (listSet l i f).map g = l.map g := by
  apply List.ext_getElem?
  intro j
  rw [List.getElem?_map, List.getElem?_map, listSet_getElem?]
  split
  · cases l[j]? <;> simp [hf]
  · rfl

theorem beside_updCore (s : State) (c : Nat) (f : Core → Core) (hf : ∀ k, (f k).noTlb = k.noTlb) : Beside s (s.updCore c f) :=
  ⟨rfl, listSet_map_keeps _ _ _ _ hf, rfl⟩

theorem beside_updTeam (s : State) (u : Nat) (f : Team → Team) (hf : ∀ x, (f x).unmarked = x.unmarked) : Beside s (s.updTeam u f) := by
  refine ⟨rfl, rfl, ?_⟩
  rw [State.updTeam, List.map_map]
  apply List.map_congr_left
  intro x _
  simp only [Function.comp_apply]
  split
  · exact hf x
  · rfl

theorem beside_refill (s : State) (core : Nat) (asn : BitVec 12) (va : Nat) : Beside s (s.refill core asn va) := by
  unfold State.refill
  split
  · exact .refl s
  · split
    · exact beside_updCore s core _ fun _ => rfl
    · exact .refl s

theorem beside_always (s : State) : Beside s s.always := beside_updTeam s _ _ fun _ => rfl

theorem beside_record (s : State) (ps : List (Nat × Nat)) : Beside s (s.record ps) := by
  unfold State.record State.recordFor
  split
  · exact .refl s
  · dsimp only
    split
    · exact .refl s
    · exact beside_updTeam s _ _ fun _ => rfl

theorem beside_scoped (s : State) (f : MFields) : Beside s (s.scoped f) := by
  unfold State.scoped
  split
  · exact beside_always s
  · exact .refl s

theorem beside_foldl {α : Type} (l : List α) (step : State → α → State) (hstep : ∀ t a, Beside t (step t a)) (s : State) : Beside s (l.foldl step s) := by
  induction l generalizing s with
  | nil => exact .refl s
  | cons a l ih => exact (hstep s a).trans (ih _)

section
variable {s t : State} (hb : Beside s t)
include hb

theorem Beside.cur : t.cur = s.cur := (congrArg State.cur hb.rest :)
theorem Beside.uid : t.uid = s.uid := (congrArg State.uid hb.rest :)
theorem Beside.curRef : t.curRef = s.curRef := by rw [State.curRef, hb.cur, State.curRef]

/-- A part of a core other than its TLB. -/
theorem Beside.core {α : Type} (g : Core → α) (hg : ∀ c, g c.noTlb = g c) (c : Nat) : g (t.core c) = g (s.core c) := by
  have hget : (t.cores.map Core.noTlb)[c]? = (s.cores.map Core.noTlb)[c]? := by rw [hb.cores]
  have hcore (u : State) : g (u.core c) = (((u.cores.map Core.noTlb)[c]?).map g).getD (g Core.reset) := by
    rw [State.core, List.getD_eq_getElem?_getD, List.getElem?_map]
    cases u.cores[c]? <;> simp [hg]
  rw [hcore t, hcore s, hget]

theorem Beside.team? (u : Nat) : (t.team? u).map Team.unmarked = (s.team? u).map Team.unmarked := by
  have hfind (v : State) : (v.team? u).map Team.unmarked = (v.teams.map Team.unmarked).find? (fun x => x.uid == u) := by
    rw [List.find?_map]
    rfl
  rw [hfind t, hfind s, hb.teams]

theorem Beside.wave? (q : WaveRef) : t.wave? q = s.wave? q := by
  have hteam := hb.team? q.team
  have hwave (v : State) : v.wave? q = ((v.team? q.team).map Team.unmarked).bind (fun x => x.waves[q.wave]?) := by
    unfold State.wave?
    cases v.team? q.team <;> rfl
  rw [hwave t, hwave s, hteam]

theorem Beside.curWave : t.curWave = s.curWave := by rw [State.curWave, State.curWave, hb.curRef, hb.wave?]

/-- A part of the current team other than what it has recorded and its escape. -/
theorem Beside.curTeam {α : Type} (g : Team → α) (hg : ∀ x, g x.unmarked = g x) : g t.curTeam = g s.curTeam := by
  have hteam := hb.team? s.cur.team
  have hpart (v : State) : g ((v.team? s.cur.team).getD Team.reset) = (((v.team? s.cur.team).map Team.unmarked).map g).getD (g Team.reset) := by
    cases v.team? s.cur.team <;> simp [hg]
  rw [State.curTeam, State.curTeam, hb.cur, hpart t, hpart s, hteam]

theorem Beside.missing (c : Nat) (a : Acc) : t.missing c a = s.missing c a := by
  have hcache : (t.core c).hasCache = (s.core c).hasCache := hb.core Core.hasCache (fun _ => rfl) c
  have hbyte (x : Nat) : (t.core c).cbyte? x = (s.core c).cbyte? x := hb.core (fun k => k.cbyte? x) (fun _ => rfl) c
  simp only [State.missing, State.lacking, hcache, hbyte]

theorem Beside.inFlight (c : Nat) : t.inFlight c = s.inFlight c := by
  have hwaves (v : State) (f : Wave → List Nat) :
      v.teams.flatMap (fun x => x.waves.flatMap f) = (v.teams.map Team.unmarked).flatMap (fun x => x.waves.flatMap f) := by
    rw [List.flatMap_map]
    rfl
  unfold State.inFlight
  simp only [funext (hb.missing c)]
  rw [hwaves t, hwaves s, hb.teams]

/-- The miss-status entries that an instruction finds (06 R121). -/
theorem Beside.mshrFree (accs : List Acc) : t.mshrFree accs = s.mshrFree accs := by
  simp only [State.mshrFree, State.sectorsFree, hb.curWave, hb.inFlight, funext (hb.missing s.curWave.core)]

end

/-! ### Issue -/

theorem moves_of_cur {s t : State} {h : Hdr} {w w' : Wave} (hc : t.cur = s.cur) (hm : Moves t h w w') : Moves s h w w' :=
  ⟨hm.count, by simpa only [hc, after] using hm.pc, hm.lane⟩

/-- Once only TLBs and a team's records have changed, an outstanding result issues (06 R124). -/
theorem issues_of_beside {s t : State} {h : Hdr} {w : Wave} (hw : Issuing s w) (hb : Beside s t) (o : Out) :
    ∃ w', Issues s h w { o with id := s.uid } ((t.addOut o).finish h) w' := by
  have hwt : Issuing t w := (hb.wave? _).trans (hb.curRef ▸ hw)
  obtain ⟨w', hhere, houts, hlanes, hmoves, hends, hwave, helse⟩ := addOut_finish_spec t h w o hwt
  refine ⟨w', ?_, ?_, hlanes, moves_of_cur hb.cur hmoves, hends, hwave, congrArg (· + 1) hb.uid, ?_, hb.cores, ?_, ?_⟩
  · rw [← hb.curRef]
    exact hhere
  · rw [houts, hb.uid]
  · exact congrArg (fun x : State => { x with uid := s.uid }) hb.rest
  · have hbare : ((t.addOut o).finish h).teams.map bare = t.teams.map bare := helse.teams
    have hstrip (l : List Team) : l.map (fun x => { bare x with recorded := [], always := false, escape := false }) = (l.map bare).map Team.unmarked := by
      rw [List.map_map]
      rfl
    have hswap (l : List Team) : (l.map bare).map Team.unmarked = (l.map Team.unmarked).map bare := by
      rw [List.map_map, List.map_map]
      rfl
    rw [hstrip, hstrip, hbare, hswap, hb.teams, ← hswap]
  · intro q hq
    exact (helse.waves q (by rw [show ({ t with uid := t.uid + 1 } : State).curRef = t.curRef from rfl, hb.curRef]; exact hq)).trans (hb.wave? q)

/-- The same for accesses whose miss-status entries are free. -/
theorem issueAccs_issues {s t : State} {h : Hdr} {w : Wave} (hw : Issuing s w) (hb : Beside s t) (vlr : Bool) (fin : Fin) (accs : List Acc)
    (hfree : s.mshrFree accs = true) : ∃ w', Issues s h w (outOf s vlr fin [] accs) (t.issueAccs h vlr fin accs) w' := by
  obtain ⟨w', hissues⟩ := issues_of_beside (h := h) hw hb (Out.ofAccs t.cur.pc vlr fin accs)
  refine ⟨w', ?_⟩
  rw [State.issueAccs, if_pos ((hb.mshrFree accs).trans hfree)]
  rw [hb.cur] at hissues ⊢
  exact hissues

/-- An instruction that only moves on. -/
theorem finish_becomes {s : State} {h : Hdr} {w : Wave} (hw : Issuing s w) :
    ∃ w', Becomes s w w (onwards s h w) (w.runEnd || h.sw) (s.finish h) w' := by
  obtain ⟨w', hturns⟩ := finish_turns (s := s) (w := w) (h := h) (t := s) hw rfl (fun _ _ => rfl) rfl rfl
  exact ⟨w', hturns.here, hturns.count, hturns.lanes, hturns.run, hturns.prog, hturns.wave, Elsewhere.updCur s _⟩


/-! ### Lanes in rising order -/

theorem findSome?_lowest {α : Type} {l : List Nat} (hs : l.Pairwise (· < ·)) {f : Nat → Option α} {k : Nat}
    (hk : Lowest (fun j => j ∈ l ∧ f j ≠ none) k) : l.findSome? f = f k := by
  induction l with
  | nil => exact absurd hk.1.1 List.not_mem_nil
  | cons a l ih =>
    obtain ⟨⟨hmem, hsome⟩, hlow⟩ := hk
    obtain ⟨hhead, htail⟩ := List.pairwise_cons.mp hs
    by_cases ha : f a = none
    · have hka : k ≠ a := fun e => hsome (e ▸ ha)
      rw [List.findSome?_cons_of_isNone (by simp [ha])]
      exact ih htail ⟨⟨(List.mem_cons.mp hmem).resolve_left hka, hsome⟩, fun j hj hP => hlow j hj ⟨List.mem_cons_of_mem _ hP.1, hP.2⟩⟩
    · have hka : k = a := by
        rcases List.mem_cons.mp hmem with rfl | hmem
        · rfl
        · exact absurd ⟨List.mem_cons_self, ha⟩ (hlow a (hhead k hmem))
      rw [List.findSome?_cons_of_isSome (Option.isSome_iff_ne_none.mpr ha), hka]

theorem find?_lowest {l : List Nat} (hs : l.Pairwise (· < ·)) {p : Nat → Bool} {k : Nat} (hk : Lowest (fun j => j ∈ l ∧ p j = true) k) :
    l.find? p = some k := by
  obtain ⟨⟨hmem, hp⟩, hlow⟩ := hk
  rw [← List.findSome?_guard, findSome?_lowest hs (k := k) ⟨⟨hmem, by simp [hp]⟩, fun j hj hP => hlow j hj ⟨hP.1, by simpa using hP.2⟩⟩]
  simp [hp]

theorem lanesThat_sorted (p : Nat → Bool) : (lanesThat p).Pairwise (· < ·) := List.pairwise_lt_range.filter _

theorem lowestThat_sorted (p : Nat → Bool) : (lowestThat p).Pairwise (· < ·) := by
  unfold lowestThat
  cases (List.range 64).find? p <;> simp

/-- The lanes that take part. -/
theorem lanesOf_part {s : State} {h : Hdr} {w : Wave} (hw : Issuing s w) : lanesOf (s.part h) = lanesThat (takes s h w) :=
  List.filter_congr fun l _ => takes_eq s h w l hw

theorem notHelper_getLsbD {s : State} {h : Hdr} {w : Wave} (hw : Issuing s w) {l : Nat} (hl : l < 64) :
    (s.part h &&& ~~~ s.curWave.helper).getLsbD l = (takes s h w l && !w.helper.getLsbD l) := by
  simp only [BitVec.getLsbD_and, BitVec.getLsbD_not, takes_eq s h w l hw, State.curWave_eq s w hw, hl, decide_true, Bool.true_and]

/-- Those of them that are no helper lanes. -/
theorem lanesOf_notHelper {s : State} {h : Hdr} {w : Wave} (hw : Issuing s w) :
    lanesOf (s.part h &&& ~~~ s.curWave.helper) = lanesThat (fun l => takes s h w l && !w.helper.getLsbD l) :=
  List.filter_congr fun _ hl => notHelper_getLsbD hw (List.mem_range.mp hl)

theorem actor_toList {s : State} {h : Hdr} {w : Wave} (hw : Issuing s w) :
    (s.actor h).toList = lowestThat (fun l => takes s h w l && !w.helper.getLsbD l) := by
  rw [State.actor, lowestLane, lowestThat, List.find?_congr fun l hl => notHelper_getLsbD hw (List.mem_range.mp hl)]

/-! ### The checks of 04 R85 -/

theorem wrap_eq (n : Nat) (x : Int) : wrap n x = (BitVec.ofInt n x).toNat := by
  rw [wrap, BitVec.toNat_ofInt]

/-- A trap at an address, in the words of the specification (18 R379). -/
theorem mkTrapA_eq_causeAt (g : Group) (d0 n : Nat) (v : BitVec 64) (hn : n = v.toNat) : mkTrapA g d0 n = causeAt g.code d0 v := by
  subst hn
  have hlow : BitVec.ofNat 32 (v.toNat % 2 ^ 32) = v.setWidth 32 := BitVec.eq_of_toNat_eq (by simp)
  have hhigh : BitVec.ofNat 32 (v.toNat / 2 ^ 32) = (v >>> 32).setWidth 32 :=
    BitVec.eq_of_toNat_eq (by simp [Nat.shiftRight_eq_div_pow])
  rw [mkTrapA, mkTrap, hlow, hhigh, causeAt]

theorem toNat_ofInt_of_inSpace {x : Int} (h0 : 0 ≤ x) (h1 : x < (2 ^ 64 : Nat)) : x.toNat = (BitVec.ofInt 64 x).toNat := by
  rw [BitVec.toNat_ofInt]
  omega

theorem vaOk_iff (x : Int) : vaOk x = true ↔ 0 ≤ x ∧ x < (2 ^ 64 : Nat) ∧ canonical x.toNat = true := by
  simp [vaOk, and_assoc]

theorem shareFull_iff {s : State} {w : Wave} (hw : Issuing s w) :
    (s.curWave.prog.isNone && s.shareFull w.core) = true ↔ ¬ WalkRoom s w := by
  rw [State.curWave_eq s w hw, WalkRoom, State.shareFull, Die.share, dieOf]
  simp [Option.isNone_iff_eq_none]

/-- The requests of some lanes. -/
def reqsAt (lanes : List Nat) (ea : Nat → Int) : List Req := lanes.map (fun l => { lane := l, va := ea l })

section
variable {s : State} {w : Wave} {i : Instr} {h : Hdr} {part : BitVec 64} {lanes : List Nat} {ea : Nat → Int} {align kind : Nat} {need : Need}
  {typeOk : MType → Bool} {mk : Nat → Nat → TrapInfo}

theorem find?_misaligned (lanes : List Nat) (ea : Nat → Int) (align : Nat) :
    (reqsAt lanes ea).find? (fun r => r.va % ((2 ^ align : Nat) : Int) != 0) =
      (lanes.find? (fun l => ea l % ((2 ^ align : Nat) : Int) != 0)).map (fun l => { lane := l, va := ea l }) := by
  rw [reqsAt, List.find?_map]
  rfl

theorem find?_noncanonical (lanes : List Nat) (ea : Nat → Int) :
    (reqsAt lanes ea).find? (fun r => !vaOk r.va) = (lanes.find? (fun l => !vaOk (ea l))).map (fun l => { lane := l, va := ea l }) := by
  rw [reqsAt, List.find?_map]
  rfl

theorem misaligned_iff (align : Nat) (x : Int) : (x % ((2 ^ align : Nat) : Int) != 0) = true ↔ ¬ ((2 ^ align : Nat) : Int) ∣ x := by
  rw [bne_iff_ne, ne_eq, Int.dvd_iff_emod_eq_zero]

/-- 04 R85: first the lowest misaligned lane. -/
theorem memCheck_misaligned (hs : lanes.Pairwise (· < ·)) {l : Nat} (hl : Lowest (fun l => l ∈ lanes ∧ ¬ ((2 ^ align : Nat) : Int) ∣ ea l) l) :
    s.memCheck i h part (reqsAt lanes ea) align need kind typeOk mk = .stop (s.trapLanes h part (mkTrapA .align align (wrap 64 (ea l)))) := by
  have hfind := find?_lowest hs (p := fun l => ea l % ((2 ^ align : Nat) : Int) != 0) (by simpa only [misaligned_iff] using hl)
  simp only [State.memCheck, State.memCheckAs, find?_misaligned, hfind, Option.map_some]

theorem find?_misaligned_none (hal : ∀ l ∈ lanes, ((2 ^ align : Nat) : Int) ∣ ea l) :
    lanes.find? (fun l => ea l % ((2 ^ align : Nat) : Int) != 0) = none :=
  List.find?_eq_none.mpr fun l hl e => (misaligned_iff align (ea l)).mp e (hal l hl)

/-- Then the lowest address that is not canonical. -/
theorem memCheck_noncanonical (hs : lanes.Pairwise (· < ·)) (hal : ∀ l ∈ lanes, ((2 ^ align : Nat) : Int) ∣ ea l) {l : Nat}
    (hl : Lowest (fun l => l ∈ lanes ∧ ¬ vaOk (ea l) = true) l) :
    s.memCheck i h part (reqsAt lanes ea) align need kind typeOk mk = .stop (s.trapLanes h part (mkTrapA .protect 1 (wrap 64 (ea l)))) := by
  have hfind := find?_lowest hs (p := fun l => !vaOk (ea l)) (by simpa using hl)
  simp only [State.memCheck, State.memCheckAs, find?_misaligned, find?_misaligned_none hal, Option.map_none, find?_noncanonical, hfind, Option.map_some]
  rfl

theorem find?_noncanonical_none (hcan : ∀ l ∈ lanes, vaOk (ea l) = true) : lanes.find? (fun l => !vaOk (ea l)) = none :=
  List.find?_eq_none.mpr fun l hl e => by simp [hcan l hl] at e

/-- Then, while the core's share of the miss queue is full, nothing issues (04 R84). -/
theorem memCheck_full (hw : Issuing s w) (hne : lanes ≠ []) (hkind : kind ≠ 3) (hroom : ¬ WalkRoom s w)
    (hal : ∀ l ∈ lanes, ((2 ^ align : Nat) : Int) ∣ ea l) (hcan : ∀ l ∈ lanes, vaOk (ea l) = true) :
    s.memCheck i h part (reqsAt lanes ea) align need kind typeOk mk = .stop s.blockWave := by
  have hfull : (!(reqsAt lanes ea).isEmpty && kind != 3 && s.curWave.prog.isNone && s.shareFull s.curWave.core) = true := by
    have hshare := (shareFull_iff hw).mpr hroom
    rw [Bool.and_eq_true] at hshare
    simp [reqsAt, hne, hkind, hshare, State.curWave_eq s w hw] at hshare ⊢
    exact hshare
  simp only [State.memCheck, State.memCheckAs, find?_misaligned, find?_misaligned_none hal, Option.map_none, find?_noncanonical,
    find?_noncanonical_none hcan, hfull, if_true]


/-- Every address is aligned and canonical, its translation is known, and the instruction may translate. -/
structure Translated (s : State) (w : Wave) (lanes : List Nat) (ea : Nat → Int) (align : Nat) (x : Nat → Xlat) : Prop where
  issuing : Issuing s w
  room : WalkRoom s w
  aligned : ∀ l ∈ lanes, ((2 ^ align : Nat) : Int) ∣ ea l
  canon : ∀ l ∈ lanes, vaOk (ea l) = true
  known : ∀ l ∈ lanes, s.look w.xl w.core s.curAsn (ea l).toNat = .hit (x l)

variable {x : Nat → Xlat} (ht : Translated s w lanes ea align x)
include ht

theorem Translated.looks : (reqsAt lanes ea).map (fun r => (r.va.toNat, s.look s.curWave.xl s.curWave.core s.curAsn r.va.toNat)) =
    lanes.map (fun l => ((ea l).toNat, Look.hit (x l))) := by
  rw [reqsAt, List.map_map]
  refine List.map_congr_left fun l hl => ?_
  simp only [Function.comp_apply, State.curWave_eq s w ht.issuing, ht.known l hl]

theorem Translated.notFull (b : Bool) : (b && s.curWave.prog.isNone && s.shareFull s.curWave.core) = false := by
  have hshare : (s.curWave.prog.isNone && s.shareFull w.core) = false :=
    Bool.eq_false_iff.mpr fun e => (shareFull_iff ht.issuing).mp e ht.room
  rw [Bool.and_assoc, State.curWave_eq s w ht.issuing] at *
  rw [hshare, Bool.and_false]

omit ht in
theorem misses_of_hits (lanes : List Nat) (ea : Nat → Int) (x : Nat → Xlat) :
    dedup (((lanes.map (fun l => ((ea l).toNat, Look.hit (x l)))).filter (fun p => p.2 == Look.miss)).map (fun p => pageOf p.1)) = [] := by
  have hnone : (lanes.map (fun l => ((ea l).toNat, Look.hit (x l)))).filter (fun p => p.2 == Look.miss) = [] :=
    List.filter_eq_nil_iff.mpr fun p hp => by
      obtain ⟨l, -, rfl⟩ := List.mem_map.mp hp
      exact Bool.false_ne_true
  rw [hnone]
  rfl

/-- Once every translation is known, the lowest lane without a permission, or with a forbidden type, traps. -/
theorem Translated.denied (hs : lanes.Pairwise (· < ·)) {l r : Nat} (hl : Lowest (fun l => l ∈ lanes ∧ need.fails typeOk (x l) ≠ none) l)
    (hr : need.fails typeOk (x l) = some r) :
    s.memCheck i h part (reqsAt lanes ea) align need kind typeOk mk = .stop (s.trapLanes h part (mk r (ea l).toNat)) := by
  have hfind := findSome?_lowest hs (f := fun l => (need.fails typeOk (x l)).map (fun r => ((ea l).toNat, r))) (k := l)
    (by simpa using hl)
  simp only [State.memCheck, State.memCheckAs, find?_misaligned, find?_misaligned_none ht.aligned, Option.map_none, find?_noncanonical,
    find?_noncanonical_none ht.canon, ht.looks, ht.notFull, misses_of_hits, List.isEmpty_nil, Bool.not_true, Bool.false_eq_true, if_false,
    List.findSome?_map, Function.comp_def, hfind, hr, Option.map_some]

/-- Otherwise every check passes, and the TLBs fill. -/
theorem Translated.passed (hok : ∀ l ∈ lanes, need.fails typeOk (x l) = none) :
    s.memCheck i h part (reqsAt lanes ea) align need kind typeOk mk =
      .ok (lanes.foldl (fun t l => t.refill w.core s.curAsn (ea l).toNat) s) (lanes.map x) := by
  have hnone : lanes.findSome? (fun l => (need.fails typeOk (x l)).map (fun r => ((ea l).toNat, r))) = none :=
    List.findSome?_eq_none_iff.mpr fun l hl => by simp [hok l hl]
  simp only [State.memCheck, State.memCheckAs, find?_misaligned, find?_misaligned_none ht.aligned, Option.map_none, find?_noncanonical,
    find?_noncanonical_none ht.canon, ht.looks, ht.notFull, misses_of_hits, List.isEmpty_nil, Bool.not_true, Bool.false_eq_true, if_false,
    List.findSome?_map, Function.comp_def, hnone]
  have hbad : lanes.findSome? (fun _ => (none : Option Nat)) = none := List.findSome?_eq_none_iff.mpr fun _ _ => rfl
  simp [hbad, reqsAt, List.foldl_map, State.curWave_eq s w ht.issuing]

end

end Sys2Proof.Machine

namespace Sys2Proof.Machine
open Sys2Proof.Safety

/-! ### Locked ranges and uncorrectable words -/

section
variable {s t : State} {tm : Team} (hb : Beside s t) (htm : s.team? s.cur.team = some tm)

include hb htm in
/-- 05 R109: no entry of the team's cores locks the range. -/
theorem hollyTrap_none {sp : Space} {lo n : Nat} {wr : Bool} (hu : Unlocked s tm sp lo n wr) : t.hollyTrap t.curTeam sp lo n wr = none := by
  have hcores : t.curTeam.cores = tm.cores := State.curTeam_eq s tm htm ▸ hb.curTeam Team.cores fun _ => rfl
  have huid : t.curTeam.uid = tm.uid := State.curTeam_eq s tm htm ▸ hb.curTeam Team.uid fun _ => rfl
  have hholly (c : Nat) : (t.core c).holly = (s.core c).holly := hb.core Core.holly (fun _ => rfl) c
  have hhits : t.hollyHits t.curTeam sp lo n wr = [] := by
    simp only [State.hollyHits, hcores, huid, hholly]
    refine List.flatMap_eq_nil_iff.mpr fun c hc => List.filterMap_eq_nil_iff.mpr fun k _ => ?_
    have hcore : c = tm.core ∨ (tm.pair = true ∧ c = tm.core + 1) := by
      unfold Team.cores at hc
      cases hp : tm.pair <;> simpa [hp] using hc
    split
    · next e he =>
      rw [if_neg]
      intro hlock
      simp only [Bool.and_eq_true, beq_iff_eq, decide_eq_true_eq, Bool.or_eq_true, Bool.not_eq_true'] at hlock
      obtain ⟨⟨⟨⟨hteam, hspace⟩, hhi⟩, hlo⟩, hsource⟩ := hlock
      rcases hu c hcore e (List.mem_of_getElem? he) hteam hspace with h | h | ⟨h, h'⟩
      · omega
      · omega
      · simp [h, h'] at hsource
    · rfl
  rw [State.hollyTrap, State.hollyHit, hhits]
  rfl

include hb in
/-- 18 R380: no uncorrectable word meets the range. -/
theorem badWord_none {c pa n : Nat} (cached : Bool) (hs : Sound s c pa n) : t.badWord c cached pa n = none := by
  obtain ⟨hmem, hcache⟩ := hs
  have hpoison : t.poison = s.poison := (congrArg State.poison hb.rest :)
  have hline : (t.core c).line? (lineOf pa) = (s.core c).line? (lineOf pa) := hb.core (fun k => k.line? (lineOf pa)) (fun _ => rfl) c
  have hin : ((s.core c).line? (lineOf pa)).bind (fun x => x.poison.find? (fun k => x.line * 256 + 8 * k < pa + n && pa < x.line * 256 + 8 * k + 8)) = none := by
    cases hx : (s.core c).line? (lineOf pa) with
    | none => rfl
    | some x =>
      refine List.find?_eq_none.mpr fun k hk hmeets => ?_
      have := hcache x (List.mem_of_find?_eq_some hx) k hk
      simp only [Bool.and_eq_true, decide_eq_true_eq] at hmeets
      omega
  have hout : s.poison.find? (fun p => p < pa + n && pa < p + 8) = none := by
    refine List.find?_eq_none.mpr fun p hp hmeets => ?_
    have := hmem p hp
    simp only [Bool.and_eq_true, decide_eq_true_eq] at hmeets
    omega
  simp only [State.badWord, hpoison, hline, hin, hout]
  cases cached <;> rfl

end

theorem badSide_none {s : State} (hclean : ∀ k side j, Site.scratch k side j ∉ s.poisonRegs) (uid side a n : Nat) : s.badSide uid side false a n = none := by
  refine List.findSome?_eq_none_iff.mpr fun p hp => ?_
  cases p
  case scratch u k j => exact absurd hp (hclean u k j)
  all_goals rfl

/-! ### Global accesses -/

section
variable {s : State} {w : Wave} {i : Instr} {h : Hdr} {lanes : List Nat} {ea : Nat → Int} {n align kind : Nat} {need : Need} {types : MType → Bool}
  {k : State → List GAccess → State}

theorem globalGo_stop {u : State} (hstop : s.memCheck i h (s.part h) (reqsAt lanes ea) align need kind types = .stop u) :
    s.globalGo i h (reqsAt lanes ea) n align need kind types k = u := by
  simp only [State.globalGo, hstop]

/-- The accesses that pass the checks. -/
def accessesAt (lanes : List Nat) (ea : Nat → Int) (x : Nat → Xlat) : List GAccess := lanes.map (fun l => { lane := l, va := (ea l).toNat, x := x l })

theorem globalGo_goes {tm : Team} {x : Nat → Xlat} (ht : Translated s w lanes ea align x) (htm : s.team? s.cur.team = some tm)
    (hok : ∀ l ∈ lanes, need.fails types (x l) = none) (hunlocked : ∀ l ∈ lanes, Unlocked s tm .glob (ea l).toNat n need.wr)
    (hsound : ∀ l ∈ lanes, need.rd = true → Sound s w.core (x l).pa n) :
    ∃ t, Beside s t ∧ s.globalGo i h (reqsAt lanes ea) n align need kind types k = k t (accessesAt lanes ea x) := by
  let t : State := lanes.foldl (fun t l => t.refill w.core s.curAsn (ea l).toNat) s
  have hb : Beside s t := beside_foldl lanes _ (fun u l => beside_refill u _ _ _) s
  have hzip : ((reqsAt lanes ea).zip (lanes.map x)).map (fun p => ({ lane := p.1.lane, va := p.1.va.toNat, x := p.2 } : GAccess)) = accessesAt lanes ea x := by
    simp [reqsAt, accessesAt, List.zip_map', Function.comp_def]
  have hholly : (accessesAt lanes ea x).findSome? (fun g => t.hollyTrap t.curTeam .glob g.va n need.wr) = none := by
    refine List.findSome?_eq_none_iff.mpr fun g hg => ?_
    obtain ⟨l, hl, rfl⟩ := List.mem_map.mp hg
    exact hollyTrap_none hb htm (hunlocked l hl)
  have hbad : (if need.rd then (accessesAt lanes ea x).findSome? (fun g => t.badWord t.curWave.core (g.x.mtype == .cached) g.x.pa n) else none) = none := by
    split
    · next hrd =>
      refine List.findSome?_eq_none_iff.mpr fun g hg => ?_
      obtain ⟨l, hl, rfl⟩ := List.mem_map.mp hg
      rw [hb.curWave, State.curWave_eq s w ht.issuing]
      exact badWord_none hb _ (hsound l hl hrd)
    · rfl
  exact ⟨t, hb, by simp only [State.globalGo, ht.passed hok, hzip, t, hholly, hbad]⟩

end

end Sys2Proof.Machine

namespace Sys2Proof.Safety
open Sys2Proof.Machine

/-- The permissions a form needs. -/
def GlobalForm.need (q : GlobalForm) : Need := { rd := q.rd, wr := q.wr, ex := false }

theorem GlobalForm.fails_eq (q : GlobalForm) (x : Xlat) : q.need.fails q.types x = q.reason x := by
  simp only [Need.fails, GlobalForm.need, GlobalForm.reason, Bool.false_and, Bool.false_eq_true, if_false]
  rfl

section
variable {q : GlobalForm} {s : State} {h : Hdr} {w : Wave} {kind : Nat} {k : State → List GAccess → State} (hw : Issuing s w)
  (hexec : exec q.i s = .next (s.globalGo q.i h (reqsAt q.lanes q.ea) q.n q.align q.need kind q.types k))

include hw hexec

/-- The traps of 04 R85 are those of the checks that the instruction runs. -/
theorem checks_of_globalGo (hsorted : q.lanes.Pairwise (· < ·)) (hkind : kind ≠ 3) : q.Checks s h w := by
  have htraps {g : Group} {d0 va : Nat} {v : BitVec 64} (hstop : s.memCheck q.i h (s.part h) (reqsAt q.lanes q.ea) q.align q.need kind q.types =
      .stop (s.trapLanes h (s.part h) (mkTrapA g d0 va))) (hva : va = v.toNat) : Traps q.i h s (takes s h w) (causeAt g.code d0 v) := by
    rw [mkTrapA_eq_causeAt g d0 va v hva] at hstop
    exact traps_part hw (hexec.trans (congrArg Host.Outcome.next (globalGo_stop hstop)))
  have hvaOk (l : Nat) : vaOk (q.ea l) = true ↔ q.canon l := vaOk_iff (q.ea l)
  refine ⟨fun l hl => ?_, fun l hal hl => ?_, fun x l r hroom hclear hl hr => ?_, fun hroom hne hclear => ?_⟩
  · exact htraps (g := .align) (memCheck_misaligned hsorted hl) (wrap_eq 64 _)
  · exact htraps (g := .protect) (memCheck_noncanonical hsorted hal (by simpa only [hvaOk] using hl)) (wrap_eq 64 _)
  · simp only [forall_and] at hclear
    obtain ⟨haligned, hcanon, hknown⟩ := hclear
    have ht : Translated s w q.lanes q.ea q.align x := ⟨hw, hroom, haligned, fun l hl => (hvaOk l).mpr (hcanon l hl), hknown⟩
    obtain ⟨⟨hmem, -⟩, -⟩ := id hl
    obtain ⟨hlow, hhigh, -⟩ := hcanon l hmem
    exact htraps (g := .protect) (ht.denied hsorted (by simpa only [q.fails_eq] using hl) ((q.fails_eq _).trans hr)) (toNat_ofInt_of_inSpace hlow hhigh)
  · have hstop := memCheck_full (i := q.i) (h := h) (part := s.part h) (need := q.need) (typeOk := q.types) (mk := mkTrapA .protect) hw hne hkind hroom
      (fun l hl => (hclear l hl).1) (fun l hl => (hvaOk l).mpr (hclear l hl).2)
    exact ⟨_, hexec.trans (congrArg _ (globalGo_stop hstop)), rfl⟩

/-- Once every check passes the instruction issues, as soon as what it does with its accesses does. -/
theorem goes_of_globalGo {tm : Team} (htm : s.team? s.cur.team = some tm)
    (hk : ∀ x t, Beside s t → (q.room = true → s.mshrFree (q.lanes.map (fun l => q.acc l (x l))) = true) →
      ∃ w', Issues s h w (q.out (q.lanes.map (fun l => q.acc l (x l)))) (k t (accessesAt q.lanes q.ea x)) w') : q.Goes s h w tm := by
  intro x hroom hclear hfree
  simp only [GlobalForm.Clear, forall_and] at hclear
  obtain ⟨haligned, hcanon, hknown, hreason, hunlocked, hsound⟩ := hclear
  have ht : Translated s w q.lanes q.ea q.align x :=
    { issuing := hw, room := hroom, aligned := haligned, canon := fun l hl => (vaOk_iff _).mpr (hcanon l hl), known := hknown }
  obtain ⟨t, hb, hgo⟩ := globalGo_goes (i := q.i) (h := h) (n := q.n) (kind := kind) (need := q.need) (types := q.types) (k := k) ht htm
    (fun l hl => (q.fails_eq _).trans (hreason l hl)) hunlocked hsound
  obtain ⟨w', hissues⟩ := hk x t hb hfree
  exact ⟨_, w', hexec.trans (congrArg _ hgo), hissues⟩

end


/-! ### LD, LDS, LDCVT, ST and STS -/

/-- A load by some lanes, and the result it leaves outstanding. -/
def loadForm (i : Instr) (h : Hdr) (f : MFields) (s : State) (w : Wave) (lanes : List Nat) (fin : Fin) : GlobalForm :=
  { i := i, lanes := lanes, ea := fun l => globalEa h f w (w.lane l), n := sizeBytes f, align := f.size.toNat, rd := true, wr := false,
    types := ioSize (sizeBytes f), room := true,
    acc := fun l x => accAt f .load f.ch.toNat (sizeBytes f) 0 l (globalEa h f w (w.lane l)) x, out := outOf s true fin [] }

/-- A store by some lanes. -/
def storeForm (i : Instr) (h : Hdr) (f : MFields) (s : State) (w : Wave) (lanes : List Nat) (scalar : Bool) : GlobalForm :=
  { i := i, lanes := lanes, ea := fun l => globalEa h f w (w.lane l), n := sizeBytes f, align := f.size.toNat, rd := false, wr := true,
    types := ioSize (sizeBytes f), room := true,
    acc := fun l x => accAt f .store f.ch.toNat (sizeBytes f) (storeData f w scalar l) l (globalEa h f w (w.lane l)) x, out := outOf s false .none [] }

section
variable {i : Instr} {h : Hdr} {f : MFields} {s : State} {w : Wave} {lanes : List Nat}

theorem globalReqs_eq (hw : Issuing s w) : s.globalReqs h f lanes = reqsAt lanes (fun l => globalEa h f w (w.lane l)) := by
  rw [State.globalReqs, State.curWave_eq s w hw, reqsAt]

theorem load_works {tm : Team} {fin : Fin} (hw : Issuing s w) (htm : s.team? s.cur.team = some tm) (hsorted : lanes.Pairwise (· < ·)) (hne : lanes ≠ [])
    (hexec : exec i s = .next (s.loadGlobal i h f lanes (sizeBytes f) fin)) :
    (loadForm i h f s w lanes fin).Goes s h w tm ∧ (loadForm i h f s w lanes fin).Checks s h w := by
  rw [State.loadGlobal, if_neg (by simpa using hne), globalReqs_eq hw] at hexec
  refine ⟨goes_of_globalGo hw hexec htm fun x t hb hfree => ?_, checks_of_globalGo hw hexec hsorted (by decide)⟩
  have hbeside : Beside s ((t.recordAccs (accessesAt lanes (fun l => globalEa h f w (w.lane l)) x) (sizeBytes f)).scoped f) :=
    (hb.trans (beside_record t _)).trans (beside_scoped _ f)
  have haccs : (accessesAt lanes (fun l => globalEa h f w (w.lane l)) x).map (fun g => g.acc f .load (sizeBytes f) 0) =
      lanes.map (fun l => (loadForm i h f s w lanes fin).acc l (x l)) := by
    rw [accessesAt, List.map_map]
    rfl
  show ∃ w', Issues s h w _ (State.issueAccs _ h true fin ((accessesAt lanes (fun l => globalEa h f w (w.lane l)) x).map _)) w'
  rw [haccs]
  exact issueAccs_issues hw hbeside true fin _ (hfree rfl)

theorem store_works {tm : Team} {scalar : Bool} (hw : Issuing s w) (htm : s.team? s.cur.team = some tm) (hsorted : lanes.Pairwise (· < ·)) (hne : lanes ≠ [])
    (hexec : exec i s = .next (s.storeGlobal i h f lanes scalar)) :
    (storeForm i h f s w lanes scalar).Goes s h w tm ∧ (storeForm i h f s w lanes scalar).Checks s h w := by
  rw [State.storeGlobal, if_neg (by simpa using hne), globalReqs_eq hw] at hexec
  refine ⟨goes_of_globalGo hw hexec htm fun x t hb hfree => ?_, checks_of_globalGo hw hexec hsorted (by decide)⟩
  have hbeside : Beside s (t.scoped f) := hb.trans (beside_scoped t f)
  have haccs : (accessesAt lanes (fun l => globalEa h f w (w.lane l)) x).map (fun g =>
      g.acc f .store (sizeBytes f) (storeData f t.curWave scalar g.lane)) = lanes.map (fun l => (storeForm i h f s w lanes scalar).acc l (x l)) := by
    rw [accessesAt, List.map_map, hb.curWave, State.curWave_eq s w hw]
    rfl
  show ∃ w', Issues s h w _ (State.issueAccs _ h false .none ((accessesAt lanes (fun l => globalEa h f w (w.lane l)) x).map _)) w'
  rw [haccs]
  exact issueAccs_issues hw hbeside false .none _ (hfree rfl)

/-- With no acting lane a load or store only moves on. -/
theorem noLane_becomes (hw : Issuing s w) (hexec : exec i s = .next (s.finish h)) :
    ∃ (t : State) (w' : Wave), exec i s = .next t ∧ Becomes s w w (onwards s h w) (w.runEnd || h.sw) t w' := by
  obtain ⟨w', hbecomes⟩ := finish_becomes (h := h) hw
  exact ⟨_, w', hexec, hbecomes⟩

end

/-- 06 R124: LD, LDS, ST and STS. -/
theorem loadsAndStores_global : Claims.LoadsAndStores := by
  intro h f s w tm hw htm
  have hload (i : Instr) (lanes : List Nat) (fin : Fin) (hsorted : lanes.Pairwise (· < ·)) (hexec : exec i s = .next (s.loadGlobal i h f lanes (sizeBytes f) fin)) :
      (lanes ≠ [] → (loadForm i h f s w lanes fin).Goes s h w tm ∧ (loadForm i h f s w lanes fin).Checks s h w) ∧
      (lanes = [] → ∃ (t : State) (w' : Wave), exec i s = .next t ∧ Becomes s w w (onwards s h w) (w.runEnd || h.sw) t w') :=
    ⟨fun hne => load_works hw htm hsorted hne hexec, fun hnil => noLane_becomes hw (by rw [hexec, State.loadGlobal, if_pos (by simp [hnil])])⟩
  have hstore (i : Instr) (lanes : List Nat) (scalar : Bool) (hsorted : lanes.Pairwise (· < ·)) (hexec : exec i s = .next (s.storeGlobal i h f lanes scalar)) :
      (lanes ≠ [] → (storeForm i h f s w lanes scalar).Goes s h w tm ∧ (storeForm i h f s w lanes scalar).Checks s h w) ∧
      (lanes = [] → ∃ (t : State) (w' : Wave), exec i s = .next t ∧ Becomes s w w (onwards s h w) (w.runEnd || h.sw) t w') :=
    ⟨fun hne => store_works hw htm hsorted hne hexec,
      fun hnil => noLane_becomes hw (by rw [hexec, State.storeGlobal, if_pos (by simp [hnil])])⟩
  have hld := hload (.ld h f) _ (.load f.d.toNat false (f.sub == 1)) (lanesThat_sorted (takes s h w)) (by rw [← lanesOf_part hw]; rfl)
  have hlds := hload (.lds h f) _ (.load f.d.toNat true (f.sub == 1)) (lowestThat_sorted (fun l => takes s h w l && !w.helper.getLsbD l))
    (by rw [← actor_toList hw]; rfl)
  have hst := hstore (.st h f) _ false (lanesThat_sorted (fun l => takes s h w l && !w.helper.getLsbD l)) (by rw [← lanesOf_notHelper hw]; rfl)
  have hsts := hstore (.sts h f) _ true (lowestThat_sorted (fun l => takes s h w l && !w.helper.getLsbD l)) (by rw [← actor_toList hw]; rfl)
  intro q hq
  simp only [loadStoreForms, List.mem_cons, List.not_mem_nil, or_false] at hq
  rcases hq with rfl | rfl | rfl | rfl
  · exact hld
  · exact hlds
  · exact hst
  · exact hsts

/-- 06 R125: LDCVT. -/
theorem narrowLoads : Claims.NarrowLoads := by
  intro h f s w tm hw htm hsome n desc k ea q
  have hpart : (s.part h == 0) = false := by simpa using part_ne_zero hw hsome
  have hne : lanesThat (takes s h w) ≠ [] := by
    rw [← lanesOf_part hw]
    obtain ⟨l, hl⟩ := hsome
    exact List.ne_nil_of_mem ((lanesOf_mem _ l).mpr ((takes_eq s h w l hw).trans hl))
  have hexec : exec (.ldcvt h f) s = if !(nfDesc desc).valid || decide (k > 16) then .next (s.illegal h (.ldcvt h f) 8)
      else if s.badBlock f.d.toNat k then .next (s.illegal h (.ldcvt h f) 7)
      else .next (s.loadGlobal (.ldcvt h f) h { f with off := 0 } (lanesThat (takes s h w)) (sizeBytes f) (.narrow f.d.toNat desc)) := by
    show execLdcvt h f s = _
    simp only [execLdcvt, hpart, Bool.false_eq_true, if_false, State.curWave_eq s w hw, lanesOf_part hw]
    rfl
  refine ⟨fun hvalid hfits hgood => ?_, fun hbad => ?_, fun hvalid hfits hbad => ?_⟩
  · refine load_works (f := { f with off := 0 }) hw htm (lanesThat_sorted _) hne ?_
    rw [hexec, if_neg (by simpa [hvalid] using hfits), if_neg (by simp [hgood])]
    rfl
  · rw [hexec, if_pos (by simpa using hbad)]
  · rw [hexec, if_neg (by simpa [hvalid] using hfits), if_pos hbad]


/-! ### LDL, STL and ATOML -/

theorem alloc_eq (tm : Team) : tm.alloc = (tm.scratchBytes + 4095) / 4096 * 4096 := by
  rw [Team.alloc, roundUp, ceilDiv, show tm.scratchBytes + 4096 - 1 = tm.scratchBytes + 4095 by omega]

/-- 06 R119, R120: where a local range lies. -/
theorem localAt_eq_some_iff (tm : Team) (w : Wave) (a : Int) (n : Nat) (p : Nat × Nat) :
    tm.localAt (tm.sideOf w.core) a n = some p ↔ InScratch tm w a n p := by
  have hown : tm.sideOf w.core = if tm.pair = true ∧ w.core ≠ tm.core then 1 else 0 := by simp [Team.sideOf]
  obtain ⟨side, off⟩ := p
  simp only [InScratch, ← hown, ← alloc_eq, Team.localAt, Bool.or_eq_true, Bool.and_eq_true, decide_eq_true_eq, Prod.mk.injEq]
  generalize tm.sideOf w.core = own
  generalize tm.alloc = room
  by_cases hout : a < 0 ∨ a + n > 8388608
  · rw [if_pos hout]
    simp only [reduceCtorEq, false_iff]
    rintro ⟨h0, h1, -⟩
    omega
  · rw [if_neg hout]
    by_cases hlow : a.toNat < 4194304
    · rw [if_pos hlow]
      split
      · simp only [Option.some.injEq, Prod.mk.injEq]
        omega
      · simp only [reduceCtorEq, false_iff]
        omega
    · rw [if_neg hlow]
      split
      · next hpair =>
        simp only [Option.some.injEq, Prod.mk.injEq, hpair.1, true_and]
        omega
      · next hpair =>
        simp only [reduceCtorEq, false_iff]
        rintro ⟨h0, h1, hfit, ⟨h, -⟩ | ⟨-, hp, -, hoff⟩⟩
        · omega
        · exact hpair ⟨hp, by omega⟩


theorem localAt_isNone_iff (tm : Team) (w : Wave) (a : Int) (n : Nat) :
    (tm.localAt (tm.sideOf w.core) a n).isNone = true ↔ ∀ p, ¬ InScratch tm w a n p := by
  simp only [Option.isNone_iff_eq_none, Option.eq_none_iff_forall_ne_some, ne_eq, localAt_eq_some_iff]

/-- The local accesses that pass the checks. -/
def localsAt (lanes : List Nat) (p : Nat → Nat × Nat) : List LAccess := lanes.map (fun l => { lane := l, side := (p l).1, off := (p l).2 })

section
variable {s : State} {h : Hdr} {f : MFields} {w : Wave} {tm : Team} {lanes : List Nat} {wr rd : Bool} {k : State → List LAccess → State}

theorem localMisaligned_iff (f : MFields) (a : Int) : (a % (sizeBytes f : Int) != 0) = true ↔ ¬ ((sizeBytes f : Nat) : Int) ∣ a :=
  misaligned_iff f.size.toNat a

theorem localGo_misaligned (hw : Issuing s w) (hsorted : lanes.Pairwise (· < ·)) {l : Nat}
    (hl : Lowest (fun l => l ∈ lanes ∧ ¬ ((sizeBytes f : Nat) : Int) ∣ localEa h f w (w.lane l)) l) :
    s.localGo h f lanes (sizeBytes f) wr rd k = s.trap h (cause 4 f.size.toNat (BitVec.ofInt 32 (localEa h f w (w.lane l))).toNat 0) := by
  have hlow := find?_lowest hsorted (p := fun l => localEa h f w (w.lane l) % (sizeBytes f : Int) != 0) (by simpa only [localMisaligned_iff] using hl)
  simp only [State.localGo, State.curWave_eq s w hw, List.find?_map, Function.comp_def, hlow, Option.map_some, wrap_eq]
  rfl

theorem find?_localMisaligned_none (hal : ∀ l ∈ lanes, ((sizeBytes f : Nat) : Int) ∣ localEa h f w (w.lane l)) :
    lanes.find? (fun l => localEa h f w (w.lane l) % (sizeBytes f : Int) != 0) = none :=
  List.find?_eq_none.mpr fun l hl e => (localMisaligned_iff f _).mp e (hal l hl)

theorem localGo_outside (hw : Issuing s w) (htm : s.team? s.cur.team = some tm) (hsorted : lanes.Pairwise (· < ·))
    (hal : ∀ l ∈ lanes, ((sizeBytes f : Nat) : Int) ∣ localEa h f w (w.lane l)) {l : Nat}
    (hl : Lowest (fun l => l ∈ lanes ∧ ∀ p, ¬ InScratch tm w (localEa h f w (w.lane l)) (sizeBytes f) p) l) :
    s.localGo h f lanes (sizeBytes f) wr rd k = s.trap h (cause 3 6 (BitVec.ofInt 32 (localEa h f w (w.lane l))).toNat 0) := by
  have hlow := find?_lowest hsorted (p := fun l => (tm.localAt (tm.sideOf w.core) (localEa h f w (w.lane l)) (sizeBytes f)).isNone)
    (by simpa only [localAt_isNone_iff] using hl)
  simp only [State.localGo, State.curWave_eq s w hw, State.curTeam_eq s tm htm, List.find?_map, Function.comp_def, find?_localMisaligned_none hal,
    Option.map_none, hlow, Option.map_some, wrap_eq]
  rfl

theorem localGo_goes (hw : Issuing s w) (htm : s.team? s.cur.team = some tm) {p : Nat → Nat × Nat}
    (hclear : ∀ l ∈ lanes, ((sizeBytes f : Nat) : Int) ∣ localEa h f w (w.lane l) ∧ InScratch tm w (localEa h f w (w.lane l)) (sizeBytes f) (p l) ∧
      Unlocked s tm (.scratch (p l).1) (p l).2 (sizeBytes f) wr)
    (hsound : rd = true → ∀ k side j, Site.scratch k side j ∉ s.poisonRegs) :
    s.localGo h f lanes (sizeBytes f) wr rd k = k s (localsAt lanes p) := by
  have hplace (l : Nat) (hl : l ∈ lanes) : tm.localAt (tm.sideOf w.core) (localEa h f w (w.lane l)) (sizeBytes f) = some (p l) :=
    (localAt_eq_some_iff tm w _ _ (p l)).mpr (hclear l hl).2.1
  have hinside : lanes.find? (fun l => (tm.localAt (tm.sideOf w.core) (localEa h f w (w.lane l)) (sizeBytes f)).isNone) = none :=
    List.find?_eq_none.mpr fun l hl e => by simp [hplace l hl] at e
  have hlocals : lanes.filterMap (fun l => (tm.localAt (tm.sideOf w.core) (localEa h f w (w.lane l)) (sizeBytes f)).map
      (fun y => ({ lane := l, side := y.1, off := y.2 } : LAccess))) = localsAt lanes p := by
    rw [localsAt, ← List.filterMap_eq_map]
    refine List.filterMap_congr fun l hl => ?_
    simp only [Function.comp_apply, hplace l hl, Option.map_some]
  have hholly : (localsAt lanes p).findSome? (fun a => s.hollyTrap tm (.scratch a.side) a.off (sizeBytes f) wr) = none := by
    refine List.findSome?_eq_none_iff.mpr fun a ha => ?_
    obtain ⟨l, hl, rfl⟩ := List.mem_map.mp ha
    exact State.curTeam_eq s tm htm ▸ hollyTrap_none (.refl s) htm (hclear l hl).2.2
  have hbad : (if rd then (localsAt lanes p).findSome? (fun a => s.badSide tm.uid a.side false a.off (sizeBytes f)) else none) = none := by
    split
    · next hrd => exact List.findSome?_eq_none_iff.mpr fun a _ => badSide_none (hsound hrd) _ _ _ _
    · rfl
  simp only [State.localGo, State.curWave_eq s w hw, State.curTeam_eq s tm htm, List.find?_map, Function.comp_def,
    find?_localMisaligned_none fun l hl => (hclear l hl).1, Option.map_none, hinside, List.filterMap_map, hlocals, hholly, hbad]

end

/-- What a local instruction does, from the checks that it runs (06 R120, R124, 05 R109). -/
theorem works_of_localGo {q : LocalForm} {s : State} {h : Hdr} {f : MFields} {w : Wave} {tm : Team} {k : State → List LAccess → State}
    (hw : Issuing s w) (htm : s.team? s.cur.team = some tm) (hsorted : q.lanes.Pairwise (· < ·))
    (hexec : q.lanes ≠ [] → exec q.i s = .next (s.localGo h f q.lanes (sizeBytes f) q.wr q.rd k))
    (hk : ∀ p, (q.room = true → s.mshrFree (q.lanes.map (fun l => q.acc l (p l).1 (p l).2)) = true) →
      ∃ w', Issues s h w (q.out (q.lanes.map (fun l => q.acc l (p l).1 (p l).2))) (k s (localsAt q.lanes p)) w') : q.Works s h f w tm := by
  refine ⟨fun l hl => ?_, fun l hal hl => ?_, fun p hne hclear hsound hfree => ?_⟩
  · exact traps_part hw ((hexec (List.ne_nil_of_mem hl.1.1)).trans (congrArg Host.Outcome.next (localGo_misaligned hw hsorted hl)))
  · exact traps_part hw ((hexec (List.ne_nil_of_mem hl.1.1)).trans (congrArg Host.Outcome.next (localGo_outside hw htm hsorted hal hl)))
  · obtain ⟨w', hissues⟩ := hk p hfree
    exact ⟨_, w', (hexec hne).trans (congrArg Host.Outcome.next (localGo_goes hw htm hclear hsound)), hissues⟩


/-- Taking part without being a helper lane. -/
def realLane (s : State) (h : Hdr) (w : Wave) (l : Nat) : Bool := takes s h w l && !w.helper.getLsbD l

/-- The zeros that ATOML gives its helper lanes (13 R289). -/
def atomlZeros (h : Hdr) (f : MFields) (s : State) (w : Wave) : List RegWrite :=
  (lanesThat (fun l => takes s h w l && w.helper.getLsbD l)).flatMap (fun l =>
    (List.range (regsOf (sizeBytes f))).map (fun j => { scalar := false, lane := l, reg := f.d.toNat + j, val := 0#32 }))

def ldlForm (h : Hdr) (f : MFields) (s : State) (w : Wave) : LocalForm :=
  { i := .ldl h f, lanes := lanesThat (takes s h w), wr := false, rd := true, room := true,
    acc := fun l sd off => accIn f .load (sizeBytes f) 0 l sd off, out := outOf s true (.load f.d.toNat false (f.sub == 1#3)) [] }

def stlForm (h : Hdr) (f : MFields) (s : State) (w : Wave) : LocalForm :=
  { i := .stl h f, lanes := lanesThat (realLane s h w), wr := true, rd := false, room := true,
    acc := fun l sd off => accIn f .store (sizeBytes f) (storeData f w false l) l sd off, out := outOf s false .none [] }

/-- ATOML with an operation on `m` registers of each lane. -/
def atomlForm (h : Hdr) (f : MFields) (s : State) (w : Wave) (op : AOp) (m : Nat) : LocalForm :=
  { i := .atoml h f, lanes := lanesThat (realLane s h w), wr := true, rd := true, room := false,
    acc := fun l sd off => accIn f (.atomic op) (sizeBytes f) ((w.lane l).vblock f.d.toNat m) l sd off,
    out := outOf s true (.load f.d.toNat false false) (atomlZeros h f s w) }

section
variable {s : State} {h : Hdr} {f : MFields} {w : Wave} {tm : Team}

theorem part_ne_zero_of_lane {p : Nat → Bool} (hw : Issuing s w) (hp : ∀ l, p l = true → takes s h w l = true) (hne : lanesThat p ≠ []) :
    (s.part h == 0) = false := by
  obtain ⟨l, hl⟩ := List.exists_mem_of_ne_nil _ hne
  simpa using part_ne_zero hw ⟨l, hp l (List.mem_filter.mp hl).2⟩

theorem locals_acc (lanes : List Nat) (p : Nat → Nat × Nat) (kind : AKind) (data : Nat → Nat) :
    (localsAt lanes p).map (fun a => a.acc f kind (sizeBytes f) (data a.lane)) =
      lanes.map (fun l => accIn f kind (sizeBytes f) (data l) l (p l).1 (p l).2) := by
  rw [localsAt, List.map_map]
  rfl

theorem ldl_works (hw : Issuing s w) (htm : s.team? s.cur.team = some tm) : (ldlForm h f s w).Works s h f w tm := by
  refine works_of_localGo (k := fun s ls => (s.scoped f).issueAccs h true (.load f.d.toNat false (f.sub == 1)) (ls.map (fun a => a.acc f .load (sizeBytes f) 0)))
    hw htm (lanesThat_sorted (takes s h w)) (fun hne => ?_) fun p hfree => ?_
  · show execLdl h f s = _
    simp only [execLdl, part_ne_zero_of_lane hw (fun _ hl => hl) hne, Bool.false_eq_true, if_false, lanesOf_part hw]
    rfl
  · rw [locals_acc _ p .load fun _ => 0]
    exact issueAccs_issues hw (beside_scoped s f) true _ _ (hfree rfl)

theorem stl_works (hw : Issuing s w) (htm : s.team? s.cur.team = some tm) : (stlForm h f s w).Works s h f w tm := by
  refine works_of_localGo (k := fun s ls => (s.scoped f).issueAccs h false .none (ls.map (fun a => a.acc f .store (sizeBytes f) (storeData f s.curWave false a.lane))))
    hw htm (lanesThat_sorted (realLane s h w)) (fun hne => ?_) fun p hfree => ?_
  · show execStl h f s = _
    have hempty : (lanesOf (s.part h &&& ~~~ s.curWave.helper)).isEmpty = false :=
      List.isEmpty_eq_false_iff.mpr (by rw [lanesOf_notHelper hw]; exact hne)
    simp only [execStl, hempty, Bool.false_eq_true, if_false]
    rw [lanesOf_notHelper hw]
    rfl
  · rw [State.curWave_eq s w hw, locals_acc _ p .store fun l => storeData f w false l]
    exact issueAccs_issues hw (beside_scoped s f) false _ _ (hfree rfl)

theorem helperZeros_eq (hw : Issuing s w) : helperZeros f (s.part h &&& s.curWave.helper) = atomlZeros h f s w := by
  have hlanes : lanesOf (s.part h &&& s.curWave.helper) = lanesThat (fun l => takes s h w l && w.helper.getLsbD l) :=
    List.filter_congr fun l _ => by rw [BitVec.getLsbD_and, takes_eq s h w l hw, State.curWave_eq s w hw]
  rw [helperZeros, hlanes]
  rfl

theorem atoml_works (hw : Issuing s w) (htm : s.team? s.cur.team = some tm) {op : AOp} {m : Nat}
    (hop : (if f.ch == 1 then atomxOp f.sub.toNat else atomOp f.sub.toNat) = op) (hdata : ∀ ln : Lane, atomData f op ln = ln.vblock f.d.toNat m) :
    (atomlForm h f s w op m).Works s h f w tm := by
  refine works_of_localGo (k := fun t ls => ((t.scoped f).addOut (atomOut f t.cur.pc true (s.part h &&& s.curWave.helper)
      (ls.map (fun a => a.acc f (.atomic op) (sizeBytes f) (atomData f op (t.curWave.lane a.lane)))))).finish h)
    hw htm (lanesThat_sorted (realLane s h w)) (fun hne => ?_) fun p _ => ?_
  · show execAtoml h f s = _
    have hempty : (lanesOf (s.part h &&& ~~~ s.curWave.helper)).isEmpty = false :=
      List.isEmpty_eq_false_iff.mpr (by rw [lanesOf_notHelper hw]; exact hne)
    have hpart := part_ne_zero_of_lane hw (p := realLane s h w) (fun l hl => (Bool.and_eq_true_iff.mp hl).1) hne
    simp only [execAtoml, hpart, hempty, Bool.false_eq_true, if_false, hop]
    rw [lanesOf_notHelper hw]
    rfl
  · have haccs : (localsAt (lanesThat (realLane s h w)) p).map (fun a => a.acc f (.atomic op) (sizeBytes f) (atomData f op (s.curWave.lane a.lane))) =
        (lanesThat (realLane s h w)).map (fun l => (atomlForm h f s w op m).acc l (p l).1 (p l).2) := by
      rw [State.curWave_eq s w hw, locals_acc _ p (.atomic op) fun l => atomData f op (w.lane l)]
      simp only [hdata]
      rfl
    obtain ⟨w', hissues⟩ := issues_of_beside (h := h) hw (beside_scoped s f) (atomOut f s.cur.pc true (s.part h &&& s.curWave.helper)
      ((lanesThat (realLane s h w)).map (fun l => (atomlForm h f s w op m).acc l (p l).1 (p l).2)))
    refine ⟨w', ?_⟩
    show Issues s h w _ ((State.addOut _ (atomOut f s.cur.pc true _ ((localsAt (lanesThat (realLane s h w)) p).map _))).finish h) w'
    rw [haccs]
    have hout : ({ atomOut f s.cur.pc true (s.part h &&& s.curWave.helper) ((lanesThat (realLane s h w)).map (fun l =>
        (atomlForm h f s w op m).acc l (p l).1 (p l).2)) with id := s.uid } : Out) =
        (atomlForm h f s w op m).out ((lanesThat (realLane s h w)).map (fun l => (atomlForm h f s w op m).acc l (p l).1 (p l).2)) := by
      rw [atomOut, helperZeros_eq hw]
      rfl
    exact hout ▸ hissues

end

theorem atomData_block {f : MFields} {op : AOp} (hcas : op ≠ .cas) (hxred : op ≠ .xredF) (ln : Lane) :
    atomData f op ln = ln.vblock f.d.toNat (regsOf (sizeBytes f)) := by
  cases op with
  | cas => exact absurd rfl hcas
  | xredF => exact absurd rfl hxred
  | _ => rfl

/-- The operations under CH 0 (03 R63). -/
theorem atomOp_of_table {sub : BitVec 3} {op : AOp}
    (hop : (sub, op) ∈ [(0#3, AOp.add), (1#3, .minS), (2#3, .maxS), (3#3, .minU), (4#3, .maxU), (5#3, .and), (6#3, .or), (7#3, .xor)]) :
    atomOp sub.toNat = op ∧ op ≠ .cas ∧ op ≠ .xredF := by
  simp only [List.mem_cons, Prod.mk.injEq, List.not_mem_nil, or_false] at hop
  rcases hop with ⟨rfl, rfl⟩ | ⟨rfl, rfl⟩ | ⟨rfl, rfl⟩ | ⟨rfl, rfl⟩ | ⟨rfl, rfl⟩ | ⟨rfl, rfl⟩ | ⟨rfl, rfl⟩ | ⟨rfl, rfl⟩ <;> decide

/-- The operations under CH 1, and the registers of their operands. -/
theorem atomxOp_of_table {f : MFields} {sub : BitVec 3} {op : AOp} {m : Nat}
    (hop : (sub, op, m) ∈ [(0#3, AOp.xchg, regsOf (sizeBytes f)), (1#3, .cas, 2 * regsOf (sizeBytes f)), (2#3, .fadd, regsOf (sizeBytes f)),
      (3#3, .inc, regsOf (sizeBytes f)), (4#3, .dec, regsOf (sizeBytes f))]) :
    atomxOp sub.toNat = op ∧ ∀ ln : Lane, atomData f op ln = ln.vblock f.d.toNat m := by
  simp only [List.mem_cons, Prod.mk.injEq, List.not_mem_nil, or_false] at hop
  rcases hop with ⟨rfl, rfl, rfl⟩ | ⟨rfl, rfl, rfl⟩ | ⟨rfl, rfl, rfl⟩ | ⟨rfl, rfl, rfl⟩ | ⟨rfl, rfl, rfl⟩ <;> exact ⟨rfl, fun _ => rfl⟩

/-- 06 R124, 13 R289: LDL, STL and ATOML. -/
theorem localAccesses : Claims.LocalAccesses := by
  intro h f s w tm hw htm
  refine ⟨ldl_works hw htm, stl_works hw htm, fun hch op hop => ?_, fun hch op m hop => ?_⟩
  · obtain ⟨htable, hcas, hxred⟩ := atomOp_of_table hop
    exact atoml_works hw htm (by rw [if_neg (by simpa using hch), htable]) (atomData_block hcas hxred)
  · obtain ⟨htable, hdata⟩ := atomxOp_of_table (f := f) hop
    exact atoml_works hw htm (by rw [if_pos (by simpa using hch), htable]) hdata

/-- Settles O20: the global forms by the checks of `memCheck`, the local ones by those of `localGo` (log entries 18, 19). -/
theorem loadsAndStores : Obligations.LoadsAndStores := ⟨loadsAndStores_global, narrowLoads, localAccesses⟩

end Sys2Proof.Safety
end

section
/-! PROOF. O26: streams: their binding, the step that a QPOP takes, and the step that STREAM_FETCH fetches. -/

namespace Sys2Proof.Machine
open Sys2Proof.Safety

/-! ### An update of the current wave, then moving on -/

theorem listSet_const {α : Type} (l : List α) (i : Nat) (a : α) : listSet l i (fun _ => a) = l.set i a := by
  apply List.ext_getElem?
  intro j
  rw [listSet_getElem?, List.getElem?_set]
  by_cases h : j = i
  · subst h
    rw [if_pos rfl, if_pos rfl]
    by_cases hlen : j < l.length
    · simp [hlen]
    · simp [hlen]
  · rw [if_neg h, if_neg (Ne.symm h)]

/-- An instruction that changes its wave and moves on. -/
theorem updCur_finish_becomes {s : State} {h : Hdr} {w x : Wave} {g : Wave → Wave} (hw : Issuing s w) (hg : g w = x) (hlanes : x.lanes = w.lanes)
    (hrun : x.runEnd = w.runEnd) : ∃ w', Becomes s w x (onwards s h w) (w.runEnd || h.sw) ((s.updCur g).finish h) w' := by
  obtain ⟨w', hturns⟩ := finish_turns (s := s) (w := w) (h := h) (t := s.updCur g) (x := x) ((s.wave?_updCur g w hw).trans (congrArg some hg)) rfl
    (fun q hq => State.wave?_updWave_ne s s.curRef q g hq) hlanes hrun
  exact ⟨w', hturns.here, hturns.count, hturns.lanes, hturns.run, hturns.prog, hturns.wave,
    Elsewhere.trans (Elsewhere.updCur s g) (Elsewhere.updCur (s.updCur g) _) rfl⟩

/-- A scalar register written at issue. -/
theorem updCur_finish_scalar {s : State} {h : Hdr} {w : Wave} {g : Wave → Wave} {d v : Nat} (hw : Issuing s w) (hg : g w = w.setS d v) :
    ∃ w', ScalarStep s h w d 1 v ((s.updCur g).finish h) w' := by
  have hlane (l : Nat) : (w.setS d v).lane l = w.lane l := rfl
  have hmoves := goto_moves s h w (w.setS d v) rfl fun l _ => rfl
  refine ⟨{ (w.setS d v).goto s.cur.mask (s.nextPc h) with runEnd := w.runEnd || h.sw, prog := none, xl := [] }, ?_, ?_, ⟨?_, ?_⟩,
    ⟨hmoves.count, hmoves.pc, hmoves.lane⟩, ⟨rfl, rfl⟩, rfl, Elsewhere.trans (Elsewhere.updCur s g) (Elsewhere.updCur (s.updCur g) _) rfl⟩
  · exact (s.updCur g).wave?_finish h (w.setS d v) ((s.wave?_updCur g w hw).trans (congrArg some hg))
  · exact sr_block w d 1 v
  · intro l r _
    show (((w.setS d v).goto _ _).lane l).vr r = _
    rw [Wave.lane_goto, hlane]
    split <;> rfl
  · intro l r _
    show (((w.setS d v).goto _ _).lane l).pred r = _
    rw [Wave.lane_goto, hlane]
    split <;> rfl

/-! ### STRM -/

/-- The extent and the stride of a dimension (06 R130). -/
def strmExtent (f : CFields) (w : Wave) (k : Nat) : Nat := bits (w.sr (f.e.toNat + k / 2)) (16 * (k % 2) + 15) (16 * (k % 2))
def strmStride (f : CFields) (w : Wave) (k : Nat) : Int := toSigned 32 (w.sr (f.b.toNat + k))
def strmLaneStride (f : CFields) (w : Wave) : Int := toSigned 32 (w.sr (f.e.toNat + 2))
/-- The dimensions of a pattern, its first predicate and its element size. -/
def strmDims (f : CFields) : Nat := bits f.d.toNat 7 6 + 1
def strmPred (f : CFields) : Nat := bits f.d.toNat 5 3
def strmSize (f : CFields) (w : Wave) : Nat := w.sr (f.e.toNat + 3)

/-- The checks of a pattern's shape and of its alignment. -/
def strmMisshapen (f : CFields) (w : Wave) : Bool :=
  (List.range 4).any (fun k => if k < strmDims f then strmExtent f w k == 0 else strmExtent f w k != 0 || strmStride f w k != 0) ||
    strmSize f w % 4 == 3 || decide (strmSize f w > 3) || (strmPred f != 7 && decide (strmPred f + strmDims f - 1 > 6))
def strmMisaligned (f : CFields) (w : Wave) : Bool :=
  let size : Int := (4 * 2 ^ (strmSize f w % 4) : Nat)
  (w.spair f.a.toNat : Int) % size != 0 || strmLaneStride f w % size != 0 || (List.range 4).any (fun k => strmStride f w k % size != 0)

/-- The stream that STRM binds. -/
def strmBound (f : CFields) (w : Wave) : Stream :=
  { bound := true, base := BitVec.ofNat 64 (w.spair f.a.toNat), strides := (List.range (strmDims f)).map (strmStride f w),
    extents := (List.range (strmDims f)).map (strmExtent f w), laneStride := strmLaneStride f w, esize := strmSize f w % 4, pred := strmPred f,
    nd := strmDims f, next := 0, fetched := 0, queue := [], stopped := false }

section
variable {h : Hdr} {s : State} {w : Wave}

theorem execStrm_eq (f : CFields) (hw : Issuing s w) (hsome : Someone s h w) : execStrm h f s =
    if strmMisshapen f w then .next (s.trap h (copyTrap 1 0 0))
    else if strmMisaligned f w then .next (s.trap h (mkTrapA .align (strmSize f w % 4 + 2) (w.spair f.a.toNat)))
    else if !canonical (w.spair f.a.toNat) then .next (s.trap h (mkTrapA .protect 1 (w.spair f.a.toNat)))
    else .next ((s.updCur (fun x => x.updStream (bits f.d.toNat 2 0) (fun _ => strmBound f w))).finish h) := by
  have hpart : (s.part h == 0) = false := by simpa using part_ne_zero hw hsome
  simp only [execStrm, State.curWave_eq s w hw, hpart, Bool.false_eq_true, if_false]
  rfl

/-- 06 R130: the shape of a pattern. -/
theorem strmMisshapen_eq_false_iff (f : CFields) (w : Wave) : strmMisshapen f w = false ↔
    strmSize f w < 3 ∧ (strmPred f = 7 ∨ strmPred f + strmDims f ≤ 7) ∧
      ∀ k < 4, if k < strmDims f then strmExtent f w k ≠ 0 else strmExtent f w k = 0 ∧ strmStride f w k = 0 := by
  have hdim : (List.range 4).any (fun k => if k < strmDims f then strmExtent f w k == 0 else strmExtent f w k != 0 || strmStride f w k != 0) = false ↔
      ∀ k < 4, if k < strmDims f then strmExtent f w k ≠ 0 else strmExtent f w k = 0 ∧ strmStride f w k = 0 := by
    simp only [List.any_eq_false, List.mem_range]
    refine forall_congr' fun k => imp_congr_right fun _ => ?_
    split <;> simp
  have hpos : 0 < strmDims f := Nat.succ_pos _
  simp only [strmMisshapen, Bool.or_eq_false_iff, hdim, beq_eq_false_iff_ne, decide_eq_false_iff_not, Bool.and_eq_false_iff, bne_eq_false_iff_eq]
  constructor
  · rintro ⟨⟨⟨hk, h3⟩, hbig⟩, hp⟩
    exact ⟨by omega, by omega, hk⟩
  · rintro ⟨hsize, hp, hk⟩
    exact ⟨⟨⟨hk, by omega⟩, by omega⟩, by omega⟩

/-- 06 R130: the alignment of a pattern. -/
theorem strmMisaligned_eq_false_iff (f : CFields) (w : Wave) (hsize : strmSize f w < 3) : strmMisaligned f w = false ↔
    (4 * 2 ^ strmSize f w : Int) ∣ (w.spair f.a.toNat : Int) ∧ (4 * 2 ^ strmSize f w : Int) ∣ strmLaneStride f w ∧
      ∀ k < 4, (4 * 2 ^ strmSize f w : Int) ∣ strmStride f w k := by
  have hcast : ((4 * 2 ^ (strmSize f w % 4) : Nat) : Int) = 4 * 2 ^ strmSize f w := by
    rw [Nat.mod_eq_of_lt (by omega)]
    push_cast
    rfl
  simp only [strmMisaligned, hcast, Bool.or_eq_false_iff, bne_eq_false_iff_eq, List.any_eq_false, List.mem_range, bne_iff_ne, ne_eq, not_not,
    Int.dvd_iff_emod_eq_zero, and_assoc]

end

end Sys2Proof.Machine

namespace Sys2Proof.Safety
open Sys2Proof.Machine

theorem Wave.spair_lt (w : Wave) (r : Nat) : w.spair r < 2 ^ 64 := by
  have hlow := (cellGet w.sregs r).isLt
  have hhigh := (cellGet w.sregs (r + 1)).isLt
  simp only [Wave.spair, Wave.sr]
  omega

/-- 06 R133: what QSTAT reads. -/
theorem stat_fields (q : Stream) (hqueue : q.queue.length ≤ 16) :
    q.stat % 32 = q.queue.length ∧ q.stat.testBit 5 = q.bound ∧ q.stat.testBit 6 = (q.bound && q.next == q.extents.prod) ∧
      q.stat.testBit 7 = q.stopped ∧ q.stat / 256 = q.esize := by
  have hsteps : q.steps = q.extents.prod := by rw [Stream.steps, List.prod_eq_foldl]
  have hb (b : Bool) : b2n b = b.toNat := by cases b <;> rfl
  simp only [Stream.stat, hsteps, hb]
  generalize (q.bound && q.next == q.extents.prod) = c
  generalize q.bound = b
  generalize q.stopped = d
  simp only [Nat.testBit_eq_decide_div_mod_eq]
  cases b <;> cases c <;> cases d <;> simp <;> omega


theorem Wave.stream_eq {w : Wave} {k : Nat} {q : Stream} (hq : w.streams[k]? = some q) : w.stream k = q := by
  rw [Wave.stream, List.getD_eq_getElem?_getD, hq, Option.getD_some]

theorem copyTrap_eq (reason : Nat) : copyTrap reason 0 0 = causeAt 7 reason 0#64 := by
  rw [copyTrap, mkTrapA_eq_causeAt .copy _ 0 0#64 rfl]
  rfl

theorem bits_toNat {n : Nat} (v : BitVec n) (lo k : Nat) : bits v.toNat (lo + k) lo = (v.extractLsb' lo (k + 1)).toNat := by
  rw [BitVec.extractLsb'_toNat, bits, show lo + k + 1 - lo = k + 1 by omega]

/-- The half of a scalar register that holds an extent. -/
theorem strmExtent_eq (f : CFields) (w : Wave) (k : Nat) : strmExtent f w k =
    (fun v j => if j = 0 then v % 2 ^ 16 else v / 2 ^ 16 % 2 ^ 16) (w.sr (f.e.toNat + k / 2)) (k % 2) := by
  rw [strmExtent, bits_eq_div_mod]
  rcases Nat.mod_two_eq_zero_or_one k with h | h <;> simp [h]

/-- 06 R130: STRM. -/
theorem strm_outcomes {h : Hdr} {s : State} {w : Wave} (f : CFields) (hw : Issuing s w) (hsome : Someone s h w) :
    (strmMisshapen f w = true → Traps (.strm h f) h s (takes s h w) (causeAt 7 1 0#64)) ∧
    (strmMisshapen f w = false → strmMisaligned f w = true →
      Traps (.strm h f) h s (takes s h w) (causeAt 4 (strmSize f w % 4 + 2) (BitVec.ofNat 64 (w.spair f.a.toNat)))) ∧
    (strmMisshapen f w = false → strmMisaligned f w = false → canonical (w.spair f.a.toNat) = false →
      Traps (.strm h f) h s (takes s h w) (causeAt 3 1 (BitVec.ofNat 64 (w.spair f.a.toNat)))) ∧
    (strmMisshapen f w = false → strmMisaligned f w = false → canonical (w.spair f.a.toNat) = true →
      ∃ (t : State) (w' : Wave), exec (.strm h f) s = .next t ∧
        Becomes s w { w with streams := w.streams.set (bits f.d.toNat 2 0) (strmBound f w) } (onwards s h w) (w.runEnd || h.sw) t w') := by
  have hexec : exec (.strm h f) s = execStrm h f s := rfl
  have hbase : w.spair f.a.toNat = (BitVec.ofNat 64 (w.spair f.a.toNat)).toNat := by
    rw [BitVec.toNat_ofNat, Nat.mod_eq_of_lt (Wave.spair_lt w f.a.toNat)]
  refine ⟨fun hshape => ?_, fun hshape hal => ?_, fun hshape hal hcan => ?_, fun hshape hal hcan => ?_⟩
  · rw [← copyTrap_eq]
    exact traps_part hw (by rw [hexec, execStrm_eq f hw hsome, if_pos hshape])
  · refine traps_part hw ?_
    rw [hexec, execStrm_eq f hw hsome, hshape, if_neg Bool.false_ne_true, if_pos hal, mkTrapA_eq_causeAt .align _ _ _ hbase]
    rfl
  · refine traps_part hw ?_
    rw [hexec, execStrm_eq f hw hsome, hshape, if_neg Bool.false_ne_true, hal, if_neg Bool.false_ne_true, hcan, if_pos (by decide),
      mkTrapA_eq_causeAt .protect _ _ _ hbase]
    rfl
  · obtain ⟨w', hbecomes⟩ := updCur_finish_becomes (h := h) (g := fun x => x.updStream (bits f.d.toNat 2 0) (fun _ => strmBound f w))
      (x := { w with streams := w.streams.set (bits f.d.toNat 2 0) (strmBound f w) }) hw (by rw [Wave.updStream, listSet_const]) rfl rfl
    refine ⟨_, w', ?_, hbecomes⟩
    rw [hexec, execStrm_eq f hw hsome, hshape, if_neg Bool.false_ne_true, hal, if_neg Bool.false_ne_true, hcan, if_neg (by decide)]

/-- 06 R130, R133: STRM, STRMX and QSTAT. -/
theorem streamBinding : Claims.StreamBinding := by
  intro h s w hw hsome hstreams
  have hpart : (s.part h == 0) = false := by simpa using part_ne_zero hw hsome
  refine ⟨fun f => ?_, fun f q hq hqueue _ => ?_⟩
  · intro nd p half e st es ls base size bound shape aligned
    obtain ⟨hmisshapen, hmisaligned, hnoncanonical, hbinds⟩ := strm_outcomes f hw hsome
    have hextent : strmExtent f w = e := funext fun k => strmExtent_eq f w k
    have hbase : w.spair f.a.toNat = base.toNat := by
      rw [BitVec.toNat_ofNat]
      exact (Nat.mod_eq_of_lt (Wave.spair_lt w f.a.toNat)).symm
    have hdims : strmDims f = nd := congrArg (· + 1) (bits_toNat f.d 6 1)
    have hpred : strmPred f = p := bits_toNat f.d 3 2
    have hindex : bits f.d.toNat 2 0 = (f.d.extractLsb' 0 3).toNat := bits_toNat f.d 0 2
    have hshape : strmMisshapen f w = false ↔ shape := by
      rw [strmMisshapen_eq_false_iff, hextent, hdims, hpred]
      rfl
    have hbad : ¬ shape ↔ strmMisshapen f w = true := by rw [← hshape, Bool.not_eq_false]
    have haligned (hsh : shape) : strmMisaligned f w = false ↔ aligned := by
      rw [strmMisaligned_eq_false_iff f w hsh.1, hbase]
      rfl
    have hsize (hsh : shape) : strmSize f w % 4 = es := Nat.mod_eq_of_lt (show es < 4 by have := hsh.1; omega)
    have hbound (hsh : shape) : strmBound f w = bound := by
      rw [strmBound, hsize hsh, hextent, hdims, hpred]
      rfl
    refine ⟨fun hsh => hmisshapen (hbad.mp hsh), fun hsh hal => ?_, fun hsh hal hcan => ?_, fun hsh hal hcan => ?_, ?_⟩
    · rw [← hsize hsh]
      exact hmisaligned (hshape.mpr hsh) (by rw [← Bool.not_eq_false, haligned hsh]; exact hal)
    · exact hnoncanonical (hshape.mpr hsh) ((haligned hsh).mpr hal) (hbase ▸ hcan)
    · rw [← hindex, ← hbound hsh]
      exact hbinds (hshape.mpr hsh) ((haligned hsh).mpr hal) (hbase ▸ hcan)
    · rw [← hindex]
      obtain ⟨w', hbecomes⟩ := updCur_finish_becomes (h := h) (g := fun x => x.updStream (bits f.d.toNat 2 0) (fun _ => Stream.reset))
        (x := { w with streams := w.streams.set (bits f.d.toNat 2 0) Stream.reset }) hw (by rw [Wave.updStream, listSet_const]) rfl rfl
      refine ⟨_, w', ?_, hbecomes⟩
      show execStrmx h f s = _
      rw [execStrmx, hpart, if_neg Bool.false_ne_true]
  · obtain ⟨w', hscalar⟩ := updCur_finish_scalar (h := h) (g := fun x => x.setS f.d.toNat (x.stream (f.off.toNat % 8)).stat) hw
      (congrArg (fun q : Stream => w.setS f.d.toNat q.stat) (Wave.stream_eq hq))
    refine ⟨_, w', q.stat, ?_, hscalar, stat_fields q hqueue⟩
    show execQstat h f s = _
    rw [execQstat, hpart, if_neg Bool.false_ne_true]

end Sys2Proof.Safety

namespace Sys2Proof.Machine
open Sys2Proof.Safety

/-! ### Steps of a pattern -/

theorem lastPred_range (d n : Nat) (b : Nat → Bool) (p : Nat) :
    lastPred ((List.range n).map fun i => (d + i, b i)) p = if p < 7 ∧ d ≤ p ∧ p < d + n then some (b (p - d)) else none := by
  by_cases h7 : p < 7
  · simp only [lastPred, h7, if_true, true_and]
    induction n with
    | zero => simp [show ¬ (d ≤ p ∧ p < d) by omega]
    | succ n ih =>
      rw [List.range_succ, List.map_append, List.reverse_append, List.find?_append, List.map_singleton, List.reverse_singleton]
      by_cases hp : p = d + n
      · subst hp
        simp
      · rw [List.find?_singleton, if_neg (by simpa using Ne.symm hp), Option.none_or, ih]
        exact if_congr (by omega) rfl rfl
  · simp [lastPred, h7]

theorem stepIndex_length (es : List Nat) (step : Nat) : (stepIndex es step).length = es.length := by
  induction es generalizing step with
  | nil => rfl
  | cons e es ih => simp [stepIndex, ih]

/-- 06 R130: the index of a dimension at a step, dimension 0 fastest. -/
theorem stepIndex_getD (es : List Nat) (step k : Nat) (hk : k < es.length) : (stepIndex es step).getD k 0 = dimIndex es step k := by
  induction es generalizing step k with
  | nil => simp at hk
  | cons e es ih =>
    cases k with
    | zero => simp [stepIndex, dimIndex]
    | succ k =>
      rw [stepIndex, List.getD_cons_succ, ih _ _ (by simpa using hk)]
      simp [dimIndex, Nat.div_div_eq_div_mul]

/-- The exact address of an element (06 R130). -/
theorem addr_eq_streamAddr (q : Stream) (step l : Nat) (hlen : q.extents.length = q.strides.length) : q.addr step l = streamAddr q step l := by
  have hzip : ((stepIndex q.extents step).zip q.strides).map (fun p => (p.1 : Int) * p.2) =
      (List.range q.strides.length).map (fun k => (dimIndex q.extents step k : Int) * q.strides.getD k 0) := by
    apply List.ext_getElem
    · simp [stepIndex_length, hlen]
    · intro k h1 h2
      have hk : k < q.strides.length := by simpa using h2
      have hix : k < (stepIndex q.extents step).length := by rw [stepIndex_length]; omega
      have hdim := stepIndex_getD q.extents step k (by omega)
      rw [List.getD_eq_getElem _ _ hix] at hdim
      simp [hdim, List.getElem?_eq_getElem hk]
  have hsum (l : List (Nat × Int)) : l.foldl (fun a p => a + (p.1 : Int) * p.2) 0 = (l.map (fun p => (p.1 : Int) * p.2)).sum := by
    rw [List.sum_eq_foldl, List.foldl_map]
  rw [Stream.addr, streamAddr, ← hzip, ← hsum]

theorem steps_eq (q : Stream) : q.steps = q.extents.prod := by rw [Stream.steps, List.prod_eq_foldl]

/-! ### The predicates of a QPOP -/

/-- Whether the step that a QPOP takes is the last one in dimensions 0 to `k` (06 R132). -/
def Stream.endsTo (q : Stream) (k : Nat) : Bool :=
  (List.range (k + 1)).all (fun j => (stepIndex q.extents q.next).getD j 0 + 1 == q.extents.getD j 0)

theorem setPreds_eq (q : Stream) (ln : Lane) : q.setPreds ln = if q.pred == 7 then ln
    else ((List.range q.nd).map (fun k => (q.pred + k, q.endsTo k))).foldl (fun ln x => ln.setPred x.1 x.2) ln := by
  rw [List.foldl_map]
  rfl

theorem setPreds_rest (q : Stream) (ln : Lane) : { q.setPreds ln with p := ln.p } = ln := by
  rw [setPreds_eq]
  split
  · rfl
  · exact foldl_setPred_rest _ ln

theorem endsTo_eq (q : Stream) (k : Nat) (hk : k < q.extents.length) :
    q.endsTo k = decide (∀ i ≤ k, dimIndex q.extents q.next i + 1 = q.extents.getD i 0) := by
  rw [Bool.eq_iff_iff]
  simp only [Stream.endsTo, List.all_eq_true, List.mem_range, beq_iff_eq, decide_eq_true_eq, Nat.lt_succ_iff]
  refine forall_congr' fun i => imp_congr_right fun hi => ?_
  rw [stepIndex_getD _ _ _ (by omega)]

/-- 06 R132: predicate PRED + k says that the pattern ends in dimensions 0 to k. -/
theorem setPreds_pred (q : Stream) (ln : Lane) (j : Nat) (hj : j < 7) (hdims : q.extents.length = q.nd) :
    (q.setPreds ln).pred j = if q.pred ≠ 7 ∧ q.pred ≤ j ∧ j < q.pred + q.nd then
      decide (∀ i ≤ j - q.pred, dimIndex q.extents q.next i + 1 = q.extents.getD i 0) else ln.pred j := by
  rw [setPreds_eq]
  by_cases h7 : q.pred = 7
  · simp [h7]
  · rw [if_neg (by simpa using h7), foldl_setPred_pred, lastPred_range]
    by_cases hin : q.pred ≤ j ∧ j < q.pred + q.nd
    · rw [if_pos ⟨hj, hin⟩, if_pos ⟨h7, hin⟩, Option.getD_some, endsTo_eq q _ (by omega)]
    · rw [if_neg fun h => hin h.2, if_neg fun h => hin h.2, Option.getD_none]

/-! ### The stream after a QPOP -/

/-- The stream one step on (06 R131). -/
def Stream.advance (q : Stream) : Stream :=
  { q with
    next := q.next + 1, fetched := max q.fetched (q.next + 1), queue := q.queue.drop 1, stopped := q.stopped && !q.queue.isEmpty,
    paid := if q.queue.isEmpty then [] else q.paid }

/-- The wave after a QPOP from stream `k`, where its lanes still stand. -/
def Wave.pop (w : Wave) (k : Nat) : Wave := ({ w with lanes := w.lanes.map (w.stream k).setPreds } : Wave).updStream k Stream.advance

theorem popStream_eq (s : State) (k : Nat) : s.popStream k = s.updCur (fun w => w.pop k) := rfl

theorem listSet_eq_set {α : Type} {l : List α} {k : Nat} {a : α} (f : α → α) (ha : l[k]? = some a) : listSet l k f = l.set k (f a) := by
  rw [← listSet_const]
  exact listSet_congr_at _ _ _ _ fun x hx => congrArg f (Option.some.inj (hx.symm.trans ha))

theorem Wave.pop_streams {w : Wave} {k : Nat} {q : Stream} (hq : w.streams[k]? = some q) : (w.pop k).streams = w.streams.set k q.advance :=
  listSet_eq_set Stream.advance hq

theorem Wave.lane_pop {w : Wave} {k l : Nat} (hl : l < w.lanes.length) : (w.pop k).lane l = (w.stream k).setPreds (w.lane l) := by
  show (w.lanes.map (w.stream k).setPreds).getD l Lane.reset = (w.stream k).setPreds (w.lanes.getD l Lane.reset)
  simp [List.getD_eq_getElem?_getD, hl]

/-- What a wave owes is not changed by a QPOP, so the miss-status entries in use are the same (06 R121). -/
theorem mshrFree_popStream {s : State} {w : Wave} (hw : Issuing s w) (k : Nat) (accs : List Acc) : (s.popStream k).mshrFree accs = s.mshrFree accs := by
  have hcore : (s.popStream k).curWave.core = s.curWave.core := by
    rw [popStream_eq, State.curWave_updCur s _ w hw, State.curWave_eq s w hw]
    rfl
  have hwaves (f : Wave → List Nat) (hf : ∀ x : Wave, f (x.pop k) = f x) :
      (s.popStream k).teams.flatMap (fun t => t.waves.flatMap f) = s.teams.flatMap (fun t => t.waves.flatMap f) := by
    rw [popStream_eq, State.updCur, State.updWave, State.updTeam, List.flatMap_map]
    refine List.flatMap_congr fun t _ => ?_
    split
    · rw [Team.updWave, List.flatMap_def, List.flatMap_def, listSet_map_keeps _ _ _ _ hf]
    · rfl
  have hfly (c : Nat) : (s.popStream k).inFlight c = s.inFlight c := congrArg dedup (hwaves _ fun _ => rfl)
  simp only [State.mshrFree, State.sectorsFree, hcore, hfly]
  rfl

end Sys2Proof.Machine

namespace Sys2Proof.Safety
open Sys2Proof.Machine

/-- A QPOP from stream `k`, which is `q`, has left the wave `w'` with the result `o` outstanding (06 R131, R132). -/
structure Popped (s : State) (h : Hdr) (w : Wave) (k : Nat) (q : Stream) (w' : Wave) (o : Out) : Prop where
  count : w'.lanes.length = w.lanes.length
  lane : ∀ l < w.lanes.length, { w'.lane l with p := (w.lane l).p } = onwards s h w l
  preds : ∀ l < w.lanes.length, (w'.lane l).p = (q.setPreds (w.lane l)).p
  wave : { w' with lanes := w.lanes, runEnd := w.runEnd, prog := w.prog, xl := w.xl, outs := w.outs, streams := w.streams } = w
  outs : w'.outs = w.outs ++ [o]
  streams : w'.streams = w.streams.set k q.advance
  run : w'.runEnd = (w.runEnd || h.sw)
  prog : w'.prog = none

/-- The stream advances, the result is outstanding, and the lanes move on. -/
theorem popped_of_pop {s t : State} {h : Hdr} {w : Wave} {k : Nat} {q : Stream} (hwt : Issuing t w) (hcur : t.cur = s.cur) (hq : w.streams[k]? = some q) (o : Out) :
    ∃ w', (((t.popStream k).addOut o).finish h).wave? t.curRef = some w' ∧ Popped s h w k q w' { o with id := t.uid } := by
  let x : Wave := { w.pop k with outs := (w.pop k).outs ++ [{ o with id := t.uid }] }
  have hpop : (t.popStream k).wave? t.curRef = some (w.pop k) := t.wave?_updCur _ w hwt
  obtain ⟨hhere, -⟩ := wave?_addOut (t.popStream k) o hpop
  have hx : ((t.popStream k).addOut o).wave? t.curRef = some x := hhere
  have hcount : x.lanes.length = w.lanes.length := List.length_map _
  have hlane (l : Nat) (hl : l < w.lanes.length) : x.lane l = q.setPreds (w.lane l) := by
    show (w.pop k).lane l = _
    rw [Wave.lane_pop hl, Wave.stream_eq hq]
  have hgoto (l : Nat) (hl : l < w.lanes.length) : (x.goto t.cur.mask (t.nextPc h)).lane l =
      if s.cur.mask.getLsbD l = true then { q.setPreds (w.lane l) with pc := after s h, wait := .none } else q.setPreds (w.lane l) := by
    rw [Wave.lane_goto, hcount, hlane l hl, nextPc_eq, after, after, hcur]
    simp [hl]
  refine ⟨{ x.goto t.cur.mask (t.nextPc h) with runEnd := x.runEnd || h.sw, prog := none, xl := [] },
    ((t.popStream k).addOut o).wave?_finish h x hx, ?_, ?_, ?_, rfl, rfl, Wave.pop_streams hq, rfl, rfl⟩
  · exact (Wave.updLanes_length _ _ _).trans hcount
  · intro l hl
    have hrest := setPreds_rest q (w.lane l)
    show { (x.goto t.cur.mask (t.nextPc h)).lane l with p := (w.lane l).p } = _
    rw [hgoto l hl, onwards]
    split
    · exact congrArg (fun ln : Lane => { ln with pc := after s h, wait := .none }) hrest
    · exact hrest
  · intro l hl
    show ((x.goto t.cur.mask (t.nextPc h)).lane l).p = _
    rw [hgoto l hl]
    split <;> rfl

section
variable {h : Hdr} {f : MFields} {s : State} {w : Wave} {q : Stream} (hw : Issuing s w) (hsome : Someone s h w) (hq : w.streams[f.off.toNat % 8]? = some q)
include hw hsome hq

/-- The checks of QPOP: of two that fail, the lower code is reported (05 R111). -/
theorem qpop_wrongSize (hbound : q.bound = true) (hsize : 2 ^ f.size.toNat ≠ 4 * 2 ^ q.esize) :
    Traps (.qpop h f) h s (takes s h w) (causeAt 7 1 0#64) := by
  have hpart : (s.part h == 0) = false := by simpa using part_ne_zero hw hsome
  rw [← copyTrap_eq]
  refine traps_part hw ?_
  show execQpop h f s = _
  rw [execQpop]
  simp only [State.curWave_eq s w hw, Wave.stream_eq hq, hpart, Bool.false_eq_true, if_false]
  rw [if_pos (by simpa [hbound, Stream.bytes, sizeBytes] using hsize)]

theorem qpop_closed (hclosed : ¬ (q.bound = true ∧ q.next < q.extents.prod)) (hsize : q.bound = true → 2 ^ f.size.toNat = 4 * 2 ^ q.esize) :
    Traps (.qpop h f) h s (takes s h w) (causeAt 7 10 0#64) := by
  have hpart : (s.part h == 0) = false := by simpa using part_ne_zero hw hsome
  rw [← copyTrap_eq]
  refine traps_part hw ?_
  show execQpop h f s = _
  rw [execQpop]
  simp only [State.curWave_eq s w hw, Wave.stream_eq hq, hpart, Bool.false_eq_true, if_false, steps_eq]
  rw [if_neg (by simpa [Stream.bytes, sizeBytes] using hsize), if_pos]
  cases hb : q.bound with
  | false => rfl
  | true => simpa [hb] using hclosed

/-- A QPOP that passes its checks and finds its step fetched. -/
theorem qpop_queued (hopen : q.bound = true ∧ q.next < q.extents.prod) (hsize : 2 ^ f.size.toNat = 4 * 2 ^ q.esize) {data : StepData} {rest : List StepData}
    (hqueue : q.queue = data :: rest) :
    exec (.qpop h f) s = .next ((((s.record ((lanesOf (s.part h)).map (fun l => ((data.getD l (0, 0)).1, sizeBytes f)))).popStream (f.off.toNat % 8)).addOut
      (Out.ofWrites s.cur.pc ((lanesOf (s.part h)).flatMap (fun l => (List.range (regsOf (sizeBytes f))).map (fun i =>
        { scalar := false, lane := l, reg := f.d.toNat + i, val := BitVec.ofNat 32 ((data.getD l (0, 0)).2 / 2 ^ (32 * i)) }))) 0)).finish h) := by
  have hpart : (s.part h == 0) = false := by simpa using part_ne_zero hw hsome
  obtain ⟨hbound, hnext⟩ := hopen
  have hcur : (s.record ((lanesOf (s.part h)).map (fun l => ((data.getD l (0, 0)).1, sizeBytes f)))).cur = s.cur := (beside_record s _).cur
  show execQpop h f s = _
  rw [execQpop]
  simp only [State.curWave_eq s w hw, Wave.stream_eq hq, hpart, Bool.false_eq_true, if_false, steps_eq]
  rw [if_neg (by simp [Stream.bytes, sizeBytes, hsize]), if_neg (by simpa [hbound] using hnext)]
  simp only [hqueue]
  rw [popStream_eq, hcur]

/-- A QPOP that passes its checks and finds its queue empty reads its step as a load. -/
theorem qpop_loads (hopen : q.bound = true ∧ q.next < q.extents.prod) (hsize : 2 ^ f.size.toNat = 4 * 2 ^ q.esize) (hqueue : q.queue = [])
    (hdims : q.extents.length = q.strides.length) {lanes : List Nat} (hlanes : lanesOf (s.part h) = lanes) {x : Nat → Xlat}
    (ht : Translated s w lanes (streamAddr q q.next) 0 x)
    (hread : ∀ l ∈ lanes, (x l).perms.getLsbD 0 = true ∧ (x l).mtype ≠ .io)
    (hsound : ∀ l ∈ lanes, Sound s w.core (x l).pa (sizeBytes f))
    (hfree : s.mshrFree (lanes.map (fun l =>
      accAt { f with scope := 0, ord := 0, ch := 0 } .load 0 (sizeBytes f) 0 l (streamAddr q q.next l) (x l))) = true) :
    ∃ t, Beside s t ∧ exec (.qpop h f) s = .next (((t.popStream (f.off.toNat % 8)).addOut (Out.ofAccs s.cur.pc true (.load f.d.toNat false false)
      (lanes.map (fun l =>
        accAt { f with scope := 0, ord := 0, ch := 0 } .load 0 (sizeBytes f) 0 l (streamAddr q q.next l) (x l))))).finish h) := by
  have hpart : (s.part h == 0) = false := by simpa using part_ne_zero hw hsome
  obtain ⟨hbound, hnext⟩ := hopen
  have hpass := ht.passed (i := .qpop h f) (h := h) (part := s.part h) (kind := 0) (need := Need.read) (typeOk := fun t => t != .io) (mk := mkTrapA .protect)
    fun l hl => by
      obtain ⟨hperm, htype⟩ := hread l hl
      simp [Need.fails, Need.read, hperm, htype]
  generalize hu : lanes.foldl (fun t l => t.refill w.core s.curAsn (streamAddr q q.next l).toNat) s = u at hpass
  have hb : Beside s u := hu ▸ beside_foldl _ _ (fun u l => beside_refill u _ _ _) s
  have hbad : (lanes.map x).findSome? (fun y => u.badWord u.curWave.core (y.mtype == .cached) y.pa (sizeBytes f)) = none := by
    refine List.findSome?_eq_none_iff.mpr fun y hy => ?_
    obtain ⟨l, hl, rfl⟩ := List.mem_map.mp hy
    rw [hb.curWave, State.curWave_eq s w hw]
    exact badWord_none hb _ (hsound l hl)
  have hreqs : (lanesOf (s.part h)).map (fun l => ({ lane := l, va := q.addr q.next l } : Req)) = reqsAt lanes (streamAddr q q.next) := by
    simp only [reqsAt, hlanes, addr_eq_streamAddr q q.next _ hdims]
  have hzip : ((reqsAt lanes (streamAddr q q.next)).zip (lanes.map x)).map (fun p =>
      ({ lane := p.1.lane, va := p.1.va.toNat, x := p.2 } : GAccess)) = accessesAt lanes (streamAddr q q.next) x := by
    simp [reqsAt, accessesAt, List.zip_map', Function.comp_def]
  have haccs : (accessesAt lanes (streamAddr q q.next) x).map (fun g => g.acc { f with scope := 0, ord := 0, ch := 0 } .load (sizeBytes f) 0) =
      lanes.map (fun l => accAt { f with scope := 0, ord := 0, ch := 0 } .load 0 (sizeBytes f) 0 l (streamAddr q q.next l) (x l)) := by
    rw [accessesAt, List.map_map]
    rfl
  have hbt : Beside s (u.recordAccs (accessesAt lanes (streamAddr q q.next) x) (sizeBytes f)) := hb.trans (beside_record u _)
  generalize ht' : u.recordAccs (accessesAt lanes (streamAddr q q.next) x) (sizeBytes f) = t at hbt
  have hwt : Issuing t w := (hbt.wave? _).trans (hbt.curRef ▸ hw)
  refine ⟨t, hbt, ?_⟩
  show execQpop h f s = _
  rw [execQpop]
  simp only [State.curWave_eq s w hw, Wave.stream_eq hq, hpart, Bool.false_eq_true, if_false, steps_eq]
  rw [if_neg (by simp [Stream.bytes, sizeBytes, hsize]), if_neg (by simpa [hbound] using hnext)]
  simp only [hreqs, hpass, hbad, hzip, haccs, (hb.mshrFree _).trans hfree, if_true, ht']
  rw [hqueue, State.issueAccs, if_pos ((mshrFree_popStream hwt _ _).trans ((hbt.mshrFree _).trans hfree)), popStream_eq,
    show (t.updCur fun w => w.pop (f.off.toNat % 8)).cur = s.cur from hbt.cur]

end


/-- A result that a QPOP leaves, in the words of the statement. -/
theorem Popped.spec {s : State} {h : Hdr} {w w' : Wave} {k : Nat} {q : Stream} {o : Out} (hp : Popped s h w k q w' o) (hdims : q.extents.length = q.nd) :
    w'.lanes.length = w.lanes.length ∧
      (∀ l < w.lanes.length, { w'.lane l with p := (w.lane l).p } = onwards s h w l ∧
        ∀ j < 7, (w'.lane l).pred j = if q.pred ≠ 7 ∧ q.pred ≤ j ∧ j < q.pred + q.nd then
          decide (∀ i ≤ j - q.pred, dimIndex q.extents q.next i + 1 = q.extents.getD i 0) else (w.lane l).pred j) ∧
      { w' with lanes := w.lanes, runEnd := w.runEnd, prog := w.prog, xl := w.xl, outs := w.outs, streams := w.streams } = w ∧
      w'.outs = w.outs ++ [o] ∧ w'.streams = w.streams.set k q.advance ∧ w'.runEnd = (w.runEnd || h.sw) ∧ w'.prog = none := by
  refine ⟨hp.count, fun l hl => ⟨hp.lane l hl, fun j hj => ?_⟩, hp.wave, hp.outs, hp.streams, hp.run, hp.prog⟩
  rw [← setPreds_pred q (w.lane l) j hj hdims, Lane.pred, hp.preds l hl, Lane.pred]

theorem record_teams (s : State) (ps : List (Nat × Nat)) : { s.record ps with teams := s.teams } = s := by
  unfold State.record State.recordFor
  split
  · rfl
  · dsimp only
    split <;> rfl

/-- 06 R131, R132: QPOP. -/
theorem qpop_spec (h : Hdr) (f : MFields) (s : State) (w : Wave) (q : Stream) (hw : Issuing s w) (hsome : Someone s h w)
    (hq : w.streams[f.off.toNat % 8]? = some q) (hdims : q.extents.length = q.nd) (hstrides : q.strides.length = q.nd)
    (hopen : q.bound = true ∧ q.next < q.extents.prod) (hsize : 2 ^ f.size.toNat = 4 * 2 ^ q.esize) :
    (∀ data rest, q.queue = data :: rest → ∃ (t : State) (w' : Wave) (o : Out), exec (.qpop h f) s = .next t ∧ t.wave? s.curRef = some w' ∧
      Popped s h w (f.off.toNat % 8) q w' o ∧ o.vlr = true ∧ o.ready = true ∧ o.fin = .regs ∧ o.accs = [] ∧
      Delivers o.writes s h w (fun l => block f.d.toNat (regsOf (sizeBytes f)) ((data.getD l (0, 0)).2)) ∧ { t with teams := s.teams, uid := s.uid } = s) ∧
    ∀ x : Nat → Xlat, q.queue = [] → Translated s w (lanesThat (takes s h w)) (streamAddr q q.next) 0 x →
      (∀ l ∈ lanesThat (takes s h w), (x l).perms.getLsbD 0 = true ∧ (x l).mtype ≠ .io) →
      (∀ l ∈ lanesThat (takes s h w), Sound s w.core (x l).pa (sizeBytes f)) →
      ∀ accs, accs = (lanesThat (takes s h w)).map (fun l =>
        accAt { f with scope := 0, ord := 0, ch := 0 } .load 0 (sizeBytes f) 0 l (streamAddr q q.next l) (x l)) → s.mshrFree accs = true →
      ∃ (t : State) (w' : Wave), exec (.qpop h f) s = .next t ∧ t.wave? s.curRef = some w' ∧
        Popped s h w (f.off.toNat % 8) q w' (outOf s true (.load f.d.toNat false false) [] accs) ∧ t.mem = s.mem := by
  have hissuing {t : State} (hb : Beside s t) : Issuing t w := (hb.wave? _).trans (hb.curRef ▸ hw)
  refine ⟨fun data rest hqueue => ?_, fun x hqueue ht hread hsound accs haccs hfree => ?_⟩
  · have hb := beside_record s ((lanesOf (s.part h)).map (fun l => ((data.getD l (0, 0)).1, sizeBytes f)))
    have hrest := record_teams s ((lanesOf (s.part h)).map (fun l => ((data.getD l (0, 0)).1, sizeBytes f)))
    have hexec := qpop_queued hw hsome hq hopen hsize hqueue
    generalize s.record ((lanesOf (s.part h)).map (fun l => ((data.getD l (0, 0)).1, sizeBytes f))) = t at hb hrest hexec
    obtain ⟨w', hhere, hpopped⟩ := popped_of_pop (h := h) (hissuing hb) hb.cur hq (Out.ofWrites s.cur.pc ((lanesOf (s.part h)).flatMap (fun l =>
      (List.range (regsOf (sizeBytes f))).map (fun i =>
        { scalar := false, lane := l, reg := f.d.toNat + i, val := BitVec.ofNat 32 ((data.getD l (0, 0)).2 / 2 ^ (32 * i)) }))) 0)
    exact ⟨_, w', _, hexec, hb.curRef ▸ hhere, hpopped, rfl, rfl, rfl, rfl, blockWrites_deliver hw _ _ _,
      congrArg (fun x : State => { x with uid := s.uid }) hrest⟩
  · subst haccs
    obtain ⟨t, hb, hexec⟩ := qpop_loads hw hsome hq hopen hsize hqueue (hdims.trans hstrides.symm) (lanesOf_part hw) ht hread hsound hfree
    obtain ⟨w', hhere, hpopped⟩ := popped_of_pop (h := h) (hissuing hb) hb.cur hq (Out.ofAccs s.cur.pc true (.load f.d.toNat false false)
      ((lanesThat (takes s h w)).map (fun l => accAt { f with scope := 0, ord := 0, ch := 0 } .load 0 (sizeBytes f) 0 l (streamAddr q q.next l) (x l))))
    rw [hb.uid] at hpopped
    exact ⟨_, w', hexec, hb.curRef ▸ hhere, hpopped, (congrArg State.mem hb.rest :)⟩

end Sys2Proof.Safety

namespace Sys2Proof.Machine
open Sys2Proof.Safety

/-! ### The stream engine -/

/-- An update that leaves a core as it is leaves the state. -/
theorem updCore_self {s : State} {c : Nat} {f : Core → Core} (hf : f (s.core c) = s.core c) : s.updCore c f = s := by
  have hcores : listSet s.cores c f = s.cores := by
    apply List.ext_getElem?
    intro j
    rw [listSet_getElem?]
    split
    · next hj =>
      subst hj
      cases hx : s.cores[j]? with
      | none => rfl
      | some x =>
        have hcore : s.core j = x := by rw [State.core, List.getD_eq_getElem?_getD, hx, Option.getD_some]
        rw [Option.map_some, ← hcore, hf]
    · rfl
  rw [State.updCore, hcores]

theorem budget_of_unmetered {s : State} {c : Nat} (hfree : Unmetered s c) (a : Nat) : (s.core c).budget a = 0 := by
  obtain ⟨hsb, hfm⟩ := hfree
  rw [Core.budget, hsb, hfm, ite_self]

/-- 19 R398: a core without budgets is charged nothing. -/
theorem meterCharge_unmetered {s : State} {c : Nat} (hfree : Unmetered s c) (pa n : Nat) : s.meterCharge c pa n = s := by
  unfold State.meterCharge
  induction s.arbiters pa with
  | nil => rfl
  | cons a l ih =>
    rw [List.foldl_cons, updCore_self]
    · exact ih
    · rw [if_pos (by simp [budget_of_unmetered hfree])]

theorem meterOk_unmetered {s : State} {c : Nat} (hfree : Unmetered s c) (pa : Nat) : s.meterOk c pa = true := by
  simp [State.meterOk, budget_of_unmetered hfree]

/-- All its requests stand granted. -/
theorem grant_unmetered {s : State} {c : Nat} (hfree : Unmetered s c) (reqs paid : List Request) :
    (s.grant c paid reqs).2 = s ∧ (∀ x ∈ paid, x ∈ (s.grant c paid reqs).1) ∧ ∀ x ∈ reqs, x ∈ (s.grant c paid reqs).1 := by
  induction reqs generalizing paid with
  | nil => exact ⟨rfl, fun _ hx => hx, fun _ hx => absurd hx List.not_mem_nil⟩
  | cons r reqs ih =>
    rw [State.grant, meterOk_unmetered hfree, meterCharge_unmetered hfree, if_pos rfl]
    split
    · next hpaid =>
      obtain ⟨hstate, hold, hnew⟩ := ih paid
      exact ⟨hstate, hold, List.forall_mem_cons.mpr ⟨hold r (by simpa using hpaid), hnew⟩⟩
    · obtain ⟨hstate, hold, hnew⟩ := ih (paid ++ [r])
      exact ⟨hstate, fun x hx => hold x (List.mem_append_left _ hx), List.forall_mem_cons.mpr ⟨hold r (by simp), hnew⟩⟩

/-- An address that a first-level TLB holds costs no walk and fills no TLB (04 R82). -/
theorem unitXlate_hit {s : State} {e : Engine} {c va : Nat} {asn : BitVec 12} {x : Xlat} (hlook : s.look [] c asn va = .hit x)
    (hheld : (s.core c).tlb.find? (fun e => e.covers asn va) ≠ none) : s.unitXlate e [] c asn va = (.hit x, s) := by
  have hany : (s.core c).tlb.any (fun e => e.covers asn va) = true := by
    rw [List.any_eq_true]
    simpa [List.find?_eq_none] using hheld
  simp only [State.unitXlate, hlook, State.refill, hany, if_true]

/-- The translation of every lane's element is at hand. -/
structure StepKnown (s : State) (q : Stream) (c : Nat) (asn : BitVec 12) (x : Nat → Xlat) (l : Nat) : Prop where
  canon : vaOk (q.addr q.fetched l) = true
  held : (s.core c).tlb.find? (fun e => e.covers asn (q.addr q.fetched l).toNat) ≠ none
  look : s.look [] c asn (q.addr q.fetched l).toNat = .hit (x l)

/-- The element of a lane may be read at its home, at once. -/
structure StepReadable (s : State) (q : Stream) (c : Nat) (y : Xlat) : Prop where
  perm : y.perms.getLsbD 0 = true
  home : y.mtype = .homeonly ∨ y.mtype = .host
  sound : Sound s c y.pa q.bytes

section
variable {s : State} {r : WaveRef} {qn c n : Nat} {q : Stream} {asn : BitVec 12} {x : Nat → Xlat}

/-- A step whose elements may all be read. -/
theorem stepXlate_at (hlock : s.hostLocked = false) (hknown : ∀ l < n, StepKnown s q c asn x l) (hread : ∀ l < n, StepReadable s q c (x l)) :
    s.stepXlate r qn q c n asn = (.at ((List.range n).map x), s) := by
  induction n with
  | zero => rfl
  | succ n ih =>
    obtain ⟨hcanon, hheld, hlook⟩ := hknown n (Nat.lt_succ_self n)
    obtain ⟨hperm, hhome, hsound⟩ := hread n (Nat.lt_succ_self n)
    have hprev := ih (fun l hl => hknown l (Nat.lt_succ_of_lt hl)) (fun l hl => hread l (Nat.lt_succ_of_lt hl))
    have hio : (x n).mtype ≠ .io := by rcases hhome with h | h <;> simp [h]
    simp only [State.stepXlate] at hprev ⊢
    rw [List.range_succ, List.foldl_append, hprev]
    simp [hcanon, unitXlate_hit hlook hheld, hperm, hio, badWord_none (.refl s) _ hsound, hlock]

/-- Fetching stops at the first element that may not be read (06 R131). -/
theorem stepXlate_stop (hlock : s.hostLocked = false) (hknown : ∀ l < n, StepKnown s q c asn x l) {l : Nat} (hl : l < n)
    (hbad : (x l).perms.getLsbD 0 = false ∨ (x l).mtype = .io) (hread : ∀ k < l, StepReadable s q c (x k)) :
    s.stepXlate r qn q c n asn = (.stop, s) := by
  induction n with
  | zero => omega
  | succ n ih =>
    rcases Nat.lt_succ_iff_lt_or_eq.mp hl with hlt | rfl
    · have hprev := ih (fun k hk => hknown k (Nat.lt_succ_of_lt hk)) hlt
      simp only [State.stepXlate] at hprev ⊢
      rw [List.range_succ, List.foldl_append, hprev]
      rfl
    · obtain ⟨hcanon, hheld, hlook⟩ := hknown l (Nat.lt_succ_self l)
      have hprev := stepXlate_at (r := r) (qn := qn) hlock (fun k hk => hknown k (Nat.lt_succ_of_lt hk)) hread
      simp only [State.stepXlate] at hprev ⊢
      rw [List.range_succ, List.foldl_append, hprev]
      have hstop : (!(x l).perms.getLsbD 0 || (x l).mtype == .io) = true := by
        rcases hbad with h | h
        · rw [h, Bool.not_false, Bool.true_or]
        · rw [h, beq_self_eq_true, Bool.or_true]
      simp only [List.foldl_cons, List.foldl_nil, hcanon, Bool.not_true, Bool.false_eq_true, if_false, unitXlate_hit hlook hheld, hstop,
        Bool.true_or, if_true]

/-- Elements on pages that are not CACHED are read at their homes (13 R276). -/
theorem stepLoad_home (s : State) (c n : Nat) (xs : List Xlat) (hhome : ∀ y ∈ xs, y.mtype ≠ .cached) :
    s.stepLoad c n xs = (xs.map (fun y => (y.pa, s.homeRead y.pa n)), s) := by
  have hfold (d : StepData) : xs.foldl (fun (acc : StepData × State) y =>
      if y.mtype == .cached then
        let z := acc.2.cacheLoad c y.pa n 0
        (acc.1 ++ [(y.pa, z.1.1)], z.2)
      else (acc.1 ++ [(y.pa, acc.2.homeRead y.pa n)], acc.2)) (d, s) = (d ++ xs.map (fun y => (y.pa, s.homeRead y.pa n)), s) := by
    induction xs generalizing d with
    | nil => simp
    | cons y xs ih =>
      obtain ⟨hy, hrest⟩ := List.forall_mem_cons.mp hhome
      rw [List.foldl_cons, if_neg (by simpa using hy), ih hrest]
      simp
  exact hfold []

end

end Sys2Proof.Machine

namespace Sys2Proof.Safety
open Sys2Proof.Machine

/-- The stream whose turn it is: bound, with room and steps to fetch, on a wave that runs (06 R131). -/
structure Fetching (s : State) (r : WaveRef) (n : BitVec 3) (tm : Team) (w : Wave) (q : Stream) : Prop where
  team : s.team? r.team = some tm
  wave : s.wave? r = some w
  stream : w.streams[n.toNat]? = some q
  bound : q.bound = true
  going : q.stopped = false
  room : q.queue.length < 16
  steps : q.fetched < q.extents.prod
  runs : w.ended = false ∧ w.stop = false

/-- STREAM_FETCH has changed the stream to `q'` and nothing else of the waves and memory. -/
def Fetched (s : State) (r : WaveRef) (n : BitVec 3) (w : Wave) (q' : Stream) : Prop :=
  ∃ (t : State) (w' : Wave), exec (.streamFetch r n) s = .next t ∧ t.wave? r = some w' ∧
    w' = { w with streams := w.streams.set n.toNat q' } ∧ t.mem = s.mem ∧ ∀ p, p ≠ r → t.wave? p = s.wave? p

section
variable {s : State} {r : WaveRef} {n : BitVec 3} {tm : Team} {w : Wave} {q : Stream} (hf : Fetching s r n tm w q)
include hf

theorem Fetching.fetched (g : Stream → Stream) (hexec : exec (.streamFetch r n) s = .next (s.updWave r (fun w => w.updStream n.toNat g))) :
    Fetched s r n w (g q) := by
  refine ⟨_, { w with streams := w.streams.set n.toNat (g q) }, hexec, ?_, rfl, rfl, fun p hp => State.wave?_updWave_ne s r p _ hp⟩
  rw [State.wave?_updWave, hf.wave, Option.map_some, Wave.updStream, listSet_eq_set g hf.stream]

theorem Fetching.goes : (!q.bound || q.stopped || decide (q.queue.length ≥ 16) || decide (q.fetched ≥ q.steps) || w.ended || w.stop) = false := by
  obtain ⟨hended, hstop⟩ := hf.runs
  simp [hf.bound, hf.going, hf.room, hf.steps, steps_eq, hended, hstop]

/-- Fetching stops at a step that may not be read. -/
theorem Fetching.stops (hgo : s.stepXlate r n.toNat q w.core tm.width (BitVec.ofNat 12 (s.block tm.launch).asn) = (.stop, s)) :
    Fetched s r n w { q with stopped := true } := by
  refine hf.fetched (fun q => { q with stopped := true }) ?_
  show execStreamFetch r n s = _
  simp only [execStreamFetch, hf.team, hf.wave, Wave.stream_eq hf.stream, hf.goes, hgo, Bool.false_eq_true, if_false]

/-- A step of elements on HOMEONLY and HOST pages is fetched. -/
theorem Fetching.fetches {xs : List Xlat} (hfree : Unmetered s w.core)
    (hgo : s.stepXlate r n.toNat q w.core tm.width (BitVec.ofNat 12 (s.block tm.launch).asn) = (.at xs, s)) (hhome : ∀ y ∈ xs, y.mtype ≠ .cached) :
    Fetched s r n w { q with
      queue := q.queue ++ [xs.map (fun y => (y.pa, littleEndian (cellGet s.mem) y.pa q.bytes))], fetched := q.fetched + 1, paid := [] } := by
  have hnear : xs.filter (fun y => y.mtype == .cached) = [] := List.filter_eq_nil_iff.mpr fun y hy => by simpa using hhome y hy
  have hclean : s.cleanSome w.core (fun _ => false) = s := by simp [State.cleanSome, Core.dirtyLines]
  have hdirty : s.dirtyIn w.core (fun _ => false) = false := by simp [State.dirtyIn, Core.dirtyLines]
  have hneed : s.sectorsFree w.core [] = true := by simp [State.sectorsFree]
  have hnone : (if (s.core w.core).hasCache then dedup ([] : List Nat) else []) = [] := by split <;> rfl
  obtain ⟨hstate, -, hall⟩ := grant_unmetered hfree (s.stepRequests w.core q.bytes (xs.map (·.pa))) q.paid
  have hgranted : (s.stepRequests w.core q.bytes (xs.map (·.pa))).all (fun y => (s.grant w.core q.paid (s.stepRequests w.core q.bytes (xs.map (·.pa)))).1.elem y) = true :=
    List.all_eq_true.mpr fun y hy => by simpa using hall y hy
  have hhomes : (fun y : Xlat => (y.pa, s.homeRead y.pa q.bytes)) = fun y => (y.pa, littleEndian (cellGet s.mem) y.pa q.bytes) :=
    funext fun y => by rw [State.homeRead, cellRead_eq_littleEndian]
  refine hf.fetched (fun q' => { q' with
    queue := q'.queue ++ [xs.map (fun y => (y.pa, littleEndian (cellGet s.mem) y.pa q.bytes))], fetched := q'.fetched + 1, paid := [] }) ?_
  show execStreamFetch r n s = _
  simp only [execStreamFetch, hf.team, hf.wave, Wave.stream_eq hf.stream, hf.goes, hgo, Bool.false_eq_true, if_false, hnear, List.any_nil, Bool.false_and,
    hclean, hdirty, List.flatMap_nil, hnone, hneed, Bool.not_true, Bool.or_false, hgranted, hstate, stepLoad_home s w.core q.bytes xs hhome, hhomes]

end


theorem mem_lanesThat {s : State} {h : Hdr} {w : Wave} {l : Nat} (hl : l ∈ lanesThat (takes s h w)) : takes s h w l = true := (List.mem_filter.mp hl).2

/-- 06 R130 to R132: QPOP and STREAM_FETCH. -/
theorem streamSteps : Claims.StreamSteps := by
  refine ⟨fun h f s w q hw hsome hstreams hq => ?_, fun r n s tm w q x htm hw hstreams hq hbound hgoing hroom hsteps hlen hended hstop hfree hatomics hlanes => ?_⟩
  · intro n k open' next popped
    refine ⟨fun hclosed hsize => qpop_closed hw hsome hq hclosed hsize, fun hbound hsize => qpop_wrongSize hw hsome hq hbound hsize,
      fun hdims hstrides hopen hsize => ?_⟩
    obtain ⟨hqueued, hloads⟩ := qpop_spec h f s w q hw hsome hq hdims hstrides hopen hsize
    refine ⟨fun data rest hqueue _ => ?_, ?_⟩
    · obtain ⟨t, w', o, hexec, hhere, hpopped, hout⟩ := hqueued data rest hqueue
      exact ⟨t, w', o, hexec, hhere, hpopped.spec hdims, hout⟩
    · intro x hqueue hroom ea hlanes accs hfree
      have hlane (l : Nat) (hl : l ∈ lanesThat (takes s h w)) := hlanes l (mem_lanesThat hl)
      simp only [forall_and] at hlane
      obtain ⟨hlow, hhigh, hcanon, hlook, hperm, htype, hsound⟩ := hlane
      have ht : Translated s w (lanesThat (takes s h w)) (streamAddr q q.next) 0 x :=
        { issuing := hw, room := hroom, aligned := fun _ _ => one_dvd _, canon := fun l hl => (vaOk_iff _).mpr ⟨hlow l hl, hhigh l hl, hcanon l hl⟩,
          known := hlook }
      obtain ⟨t, w', hexec, hhere, hpopped, hmem⟩ := hloads x hqueue ht (fun l hl => ⟨hperm l hl, htype l hl⟩) hsound accs rfl hfree
      exact ⟨t, w', hexec, hhere, hpopped.spec hdims, hmem⟩
  · intro fetch
    have hf : Fetching s r n tm w q := ⟨htm, hw, hq, hbound, hgoing, hroom, hsteps, hended, hstop⟩
    have hlock : s.hostLocked = false := List.any_eq_false.mpr fun a ha => by simp [hatomics a ha]
    have hknown (l : Nat) (hl : l < tm.width) : StepKnown s q w.core (BitVec.ofNat 12 (s.block tm.launch).asn) x l := by
      obtain ⟨hlow, hhigh, hcanon, hheld, hlook⟩ := hlanes l hl
      have haddr := addr_eq_streamAddr q q.fetched l hlen
      exact ⟨(vaOk_iff _).mpr (haddr ▸ ⟨hlow, hhigh, hcanon⟩), haddr ▸ hheld, haddr ▸ hlook⟩
    refine ⟨fun hread => ?_, ?_⟩
    · have hgo := stepXlate_at (r := r) (qn := n.toNat) hlock hknown fun l hl =>
        let ⟨hperm, htype, hsound⟩ := hread l hl
        ⟨hperm, htype, hsound⟩
      have hhome : ∀ y ∈ (List.range tm.width).map x, y.mtype ≠ .cached := by
        intro y hy
        obtain ⟨l, hl, rfl⟩ := List.mem_map.mp hy
        obtain ⟨-, htype | htype, -⟩ := hread l (List.mem_range.mp hl) <;> simp [htype]
      have hfetched := hf.fetches hfree hgo hhome
      rw [List.map_map] at hfetched
      exact hfetched
    · rintro ⟨l, hl, hbad, hread⟩
      exact hf.stops (stepXlate_stop hlock hknown hl hbad fun k hk =>
        let ⟨hperm, htype, hsound⟩ := hread k hk
        ⟨hperm, htype, hsound⟩)

/-- Settles O26: the binding of streams, and their steps (log entry 44). -/
theorem streams : Obligations.Streams := ⟨streamBinding, streamSteps⟩

end Sys2Proof.Safety
end

section
/-! PROOF. O7: an infinity in a narrow format whose SPEC is none of the three of 07 R145. -/

namespace Sys2Proof.Machine

/-- The format e4m3 of 07 R148 with SAT = 1 and SPEC = 4. No descriptor word gives it, since SPEC is bits [17:16] of one (07 R145); but
it is a value of the model's record of fields, and the test for validity refuses no SPEC but 3. -/
def specFour : NfDesc := { rsv := 0, sat := 1, subn := true, spec := 4, bias := 7, s := 1, m := 3, e := 4 }

theorem specFour_valid : specFour.valid = true := by decide

/-- 07 R148, step 3, with SAT = 1: the model writes the NaN code, which is 0 where SPEC gives no NaN. -/
theorem nfEncode_specFour_inf : nfEncode specFour (.inf false) .rn = (0, fNV) := by decide

end Sys2Proof.Machine

namespace Sys2Proof.Safety
open Sys2Proof.Machine

/-- The clause on infinities takes every format with SAT = 1 that is neither SPEC 0 nor SPEC 2 to have a NaN code, which it computes as
0x7C for `specFour`. -/
theorem not_narrowEncoding : ¬ Claims.NarrowEncoding := by
  intro h
  obtain ⟨-, hinf, -⟩ := h specFour .rn specFour_valid (by decide) (by decide) (by decide) (by decide)
  have hcode : nfEncode specFour (.inf false) .rn = (0x7C, fNV) := hinf false
  rw [nfEncode_specFour_inf] at hcode
  exact absurd hcode (by decide)

/-- Refutes O7: the clause of 07 R148 on infinities does not bound SPEC; for a format with SPEC = 4 and SAT = 1 it states a NaN code of
0x7C, and the model, for which that format has no NaN code, answers 0 (`not_narrowEncoding`). -/
theorem not_numberFormats : ¬ Obligations.NumberFormats := by
  unfold Obligations.NumberFormats
  rintro ⟨-, -, -, -, -, hnarrow, -⟩
  exact not_narrowEncoding hnarrow

end Sys2Proof.Safety
end

section
/-! PROOF. What the integer, scalar and cross-lane instructions share: the codes of an integer format (07 R137, 08 R160), and the
sources of Format V as an operation of a width reads them (08 R159). -/

namespace Sys2Proof.Machine

open Sys2Proof.Safety

/-! ### Integers and their codes -/

theorem wrap_lt (w : Nat) (x : Int) : wrap w x < 2 ^ w := by
  rw [wrap_eq]
  exact (BitVec.ofInt w x).isLt

theorem dvd_wrap_sub (w : Nat) (x : Int) : ((2 ^ w : Nat) : Int) ∣ (wrap w x : Int) - x := by
  have hpos : (0 : Int) < ((2 ^ w : Nat) : Int) := by positivity
  rw [wrap, Int.toNat_of_nonneg (Int.emod_nonneg _ hpos.ne')]
  exact Int.dvd_emod_sub_self

theorem toSigned_eq_bmod (w n : Nat) : toSigned w n = (n : Int).bmod (2 ^ w) := by
  have h := toSigned_toNat (BitVec.ofNat w n)
  rw [BitVec.toNat_ofNat, BitVec.toInt_ofNat'] at h
  rw [← h]
  simp only [toSigned, Nat.mod_mod]

theorem IFmt.has_iff (t : IFmt) (x : Int) : t.has x = true ↔ t.lo ≤ x ∧ x ≤ t.hi := by
  simp only [IFmt.has, Bool.and_eq_true, decide_eq_true_eq]

/-- An integer format of `w` bits holds 2^w integers. -/
theorem IFmt.hi_sub_lo (t : IFmt) (ht : 0 < t.w) : t.hi - t.lo = ((2 ^ t.w : Nat) : Int) - 1 := by
  obtain ⟨k, hk⟩ : ∃ k, t.w = k + 1 := ⟨t.w - 1, by omega⟩
  simp only [IFmt.hi, IFmt.lo, hk, Nat.add_sub_cancel, Nat.pow_succ]
  split <;> omega

theorem IFmt.lo_le_zero (t : IFmt) : t.lo ≤ 0 := by
  have := Nat.two_pow_pos (t.w - 1)
  unfold IFmt.lo
  split <;> omega

theorem IFmt.zero_le_hi (t : IFmt) : 0 ≤ t.hi := by
  have h1 := Nat.two_pow_pos (t.w - 1)
  have h2 := Nat.two_pow_pos t.w
  unfold IFmt.hi
  split <;> omega

/-- What a format reads differs from the code by a multiple of 2^w. -/
theorem IFmt.dvd_read_sub (t : IFmt) (n : Nat) : ((2 ^ t.w : Nat) : Int) ∣ t.read n - n := by
  unfold IFmt.read
  split
  · rw [toSigned_eq_bmod]
    exact Int.dvd_bmod_sub_self
  · rw [Int.natCast_mod]
    exact Int.dvd_emod_sub_self

/-- What a format reads is in its range. -/
theorem IFmt.has_read (t : IFmt) (ht : 0 < t.w) (n : Nat) : t.has (t.read n) = true := by
  obtain ⟨k, hk⟩ : ∃ k, t.w = k + 1 := ⟨t.w - 1, by omega⟩
  have hpos := Nat.two_pow_pos k
  rw [IFmt.has_iff]
  simp only [IFmt.lo, IFmt.hi, IFmt.read, toSigned_eq_bmod, hk, Nat.add_sub_cancel]
  split
  · have h1 := Int.le_bmod (x := (n : Int)) (m := 2 ^ (k + 1)) (by omega)
    have h2 := Int.bmod_lt (x := (n : Int)) (m := 2 ^ (k + 1)) (by omega)
    rw [Nat.pow_succ] at *
    omega
  · have := Nat.mod_lt n (Nat.two_pow_pos (k + 1))
    omega

/-- Two integers in the range of a format that agree modulo 2^w are equal. -/
theorem IFmt.eq_of_has {t : IFmt} (ht : 0 < t.w) {x y : Int} (hx : t.has x = true) (hy : t.has y = true)
    (hd : ((2 ^ t.w : Nat) : Int) ∣ x - y) : x = y := by
  have hspan := t.hi_sub_lo ht
  rw [IFmt.has_iff] at hx hy
  have hzero := Int.eq_zero_of_abs_lt_dvd hd (by rw [abs_lt]; omega)
  omega

/-- The code of an integer in range reads as it. -/
theorem IFmt.read_wrap {t : IFmt} (ht : 0 < t.w) {x : Int} (hx : t.has x = true) : t.read (wrap t.w x) = x := by
  refine IFmt.eq_of_has ht (t.has_read ht _) hx ?_
  have := Int.dvd_add (t.dvd_read_sub (wrap t.w x)) (dvd_wrap_sub t.w x)
  rwa [sub_add_sub_cancel] at this

theorem IFmt.has_clamp (t : IFmt) (x : Int) : t.has (t.clamp x) = true := by
  have h0 := t.lo_le_zero
  have h1 := t.zero_le_hi
  rw [IFmt.has_iff, IFmt.clamp]
  split
  · omega
  · split <;> omega

/-- 08 R160: the model's result of an exact integer. -/
theorem intResult_spec {t : IFmt} (ht : 0 < t.w) (sat : Bool) (x : Int) :
    IntResult t sat x (intResult t sat x).1 (intResult t sat x).2 := by
  by_cases hx : t.has x = true
  · have he : intResult t sat x = (wrap t.w x, 0#8) := by rw [intResult, if_pos hx]
    rw [he]
    exact ⟨wrap_lt _ _, fun _ => ⟨IFmt.read_wrap ht hx, rfl⟩, fun hn => absurd hx (by simp [hn]), fun hn => absurd hx (by simp [hn])⟩
  · cases sat
    · have he : intResult t false x = (wrap t.w x, 0#8) := by simp [intResult, hx]
      rw [he]
      exact ⟨wrap_lt _ _, fun h => absurd h hx, fun _ _ => ⟨dvd_wrap_sub _ _, rfl⟩, fun _ h => absurd h (by decide)⟩
    · have he : intResult t true x = (wrap t.w (t.clamp x), fSATD) := by simp [intResult, hx]
      rw [he]
      refine ⟨wrap_lt _ _, fun h => absurd h hx, fun _ h => absurd h (by decide), fun _ _ => ⟨?_, rfl⟩⟩
      rw [IFmt.read_wrap ht (t.has_clamp x), IFmt.clamp]
      rw [IFmt.has_iff] at hx
      split
      · rfl
      · rw [if_pos (by omega)]

/-! ### Types and widths of SUB (03 R57) -/

theorem mem_two_subs {α : Type} {sub : BitVec 2} {x a b : α} (h : (sub, x) ∈ [(0#2, a), (1#2, b)]) :
    (sub = 0#2 ∧ x = a) ∨ (sub = 1#2 ∧ x = b) := by
  simpa only [List.mem_cons, Prod.mk.injEq, List.not_mem_nil, or_false] using h

theorem mem_four_subs {α : Type} {sub : BitVec 2} {x a b c d : α} (h : (sub, x) ∈ [(0#2, a), (1#2, b), (2#2, c), (3#2, d)]) :
    (sub = 0#2 ∧ x = a) ∨ (sub = 1#2 ∧ x = b) ∨ (sub = 2#2 ∧ x = c) ∨ (sub = 3#2 ∧ x = d) := by
  simpa only [List.mem_cons, Prod.mk.injEq, List.not_mem_nil, or_false] using h

theorem width2_of_mem {sub : BitVec 2} {wd : Nat} (h : (sub, wd) ∈ [(0#2, 32), (1#2, 64)]) :
    width2 sub = wd ∧ (wd = 32 ∨ wd = 64) := by
  obtain ⟨rfl, rfl⟩ | ⟨rfl, rfl⟩ := mem_two_subs h
  · exact ⟨rfl, .inl rfl⟩
  · exact ⟨rfl, .inr rfl⟩

theorem intType_of_mem {sub : BitVec 2} {t : IFmt} (h : (sub, t) ∈ [(0#2, i32), (1#2, n32), (2#2, i64), (3#2, n64)]) :
    intType sub = t ∧ (t.w = 32 ∨ t.w = 64) := by
  obtain ⟨rfl, rfl⟩ | ⟨rfl, rfl⟩ | ⟨rfl, rfl⟩ | ⟨rfl, rfl⟩ := mem_four_subs h
  · exact ⟨rfl, .inl rfl⟩
  · exact ⟨rfl, .inl rfl⟩
  · exact ⟨rfl, .inr rfl⟩
  · exact ⟨rfl, .inr rfl⟩

theorem typeRegs_eq {wd : Nat} (hwd : wd = 32 ∨ wd = 64) : typeRegs wd = wd / 32 := by
  obtain rfl | rfl := hwd <;> rfl

theorem srcA_eq_intA (h : Hdr) (f : VFields) (w : Wave) (wd l : Nat) : srcA h f w (w.lane l) (wd / 32) (immFor wd) = intA h f w wd l := by
  simp only [intA, immFor, beq_iff_eq]

theorem srcB_eq_intB (h : Hdr) (f : VFields) (w : Wave) (wd l : Nat) : srcB h f w (w.lane l) (wd / 32) (immFor wd) = intB h f w wd l := by
  simp only [intB, immFor, beq_iff_eq]

theorem srcC_eq_intC (f : VFields) (w : Wave) (wd l : Nat) : srcC f (w.lane l) (wd / 32) = intC f w wd l := rfl

/-! ### Sources are codes of their width -/

theorem Lane.vr_lt (ln : Lane) (r : Nat) : ln.vr r < 2 ^ 32 := (cellGet ln.v r).isLt

theorem Wave.sr_lt (w : Wave) (r : Nat) : w.sr r < 2 ^ 32 := (cellGet w.sregs r).isLt

theorem Lane.vblock_lt (ln : Lane) (r n : Nat) : ln.vblock r n < 2 ^ (32 * n) := by
  induction n generalizing r with
  | zero => exact Nat.one_pos
  | succ n ih =>
    have h1 := ln.vr_lt r
    have h2 := ih (r + 1)
    rw [Lane.vblock, Nat.mul_succ, Nat.pow_add]
    nlinarith

theorem Wave.sblock_lt (w : Wave) (r n : Nat) : w.sblock r n < 2 ^ (32 * n) := by
  induction n generalizing r with
  | zero => exact Nat.one_pos
  | succ n ih =>
    have h1 := w.sr_lt r
    have h2 := ih (r + 1)
    rw [Wave.sblock, Nat.mul_succ, Nat.pow_add]
    nlinarith

/-- A source of an integer operation of a width is below 2^w, whatever its kind. -/
theorem readSrc_lt {wd imm : Nat} (hwd : wd = 32 ∨ wd = 64) (himm : imm < 2 ^ 32) (k : Kind) (idx : BitVec 9) (w : Wave) (ln : Lane) :
    readSrc k idx w ln (wd / 32) (if wd = 64 then .s64 else .plain) imm < 2 ^ wd := by
  have hblock : 32 * (wd / 32) = wd := by omega
  cases k with
  | vec => exact lt_of_lt_of_eq (ln.vblock_lt _ _) (by rw [hblock])
  | sca => exact lt_of_lt_of_eq (w.sblock_lt _ _) (by rw [hblock])
  | zero => exact Nat.two_pow_pos wd
  | imm =>
    obtain rfl | rfl := hwd
    · exact himm
    · exact wrap_lt 64 _

theorem hdrExt_lt (h : Hdr) : hdrExt h < 2 ^ 64 := by
  unfold hdrExt
  split
  · exact BitVec.isLt _
  · decide

theorem intA_lt {wd : Nat} (hwd : wd = 32 ∨ wd = 64) (h : Hdr) (f : VFields) (w : Wave) (l : Nat) : intA h f w wd l < 2 ^ wd :=
  readSrc_lt hwd (Nat.mod_lt _ (by decide)) f.ka f.a w (w.lane l)

theorem intB_lt {wd : Nat} (hwd : wd = 32 ∨ wd = 64) (h : Hdr) (f : VFields) (w : Wave) (l : Nat) : intB h f w wd l < 2 ^ wd :=
  readSrc_lt hwd (by have := hdrExt_lt h; omega) f.kb f.b w (w.lane l)

/-! ### Instructions whose lanes write one block of registers, or one predicate -/

/-- 02 R35: an instruction of fixed latency whose lanes write one block of registers. -/
theorem computes_block {s : State} {h : Hdr} {w : Wave} {i : Instr} {op : Wave → Nat → Lane → LaneOut} {d : BitVec 9} {n : Nat}
    {v : Nat → Nat} {fl : Nat → Flags} (hw : Issuing s w) (hexec : exec i s = .next (s.vecFixed h op))
    (ho : ∀ l, op w l (w.lane l) = outRegs d n (v l) (fl l)) :
    ∃ u w', exec i s = .next u ∧ Computes s h w (fun l => block d.toNat n (v l)) noPred fl u w' :=
  let ⟨w', hc⟩ := vecFixed_block s h w op hw d n v fl ho
  ⟨_, w', hexec, hc⟩

/-- 02 R35: an instruction of fixed latency whose lanes write one predicate. -/
theorem computes_pred {s : State} {h : Hdr} {w : Wave} {i : Instr} {op : Wave → Nat → Lane → LaneOut} {d : Nat}
    {b : Nat → Bool} (hw : Issuing s w) (hexec : exec i s = .next (s.vecFixed h op))
    (ho : ∀ l, op w l (w.lane l) = outPred d (b l)) :
    ∃ u w', exec i s = .next u ∧ Computes s h w noReg (fun l => onePred d (b l)) noFlag u w' :=
  let ⟨w', hc⟩ := vecFixed_pred s h w op hw d b noFlag ho
  ⟨_, w', hexec, hc⟩

end Sys2Proof.Machine
end

section
/-! PROOF. O1: integer sums (08 R160, R161, R163). -/

namespace Sys2Proof.Safety
open Sys2Proof.Machine

/-- 08 R161: every one of the instructions is `intArith` of its exact result. -/
theorem exec_intOps {h : Hdr} {f : VFields} {q : Instr × (Int → Int → Int → Int)} (hq : q ∈ intOps h f) (s : State) :
    exec q.1 s = .next (s.vecFixed h (intArith h f q.2)) := by
  simp only [intOps, List.mem_cons, List.not_mem_nil, or_false] at hq
  obtain rfl | rfl | rfl | rfl | rfl | rfl | rfl := hq <;> rfl

/-- What `intArith` gives a lane, in the words of the statement. -/
theorem intArith_lane {h : Hdr} {f : VFields} {t : IFmt} (htype : intType f.sub = t) (hwd : t.w = 32 ∨ t.w = 64)
    (x : Int → Int → Int → Int) (w : Wave) (l : Nat) :
    intArith h f x w l (w.lane l) =
      let r := intResult t f.sat (x (t.read (intA h f w t.w l)) (t.read (intB h f w t.w l)) (t.read (intC f w t.w l)))
      outRegs f.d (t.w / 32) r.1 r.2 := by
  simp only [intArith, htype, srcA_eq_intA, srcB_eq_intB, srcC_eq_intC, typeRegs_eq hwd]

theorem integerArithmetic : Claims.IntegerArithmetic := by
  intro h f s w t hw ht q hq
  obtain ⟨htype, hwd⟩ := intType_of_mem ht
  obtain ⟨u, w', hexec, hc⟩ := computes_block hw (exec_intOps hq s) (intArith_lane htype hwd q.2 w)
  exact ⟨u, w', _, _, hexec, hc, fun l => intResult_spec (by omega) _ _⟩

/-- A block of registers beside one predicate. -/
theorem iaddc_computes {s : State} {h : Hdr} {w : Wave} {f : VFields} {wd : Nat} (hw : Issuing s w) (hsub : width2 f.sub = wd)
    (hwd : wd = 32 ∨ wd = 64) :
    let sum (l : Nat) : Nat := intA h f w wd l + intB h f w wd l + b2n (f.c.getLsbD 3 && (w.lane l).pred (f.c.toNat % 8))
    ∃ w', Computes s h w (fun l => block f.d.toNat (wd / 32) (sum l % 2 ^ wd))
      (fun l => onePred (f.c.toNat % 8) (decide (2 ^ wd ≤ sum l))) noFlag (s.vecFixed h (iaddcOp h f)) w' := by
  intro sum
  obtain ⟨w', hc⟩ := vecFixed_computes s h w (iaddcOp h f) hw
  have hlane (l : Nat) : iaddcOp h f w l (w.lane l) =
      { outRegs f.d (wd / 32) (sum l % 2 ^ wd) with preds := [(f.c.toNat % 8, decide (2 ^ wd ≤ sum l))] } := by
    simp only [iaddcOp, hsub, srcA_eq_intA, srcB_eq_intB, typeRegs_eq hwd, sum, ge_iff_le]
  have hreg : (fun l => lastReg (iaddcOp h f w l (w.lane l)).regs) = fun l => block f.d.toNat (wd / 32) (sum l % 2 ^ wd) := by
    funext l r
    rw [hlane]
    exact lastReg_outRegs _ _ _ 0 r
  have hpred : (fun l => lastPred (iaddcOp h f w l (w.lane l)).preds) =
      fun l => onePred (f.c.toNat % 8) (decide (2 ^ wd ≤ sum l)) := by
    funext l p
    rw [hlane]
    exact lastPred_one _ _ p
  have hflag : (fun l => (iaddcOp h f w l (w.lane l)).flags) = noFlag := rfl
  rw [hreg, hpred, hflag] at hc
  exact ⟨w', hc⟩

theorem addWithCarry : Claims.AddWithCarry := by
  intro h f s w wd hw hwd
  obtain ⟨hsub, hwd⟩ := width2_of_mem hwd
  obtain ⟨w', hc⟩ := iaddc_computes (h := h) hw hsub hwd
  refine ⟨_, w', rfl, ?_⟩
  simpa only [b2n, Bool.and_eq_true] using hc

/-- Settles O1: `intResult_spec` for the arithmetic, the sum with its carry for IADDC. -/
theorem integerSums : Obligations.IntegerSums := ⟨integerArithmetic, addWithCarry⟩

end Sys2Proof.Safety
end

section
/-! PROOF. O2: integer division (08 R162). -/

namespace Sys2Proof.Machine

open Sys2Proof.Safety

/-- A remainder lies between 0 and the dividend. -/
theorem tmod_between (a b : Int) : (0 ≤ a.tmod b ∧ a.tmod b ≤ a) ∨ (a ≤ a.tmod b ∧ a.tmod b ≤ 0) := by
  have hle : (a.tmod b).natAbs ≤ a.natAbs := by
    rw [Int.natAbs_tmod]
    exact Nat.mod_le _ _
  obtain hn | hn := le_total 0 a
  · have := Int.tmod_nonneg b hn
    omega
  · have := Int.tmod_nonneg b (show 0 ≤ -a by omega)
    rw [Int.neg_tmod] at this
    omega

theorem IFmt.has_tmod {t : IFmt} {a : Int} (b : Int) (ha : t.has a = true) : t.has (a.tmod b) = true := by
  have h0 := t.lo_le_zero
  have h1 := t.zero_le_hi
  have h2 := tmod_between a b
  rw [IFmt.has_iff] at *
  omega

/-- A quotient is in range, but for the least integer over −1. -/
theorem IFmt.has_tdiv {t : IFmt} {a b : Int} (ha : t.has a = true) (hb : t.has b = true)
    (hc : ¬ (t.signed = true ∧ a = t.lo ∧ b = -1)) : t.has (a.tdiv b) = true := by
  have h0 := t.lo_le_zero
  have h1 := t.zero_le_hi
  rw [IFmt.has_iff] at *
  have habs : (a.tdiv b).natAbs = a.natAbs / b.natAbs := Int.natAbs_tdiv a b
  have hle : (a.tdiv b).natAbs ≤ a.natAbs := habs ▸ Nat.div_le_self _ _
  cases hs : t.signed
  · have hlo : t.lo = 0 := by simp [IFmt.lo, hs]
    have := Int.tdiv_nonneg (show 0 ≤ a by omega) (show 0 ≤ b by omega)
    omega
  · have hends : t.hi = -t.lo - 1 := by simp [IFmt.hi, IFmt.lo, hs]
    by_cases hb1 : b.natAbs = 1
    · obtain rfl | rfl : b = 1 ∨ b = -1 := by omega
      · rwa [Int.tdiv_one]
      · have : a ≠ t.lo := fun e => hc ⟨hs, e, rfl⟩
        omega
    · by_cases hb0 : b = 0
      · rw [hb0, Int.tdiv_zero]
        exact ⟨h0, h1⟩
      · have hhalf : (a.tdiv b).natAbs ≤ a.natAbs / 2 := habs ▸ Nat.div_le_div_left (by omega) (by decide)
        omega

/-- 08 R162: the model's quotient and remainder. -/
theorem divResult_intDivRem {t : IFmt} (ht : 0 < t.w) (sat rem : Bool) {a b : Int} (ha : t.has a = true) (hb : t.has b = true) :
    let r := if rem then (intDivRem t sat a b).2 else (intDivRem t sat a b).1
    DivResult t sat rem a b r.1 r.2 := by
  have hlo : t.has t.lo = true := (t.has_iff _).mpr ⟨le_rfl, le_trans t.lo_le_zero t.zero_le_hi⟩
  have hhi : t.has t.hi = true := (t.has_iff _).mpr ⟨le_trans t.lo_le_zero t.zero_le_hi, le_rfl⟩
  have hpow := Nat.two_pow_pos t.w
  intro r
  by_cases hb0 : b = 0
  · have hr : r = if rem then (wrap t.w a, fDZ) else (2 ^ t.w - 1, fDZ) := by simp [r, intDivRem, hb0]
    rw [hr]
    constructor
    case code => cases rem <;> simp [wrap_lt]
    case zero => intro _; cases rem <;> simp [IFmt.read_wrap ht ha]
    case corner => intro _ _ h; omega
    case plain => exact fun h => absurd hb0 h
  by_cases hc : t.signed = true ∧ a = t.lo ∧ b = -1
  · obtain ⟨hs, rfl, rfl⟩ := hc
    have hr : r = if rem then (0, 0#8) else if sat then (wrap t.w t.hi, fSATD) else (wrap t.w t.lo, 0#8) := by simp [r, intDivRem, hs]
    rw [hr]
    constructor
    case code => cases rem <;> cases sat <;> simp [wrap_lt]
    case zero => exact fun h => absurd h hb0
    case corner => intro _ _ _; cases rem <;> cases sat <;> simp [IFmt.read_wrap ht hlo, IFmt.read_wrap ht hhi]
    case plain => exact fun _ h => absurd ⟨hs, rfl, rfl⟩ h
  · have hr : r = if rem then (wrap t.w (a.tmod b), 0#8) else (wrap t.w (a.tdiv b), 0#8) := by
      have hc' : (t.signed && a == t.lo && b == -1) = false := by
        simpa [and_assoc] using hc
      simp [r, intDivRem, hb0, hc']
    rw [hr]
    constructor
    case code => cases rem <;> simp [wrap_lt]
    case zero => exact fun h => absurd h hb0
    case corner => exact fun h1 h2 h3 => absurd ⟨h1, h2, h3⟩ hc
    case plain =>
      intro _ _
      refine ⟨by cases rem <;> rfl, a.tdiv b, a.tmod b, (Int.tdiv_mul_add_tmod a b).symm, ?_, ?_, ?_⟩
      · rw [Int.natAbs_tmod]
        exact Nat.mod_lt _ (by omega)
      · have hsign := Int.sign_tmod a b
        split at hsign
        · exact .inl (Int.sign_eq_zero_iff_zero.mp hsign)
        · exact .inr hsign
      · cases rem
        · exact IFmt.read_wrap ht (IFmt.has_tdiv ha hb hc)
        · exact IFmt.read_wrap ht (IFmt.has_tmod b ha)

end Sys2Proof.Machine

namespace Sys2Proof.Safety
open Sys2Proof.Machine

/-- What `divOp` gives a lane, in the words of the statement. -/
theorem divOp_lane {h : Hdr} {f : VFields} {t : IFmt} (htype : intType f.sub = t) (hwd : t.w = 32 ∨ t.w = 64)
    (rem : Bool) (w : Wave) (l : Nat) :
    divOp h f rem w l (w.lane l) =
      let p := intDivRem t f.sat (t.read (intA h f w t.w l)) (t.read (intB h f w t.w l))
      let r := if rem then p.2 else p.1
      outRegs f.d (t.w / 32) r.1 r.2 := by
  simp only [divOp, htype, srcA_eq_intA, srcB_eq_intB, typeRegs_eq hwd]

/-- Settles O2: `divResult_intDivRem` for each lane's result, which stays outstanding. -/
theorem integerDivision : Obligations.IntegerDivision := by
  intro h f s w t hw ht q hq
  obtain ⟨htype, hwd⟩ := intType_of_mem ht
  have hpos : 0 < t.w := by omega
  have hexec : exec q.1 s = .next (s.vecVar h (divOp h f q.2)) := by
    simp only [List.mem_cons, List.not_mem_nil, or_false] at hq
    obtain rfl | rfl := hq <;> rfl
  obtain ⟨w', o, hp⟩ := vecVar_block s h w (divOp h f q.2) hw _ _ _ _ (divOp_lane htype hwd q.2 w)
  exact ⟨_, w', o, _, _, hexec, hp, fun l => divResult_intDivRem hpos _ _ (t.has_read hpos _) (t.has_read hpos _)⟩

end Sys2Proof.Safety
end

section
/-! PROOF. O3: bitwise functions, shifts, bit fields and bit counts (08 R164 to R167). -/

namespace Sys2Proof.Machine

open Sys2Proof.Safety

/-! ### What the shapes of these instructions give a lane, in the words of the statements -/

section
variable {h : Hdr} {f : VFields} {w : Wave} {wd : Nat} (hsub : width2 f.sub = wd) (hwd : wd = 32 ∨ wd = 64) (l : Nat)
include hsub hwd

theorem bitOp_lane (g : Nat → Nat → Nat → Nat) :
    bitOp h f g w l (w.lane l) = outRegs f.d (wd / 32) (g wd (intA h f w wd l) (intB h f w wd l)) := by
  simp only [bitOp, hsub, typeRegs_eq hwd, srcA_eq_intA, srcB_eq_intB]

theorem bmixOp_lane : bmixOp h f w l (w.lane l) = outRegs f.d (wd / 32)
    (bmix (f.c.toNat % 256) wd (intA h f w wd l) (intB h f w wd l) ((w.lane l).vblock f.d.toNat (wd / 32))) := by
  simp only [bmixOp, hsub, typeRegs_eq hwd, srcA_eq_intA, srcB_eq_intB]

theorem unary32_lane (g : Nat → Nat → Nat) : unary32 h f g w l (w.lane l) = outRegs f.d 1 (g wd (intA h f w wd l)) := by
  simp only [unary32, hsub, typeRegs_eq hwd, srcA_eq_intA]

theorem unaryOp_lane (g : Nat → Nat → Nat) : unaryOp h f g w l (w.lane l) = outRegs f.d (wd / 32) (g wd (intA h f w wd l)) := by
  simp only [unaryOp, hsub, typeRegs_eq hwd, srcA_eq_intA]

end

theorem shiftOp_lane {h : Hdr} {f : VFields} {w : Wave} {wd : Nat} (hwd : wd = 32 ∨ wd = 64) (l : Nat) (g : Nat → Nat → Nat) :
    shiftOp h f wd g w l (w.lane l) = outRegs f.d (wd / 32) (g (intA h f w wd l) (intB h f w 32 l)) := by
  simp only [shiftOp, typeRegs_eq hwd, srcA_eq_intA]
  rfl

/-- A 32-bit function of three sources reads them as the statements do. -/
theorem op3_lane (h : Hdr) (f : VFields) (w : Wave) (l : Nat) (g : Nat → Nat → Nat → Nat) :
    op3 h f g w l (w.lane l) = outRegs f.d 1 (g (intA h f w 32 l) (intB h f w 32 l) (intC f w 32 l)) := rfl

/-! ### Bits of numbers -/

/-- Sign extension from `v` bits to `n`, bit by bit. -/
theorem testBit_wrap_toSigned {v : Nat} (hv : 0 < v) (n a i : Nat) :
    (wrap n (toSigned v a)).testBit i = (decide (i < n) && a.testBit (min i (v - 1))) := by
  have ha : toSigned v a = toSigned v (BitVec.ofNat v a).toNat := by simp only [BitVec.toNat_ofNat, toSigned, Nat.mod_mod]
  rw [ha, wrap_toSigned, BitVec.testBit_toNat, BitVec.getLsbD_signExtend]
  by_cases hi : i < v
  · rw [if_pos hi, BitVec.getLsbD_ofNat, min_eq_left (by omega)]
    simp [hi]
  · rw [if_neg hi, BitVec.msb_eq_getLsbD_last, BitVec.getLsbD_ofNat, min_eq_right (by omega)]
    simp [hv]

/-- The bits of a field of `len` bits from `pos`. -/
theorem testBit_field (a pos len i : Nat) : (a / 2 ^ pos % 2 ^ len).testBit i = (decide (i < len) && a.testBit (pos + i)) := by
  rw [Nat.testBit_mod_two_pow, Nat.testBit_div_two_pow, Nat.add_comm]

theorem foldl_add_eq_sum {α M : Type} [AddMonoid M] (g : α → M) (l : List α) (a : M) :
    l.foldl (fun acc x => acc + g x) a = a + (l.map g).sum := by
  induction l generalizing a with
  | nil => simp
  | cons x l ih => rw [List.foldl_cons, ih, List.map_cons, List.sum_cons, add_assoc]

theorem popcount_eq (wd a : Nat) : popcount wd a = (List.range wd).countP a.testBit := by
  have hbit : bit a = a.testBit := funext fun i => bit_eq_testBit a i
  rw [popcount, hbit, List.countP_eq_length_filter]

/-- The first number below `n` that passes a test, or `n`. -/
theorem find_range_getD (n : Nat) (p : Nat → Bool) :
    let v := ((List.range n).find? p).getD n
    v ≤ n ∧ (∀ i < v, p i = false) ∧ (v < n → p v = true) := by
  cases hf : (List.range n).find? p with
  | none =>
    refine ⟨le_rfl, fun i hi => ?_, fun h => absurd h (lt_irrefl n)⟩
    simpa using List.find?_eq_none.mp hf i (List.mem_range.mpr hi)
  | some k =>
    obtain ⟨hk, hmem, hlow⟩ := List.find?_range_eq_some.mp hf
    refine ⟨(List.mem_range.mp hmem).le, fun i hi => ?_, fun _ => hk⟩
    simpa using hlow i hi

theorem bitReverse_eq_ofBits (wd a : Nat) : bitReverse wd a = ofBits wd (fun i => a.testBit (wd - 1 - i)) := by
  have hrev : (List.range wd).reverse = (List.range wd).map (fun i => wd - 1 - i) := by
    rw [List.range_eq_range', List.reverse_range', Nat.zero_add, List.range_eq_range']
  rw [bitReverse, ofBits, foldl_add_eq_sum, foldl_add_eq_sum, ← List.sum_reverse (List.map _ _), ← List.map_reverse, hrev,
    List.map_map]
  congr 2
  refine List.map_congr_left fun i hi => ?_
  have := List.mem_range.mp hi
  simp only [Function.comp_apply, bit_eq_testBit]
  rw [show wd - 1 - (wd - 1 - i) = i by omega]

/-! ### Values -/

theorem testBit_bmix (table : BitVec 9) (wd a b d i : Nat) (hi : i < wd) :
    (bmix (table.toNat % 256) wd a b d).testBit i =
      table.getLsbD ((if a.testBit i then 1 else 0) + (if b.testBit i then 2 else 0) + (if d.testBit i then 4 else 0)) := by
  have hindex (x y z : Bool) : b2n x + 2 * b2n y + 4 * b2n z = (if x then 1 else 0) + (if y then 2 else 0) + (if z then 4 else 0) := by
    cases x <;> cases y <;> cases z <;> rfl
  have hlt (x y z : Bool) : (if x then 1 else 0) + (if y then 2 else 0) + (if z then 4 else 0) < 8 := by
    cases x <;> cases y <;> cases z <;> decide
  rw [bmix, ofBits_testBit, bit_eq_testBit, bit_eq_testBit, bit_eq_testBit, bit_eq_testBit, hindex,
    show (256 : Nat) = 2 ^ 8 from rfl, Nat.testBit_mod_two_pow, BitVec.testBit_toNat]
  simp [hi, hlt]

/-- 08 R165: a shift left drops every bit from 2^w on, at any count. -/
theorem shlVal_eq (wd a n : Nat) : shlVal wd a n = a * 2 ^ n % 2 ^ wd := by
  unfold shlVal
  split
  next hn =>
    obtain ⟨k, rfl⟩ : ∃ k, n = wd + k := ⟨n - wd, by omega⟩
    rw [Nat.pow_add, Nat.mul_left_comm, Nat.mul_mod_right]
  · rfl

theorem IFmt.has_ediv {t : IFmt} {x : Int} (hx : t.has x = true) {d : Int} (hd : 0 < d) : t.has (x / d) = true := by
  have h0 := t.lo_le_zero
  have h1 := t.zero_le_hi
  rw [IFmt.has_iff] at *
  obtain hn | hn := le_or_gt 0 x
  · have := Int.ediv_nonneg hn hd.le
    have := Int.ediv_le_self d hn
    omega
  · have := Int.ediv_neg_of_neg_of_pos hn hd
    have : x ≤ x / d := (Int.le_ediv_iff_mul_le hd).mpr (by nlinarith)
    omega

/-- The code of −1 is all ones. -/
theorem wrap_neg_one (n : Nat) : wrap n (-1) = 2 ^ n - 1 := by
  have hpos := Nat.two_pow_pos n
  rw [wrap, ← Int.add_emod_right, Int.emod_eq_of_lt (by omega) (by omega)]
  omega

/-- 08 R165: a shift right is the quotient rounded down, at any count. -/
theorem shrVal_eq {t : IFmt} (ht : 0 < t.w) (a n : Nat) : shrVal t a n = wrap t.w (t.read a / 2 ^ n) := by
  unfold shrVal
  split
  next hn =>
    have hread := (t.has_iff _).mp (t.has_read ht a)
    have hpow : 2 ^ t.w ≤ 2 ^ n := Nat.pow_le_pow_right (by decide) hn
    have hspan := t.hi_sub_lo ht
    have h0 := t.lo_le_zero
    have h1 := t.zero_le_hi
    have hcast : ((2 ^ n : Nat) : Int) = 2 ^ n := by push_cast; rfl
    obtain hneg | hnonneg := lt_or_ge (t.read a) 0
    · have hs : t.signed = true := by
        by_contra hs
        have : t.lo = 0 := by simp [IFmt.lo, hs]
        omega
      have hquot : t.read a / 2 ^ n = -1 := by
        rw [← hcast]
        exact Int.ediv_eq_neg_one_of_neg_of_le hneg (by omega)
      have hsig : toSigned t.w a < 0 := by simpa [IFmt.read, hs] using hneg
      rw [hquot]
      simp only [hs, hsig, decide_true, Bool.and_self, if_true, wrap_neg_one]
    · have hquot : t.read a / 2 ^ n = 0 := by
        rw [← hcast]
        exact Int.ediv_eq_zero_of_lt hnonneg (by omega)
      have hsig : (t.signed && decide (toSigned t.w a < 0)) = false := by
        cases hs : t.signed
        · rfl
        · simpa [IFmt.read, hs] using hnonneg
      rw [hquot, hsig]
      simp [wrap]
  · rw [Int.fdiv_eq_ediv_of_nonneg _ (Int.natCast_nonneg _)]
    push_cast
    rfl

theorem shrVal_spec {t : IFmt} (ht : 0 < t.w) (a n : Nat) : shrVal t a n < 2 ^ t.w ∧ t.read (shrVal t a n) = t.read a / 2 ^ n := by
  rw [shrVal_eq ht]
  exact ⟨wrap_lt _ _, IFmt.read_wrap ht (IFmt.has_ediv (t.has_read ht a) (by positivity))⟩

theorem shrType_of_mem {sub : BitVec 2} {t : IFmt} (ht : (sub, t) ∈ [(0#2, n32), (1#2, i32), (2#2, n64), (3#2, i64)]) :
    shrType sub = t ∧ (t.w = 32 ∨ t.w = 64) := by
  obtain ⟨rfl, rfl⟩ | ⟨rfl, rfl⟩ | ⟨rfl, rfl⟩ | ⟨rfl, rfl⟩ := mem_four_subs ht
  · exact ⟨rfl, .inl rfl⟩
  · exact ⟨rfl, .inl rfl⟩
  · exact ⟨rfl, .inr rfl⟩
  · exact ⟨rfl, .inr rfl⟩

/-- 08 R165: a rotation to the left takes bit `i` to bit `i + n`, counted modulo w. -/
theorem testBit_rotVal {wd a : Nat} (hwd : 0 < wd) (ha : a < 2 ^ wd) (n i : Nat) (hi : i < wd) :
    (rotVal wd a n).testBit ((i + n) % wd) = a.testBit i := by
  have hk : n % wd < wd := Nat.mod_lt _ hwd
  have hlow : a / 2 ^ (wd - n % wd) < 2 ^ (n % wd) := by
    rw [Nat.div_lt_iff_lt_mul (Nat.two_pow_pos _), ← Nat.pow_add]
    rwa [show n % wd + (wd - n % wd) = wd by omega]
  rw [← Nat.add_mod_mod, rotVal, Nat.testBit_mod_two_pow, Nat.mul_comm, Nat.testBit_two_pow_mul_add _ hlow]
  have hj : (i + n % wd) % wd < wd := Nat.mod_lt _ hwd
  rw [decide_eq_true hj, Bool.true_and, Nat.testBit_div_two_pow]
  obtain hlt | hge := lt_or_ge (i + n % wd) wd
  · rw [Nat.mod_eq_of_lt hlt, if_neg (by omega), Nat.add_sub_cancel]
  · have he : (i + n % wd) % wd = i + n % wd - wd := by
      rw [Nat.mod_eq_sub_mod hge, Nat.mod_eq_of_lt (by omega)]
    rw [he, if_pos (by omega)]
    congr 1
    omega

/-- 08 R166: BFE, bit by bit. -/
theorem testBit_bfeVal {sg : Bool} {a : Nat} (ha : a < 2 ^ 32) (b c i : Nat) (hi : i < 32) :
    (bfeVal sg a b c).testBit i =
      (let pos := min (b % 256) 32
       let len := min (c % 256) 32
       let src (k : Nat) : Bool := if k < 32 then a.testBit k else sg && a.testBit 31
       if i < len then src (pos + i) else len != 0 && sg && src (pos + len - 1)) := by
  have hpos : min (b % 256) 32 ≤ 32 := min_le_right _ _
  have hlen : min (c % 256) 32 ≤ 32 := min_le_right _ _
  unfold bfeVal
  generalize min (b % 256) 32 = pos at *
  generalize min (c % 256) 32 = len at *
  have hsrc (k : Nat) (hk : k < 64) :
      (if sg then wrap 64 (toSigned 32 a) else a).testBit k = if k < 32 then a.testBit k else sg && a.testBit 31 := by
    cases sg
    · rw [if_neg (by decide), Bool.false_and]
      obtain hlt | hge := lt_or_ge k 32
      · rw [if_pos hlt]
      · rw [if_neg (by omega)]
        exact Nat.testBit_lt_two_pow (lt_of_lt_of_le ha (Nat.pow_le_pow_right (by decide) hge))
    · rw [if_pos rfl, testBit_wrap_toSigned (by decide), decide_eq_true hk, Bool.true_and, Bool.true_and]
      obtain hlt | hge := lt_or_ge k 32
      · rw [if_pos hlt, min_eq_left (by omega)]
      · rw [if_neg (by omega), min_eq_right (by omega)]
  by_cases h0 : len = 0
  · simp [h0]
  simp only [beq_iff_eq, h0, if_false]
  cases sg
  · simp only [Bool.false_eq_true, if_false] at hsrc ⊢
    rw [testBit_field]
    by_cases hil : i < len
    · rw [if_pos hil, decide_eq_true hil, Bool.true_and]
      exact hsrc _ (by omega)
    · simp [hil]
  · simp only [if_true] at hsrc ⊢
    rw [testBit_wrap_toSigned (by omega), testBit_field, decide_eq_true hi, Bool.true_and]
    by_cases hil : i < len
    · rw [if_pos hil, min_eq_left (by omega), decide_eq_true hil, Bool.true_and, hsrc _ (by omega)]
    · rw [if_neg hil, min_eq_right (by omega), hsrc _ (by omega), show pos + (len - 1) = pos + len - 1 by omega]
      simp [h0, show len - 1 < len by omega]

theorem bfeVal_lt {sg : Bool} {a : Nat} (b c : Nat) : bfeVal sg a b c < 2 ^ 32 := by
  have hlen : min (c % 256) 32 ≤ 32 := min_le_right _ _
  unfold bfeVal
  generalize min (c % 256) 32 = len at *
  cases sg
  · simp only [beq_iff_eq, Bool.false_eq_true, if_false]
    split
    · decide
    · exact lt_of_lt_of_le (Nat.mod_lt _ (Nat.two_pow_pos _)) (Nat.pow_le_pow_right (by decide) hlen)
  · simp only [beq_iff_eq, if_true]
    split
    · decide
    · exact wrap_lt 32 _

/-- The mask of a bit field. -/
theorem testBit_fieldMask (pos len i : Nat) :
    ((2 ^ len - 1) * 2 ^ pos % 2 ^ 32).testBit i = decide (i < 32 ∧ pos ≤ i ∧ i < pos + len) := by
  rw [Nat.testBit_mod_two_pow, Nat.testBit_mul_two_pow, Nat.testBit_two_pow_sub_one, Bool.eq_iff_iff]
  simp only [Bool.and_eq_true, decide_eq_true_eq]
  omega

/-- 08 R166: BFI, bit by bit. -/
theorem testBit_bfiVal (a b c i : Nat) (hi : i < 32) :
    (bfiVal a b c).testBit i =
      (let pos := min (c % 256) 32
       let len := min (c / 256 % 256) 32
       if pos ≤ i ∧ i < pos + len then b.testBit (i - pos) else a.testBit i) := by
  unfold bfiVal
  generalize min (c % 256) 32 = pos
  generalize min (c / 256 % 256) 32 = len
  have hmask : (2 ^ len - 1) * 2 ^ pos % 2 ^ 32 < 2 ^ 32 := Nat.mod_lt _ (by decide)
  simp only [Nat.testBit_or, Nat.testBit_and, Nat.testBit_mul_two_pow, Nat.sub_sub, Nat.add_comm 1,
    Nat.testBit_two_pow_sub_succ hmask, testBit_fieldMask, hi, decide_true, Bool.true_and, true_and]
  by_cases hin : pos ≤ i ∧ i < pos + len
  · simp [hin]
  · simp [hin]

theorem bfiVal_lt {a : Nat} (ha : a < 2 ^ 32) (b c : Nat) : bfiVal a b c < 2 ^ 32 :=
  Nat.or_lt_two_pow (lt_of_le_of_lt Nat.and_le_left ha) (lt_of_le_of_lt Nat.and_le_right (Nat.mod_lt _ (by decide)))

end Sys2Proof.Machine

namespace Sys2Proof.Safety
open Sys2Proof.Machine

theorem bitwiseFunctions : Claims.BitwiseFunctions := by
  intro h f s w wd hw hwd q hq
  obtain ⟨hsub, hwd⟩ := width2_of_mem hwd
  have ha (l : Nat) := intA_lt hwd h f w l
  have hb (l : Nat) := intB_lt hwd h f w l
  simp only [List.mem_cons, List.not_mem_nil, or_false] at hq
  obtain rfl | rfl | rfl | rfl := hq
  · obtain ⟨u, w', hexec, hc⟩ := computes_block (i := .and h f) (fl := noFlag) hw rfl fun l => bitOp_lane hsub hwd l _
    exact ⟨u, w', _, hexec, hc, fun l => ⟨lt_of_le_of_lt Nat.and_le_left (ha l), fun i _ => Nat.testBit_and _ _ _⟩⟩
  · obtain ⟨u, w', hexec, hc⟩ := computes_block (i := .or h f) (fl := noFlag) hw rfl fun l => bitOp_lane hsub hwd l _
    exact ⟨u, w', _, hexec, hc, fun l => ⟨Nat.or_lt_two_pow (ha l) (hb l), fun i _ => Nat.testBit_or _ _ _⟩⟩
  · obtain ⟨u, w', hexec, hc⟩ := computes_block (i := .xor h f) (fl := noFlag) hw rfl fun l => bitOp_lane hsub hwd l _
    exact ⟨u, w', _, hexec, hc, fun l => ⟨Nat.xor_lt_two_pow (ha l) (hb l), fun i _ => Nat.testBit_xor _ _ _⟩⟩
  · obtain ⟨u, w', hexec, hc⟩ := computes_block (i := .bmix h f) (fl := noFlag) hw rfl fun l => bmixOp_lane hsub hwd l
    exact ⟨u, w', _, hexec, hc, fun l => ⟨ofBits_lt _ _, fun i hi => testBit_bmix _ _ _ _ _ _ hi⟩⟩

theorem shiftsAndRotates : Claims.ShiftsAndRotates := by
  intro h f s w hw n
  refine ⟨fun wd hwd => ?_, fun t ht => ?_, fun wd hwd => ?_, fun low hlow => ?_⟩
  · obtain ⟨hsub, hwd⟩ := width2_of_mem hwd
    refine computes_block hw rfl fun l => ?_
    rw [hsub, shiftOp_lane hwd, shlVal_eq]
    rfl
  · obtain ⟨hsub, hwd⟩ := shrType_of_mem ht
    obtain ⟨u, w', hexec, hc⟩ := computes_block (i := .shr h f) (fl := noFlag)
      (v := fun l => shrVal t (intA h f w t.w l) (intB h f w 32 l)) hw rfl fun l => by rw [hsub, shiftOp_lane hwd]; rfl
    exact ⟨u, w', _, hexec, hc, fun l => shrVal_spec (by omega) _ _⟩
  · obtain ⟨hsub, hwd⟩ := width2_of_mem hwd
    obtain ⟨u, w', hexec, hc⟩ := computes_block (i := .rot h f) (fl := noFlag)
      (v := fun l => rotVal wd (intA h f w wd l) (intB h f w 32 l)) hw rfl fun l => by rw [hsub, shiftOp_lane hwd]; rfl
    exact ⟨u, w', _, hexec, hc, fun l => ⟨Nat.mod_lt _ (Nat.two_pow_pos wd),
      fun i hi => testBit_rotVal (by omega) (intA_lt hwd h f w l) _ i hi⟩⟩
  · refine computes_block hw rfl fun l => ?_
    rw [op3_lane]
    obtain ⟨hsub, rfl⟩ | ⟨hsub, rfl⟩ := mem_two_subs hlow <;> simp [funnelVal, hsub, n, noFlag]

theorem bitFields : Claims.BitFields := by
  intro h f s w hw
  have hwd : 32 = 32 ∨ 32 = 64 := .inl rfl
  refine ⟨fun sg hsg => ?_, fun _ => ?_⟩
  · have hsub : (f.sub == 1#2) = sg := by
      obtain ⟨hsub, rfl⟩ | ⟨hsub, rfl⟩ := mem_two_subs hsg <;> rw [hsub] <;> rfl
    obtain ⟨u, w', hexec, hc⟩ := computes_block (i := .bfe h f) (fl := noFlag) hw rfl fun l => op3_lane h f w l (bfeVal (f.sub == 1#2))
    rw [hsub] at hc
    exact ⟨u, w', _, hexec, hc, fun l => ⟨bfeVal_lt _ _, fun i hi => testBit_bfeVal (intA_lt hwd h f w l) _ _ i hi⟩⟩
  · obtain ⟨u, w', hexec, hc⟩ := computes_block (i := .bfi h f) (fl := noFlag) hw rfl fun l => op3_lane h f w l bfiVal
    exact ⟨u, w', _, hexec, hc, fun l => ⟨bfiVal_lt (intA_lt hwd h f w l) _ _, fun i hi => testBit_bfiVal _ _ _ i hi⟩⟩

theorem bitCounts : Claims.BitCounts := by
  intro h f s w wd hw hwd
  obtain ⟨hsub, hwd⟩ := width2_of_mem hwd
  refine ⟨?_, ?_, ?_⟩
  · refine computes_block hw rfl fun l => ?_
    rw [unary32_lane hsub hwd, popcount_eq]
    rfl
  · obtain ⟨u, w', hexec, hc⟩ := computes_block (i := .clz h f) (fl := noFlag) hw rfl fun l => unary32_lane hsub hwd l leadingZeros
    refine ⟨u, w', _, hexec, hc, fun l => ?_⟩
    simpa only [leadingZeros, bit_eq_testBit] using
      find_range_getD wd (fun i => bit (intA h f w wd l) (wd - 1 - i))
  · obtain ⟨u, w', hexec, hc⟩ := computes_block (i := .brev h f) (fl := noFlag) hw rfl fun l => unaryOp_lane hsub hwd l bitReverse
    refine ⟨u, w', _, hexec, hc, fun l => ?_⟩
    rw [bitReverse_eq_ofBits]
    refine ⟨ofBits_lt _ _, fun i hi => ?_⟩
    rw [ofBits_testBit, decide_eq_true hi, Bool.true_and]

/-- Settles O3: bit by bit for the bitwise functions, the rotation, the fields and the reversal; by quotients for the shifts. -/
theorem bitFunctions : Obligations.BitFunctions := ⟨bitwiseFunctions, shiftsAndRotates, bitFields, bitCounts⟩

end Sys2Proof.Safety
end

section
/-! PROOF. O4: compare, select, move, address, dot product and sum of differences (08 R168, R169). -/

namespace Sys2Proof.Machine

open Sys2Proof.Safety

/-- 03 R58: the model's integer conditions are the order of the codes, and of the integers they hold. -/
theorem intCond_eq_condHolds {wd a b : Nat} (code : Nat) (ha : a < 2 ^ wd) (hb : b < 2 ^ wd) :
    intCond code wd a b = condHolds code wd a b := by
  have hsa : toSigned wd a = (BitVec.ofNat wd a).toInt := by rw [toSigned_eq_bmod, BitVec.toInt_ofNat']
  have hsb : toSigned wd b = (BitVec.ofNat wd b).toInt := by rw [toSigned_eq_bmod, BitVec.toInt_ofNat']
  have hua : a = (BitVec.ofNat wd a).toNat := by rw [BitVec.toNat_ofNat, Nat.mod_eq_of_lt ha]
  have hub : b = (BitVec.ofNat wd b).toNat := by rw [BitVec.toNat_ofNat, Nat.mod_eq_of_lt hb]
  have heq : (a == b) = (BitVec.ofNat wd a == BitVec.ofNat wd b) := by
    rw [Bool.eq_iff_iff, beq_iff_eq, beq_iff_eq]
    exact ⟨fun h => by rw [h], fun h => by rw [hua, hub, h]⟩
  have hult : decide (a < b) = (BitVec.ofNat wd a).ult (BitVec.ofNat wd b) := by rw [BitVec.ult, ← hua, ← hub]
  have hule : decide (a ≤ b) = (BitVec.ofNat wd a).ule (BitVec.ofNat wd b) := by rw [BitVec.ule, ← hua, ← hub]
  have hugt : decide (a > b) = (BitVec.ofNat wd b).ult (BitVec.ofNat wd a) := by rw [BitVec.ult, ← hua, ← hub]
  have huge : decide (a ≥ b) = (BitVec.ofNat wd b).ule (BitVec.ofNat wd a) := by rw [BitVec.ule, ← hua, ← hub]
  unfold intCond condHolds
  rw [hsa, hsb, bne, heq, hult, hule, hugt, huge]
  match code with
  | 0 | 1 | 2 | 3 | 4 | 5 | 6 | 7 | 8 | 9 => rfl
  | n + 10 => rfl

/-- 08 R169: a byte or half of a source, signed or not. -/
theorem fieldOf_eq_read (n : Nat) (sg : Bool) (x j : Nat) :
    fieldOf n sg x j = ({ w := n, signed := sg } : IFmt).read (x / 2 ^ (n * j)) := by
  simp only [fieldOf, IFmt.read, toSigned, Nat.mod_mod]

end Sys2Proof.Machine

namespace Sys2Proof.Safety
open Sys2Proof.Machine

theorem compareSelectMove : Claims.CompareSelectMove := by
  intro h f s w wd hw hwd
  obtain ⟨hsub, hwd⟩ := width2_of_mem hwd
  refine ⟨?_, ?_, ?_⟩
  · refine computes_pred hw rfl fun l => ?_
    rw [← intCond_eq_condHolds _ (intA_lt hwd h f w l) (intB_lt hwd h f w l)]
    simp only [icmpOp, hsub, typeRegs_eq hwd, srcA_eq_intA, srcB_eq_intB]
  · refine computes_block hw rfl fun l => ?_
    simp only [selOp, hsub, typeRegs_eq hwd, srcA_eq_intA, srcB_eq_intB, bne_iff_ne]
    rfl
  · exact computes_block hw rfl fun l => unaryOp_lane hsub hwd l _

theorem addressDotAndDifference : Claims.AddressDotAndDifference := by
  intro h f s w hw
  refine ⟨fun wd hwd => ?_, fun sa sb hsub => ?_, fun k hk => ?_⟩
  · obtain ⟨hsub, hwd⟩ := width2_of_mem hwd
    have hlane (l : Nat) : leaOp h f w l (w.lane l) = outRegs f.d (wd / 32) (wrap wd (intA h f w wd l +
        (if wd = 64 then i32.read (intB h f w 32 l) else (intB h f w 32 l : Int)) * 2 ^ (f.c.toNat % 64))) := by
      simp only [leaOp, hsub, typeRegs_eq hwd, srcA_eq_intA, beq_iff_eq]
      push_cast
      rfl
    obtain ⟨u, w', hexec, hc⟩ := computes_block (i := .lea h f) (fl := noFlag) hw rfl hlane
    exact ⟨u, w', _, hexec, hc, fun l => ⟨wrap_lt _ _, dvd_wrap_sub _ _⟩⟩
  · intro t byte dot
    have hsigns : (f.sub != 1#2) = sa ∧ (f.sub == 0#2) = sb := by
      simp only [List.mem_cons, Prod.mk.injEq, List.not_mem_nil, or_false] at hsub
      obtain ⟨hsub, rfl, rfl⟩ | ⟨hsub, rfl, rfl⟩ | ⟨hsub, rfl, rfl⟩ := hsub <;> rw [hsub] <;> exact ⟨rfl, rfl⟩
    have ht : ({ w := 32, signed := sa } : IFmt) = t := by cases sa <;> rfl
    have hlane (l : Nat) : idp4Op h f w l (w.lane l) =
        let r := intResult t f.sat (t.read (intC f w 32 l) + dot (intA h f w 32 l) (intB h f w 32 l))
        outRegs f.d 1 r.1 r.2 := by
      simp only [idp4Op, hsigns.1, hsigns.2, ht, fieldOf_eq_read, List.range_succ, List.range_zero, List.nil_append,
        List.cons_append, List.foldl_cons, List.foldl_nil, zero_add]
      rfl
    obtain ⟨u, w', hexec, hc⟩ := computes_block (i := .idp4 h f) hw rfl hlane
    have hpos : 0 < t.w := by rw [← ht]; exact Nat.zero_lt_succ 31
    exact ⟨u, w', _, _, hexec, hc, fun l => intResult_spec hpos _ _⟩
  · intro part diff
    have hsub : (if f.sub == 0#2 then 8 else 16) = k := by
      obtain ⟨hsub, rfl⟩ | ⟨hsub, rfl⟩ := mem_two_subs hk <;> rw [hsub] <;> rfl
    have hlane (l : Nat) : sadOp h f w l (w.lane l) =
        let r := intResult n32 f.sat (intC f w 32 l + diff (intA h f w 32 l) (intB h f w 32 l))
        outRegs f.d 1 r.1 r.2 := by
      simp only [sadOp, hsub, foldl_add_eq_sum, zero_add, Nat.cast_add, Nat.cast_list_sum, List.map_map]
      rfl
    obtain ⟨u, w', hexec, hc⟩ := computes_block (i := .sad h f) hw rfl hlane
    exact ⟨u, w', _, _, hexec, hc, fun l => intResult_spec (by decide) _ _⟩

/-- Settles O4: conditions by `intCond_eq_condHolds`, exact sums by `intResult_spec`, addresses modulo 2^w. -/
theorem comparesMovesAddresses : Obligations.ComparesMovesAddresses := ⟨compareSelectMove, addressDotAndDifference⟩

end Sys2Proof.Safety
end

section
/-! PROOF. O6: the scalar instructions (08 R170 to R172). -/

namespace Sys2Proof.Machine

open Sys2Proof.Safety

theorem wrap_natCast (n a : Nat) : wrap n (a : Int) = a % 2 ^ n := by
  rw [wrap, ← Int.natCast_mod, Int.toNat_natCast]

/-! ### The sources of Format S are codes of their width -/

theorem scaA_lt (f : SFields) (w : Wave) (wide : Bool) : scaA f w wide < 2 ^ (if wide then 64 else 32) := by
  cases wide
  · exact w.sblock_lt _ 1
  · exact w.sblock_lt _ 2

theorem scaB_lt (h : Hdr) (f : SFields) (w : Wave) (wide zx : Bool) : scaB h f w wide zx < 2 ^ (if wide then 64 else 32) := by
  have h32 : 2 ^ 32 ≤ 2 ^ (if wide then 64 else 32) := by cases wide <;> decide
  unfold scaB
  split
  · split
    · split
      · exact wrap_lt _ _
      · exact Nat.mod_lt _ (by decide)
    · split
      · exact lt_of_lt_of_le f.imm.isLt (le_trans (by decide) h32)
      · exact wrap_lt _ _
  · cases wide
    · exact w.sblock_lt _ 1
    · exact w.sblock_lt _ 2

/-- The width of a scalar instruction, from its SUB. -/
theorem wideS_of_mem {f : SFields} {wd : Nat} (h : (f.sub, wd) ∈ [(0#2, 32), (1#2, 64)]) :
    wideS f = decide (wd = 64) ∧ (if decide (wd = 64) then 64 else 32) = wd ∧ (if decide (wd = 64) then 2 else 1) = wd / 32 := by
  obtain ⟨hsub, rfl⟩ | ⟨hsub, rfl⟩ := mem_two_subs h <;> rw [wideS, hsub] <;> exact ⟨rfl, rfl, rfl⟩

/-- 02 R41: a scalar instruction that writes a block of scalar registers once. -/
theorem computes_scalar {s : State} {h : Hdr} {w : Wave} {i : Instr} {f : SFields} {wide : Bool} {n x : Nat} {v : Wave → Nat}
    (hw : Issuing s w) (hexec : exec i s = .next (s.scalar h f wide v)) (hn : (if wide then 2 else 1) = n) (hv : v w = x) :
    ∃ u w', exec i s = .next u ∧ ScalarStep s h w f.d.toNat n x u w' := by
  obtain ⟨w', hstep⟩ := scalar_step s h f w wide v hw
  rw [hn, hv] at hstep
  exact ⟨_, w', hexec, hstep⟩

theorem lowestLane_eq_some {m : BitVec 64} {l : Nat} (hl : m.getLsbD l = true) (hlow : ∀ k < l, m.getLsbD k = false) :
    lowestLane m = some l := by
  refine List.find?_range_eq_some.mpr ⟨hl, List.mem_range.mpr ?_, fun k hk => by simp [hlow k hk]⟩
  by_contra hge
  rw [BitVec.getLsbD_of_ge _ _ (by omega)] at hl
  cases hl

/-- A change of the current wave after which its lanes move on is one change of that wave. -/
theorem updCur_finish (s : State) (h : Hdr) (g : Wave → Wave) :
    (s.updCur g).finish h = s.updCur fun x =>
      { (g x).goto s.cur.mask (s.nextPc h) with runEnd := (g x).runEnd || h.sw, prog := none, xl := [] } :=
  updCur_updCur s _ _

/-- 08 R172: a predicate written in every lane of the issue, whatever their guards. -/
theorem setPred_issue_computes {s : State} {w : Wave} (h : Hdr) (d : Nat) (b : Bool) (hw : Issuing s w) :
    ∃ w', Computes s { h with gp := 7 } w noReg (fun _ => onePred d b) noFlag
      ((s.updCur (fun x => x.updLanes s.cur.mask (fun _ ln => ln.setPred d b))).finish h) w' := by
  have hlane (l : Nat) (hl : l < w.lanes.length) : (w.updLanes s.cur.mask (fun _ ln => ln.setPred d b)).lane l =
      if takes s { h with gp := 7 } w l then (w.lane l).setPred d b else w.lane l := by
    rw [Wave.lane_updLanes]
    simp [takes, hl]
  obtain ⟨w', hc⟩ := computes_of s (s.updCur fun _ =>
      { (w.updLanes s.cur.mask (fun _ ln => ln.setPred d b)).goto s.cur.mask (s.nextPc h) with
        runEnd := w.runEnd || h.sw, prog := none, xl := [] }) { h with gp := 7 } w
    (w.updLanes s.cur.mask (fun _ ln => ln.setPred d b)) noReg (fun _ => onePred d b) noFlag hw rfl (w.updLanes_length _ _)
    (fun l r hl => by
      rw [hlane l hl]
      split
      · rw [Lane.setPred]
        split <;> rfl
      · rfl)
    (fun l p hl => by
      rw [hlane l hl]
      split
      · rw [Lane.pred_setPred, onePred]
        split <;> rfl
      · rfl)
    (fun l hl => by
      rw [hlane l hl]
      split
      · exact congrArg (fun x : Lane => { x with v := (w.lane l).v }) ((w.lane l).setPred_rest d b)
      · rfl)
    (fun i => by simp [noFlag]) rfl
  have hhere := hc.here
  rw [State.wave?_updCur s _ w hw] at hhere
  refine ⟨w', ?_, hc.regs, hc.preds, hc.wstat, hc.moves, hc.ends, hc.wave, ?_⟩
  · rw [updCur_finish, State.wave?_updCur s _ w hw]
    exact hhere
  · rw [updCur_finish]
    exact Elsewhere.updCur s _

end Sys2Proof.Machine

namespace Sys2Proof.Safety
open Sys2Proof.Machine

/-- 08 R171: each of the instructions writes the code of its exact result. -/
theorem exec_scaOps {h : Hdr} {f : SFields} {wd : Nat} (hwd : (f.sub, wd) ∈ [(0#2, 32), (1#2, 64)]) {q : Instr × (Int → Int → Int)}
    (hq : q ∈ scaOps h f) (s : State) : exec q.1 s = .next (s.scalar h f (wd = 64) fun w =>
      wrap wd (q.2 (scaA f w (wd = 64)) (scaB h f w (wd = 64) false))) := by
  obtain ⟨hwide, hwidth, -⟩ := wideS_of_mem hwd
  have hstep (i : Instr) (v : Wave → Nat) (x : Wave → Int) (hi : exec i s = .next (s.scalar h f (wd = 64) v))
      (hv : ∀ w, v w = wrap wd (x w)) : exec i s = .next (s.scalar h f (wd = 64) fun w => wrap wd (x w)) := by
    rw [hi, funext hv]
  simp only [scaOps, List.mem_cons, List.not_mem_nil, or_false] at hq
  obtain rfl | rfl | rfl | rfl | rfl := hq
  · refine hstep _ _ _ (show execSadd h f s = _ by rw [execSadd, widthS, hwide, hwidth]) fun w => ?_
    simp only [← Nat.cast_add, wrap_natCast]
  · exact hstep _ _ _ (show execSsub h f s = _ by rw [execSsub, widthS, hwide, hwidth]) fun w => rfl
  · refine hstep _ _ _ (show execSmul h f s = _ by rw [execSmul, widthS, hwide, hwidth]) fun w => ?_
    simp only [← Nat.cast_mul, wrap_natCast]
  · refine hstep _ _ _ (show execSmov h f s = _ by rw [execSmov, hwide]) fun w => ?_
    rw [wrap_natCast, Nat.mod_eq_of_lt (lt_of_lt_of_eq (scaB_lt h f w _ _) (by rw [hwidth]))]
  · refine hstep _ _ _ (show execSshl h f s = _ by rw [execSshl, widthS, hwide, hwidth]) fun w => ?_
    simp only [shlVal_eq, Int.toNat_natCast, ← wrap_natCast, Nat.cast_mul, Nat.cast_pow, Nat.cast_ofNat]

theorem scalarArithmetic : Claims.ScalarArithmetic := by
  intro h f s w wd hw hwd q hq
  obtain ⟨-, -, hregs⟩ := wideS_of_mem hwd
  obtain ⟨u, w', hexec, hstep⟩ := computes_scalar hw (exec_scaOps hwd hq s) hregs rfl
  exact ⟨u, w', _, hexec, hstep, wrap_lt _ _, dvd_wrap_sub _ _⟩

theorem scalarBitwise : Claims.ScalarBitwise := by
  intro h f s w wd hw hwd q hq
  obtain ⟨hwide, -, hregs⟩ := wideS_of_mem hwd
  rw [← hwide] at hregs ⊢
  simp only [List.mem_cons, List.not_mem_nil, or_false] at hq
  obtain rfl | rfl | rfl := hq
  · obtain ⟨u, w', hexec, hstep⟩ := computes_scalar (i := .sand h f) hw rfl hregs rfl
    exact ⟨u, w', _, hexec, hstep, fun i => Nat.testBit_and _ _ _⟩
  · obtain ⟨u, w', hexec, hstep⟩ := computes_scalar (i := .sor h f) hw rfl hregs rfl
    exact ⟨u, w', _, hexec, hstep, fun i => Nat.testBit_or _ _ _⟩
  · obtain ⟨u, w', hexec, hstep⟩ := computes_scalar (i := .sxor h f) hw rfl hregs rfl
    exact ⟨u, w', _, hexec, hstep, fun i => Nat.testBit_xor _ _ _⟩

theorem scalarBitsAndSelect : Claims.ScalarBitsAndSelect := by
  intro h f s w hw
  refine ⟨fun t ht => ?_, fun wd hwd => ?_⟩
  · have htype : ({ w := 32, signed := f.sub == 1#2 } : IFmt) = t := by
      obtain ⟨hsub, rfl⟩ | ⟨hsub, rfl⟩ := mem_two_subs ht <;> rw [hsub] <;> rfl
    subst htype
    refine ⟨?_, ?_⟩
    · obtain ⟨u, w', hexec, hstep⟩ := computes_scalar (i := .sshr h f) hw rfl rfl rfl
      exact ⟨u, w', _, hexec, hstep, shrVal_spec (t := { w := 32, signed := f.sub == 1#2 }) (Nat.zero_lt_succ 31) _ _⟩
    · obtain ⟨u, w', hexec, hstep⟩ := computes_scalar (i := .sbfe h f) hw rfl rfl rfl
      exact ⟨u, w', _, hexec, hstep, bfeVal_lt _ _, fun i hi => testBit_bfeVal (scaA_lt f w false) _ _ i hi⟩
  · intro a b
    obtain ⟨hwide, hwidth, hregs⟩ := wideS_of_mem hwd
    have hregs' := hregs
    rw [← hwide] at hregs'
    refine ⟨?_, ?_, ?_, fun l hl hlow => ?_⟩
    · obtain ⟨u, w', hexec, hstep⟩ := computes_scalar (i := .sff1 h f) (x := lowestOne wd a) hw rfl hregs' (by
        rw [widthS, hwide, hwidth])
      refine ⟨u, w', _, hexec, hstep, ?_⟩
      simpa only [lowestOne, bit_eq_testBit] using find_range_getD wd (bit a)
    · refine computes_scalar (i := .spopc h f) hw rfl hregs' ?_
      rw [widthS, hwide, hwidth, popcount_eq]
    · refine computes_scalar (i := .slea h f) hw rfl hregs' ?_
      rw [hregs', widthS, hwide, hwidth]
    · refine computes_scalar (i := .ssel h f) hw rfl hregs' ?_
      simp only [lowestLane_eq_some hl hlow, hwide, hregs, a, b]

theorem scalarCompare : Claims.ScalarCompare := by
  intro h f s w wd hw hwd
  obtain ⟨hwide, hwidth, -⟩ := wideS_of_mem hwd
  have ha : scaA f w (wd = 64) < 2 ^ wd := lt_of_lt_of_eq (scaA_lt f w _) (by rw [hwidth])
  have hb : scaB h f w (wd = 64) false < 2 ^ wd := lt_of_lt_of_eq (scaB_lt h f w _ _) (by rw [hwidth])
  obtain ⟨w', hc⟩ := setPred_issue_computes h (f.d.toNat % 8)
    (intCond (f.d.toNat / 8 % 16) wd (scaA f w (wd = 64)) (scaB h f w (wd = 64) false)) hw
  rw [intCond_eq_condHolds _ ha hb] at hc
  refine ⟨_, w', ?_, hc⟩
  show execScmp h f s = _
  rw [execScmp, State.curWave_eq s w hw, widthS, hwide, hwidth, intCond_eq_condHolds _ ha hb]

/-- Settles O6: results of `scalar_step` once per issue; the predicate of SCMP by `setPred_issue_computes`. -/
theorem scalarInstructions : Obligations.ScalarInstructions :=
  ⟨scalarArithmetic, scalarBitwise, scalarBitsAndSelect, scalarCompare⟩

end Sys2Proof.Safety
end

section
/-! PROOF. O11: conversion (08 R173), and the check of the narrow formats' descriptors (07 R146, 08 R174). -/

namespace Sys2Proof.Machine

open Sys2Proof.Safety

/-! ### The check of descriptors and blocks over the lanes that take part -/

section
variable {s : State} {h : Hdr} {w : Wave} (hw : Issuing s w)
include hw

theorem mem_lanesOf_part (l : Nat) : l ∈ lanesOf (s.part h) ↔ takes s h w l = true := by
  rw [lanesOf_mem, takes_eq s h w l hw]

/-- The reasons of `nfReason`, in their order. -/
theorem nfReason_eq (f : VFields) (blk : Nat → Bool) :
    s.nfReason h f blk =
      if (lanesOf (s.part h)).any (fun l => !(nfDesc (srcB h f w (w.lane l) 1 .plain)).valid) then some 8
      else if (lanesOf (s.part h)).any (fun l => blk (32 / (nfDesc (srcB h f w (w.lane l) 1 .plain)).n)) then some 7 else none := by
  simp only [State.nfReason, State.curWave_eq s w hw, List.any_map, Function.comp_def]

theorem nfReason_invalid {f : VFields} (blk : Nat → Bool)
    (hbad : ∃ l, takes s h w l = true ∧ (nfDesc (srcB h f w (w.lane l) 1 .plain)).valid = false) : s.nfReason h f blk = some 8 := by
  obtain ⟨l, hl, hv⟩ := hbad
  rw [nfReason_eq hw, if_pos]
  exact List.any_eq_true.mpr ⟨l, (mem_lanesOf_part hw l).mpr hl, by simp [hv]⟩

theorem all_valid_not_any {f : VFields}
    (hgood : ∀ l, takes s h w l = true → (nfDesc (srcB h f w (w.lane l) 1 .plain)).valid = true) :
    ¬ (lanesOf (s.part h)).any (fun l => !(nfDesc (srcB h f w (w.lane l) 1 .plain)).valid) = true := by
  simp only [List.any_eq_true, mem_lanesOf_part hw, not_exists, not_and]
  exact fun l hl => by simp [hgood l hl]

theorem nfReason_block {f : VFields} {blk : Nat → Bool}
    (hgood : ∀ l, takes s h w l = true → (nfDesc (srcB h f w (w.lane l) 1 .plain)).valid = true)
    (hbad : ∃ l, takes s h w l = true ∧ blk (32 / (nfDesc (srcB h f w (w.lane l) 1 .plain)).n) = true) :
    s.nfReason h f blk = some 7 := by
  obtain ⟨l, hl, hb⟩ := hbad
  rw [nfReason_eq hw, if_neg (all_valid_not_any hw hgood), if_pos]
  exact List.any_eq_true.mpr ⟨l, (mem_lanesOf_part hw l).mpr hl, hb⟩

theorem nfReason_none {f : VFields} {blk : Nat → Bool}
    (hgood : ∀ l, takes s h w l = true → (nfDesc (srcB h f w (w.lane l) 1 .plain)).valid = true)
    (hblk : ∀ l, takes s h w l = true → blk (32 / (nfDesc (srcB h f w (w.lane l) 1 .plain)).n) = false) :
    s.nfReason h f blk = none := by
  rw [nfReason_eq hw, if_neg (all_valid_not_any hw hgood), if_neg]
  simp only [List.any_eq_true, mem_lanesOf_part hw, not_exists, not_and]
  exact fun l hl => by simp [hblk l hl]

end

/-! ### Types of CVT -/

/-- The table of 08 R173 is the model's, and 12 is the narrow formats' code in it. -/
theorem cvtType_of_mem {c : Nat} {t : CvtType} (h : (c, t) ∈ cvtCodes) : cvtType c = t ∧ ((c == 12) = true ↔ t = .nf) := by
  have htable : ∀ p ∈ cvtCodes, cvtType p.1 = p.2 ∧ ((p.1 == 12) = true ↔ p.2 = .nf) := by decide
  exact htable (c, t) h

theorem CvtType.wide_iff (t : CvtType) : t.wide = true ↔ cvtBits t = 64 := by
  cases t with
  | flt t => exact beq_iff_eq
  | int t => exact beq_iff_eq
  | nf => decide

/-- What CVT gives a lane, in the words of the statement. -/
theorem cvtOp_lane {h : Hdr} {f : VFields} {src dst : CvtType} (hsrc : cvtType (f.c.toNat % 16) = src)
    (hdst : cvtType (f.c.toNat / 16 % 16) = dst) (w : Wave) (l : Nat) :
    cvtOp h f w l (w.lane l) =
      let desc := nfDesc (srcB h f w (w.lane l) 1 .plain)
      let raw := srcA h f w (w.lane l) (if cvtBits src = 64 then 2 else 1)
        (if src = .flt .f64 then .f64 else if cvtBits src = 64 then .s64 else .plain)
      let x := cvtSource src desc f.fzi raw
      let y := cvtDest dst desc f.rnd f.fzo x.1
      outRegs f.d (if cvtBits dst = 64 then 2 else 1) y.1 (x.2 ||| y.2) := by
  simp only [cvtOp, hsrc, hdst, CvtType.wide_iff, beq_iff_eq]

/-- The branch of `execCvt` without a trap. -/
theorem execCvt_of_none {h : Hdr} {f : VFields} {s : State}
    (hn : (f.c.toNat % 16 == 12 || f.c.toNat / 16 % 16 == 12) = false ∨ s.nfReason h f (fun _ => false) = none) :
    exec (.cvt h f) s = .next (s.vecFixed h (cvtOp h f)) := by
  show execCvt h f s = _
  unfold execCvt
  obtain hn | hn := hn
  · simp [hn]
  · simp [hn]

end Sys2Proof.Machine

namespace Sys2Proof.Safety
open Sys2Proof.Machine

/-- Settles O11: `cvtSource` and `cvtDest` by the types, the trap by the reasons of `nfReason`. -/
theorem conversion : Obligations.Conversion := by
  intro h f s w src dst hw hsrc hdst hboth desc
  obtain ⟨hsrc, hsrc12⟩ := cvtType_of_mem hsrc
  obtain ⟨hdst, hdst12⟩ := cvtType_of_mem hdst
  refine ⟨fun hgood => ?_, fun hnf hbad => ?_⟩
  · have hexec := execCvt_of_none (h := h) (f := f) (s := s) (hgood.imp
      (fun hplain => by simpa [← hsrc12, ← hdst12] using hplain) (fun hvalid => nfReason_none hw hvalid (fun _ _ => rfl)))
    obtain ⟨u, w', hexec, hc⟩ := computes_block hw hexec (cvtOp_lane hsrc hdst w)
    refine ⟨u, w', _, _, hexec, hc, fun l => ?_⟩
    cases dst with
    | flt b => cases src <;> exact ⟨rfl, rfl⟩
    | int b =>
      have hcode (z : Int) :
          ((2 ^ (if b.w = 64 then 64 else 32) : Nat) : Int) ∣ (wrap (if b.w == 64 then 64 else 32) z : Int) - z ∧
            wrap (if b.w == 64 then 64 else 32) z < 2 ^ (if b.w = 64 then 64 else 32) := by
        simp only [beq_iff_eq]
        exact ⟨dvd_wrap_sub _ z, wrap_lt _ z⟩
      cases src <;> exact ⟨(hcode _).1, (hcode _).2, rfl⟩
    | nf =>
      cases src with
      | flt a => exact ⟨rfl, rfl⟩
      | int a => exact ⟨rfl, rfl⟩
      | nf => exact absurd ⟨rfl, rfl⟩ hboth
  · have hcode : (f.c.toNat % 16 == 12 || f.c.toNat / 16 % 16 == 12) = true := by
      rw [Bool.or_eq_true, hsrc12, hdst12]
      exact hnf
    show execCvt h f s = _
    unfold execCvt
    simp only [hcode, if_true, nfReason_invalid hw _ hbad]

end Sys2Proof.Safety
end

section
/-! PROOF. O12: packed blocks and ternary bytes (07 R149, 08 R174, R175). -/

namespace Sys2Proof.Machine

open Sys2Proof.Safety

/-! ### Rows of registers -/

/-- The row that a list of writes to registers in sequence makes. -/
theorem lastReg_row (d n : Nat) (g : Nat → Nat) (r : Nat) :
    lastReg ((List.range n).map (fun j => (d + j, g j))) r = row d ((List.range n).map (fun j => g j % 2 ^ 32)) r := by
  have hrow : row d ((List.range n).map (fun j => g j % 2 ^ 32)) r =
      if d ≤ r ∧ r < d + n then some (g (r - d) % 2 ^ 32) else none := by
    by_cases hlo : d ≤ r
    · by_cases hhi : r < d + n
      · rw [row, if_pos hlo, if_pos ⟨hlo, hhi⟩, List.getElem?_map, List.getElem?_range (by omega), Option.map_some]
      · rw [row, if_pos hlo, if_neg (by omega), List.getElem?_eq_none (by simp; omega)]
    · rw [row, if_neg hlo, if_neg (by omega)]
  rw [hrow]
  clear hrow
  induction n with
  | zero => rw [if_neg (by omega)]; rfl
  | succ n ih =>
    rw [List.range_succ, List.map_append]
    simp only [lastReg, List.reverse_append, List.map_cons, List.map_nil, List.reverse_cons, List.reverse_nil, List.nil_append,
      List.cons_append, List.find?_cons] at ih ⊢
    by_cases hr : d + n = r
    · rw [if_pos (by omega), show r - d = n by omega]
      simp [hr]
    · have hne : (d + n == r) = false := by simpa using hr
      rw [hne, ih]
      by_cases hin : d ≤ r ∧ r < d + n
      · rw [if_pos hin, if_pos (by omega)]
      · rw [if_neg hin, if_neg (by omega)]

/-- 02 R35: an instruction of fixed latency whose lanes write one value to each register of a row. -/
theorem computes_row {s : State} {h : Hdr} {w : Wave} {i : Instr} {op : Wave → Nat → Lane → LaneOut} {d : Nat} {n : Nat → Nat}
    {v : Nat → Nat → Nat} {fl : Nat → Flags} (hw : Issuing s w) (hexec : exec i s = .next (s.vecFixed h op))
    (ho : ∀ l, op w l (w.lane l) = { regs := (List.range (n l)).map (fun j => (d + j, v l j)), preds := [], flags := fl l }) :
    ∃ u w', exec i s = .next u ∧
      Computes s h w (fun l => row d ((List.range (n l)).map (fun j => v l j % 2 ^ 32))) noPred fl u w' := by
  obtain ⟨w', hc⟩ := vecFixed_computes s h w op hw
  have hreg : (fun l => lastReg (op w l (w.lane l)).regs) = fun l => row d ((List.range (n l)).map (fun j => v l j % 2 ^ 32)) := by
    funext l r
    rw [ho]
    exact lastReg_row d (n l) (v l) r
  have hpred : (fun l => lastPred (op w l (w.lane l)).preds) = noPred := by
    funext l p
    rw [ho]
    exact lastPred_nil p
  have hflag : (fun l => (op w l (w.lane l)).flags) = fl := by
    funext l
    rw [ho]
  rw [hreg, hpred, hflag] at hc
  exact ⟨_, w', hexec, hc⟩

/-! ### Flags of several elements -/

theorem foldl_or_getLsbD {α : Type} (g : α → Flags) (l : List α) (i : Nat) :
    (l.foldl (fun a x => a ||| g x) 0).getLsbD i = true ↔ ∃ x ∈ l, (g x).getLsbD i = true :=
  (foldl_flags_getLsbD (fun a x => by rw [BitVec.getLsbD_or, Bool.or_eq_true]) l 0).trans (by simp)

theorem foldl_or_flagIf {α : Type} (p : α → Bool) (k : Flags) (l : List α) (a : Flags) :
    l.foldl (fun a x => a ||| flagIf (p x) k) a = a ||| flagIf (l.any p) k := by
  induction l generalizing a with
  | nil => simp [flagIf]
  | cons x l ih =>
    rw [List.foldl_cons, ih, List.any_cons]
    cases p x <;> cases l.any p <;> simp [flagIf, BitVec.or_assoc]

/-! ### PACK and UNPACK -/

theorem IFmt.clamp_of_has {t : IFmt} {x : Int} (hx : t.has x = true) : t.clamp x = x := by
  rw [IFmt.has_iff] at hx
  rw [IFmt.clamp, if_neg (by omega), if_neg (by omega)]

theorem packNf_flags {h : Hdr} {f : VFields} {w : Wave} {l : Nat} {ln : Lane} (i : Nat) :
    let d := nfDesc (srcB h f w ln 1 .plain)
    let x (j : Nat) : Val := fdecode .f32 (flushIn .f32 f.fzi (ln.vr (f.a.toNat + j)))
    (packNf h f w l ln).flags.getLsbD i = true ↔
      ∃ j < 32 / d.n, ((nfEncode d (x j) f.rnd).2 ||| if (x j).isSNaN then fNV else 0#8).getLsbD i = true := by
  intro d x
  simp only [packNf, outRegs, List.foldl_map, foldl_or_getLsbD, List.mem_range]
  rfl

/-- 08 R174: PACK.NF, as one register of k codes. -/
theorem packNf_lane (h : Hdr) (f : VFields) (w : Wave) (l : Nat) (ln : Lane) :
    let d := nfDesc (srcB h f w ln 1 .plain)
    let x (j : Nat) : Val := fdecode .f32 (flushIn .f32 f.fzi (ln.vr (f.a.toNat + j)))
    packNf h f w l ln =
      outRegs f.d 1 ((List.range (32 / d.n)).map (fun j => (nfEncode d (x j) f.rnd).1 * 2 ^ (j * d.n))).sum (packNf h f w l ln).flags := by
  intro d x
  simp only [packNf, List.foldl_map, foldl_add_eq_sum, zero_add]
  rfl

/-- 08 R174: PACK.INT, as one register of k fields. -/
theorem packInt_lane (f : VFields) (ln : Lane) :
    let t : IFmt := { w := 2 ^ (f.c.toNat % 8), signed := f.c.getLsbD 3 }
    let x (j : Nat) : Int := i32.read (ln.vr (f.a.toNat + j))
    packInt f ln =
      outRegs f.d 1 ((List.range (32 / t.w)).map (fun j => wrap t.w (if f.sat then t.clamp (x j) else x j) * 2 ^ (j * t.w))).sum
        (if f.sat && (List.range (32 / t.w)).any (fun j => !t.has (x j)) then fSATD else 0#8) := by
  intro t x
  have hvalue (j : Nat) : (if f.sat then t.clamp (x j) else x j) = if (f.sat && !t.has (x j)) = true then t.clamp (x j) else x j := by
    cases f.sat
    · rfl
    · cases hx : t.has (x j)
      · rfl
      · exact IFmt.clamp_of_has hx
  have hflag (l : List Nat) : l.any (fun j => f.sat && !t.has (x j)) = (f.sat && l.any (fun j => !t.has (x j))) := by
    cases f.sat <;> simp
  have hfold := foldl_or_flagIf (fun j => f.sat && !t.has (x j)) fSATD (List.range (32 / t.w)) 0
  rw [hflag, show (0 : Flags) = 0#8 from rfl, BitVec.zero_or] at hfold
  show _ = outRegs f.d 1 _ (flagIf (f.sat && (List.range (32 / t.w)).any (fun j => !t.has (x j))) fSATD)
  rw [← hfold]
  simp only [hvalue]
  simp only [packInt, List.foldl_map, foldl_add_eq_sum, zero_add]
  rfl

/-- The branches of `execPack` and `execUnpack`. -/
theorem execPack_trap {h : Hdr} {f : VFields} {s : State} {r : Nat} (hsub : f.sub = 0#2)
    (hr : s.nfReason h f (fun k => s.badBlock f.a.toNat k) = some r) : exec (.pack h f) s = .next (s.illegal h (.pack h f) r) := by
  show execPack h f s = _
  simp [execPack, hsub, hr]

theorem execPack_nf {h : Hdr} {f : VFields} {s : State} (hsub : f.sub = 0#2)
    (hr : s.nfReason h f (fun k => s.badBlock f.a.toNat k) = none) : exec (.pack h f) s = .next (s.vecFixed h (packNf h f)) := by
  show execPack h f s = _
  simp [execPack, hsub, hr]

theorem execUnpack_trap {h : Hdr} {f : VFields} {s : State} {r : Nat} (hsub : f.sub = 0#2)
    (hr : s.nfReason h f (fun k => s.badBlock f.d.toNat k) = some r) : exec (.unpack h f) s = .next (s.illegal h (.unpack h f) r) := by
  show execUnpack h f s = _
  simp [execUnpack, hsub, hr]

theorem execUnpack_nf {h : Hdr} {f : VFields} {s : State} (hsub : f.sub = 0#2)
    (hr : s.nfReason h f (fun k => s.badBlock f.d.toNat k) = none) : exec (.unpack h f) s = .next (s.vecFixed h (unpackNf h f)) := by
  show execUnpack h f s = _
  simp [execUnpack, hsub, hr]

/-! ### Ternary bytes -/

/-- The value of digit `d` of a ternary byte (07 R149). -/
def tritValue (d : Nat) : Int := if d = 0 then 0 else if d = 1 then 1 else -1

/-- 07 R149: the five values of a byte, zeros for a reserved one. -/
theorem triDecode_eq (b : Nat) :
    triDecode b = ((List.range 5).map (fun j => if b < 243 then tritValue (b / 3 ^ j % 3) else 0), decide (243 ≤ b)) := by
  unfold triDecode
  split
  next hb => simp [hb, tritValue]
  next hb => simp [show 243 ≤ b by omega]

/-- Four rows of five are twenty. -/
theorem flatMap_five {α : Type} (F : Nat → Nat → α) :
    (List.range 4).flatMap (fun m => (List.range 5).map (F m)) = (List.range 20).map (fun i => F (i / 5) (i % 5)) := rfl

theorem wrap_tritValue (d : Nat) : wrap 32 (tritValue d) = if d = 0 then 0 else if d = 1 then 1 else 2 ^ 32 - 1 := by
  unfold tritValue
  split
  · rfl
  · split <;> rfl

/-- 08 R175: four bytes of five digits, as one sum over the twenty elements. -/
theorem sum_of_bytes (d : Nat → Nat) :
    (List.range 4).foldl (fun a m => a + (List.range 5).foldl (fun a j => a + d (5 * m + j) * 3 ^ j) 0 * 256 ^ m) 0 =
      ((List.range 20).map (fun j => d j * 3 ^ (j % 5) * 256 ^ (j / 5))).sum := by
  have hplace (i : Nat) : d i * 3 ^ (i % 5) * 256 ^ (i / 5) = d (5 * (i / 5) + i % 5) * 3 ^ (i % 5) * 256 ^ (i / 5) := by
    rw [Nat.div_add_mod]
  simp only [hplace]
  rw [← flatMap_five (fun m j => d (5 * m + j) * 3 ^ j * 256 ^ m)]
  simp only [foldl_add_eq_sum, zero_add, List.flatMap_def, List.sum_flatten, List.map_map, Function.comp_def,
    List.sum_map_mul_right]

/-- 08 R175: what TRIUNPK gives a lane, in the words of the statement. -/
theorem triunpkOp_lane (f : VFields) (w : Wave) (l : Nat) (ln : Lane) :
    let byte (m : Nat) : Nat := ln.vr f.a.toNat / 256 ^ m % 256
    triunpkOp f w l ln =
      { regs := (List.range 20).map (fun j =>
          (f.d.toNat + j, wrap 32 (if byte (j / 5) < 243 then tritValue (byte (j / 5) / 3 ^ (j % 5) % 3) else 0)))
        preds := [], flags := if (List.range 4).any (fun m => decide (243 ≤ byte m)) then fBADCODE else 0#8 } := by
  intro byte
  have hvals : ((List.range 4).map (fun m => triDecode (byte m))).flatMap (·.1) = (List.range 20).map (fun j =>
      if byte (j / 5) < 243 then tritValue (byte (j / 5) / 3 ^ (j % 5) % 3) else 0) := by
    rw [← flatMap_five (fun m j => if byte m < 243 then tritValue (byte m / 3 ^ j % 3) else 0)]
    simp only [triDecode_eq, List.flatMap_map]
  have hregs : (List.range 20).map (fun i => (f.d.toNat + i, wrap 32
        ((((List.range 4).map (fun m => triDecode (byte m))).flatMap (·.1)).getD i 0))) = (List.range 20).map (fun j =>
      (f.d.toNat + j, wrap 32 (if byte (j / 5) < 243 then tritValue (byte (j / 5) / 3 ^ (j % 5) % 3) else 0))) := by
    refine List.map_congr_left fun j hj => ?_
    rw [hvals, List.getD_eq_getElem?_getD, List.getElem?_map, List.getElem?_range (List.mem_range.mp hj)]
    rfl
  have hflags : ((List.range 4).map (fun m => triDecode (byte m))).any (·.2) = (List.range 4).any (fun m => decide (243 ≤ byte m)) := by
    simp only [triDecode_eq, List.any_map]
    rfl
  show LaneOut.mk _ _ _ = _
  rw [hregs, hflags]
  rfl

end Sys2Proof.Machine

namespace Sys2Proof.Safety
open Sys2Proof.Machine

theorem packAndUnpack : Claims.PackAndUnpack := by
  intro h f s w hw desc per a good bad
  refine ⟨fun hsub => ⟨⟨fun hbad => ?_, fun hvalid hbad => ?_⟩, ⟨fun hbad => ?_, fun hvalid hbad => ?_⟩, fun hgood => ?_, fun hgood => ?_⟩,
    fun hsub => ?_⟩
  · exact execPack_trap hsub (nfReason_invalid hw _ hbad)
  · exact execPack_trap hsub (nfReason_block hw hvalid hbad)
  · exact execUnpack_trap hsub (nfReason_invalid hw _ hbad)
  · exact execUnpack_trap hsub (nfReason_block hw hvalid hbad)
  · obtain ⟨u, w', hexec, hc⟩ := computes_block hw
      (execPack_nf hsub (nfReason_none hw (fun l hl => (hgood l hl).1) fun l hl => (hgood l hl).2)) fun l => packNf_lane h f w l (w.lane l)
    exact ⟨u, w', _, _, hexec, hc, fun l => ⟨rfl, packNf_flags⟩⟩
  · obtain ⟨u, w', hexec, hc⟩ := computes_row (d := f.d.toNat) (n := per) hw
      (execUnpack_nf hsub (nfReason_none hw (fun l hl => (hgood l hl).1) fun l hl => (hgood l hl).2)) (fun l => by
        simp only [unpackNf, List.map_map]
        rfl)
    refine ⟨u, w', _, hexec, hc, fun l i => ?_⟩
    simp only [List.foldl_map, foldl_or_getLsbD, List.mem_range]
    rfl
  · intro t cl
    have hsub' : (f.sub == 0#2) = false := by rw [hsub]; rfl
    refine ⟨?_, ?_⟩
    · refine computes_block (op := fun _ _ ln => packInt f ln) hw (show execPack h f s = _ by simp [execPack, hsub']) fun l => ?_
      exact packInt_lane f (w.lane l)
    · obtain ⟨u, w', hexec, hc⟩ := computes_row (h := h) (i := .unpack h f) (op := fun _ _ ln => unpackInt f ln) (fl := noFlag) hw
        (show execUnpack h f s = _ by simp [execUnpack, hsub']) (fun l => rfl)
      refine ⟨u, w', hexec, ?_⟩
      have hmod (z : Int) : wrap 32 z % 2 ^ 32 = (z % 2 ^ 32).toNat := Nat.mod_eq_of_lt (wrap_lt 32 z)
      simp only [hmod] at hc
      exact hc

theorem ternaryBytes : Claims.TernaryBytes := by
  intro h f s w hw x digit byte value
  refine ⟨?_, ?_⟩
  · refine computes_block hw rfl fun l => ?_
    have hdigit (z : Int) : triDigit z = digit z := by simp only [triDigit, digit, beq_iff_eq, gt_iff_lt]
    rw [← sum_of_bytes (fun j => digit (x l j))]
    simp only [← hdigit]
    rfl
  · obtain ⟨u, w', hexec, hc⟩ := computes_row (i := .triunpk h f) hw rfl (fun l => triunpkOp_lane f w l (w.lane l))
    refine ⟨u, w', hexec, ?_⟩
    have hvalue (p : Prop) [Decidable p] (d : Nat) : wrap 32 (if p then tritValue d else 0) % 2 ^ 32 = if p then value d else 0 := by
      rw [Nat.mod_eq_of_lt (wrap_lt 32 _)]
      split
      · exact wrap_tritValue d
      · rfl
    simp only [hvalue] at hc
    exact hc

/-- Settles O12: codes and fields by sums of places, traps by the reasons of `nfReason`, ternary bytes by `triDecode_eq`. -/
theorem packedBlocks : Obligations.PackedBlocks := ⟨packAndUnpack, ternaryBytes⟩

end Sys2Proof.Safety
end

section
/-! PROOF. O13: the exchange of lanes and the queries of predicates (08 R176 to R178, R182). -/

namespace Sys2Proof.Machine

open Sys2Proof.Safety

/-- 08 R176: the contributors. -/
theorem contributors_getLsbD {s : State} {w : Wave} (hw : Issuing s w) (h : Hdr) (l : Nat) :
    (s.contributors h).getLsbD l = gives s h w l := by
  rw [State.contributors, State.curWave_eq s w hw, BitVec.getLsbD_and, takes_eq s h w l hw, BitVec.getLsbD_not, gives]
  by_cases hl : l < 64
  · simp [hl]
  · have hout : takes s h w l = false := by rw [takes, BitVec.getLsbD_of_ge _ _ (by omega), Bool.false_and]
    simp [hout]

theorem mem_contributors {s : State} {w : Wave} (hw : Issuing s w) (h : Hdr) (l : Nat) :
    l ∈ lanesOf (s.contributors h) ↔ gives s h w l = true := by
  rw [lanesOf_mem, contributors_getLsbD hw]

/-- 08 R177: what LXCH gives a lane. -/
theorem lxchOp_lane {s : State} {h : Hdr} {f : VFields} {w : Wave} {src : Nat → Nat → Int} (hw : Issuing s w)
    (hsrc : ∀ l b, lxchSource f.sub l b = src l b) (width l : Nat) :
    lxchOp h f width (s.part h) w l (w.lane l) = outRegs f.d 1
      (if 0 ≤ src l (intB h f w 32 l) ∧ src l (intB h f w 32 l) < width ∧ takes s h w (src l (intB h f w 32 l)).toNat = true
        then (w.lane (src l (intB h f w 32 l)).toNat).vr f.a.toNat else intC f w 32 l) := by
  have hb : srcB h f w (w.lane l) 1 .plain = intB h f w 32 l := rfl
  simp only [lxchOp, hb, hsrc, takes_eq s h w _ hw, Bool.and_eq_true, decide_eq_true_eq, and_assoc]
  split <;> rfl

/-- A source that is no vector register is the same in every lane. -/
theorem readSrc_of_ne_vec {k : Kind} (hk : k ≠ .vec) (idx : BitVec 9) (w : Wave) (x y : Lane) (n : Nat) (ty : ImmTy) (imm : Nat) :
    readSrc k idx w x n ty imm = readSrc k idx w y n ty imm := by
  cases k with
  | vec => exact absurd rfl hk
  | sca => rfl
  | zero => rfl
  | imm => rfl

/-- An instruction that changes some registers of its wave's lanes and moves on. -/
theorem lanes_finish {s t : State} {h : Hdr} {w y : Wave} {g : Wave → Wave} (hw : Issuing s w)
    (ht : t = s.updCur fun x => { (g x).goto s.cur.mask (s.nextPc h) with runEnd := (g x).runEnd || h.sw, prog := none, xl := [] })
    (hg : g w = y) (hlen : y.lanes.length = w.lanes.length)
    (hlane : ∀ l, l < w.lanes.length → { y.lane l with v := (w.lane l).v } = w.lane l) (hrest : { y with lanes := w.lanes } = w) :
    ∃ w', t.wave? s.curRef = some w' ∧ (∀ l r, (w'.lane l).vr r = (y.lane l).vr r) ∧
      (∀ l p, l < w.lanes.length → (w'.lane l).pred p = (w.lane l).pred p) ∧ Moves s h w w' ∧ Ends h w w' ∧
      { w' with lanes := w.lanes, runEnd := w.runEnd, prog := w.prog, xl := w.xl } = w ∧ Elsewhere s t := by
  have hmoves := goto_moves s h w y hlen fun l hl => congrArg (fun x : Lane => { x with p := (w.lane l).p }) (hlane l hl)
  have hrun : y.runEnd = w.runEnd := (congrArg Wave.runEnd hrest :)
  refine ⟨{ y.goto s.cur.mask (s.nextPc h) with runEnd := y.runEnd || h.sw, prog := none, xl := [] }, ?_, fun l r => ?_, fun l p hl => ?_,
    ⟨hmoves.count, hmoves.pc, hmoves.lane⟩, ⟨by rw [← hrun], rfl⟩, ?_, ?_⟩
  · rw [ht, State.wave?_updCur s _ w hw, hg]
  · show ((y.goto _ _).lane l).vr r = _
    rw [Wave.lane_goto]
    split <;> rfl
  · have hp : (y.lane l).p = (w.lane l).p := (congrArg Lane.p (hlane l hl) :)
    show ((y.goto _ _).lane l).pred p = _
    rw [Wave.lane_goto]
    split <;> rw [Lane.pred, Lane.pred, ← hp]
  · exact congrArg (fun x : Wave => { x with runEnd := w.runEnd, prog := w.prog, xl := w.xl }) hrest
  · rw [ht]
    exact Elsewhere.updCur s _

theorem one_shiftLeft_getLsbD {k : Nat} (hk : k < 64) (l : Nat) : (1#64 <<< k).getLsbD l = true ↔ l = k := by
  rw [BitVec.getLsbD_shiftLeft]
  simp only [BitVec.getLsbD_one, Bool.and_eq_true, decide_eq_true_eq, Bool.not_eq_true', decide_eq_false_iff_not]
  omega

/-- A lane after a change of one lane. -/
theorem Wave.lane_updLanes_one (w : Wave) {k : Nat} (hk : k < 64) (g : Nat → Lane → Lane) (l : Nat) :
    (w.updLanes (1#64 <<< k) g).lane l = if l < w.lanes.length ∧ l = k then g l (w.lane l) else w.lane l := by
  simp only [Wave.lane_updLanes, one_shiftLeft_getLsbD hk]

/-- 08 R182: some lane takes part. -/
theorem part_ne_zero_iff {s : State} {w : Wave} (hw : Issuing s w) (h : Hdr) :
    s.part h ≠ 0 ↔ (List.range 64).any (takes s h w) = true := by
  rw [List.any_eq_true, ne_eq, BitVec.eq_of_getLsbD_eq_iff, not_forall]
  constructor
  · rintro ⟨l, hl⟩
    rw [Classical.not_imp] at hl
    exact ⟨l, List.mem_range.mpr hl.1, by simpa [takes_eq s h w l hw] using hl.2⟩
  · rintro ⟨l, hl, ht⟩
    refine ⟨l, fun hn => ?_⟩
    have := hn (List.mem_range.mp hl)
    rw [takes_eq s h w l hw, ht] at this
    simp at this

/-! ### PQRY -/

/-- The result of PQRY over the contributors `c` (08 R178). -/
def pqryOut (f : VFields) (w : Wave) (c : List Nat) : LaneOut :=
  let val (l : Nat) : Bool := (w.lane l).pred (f.a.toNat % 8) != f.a.getLsbD 3
  if f.sub == 0#2 then outPred (f.d.toNat % 8) (c.all val)
  else if f.sub == 1#2 then outPred (f.d.toNat % 8) (c.any val)
  else if f.sub == 2#2 then outRegs f.d 2 (ofBits 64 (fun l => c.elem l && val l))
  else outPred (f.d.toNat % 8) (c.all val || c.all (fun l => !val l))

theorem execPqry_eq {s : State} {w : Wave} (hw : Issuing s w) (h : Hdr) (f : VFields) :
    exec (.pqry h f) s = .next (s.vecFixed h fun _ _ _ => pqryOut f w (lanesOf (s.contributors h))) := by
  show execPqry h f s = _
  rw [execPqry, State.curWave_eq s w hw]
  rfl

theorem all_or_all_not_iff {α : Type} (l : List α) (p : α → Bool) :
    (l.all p || l.all (fun x => !p x)) = true ↔ ∀ x ∈ l, ∀ y ∈ l, (p x = true ↔ p y = true) := by
  simp only [Bool.or_eq_true, List.all_eq_true, Bool.not_eq_true']
  constructor
  · rintro (hall | hnone) x hx y hy
    · simp [hall x hx, hall y hy]
    · simp [hnone x hx, hnone y hy]
  · intro hsame
    by_cases hex : ∃ x ∈ l, p x = true
    · obtain ⟨x, hx, hp⟩ := hex
      exact .inl fun y hy => (hsame x hx y hy).mp hp
    · exact .inr fun y hy => Bool.eq_false_iff.mpr fun hp => hex ⟨y, hy, hp⟩

end Sys2Proof.Machine

namespace Sys2Proof.Safety
open Sys2Proof.Machine

/-- 08 R182: LWRITE. -/
theorem lwrite_spec {s : State} {h : Hdr} {f : VFields} {w : Wave} (hw : Issuing s w) (hwidth : s.curTeam.width ≤ 64)
    (hka : f.ka ≠ .vec) (hkb : f.kb ≠ .vec) :
    ∃ (u : State) (w' : Wave), exec (.lwrite h f) s = .next u ∧ u.wave? s.curRef = some w' ∧
      (∀ l r, l < w.lanes.length → (w'.lane l).vr r =
        if (List.range 64).any (takes s h w) = true ∧ l = intB h f w 32 0 ∧ l < s.curTeam.width ∧ r = f.d.toNat then intA h f w 32 0 % 2 ^ 32
        else (w.lane l).vr r) ∧
      (∀ l p, l < w.lanes.length → (w'.lane l).pred p = (w.lane l).pred p) ∧ Moves s h w w' ∧ Ends h w w' ∧
      { w' with lanes := w.lanes, runEnd := w.runEnd, prog := w.prog, xl := w.xl } = w ∧ Elsewhere s u := by
  have ha : srcA h f w Lane.reset 1 .plain = intA h f w 32 0 := readSrc_of_ne_vec hka _ _ _ _ _ _ _
  have hb : srcB h f w Lane.reset 1 .plain = intB h f w 32 0 := readSrc_of_ne_vec hkb _ _ _ _ _ _ _
  have hexec : exec (.lwrite h f) s = if s.part h == 0 || decide (intB h f w 32 0 ≥ s.curTeam.width) then .next (s.finish h)
      else .next ((s.updCur (fun x => x.updLanes (1#64 <<< intB h f w 32 0) (fun _ ln => ln.setV f.d.toNat (intA h f w 32 0)))).finish h) := by
    show execLwrite h f s = _
    simp only [execLwrite, State.curWave_eq s w hw, ha, hb]
  by_cases hidle : (s.part h == 0 || decide (intB h f w 32 0 ≥ s.curTeam.width)) = true
  · obtain ⟨w', hhere, hregs, hkept⟩ := lanes_finish (h := h) (g := id) hw rfl rfl rfl (fun _ _ => rfl) rfl
    have hnone (l r : Nat) :
        ¬ ((List.range 64).any (takes s h w) = true ∧ l = intB h f w 32 0 ∧ l < s.curTeam.width ∧ r = f.d.toNat) := by
      rintro ⟨hany, rfl, hin, -⟩
      rw [← part_ne_zero_iff hw] at hany
      rw [Bool.or_eq_true, beq_iff_eq, decide_eq_true_eq] at hidle
      exact hidle.elim hany (by omega)
    exact ⟨_, w', hexec.trans (if_pos hidle), hhere, fun l r _ => by rw [hregs, if_neg (hnone l r)]; rfl, hkept⟩
  · have hbusy := hidle
    rw [Bool.or_eq_true, beq_iff_eq, decide_eq_true_eq, not_or] at hbusy
    obtain ⟨hpart, hin⟩ := hbusy
    have hlane := w.lane_updLanes_one (k := intB h f w 32 0) (by omega) (fun _ ln => ln.setV f.d.toNat (intA h f w 32 0))
    obtain ⟨w', hhere, hregs, hkept⟩ := lanes_finish (h := h)
      (g := fun x => x.updLanes (1#64 <<< intB h f w 32 0) (fun _ ln => ln.setV f.d.toNat (intA h f w 32 0)))
      hw (updCur_finish s h _) rfl (w.updLanes_length _ _)
      (fun l hl => by
        rw [hlane]
        split <;> rfl) rfl
    refine ⟨_, w', hexec.trans (if_neg hidle), hhere, fun l r hl => ?_, hkept⟩
    rw [hregs, hlane]
    have hany := (part_ne_zero_iff hw h).mp hpart
    by_cases he : l = intB h f w 32 0
    · rw [if_pos ⟨hl, he⟩, Lane.vr_setV]
      by_cases hr : r = f.d.toNat
      · rw [if_pos hr, if_pos ⟨hany, he, by omega, hr⟩]
      · rw [if_neg hr, if_neg (fun q => hr q.2.2.2)]
    · rw [if_neg (fun q => he q.2), if_neg (fun q => he q.2.1)]

theorem exchangeReadAndWrite : Claims.LaneExchange := by
  intro h f s w hw hwidth
  refine ⟨fun src hsrc => ?_, computes_block hw rfl fun l => ?_, lwrite_spec hw hwidth⟩
  · intro k
    have hsource (l b : Nat) : lxchSource f.sub l b = src l b := by
      obtain ⟨hsub, rfl⟩ | ⟨hsub, rfl⟩ | ⟨hsub, rfl⟩ | ⟨hsub, rfl⟩ := mem_four_subs hsrc <;> rw [lxchSource, hsub] <;> rfl
    refine computes_block (op := lxchOp h f s.curTeam.width (s.part h)) hw rfl fun l => ?_
    exact lxchOp_lane hw hsource _ l
  · rfl

theorem predicateQueries : Claims.PredicateQueries := by
  intro h f s w hw val c
  have hval (l : Nat) : ((w.lane l).pred (f.a.toNat % 8) != f.a.getLsbD 3) = true ↔ val l := bne_iff_ne
  have hmem (l : Nat) : l ∈ lanesOf (s.contributors h) ↔ c l := mem_contributors hw h l
  have hpred (P : Prop) (b : Bool) (hout : pqryOut f w (lanesOf (s.contributors h)) = outPred (f.d.toNat % 8) b)
      (hb : b = true ↔ P) : ∃ (u : State) (w' : Wave) (b : Bool), exec (.pqry h f) s = .next u ∧
        Computes s h w noReg (fun _ => onePred (f.d.toNat % 8) b) noFlag u w' ∧ (b = true ↔ P) := by
    obtain ⟨u, w', hexec, hc⟩ := computes_pred hw (execPqry_eq hw h f) fun _ => hout
    exact ⟨u, w', b, hexec, hc, hb⟩
  refine ⟨?_, fun hsub => ?_⟩
  · rintro P (⟨hsub, hP⟩ | ⟨hsub, hP⟩ | ⟨hsub, hP⟩)
    · refine hpred P _ (by rw [pqryOut, hsub]; rfl) ?_
      simp only [List.all_eq_true, hmem, hval, hP]
    · refine hpred P _ (by rw [pqryOut, hsub]; rfl) ?_
      simp only [List.any_eq_true, hmem, hval, hP]
    · refine hpred P _ (by rw [pqryOut, hsub]; rfl) ?_
      simp only [all_or_all_not_iff, hmem, hval, hP]
      exact ⟨fun q l m hl hm => q l hl m hm, fun q l hl m hm => q l m hl hm⟩
  · obtain ⟨u, w', hexec, hc⟩ := computes_block (fl := noFlag) (d := f.d) (n := 2) hw (execPqry_eq hw h f) fun _ => by
      rw [pqryOut, hsub]
      rfl
    refine ⟨u, w', _, hexec, hc, ofBits_lt _ _, fun l hl => ?_⟩
    rw [ofBits_testBit]
    simp only [hl, decide_true, Bool.true_and, Bool.and_eq_true, List.elem_iff, hmem, hval]

/-- Settles O13: lane by lane for LXCH and LREAD, `lwrite_spec` for LWRITE, the queries over the contributors. -/
theorem laneExchange : Obligations.LaneExchange := ⟨exchangeReadAndWrite, predicateQueries⟩

end Sys2Proof.Safety
end

section
/-! PROOF. O14: reductions, scans and peers (08 R179 to R181). -/

namespace Sys2Proof.Machine

open Sys2Proof.Safety

theorem lanesOf_contributors {s : State} {w : Wave} (hw : Issuing s w) (h : Hdr) :
    lanesOf (s.contributors h) = (List.range 64).filter (gives s h w) := by
  rw [lanesOf, show (s.contributors h).getLsbD = gives s h w from funext fun l => contributors_getLsbD hw h l]

theorem mem_givers {s : State} {h : Hdr} {w : Wave} (l : Nat) : l ∈ (List.range 64).filter (gives s h w) ↔ gives s h w l = true := by
  rw [List.mem_filter, List.mem_range]
  refine ⟨fun q => q.2, fun q => ⟨?_, q⟩⟩
  by_contra hn
  rw [gives, takes, BitVec.getLsbD_of_ge _ _ (by omega)] at q
  simp at q

/-! ### Integer reductions -/

theorem foldl_intReduce_sum (x : Nat → Nat) (l : List Nat) {a : Nat} (ha : a < 2 ^ 32) :
    l.foldl (fun a k => intReduce 0 a (x k)) a = (a + (l.map x).sum) % 2 ^ 32 := by
  induction l generalizing a with
  | nil => exact (Nat.mod_eq_of_lt ha).symm
  | cons k l ih =>
    have hstep : intReduce 0 a (x k) = (a + x k) % 2 ^ 32 := rfl
    rw [List.foldl_cons, hstep, ih (Nat.mod_lt _ (by decide)), List.map_cons, List.sum_cons, ← Nat.add_assoc]
    exact Nat.mod_add_mod _ _ _

/-- An operation that picks the better of two 32-bit codes under an order, by a key, with a code `e` that is worse than none. -/
structure Picks (op : Nat → Nat → Nat) (le : Nat → Nat → Bool) (key : Nat → Int) (e : Nat) : Prop where
  order : ∀ a b, le a b = true ↔ key a ≤ key b
  least : ∀ a b, (op a b = a ∧ key a ≤ key b) ∨ (op a b = b ∧ key b ≤ key a)
  start : ∀ b < 2 ^ 32, op e b = b

/-- A fold of such an operation keeps the best of the codes it has seen. -/
theorem Picks.foldl_least {op : Nat → Nat → Nat} {le : Nat → Nat → Bool} {key : Nat → Int} {e : Nat} (hp : Picks op le key e)
    (x : Nat → Nat) (l : List Nat) (a : Nat) :
    let r := l.foldl (fun a k => op a (x k)) a
    (r = a ∨ ∃ k ∈ l, r = x k) ∧ key r ≤ key a ∧ ∀ k ∈ l, key r ≤ key (x k) := by
  induction l generalizing a with
  | nil => exact ⟨.inl rfl, le_rfl, fun k hk => absurd hk List.not_mem_nil⟩
  | cons k l ih =>
    obtain ⟨hfrom, hle, hall⟩ := ih (op a (x k))
    rw [List.foldl_cons]
    obtain ⟨he, hkey⟩ | ⟨he, hkey⟩ := hp.least a (x k)
    · rw [he] at hfrom hle hall ⊢
      exact ⟨hfrom.imp_right fun ⟨j, hj, hr⟩ => ⟨j, List.mem_cons_of_mem _ hj, hr⟩, hle,
        List.forall_mem_cons.mpr ⟨hle.trans hkey, hall⟩⟩
    · rw [he] at hfrom hle hall ⊢
      refine ⟨.inr ?_, hle.trans hkey, List.forall_mem_cons.mpr ⟨hle, hall⟩⟩
      obtain hr | ⟨j, hj, hr⟩ := hfrom
      · exact ⟨k, List.mem_cons_self, hr⟩
      · exact ⟨j, List.mem_cons_of_mem _ hj, hr⟩

/-- 08 R179, R180: the reduction over some codes is the best of them. -/
theorem Picks.bestOf {op : Nat → Nat → Nat} {le : Nat → Nat → Bool} {key : Nat → Int} {e : Nat} (hp : Picks op le key e) {x : Nat → Nat}
    (hx : ∀ l, x l < 2 ^ 32) {c : Nat → Bool} {ls : List Nat} (hmem : ∀ l, l ∈ ls ↔ c l = true) :
    BestOf c x le e (ls.foldl (fun a k => op a (x k)) e) := by
  cases ls with
  | nil => exact ⟨fun _ => rfl, fun ⟨l, hl⟩ => absurd ((hmem l).mpr hl) List.not_mem_nil⟩
  | cons k ls =>
    refine ⟨fun hnone => absurd ((hmem k).mp List.mem_cons_self) (by simp [hnone k]), fun _ => ?_⟩
    rw [List.foldl_cons, hp.start _ (hx k)]
    obtain ⟨hfrom, hle, hall⟩ := hp.foldl_least x ls (x k)
    have hleast : ∀ j ∈ k :: ls, key (ls.foldl (fun a k => op a (x k)) (x k)) ≤ key (x j) := List.forall_mem_cons.mpr ⟨hle, hall⟩
    refine ⟨?_, fun l hl => (hp.order _ _).mpr (hleast l ((hmem l).mpr hl))⟩
    obtain hr | ⟨j, hj, hr⟩ := hfrom
    · exact ⟨k, (hmem k).mp List.mem_cons_self, hr⟩
    · exact ⟨j, (hmem j).mp (List.mem_cons_of_mem _ hj), hr⟩

theorem picks_signed_min : Picks (intReduce 1) sle32 i32.read 0x7FFFFFFF where
  order a b := decide_eq_true_iff
  least a b := by
    have hop : intReduce 1 a b = if i32.read a < i32.read b then a else b := ite_cond_congr (by rw [decide_eq_true_eq]; rfl)
    rw [hop]
    obtain hlt | hge := lt_or_ge (i32.read a) (i32.read b)
    · exact .inl ⟨if_pos hlt, hlt.le⟩
    · exact .inr ⟨if_neg (not_lt.mpr hge), hge⟩
  start b _ := by
    have hb := (IFmt.has_iff _ _).mp (i32.has_read (by decide) b)
    have htop : i32.read 0x7FFFFFFF = i32.hi := by decide
    show (if decide (i32.read 0x7FFFFFFF < i32.read b) then 0x7FFFFFFF else b) = b
    rw [if_neg]
    simp only [decide_eq_true_eq]
    omega

theorem picks_signed_max : Picks (intReduce 2) (fun a b => sle32 b a) (fun a => -i32.read a) 0x80000000 where
  order a b := decide_eq_true_iff.trans neg_le_neg_iff.symm
  least a b := by
    have hop : intReduce 2 a b = if i32.read a < i32.read b then b else a := ite_cond_congr (by rw [decide_eq_true_eq]; rfl)
    rw [hop]
    obtain hlt | hge := lt_or_ge (i32.read a) (i32.read b)
    · exact .inr ⟨if_pos hlt, neg_le_neg hlt.le⟩
    · exact .inl ⟨if_neg (not_lt.mpr hge), neg_le_neg hge⟩
  start b hb := by
    have hhas := (IFmt.has_iff _ _).mp (i32.has_read (by decide) b)
    have hlow : i32.read 0x80000000 = i32.lo := by decide
    show (if decide (i32.read 0x80000000 < i32.read b) then b else 0x80000000) = b
    split
    · rfl
    next hlt =>
      simp only [decide_eq_true_eq] at hlt
      have hdvd := i32.dvd_read_sub b
      have hval : i32.read b = -2147483648 := le_antisymm (by rw [hlow] at hlt; exact not_lt.mp hlt) hhas.1
      rw [hval] at hdvd
      change (((2 ^ 32 : Nat)) : Int) ∣ _ at hdvd
      omega

theorem picks_unsigned_min : Picks (intReduce 3) (fun a b => decide (a ≤ b)) (fun a => (a : Int)) 0xFFFFFFFF where
  order a b := decide_eq_true_iff.trans Nat.cast_le.symm
  least a b := by
    show (min a b = a ∧ _) ∨ (min a b = b ∧ _)
    omega
  start b hb := by
    show min 0xFFFFFFFF b = b
    omega

theorem picks_unsigned_max : Picks (intReduce 7) (fun a b => decide (b ≤ a)) (fun a => -(a : Int)) 0 where
  order a b := by
    rw [decide_eq_true_iff]
    omega
  least a b := by
    show (max a b = a ∧ _) ∨ (max a b = b ∧ _)
    omega
  start b _ := Nat.zero_max b

/-! ### The addition tree -/

/-- The sum of two nodes of the tree (08 R179). -/
def addNodes (m : Rnd) (fzo : Bool) (x y : Option Nat × Flags) : Option Nat × Flags :=
  match x.1, y.1 with
  | some a, some b =>
    let v := Val.sum m [fdecode .f32 a, fdecode .f32 b]
    let c := flushOut .f32 fzo (roundTo .f32 m v.1)
    (some c.1, x.2 ||| y.2 ||| c.2 ||| flagIf v.2 fNV)
  | some a, none => (some a, x.2 ||| y.2)
  | none, b => (b, x.2 ||| y.2)

theorem faddLevel_cons_cons (m : Rnd) (fzo : Bool) (x y : Option Nat × Flags) (r : List (Option Nat × Flags)) :
    faddLevel m fzo (x :: y :: r) = addNodes m fzo x y :: faddLevel m fzo r := by
  obtain ⟨x, f⟩ := x
  obtain ⟨y, g⟩ := y
  cases x <;> cases y <;> rfl

theorem addTree_succ (m : Rnd) (fzo : Bool) (leaf : Nat → Option Nat) (k i : Nat) :
    addTree m fzo leaf (k + 1) i = addNodes m fzo (addTree m fzo leaf k (2 * i)) (addTree m fzo leaf k (2 * i + 1)) := by
  rw [addTree, addNodes]
  cases (addTree m fzo leaf k (2 * i)).1 <;> cases (addTree m fzo leaf k (2 * i + 1)).1 <;> rfl

/-- One level of the model's tree adds the nodes in pairs. -/
theorem faddLevel_map (m : Rnd) (fzo : Bool) (g : Nat → Option Nat × Flags) (n i : Nat) :
    faddLevel m fzo ((List.range' (2 * i) (2 * n)).map g) =
      (List.range' i n).map (fun i => addNodes m fzo (g (2 * i)) (g (2 * i + 1))) := by
  induction n generalizing i with
  | zero => rfl
  | succ n ih =>
    have hpair : List.range' (2 * i) (2 * (n + 1)) = 2 * i :: (2 * i + 1) :: List.range' (2 * (i + 1)) (2 * n) := by
      rw [Nat.mul_succ, List.range'_succ, List.range'_succ]
      rfl
    rw [hpair, List.map_cons, List.map_cons, faddLevel_cons_cons, ih, List.range'_succ, List.map_cons]

/-- 08 R179: the model's levels are those of the tree. -/
theorem foldl_faddLevel (m : Rnd) (fzo : Bool) (leaf : Nat → Option Nat) (k n : Nat) :
    (List.range k).foldl (fun t _ => faddLevel m fzo t) ((List.range (2 ^ k * n)).map (addTree m fzo leaf 0)) =
      (List.range n).map (addTree m fzo leaf k) := by
  induction k generalizing n with
  | zero => simp
  | succ k ih =>
    rw [List.range_succ, List.foldl_append, Nat.pow_succ, Nat.mul_assoc, ih, List.foldl_cons, List.foldl_nil, List.range_eq_range',
      faddLevel_map m fzo _ n 0, ← List.range_eq_range']
    exact List.map_congr_left fun i _ => (addTree_succ m fzo leaf k i).symm

/-! ### minimumNumber and maximumNumber (09 R190) -/

/-- The place of a value that is no NaN in the order of minimumNumber: −∞, the numbers with −0 below +0, +∞. -/
def numberRank : Val → ℤ ×ₗ ℚ ×ₗ ℤ
  | .nan _ => toLex (0, toLex (0, 0))
  | .inf s => toLex (if s then -1 else 1, toLex (0, 0))
  | .fin s n d => toLex (0, toLex ((Val.fin s n d).snum / d, if n = 0 ∧ s = false then 1 else 0))

/-- A value whose denominator, if it has one, is positive. -/
def PosDen (v : Val) : Prop := 0 < v.sden

theorem dyadic_posDen (s : Bool) (m : Nat) (e : Int) : PosDen (Val.dyadic s m e) := by
  unfold Val.dyadic
  split
  · exact Nat.two_pow_pos _
  · exact Nat.one_pos

theorem fdecode_posDen (t : Fmt) (c : Nat) : PosDen (fdecode t c) := by
  unfold fdecode
  simp only
  split
  · split <;> exact Nat.one_pos
  · split <;> exact dyadic_posDen _ _ _

theorem ltZ_iff_numberRank {a b : Val} (ha : a.isNaN = false) (hb : b.isNaN = false) (hpa : PosDen a) (hpb : PosDen b) :
    a.ltZ b = true ↔ numberRank a < numberRank b := by
  cases a with
  | nan s => cases ha
  | inf s =>
    cases b with
    | nan t => cases hb
    | inf t => cases s <;> cases t <;> decide
    | fin t m e => cases s <;> simp [numberRank, Val.ltZ, Val.ltB, Val.isZero, Prod.Lex.toLex_lt_toLex]
  | fin s n d =>
    cases b with
    | nan t => cases hb
    | inf t => cases t <;> simp [numberRank, Val.ltZ, Val.ltB, Val.isZero, Prod.Lex.toLex_lt_toLex]
    | fin t m e =>
      have hd : (0 : ℚ) < d := Nat.cast_pos.mpr hpa
      have he : (0 : ℚ) < e := Nat.cast_pos.mpr hpb
      have hlt : (Val.fin s n d).snum * e < (Val.fin t m e).snum * d ↔
          ((Val.fin s n d).snum : ℚ) / d < (Val.fin t m e).snum / e := by
        rw [div_lt_div_iff₀ hd he]
        norm_cast
      have hzero (s : Bool) (n : Nat) {d : ℚ} (hd : 0 < d) (k : Nat) : ((Val.fin s n k).snum : ℚ) / d = 0 ↔ n = 0 := by
        rw [div_eq_zero_iff, or_iff_left hd.ne', Int.cast_eq_zero]
        cases s <;> simp [Val.snum]
      have hn := hzero s n hd d
      have hm := hzero t m he e
      simp only [Val.ltZ, Val.ltB, hlt, numberRank, Prod.Lex.toLex_lt_toLex, lt_irrefl, false_or, true_and, Val.isZero, Val.isNeg,
        Bool.or_eq_true, decide_eq_true_eq, Bool.and_eq_true, beq_iff_eq, Bool.not_eq_true']
      generalize ((Val.fin s n d).snum : ℚ) / d = x at *
      generalize ((Val.fin t m e).snum : ℚ) / e = y at *
      refine or_congr_right ⟨?_, ?_⟩
      · rintro ⟨⟨⟨h0, h1⟩, rfl⟩, rfl⟩
        exact ⟨(hn.mpr h0).trans (hm.mpr h1).symm, by simp [h1]⟩
      · rintro ⟨hxy, hflag⟩
        have hpos : m = 0 ∧ t = false := by
          by_contra hnot
          rw [if_neg hnot] at hflag
          split at hflag <;> omega
        have h0 : n = 0 := hn.mp (hxy.trans (hm.mpr hpos.1))
        have hs : s = true := by
          by_contra hs
          rw [if_pos ⟨h0, Bool.eq_false_iff.mpr hs⟩, if_pos hpos] at hflag
          omega
        exact ⟨⟨⟨h0, hpos.1⟩, hs⟩, hpos.2⟩

/-- Code `a` is no worse than code `b` as the minimum, or as the maximum, of numbers. -/
def NoWorse (mx : Bool) (a b : Nat) : Prop :=
  if mx then numberRank (fdecode .f32 b) ≤ numberRank (fdecode .f32 a) else numberRank (fdecode .f32 a) ≤ numberRank (fdecode .f32 b)

theorem NoWorse.refl (mx : Bool) (a : Nat) : NoWorse mx a a := by
  cases mx <;> exact le_rfl

theorem NoWorse.trans {mx : Bool} {a b c : Nat} (hab : NoWorse mx a b) (hbc : NoWorse mx b c) : NoWorse mx a c := by
  cases mx
  · exact le_trans (α := ℤ ×ₗ ℚ ×ₗ ℤ) hab hbc
  · exact le_trans (α := ℤ ×ₗ ℚ ×ₗ ℤ) hbc hab

theorem noWorse_iff {mx : Bool} {a b : Nat} (ha : (fdecode .f32 a).isNaN = false) (hb : (fdecode .f32 b).isNaN = false) :
    NoWorse mx a b ↔
      (if mx then (fdecode .f32 a).ltZ (fdecode .f32 b) else (fdecode .f32 b).ltZ (fdecode .f32 a)) = false := by
  cases mx
  · rw [NoWorse, if_neg (by decide), if_neg (by decide), ← not_lt, ← ltZ_iff_numberRank hb ha (fdecode_posDen _ _) (fdecode_posDen _ _),
      Bool.not_eq_true]
  · rw [NoWorse, if_pos rfl, if_pos rfl, ← not_lt, ← ltZ_iff_numberRank ha hb (fdecode_posDen _ _) (fdecode_posDen _ _),
      Bool.not_eq_true]

/-- `r` is the best number among some codes, or a NaN when they all are (08 R179). -/
structure BestNumber (mx : Bool) (codes : List Nat) (r : Nat) : Prop where
  mem : r ∈ codes
  nan : (fdecode .f32 r).isNaN = true → ∀ y ∈ codes, (fdecode .f32 y).isNaN = true
  best : ∀ y ∈ codes, (fdecode .f32 y).isNaN = false → NoWorse mx r y

/-- The better of two codes that are numbers. -/
theorem minMaxNum_number {mx : Bool} {a b : Nat} (ha : (fdecode .f32 a).isNaN = false) (hb : (fdecode .f32 b).isNaN = false) :
    (minMaxNum .f32 mx a b = a ∧ NoWorse mx a b) ∨ (minMaxNum .f32 mx a b = b ∧ NoWorse mx b a) := by
  have hop : minMaxNum .f32 mx a b =
      if (fdecode .f32 a).ltZ (fdecode .f32 b) then (if mx then b else a) else (if mx then a else b) := by
    rw [minMaxNum, ha, hb]
    rfl
  have hlt := ltZ_iff_numberRank ha hb (fdecode_posDen _ _) (fdecode_posDen _ _)
  rw [hop]
  by_cases hab : (fdecode .f32 a).ltZ (fdecode .f32 b) = true
  · rw [if_pos hab]
    have hle := (hlt.mp hab).le
    cases mx
    · exact .inl ⟨rfl, hle⟩
    · exact .inr ⟨rfl, hle⟩
  · rw [if_neg hab]
    have hle := not_lt.mp (mt hlt.mpr hab)
    cases mx
    · exact .inr ⟨rfl, hle⟩
    · exact .inl ⟨rfl, hle⟩

theorem BestNumber.add {mx : Bool} {codes : List Nat} {r : Nat} (hr : BestNumber mx codes r) (b : Nat) :
    BestNumber mx (codes ++ [b]) (minMaxNum .f32 mx r b) := by
  have hlast : b ∈ codes ++ [b] := List.mem_append_right _ List.mem_cons_self
  have hall {p : Nat → Prop} (h1 : ∀ y ∈ codes, p y) (h2 : p b) : ∀ y ∈ codes ++ [b], p y :=
    List.forall_mem_append.mpr ⟨h1, List.forall_mem_singleton.mpr h2⟩
  by_cases hrn : (fdecode .f32 r).isNaN = true
  · have hop : minMaxNum .f32 mx r b = b := by rw [minMaxNum, hrn]; rfl
    rw [hop]
    exact ⟨hlast, fun hb => hall (hr.nan hrn) hb,
      hall (fun y hy hny => absurd (hr.nan hrn y hy) (by simp [hny])) fun _ => NoWorse.refl mx b⟩
  rw [Bool.not_eq_true] at hrn
  by_cases hbn : (fdecode .f32 b).isNaN = true
  · have hop : minMaxNum .f32 mx r b = r := by rw [minMaxNum, hrn, hbn]; rfl
    rw [hop]
    exact ⟨List.mem_append_left _ hr.mem, fun h => absurd h (by simp [hrn]), hall hr.best fun h => absurd hbn (by simp [h])⟩
  rw [Bool.not_eq_true] at hbn
  obtain ⟨hop, hle⟩ | ⟨hop, hle⟩ := minMaxNum_number (mx := mx) hrn hbn <;> rw [hop]
  · exact ⟨List.mem_append_left _ hr.mem, fun h => absurd h (by simp [hrn]), hall hr.best fun _ => hle⟩
  · exact ⟨hlast, fun h => absurd h (by simp [hbn]), hall (fun y hy hny => hle.trans (hr.best y hy hny)) fun _ => NoWorse.refl mx b⟩

theorem BestNumber.foldl {mx : Bool} (x : Nat → Nat) (l : List Nat) {codes : List Nat} {r : Nat} (hr : BestNumber mx codes r) :
    BestNumber mx (codes ++ l.map x) (l.foldl (fun a k => minMaxNum .f32 mx a (x k)) r) := by
  induction l generalizing codes r with
  | nil => simpa using hr
  | cons k l ih => simpa using ih (hr.add (x k))

/-- The fold of the model, which begins with no code. -/
theorem foldl_minMaxNum_some (mx : Bool) (x : Nat → Nat) (l : List Nat) (a : Nat) :
    l.foldl (fun (a : Option Nat) k => match a with
      | none => some (x k)
      | some y => some (minMaxNum .f32 mx y (x k))) (some a) = some (l.foldl (fun a k => minMaxNum .f32 mx a (x k)) a) := by
  induction l generalizing a with
  | nil => rfl
  | cons k l ih => rw [List.foldl_cons, ih, List.foldl_cons]

/-! ### WRED, by its variant -/

/-- NV of a signalling NaN among the contributors' codes (07 R143). -/
def snanOf (f : VFields) (w : Wave) (c : List Nat) : Flags :=
  flagIf (c.any (fun l => (fdecode .f32 (flushIn .f32 f.fzi ((w.lane l).vr f.a.toNat))).isSNaN)) fNV

section
variable {f : VFields} (w : Wave) (c : List Nat)

theorem wredValue_int {code : Nat} (hsub : f.sub = 0#2) (hcode : f.c.toNat % 8 = code) :
    wredValue f w c = (c.foldl (fun a l => intReduce code a ((w.lane l).vr f.a.toNat)) (intIdentity code), 0#8) := by
  subst hcode
  rw [wredValue, hsub]
  rfl

theorem wredValue_exact (k : Nat) (hsub : f.sub = 2#2) :
    wredValue f w (k :: c) =
      let r := xaccRound ((k :: c).foldl (fun a l => xaccAdd a (fdecode .f32 (flushIn .f32 f.fzi ((w.lane l).vr f.a.toNat)))) 0)
        .f32 f.rnd f.fzo
      (r.1, r.2 ||| snanOf f w (k :: c)) := by
  rw [wredValue, hsub]
  rfl

theorem wredValue_exact_nil (hsub : f.sub = 2#2) : wredValue f w [] = (0, 0#8) := by
  rw [wredValue, hsub]
  rfl

theorem wredValue_number_nil (hsub : f.sub = 3#2) : wredValue f w [] = (Fmt.f32.canonNaN, 0#8) := by
  rw [wredValue, hsub]
  rfl

theorem wredValue_number (k : Nat) (hsub : f.sub = 3#2) :
    wredValue f w (k :: c) =
      let r := c.foldl (fun a l => minMaxNum .f32 (f.c.getLsbD 0) a ((w.lane l).vr f.a.toNat)) ((w.lane k).vr f.a.toNat)
      (if (fdecode .f32 r).isNaN then Fmt.f32.canonNaN else r, snanOf f w (k :: c)) := by
  rw [wredValue, hsub]
  exact congrArg (fun r : Option Nat => match r with
    | none => (Fmt.f32.canonNaN, 0#8)
    | some x => (if (fdecode .f32 x).isNaN then Fmt.f32.canonNaN else x, snanOf f w (k :: c)))
    (foldl_minMaxNum_some (f.c.getLsbD 0) (fun l => (w.lane l).vr f.a.toNat) c ((w.lane k).vr f.a.toNat))

/-- 08 R179: WRED.MIN and .MAX of F32 numbers: the best of them, or the canonical NaN when none is a number. -/
theorem wredValue_number_spec (hsub : f.sub = 3#2) :
    ((∀ l ∈ c, (fdecode .f32 ((w.lane l).vr f.a.toNat)).isNaN = true) → wredValue f w c = (Fmt.f32.canonNaN, snanOf f w c)) ∧
    ((∃ l ∈ c, (fdecode .f32 ((w.lane l).vr f.a.toNat)).isNaN = false) → ∃ v, wredValue f w c = (v, snanOf f w c) ∧
      (fdecode .f32 v).isNaN = false ∧ BestNumber (f.c.getLsbD 0) (c.map fun l => (w.lane l).vr f.a.toNat) v) := by
  cases c with
  | nil => exact ⟨fun _ => wredValue_number_nil w hsub, fun ⟨l, hl, _⟩ => absurd hl List.not_mem_nil⟩
  | cons k c =>
    have hone : BestNumber (f.c.getLsbD 0) [(w.lane k).vr f.a.toNat] ((w.lane k).vr f.a.toNat) :=
      ⟨List.mem_cons_self, fun hk => List.forall_mem_singleton.mpr hk, List.forall_mem_singleton.mpr fun _ => NoWorse.refl _ _⟩
    have hbest := BestNumber.foldl (fun l => (w.lane l).vr f.a.toNat) c hone
    have hvalue := wredValue_number w c k hsub
    rw [List.singleton_append, ← List.map_cons (f := fun l => (w.lane l).vr f.a.toNat)] at hbest
    generalize c.foldl (fun a l => minMaxNum .f32 (f.c.getLsbD 0) a ((w.lane l).vr f.a.toNat)) ((w.lane k).vr f.a.toNat) = r at *
    refine ⟨fun hnan => hvalue.trans ?_, fun ⟨l, hl, hnum⟩ => ?_⟩
    · obtain ⟨l, hl, he⟩ := List.mem_map.mp hbest.mem
      have hr : (fdecode .f32 r).isNaN = true := he ▸ hnan l hl
      simp only [hr, if_true]
    · have hr : (fdecode .f32 r).isNaN = false := by
        by_contra hr
        rw [Bool.not_eq_false] at hr
        exact absurd (hbest.nan hr _ (List.mem_map_of_mem hl)) (by simp [hnum])
      exact ⟨r, hvalue.trans (by simp only [hr, Bool.false_eq_true, if_false]), hr, hbest⟩

/-- The root of the tree over the contributors. -/
def treeRoot (f : VFields) (w : Wave) (c : List Nat) : Option Nat × Flags :=
  addTree f.rnd f.fzo (fun l => if c.elem l then some (flushIn .f32 f.fzi ((w.lane l).vr f.a.toNat)) else none) 6 0

/-- The result of WRED.FADD from its tree's top level; `sn`: NV of a signalling NaN. -/
def treeTop (f : VFields) (sn : Flags) : List (Option Nat × Flags) → Nat × Flags
  | (some a, fl) :: _ =>
    let r := flushOut .f32 f.fzo (roundTo .f32 f.rnd (fdecode .f32 a))
    (r.1, fl ||| r.2 ||| sn)
  | _ => (0, 0#8)

theorem wredValue_tree (hsub : f.sub = 1#2) : wredValue f w c = treeTop f (snanOf f w c) [treeRoot f w c] := by
  rw [wredValue, hsub]
  exact congrArg (treeTop f (snanOf f w c)) (foldl_faddLevel f.rnd f.fzo _ 6 1)

end

/-- 08 R179: WRED gives every lane the same. -/
theorem execWred_eq {s : State} {w : Wave} (hw : Issuing s w) (h : Hdr) (f : VFields) :
    exec (.wred h f) s = .next (s.vecFixed h fun _ _ _ =>
      outRegs f.d 1 (wredValue f w ((List.range 64).filter (gives s h w))).1 (wredValue f w ((List.range 64).filter (gives s h w))).2) := by
  show execWred h f s = _
  rw [execWred, State.curWave_eq s w hw, lanesOf_contributors hw]

/-- The reductions of 08 R179 that pick one code. -/
theorem picks_of_mem {code : Nat} {le : Nat → Nat → Bool} {e : Nat}
    (h : (code, le, e) ∈ [(1, sle32, 0x7FFFFFFF), (2, fun a b => sle32 b a, 0x80000000), (3, fun a b => decide (a ≤ b), 0xFFFFFFFF),
      (7, fun a b => decide (b ≤ a), 0)]) : intIdentity code = e ∧ ∃ key, Picks (intReduce code) le key e := by
  simp only [List.mem_cons, Prod.mk.injEq, List.not_mem_nil, or_false] at h
  obtain ⟨rfl, rfl, rfl⟩ | ⟨rfl, rfl, rfl⟩ | ⟨rfl, rfl, rfl⟩ | ⟨rfl, rfl, rfl⟩ := h
  · exact ⟨rfl, _, picks_signed_min⟩
  · exact ⟨rfl, _, picks_signed_max⟩
  · exact ⟨rfl, _, picks_unsigned_min⟩
  · exact ⟨rfl, _, picks_unsigned_max⟩

end Sys2Proof.Machine

namespace Sys2Proof.Safety
open Sys2Proof.Machine

theorem waveReductions : Claims.WaveReductions := by
  intro h f s w hw x c gives' sn
  have hmem (l : Nat) : l ∈ (List.range 64).filter c ↔ c l = true := mem_givers l
  have hgive {v : Nat} {fl : Flags} (hr : wredValue f w ((List.range 64).filter c) = (v, fl)) : gives' v fl := by
    refine computes_block hw (execWred_eq hw h f) fun l => ?_
    show outRegs _ _ (wredValue f w ((List.range 64).filter c)).1 (wredValue f w ((List.range 64).filter c)).2 = _
    rw [hr]
  have hsn : snanOf f w ((List.range 64).filter c) = sn := by
    rw [snanOf, List.any_filter]
    rfl
  have hempty : (∀ l, c l = false) → (List.range 64).filter c = [] := fun hnone =>
    List.filter_eq_nil_iff.mpr fun l _ => by simp [hnone l]
  refine ⟨fun hsub hcode => ?_, fun le e hpick hsub => ?_, fun hsub => ?_, fun hsub => ⟨fun ⟨l, hl⟩ => ?_, fun hnone => ?_⟩,
    fun hsub => ⟨fun hnan => ?_, fun ⟨l, hl, hnum⟩ => ?_⟩⟩
  · refine hgive ((wredValue_int w _ hsub hcode).trans ?_)
    rw [show intIdentity 0 = 0 from rfl, foldl_intReduce_sum _ _ (by decide), Nat.zero_add]
  · obtain ⟨he, key, hp⟩ := picks_of_mem hpick
    have hbest := hp.bestOf (x := x) (fun l => (w.lane l).vr_lt _) hmem
    refine ⟨_, hbest, hgive ((wredValue_int w _ hsub rfl).trans ?_)⟩
    rw [he]
  · have hleaf : (fun l => if ((List.range 64).filter c).elem l then some (flushIn .f32 f.fzi (x l)) else none) =
        fun l => if c l then some (flushIn .f32 f.fzi (x l)) else none := by
      funext l
      simp only [List.elem_iff, hmem]
    intro root
    have hroot : treeRoot f w ((List.range 64).filter c) = root := by
      show addTree _ _ (fun l => if ((List.range 64).filter c).elem l then some (flushIn .f32 f.fzi (x l)) else none) 6 0 = _
      rw [hleaf]
    have hvalue := wredValue_tree w ((List.range 64).filter c) hsub
    rw [hroot, hsn] at hvalue
    generalize root = r at hvalue ⊢
    obtain ⟨_ | a, fl⟩ := r
    · exact hgive hvalue
    · exact hgive hvalue
  · have hl' := (hmem l).mpr hl
    generalize (List.range 64).filter c = ls at *
    cases ls with
    | nil => exact absurd hl' List.not_mem_nil
    | cons k ls => exact hgive ((wredValue_exact w ls k hsub).trans (by rw [hsn]))
  · rw [hempty hnone] at hgive
    exact hgive (wredValue_exact_nil w hsub)
  · refine hgive (((wredValue_number_spec w _ hsub).1 fun l hl => hnan l ((hmem l).mp hl)).trans ?_)
    rw [hsn]
  · obtain ⟨v, hvalue, hv, hbest⟩ := (wredValue_number_spec w _ hsub).2 ⟨l, (hmem l).mpr hl, hnum⟩
    rw [hsn] at hvalue
    obtain ⟨k, hk, he⟩ := List.mem_map.mp hbest.mem
    exact ⟨v, hgive hvalue, ⟨k, (hmem k).mp hk, he.symm, hv⟩,
      fun j hj hnj => (noWorse_iff hv hnj).mp (hbest.best _ (List.mem_map_of_mem ((hmem j).mpr hj)) hnj)⟩

theorem scansAndPeers : Claims.ScansAndPeers := by
  intro h f s w hw c
  have hmem (l : Nat) : l ∈ lanesOf (s.contributors h) ↔ c l = true := mem_contributors hw h l
  refine ⟨fun inc hinc => ?_, fun n hn => ?_⟩
  · intro x below
    have hsub : (f.sub == 0#2) = inc := by
      obtain ⟨hsub, rfl⟩ | ⟨hsub, rfl⟩ := mem_two_subs hinc <;> rw [hsub] <;> rfl
    have hfilter (l : Nat) : (lanesOf (s.contributors h)).filter (fun k => if f.sub == 0#2 then decide (k ≤ l) else decide (k < l)) =
        (List.range 64).filter (below l) := by
      rw [lanesOf_contributors hw, List.filter_filter, hsub]
      exact List.filter_congr fun k _ => Bool.and_comm _ _
    have hbelow (l k : Nat) : k ∈ (List.range 64).filter (below l) ↔ below l k = true := by
      rw [← hfilter, List.mem_filter, hmem, hsub]
      exact (Bool.and_eq_true_iff).symm
    obtain ⟨u, w', hexec, hc⟩ := computes_block (i := .wscan h f) (fl := noFlag)
      (v := fun l => ((List.range 64).filter (below l)).foldl (fun a k => intReduce (f.c.toNat % 4) a (x k)) (intIdentity (f.c.toNat % 4)))
      hw rfl fun l => by
        rw [wscanOp, hfilter]
        rfl
    have hx (k : Nat) : x k < 2 ^ 32 := (w.lane k).vr_lt _
    refine ⟨u, w', _, hexec, hc, fun l => ⟨fun hcode => ?_, fun hcode => ?_, fun hcode => ?_⟩⟩
    · rw [hcode, show intIdentity 0 = 0 from rfl, foldl_intReduce_sum _ _ (by decide), Nat.zero_add]
    · rw [hcode]
      exact picks_signed_min.bestOf hx (hbelow l)
    · rw [hcode]
      exact picks_signed_max.bestOf hx (hbelow l)
  · have hregs : (if f.sub == 1#2 then 2 else 1) = n := by
      obtain ⟨hsub, rfl⟩ | ⟨hsub, rfl⟩ := mem_two_subs hn <;> rw [hsub] <;> rfl
    obtain ⟨u, w', hexec, hc⟩ := computes_block (i := .lpeer h f) (fl := noFlag) hw rfl fun l => rfl
    refine ⟨u, w', _, hexec, hc, fun l => ⟨ofBits_lt _ _, fun k hk => ?_⟩⟩
    rw [ofBits_testBit, hregs]
    simp only [hk, decide_true, Bool.true_and, Bool.and_eq_true, List.elem_iff, hmem, beq_iff_eq]

/-- Settles O14: integers by the folds' sums and best codes, F32 by the tree, the accumulator and `BestNumber`. -/
theorem laneReductions : Obligations.LaneReductions := ⟨waveReductions, scansAndPeers⟩

end Sys2Proof.Safety
end

section
/-! PROOF. What the floating-point instructions share (09 R183 to R189): the elements of an operand, the codes that a delivery passes
through unchanged, and a delivered value. -/

namespace Sys2Proof.Machine

open Sys2Proof.Safety

/-! ### Types of SUB (03 R59) -/

/-- What the model reads from SUB for a type of the table. -/
structure FltType (sub : BitVec 2) (t : Fmt) (n k : Nat) : Prop where
  fmt : floatFmt sub = t
  elems : floatElems sub = n
  regs : floatRegs sub = k
  imm : floatImm sub = if t = .f64 then .f64 else .plain
  wide : k = if t = .f64 then 2 else 1
  count : n = 1 ∨ n = 2
  narrow : n = 2 → t ≠ .f64

theorem fltType_of_mem {sub : BitVec 2} {t : Fmt} {n k : Nat} (h : (sub, t, n, k) ∈ fltTypes) : FltType sub t n k := by
  simp only [fltTypes, List.mem_cons, Prod.mk.injEq, List.not_mem_nil, or_false] at h
  obtain ⟨rfl, rfl, rfl, rfl⟩ | ⟨rfl, rfl, rfl, rfl⟩ | ⟨rfl, rfl, rfl, rfl⟩ | ⟨rfl, rfl, rfl, rfl⟩ := h <;>
    exact ⟨rfl, rfl, rfl, rfl, rfl, by decide, by decide⟩

section
variable {f : VFields} {t : Fmt} {n k : Nat}

theorem FltType.srcA_eq (ht : FltType f.sub t n k) (h : Hdr) (w : Wave) (l : Nat) :
    srcA h f w (w.lane l) k (floatImm f.sub) = fltA h f w t l := by
  rw [ht.imm, ht.wide, fltA]
  split <;> rfl

theorem FltType.srcB_eq (ht : FltType f.sub t n k) (h : Hdr) (w : Wave) (l : Nat) :
    srcB h f w (w.lane l) k (floatImm f.sub) = fltB h f w t l := by
  rw [ht.imm, ht.wide, fltB]
  split <;> rfl

theorem FltType.srcC_eq (ht : FltType f.sub t n k) (w : Wave) (l : Nat) :
    srcC f (w.lane l) k = fltC f w t l := by
  rw [ht.wide, fltC]

end

/-! ### Elements -/

/-- 09 R186: the model's join of one or two elements. -/
theorem packed_joinElems (t : Fmt) {n : Nat} (hn : n = 1 ∨ n = 2) (e : Nat → Nat × Flags) :
    Packed t n e (joinElems t ((List.range n).map e)).1 (joinElems t ((List.range n).map e)).2 := by
  obtain rfl | rfl := hn
  · exact ⟨rfl, rfl⟩
  · exact ⟨rfl, congrArg ((e 0).2 ||| ·) BitVec.or_zero⟩

theorem flushIn_lt {t : Fmt} {z : Bool} {c : Nat} (hc : c < 2 ^ t.width) : flushIn t z c < 2 ^ t.width := by
  unfold flushIn
  split
  · exact lt_of_le_of_lt (Nat.div_mul_le_self _ _) hc
  · exact hc

theorem fltIn_lt (f : VFields) (t : Fmt) (x j : Nat) : fltIn f t x j < 2 ^ t.width :=
  flushIn_lt (Nat.mod_lt _ (Nat.two_pow_pos _))

/-- What `floatOp` gives a lane, in the words of the statements. -/
theorem floatOp_lane {f : VFields} {t : Fmt} {n k : Nat} (ht : FltType f.sub t n k) (h : Hdr) (g : Fmt → Nat → Nat → Nat → Nat × Flags)
    (w : Wave) (l : Nat) :
    floatOp h f g w l (w.lane l) =
      let r := joinElems t ((List.range n).map fun j =>
        g t (fltIn f t (fltA h f w t l) j) (fltIn f t (fltB h f w t l) j) (fltIn f t (fltC f w t l) j))
      outRegs f.d k r.1 r.2 := by
  simp only [floatOp, ht.regs, ht.srcA_eq, ht.srcB_eq, ht.srcC_eq, ht.fmt, ht.elems]
  rfl

section
variable {i : Instr} {h : Hdr} {f : VFields} {s : State} {w : Wave} {t : Fmt} {n k : Nat} {g : Fmt → Nat → Nat → Nat → Nat × Flags}
  {elem : Nat → Nat → Nat → Nat × Flags → Prop}

/-- A floating instruction of fixed latency does what its function of the elements does. -/
theorem floatStep_of_elem (hw : Issuing s w) (ht : (f.sub, t, n, k) ∈ fltTypes) (hexec : exec i s = .next (s.vecFixed h (floatOp h f g)))
    (hg : ∀ a b c, a < 2 ^ t.width → elem a b c (g t a b c)) : FloatStep i h f s w t n k elem :=
  have ht := fltType_of_mem ht
  let ⟨u, w', hexec, hc⟩ := computes_block hw hexec (floatOp_lane ht h g w)
  ⟨u, w', _, _, _, hexec, hc, fun _ => ⟨packed_joinElems t ht.count _, fun _ _ => hg _ _ _ (fltIn_lt _ _ _ _)⟩⟩

/-- A floating instruction of variable latency promises what its function of the elements does. -/
theorem floatPromise_of_elem (hw : Issuing s w) (ht : (f.sub, t, n, k) ∈ fltTypes) (hexec : exec i s = .next (s.vecVar h (floatOp h f g)))
    (hg : ∀ a b c, elem a b c (g t a b c)) : FloatPromise i h f s w t n k elem :=
  have ht := fltType_of_mem ht
  let ⟨w', o, hp⟩ := vecVar_block s h w (floatOp h f g) hw f.d k _ _ (floatOp_lane ht h g w)
  ⟨_, w', o, _, _, _, hexec, hp, fun _ => ⟨packed_joinElems t ht.count _, fun _ _ => hg _ _ _⟩⟩

end

/-! ### The canonical NaN, and codes that are NaNs -/

/-- 07 R141: flush_out leaves the canonical NaN alone. -/
theorem flushOut_canonNaN (t : Fmt) (z : Bool) (fl : Flags) : flushOut t z (t.canonNaN, fl) = (t.canonNaN, fl) := by
  have hnormal : isSubnormal t t.canonNaN = false := by cases t <;> decide
  simp only [flushOut, hnormal, Bool.and_false, Bool.false_eq_true, if_false]

theorem Fmt.width_eq (t : Fmt) : t.width - 1 = t.frac + t.ebits := by
  cases t <;> rfl

/-- The exponent field of a code does not depend on its sign. -/
theorem bits_exponent (t : Fmt) (c : Nat) : bits c (t.width - 2) t.frac = c % 2 ^ (t.width - 1) / 2 ^ t.frac := by
  have hwidth : t.width - 2 + 1 - t.frac = t.ebits := by cases t <;> rfl
  rw [bits, hwidth, t.width_eq, Nat.pow_add, Nat.mod_mul_right_div_self, Nat.shiftRight_eq_div_pow]

theorem dyadic_isNaN (s : Bool) (m : Nat) (e : Int) : (Val.dyadic s m e).isNaN = false := by
  unfold Val.dyadic
  split <;> rfl

theorem fdecode_isNaN (t : Fmt) (c : Nat) :
    (fdecode t c).isNaN = (bits c (t.width - 2) t.frac == 2 ^ t.ebits - 1 && c % 2 ^ t.frac != 0) := by
  simp only [fdecode, bne]
  cases bits c (t.width - 2) t.frac == 2 ^ t.ebits - 1
  · cases bits c (t.width - 2) t.frac == 0 <;> exact dyadic_isNaN _ _ _
  · cases c % 2 ^ t.frac == 0 <;> rfl

/-- A code is a NaN or not whatever its sign. -/
theorem isNaN_of_magnitude_eq {t : Fmt} {c c' : Nat} (h : c % 2 ^ (t.width - 1) = c' % 2 ^ (t.width - 1)) :
    (fdecode t c).isNaN = (fdecode t c').isNaN := by
  have hfrac (c : Nat) : c % 2 ^ t.frac = c % 2 ^ (t.width - 1) % 2 ^ t.frac := by
    rw [t.width_eq, Nat.pow_add, Nat.mod_mul_right_mod]
  rw [fdecode_isNaN, fdecode_isNaN, bits_exponent, bits_exponent, hfrac c, hfrac c', h]

/-! ### Delivery -/

theorem flagIf_or (a b : Bool) (fl : Flags) : flagIf a fl ||| flagIf b fl = flagIf (a || b) fl := by
  cases a <;> cases b <;> simp [flagIf]

theorem isSNaN_of_number {x : Val} (hx : x.isNaN = false) : x.isSNaN = false := by
  cases x with
  | nan p => cases hx
  | inf p => rfl
  | fin p m d => rfl

/-- 09 R185: the model's clamp. -/
theorem satClamp_clamped (t : Fmt) (c : Nat) : Clamped t c (satClamp t c) := by
  unfold satClamp
  refine ⟨fun h => ?_, fun h => ?_, fun h1 h2 h3 => ?_⟩
  · simp only [Bool.or_eq_true, h, if_true]
  · have hpos : ((fdecode t c).isNaN || (fdecode t c).isNeg) = false := by
      cases hv : fdecode t c with
      | nan p => simp [hv, Val.ltB] at h
      | inf p => simpa [hv, Val.ltB, Val.isNaN, Val.isNeg] using h
      | fin p m d =>
        cases p
        · rfl
        · simp [hv, Val.ltB, Val.snum] at h
          omega
    simp only [hpos, Bool.false_eq_true, if_false, h, if_true]
  · simp only [h1, h2, h3, Bool.or_false, Bool.false_eq_true, if_false]

/-- 09 R184, R185, R189: the model's delivery, with NV where an invalid case stands. -/
theorem deliver_delivered (f : VFields) (t : Fmt) (x : Val) (nv : Bool) : Safety.Delivered f t x nv (deliver f t f.rnd x (flagIf nv fNV)) := by
  refine ⟨?_, rfl⟩
  unfold deliver
  cases hsat : f.sat
  · rfl
  · exact satClamp_clamped t _

theorem exactSum_delivered (f : VFields) (t : Fmt) (ops : List Val) (inv : Bool) (l : List Val) :
    let x := Val.sum f.rnd l
    Safety.Delivered f t x.1 (anySNaN ops || inv || x.2) (exactSum f t ops inv l) := by
  intro x
  have hflags : snanFlag ops ||| flagIf (x.2 || inv) fNV = flagIf (anySNaN ops || inv || x.2) fNV := by
    rw [snanFlag, flagIf_or, Bool.or_comm x.2, ← Bool.or_assoc]
    rfl
  rw [exactSum, hflags]
  exact deliver_delivered f t x.1 _

section
variable {f : VFields} (hsat : f.sat = false)
include hsat

/-- Without SAT a delivery is its rounding, flushed. -/
theorem deliver_of_no_sat (t : Fmt) (m : Rnd) (x : Val) (fl : Flags) :
    deliver f t m x fl = ((flushOut t f.fzo (roundTo t m x)).1, (flushOut t f.fzo (roundTo t m x)).2 ||| fl) := by
  unfold deliver
  rw [hsat]
  rfl

theorem deliver_nan (t : Fmt) (m : Rnd) (q : Bool) (fl : Flags) : deliver f t m (.nan q) fl = (t.canonNaN, fl) := by
  have hround : roundTo t m (.nan q) = (t.canonNaN, 0#8) := rfl
  rw [deliver_of_no_sat hsat, hround, flushOut_canonNaN, BitVec.zero_or]

end

end Sys2Proof.Machine
end

section
/-! PROOF. O8: floating-point arithmetic, selection, comparison and class (09 R189 to R193, R198). -/

namespace Sys2Proof.Machine

open Sys2Proof.Safety

/-! ### The order of minimumNumber (09 R190) -/

theorem isNaN_of_ltZ {x y : Val} (h : x.ltZ y = true) : x.isNaN = false ∧ y.isNaN = false := by
  cases x with
  | nan p => simp [Val.ltZ, Val.ltB, Val.isZero] at h
  | inf p =>
    cases y with
    | nan q => simp [Val.ltZ, Val.ltB, Val.isZero] at h
    | _ => exact ⟨rfl, rfl⟩
  | fin p m d =>
    cases y with
    | nan q => simp [Val.ltZ, Val.ltB, Val.isZero] at h
    | _ => exact ⟨rfl, rfl⟩

/-- The order of two codes' values holds in one direction only, −0 below +0 included. -/
theorem fdecode_ltZ_asymm {t : Fmt} (a b : Nat) (h : (fdecode t a).ltZ (fdecode t b) = true) :
    (fdecode t b).ltZ (fdecode t a) = false := by
  obtain ⟨ha, hb⟩ := isNaN_of_ltZ h
  have hlt := (ltZ_iff_numberRank ha hb (fdecode_posDen t a) (fdecode_posDen t b)).mp h
  exact Bool.eq_false_iff.mpr fun hgt =>
    lt_asymm hlt ((ltZ_iff_numberRank hb ha (fdecode_posDen t b) (fdecode_posDen t a)).mp hgt)

/-! ### A stable sort (of FMED3's three operands) -/

theorem insertBy_perm {α : Type} (lt : α → α → Bool) (x : α) (l : List α) : (insertBy lt x l).Perm (x :: l) := by
  induction l with
  | nil => exact .refl _
  | cons y l ih =>
    rw [insertBy]
    split
    · exact .refl _
    · exact (ih.cons y).trans (.swap x y l)

/-- Each element comes no later than its neighbour. -/
abbrev InOrder {α : Type} (lt : α → α → Bool) (l : List α) : Prop := l.IsChain (fun x y => lt y x = false)

theorem insertBy_inOrder {α : Type} {lt : α → α → Bool} (hasymm : ∀ x y, lt x y = true → lt y x = false) (x : α) {l : List α}
    (hl : InOrder lt l) : InOrder lt (insertBy lt x l) := by
  induction l with
  | nil => exact .singleton x
  | cons y l ih =>
    rw [insertBy]
    split
    next hlt => exact .cons_cons (hasymm x y hlt) hl
    next hge =>
      have hxy : lt x y = false := by simpa using hge
      cases l with
      | nil => exact .cons_cons hxy (.singleton x)
      | cons z l =>
        have hrest := ih hl.tail
        rw [insertBy] at hrest ⊢
        split
        next hlt => exact .cons_cons hxy (by rwa [if_pos hlt] at hrest)
        next hge => exact .cons_cons (List.isChain_cons_cons.mp hl).1 (by rwa [if_neg hge] at hrest)

theorem foldl_insertBy_perm {α : Type} (lt : α → α → Bool) (l acc : List α) :
    (l.foldl (fun acc x => insertBy lt x acc) acc).Perm (l ++ acc) := by
  induction l generalizing acc with
  | nil => exact .refl _
  | cons x l ih => exact (ih _).trans (((insertBy_perm lt x acc).append_left l).trans List.perm_middle)

theorem sortBy_perm {α : Type} (lt : α → α → Bool) (l : List α) : (sortBy lt l).Perm l :=
  (foldl_insertBy_perm lt l []).trans (.of_eq (List.append_nil l))

theorem sortBy_inOrder {α : Type} {lt : α → α → Bool} (hasymm : ∀ x y, lt x y = true → lt y x = false) (l : List α) :
    InOrder lt (sortBy lt l) :=
  List.foldlRecOn l _ (motive := InOrder lt) .nil fun _ hacc x _ => insertBy_inOrder hasymm x hacc

/-- The middle one of three in order. -/
theorem sortBy_middle {α : Type} {lt : α → α → Bool} (hasymm : ∀ x y, lt x y = true → lt y x = false) (a b c e : α) :
    ∃ x m y, (sortBy lt [a, b, c]).getD 1 e = m ∧ [x, m, y].Perm [a, b, c] ∧ lt m x = false ∧ lt y m = false := by
  have hperm := sortBy_perm lt [a, b, c]
  have horder := sortBy_inOrder hasymm [a, b, c]
  obtain ⟨x, m, y, hl⟩ := List.length_eq_three.mp hperm.length_eq
  rw [hl] at hperm horder ⊢
  simp only [InOrder, List.isChain_cons_cons] at horder
  exact ⟨x, m, y, rfl, hperm, horder.1, horder.2.1⟩

/-! ### Changing a sign -/

/-- 09 R192: the model's change of sign flips the top bit. -/
theorem xor_top {k a : Nat} (ha : a < 2 ^ (k + 1)) : a ^^^ 2 ^ k = if 2 ^ k ≤ a then a % 2 ^ k else a + 2 ^ k := by
  have hpos := Nat.two_pow_pos k
  have hmod : (a ^^^ 2 ^ k) % 2 ^ k = a % 2 ^ k := by rw [Nat.xor_mod_two_pow, Nat.mod_self, Nat.xor_zero]
  have hdiv : (a ^^^ 2 ^ k) / 2 ^ k = a / 2 ^ k ^^^ 1 := by rw [Nat.xor_div_two_pow, Nat.div_self hpos]
  rw [Nat.pow_succ] at ha
  rw [← Nat.div_add_mod (a ^^^ 2 ^ k) (2 ^ k), hmod, hdiv]
  split
  next hle =>
    rw [Nat.div_eq_of_lt_le (k := 1) (by omega) (by omega), Nat.xor_self, Nat.mul_zero, Nat.zero_add]
  next hlt =>
    rw [Nat.div_eq_of_lt (by omega), Nat.zero_xor, Nat.mul_one, Nat.mod_eq_of_lt (by omega), Nat.add_comm]

/-! ### Operands delivered unrounded (09 R190 to R192) -/

theorem deliverCode_number {t : Fmt} {c : Nat} (hc : (fdecode t c).isNaN = false) (f : VFields) (fl : Flags) :
    deliverCode f t c fl = flushOut t f.fzo (c, fl) := by
  rw [deliverCode, hc]
  rfl

theorem deliverCode_nan {t : Fmt} {c : Nat} (hc : (fdecode t c).isNaN = true) (f : VFields) (fl : Flags) :
    deliverCode f t c fl = flushOut t f.fzo (t.canonNaN, fl) := by
  rw [deliverCode, hc]
  rfl

/-- A code with its sign changed. -/
theorem deliverCode_sign {t : Fmt} {a c : Nat} (h : c % 2 ^ (t.width - 1) = a % 2 ^ (t.width - 1)) (f : VFields) (fl : Flags) :
    deliverCode f t c fl = flushOut t f.fzo (if !(fdecode t a).isNaN then c else t.canonNaN, fl) := by
  have hnan := isNaN_of_magnitude_eq h
  cases ha : (fdecode t a).isNaN
  · exact deliverCode_number (hnan.trans ha) f fl
  · exact deliverCode_nan (hnan.trans ha) f fl

/-- 09 R192: FNEG flips the sign. -/
theorem fnegElem_flip {t : Fmt} {a : Nat} (ha : a < 2 ^ t.width) (f : VFields) (b c : Nat) :
    fnegElem f false t a b c = flushOut t f.fzo (if !(fdecode t a).isNaN then a ^^^ 2 ^ (t.width - 1) else t.canonNaN, 0#8) := by
  have hwidth : t.width - 1 + 1 = t.width := by cases t <;> rfl
  have hxor := xor_top (k := t.width - 1) (a := a) (by rwa [hwidth])
  rw [← deliverCode_sign (by rw [Nat.xor_mod_two_pow, Nat.mod_self, Nat.xor_zero]), hxor]
  simp only [fnegElem, Bool.false_or, decide_eq_true_eq]
  rfl

/-- 09 R192: FABS clears it. -/
theorem fnegElem_clear (f : VFields) (t : Fmt) (a b c : Nat) :
    fnegElem f true t a b c = flushOut t f.fzo (if !(fdecode t a).isNaN then a % 2 ^ (t.width - 1) else t.canonNaN, 0#8) :=
  deliverCode_sign (Nat.mod_mod _ _) f 0#8

section
variable (f : VFields) (mx : Bool) {t : Fmt} {a b : Nat} (c : Nat)

/-- 09 R190: of two numbers, one that the other does not come before. -/
theorem fminmaxElem_numbers (ha : (fdecode t a).isNaN = false) (hb : (fdecode t b).isNaN = false) :
    ∃ r, fminmaxElem f mx t a b c = flushOut t f.fzo (r, snanFlag [fdecode t a, fdecode t b]) ∧
      let before (x y : Nat) : Bool := if mx then (fdecode t y).ltZ (fdecode t x) else (fdecode t x).ltZ (fdecode t y)
      ((r = a ∧ before b a = false) ∨ (r = b ∧ before a b = false)) := by
  simp only [fminmaxElem, ha, hb, Bool.false_eq_true, if_false]
  split
  next hpick =>
    refine ⟨a, deliverCode_number ha f _, .inl ⟨rfl, ?_⟩⟩
    cases mx
    · exact fdecode_ltZ_asymm _ _ (by simpa using hpick)
    · simpa using hpick
  next hpick =>
    refine ⟨b, deliverCode_number hb f _, .inr ⟨rfl, ?_⟩⟩
    cases mx
    · simpa using hpick
    · exact fdecode_ltZ_asymm _ _ (by simpa using hpick)

theorem fminmaxElem_number_nan (ha : (fdecode t a).isNaN = false) (hb : (fdecode t b).isNaN = true) :
    fminmaxElem f mx t a b c = flushOut t f.fzo (a, snanFlag [fdecode t a, fdecode t b]) := by
  simp only [fminmaxElem, ha, hb, Bool.false_eq_true, if_false, if_true, deliverCode_number ha]

theorem fminmaxElem_nan_number (ha : (fdecode t a).isNaN = true) (hb : (fdecode t b).isNaN = false) :
    fminmaxElem f mx t a b c = flushOut t f.fzo (b, snanFlag [fdecode t a, fdecode t b]) := by
  simp only [fminmaxElem, ha, if_true, deliverCode_number hb]

theorem fminmaxElem_nans (ha : (fdecode t a).isNaN = true) (hb : (fdecode t b).isNaN = true) :
    fminmaxElem f mx t a b c = flushOut t f.fzo (t.canonNaN, snanFlag [fdecode t a, fdecode t b]) := by
  simp only [fminmaxElem, ha, if_true, deliverCode_nan hb]

/-- 09 R190: a number before a NaN, and the canonical NaN where neither is a number. -/
theorem fminmaxElem_selects :
    let before (x y : Nat) : Bool := if mx then (fdecode t y).ltZ (fdecode t x) else (fdecode t x).ltZ (fdecode t y)
    ∃ r, fminmaxElem f mx t a b c = flushOut t f.fzo (r, snanFlag [fdecode t a, fdecode t b]) ∧
      ((fdecode t a).isNaN = false → (fdecode t b).isNaN = false → (r = a ∧ before b a = false) ∨ (r = b ∧ before a b = false)) ∧
      ((fdecode t a).isNaN = false → (fdecode t b).isNaN = true → r = a) ∧
      ((fdecode t a).isNaN = true → (fdecode t b).isNaN = false → r = b) ∧
      ((fdecode t a).isNaN = true → (fdecode t b).isNaN = true → r = t.canonNaN) := by
  cases ha : (fdecode t a).isNaN <;> cases hb : (fdecode t b).isNaN
  · obtain ⟨r, hr, hpick⟩ := fminmaxElem_numbers f mx c ha hb
    exact ⟨r, hr, fun _ _ => hpick, by simp⟩
  · exact ⟨a, fminmaxElem_number_nan f mx c ha hb, by simp⟩
  · exact ⟨b, fminmaxElem_nan_number f mx c ha hb, by simp⟩
  · exact ⟨t.canonNaN, fminmaxElem_nans f mx c ha hb, by simp⟩

end

/-- 09 R191: the middle one of three numbers. -/
theorem fmed3Elem_numbers (f : VFields) {t : Fmt} {a b c : Nat} (ha : (fdecode t a).isNaN = false) (hb : (fdecode t b).isNaN = false)
    (hc : (fdecode t c).isNaN = false) : ∃ m, fmed3Elem f t a b c = flushOut t f.fzo (m, 0#8) ∧ ∃ x y, [x, m, y].Perm [a, b, c] ∧
      (fdecode t m).ltZ (fdecode t x) = false ∧ (fdecode t y).ltZ (fdecode t m) = false := by
  obtain ⟨x, m, y, hmid, hperm, hxm, hmy⟩ := sortBy_middle (lt := fun x y => (fdecode t x).ltZ (fdecode t y))
    fdecode_ltZ_asymm a b c 0
  have hnum : (fdecode t m).isNaN = false := by
    have hmem : m ∈ [a, b, c] := hperm.mem_iff.mp (by simp)
    simp only [List.mem_cons, List.not_mem_nil, or_false] at hmem
    obtain rfl | rfl | rfl := hmem <;> assumption
  refine ⟨m, ?_, x, y, hperm, hxm, hmy⟩
  have hnone : [fdecode t a, fdecode t b, fdecode t c].any Val.isNaN = false := by simp [ha, hb, hc]
  simp only [fmed3Elem, hnone, Bool.false_eq_true, if_false, hmid]
  exact deliverCode_number hnum f 0#8

theorem fmed3Elem_nan (f : VFields) {t : Fmt} {a b c : Nat}
    (h : (fdecode t a).isNaN = true ∨ (fdecode t b).isNaN = true ∨ (fdecode t c).isNaN = true) :
    fmed3Elem f t a b c = (t.canonNaN, snanFlag [fdecode t a, fdecode t b, fdecode t c]) := by
  have hsome : [fdecode t a, fdecode t b, fdecode t c].any Val.isNaN = true := by simpa using h
  simp only [fmed3Elem, hsome, if_true]

/-! ### Comparison and class (09 R193, R198) -/

/-- The fourteen conditions of 09 R193. -/
theorem floatCond_holds {code : Nat} (hcode : code < 14) (a b : Val) :
    (floatCond code a b).1 =
      let un := a.isNaN || b.isNaN
      let lt := a.ltB b
      let gt := b.ltB a
      let eq := !un && !lt && !gt
      [eq, lt || gt, lt, lt || eq, gt, gt || eq, un || eq, un || lt || gt, un || lt, un || lt || eq, un || gt, un || gt || eq, !un, un].getD code
        false := by
  have heq : a.eqB b = (!(a.isNaN || b.isNaN) && !a.ltB b && !b.ltB a) := by rw [Val.eqB, Bool.not_or]
  interval_cases code <;> simp only [floatCond, heq, List.getD_cons_zero, List.getD_cons_succ]

theorem isNaN_of_isSNaN {x : Val} (h : x.isSNaN = true) : x.isNaN = true := by
  by_contra hn
  rw [isSNaN_of_number (Bool.eq_false_iff.mpr hn)] at h
  cases h

/-- 09 R193: NV of a signalling NaN under every code, and of any NaN under the ordering codes. -/
theorem floatCond_invalid {code : Nat} (hcode : code < 14) (a b : Val) :
    (floatCond code a b).2 = true ↔
      anySNaN [a, b] = true ∨ (a.isNaN || b.isNaN) = true ∧ code ∈ [2, 3, 4, 5, 8, 9, 10, 11] := by
  have hflag : (floatCond code a b).2 =
      if code ∈ [2, 3, 4, 5, 8, 9, 10, 11] then a.isNaN || b.isNaN else a.isSNaN || b.isSNaN := by
    interval_cases code <;> rfl
  have hsnan : anySNaN [a, b] = true ↔ a.isSNaN = true ∨ b.isSNaN = true := by simp [anySNaN]
  have hquiet : a.isSNaN = true ∨ b.isSNaN = true → a.isNaN = true ∨ b.isNaN = true := Or.imp isNaN_of_isSNaN isNaN_of_isSNaN
  rw [hflag, hsnan, Bool.or_eq_true]
  split
  next hordering => rw [Bool.or_eq_true, and_iff_left hordering, or_iff_right_of_imp hquiet]
  next hother =>
    rw [Bool.or_eq_true]
    exact (or_iff_left fun h => hother h.2).symm

/-- 02 R35: an instruction of fixed latency whose lanes write predicates in sequence. -/
theorem computes_preds {s : State} {h : Hdr} {w : Wave} {i : Instr} {op : Wave → Nat → Lane → LaneOut} {d n : Nat} {b : Nat → Nat → Bool}
    {fl : Nat → Flags} (hw : Issuing s w) (hexec : exec i s = .next (s.vecFixed h op))
    (ho : ∀ l, op w l (w.lane l) = { regs := [], preds := (List.range n).map fun j => (d + j, b l j), flags := fl l }) :
    ∃ u w', exec i s = .next u ∧
      Computes s h w noReg (fun l p => if p < 7 ∧ d ≤ p ∧ p < d + n then some (b l (p - d)) else none) fl u w' := by
  obtain ⟨w', hc⟩ := vecFixed_computes s h w op hw
  have hpred (l : Nat) := funext (lastPred_range d n (b l))
  simp only [ho, hpred] at hc
  exact ⟨_, w', hexec, hc⟩

/-- What `fcmpOp` gives a lane: one predicate an element. -/
theorem fcmpOp_lane {f : VFields} {t : Fmt} {n k : Nat} (ht : FltType f.sub t n k) (h : Hdr) (w : Wave) (l : Nat) :
    fcmpOp h f w l (w.lane l) =
      let r (j : Nat) : Bool × Bool :=
        floatCond (f.c.toNat % 16) (fdecode t (fltIn f t (fltA h f w t l) j)) (fdecode t (fltIn f t (fltB h f w t l) j))
      { regs := [], preds := (List.range n).map fun j => (f.d.toNat % 8 + j, (r j).1),
        flags := flagIf ((List.range n).any fun j => (r j).2) fNV } := by
  simp only [fcmpOp, ht.regs, ht.srcA_eq, ht.srcB_eq, ht.fmt, ht.elems, List.length_map, List.length_range, List.any_map]
  refine congrArg₂ (LaneOut.mk []) (List.map_congr_left fun j hj => ?_) rfl
  rw [List.getD_eq_getElem?_getD, List.getElem?_map, List.getElem?_range (List.mem_range.mp hj)]
  rfl

/-- The number of the class of a code (09 R198). -/
theorem classMask_eq (t : Fmt) (c : Nat) :
    classMask t c =
      let v := fdecode t c
      2 ^ (if v.isNaN then (if v.isSNaN then 8 else 9)
        else if v.isInf then (if v.isNeg then 0 else 7)
        else if v.isZero then (if v.isNeg then 3 else 4)
        else if isSubnormal t c then (if v.isNeg then 2 else 5)
        else (if v.isNeg then 1 else 6)) := by
  unfold classMask
  cases fdecode t c with
  | nan g => cases g <;> rfl
  | inf g => cases g <;> rfl
  | fin g m d => cases m <;> cases isSubnormal t c <;> cases g <;> rfl

/-- What `fclassOp` gives a lane: the class of each element, which is not flushed (09 R198). -/
theorem fclassOp_lane {f : VFields} {t : Fmt} {n k : Nat} (ht : FltType f.sub t n k) (h : Hdr) (w : Wave) (l : Nat) :
    fclassOp h f w l (w.lane l) =
      let mask (j : Nat) : Nat := classMask t (elemOf t (fltA h f w t l) j)
      outRegs f.d 1 (mask 0 + if n = 2 then mask 1 * 2 ^ 16 else 0) := by
  simp only [fclassOp, ht.regs, ht.srcA_eq, ht.fmt, ht.elems]
  obtain rfl | rfl := ht.count
  · simp
  · simp [List.range_succ]

end Sys2Proof.Machine

namespace Sys2Proof.Safety
open Sys2Proof.Machine

theorem floatArithmeticResults : Claims.FloatArithmetic := by
  intro h f s w t n k hw ht
  refine ⟨floatStep_of_elem hw ht rfl fun a b c _ => ?fadd, floatStep_of_elem hw ht rfl fun a b c _ => ?fsub,
    floatStep_of_elem hw ht rfl fun a b c _ => ?fmul, floatStep_of_elem hw ht rfl fun a b c _ => ?fma⟩
  case fadd =>
    have hsum := exactSum_delivered f t [fdecode t a, fdecode t b] false [fdecode t a, fdecode t b]
    rwa [Bool.or_false] at hsum
  case fsub =>
    have hsum := exactSum_delivered f t [fdecode t a, fdecode t b] false [fdecode t a, (fdecode t b).negate]
    rwa [Bool.or_false] at hsum
  case fmul =>
    have hproduct := deliver_delivered f t ((fdecode t a).mul (fdecode t b)).1
      (anySNaN [fdecode t a, fdecode t b] || ((fdecode t a).mul (fdecode t b)).2)
    rwa [← flagIf_or] at hproduct
  case fma => exact exactSum_delivered f t _ _ _

theorem floatSelections : Claims.FloatSelections := by
  intro h f s w t n k hw ht le num sn
  have hnum {x : Nat} : num x = true ↔ (fdecode t x).isNaN = false := iff_of_eq (Bool.not_eq_true' _)
  have hnan {x : Nat} : num x = false ↔ (fdecode t x).isNaN = true := iff_of_eq (Bool.not_eq_false' _)
  refine ⟨fun q hq => ?_, floatStep_of_elem hw ht rfl fun a b c _ => ?fmed3, floatStep_of_elem hw ht rfl fun a b c ha => ?fneg,
    floatStep_of_elem hw ht rfl fun a b c _ => ?fabs⟩
  case fmed3 =>
    refine ⟨fun ha hb hc => ?_, fun h => fmed3Elem_nan f (by rwa [hnan, hnan, hnan] at h)⟩
    obtain ⟨m, hm, x, y, hperm, hx, hy⟩ := fmed3Elem_numbers f (hnum.mp ha) (hnum.mp hb) (hnum.mp hc)
    exact ⟨m, hm, x, y, hperm, congrArg not hx, congrArg not hy⟩
  case fneg => exact fnegElem_flip ha f b c
  case fabs => exact fnegElem_clear f t a b c
  simp only [List.mem_cons, List.not_mem_nil, or_false] at hq
  obtain rfl | rfl := hq <;> refine floatStep_of_elem hw ht rfl fun a b c _ => ?_ <;> simp only [hnum, hnan, le, Bool.not_eq_true']
  · exact fminmaxElem_selects f false c
  · exact fminmaxElem_selects f true c

theorem floatCompareAndClass : Claims.FloatCompareAndClass := by
  intro h f s w t n k hw ht va vb code holds
  have ht := fltType_of_mem ht
  refine ⟨fun hcode => ?_, ?_⟩
  · change f.c.toNat % 16 < 14 at hcode
    obtain ⟨u, w', hexec, hc⟩ := computes_preds (i := .fcmp h f) hw rfl (fcmpOp_lane ht h w)
    have hholds (x y : Val) : (floatCond (f.c.toNat % 16) x y).1 = holds x y := floatCond_holds hcode x y
    simp only [hholds] at hc
    refine ⟨u, w', _, hexec, hc, fun l => if_congr ?_ rfl rfl⟩
    simp only [List.any_eq_true, List.mem_range, floatCond_invalid hcode]
    rfl
  · intro raw cls
    have hmask (l j : Nat) : classMask t (elemOf t (fltA h f w t l) j) = 2 ^ cls (raw l j) := classMask_eq t _
    refine computes_block (i := .fclass h f) hw rfl fun l => ?_
    simp only [fclassOp_lane ht, hmask, ← Nat.pow_add, Nat.add_comm 16]
    rfl

/-- Settles O8: exact sums and products by `exactSum_delivered`, selections by the order `Val.ltZ`, conditions and classes element by
element. -/
theorem floatArithmetic : Obligations.FloatArithmetic := ⟨floatArithmeticResults, floatSelections, floatCompareAndClass⟩

end Sys2Proof.Safety
end

section
/-! PROOF. O9: the floating-point functions (09 R194), and where the model's values of them are exact or enclose the true one (log entry 9). -/

namespace Sys2Proof.Machine

open Sys2Proof.Safety

/-! ### Square roots -/

/-- One bit of the root after another: the root so far is at most √x, and within 2^n of it. -/
theorem isqrtFrom_bounds {n x r : Nat} (hlow : r * r ≤ x) (hhigh : x < (r + 2 ^ n) * (r + 2 ^ n)) :
    isqrtFrom n x r * isqrtFrom n x r ≤ x ∧ x < (isqrtFrom n x r + 1) * (isqrtFrom n x r + 1) := by
  induction n generalizing r with
  | zero => exact ⟨hlow, hhigh⟩
  | succ n ih =>
    rw [isqrtFrom]
    split
    next hle =>
      rw [Nat.pow_succ, Nat.mul_two, ← Nat.add_assoc] at hhigh
      exact ih hle hhigh
    next hgt => exact ih hlow (Nat.lt_of_not_le hgt)

theorem isqrt_eq_sqrt (x : Nat) : isqrt x = Nat.sqrt x := by
  have hx : x < (0 + 2 ^ (Nat.log2 x / 2 + 1)) * (0 + 2 ^ (Nat.log2 x / 2 + 1)) := by
    rw [Nat.zero_add, ← Nat.pow_add]
    exact Nat.lt_log2_self.trans_le (Nat.pow_le_pow_right (by decide) (by omega))
  exact Nat.eq_sqrt.mpr (isqrtFrom_bounds (Nat.zero_le x) hx)

/-- The root of ⌊N/d⌋, where it is not the root of N/d, lies strictly below that root, and the next number above it. -/
theorem sqrt_floor_encloses {N d : Nat} (hd : 0 < d) (hne : Nat.sqrt (N / d) * Nat.sqrt (N / d) * d ≠ N) :
    Nat.sqrt (N / d) * Nat.sqrt (N / d) * d < N ∧ N < (Nat.sqrt (N / d) + 1) * (Nat.sqrt (N / d) + 1) * d :=
  ⟨lt_of_le_of_ne ((Nat.mul_le_mul_right d (Nat.sqrt_le _)).trans (Nat.div_mul_le_self N d)) hne,
    (Nat.div_lt_iff_lt_mul hd).mp (Nat.lt_succ_sqrt _)⟩

/-- The model's square root: a root of 1,200 bits after the point, and one bit more where that root is not exact. -/
theorem sqrtVal_eq (n d : Nat) :
    let root (k : Nat) : Nat := Nat.sqrt (n * 4 ^ k / d)
    sqrtVal n d = if root 1200 * root 1200 * d = n * 4 ^ 1200 then .fin false (root 1200) (2 ^ 1200)
      else .fin false (2 * root 1200 + 1) (2 ^ 1201) := by
  simp only [sqrtVal, isqrt_eq_sqrt, beq_iff_eq]

theorem four_pow (k : Nat) : 4 ^ k = 2 ^ k * 2 ^ k := Nat.mul_pow 2 2 k

/-- An odd numerator over 2^(k+1) whose neighbours are twice a root with k bits and twice the next number. -/
theorem odd_encloses {n d r k e : Nat} (he : e = k + 1) (hlow : r * r * d < n * 4 ^ k) (hhigh : n * 4 ^ k < (r + 1) * (r + 1) * d) :
    (2 * r + 1 - 1) * (2 * r + 1 - 1) * d < n * (2 ^ e * 2 ^ e) ∧ n * (2 ^ e * 2 ^ e) < (2 * r + 1 + 1) * (2 * r + 1 + 1) * d := by
  rw [four_pow] at hlow hhigh
  rw [Nat.add_sub_cancel, he, Nat.pow_succ]
  constructor
  · nlinarith
  · nlinarith

/-! ### Values that are powers of two -/

/-- The rational of 2^k for an exponent that is a natural number or its negative. -/
theorem mkRat_eq_twoTo_iff {n d : Nat} (hd : 0 < d) (k : Int) : mkRat n d = twoTo k ↔
    if k < 0 then n * 2 ^ k.natAbs = d else n = d * 2 ^ k.toNat := by
  unfold twoTo
  split
  · rw [Rat.mkRat_eq_iff hd.ne' (Nat.two_pow_pos _).ne']
    norm_cast
    rw [Nat.one_mul]
  · rw [Rat.mkRat_eq_iff hd.ne' one_ne_zero]
    norm_cast
    rw [Nat.mul_one, Nat.mul_comm]

/-- ⌊log2⌋ of a power of two is its exponent. -/
theorem ilog2_of_eq_twoTo {n d : Nat} {k : Int} (hn : 0 < n) (hd : 0 < d) (h : mkRat n d = twoTo k) : ilog2 n d = k := by
  rw [mkRat_eq_twoTo_iff hd] at h
  split at h
  next hk =>
    subst h
    have he : (Nat.log2 n : Int) - (Nat.log2 (n * 2 ^ k.natAbs) : Nat) = k := by
      rw [log2_mul_two_pow hn.ne']
      omega
    have hj : (-k).toNat = k.natAbs := by omega
    simp only [ilog2, he, hk, if_true, hj, lt_irrefl, if_false]
  next hk =>
    subst h
    have he : ((Nat.log2 (d * 2 ^ k.toNat) : Nat) : Int) - Nat.log2 d = k := by
      rw [log2_mul_two_pow hd.ne']
      omega
    simp only [ilog2, he, hk, if_false, lt_irrefl]

/-- log2 of a power of two is exact. -/
theorem log2Val_of_eq_twoTo {n d : Nat} {k : Int} (hn : 0 < n) (hd : 0 < d) (h : mkRat n d = twoTo k) :
    log2Val n d = .fin (decide (k < 0)) k.natAbs 1 := by
  have he := ilog2_of_eq_twoTo hn hd h
  rw [mkRat_eq_twoTo_iff hd] at h
  unfold log2Val
  simp only [he]
  split at h
  next hk =>
    have hj : (-k).toNat = k.natAbs := by omega
    simp only [hk, if_true, hj, h, beq_self_eq_true, Val.ofInt]
  next hk =>
    simp only [hk, if_false, h, beq_self_eq_true, if_true, Val.ofInt]

theorem isNumber_dyadic_one (k : Int) : IsNumber (.dyadic false 1 k) false (twoTo k) := by
  unfold Val.dyadic twoTo
  split
  · exact ⟨_, _, Nat.two_pow_pos _, rfl, by rw [show (-k).toNat = k.natAbs by omega]; rfl⟩
  · exact ⟨_, _, Nat.one_pos, rfl, by rw [Nat.one_mul]; push_cast; rfl⟩

/-- 2^k is exact for an integer exponent of the range that any format reaches. -/
theorem exp2Val_of_integer {k : Int} {d : Nat} (hd : 0 < d) (hk : k.natAbs ≤ 5000) : exp2Val (k * d) d = .dyadic false 1 k := by
  have hq : (k * d).fdiv d = k := Int.mul_fdiv_cancel k (by omega)
  have he : max (-5000) (min 5000 k) = k := by omega
  simp only [exp2Val, hq, sub_self, he, beq_self_eq_true, if_true]

theorem exp2Val_zero (d : Nat) : exp2Val 0 d = .fin false 1 1 := by
  simp [exp2Val, Val.dyadic]

/-! ### Sines of a quarter and of a twelfth of a turn -/

/-- A whole number of turns and the part i/q of a half turn: that part is what is left of the angle n/d modulo 2. -/
theorem fmod_turn {n j : Int} {d q i : Nat} (hq : 0 < q) (hd : 0 < d) (hi : i < 2 * q) (h : q * n = (2 * q * j + i) * d) :
    q * (n.fmod (2 * d)).toNat = i * d := by
  have hrest : (q : Int) * (n - 2 * d * j) = i * d := by linear_combination h
  have hq' : (0 : Int) < q := by omega
  have hnonneg : 0 ≤ n - 2 * d * j := nonneg_of_mul_nonneg_right (hrest ▸ by positivity) hq'
  have hlt : n - 2 * d * j < 2 * d := by
    refine lt_of_mul_lt_mul_left (a := (q : Int)) ?_ hq'.le
    rw [hrest]
    have : i * d < 2 * q * d := Nat.mul_lt_mul_of_pos_right hi hd
    zify at this
    linarith
  have hmod : n.fmod (2 * d) = n - 2 * d * j := by
    rw [← Int.fmod_eq_of_lt hnonneg hlt, Int.sub_mul_fmod_self_left]
  rw [hmod]
  zify
  rw [Int.toNat_of_nonneg hnonneg, hrest]

/-- The place m of a turn of 2d, taken into the first quarter of the turn as `sinVal` does. -/
def firstQuarter (m d : Nat) : Nat :=
  let r := if decide (m > d) then m - d else m
  if 2 * r > d then d - r else r

theorem sinVal_quarter {n j : Int} {d i : Nat} (hd : 0 < d) (hi : i = 1 ∨ i = 3) (h : 2 * n = (4 * j + i) * d) :
    sinVal n d = .fin (decide (2 < i)) 1 1 := by
  have hm : 2 * (n.fmod (2 * d)).toNat = i * d := fmod_turn (by decide) hd (by omega) h
  have hquarter : 2 * firstQuarter (n.fmod (2 * d)).toNat d = d := by
    simp only [firstQuarter, decide_eq_true_eq]
    obtain rfl | rfl := hi <;> split <;> split <;> omega
  have hneg : ((n.fmod (2 * d)).toNat > d) ↔ 2 < i := by
    obtain rfl | rfl := hi <;> omega
  rw [← decide_eq_decide.mpr hneg]
  exact if_pos (beq_iff_eq.mpr hquarter)

theorem sinVal_twelfth {n j : Int} {d i : Nat} (hd : 0 < d) (hi : i = 1 ∨ i = 5 ∨ i = 7 ∨ i = 11) (h : 6 * n = (12 * j + i) * d) :
    sinVal n d = .fin (decide (6 < i)) 1 2 := by
  have hm : 6 * (n.fmod (2 * d)).toNat = i * d := fmod_turn (by decide) hd (by omega) h
  have htwelfth : 6 * firstQuarter (n.fmod (2 * d)).toNat d = d := by
    simp only [firstQuarter, decide_eq_true_eq]
    obtain rfl | rfl | rfl | rfl := hi <;> split <;> split <;> omega
  have hquarter : 2 * firstQuarter (n.fmod (2 * d)).toNat d ≠ d := by omega
  have hneg : ((n.fmod (2 * d)).toNat > d) ↔ 6 < i := by
    obtain rfl | rfl | rfl | rfl := hi <;> omega
  rw [← decide_eq_decide.mpr hneg]
  exact (if_neg (mt beq_iff_eq.mp hquarter)).trans (if_pos (beq_iff_eq.mpr htwelfth))

end Sys2Proof.Machine

namespace Sys2Proof.Safety
open Sys2Proof.Machine

theorem squareRootEnclosed : Claims.SquareRootEnclosed := by
  intro n d _ hd
  rw [sqrtVal_eq]
  split
  next hexact => exact ⟨_, _, rfl, .inl (by rw [← four_pow]; exact hexact)⟩
  next hne =>
    obtain ⟨hlow, hhigh⟩ := sqrt_floor_encloses hd hne
    exact ⟨_, _, rfl, .inr ⟨by omega, rfl, odd_encloses rfl hlow hhigh⟩⟩

theorem exactFunctionValues : Claims.ExactFunctionValues := by
  refine ⟨fun k d hd hk => ?_, fun k n d hn hd h => log2Val_of_eq_twoTo hn hd h, fun n j d hd => ⟨?_, ?_, ?_, ?_⟩⟩
  · rw [exp2Val_of_integer hd hk]
    exact isNumber_dyadic_one k
  · exact sinVal_quarter (i := 1) hd (by decide)
  · exact sinVal_quarter (i := 3) hd (by decide)
  · rintro (h | h)
    · exact sinVal_twelfth (i := 1) hd (by decide) h
    · exact sinVal_twelfth (i := 5) hd (by decide) h
  · rintro (h | h)
    · exact sinVal_twelfth (i := 7) hd (by decide) h
    · exact sinVal_twelfth (i := 11) hd (by decide) h

/-! ### The table of 09 R194 -/

section
variable {f : VFields} (hsat : f.sat = false) {t : Fmt} {a b c : Nat} {g : Val → Val × Flags} {x : Val}
include hsat

theorem funcElem_of_nan {p : Bool} (hx : fdecode t a = .nan p) :
    funcElem f g t a b c = (t.canonNaN, if anySNaN [.nan p] then fNV else 0#8) := by
  simp only [funcElem, hx, Val.isNaN, if_true]
  exact deliver_nan hsat t f.rnd false _

/-- 09 R194: the value of a function at an operand that is no NaN, rounded once. -/
theorem funcElem_of_val {y : Val} {fl : Flags} (hx : fdecode t a = x) (hnum : x.isNaN = false) (hg : g x = (y, fl)) :
    funcElem f g t a b c = ((flushOut t f.fzo (roundTo t f.rnd y)).1, (flushOut t f.fzo (roundTo t f.rnd y)).2 ||| fl) := by
  simp only [funcElem, hx, hnum, hg, Bool.false_eq_true, if_false]
  exact deliver_of_no_sat hsat t f.rnd y fl

/-- 09 R194: an operand outside the domain of a function gives the canonical NaN. -/
theorem funcElem_of_invalid {q : Bool} {fl : Flags} (hx : fdecode t a = x) (hnum : x.isNaN = false) (hg : g x = (.nan q, fl)) :
    funcElem f g t a b c = (t.canonNaN, fl) := by
  simp only [funcElem, hx, hnum, hg, Bool.false_eq_true, if_false]
  exact deliver_nan hsat t f.rnd q fl

end

theorem snanFlag_numbers {x y : Val} (hx : x.isNaN = false) (hy : y.isNaN = false) : snanFlag [x, y] = 0#8 := by
  simp [snanFlag, flagIf, isSNaN_of_number hx, isSNaN_of_number hy]

section
variable {f : VFields} (hsat : f.sat = false) {t : Fmt} {a b c : Nat} {x y : Val}
include hsat

/-- 09 R194: a quotient with a NaN operand. -/
theorem fdivElem_of_nan (hx : fdecode t a = x) (hy : fdecode t b = y) (hnan : x.isNaN = true ∨ y.isNaN = true) :
    fdivElem f t a b c = (t.canonNaN, if anySNaN [x, y] then fNV else 0#8) := by
  have hq : quotient x y = (.nan false, 0#8) := by
    cases x with
    | nan p => rfl
    | _ =>
      cases y with
      | nan q => rfl
      | _ => simp [Val.isNaN] at hnan
  simp only [fdivElem, hx, hy, hq, BitVec.zero_or]
  exact deliver_nan hsat t f.rnd false _

theorem fdivElem_of_val {v : Val} {fl : Flags} (hx : fdecode t a = x) (hy : fdecode t b = y) (hnx : x.isNaN = false) (hny : y.isNaN = false)
    (hq : quotient x y = (v, fl)) :
    fdivElem f t a b c = ((flushOut t f.fzo (roundTo t f.rnd v)).1, (flushOut t f.fzo (roundTo t f.rnd v)).2 ||| fl) := by
  simp only [fdivElem, hx, hy, hq, snanFlag_numbers hnx hny, BitVec.or_zero]
  exact deliver_of_no_sat hsat t f.rnd v fl

theorem fdivElem_of_invalid {fl : Flags} {p : Bool} (hx : fdecode t a = x) (hy : fdecode t b = y) (hnx : x.isNaN = false) (hny : y.isNaN = false)
    (hq : quotient x y = (.nan p, fl)) : fdivElem f t a b c = (t.canonNaN, fl) := by
  simp only [fdivElem, hx, hy, hq, snanFlag_numbers hnx hny, BitVec.or_zero]
  exact deliver_nan hsat t f.rnd p fl

end

theorem floatFunctionTable : Claims.FloatFunctions := by
  intro h f s w t n k hw ht hsat nan is sn
  refine ⟨floatPromise_of_elem hw ht rfl fun a b c => ?fdiv, floatPromise_of_elem hw ht rfl fun a b c => ?frcp,
    floatPromise_of_elem hw ht rfl fun a b c => ?fsqrt, floatPromise_of_elem hw ht rfl fun a b c => ?frsq,
    floatPromise_of_elem hw ht rfl fun a b c => ?fex2, floatPromise_of_elem hw ht rfl fun a b c => ?flg2,
    floatPromise_of_elem hw ht rfl fun a b c => ?fsin, floatPromise_of_elem hw ht rfl fun a b c => ?fcos⟩
  case fdiv =>
    cases hx : fdecode t a with
    | nan p => exact fdivElem_of_nan hsat hx rfl (.inl rfl)
    | inf p =>
      cases hy : fdecode t b with
      | nan q => exact fdivElem_of_nan hsat hx hy (.inr rfl)
      | inf q => exact fdivElem_of_invalid hsat hx hy rfl rfl rfl
      | fin q o e => exact fdivElem_of_val hsat hx hy rfl rfl rfl
    | fin p m d =>
      cases hy : fdecode t b with
      | nan q => exact fdivElem_of_nan hsat hx hy (.inr rfl)
      | inf q => exact fdivElem_of_val hsat hx hy rfl rfl rfl
      | fin q o e =>
        dsimp only
        split
        next ho =>
          split
          next hm => exact fdivElem_of_invalid hsat hx hy rfl rfl (p := false) (by simp [quotient, ho, hm])
          next hm => exact fdivElem_of_val hsat hx hy rfl rfl (by simp [quotient, ho, hm])
        next ho => exact fdivElem_of_val hsat hx hy rfl rfl (by simp [quotient, ho])
  case frcp =>
    cases hx : fdecode t a with
    | nan p => exact funcElem_of_nan hsat hx
    | inf p => exact funcElem_of_val hsat hx rfl (by simp [rcpFn, quotient])
    | fin p m d =>
      dsimp only
      split
      next hm => exact funcElem_of_val hsat hx rfl (by simp [rcpFn, quotient, hm])
      next hm => exact funcElem_of_val hsat hx rfl (by simp [rcpFn, quotient, hm])
  case fsqrt | frsq | flg2 =>
    cases hx : fdecode t a with
    | nan p => exact funcElem_of_nan hsat hx
    | inf p =>
      cases p
      · exact funcElem_of_val hsat hx rfl rfl
      · exact funcElem_of_invalid hsat hx rfl rfl
    | fin p m d =>
      dsimp only
      split
      next hm => exact funcElem_of_val hsat hx rfl (by simp [sqrtFn, rsqFn, lg2Fn, hm])
      next hm =>
        cases p
        · exact funcElem_of_val hsat hx rfl (by simp [sqrtFn, rsqFn, lg2Fn, hm])
        · exact funcElem_of_invalid hsat hx rfl (q := false) (by simp [sqrtFn, rsqFn, lg2Fn, hm])
  case fex2 =>
    cases hx : fdecode t a with
    | nan p => exact funcElem_of_nan hsat hx
    | inf p =>
      cases p
      · exact funcElem_of_val hsat hx rfl rfl
      · exact funcElem_of_val hsat hx rfl rfl
    | fin p m d =>
      have hpow := funcElem_of_val hsat (b := b) (c := c) (g := ex2Fn) hx rfl rfl
      refine ⟨fun hm => ?_, hpow⟩
      have hzero : (Val.fin p m d).snum = 0 := by cases p <;> simp [Val.snum, hm]
      rwa [hzero, exp2Val_zero] at hpow
  case fsin =>
    cases hx : fdecode t a with
    | nan p => exact funcElem_of_nan hsat hx
    | inf p => exact funcElem_of_invalid hsat hx rfl rfl
    | fin p m d =>
      dsimp only
      split
      next hm => exact funcElem_of_val hsat hx rfl (by simp [sinFn, hm])
      next hm => exact funcElem_of_val hsat hx rfl (by simp [sinFn, hm])
  case fcos =>
    cases hx : fdecode t a with
    | nan p => exact funcElem_of_nan hsat hx
    | inf p => exact funcElem_of_invalid hsat hx rfl rfl
    | fin p m d =>
      dsimp only
      split
      next hm => exact funcElem_of_val hsat hx rfl (by simp [cosFn, hm])
      next hm =>
        split
        next hhalf => exact funcElem_of_val hsat hx rfl (by simp [cosFn, hm, hhalf, Val.zero])
        next hhalf => exact funcElem_of_val hsat hx rfl (by simp [cosFn, hm, hhalf])

/-- Settles O9: the rows of 09 R194 by `funcElem` and `fdivElem`, roots by `sqrt_floor_encloses`, rational values by powers of two and parts
of a turn (log entry 9). -/
theorem floatFunctions : Obligations.FloatFunctions := ⟨floatFunctionTable, squareRootEnclosed, exactFunctionValues⟩

end Sys2Proof.Safety
end

section
/-! PROOF. O10: rounding to an integer, the fraction, scaling, dot products and interpolation (09 R195 to R197, R199, R200). -/

namespace Sys2Proof.Machine

open Sys2Proof.Safety

/-! ### Scaling (09 R197) -/

theorem scaleVal_special {x : Val} (hx : x.isNaN = true ∨ x.isInf = true) (z : Int) : scaleVal x z = x := by
  cases x with
  | nan p => rfl
  | inf p => rfl
  | fin p m d => simp [Val.isNaN, Val.isInf] at hx

/-- An exponent of at most 5,000 in size is applied exactly. -/
theorem scaleVal_fin {z : Int} (hz : z.natAbs ≤ 5000) (p : Bool) (m d : Nat) :
    scaleVal (.fin p m d) z = if z < 0 then .fin p m (d * 2 ^ z.natAbs) else .fin p (m * 2 ^ z.natAbs) d := by
  have hclamp : max (-5000) (min 5000 z) = z := by omega
  simp only [scaleVal, hclamp]
  split
  · rw [show (-z).toNat = z.natAbs by omega]
  · rw [show z.toNat = z.natAbs by omega]

/-- The exponent of element `j`: half of a register for a type of 16 bits. -/
def scaleOf (n b j : Nat) : Int :=
  if n = 2 then ({ w := 16, signed := true } : IFmt).read (b / 2 ^ (16 * j)) else i32.read b

theorem snanFlag_one (x : Val) : snanFlag [x] = if x.isSNaN then fNV else 0#8 := by
  cases h : x.isSNaN <;> simp [snanFlag, flagIf, h]

/-- What `fldexpOp` gives a lane. -/
theorem fldexpOp_lane {f : VFields} {t : Fmt} {n k : Nat} (ht : FltType f.sub t n k) (h : Hdr) (w : Wave) (l : Nat) :
    fldexpOp h f w l (w.lane l) =
      let x (j : Nat) : Val := fdecode t (fltIn f t (fltA h f w t l) j)
      let r := joinElems t ((List.range n).map fun j =>
        deliver f t f.rnd (scaleVal (x j) (scaleOf n (srcB h f w (w.lane l) 1 .plain) j)) (snanFlag [x j]))
      outRegs f.d k r.1 r.2 := by
  simp only [fldexpOp, ht.regs, ht.srcA_eq, ht.fmt, ht.elems, beq_iff_eq]
  rfl

/-! ### Dot products and interpolation (09 R199, R200) -/

/-- What `fdot2Op` gives a lane, in the words of the statement. -/
theorem fdot2Op_lane {f : VFields} {t : Fmt} {k : Nat} (ht : FltType f.sub t 2 k) (h : Hdr) (w : Wave) (l : Nat) :
    fdot2Op h f w l (w.lane l) =
      let va (j : Nat) : Val := fdecode t (fltIn f t (fltA h f w t l) j)
      let vb (j : Nat) : Val := fdecode t (fltIn f t (fltB h f w t l) j)
      let c : Val := fdecode .f32 (flushIn .f32 f.fzi (fltC f w .f32 l))
      let r := exactSum f .f32 [va 0, va 1, vb 0, vb 1, c] (((va 0).mul (vb 0)).2 || ((va 1).mul (vb 1)).2)
        [((va 0).mul (vb 0)).1, ((va 1).mul (vb 1)).1, c]
      outRegs f.d 1 r.1 r.2 := by
  have hnarrow := ht.narrow rfl
  simp only [fdot2Op, ht.fmt, fltA, fltB, hnarrow, if_false]
  rfl

/-- 09 R200: the weighted sum, each product one addend. -/
theorem flerpElem_sum {f : VFields} {t : Fmt} {a b c : Nat}
    (h : (f.kc && ((fdecode t b).isNaN || (fdecode t b).isInf)) = false) :
    let m := (Val.sum f.rnd [.fin false 1 1, (fdecode t c).negate]).1
    let p := (fdecode t a).mul m
    let q := (fdecode t b).mul (fdecode t c)
    flerpElem f t a b c = exactSum f t [fdecode t a, fdecode t b, fdecode t c] (p.2 || q.2) [p.1, q.1] := by
  simp only [flerpElem, h, Bool.false_eq_true, if_false]

/-- The weight +0 of KC = 1 leaves an infinite or NaN b out (log entry 10). -/
theorem flerpElem_first {f : VFields} {t : Fmt} {a b c : Nat} (hkc : f.kc = true)
    (h : ((fdecode t b).isNaN || (fdecode t b).isInf) = true) :
    flerpElem f t a b c = deliver f t f.rnd (fdecode t a) (snanFlag [fdecode t a, fdecode t b]) := by
  simp only [flerpElem, hkc, h, Bool.and_true, if_true]

end Sys2Proof.Machine

namespace Sys2Proof.Safety
open Sys2Proof.Machine

/-- 09 R197: FLDEXP scales each element by its own exponent. -/
theorem fldexp_scales {h : Hdr} {f : VFields} {s : State} {w : Wave} {t : Fmt} {n k : Nat} (hw : Issuing s w) (ht : FltType f.sub t n k) :
    let e (l j : Nat) : Nat × Flags :=
      let x := fdecode t (fltIn f t (fltA h f w t l) j)
      deliver f t f.rnd (scaleVal x (scaleOf n (srcB h f w (w.lane l) 1 .plain) j)) (snanFlag [x])
    ∃ (u : State) (w' : Wave) (v : Nat → Nat) (fl : Nat → Flags), exec (.fldexp h f) s = .next u ∧
      Computes s h w (fun l => block f.d.toNat k (v l)) noPred fl u w' ∧ ∀ l, Packed t n (e l) (v l) (fl l) :=
  let ⟨u, w', hexec, hc⟩ := computes_block hw rfl (fldexpOp_lane ht h w)
  ⟨u, w', _, _, hexec, hc, fun _ => packed_joinElems t ht.count _⟩

theorem floatIntegers : Claims.FloatIntegers := by
  intro h f s w t n k hw ht
  refine ⟨floatStep_of_elem hw ht rfl fun a b c _ => ?frnd, floatStep_of_elem hw ht rfl fun a b c _ => ?ffrac, fun hsat => ?fldexp⟩
  case frnd =>
    unfold frndElem
    cases fdecode t a with
    | nan p => rfl
    | inf p => rfl
    | fin p m d => rfl
  case ffrac =>
    unfold ffracElem
    cases fdecode t a with
    | nan p => rfl
    | inf p => rfl
    | fin p m d =>
      refine ⟨((Val.fin p m d).snum.fmod d).toNat, fun hd => ⟨?_, rfl⟩⟩
      rw [Int.fmod_eq_emod_of_nonneg _ (by omega), Int.toNat_of_nonneg (Int.emod_nonneg _ (by omega)), Int.emod_def, Int.mul_comm]
  case fldexp =>
    obtain ⟨u, w', v, fl, hexec, hc, hpacked⟩ := fldexp_scales (h := h) hw (fltType_of_mem ht)
    refine ⟨u, w', v, fl, _, hexec, hc, fun l => ⟨hpacked l, fun j _ => ?_⟩⟩
    intro b x z
    refine ⟨scaleVal x z, ?_, fun hx => scaleVal_special hx z, fun p m d hx hz => ?_⟩
    · rw [← snanFlag_one]
      exact deliver_of_no_sat hsat t f.rnd _ _
    · rw [hx, scaleVal_fin hz]

theorem floatDotAndInterpolation : Claims.FloatDotAndInterpolation := by
  intro h f s w t n k hw ht
  refine ⟨fun hn => ?fdot2, floatStep_of_elem hw ht rfl fun a b c _ => ?flerp⟩
  case fdot2 =>
    subst hn
    obtain ⟨u, w', hexec, hc⟩ := computes_block (i := .fdot2 h f) hw rfl (fdot2Op_lane (fltType_of_mem ht) h w)
    refine ⟨u, w', _, _, hexec, hc, fun l => ?_⟩
    intro va vb c x
    have hsum := exactSum_delivered f .f32 [va 0, va 1, vb 0, vb 1, c] (((va 0).mul (vb 0)).2 || ((va 1).mul (vb 1)).2)
      [((va 0).mul (vb 0)).1, ((va 1).mul (vb 1)).1, c]
    rwa [← Bool.or_assoc] at hsum
  case flerp =>
    intro m p q x special
    refine ⟨fun hplain => ?_, fun hkc hspecial => ?_⟩
    · have hsum := exactSum_delivered f t [fdecode t a, fdecode t b, fdecode t c] (p.2 || q.2) [p.1, q.1]
      rw [← Bool.or_assoc] at hsum
      rwa [flerpElem_sum (Bool.and_eq_false_iff.mpr hplain)]
    · rw [flerpElem_first hkc hspecial]
      exact deliver_delivered f t _ _

/-- Settles O10: each element by its own function, sums by `exactSum_delivered` (log entries 10, 52, 59). -/
theorem floatIntegersAndDots : Obligations.FloatIntegersAndDots := ⟨floatIntegers, floatDotAndInterpolation⟩

end Sys2Proof.Safety
end

section
/-! PROOF. O30: an MMA on a record that has scales of A rows and no blocks. -/

namespace Sys2Proof.Machine

/-- A valid record of an I8 panel of 64 × 8 elements with ASC = 1 and BLK = 0 (10 R203), which OBRES refuses as malformed (10 R204). -/
def scaledRowsNoBlocks : BitVec 128 := BitVec.ofNat 128 (2 ^ 63 + 2 ^ 19 + 2 * 2 ^ 9 + 8)

def scaledRowsPanel : Panel := panelOf scaledRowsNoBlocks.toNat

/-- One side with that record in slot 0, whose tile 0 is an I32 tile. -/
def scaledRowsSide : Side :=
  { Side.reset with slots := Side.reset.slots.set 0 scaledRowsNoBlocks, types := Side.reset.types.set 0 1 }

/-- A team of one tile with that side; register v16 of each lane of its wave holds 1. -/
def Team.withScaledRows (t : Team) : Team :=
  { t with
    tiles := 1
    sides := [scaledRowsSide]
    waves := t.waves.map (fun w => { w with lanes := w.lanes.map (fun ln => ln.setV 16 1) }) }

/-- A device with that team on core 0, all eight lanes of its wave in the current issue. -/
def scaledRowsIssue : State := { flushIssue with teams := flushIssue.teams.map Team.withScaledRows }

/-- MMA on slot 0 and tile 0 with A rows from v0 and no convergence register (10 R212). -/
def scaledRowsHdr : Hdr := { sw := false, keep := 0, gn := false, gp := 7, x := none }
def scaledRowsMma : VFields :=
  { d := 0, a := 0, b := 0, c := 8, ka := .vec, kb := .vec, kc := false, rnd := .rn, fzi := false, fzo := false, sat := false, sub := 0 }

def scaledRowsTeam : Team := (scaledRowsIssue.team? 1).getD Team.reset
def scaledRowsWave : Wave := (scaledRowsIssue.wave? flushRef).getD Wave.reset

/-- What the engine of core 0 has of the first row of its first operation, in the state of an outcome. -/
def firstRowQueued : Res → Option (Nat × Nat)
  | .next t => ((t.core 0).engine.head?).bind (fun o => o.rows.head?)
  | _ => none

/-- 10 R208: with BLK = 0 an A row has no scales, so MMA reads sixteen registers of each lane, v0 to v15. -/
theorem scaledRows_reads_sixteen : firstRowQueued (exec (.mma scaledRowsHdr scaledRowsMma) scaledRowsIssue) = some (0, 0) := by decide +kernel

/-- The premises of the MMA clause about the state, the wave, the team and its side. -/
theorem scaledRows_meets : scaledRowsIssue.team? scaledRowsIssue.cur.team = some scaledRowsTeam ∧ scaledRowsTeam.sides[0]? = some scaledRowsSide ∧
    scaledRowsIssue.poisonRegs = [] ∧ scaledRowsWave.lanes.length ≤ 64 ∧ scaledRowsMma.c.toNat % 16 ≤ 8 ∧ scaledRowsWave.cvs.length = 8 ∧
    scaledRowsSide.panel? 0 = some scaledRowsPanel ∧ (scaledRowsIssue.core scaledRowsWave.core).engine = [] := by
  decide +kernel

end Sys2Proof.Machine

namespace Sys2Proof.Safety
open Sys2Proof.Machine

theorem scaledRows_engineRoom : EngineRoom scaledRowsIssue scaledRowsWave := by
  unfold EngineRoom
  decide +kernel

/-- Refutes O30: the MMA clause takes any record for the panel, also one with ASC = 1 and BLK = 0, and states that a scale row of it brings
one more register of each lane (v16, which holds 1); the model, for which a panel without blocks has no scale row, reads v0 to v15. -/
theorem not_matrixProducts : ¬ Obligations.MatrixProducts := by
  unfold Obligations.MatrixProducts
  rintro ⟨hissue, -⟩
  obtain ⟨hteam, hside, hpoison, hlanes, hcv, hcvs, hpanel, hidle⟩ := scaledRows_meets
  obtain ⟨-, -, hpanels⟩ := hissue scaledRowsHdr scaledRowsMma scaledRowsIssue scaledRowsWave scaledRowsTeam scaledRowsSide rfl
    ⟨0, by decide⟩ hteam hside hpoison scaledRows_engineRoom hlanes hcv hcvs
  obtain ⟨-, hgoes⟩ := hpanels scaledRowsPanel (.inl rfl) hpanel
  obtain ⟨t, w', rows, hexec, hqueued, hrows⟩ := hgoes (by decide +kernel)
  obtain ⟨m, -, hengine⟩ := hqueued.queue
  have hfirst : rows.head? = some (0, 2 ^ 512) := by
    rw [hrows]
    decide +kernel
  have hclaimed : firstRowQueued (exec (.mma scaledRowsHdr scaledRowsMma) scaledRowsIssue) = some (0, 2 ^ 512) := by
    rw [hexec, ← hfirst]
    exact congrArg (fun l : List EngineOp => l.head?.bind (fun o => o.rows.head?)) (hengine.trans (by rw [hidle, List.nil_append]))
  rw [scaledRows_reads_sixteen] at hclaimed
  exact absurd hclaimed (by decide +kernel)

end Sys2Proof.Safety
end

section
/-! PROOF. O31: a row of a DRAIN that reaches into a page whose translation its own look-up of the page before has pushed out of the TLB. -/

namespace Sys2Proof.Machine

/-- DRAIN of tile 0 to the address in s16:s17, its window in s0 to s3 (10 R220). -/
def twoPageHdr : Hdr := { sw := false, keep := 0, gn := false, gp := 7, x := none }
def twoPageDrain : XFields := { w := 0, a := 16, b := 0, cboff := 0, var := 0, sub := 0 }

/-- The translation of a page to itself, for plain data that may be read, written and executed. -/
def pageToItself (page : Nat) : TlbEntry := { asn := 0, page := page, log2 := 12, pa := 4096 * page, mtype := .cached, perms := 7 }

/-- A first-level TLB of 64 translations (04 R82), the oldest that of page 0x11; none is of page 0x10. -/
def fullTlb : List TlbEntry := pageToItself 0x11 :: List.replicate 63 (pageToItself 0x100)

/-- The DRAIN has begun and is at row 0; its number is 7. -/
def twoPageProg : Prog :=
  { instr := .drain twoPageHdr twoPageDrain, mask := 0xFF#64, pc := 0x10000#64, begun := true, issued := true, lanes := [], flags := 0, data := [7, 0, 0] }

/-- The DRAIN as the engine of its core holds it. -/
def twoPageOp : EngineOp :=
  { team := 1, wave := 0, out := 7, instr := .drain twoPageHdr twoPageDrain, pc := 0x10000#64, mask := 0xFF#64, helper := 0, rows := [], panels := [], xl := [] }

/-- A team of one tile; the DRAIN of its wave writes row 0 to the 256 bytes from 0x10F80, half of which lie in page 0x11. -/
def Team.drainsAcrossPages (t : Team) : Team :=
  { t with tiles := 1, waves := t.waves.map (fun w => { w.setS 16 0x10F80 with prog := some twoPageProg }) }

/-- A device with that team on core 0, whose TLB is full; the TLB of die 0 holds the translation of page 0x10 and no other. -/
def twoPageIssue : State :=
  ({ flushIssue with teams := flushIssue.teams.map Team.drainsAcrossPages }.updCore 0 (fun c => { c with tlb := fullTlb, engine := [twoPageOp] })).updDie 0
    (fun d => { d with tlb := [pageToItself 0x10] })

def twoPageTeam : Team := (twoPageIssue.team? 1).getD Team.reset
def twoPageWave : Wave := (twoPageIssue.wave? flushRef).getD Wave.reset

/-- Where element `j` of row 0 goes, by the translations that the TLBs hold at the start of the step. -/
def twoPageXlat (j : Nat) : Xlat := { pa := 0x10F80 + 4 * j, mtype := .cached, perms := 7, log2 := 12 }

/-- The progress of the DRAIN in the state of an outcome: its number, its next row, the type of its tile. -/
def drainProgress : Res → Option (List Nat)
  | .next t => ((t.wave? flushRef).bind Wave.prog).map Prog.data
  | _ => none

/-- 04 R82, R85: the hit in the die's TLB fills the core's, whose oldest translation, that of page 0x11, leaves; element 32 misses, and the
wave waits for its walk at row 0. -/
theorem twoPage_waits : drainProgress (exec (.drain twoPageHdr twoPageDrain) twoPageIssue) = some [7, 0, 0] := by decide +kernel

/-- The premises of the DRAIN clause about the state, the team, the wave and the engine. -/
theorem twoPage_meets : twoPageIssue.team? twoPageIssue.cur.team = some twoPageTeam ∧ twoPageTeam.sides[0]? = some Side.reset ∧
    twoPageIssue.poisonRegs = [] ∧ twoPageWave.prog = some twoPageProg ∧ twoPageIssue.cur.whole = false ∧ twoPageWave.park = .none ∧
    (twoPageIssue.core twoPageWave.core).engine.head? = some twoPageOp ∧ twoPageWave.core < twoPageIssue.cores.length ∧ twoPageWave.stop = false := by
  decide +kernel

end Sys2Proof.Machine

namespace Sys2Proof.Safety
open Sys2Proof.Machine

theorem twoPage_startsFresh : StartsFresh twoPageIssue twoPageWave := by
  obtain ⟨-, -, -, -, hwhole, hpark, -⟩ := twoPage_meets
  exact ⟨hwhole, by simp [hpark]⟩

theorem twoPage_lowest : Lowest (fun l => takes twoPageIssue twoPageHdr twoPageWave l = true ∧ twoPageWave.helper.getLsbD l = false) 0 :=
  ⟨by decide, fun k hk => absurd hk (Nat.not_lt_zero k)⟩

/-- Refutes O31: the DRAIN clause takes a row to be written when every element hits in the state at the start of the step. The model looks the
elements up one after another; where the first hits in the die's TLB alone, the core's full TLB drops its oldest translation for it
(04 R82), here that of the row's second page, and the wave waits for a walk in place of writing row 0. -/
theorem not_drainedTiles : ¬ Obligations.DrainedTiles := by
  unfold Obligations.DrainedTiles
  rintro ⟨⟨-, hrows, -⟩, -⟩
  obtain ⟨hteam, hside, hpoison, hprog, -, -, hhead, hcore, hstop⟩ := twoPage_meets
  obtain ⟨-, -, -, -, hputs, -⟩ := hrows twoPageHdr twoPageDrain twoPageIssue twoPageWave twoPageTeam Side.reset twoPageProg twoPageOp 7 0 0 0 rfl
    twoPage_startsFresh hpoison hteam hside (.inl rfl) hprog rfl rfl hhead rfl rfl hcore twoPage_lowest
  obtain ⟨t, w', q, o', hexec, hwave, hnext, -, hdata, -⟩ := hputs hstop (by decide) rfl twoPageXlat (by decide +kernel)
  have hclaimed : drainProgress (exec (.drain twoPageHdr twoPageDrain) twoPageIssue) = some [7, 1, 0] := by
    rw [hexec, drainProgress, show t.wave? flushRef = some w' from hwave, Option.bind_some, hnext, Option.map_some, hdata]
  rw [twoPage_waits] at hclaimed
  exact absurd hclaimed (by decide)

end Sys2Proof.Safety
end

section
/-! PROOF. O29: the sides of a team, the words of a tile, and what the engine's queue gains and loses. -/

namespace Sys2Proof.Machine
open Sys2Proof.Safety

/-! ### One side of a team -/

theorem sideOf_eq_ownSide (tm : Team) (w : Wave) : tm.sideOf w.core = ownSide tm w := by simp [Team.sideOf, ownSide]

theorem Team.side_eq {tm : Team} {k : Nat} {d : Side} (hd : tm.sides[k]? = some d) : tm.side k = d := by
  rw [Team.side, List.getD_eq_getElem?_getD, hd, Option.getD_some]

/-- The side on which the current wave runs. -/
theorem State.curSide_eq {s : State} {w : Wave} {tm : Team} (hw : Issuing s w) (htm : s.team? s.cur.team = some tm) : s.curSide = ownSide tm w := by
  rw [State.curSide, State.curTeam_eq s tm htm, State.curWave_eq s w hw, sideOf_eq_ownSide]

/-- Side `k` of team `u`, which is `tm`, becomes `d`; no wave and nothing else changes. -/
structure SideBecomes (s : State) (u : Nat) (tm : Team) (k : Nat) (d : Side) (t : State) : Prop where
  rest : { t with teams := s.teams } = s
  waves : ∀ q, t.wave? q = s.wave? q
  team : t.team? u = some { tm with sides := tm.sides.set k d }

section
variable {s t : State} {u k : Nat} {tm : Team} {d : Side}

theorem sideBecomes_self (htm : s.team? u = some tm) (hd : tm.sides[k]? = some d) : SideBecomes s u tm k d s := by
  have hsame : tm.sides.set k d = tm.sides := (listSet_eq_set id hd).symm.trans ((listSet_eq_modify _ _ _).trans (List.modify_id _ _))
  exact ⟨rfl, fun _ => rfl, by rw [hsame, htm]⟩

theorem sideBecomes_updSideOf (htm : s.team? u = some tm) (hd : tm.sides[k]? = some d) (f : Side → Side) :
    SideBecomes s u tm k (f d) (s.updSideOf u k f) where
  rest := rfl
  waves q := wave?_updTeam s u q _ (fun _ => rfl) (fun _ => rfl)
  team := by
    rw [State.updSideOf, State.team?_updTeam s u u (fun x => x.updSide k f) (fun _ => rfl), if_pos rfl, htm, Option.map_some, Team.updSide, listSet_eq_set f hd]

variable (hb : SideBecomes s u tm k d t)
include hb

theorem SideBecomes.cur : t.cur = s.cur := (congrArg State.cur hb.rest :)
theorem SideBecomes.cores : t.cores = s.cores := (congrArg State.cores hb.rest :)
theorem SideBecomes.mem : t.mem = s.mem := (congrArg State.mem hb.rest :)
theorem SideBecomes.curRef : t.curRef = s.curRef := by rw [State.curRef, hb.cur, State.curRef]
theorem SideBecomes.issuing {w : Wave} (hw : Issuing s w) : Issuing t w := (hb.waves _).trans (hb.curRef ▸ hw)

end

/-- A team is told by what it is without its waves and its sides, and by its sides. -/
theorem team?_of_bare {t u : State} (h : u.teams.map bare = t.teams.map bare) {v : Nat} {tm : Team} (htm : t.team? v = some tm) :
    ∃ tm', u.team? v = some tm' ∧ bare tm' = bare tm := by
  have hfind (x : State) : (x.team? v).map bare = (x.teams.map bare).find? (fun y => y.uid == v) := by
    rw [List.find?_map]
    rfl
  have hsame : (u.team? v).map bare = some (bare tm) := by rw [hfind, h, ← hfind, htm, Option.map_some]
  obtain ⟨tm', htm', hbare⟩ := Option.map_eq_some_iff.mp hsame
  exact ⟨tm', htm', hbare⟩

theorem SideBecomes.team_of_bare {s t v : State} {u k : Nat} {tm : Team} {d : Side} (hb : SideBecomes s u tm k d t)
    (h : v.teams.map bare = t.teams.map bare) : ∃ tm', v.team? u = some tm' ∧
      { tm' with waves := [], sides := [] } = { tm with waves := [], sides := [] } ∧ tm'.sides = tm.sides.set k d := by
  obtain ⟨tm', htm', hbare⟩ := team?_of_bare h hb.team
  exact ⟨tm', htm', congrArg (fun x : Team => { x with sides := [] }) hbare, congrArg Team.sides hbare⟩

/-- The current wave, after its team's side has changed, becomes `x` and moves on. -/
theorem SideBecomes.step {s t : State} {h : Hdr} {w x : Wave} {tm : Team} {d : Side} (hb : SideBecomes s s.cur.team tm (ownSide tm w) d t)
    (hw : Issuing s w) {g : Wave → Wave} (hg : g w = x) (hlanes : x.lanes = w.lanes) (hrun : x.runEnd = w.runEnd) :
    SideStep s h w x tm d ((t.updCur g).finish h) := by
  have hwt := hb.issuing hw
  obtain ⟨w', hturns⟩ := finish_turns (s := s) (h := h) (t := t.updCur g) (x := x)
    (by rw [← hb.curRef, State.wave?_updCur t g w hwt, hg]) hb.cur
    (fun q hq => (State.wave?_updWave_ne t t.curRef q g (hb.curRef ▸ hq)).trans (hb.waves q)) hlanes hrun
  refine ⟨w', hturns, hb.rest, hb.team_of_bare ?_⟩
  exact (Elsewhere.updCur (t.updCur g) _).teams.trans (Elsewhere.updCur t g).teams

/-- The current wave only moves on. -/
theorem SideBecomes.onwards {s t : State} {h : Hdr} {w : Wave} {tm : Team} {d : Side} (hb : SideBecomes s s.cur.team tm (ownSide tm w) d t)
    (hw : Issuing s w) : SideStep s h w w tm d (t.finish h) := by
  obtain ⟨w', hturns⟩ := finish_turns (s := s) (h := h) (t := t) (x := w) ((hb.waves _).trans hw) hb.cur (fun q _ => hb.waves q) rfl rfl
  exact ⟨w', hturns, hb.rest, hb.team_of_bare (Elsewhere.updCur t _).teams⟩

/-! ### Ranges of a sparse map -/

section
variable {n : Nat}

theorem cellGet_append_of_not_mem {a : Cells n} (b : Cells n) {k : Nat} (h : ∀ p ∈ a, p.1 ≠ k) : cellGet (a ++ b) k = cellGet b k := by
  induction a with
  | nil => rfl
  | cons p a ih =>
    obtain ⟨j, v⟩ := p
    rw [List.cons_append, cellGet, if_neg (h (j, v) List.mem_cons_self), ih fun q hq => h q (List.mem_cons_of_mem _ hq)]

theorem cellGet_of_not_mem {a : Cells n} {k : Nat} (h : ∀ p ∈ a, p.1 ≠ k) : cellGet a k = 0#n := by
  have := cellGet_append_of_not_mem [] h
  rwa [List.append_nil] at this

theorem cellGet_append_left (a : Cells n) {b : Cells n} {k : Nat} (h : ∀ p ∈ b, p.1 ≠ k) : cellGet (a ++ b) k = cellGet a k := by
  induction a with
  | nil => exact cellGet_of_not_mem h
  | cons p a ih =>
    obtain ⟨j, v⟩ := p
    rw [List.cons_append, cellGet, cellGet, ih]

/-- The keys that pass a test keep their values. -/
theorem cellGet_filter (m : Cells n) (P : Nat → Bool) (k : Nat) : cellGet (m.filter (fun c => P c.1)) k = if P k then cellGet m k else 0#n := by
  induction m with
  | nil => simp [cellGet]
  | cons p m ih =>
    obtain ⟨j, v⟩ := p
    rw [List.filter_cons]
    by_cases hjk : j = k
    · subst hjk
      by_cases hP : P j
      · simp [hP, cellGet]
      · rw [if_neg hP, ih, if_neg hP, if_neg hP]
    · split
      · rw [cellGet, if_neg hjk, ih, cellGet, if_neg hjk]
      · rw [ih, cellGet, if_neg hjk]

end

/-- What a splice leaves at a key outside its range. -/
theorem cellGet_cellSplice_out {m new : Cells 32} {lo hi k : Nat} (hnew : ∀ p ∈ new, lo ≤ p.1 ∧ p.1 < hi) (hle : lo ≤ hi) (hk : k < lo ∨ hi ≤ k) :
    cellGet (cellSplice m lo hi new) k = cellGet m k := by
  have hmid : ∀ p ∈ new, p.1 ≠ k := fun p hp => by have := hnew p hp; omega
  rw [cellSplice]
  rcases hk with hk | hk
  · rw [List.append_assoc, cellGet_append_left, cellGet_filter m (fun c => decide (c < lo)), if_pos (decide_eq_true hk)]
    intro p hp
    rcases List.mem_append.mp hp with hp | hp
    · exact hmid p hp
    · have := (List.mem_filter.mp hp).2
      simp only [decide_eq_true_eq] at this
      omega
  · rw [cellGet_append_of_not_mem, cellGet_filter m (fun c => decide (hi ≤ c)), if_pos (decide_eq_true hk)]
    intro p hp
    rcases List.mem_append.mp hp with hp | hp
    · have := (List.mem_filter.mp hp).2
      simp only [decide_eq_true_eq] at this
      omega
    · exact hmid p hp

/-- What a splice leaves at a key of its range. -/
theorem cellGet_cellSplice_in {m new : Cells 32} {lo hi k : Nat} (hlo : lo ≤ k) (hhi : k < hi) : cellGet (cellSplice m lo hi new) k = cellGet new k := by
  rw [cellSplice, cellGet_append_left, cellGet_append_of_not_mem]
  · intro p hp
    have := (List.mem_filter.mp hp).2
    simp only [decide_eq_true_eq] at this
    omega
  · intro p hp
    have := (List.mem_filter.mp hp).2
    simp only [decide_eq_true_eq] at this
    omega

end Sys2Proof.Machine
end

section
/-! PROOF. O29: an operation enters the engine's queue, and its head leaves it (10 R211). -/

namespace Sys2Proof.Machine
open Sys2Proof.Safety

theorem Beside.cores_length {s t : State} (hb : Beside s t) : t.cores.length = s.cores.length := by
  simpa only [List.length_map] using congrArg List.length hb.cores

/-- A matrix instruction whose completion is outstanding has issued (02 R34, 10 R211). -/
theorem engineIssue_queued {s t : State} {h : Hdr} {w : Wave} (hw : Issuing s w) (hb : Beside s t) (hcore : w.core < s.cores.length) (i : Instr)
    (fin : Fin) (accs : List Acc) (rows : List (Nat × Nat)) (panels : List Nat) :
    ∃ w', Queued s h w i fin accs rows panels (w.runEnd || h.sw) (t.engineIssue h i (s.part h) fin accs rows panels) w' := by
  have hwt : Issuing t w := (hb.wave? _).trans (hb.curRef ▸ hw)
  have hqueue : t.enqueue i (s.part h) t.uid rows panels =
      t.updCore w.core (fun c => { c with engine := c.engine ++ [opOf s w i (s.part h) s.uid rows panels] }) := by
    rw [State.enqueue, State.curWave_eq t w hwt, hb.cur, hb.uid]
    rfl
  have hout := wave?_addOut (t.enqueue i (s.part h) t.uid rows panels)
    { id := 0, pc := t.cur.pc, vlr := true, ready := false, fin := fin, accs := accs, writes := [], flags := 0 } hwt
  obtain ⟨w', hturns⟩ := finish_turns (s := s) (w := w) (h := h)
    (t := (t.enqueue i (s.part h) t.uid rows panels).addOut
      { id := 0, pc := t.cur.pc, vlr := true, ready := false, fin := fin, accs := accs, writes := [], flags := 0 })
    (x := { w with outs := w.outs ++ [{ outOf s true fin [] accs with ready := false }] })
    (by
      have hhere := hout.1
      rw [show (t.enqueue i (s.part h) t.uid rows panels).uid = t.uid from rfl, hb.uid, hb.cur,
        show (t.enqueue i (s.part h) s.uid rows panels).curRef = t.curRef from rfl, hb.curRef] at hhere
      rw [hb.uid, hb.cur]
      exact hhere) hb.cur (fun q hq => (hout.2 q (hb.curRef ▸ hq)).trans (hb.wave? q)) rfl rfl
  refine ⟨w', hturns, ⟨s.part h, fun l _ => takes_eq s h w l hw, ?_⟩, congrArg (· + 1) hb.uid, (congrArg State.mem hb.rest :)⟩
  show ((t.enqueue i (s.part h) t.uid rows panels).core w.core).engine = _
  rw [hqueue, core_updCore _ (hb.cores_length ▸ hcore)]
  exact congrArg (· ++ _) (hb.core Core.engine (fun _ => rfl) w.core)

/-- The engine has room (10 R211). -/
theorem engineFull_of_room {s : State} {w : Wave} (hw : Issuing s w) (hroom : EngineRoom s w) : s.engineFull = false := by
  rw [State.engineFull, State.curWave_eq s w hw]
  exact decide_eq_false (Nat.not_le_of_lt hroom.2)

/-- What the end of an operation makes of its wave (02 R34). -/
def Wave.engineDone (w : Wave) (id : Nat) (ws : List RegWrite) (fl : Flags) : Wave :=
  { w with outs := w.outs.map (fun o => if o.id = id then { o with ready := true, writes := ws, flags := fl } else o) }

theorem wave?_engineDone {s : State} {op : EngineOp} {w : Wave} (hw : s.wave? { team := op.team, wave := op.wave } = some w) (ws : List RegWrite)
    (fl : Flags) : (s.engineDone op ws fl).wave? { team := op.team, wave := op.wave } = some (w.engineDone op.out ws fl) := by
  rw [State.engineDone, State.wave?_updWave, hw, Option.map_some, Wave.engineDone]
  simp only [beq_iff_eq]

theorem wave?_engineDone_ne (s : State) (op : EngineOp) (ws : List RegWrite) (fl : Flags) {q : WaveRef}
    (hq : q ≠ { team := op.team, wave := op.wave }) : (s.engineDone op ws fl).wave? q = s.wave? q := State.wave?_updWave_ne s _ q _ hq

/-- The head leaves the queue. -/
def State.popEngine (s : State) (core : Nat) : State := s.updCore core (fun c => { c with engine := c.engine.drop 1 })

theorem engine_popEngine {s : State} {core : Nat} {op : EngineOp} {rest : List EngineOp} (hcore : core < s.cores.length)
    (hq : (s.core core).engine = op :: rest) : ((s.popEngine core).core core).engine = rest := by
  rw [State.popEngine, core_updCore _ hcore]
  exact congrArg (List.drop 1) hq

/-- An operation ends: once waves and cores are still as they were, its out is complete and it leaves the queue. -/
theorem engineDone_finished {s t : State} {core : Nat} {op : EngineOp} {rest : List EngineOp} {w : Wave} (hcore : core < s.cores.length)
    (hq : (s.core core).engine = op :: rest) (hw : s.wave? { team := op.team, wave := op.wave } = some w) (hwaves : ∀ q, t.wave? q = s.wave? q)
    (hcores : t.cores = s.cores) (hmem : t.mem = s.mem) (ws : List RegWrite) (fl : Flags) :
    Finished s core op rest w ws fl ((t.engineDone op ws fl).popEngine core) where
  queue := engine_popEngine (s := t.engineDone op ws fl) (hcores ▸ hcore)
    ((congrArg (fun l => (l.getD core Core.reset).engine) hcores).trans hq)
  wave := wave?_engineDone ((hwaves _).trans hw) ws fl
  others q hne := (wave?_engineDone_ne t op ws fl hne).trans (hwaves q)
  memory := hmem

end Sys2Proof.Machine
end

section
/-! PROOF. O29: ACCZ, ACCRD and MSTAT, at issue and in the engine (10 R209, R218, R219). -/

namespace Sys2Proof.Machine
open Sys2Proof.Safety

theorem matrixTrap_eq (reason n : Nat) : matrixTrap reason (n % 16) = cause 8 (reason + 16 * (n % 16)) 0 0 := by
  rw [matrixTrap, Nat.mod_mod, Nat.mul_comm 16]
  rfl

theorem actor_of_lowest {s : State} {h : Hdr} {w : Wave} {l : Nat} (hw : Issuing s w)
    (hl : Lowest (fun l => takes s h w l = true ∧ w.helper.getLsbD l = false) l) : s.actor h = some l := by
  have h64 : l < 64 := by
    by_contra hge
    have htakes := hl.1.1
    rw [← takes_eq s h w l hw, BitVec.getLsbD_of_ge _ _ (by omega)] at htakes
    cases htakes
  rw [State.actor, lowestLane, List.find?_congr fun l hl => notHelper_getLsbD hw (List.mem_range.mp hl)]
  refine find?_lowest List.pairwise_lt_range ⟨⟨List.mem_range.mpr h64, ?_⟩, fun k hk hP => hl.2 k hk ?_⟩
  · rw [hl.1.1, hl.1.2]
    rfl
  · simpa using hP.2

theorem exists_actor {s : State} {h : Hdr} {w : Wave} (hw : Issuing s w) (hact : Acting s h w) : ∃ l, s.actor h = some l := by
  classical
  have hex : ∃ l, takes s h w l = true ∧ w.helper.getLsbD l = false := hact
  exact ⟨_, actor_of_lowest hw ⟨Nat.find_spec hex, fun k hk => Nat.find_min hex hk⟩⟩

/-! ### The types of tiles -/

theorem tileType_beq_two_iff (d : Side) (n : Nat) : (d.tileType n == 2) = true ↔ d.types[n]? = some 2 := by
  rw [beq_iff_eq, Side.tileType, List.getD_eq_getElem?_getD]
  cases d.types[n]? <;> simp

/-- 10 R209: the type of each tile after an ACCZ. -/
theorem zeroTypes_getElem? (d : Side) (n ty k : Nat) (hk : k < d.types.length) :
    (d.zeroTypes n ty)[k]? = some (if k = n then ty else if ty = 2 ∧ n < k ∧ k < n + 8 then 3
      else if d.types[n / 8 * 8]? = some 2 ∧ n / 8 * 8 ≤ k ∧ k < n / 8 * 8 + 8 then 0 else d.types.getD k 0) := by
  have hold : d.types[k]? = some (d.types.getD k 0) := by rw [List.getD_eq_getElem?_getD, List.getElem?_eq_getElem hk, Option.getD_some]
  have hexact := tileType_beq_two_iff d (n / 8 * 8)
  rw [Side.zeroTypes, mapFrom_getElem?, exactStart]
  by_cases hin : d.types[n / 8 * 8]? = some 2
  · rw [if_pos (hexact.mpr hin), mapFrom_getElem?, hold]
    simp [hin, and_assoc]
  · rw [if_neg (fun e => hin (hexact.mp e)), hold]
    simp [hin, and_assoc]

/-- 10 R209: the positions that an ACCZ sets to zero. -/
theorem zeroSpan_exact {d : Side} {n ty : Nat} (h : ty = 2 ∨ d.types[n / 8 * 8]? = some 2) : d.zeroSpan n ty = (n / 8 * 8, 8) := by
  rw [Side.zeroSpan, if_pos, exactStart]
  rw [Bool.or_eq_true, beq_iff_eq, exactStart, tileType_beq_two_iff]
  exact h

theorem zeroSpan_single {d : Side} {n ty : Nat} (hty : ty ≠ 2) (h : d.types[n / 8 * 8]? ≠ some 2) : d.zeroSpan n ty = (n, 1) := by
  rw [Side.zeroSpan, if_neg]
  rw [Bool.or_eq_true, beq_iff_eq, exactStart, tileType_beq_two_iff]
  exact fun e => e.elim hty h

/-! ### Elements -/

/-- A row of a tile holds the tile's elements (10 R209). -/
theorem tileRow_getElem? (d : Side) (n ty i j : Nat) (hj : j < 64) : (d.tileRow n ty i)[j]? = some (d.elemAt n ty (64 * i + j)) := by
  rw [Side.tileRow, List.getElem?_map, List.getElem?_range hj, Option.map_some, Side.elemAt]
  congr 1
  refine List.foldl_ext _ _ _ fun a k hk => ?_
  have hk := List.mem_range.mp hk
  have hword : tileWord n ty (64 * i) + elemWords ty * j + k = tileWord n ty (64 * i + j) + k := by
    rw [tileWord, tileWord, Nat.mul_add, Nat.add_assoc (4096 * n)]
  have hin : elemWords ty * j + k < 64 * elemWords ty := by
    have : elemWords ty * (j + 1) ≤ elemWords ty * 64 := Nat.mul_le_mul_left _ hj
    rw [Nat.mul_add] at this
    omega
  rw [cellGet_filter d.acc (fun c => decide (tileWord n ty (64 * i) ≤ c) && decide (c < tileWord n ty (64 * i) + 64 * elemWords ty)), if_pos, hword]
  rw [Bool.and_eq_true, decide_eq_true_eq, decide_eq_true_eq]
  omega

/-- An element of a tile that is not exact is one word. -/
theorem elemAt_single (d : Side) (n e : Nat) {ty : Nat} (hty : ty ≠ 2) : d.elemAt n ty e = (cellGet d.acc (4096 * n + e)).toNat := by
  simp [Side.elemAt, elemWords, tileWord, hty]

end Sys2Proof.Machine
end

section
/-! PROOF. O29: what the instructions of one acting lane do once there is one. `State.actor` stands behind a name of its own in these proofs,
or the kernel would evaluate it. -/

namespace Sys2Proof.Machine
open Sys2Proof.Safety

section
variable {s : State} {h : Hdr} {l : Nat} (hl : s.actor h = some l)
include hl

theorem execMstat_acts (f : YFields) : execMstat h f s =
    .next (((if f.sub == 1 then s.updSideOf s.cur.team s.curSide (fun d => { d with mstat := 0 }) else s).updCur
      (fun w => w.setS f.d.toNat (s.curTeam.side s.curSide).mstat.toNat)).finish h) := by
  obtain ⟨actor, hactor⟩ := exists_eq (a' := State.actor)
  rw [← hactor] at hl
  rw [(by delta execMstat; rfl : execMstat = _), ← hactor]
  dsimp only
  rw [hl]

theorem execAccz_acts (f : YFields) : execAccz h f s =
    let n := f.d.toNat % 16
    let ty := f.imm.toNat % 4
    if decide (n ≥ s.curTeam.tiles) || (ty == 2 && (n % 8 != 0 || decide (n + 7 ≥ s.curTeam.tiles))) then .next (s.trap h (matrixTrap 3 n))
    else if s.engineFull then .next s.blockIssue
    else .next (((s.updSideOf s.cur.team s.curSide (fun d => { d with types := d.zeroTypes n ty })).enqueue (.accz h f) 0 0
      [(s.curTeam.side s.curSide).zeroSpan n ty] []).finish h) := by
  obtain ⟨actor, hactor⟩ := exists_eq (a' := State.actor)
  rw [← hactor] at hl
  rw [(by delta execAccz; rfl : execAccz = _), ← hactor]
  dsimp only
  rw [hl]

theorem execAccld_acts (f : MFields) : execAccld h f s =
    let d := s.curTeam.side s.curSide
    let n := f.d.toNat % 16
    if s.curTeam.badTile d n || (d.tileType n == 2) != (f.size.toNat == 5) then .next (s.trap h (matrixTrap 3 n))
    else if s.engineFull then .next s.blockIssue
    else .next (s.tileReads h f l (16384 * tileSpan (d.tileType n)) (fun t accs =>
      (t.scoped f).engineIssue h (.accld h f) (t.part h) .tile accs [(0, d.tileType n)] [])) := by
  obtain ⟨actor, hactor⟩ := exists_eq (a' := State.actor)
  rw [← hactor] at hl
  rw [(by delta execAccld; rfl : execAccld = _), ← hactor]
  dsimp only
  rw [hl]

/-- The record bits of the registers of an OBRES (10 R203). -/
def obresPanel (f : CFields) (w : Wave) : Panel :=
  panelOf (w.sr (f.e.toNat + 0) % 2 ^ 21 + w.sr f.a.toNat * 2 ^ 96 + w.sr (f.a.toNat + 1) * 2 ^ 64)

theorem execObres_acts (f : CFields) : execObres h f s =
    let w := s.curWave
    let d := s.curTeam.side s.curSide
    let slot := f.tag.toNat % 16
    let p := obresPanel f w
    if (d.panel? slot).isSome then .next (s.trap h (matrixTrap 2 slot))
    else if p.badDesc (w.sr (f.e.toNat + 0)) (w.sr (f.e.toNat + 1)) (w.sr (f.e.toNat + 2)) (w.sr (f.e.toNat + 3)) then
      .next (s.trap h (matrixTrap 1 slot))
    else
      match d.place s.curTeam.obufAlloc p.extent with
      | none => .next ((s.updCur (fun w => w.setS f.d.toNat 0xFFFFFFFF)).finish h)
      | some base => .next (((s.updSideOf s.cur.team s.curSide (fun d =>
          { d with slots := listSet d.slots slot (fun _ => BitVec.ofNat 128 (p.record (w.sr (f.e.toNat + 0)) base)) })).updCur
            (fun w => w.setS f.d.toNat base)).finish h) := by
  obtain ⟨actor, hactor⟩ := exists_eq (a' := State.actor)
  rw [← hactor] at hl
  rw [(by delta execObres; rfl : execObres = _), ← hactor]
  dsimp only
  rw [hl]
  rfl

/-- Whether an operation of the engine reads a slot (10 R206). -/
def EngineOp.readsSlot (o : EngineOp) (slot : Nat) : Bool := match o.instr with | .mma _ g => g.b.toNat % 16 == slot | _ => false

/-- Whether the engine of the current core still reads a slot of the current team (10 R206). -/
def State.readsSlot (s : State) (slot : Nat) : Bool :=
  (s.core s.curWave.core).engine.any (fun o => o.team == s.cur.team && o.readsSlot slot)

/-- Whether a copy command of the current core still uses a reservation of the current team (10 R206). -/
def State.copiesSlot (s : State) (slot : Nat) (p : Panel) : Bool :=
  (s.core s.curWave.core).cmds.any (fun c => c.team == s.cur.team && (s.withListed s.curWave.core c).usesSlot s.curSide slot p)

theorem execObrel_acts (f : YFields) : execObrel h f s =
    match (s.curTeam.side s.curSide).panel? (f.imm.toNat % 16) with
    | none => .next (s.trap h (matrixTrap 2 (f.imm.toNat % 16)))
    | some p =>
      if s.copiesSlot (f.imm.toNat % 16) p || s.readsSlot (f.imm.toNat % 16) then .next s.blockIssue
      else .next ((s.updSideOf s.cur.team s.curSide (fun d => { d with slots := listSet d.slots (f.imm.toNat % 16) (fun _ => 0) })).finish h) := by
  obtain ⟨actor, hactor⟩ := exists_eq (a' := State.actor)
  rw [← hactor] at hl
  rw [(by delta execObrel; rfl : execObrel = _), ← hactor]
  dsimp only
  rw [hl]
  rfl

end

end Sys2Proof.Machine
end

section
/-! PROOF. O29: ACCZ, MSTAT and ACCRD at issue (10 R209, R218, R219). -/

namespace Sys2Proof.Machine
open Sys2Proof.Safety

/-- A position that an ACCZ may not name (10 R209). -/
def Team.refusesZero (tm : Team) (n ty : Nat) : Prop := tm.tiles ≤ n ∨ (ty = 2 ∧ (n % 8 ≠ 0 ∨ tm.tiles ≤ n + 7))

theorem refusesZero_iff (tm : Team) (n ty : Nat) :
    (decide (n ≥ tm.tiles) || (ty == 2 && (n % 8 != 0 || decide (n + 7 ≥ tm.tiles)))) = true ↔ tm.refusesZero n ty := by
  simp [Team.refusesZero]

/-- A side whose tile types are those after an ACCZ (10 R209). -/
def Side.retyped (d : Side) (n ty : Nat) : Side := { d with types := d.zeroTypes n ty }

/-- The operation that an ACCZ queues. -/
def acczOp (s : State) (w : Wave) (h : Hdr) (f : YFields) (d : Side) : EngineOp :=
  opOf s w (.accz h f) 0 0 [d.zeroSpan (f.d.toNat % 16) (f.imm.toNat % 4)] []

/-- The state after an ACCZ: the type at once, the zeros in the queue (10 R209). -/
def State.acczIssued (s : State) (w : Wave) (h : Hdr) (f : YFields) (side : Nat) (d : Side) : State :=
  ((s.updSideOf s.cur.team side (fun d => d.retyped (f.d.toNat % 16) (f.imm.toNat % 4))).updCore w.core
    (fun c => { c with engine := c.engine ++ [acczOp s w h f d] })).finish h

section
variable {s : State} {w : Wave} {tm : Team} {d : Side} {h : Hdr} (hw : Issuing s w) (htm : s.team? s.cur.team = some tm)
include hw htm

theorem exec_accz_traps (f : YFields) (hact : Acting s h w) (hbad : tm.refusesZero (f.d.toNat % 16) (f.imm.toNat % 4)) :
    exec (.accz h f) s = .next (s.trap h (cause 8 (3 + 16 * (f.d.toNat % 16)) 0 0)) := by
  obtain ⟨l, hl⟩ := exists_actor hw hact
  show execAccz h f s = _
  rw [execAccz_acts hl]
  simp only [State.curTeam_eq s tm htm, (refusesZero_iff tm _ _).mpr hbad, if_true, matrixTrap_eq]

variable (hd : tm.sides[ownSide tm w]? = some d)
include hd

theorem exec_accz_issues (f : YFields) (hact : Acting s h w) (hok : ¬ tm.refusesZero (f.d.toNat % 16) (f.imm.toNat % 4)) (hroom : EngineRoom s w) :
    exec (.accz h f) s = .next (s.acczIssued w h f (ownSide tm w) d) := by
  obtain ⟨l, hl⟩ := exists_actor hw hact
  have hgood := Bool.eq_false_iff.mpr fun e => hok ((refusesZero_iff tm _ _).mp e)
  have hb := sideBecomes_updSideOf htm hd fun d => d.retyped (f.d.toNat % 16) (f.imm.toNat % 4)
  show execAccz h f s = _
  rw [execAccz_acts hl]
  simp only [State.curTeam_eq s tm htm, hgood, engineFull_of_room hw hroom, Bool.false_eq_true, if_false, State.curSide_eq hw htm,
    Team.side_eq hd]
  show Host.Outcome.next ((State.enqueue (s.updSideOf s.cur.team (ownSide tm w) fun d => d.retyped (f.d.toNat % 16) (f.imm.toNat % 4)) _ _ _ _ _).finish h) = _
  rw [State.enqueue, State.curWave_eq _ w (hb.issuing hw)]
  rfl

/-- What an ACCZ leaves at issue. -/
theorem accz_issued (f : YFields) (hroom : EngineRoom s w) : ∃ (w' : Wave) (tm' : Team),
    Turns s w w (onwards s h w) (w.runEnd || h.sw) (s.acczIssued w h f (ownSide tm w) d) w' ∧
    (s.acczIssued w h f (ownSide tm w) d).team? s.cur.team = some tm' ∧
    { tm' with waves := [], sides := [] } = { tm with waves := [], sides := [] } ∧
    tm'.sides = tm.sides.set (ownSide tm w) (d.retyped (f.d.toNat % 16) (f.imm.toNat % 4)) ∧
    ((s.acczIssued w h f (ownSide tm w) d).core w.core).engine = (s.core w.core).engine ++ [acczOp s w h f d] := by
  have hb := sideBecomes_updSideOf htm hd fun d => d.retyped (f.d.toNat % 16) (f.imm.toNat % 4)
  obtain ⟨w', hturns⟩ := finish_turns (s := s) (h := h) (x := w) (w := w) (t := (s.updSideOf s.cur.team (ownSide tm w)
    (fun d => d.retyped (f.d.toNat % 16) (f.imm.toNat % 4))).updCore w.core (fun c => { c with engine := c.engine ++ [acczOp s w h f d] }))
    (hb.issuing hw) rfl (fun q _ => hb.waves q) rfl rfl
  obtain ⟨tm', htm', hrest, hsides⟩ := hb.team_of_bare (v := s.acczIssued w h f (ownSide tm w) d) (Elsewhere.updCur _ _).teams
  refine ⟨w', tm', hturns, htm', hrest, hsides, ?_⟩
  exact congrArg Core.engine (core_updCore (s := s.updSideOf s.cur.team (ownSide tm w) _) (fun c => { c with engine := c.engine ++ [acczOp s w h f d] }) hroom.1)

/-- 10 R218: MSTAT reads the status, and .CLR clears it. -/
theorem mstat_steps (f : YFields) (hact : Acting s h w) : ∃ t : State, exec (.mstat h f) s = .next t ∧
    SideStep s h w { w with sregs := (w.setS f.d.toNat d.mstat.toNat).sregs } tm { d with mstat := (if f.sub = 1#2 then 0#32 else d.mstat) } t := by
  obtain ⟨l, hl⟩ := exists_actor hw hact
  have hexec : exec (.mstat h f) s = .next (((if f.sub == 1 then s.updSideOf s.cur.team (ownSide tm w) (fun d => { d with mstat := 0 }) else s).updCur
      (fun w => w.setS f.d.toNat d.mstat.toNat)).finish h) := by
    show execMstat h f s = _
    rw [execMstat_acts hl, State.curSide_eq hw htm, State.curTeam_eq s tm htm, Team.side_eq hd]
  refine ⟨_, hexec, SideBecomes.step ?_ hw rfl rfl rfl⟩
  by_cases hclr : f.sub = 1#2
  · rw [if_pos hclr, if_pos (show (f.sub == 1) = true from beq_iff_eq.mpr hclr)]
    exact sideBecomes_updSideOf htm hd fun d => { d with mstat := 0 }
  · rw [if_neg hclr, if_neg (show ¬ (f.sub == 1) = true from fun e => hclr (beq_iff_eq.mp e))]
    exact sideBecomes_self htm hd

/-- 10 R219: ACCRD. -/
theorem exec_accrd (f : VFields) (hsome : Someone s h w) (hclean : s.poisonRegs = []) : exec (.accrd h f) s =
    if tm.tiles ≤ f.a.toNat % 16 ∨ d.types.getD (f.a.toNat % 16) 0 = 3 then .next (s.trap h (cause 8 (3 + 16 * (f.a.toNat % 16)) 0 0))
    else if d.types.getD (f.a.toNat % 16) 0 ≠ 2 ∧ (f.rnd ≠ .rn ∨ f.fzo = true) then .next (s.trap h (cause 8 (8 + 16 * (f.a.toNat % 16)) 0 0))
    else if s.engineFull then .next s.blockIssue
    else .next (s.engineIssue h (.accrd h f) (s.part h) .regs [] [(0, d.types.getD (f.a.toNat % 16) 0)] []) := by
  show execAccrd h f s = _
  have hpart : (s.part h == 0) = false := by simpa using part_ne_zero hw hsome
  have hbad : s.badAcc s.cur.team (ownSide tm w) (f.a.toNat % 16) (tileSpan (d.tileType (f.a.toNat % 16))) = none := by
    rw [State.badAcc, hclean]
    rfl
  simp only [execAccrd, hpart, State.curSide_eq hw htm, State.curTeam_eq s tm htm, Team.side_eq hd, hbad, matrixTrap_eq, Bool.false_eq_true, if_false]
  simp only [Team.badTile, Side.tileType, Bool.or_eq_true, decide_eq_true_eq, beq_iff_eq, bne_iff_ne, Bool.and_eq_true, ge_iff_le, ne_eq]

end

end Sys2Proof.Machine
end

section
/-! PROOF. O29: ACCZ and ACCRD in the engine (10 R209, R219). -/

namespace Sys2Proof.Machine
open Sys2Proof.Safety

/-- A register after the writes of the lanes of a mask. -/
theorem writesOf_vr (m : BitVec 64) (f : Nat → List (Nat × Nat)) (x : Wave) {l : Nat} (hl : l < x.lanes.length) (r : Nat) :
    (((writesOf m f).foldl Wave.write x).lane l).vr r =
      if m.getLsbD l = true then (lastReg (f l) r).getD ((x.lane l).vr r) else (x.lane l).vr r := by
  have hvec : ∀ a ∈ writesOf m f, a.scalar = false ∧ a.lane < 64 := by
    intro a ha
    obtain ⟨k, hk, ha⟩ := List.mem_flatMap.mp ha
    obtain ⟨p, -, rfl⟩ := List.mem_map.mp ha
    exact ⟨rfl, List.mem_range.mp (List.mem_filter.mp hk).1⟩
  rw [foldl_write_lane _ _ _ hvec hl, foldl_setV_vr, writesOf, flatMap_filter_lane (lanesOf m) f l (List.nodup_range.filter _)]
  by_cases hm : m.getLsbD l = true
  · simp only [lanesOf_mem, hm, if_true, List.map_map, Function.comp_def, BitVec.toNat_ofNat]
    rw [lastReg_mod]
  · simp only [lanesOf_mem, hm]
    rfl

/-! ### ACCRD -/

/-- What an ACCRD makes of an element: its value and flags (10 R219). -/
def accrdElem (f : VFields) (ty v : Nat) : Nat × Flags := if ty == 2 then xaccRound v .f32 f.rnd f.fzo else (v, (0 : Flags))
/-- The sixteen columns of a lane's row. -/
def accrdRow (d : Side) (f : VFields) (ty l : Nat) : List (Nat × Flags) :=
  (((d.tileRow (f.a.toNat % 16) ty l).drop (16 * (f.b.toNat % 4))).take 16).map (accrdElem f ty)

theorem accrdElem_exact (f : VFields) (v : Nat) : accrdElem f 2 v = xaccRound v .f32 f.rnd f.fzo := if_pos rfl
theorem accrdElem_other (f : VFields) {ty : Nat} (hty : ty ≠ 2) (v : Nat) : accrdElem f ty v = (v, 0) := if_neg (fun e => hty (beq_iff_eq.mp e))

/-- The writes of an ACCRD, and its flags. -/
def accrdWrites (d : Side) (f : VFields) (ty : Nat) (m : BitVec 64) : List RegWrite :=
  writesOf m (fun l => (accrdRow d f ty l).zipIdx.map (fun q => (f.d.toNat + q.2, q.1.1)))
def accrdFlags (d : Side) (f : VFields) (ty : Nat) (m : BitVec 64) : Flags :=
  (lanesOf m).foldl (fun fl l => (accrdRow d f ty l).foldl (fun fl q => fl ||| q.2) fl) 0

theorem accrdRow_length (d : Side) (f : VFields) (ty l : Nat) : (accrdRow d f ty l).length = 16 := by
  have hrow : (d.tileRow (f.a.toNat % 16) ty l).length = 64 := by simp [Side.tileRow]
  rw [accrdRow, List.length_map, List.length_take, List.length_drop, hrow]
  omega

theorem getElem?_map_take_drop {α β : Type} (l : List α) (g : α → β) {n k i : Nat} {a : α} (hi : i < k) (h : l[n + i]? = some a) :
    (((l.drop n).take k).map g)[i]? = some (g a) := by
  rw [List.getElem?_map, List.getElem?_take_of_lt hi, List.getElem?_drop, h, Option.map_some]

theorem tileRow_window (d : Side) (n ty l : Nat) {g c : Nat} (hg : g < 4) (hc : c < 16) :
    (d.tileRow n ty l)[16 * g + c]? = some (d.elemAt n ty (64 * l + 16 * g + c)) := by
  rw [tileRow_getElem? d n ty l _ (by omega), Nat.add_assoc]

/-- Column `c` of the sixteen. -/
theorem accrdRow_getElem? (d : Side) (f : VFields) (ty l c : Nat) (hc : c < 16) : (accrdRow d f ty l)[c]? =
    some (accrdElem f ty (d.elemAt (f.a.toNat % 16) ty (64 * l + 16 * (f.b.toNat % 4) + c))) := by
  rw [accrdRow]
  exact getElem?_map_take_drop _ _ hc (tileRow_window d _ ty l (Nat.mod_lt _ (by decide)) hc)

/-- 10 R219: what a register holds once an ACCRD is delivered. -/
theorem accrdWrites_vr (d : Side) (f : VFields) (ty : Nat) (m : BitVec 64) (x : Wave) {l : Nat} (hl : l < x.lanes.length) (r : Nat) :
    (((accrdWrites d f ty m).foldl Wave.write x).lane l).vr r =
      if m.getLsbD l = true ∧ f.d.toNat ≤ r ∧ r < f.d.toNat + 16 then
        (let c := 64 * l + 16 * (f.b.toNat % 4) + (r - f.d.toNat)
         if ty = 2 then (xaccRound (d.elemAt (f.a.toNat % 16) 2 c) .f32 f.rnd f.fzo).1 % 2 ^ 32
         else (cellGet d.acc (4096 * (f.a.toNat % 16) + c)).toNat)
      else (x.lane l).vr r := by
  have hblock : (accrdRow d f ty l).zipIdx.map (fun q => (f.d.toNat + q.2, q.1.1)) =
      (List.range 16).map (fun i => (f.d.toNat + i, (((accrdRow d f ty l)[i]?).map Prod.fst).getD 0)) := by
    apply List.ext_getElem
    · simp [accrdRow_length]
    · intro i h1 h2
      have hi : i < (accrdRow d f ty l).length := by simpa using h1
      simp [List.getElem?_eq_getElem hi]
  rw [accrdWrites, writesOf_vr _ _ _ hl, hblock, lastReg_range]
  by_cases hm : m.getLsbD l = true
  · by_cases hr : f.d.toNat ≤ r ∧ r < f.d.toNat + 16
    · rw [if_pos hm, if_pos hr, if_pos ⟨hm, hr⟩, Option.getD_some, accrdRow_getElem? d f ty l _ (by omega)]
      by_cases hty : ty = 2
      · subst hty
        rw [accrdElem_exact, if_pos rfl, Option.map_some, Option.getD_some]
      · rw [accrdElem_other f hty, if_neg hty, elemAt_single d _ _ hty, Option.map_some, Option.getD_some]
        exact Nat.mod_eq_of_lt (BitVec.isLt _)
    · rw [if_pos hm, if_neg hr, if_neg (fun e => hr e.2), Option.getD_none]
  · rw [if_neg hm, if_neg (fun e => hm e.1)]

/-- An ACCRD of a tile that is not exact rounds nothing. -/
theorem accrdFlags_of_not_exact (d : Side) (f : VFields) {ty : Nat} (hty : ty ≠ 2) (m : BitVec 64) : accrdFlags d f ty m = 0#8 := by
  have hnone : ∀ l, ∀ q ∈ accrdRow d f ty l, q.2 = 0 := by
    intro l q hq
    obtain ⟨v, -, rfl⟩ := List.mem_map.mp hq
    rw [accrdElem_other f hty]
  have hrow (l : Nat) (fl : Flags) : (accrdRow d f ty l).foldl (fun fl q => fl ||| q.2) fl = fl := by
    have hstep := List.foldl_ext (fun fl q => fl ||| q.2) (fun (fl : Flags) (_ : Nat × Flags) => fl) fl (l := accrdRow d f ty l)
      fun fl q hq => by simp [hnone l q hq]
    exact hstep.trans (List.foldl_fixed _)
  rw [accrdFlags]
  simp only [hrow]
  exact List.foldl_fixed _

/-! ### The engine's step -/

section
variable {s : State} {core : Nat} {op : EngineOp} {rest : List EngineOp} {tm : Team} {w : Wave} {d : Side} (hcore : core < s.cores.length)
  (hq : (s.core core).engine = op :: rest) (htm : s.team? op.team = some tm) (hw : s.wave? { team := op.team, wave := op.wave } = some w)
  (hon : w.core = core) (hd : tm.sides[ownSide tm w]? = some d)
include hq htm hon

theorem exec_engine_accz {h : Hdr} {f : YFields} {a cnt : Nat} (hi : op.instr = .accz h f) (hr : op.rows = [(a, cnt)]) :
    exec (.engineOpStart core []) s =
      .next (((s.updSideOf op.team (ownSide tm w) (fun d => d.tileClear a cnt)).clearAcc op.team (ownSide tm w) a cnt).popEngine core) := by
  show execEngineOpStart core [] s = _
  have hside : ((s.team? op.team).map (fun t => t.sideOf core)).getD 0 = ownSide tm w := by
    rw [htm, Option.map_some, Option.getD_some, ← hon, sideOf_eq_ownSide]
  simp only [execEngineOpStart, hq, hside, State.opBad, hi, hr, List.foldl_cons, List.foldl_nil]
  rfl

include hd

theorem exec_engine_accrd {h : Hdr} {f : VFields} {ty : Nat} (hi : op.instr = .accrd h f) (hr : op.rows = [(0, ty)]) (hclean : s.poisonRegs = []) :
    exec (.engineOpStart core []) s = .next ((s.engineDone op (accrdWrites d f ty op.mask) (accrdFlags d f ty op.mask)).popEngine core) := by
  show execEngineOpStart core [] s = _
  have hside : ((s.team? op.team).map (fun t => t.sideOf core)).getD 0 = ownSide tm w := by
    rw [htm, Option.map_some, Option.getD_some, ← hon, sideOf_eq_ownSide]
  have hbad (n cnt : Nat) : s.badAcc op.team (ownSide tm w) n cnt = none := by
    rw [State.badAcc, hclean]
    rfl
  have hrun : s.runAccrd op f ty (ownSide tm w) = s.engineDone op (accrdWrites d f ty op.mask) (accrdFlags d f ty op.mask) := by
    simp only [State.runAccrd, htm, Option.map_some, Team.side_eq hd, accrdWrites, writesOf, accrdFlags, accrdRow, List.flatMap_map, List.map_map,
      List.foldl_map, Function.comp_def]
    rfl
  simp only [execEngineOpStart, hq, hside, State.opBad, hi, hr, hbad, Option.map_none]
  exact congrArg (fun t : State => Host.Outcome.next (t.popEngine core)) hrun

include hcore

/-- 10 R209: the zeros of an ACCZ. -/
theorem accz_engine {h : Hdr} {f : YFields} {a cnt : Nat} (hi : op.instr = .accz h f) (hr : op.rows = [(a, cnt)]) :
    ∃ t : State, exec (.engineOpStart core []) s = .next t ∧ (t.core core).engine = rest ∧ t.mem = s.mem ∧
      t.team? op.team = some { tm with sides := tm.sides.set (ownSide tm w) (d.tileClear a cnt) } :=
  ⟨_, exec_engine_accz hq htm hon hi hr, engine_popEngine hcore hq, rfl, (sideBecomes_updSideOf htm hd fun d => d.tileClear a cnt).team⟩

end

theorem tileClear_tileOnly (d : Side) (a cnt : Nat) : TileOnly d (d.tileClear a cnt) a cnt :=
  ⟨rfl, fun _ hk => cellGet_cellSplice_out (fun _ hp => absurd hp List.not_mem_nil) (by omega) hk⟩

theorem tileClear_zero (d : Side) {a cnt k : Nat} (hlo : 4096 * a ≤ k) (hhi : k < 4096 * (a + cnt)) : cellGet (d.tileClear a cnt).acc k = 0#32 :=
  cellGet_cellSplice_in hlo hhi

end Sys2Proof.Machine

namespace Sys2Proof.Safety
open Sys2Proof.Machine

/-- 10 R209, R218, R219: ACCZ, MSTAT and ACCRD. -/
theorem tilesAndStatus : Claims.TilesAndStatus := by
  refine ⟨?_, ?_, ?_⟩
  · intro h f s w tm d hw hact htm hd _ htypes n ty bad first inside newType
    refine ⟨fun hbad => ?_, fun hok hroom => ?_, ?_⟩
    · exact traps_part hw (exec_accz_traps hw htm f hact hbad)
    · obtain ⟨w', tm', hturns, htm', hrest, hsides, hengine⟩ := accz_issued (h := h) hw htm hd f hroom
      refine ⟨_, w', tm', d.zeroTypes n ty, acczOp s w h f d, exec_accz_issues hw htm hd f hact hok hroom, hturns, htm', rfl, hrest, hsides,
        fun k hk => zeroTypes_getElem? d n ty k (htypes ▸ hk), hengine, rfl, fun hspan => ?_, fun hty hin => ?_⟩
      · exact congrArg (fun q => [q]) (zeroSpan_exact hspan)
      · exact congrArg (fun q => [q]) (zeroSpan_single hty hin)
    · obtain ⟨t, hexec, hstep⟩ := mstat_steps hw htm hd f hact
      exact ⟨t, w.setS f.d.toNat d.mstat.toNat, hexec, hstep, fun k => sr_block w f.d.toNat 1 d.mstat.toNat k⟩
  · intro h f s w tm d hw hsome htm hd hclean n ty
    refine ⟨fun hbad => ?_, fun hheld hty hmode => ?_, fun hheld hty hmode hroom => ?_⟩
    · exact traps_part hw ((exec_accrd hw htm hd f hsome hclean).trans (if_pos hbad))
    · refine traps_part hw ((exec_accrd hw htm hd f hsome hclean).trans ((if_neg ?_).trans (if_pos hmode)))
      exact fun hbad => hbad.elim (Nat.not_le_of_lt hheld) hty
    · obtain ⟨w', hqueued⟩ := engineIssue_queued (h := h) hw (.refl s) hroom.1 (.accrd h f) .regs [] [(0, ty)] []
      refine ⟨_, w', (exec_accrd hw htm hd f hsome hclean).trans ((if_neg ?_).trans ((if_neg hmode).trans (if_neg ?_))), hqueued⟩
      · exact fun hbad => hbad.elim (Nat.not_le_of_lt hheld) hty
      · rw [engineFull_of_room hw hroom]
        exact Bool.false_ne_true
  · intro core s op rest tm w d hcore hq htm hw hon hd hclean
    refine ⟨fun h f a cnt hi hr => ?_, fun h f ty hi hr _ => ?_⟩
    · obtain ⟨t, hexec, hqueue, hmem, hteam⟩ := accz_engine hcore hq htm hon hd hi hr
      exact ⟨t, _, d.tileClear a cnt, hexec, hqueue, hmem, hteam, rfl, rfl, tileClear_tileOnly d a cnt, fun k => tileClear_zero d⟩
    · refine ⟨_, accrdWrites d f ty op.mask, accrdFlags d f ty op.mask, exec_engine_accrd hq htm hon hd hi hr hclean,
        engineDone_finished hcore hq hw (fun _ => rfl) rfl rfl _ _, fun x hx l r hl _ => ?_, fun hty => accrdFlags_of_not_exact d f hty _⟩
      exact accrdWrites_vr d f ty op.mask x (hx ▸ hl) r

end Sys2Proof.Safety
end

section
/-! PROOF. O29: ACCLD at issue (10 R210). -/

namespace Sys2Proof.Machine
open Sys2Proof.Safety

/-! ### The checks of one lane's requests -/

/-- 04 R85 asks for addresses; it does not ask which lane each belongs to. -/
theorem memCheck_relane (s : State) (i : Instr) (h : Hdr) (part : BitVec 64) (reqs : List Req) (l align kind : Nat) (need : Need)
    (typeOk : MType → Bool) (mk : Nat → Nat → TrapInfo) :
    s.memCheck i h part (reqs.map (fun r => { r with lane := l })) align need kind typeOk mk = s.memCheck i h part reqs align need kind typeOk mk := by
  simp only [State.memCheck, State.memCheckAs, List.find?_map, List.map_map, List.foldl_map, List.isEmpty_map, Function.comp_def]
  cases reqs.find? (fun r => r.va % ((2 ^ align : Nat) : Int) != 0) with
  | some r => rfl
  | none =>
    cases reqs.find? (fun r => !vaOk r.va) with
    | some r => rfl
    | none => rfl

/-- The requests of an ACCLD: blocks of 256 bytes, all of the acting lane (10 R210). -/
def blockReqs (l n : Nat) (ea : Int) : List Req := (List.range n).map (fun (j : Nat) => { lane := l, va := ea + 256 * (j : Int) })

theorem blockReqs_eq (l n : Nat) (ea : Int) :
    blockReqs l n ea = (reqsAt (List.range n) (fun j => ea + 256 * (j : Int))).map (fun r => { r with lane := l }) := by
  rw [blockReqs, reqsAt, List.map_map]
  rfl

theorem notBlock_iff (x : Int) : (x % 256 != 0) = true ↔ ¬ (256 : Int) ∣ x := misaligned_iff 8 x

theorem aligned_block {ea : Int} (hal : (256 : Int) ∣ ea) (j : Nat) : ((2 ^ 8 : Nat) : Int) ∣ ea + 256 * (j : Int) :=
  dvd_add hal (dvd_mul_right _ _)

section
variable {s : State} {h : Hdr} {f : MFields} {w : Wave} {tm : Team} {l bytes : Nat} {k : State → List Acc → State} (hw : Issuing s w)

/-- A block as ACCLD reads it, before it is known where it lies. -/
def blockAcc (f : MFields) (l : Nat) : Acc :=
  { lane := l, kind := .load, side := none, va := 0, pa := 0, len := 256, mtype := .homeonly, scope := f.scope.toNat, ord := f.ord.toNat,
    ch := f.ch.toNat, data := 0, state := .todo, result := 0 }

/-- The accesses of an ACCLD from scratch, and from memory. -/
def scratchBlocks (f : MFields) (l n : Nat) (p : Nat × Nat) : List Acc :=
  (List.range n).map (fun j => { blockAcc f l with side := some p.1, va := p.2 + 256 * j, pa := p.2 + 256 * j })
def memoryBlocks (f : MFields) (l n : Nat) (ea : Int) (x : Nat → Xlat) : List Acc :=
  (List.range n).map (fun j => { blockAcc f l with va := (ea + 256 * (j : Nat)).toNat, pa := (x j).pa, mtype := (x j).mtype, log2 := (x j).log2 })

section
variable (hsub : f.sub = 1#3)
include hsub hw

/-- 10 R210: an ACCLD from scratch. -/
theorem tileReads_local (htm : s.team? s.cur.team = some tm) : s.tileReads h f l bytes k =
    if localEa h f w (w.lane l) % 256 != 0 then s.trap h (mkTrap .align 8 (wrap 32 (localEa h f w (w.lane l))) 0)
    else match tm.localAt (tm.sideOf w.core) (localEa h f w (w.lane l)) bytes with
      | none => s.trap h (mkTrap .protect pLOCAL (wrap 32 (localEa h f w (w.lane l))) 0)
      | some p => match s.badSide s.cur.team p.1 false p.2 bytes with
        | some (st, ix) => s.hwerr h st ix
        | none => k s (scratchBlocks f l (bytes / 256) p) := by
  have hone : (f.sub == 1) = true := beq_iff_eq.mpr hsub
  simp only [State.tileReads, hone, if_true, State.curWave_eq s w hw, State.curTeam_eq s tm htm, State.curSide, scratchBlocks]
  cases tm.localAt (tm.sideOf w.core) (localEa h f w (w.lane l)) bytes <;> rfl

variable (htm : s.team? s.cur.team = some tm)
include htm

theorem tileReads_local_misaligned (hmis : ¬ (256 : Int) ∣ localEa h f w (w.lane l)) :
    s.tileReads h f l bytes k = s.trap h (cause 4 8 (BitVec.ofInt 32 (localEa h f w (w.lane l))).toNat 0) := by
  rw [tileReads_local hw hsub htm, if_pos ((notBlock_iff _).mpr hmis), wrap_eq]
  rfl

theorem tileReads_local_outside (hal : (256 : Int) ∣ localEa h f w (w.lane l)) (hout : ∀ p, ¬ InScratch tm w (localEa h f w (w.lane l)) bytes p) :
    s.tileReads h f l bytes k = s.trap h (cause 3 6 (BitVec.ofInt 32 (localEa h f w (w.lane l))).toNat 0) := by
  have hnone := Option.isNone_iff_eq_none.mp ((localAt_isNone_iff tm w _ bytes).mpr hout)
  rw [tileReads_local hw hsub htm, if_neg (fun e => (notBlock_iff _).mp e hal), hnone, wrap_eq]
  rfl

theorem tileReads_local_goes (hal : (256 : Int) ∣ localEa h f w (w.lane l)) {p : Nat × Nat} (hin : InScratch tm w (localEa h f w (w.lane l)) bytes p)
    (hclean : s.poisonRegs = []) : s.tileReads h f l bytes k = k s (scratchBlocks f l (bytes / 256) p) := by
  have hbad : s.badSide s.cur.team p.1 false p.2 bytes = none := badSide_none (by simp [hclean]) _ _ _ _
  rw [tileReads_local hw hsub htm, if_neg (fun e => (notBlock_iff _).mp e hal), (localAt_eq_some_iff tm w _ bytes p).mpr hin]
  dsimp only
  rw [hbad]

end

section
variable (hsub : f.sub = 0#3)
include hsub hw

/-- 10 R210: an ACCLD from memory. -/
theorem tileReads_global : s.tileReads h f l bytes k =
    match s.memCheck (.accld h f) h (s.part h) (reqsAt (List.range (bytes / 256)) (fun j => globalEa h f w (w.lane l) + 256 * (j : Int))) 8 Need.read 0
      (fun t => t != .io) with
    | .stop s => s
    | .ok t xs => match xs.findSome? (fun x => t.badWord w.core (x.mtype == .cached) x.pa 256) with
      | some (st, ix) => t.hwerr h st ix
      | none => k (t.record ((xs.filter (fun x => t.isDev x.pa)).map (fun x => (x.pa, 256))))
          (((blockReqs l (bytes / 256) (globalEa h f w (w.lane l))).zip xs).map (fun q =>
            { blockAcc f l with va := q.1.va.toNat, pa := q.2.pa, mtype := q.2.mtype, log2 := q.2.log2 })) := by
  have hone : (f.sub == 1) = false := by rw [hsub]; rfl
  have hrelane := memCheck_relane s (.accld h f) h (s.part h) (reqsAt (List.range (bytes / 256)) (fun j => globalEa h f w (w.lane l) + 256 * (j : Int)))
    l 8 0 Need.read (fun t => t != .io) (mkTrapA .protect)
  rw [← blockReqs_eq] at hrelane
  rw [← hrelane]
  simp only [State.tileReads, hone, Bool.false_eq_true, if_false, State.curWave_eq s w hw]
  rfl

theorem tileReads_global_misaligned (hpos : 0 < bytes / 256) (hmis : ¬ (256 : Int) ∣ globalEa h f w (w.lane l)) :
    s.tileReads h f l bytes k = s.trapLanes h (s.part h) (causeAt 4 8 (BitVec.ofInt 64 (globalEa h f w (w.lane l)))) := by
  have hlow : Lowest (fun j => j ∈ List.range (bytes / 256) ∧ ¬ ((2 ^ 8 : Nat) : Int) ∣ globalEa h f w (w.lane l) + 256 * (j : Int)) 0 :=
    ⟨⟨List.mem_range.mpr hpos, by simpa using hmis⟩, fun j hj => absurd hj (Nat.not_lt_zero j)⟩
  rw [tileReads_global hw hsub, memCheck_misaligned List.pairwise_lt_range hlow]
  dsimp only
  rw [Int.natCast_zero, mul_zero, add_zero, mkTrapA_eq_causeAt .align 8 _ _ (wrap_eq 64 _)]
  rfl

theorem tileReads_global_goes {x : Nat → Xlat} (hal : (256 : Int) ∣ globalEa h f w (w.lane l)) (hroom : WalkRoom s w)
    (hx : ∀ j < bytes / 256, 0 ≤ globalEa h f w (w.lane l) ∧ globalEa h f w (w.lane l) + 256 * j < (2 ^ 64 : Nat) ∧
      canonical (globalEa h f w (w.lane l) + 256 * j).toNat = true ∧
      s.look w.xl w.core s.curAsn (globalEa h f w (w.lane l) + 256 * j).toNat = .hit (x j) ∧ (x j).perms.getLsbD 0 = true ∧ (x j).mtype ≠ .io ∧
      Sound s w.core (x j).pa 256) :
    ∃ t, Beside s t ∧ s.tileReads h f l bytes k = k t (memoryBlocks f l (bytes / 256) (globalEa h f w (w.lane l)) x) := by
  have ht : Translated s w (List.range (bytes / 256)) (fun j => globalEa h f w (w.lane l) + 256 * (j : Int)) 8 x :=
    { issuing := hw
      room := hroom
      aligned := fun j _ => aligned_block hal j
      canon := fun j hj => by
        obtain ⟨h0, h1, hc, -⟩ := hx j (List.mem_range.mp hj)
        exact (vaOk_iff _).mpr ⟨by omega, h1, hc⟩
      known := fun j hj => (hx j (List.mem_range.mp hj)).2.2.2.1 }
  have hok : ∀ j ∈ List.range (bytes / 256), Need.read.fails (fun t => t != .io) (x j) = none := by
    intro j hj
    obtain ⟨-, -, -, -, hperm, hio, -⟩ := hx j (List.mem_range.mp hj)
    simp [Need.fails, Need.read, hperm, hio]
  have hb := beside_foldl (List.range (bytes / 256)) (fun t (j : Nat) => t.refill w.core s.curAsn (globalEa h f w (w.lane l) + 256 * (j : Int)).toNat)
    (fun t j => beside_refill t w.core s.curAsn _) s
  have hclean : ((List.range (bytes / 256)).map x).findSome? (fun y => State.badWord ((List.range (bytes / 256)).foldl
      (fun t (j : Nat) => t.refill w.core s.curAsn (globalEa h f w (w.lane l) + 256 * (j : Int)).toNat) s) w.core (y.mtype == .cached) y.pa 256) = none := by
    refine List.findSome?_eq_none_iff.mpr fun y hy => ?_
    obtain ⟨j, hj, rfl⟩ := List.mem_map.mp hy
    obtain ⟨-, -, -, -, -, -, hsound⟩ := hx j (List.mem_range.mp hj)
    exact badWord_none hb _ hsound
  have hreads := tileReads_global (l := l) (bytes := bytes) (k := k) hw hsub (h := h)
  rw [ht.passed hok] at hreads
  dsimp only at hreads
  rw [hclean] at hreads
  dsimp only at hreads
  rw [blockReqs, List.zip_map', List.map_map] at hreads
  exact ⟨_, hb.trans (beside_record _ _), hreads⟩

end

end

/-! ### The instruction -/

theorem Beside.part {s t : State} (hb : Beside s t) (h : Hdr) : t.part h = s.part h := by rw [State.part, State.part, hb.curWave, hb.cur]

/-- A tile that an ACCLD of a size may not name (10 R210). -/
def Team.refusesLoad (tm : Team) (d : Side) (n size : Nat) : Prop := tm.tiles ≤ n ∨ d.types.getD n 0 = 3 ∨ ¬ (d.types.getD n 0 = 2 ↔ size = 5)

theorem refusesLoad_iff (tm : Team) (d : Side) (n size : Nat) :
    (tm.badTile d n || (d.tileType n == 2) != (size == 5)) = true ↔ tm.refusesLoad d n size := by
  have hsize : ((d.tileType n == 2) != (size == 5)) = true ↔ ¬ (d.types.getD n 0 = 2 ↔ size = 5) := by
    rw [bne_iff_ne, ne_eq, Bool.eq_iff_iff, beq_iff_eq, beq_iff_eq, Side.tileType]
  rw [Bool.or_eq_true, hsize, Team.badTile, Bool.or_eq_true, decide_eq_true_eq, beq_iff_eq, Side.tileType, or_assoc, Team.refusesLoad]

theorem tileBytes_eq (ty : Nat) : 16384 * tileSpan ty = if ty = 2 then 131072 else 16384 := by
  by_cases hty : ty = 2 <;> simp [tileSpan, hty]

section
variable {s : State} {h : Hdr} {f : MFields} {w : Wave} {tm : Team} {d : Side} {l : Nat} (hw : Issuing s w)
  (hl : Lowest (fun l => takes s h w l = true ∧ w.helper.getLsbD l = false) l) (htm : s.team? s.cur.team = some tm)
  (hd : tm.sides[ownSide tm w]? = some d)
include hw hl htm hd

theorem exec_accld_traps (hbad : tm.refusesLoad d (f.d.toNat % 16) f.size.toNat) :
    exec (.accld h f) s = .next (s.trap h (cause 8 (3 + 16 * (f.d.toNat % 16)) 0 0)) := by
  show execAccld h f s = _
  rw [execAccld_acts (actor_of_lowest hw hl)]
  dsimp only
  rw [State.curTeam_eq s tm htm, State.curSide_eq hw htm, Team.side_eq hd, if_pos ((refusesLoad_iff tm d _ _).mpr hbad), matrixTrap_eq]

/-- What an ACCLD leaves of the state in which its reads are known. -/
def State.accldIssued (t : State) (h : Hdr) (f : MFields) (ty : Nat) (accs : List Acc) : State :=
  (t.scoped f).engineIssue h (.accld h f) (t.part h) .tile accs [(0, ty)] []

theorem exec_accld_reads (hok : ¬ tm.refusesLoad d (f.d.toNat % 16) f.size.toNat) (hroom : EngineRoom s w) :
    exec (.accld h f) s = .next (s.tileReads h f l (if d.types.getD (f.d.toNat % 16) 0 = 2 then 131072 else 16384)
      (fun t accs => t.accldIssued h f (d.types.getD (f.d.toNat % 16) 0) accs)) := by
  show execAccld h f s = _
  rw [execAccld_acts (actor_of_lowest hw hl)]
  dsimp only
  rw [State.curTeam_eq s tm htm, State.curSide_eq hw htm, Team.side_eq hd, if_neg (fun e => hok ((refusesLoad_iff tm d _ _).mp e)),
    engineFull_of_room hw hroom, if_neg Bool.false_ne_true, tileBytes_eq]
  rfl

omit hl htm hd in
theorem accldIssued_queued {t : State} (hb : Beside s t) (hcore : w.core < s.cores.length) (ty : Nat) (accs : List Acc) :
    ∃ w', Queued s h w (.accld h f) .tile accs [(0, ty)] [] (w.runEnd || h.sw) (t.accldIssued h f ty accs) w' := by
  obtain ⟨w', hqueued⟩ := engineIssue_queued (h := h) hw (hb.trans (beside_scoped t f)) hcore (.accld h f) .tile accs [(0, ty)] []
  refine ⟨w', ?_⟩
  rw [State.accldIssued, hb.part]
  exact hqueued

end

end Sys2Proof.Machine
end

section
/-! PROOF. O29: ACCLD in the engine, and all of 10 R210. -/

namespace Sys2Proof.Machine
open Sys2Proof.Safety

/-! ### The words of a tile that accesses have read -/

theorem cellGet_eq_of_values {n : Nat} {m : Cells n} {k : Nat} {v : BitVec n} (hval : ∀ p ∈ m, p.1 = k → p.2 = v)
    (hlisted : v ≠ 0#n → ∃ p ∈ m, p.1 = k) : cellGet m k = v := by
  induction m with
  | nil =>
    by_contra hne
    obtain ⟨p, hp, -⟩ := hlisted (Ne.symm hne)
    exact absurd hp List.not_mem_nil
  | cons p m ih =>
    obtain ⟨a, u⟩ := p
    rw [cellGet]
    by_cases ha : a = k
    · rw [if_pos ha]
      exact hval (a, u) List.mem_cons_self ha
    · rw [if_neg ha]
      refine ih (fun q hq => hval q (List.mem_cons_of_mem _ hq)) fun hv => ?_
      obtain ⟨q, hq, hk⟩ := hlisted hv
      rcases List.mem_cons.mp hq with rfl | hq
      · exact absurd hk ha
      · exact ⟨q, hq, hk⟩

/-- Word `i` of what an access of 256 bytes has read. -/
def Acc.word (a : Acc) (i : Nat) : BitVec 32 := BitVec.ofNat 32 (a.result / 2 ^ (32 * i))

/-- The words that the accesses of an ACCLD put into the tile at position `n` (10 R210). -/
def tileWords (n : Nat) (accs : List Acc) : Cells 32 :=
  accs.zipIdx.flatMap (fun q => (List.range 64).filterMap (fun i =>
    let v := BitVec.ofNat 32 (q.1.result / 2 ^ (32 * i))
    if v == 0 then none else some (4096 * n + 64 * q.2 + i, v)))

theorem mem_tileWords (n : Nat) (accs : List Acc) (p : Nat × BitVec 32) :
    p ∈ tileWords n accs ↔ ∃ a j i, accs[j]? = some a ∧ i < 64 ∧ a.word i ≠ 0 ∧ p = (4096 * n + 64 * j + i, a.word i) := by
  simp only [tileWords, List.mem_flatMap, List.mem_filterMap, List.mem_range, Prod.exists, List.mk_mem_zipIdx_iff_getElem?, Acc.word]
  constructor
  · rintro ⟨a, j, ha, i, hi, hp⟩
    split at hp
    · cases hp
    · next hv => exact ⟨a, j, i, ha, hi, fun e => hv (beq_iff_eq.mpr e), (Option.some.inj hp).symm⟩
  · rintro ⟨a, j, i, ha, hi, hv, rfl⟩
    exact ⟨a, j, ha, i, hi, if_neg (fun e => hv (beq_iff_eq.mp e))⟩

theorem tileWords_range {n : Nat} {accs : List Acc} {p : Nat × BitVec 32} (hp : p ∈ tileWords n accs) :
    4096 * n ≤ p.1 ∧ p.1 < 4096 * n + 64 * accs.length := by
  obtain ⟨a, j, i, ha, hi, -, rfl⟩ := (mem_tileWords n accs p).mp hp
  have hj := (List.getElem?_eq_some_iff.mp ha).1
  simp only
  omega

theorem cellGet_tileWords {n : Nat} {accs : List Acc} {a : Acc} {i j : Nat} (ha : accs[j]? = some a) (hi : i < 64) :
    cellGet (tileWords n accs) (4096 * n + 64 * j + i) = a.word i := by
  refine cellGet_eq_of_values (fun p hp hk => ?_) fun hv => ⟨_, (mem_tileWords n accs _).mpr ⟨a, j, i, ha, hi, hv, rfl⟩, rfl⟩
  obtain ⟨b, j', i', hb, hi', -, rfl⟩ := (mem_tileWords n accs p).mp hp
  simp only at hk ⊢
  have hj : j' = j := by omega
  have hii : i' = i := by omega
  subst hj hii
  rw [Option.some.inj (hb.symm.trans ha)]

/-- A side whose tile at position `n` holds what the accesses have read. -/
def Side.loaded (d : Side) (n ty : Nat) (accs : List Acc) : Side :=
  { d with acc := cellSplice d.acc (4096 * n) (4096 * (n + tileSpan ty)) (tileWords n accs) }

section
variable (d : Side) (n : Nat) {ty : Nat} {accs : List Acc} (hlen : accs.length = if ty = 2 then 512 else 64)
include hlen

theorem tileSpan_words : 64 * accs.length = 4096 * tileSpan ty := by
  rw [hlen]
  by_cases hty : ty = 2 <;> simp [tileSpan, hty]

theorem loaded_tileOnly : TileOnly d (d.loaded n ty accs) n (if ty = 2 then 8 else 1) := by
  have hspan : (if ty = 2 then 8 else 1) = tileSpan ty := by simp [tileSpan]
  have hwords := tileSpan_words hlen
  rw [hspan]
  refine ⟨rfl, fun k hk => cellGet_cellSplice_out (fun p hp => ?_) (by omega) hk⟩
  have := tileWords_range hp
  omega

theorem loaded_words {a : Acc} {i j : Nat} (ha : accs[j]? = some a) (hi : i < 64) :
    (cellGet (d.loaded n ty accs).acc (4096 * n + 64 * j + i)).toNat = a.result / 2 ^ (32 * i) % 2 ^ 32 := by
  have hj := (List.getElem?_eq_some_iff.mp ha).1
  have hwords := tileSpan_words hlen
  rw [Side.loaded, cellGet_cellSplice_in (by omega) (by omega), cellGet_tileWords ha hi, Acc.word, BitVec.toNat_ofNat]

end

/-! ### The engine's step -/

theorem outIndex_of_lowest {s : State} {r : WaveRef} {w : Wave} {id k : Nat} (hw : s.wave? r = some w)
    (hk : Lowest (fun k => ∃ o, w.outs[k]? = some o ∧ o.id = id) k) : s.outIndex r id = some k := by
  have htest (j : Nat) : (match w.outs[j]? with | some o => o.id == id | none => false) = true ↔ ∃ o, w.outs[j]? = some o ∧ o.id = id := by
    cases w.outs[j]? <;> simp
  obtain ⟨o, ho, -⟩ := hk.1
  rw [State.outIndex, hw, Option.bind_some]
  refine find?_lowest List.pairwise_lt_range ⟨⟨List.mem_range.mpr (List.getElem?_eq_some_iff.mp ho).1, (htest k).mpr hk.1⟩, fun j hj hP => ?_⟩
  exact hk.2 j hj ((htest j).mp hP.2)

section
variable {s : State} {core : Nat} {op : EngineOp} {rest : List EngineOp} {tm : Team} {w : Wave} {d : Side} {h : Hdr} {f : MFields} {ty k : Nat} {o : Out}
  (hw : s.wave? { team := op.team, wave := op.wave } = some w) (hk : Lowest (fun k => ∃ o, w.outs[k]? = some o ∧ o.id = op.out) k)
  (ho : w.outs[k]? = some o) (hdone : ∀ a ∈ o.accs, a.state = .done ∧ a.rest = false)
include hw hk ho hdone

/-- The tile is filled and its poison gone (10 R210, 18 R380). -/
def State.tileFilled (s : State) (team side n ty : Nat) (accs : List Acc) : State :=
  (s.updSideOf team side (fun d => d.loaded n ty accs)).clearAcc team side n (tileSpan ty)

theorem runAccld_done (n side : Nat) : s.runAccld op n ty side =
    ((s.tileFilled op.team side n ty o.accs).engineDone op [] 0).popEngine w.core := by
  have hid : o.id = op.out := by
    obtain ⟨o', ho', hid⟩ := hk.1
    rw [← hid, Option.some.inj (ho.symm.trans ho')]
  have hfold (l : List Nat) : l.foldl (fun s j => s.doAcc { team := op.team, wave := op.wave } k j) s = s :=
    List.foldl_fixed' (fun j => doAcc_of_done hw ho (fun a ha => (hdone a ha).1) j) l
  have hwaits : o.accs.any (fun a => a.state != .done) = false := by
    simpa using fun a ha => (hdone a ha).1
  have hcore : ((((s.tileFilled op.team side n ty o.accs).engineDone op [] 0).wave? { team := op.team, wave := op.wave }).getD Wave.reset).core = w.core := by
    have hfilled : (s.tileFilled op.team side n ty o.accs).wave? { team := op.team, wave := op.wave } = some w :=
      (wave?_updTeam s op.team _ (fun t => t.updSide side (fun d => d.loaded n ty o.accs)) (fun _ => rfl) (fun _ => rfl)).trans hw
    rw [wave?_engineDone hfilled]
    rfl
  have hrun : s.runAccld op n ty side = ((s.tileFilled op.team side n ty o.accs).engineDone op [] 0).updCore
      ((((s.tileFilled op.team side n ty o.accs).engineDone op [] 0).wave? { team := op.team, wave := op.wave }).getD Wave.reset).core
      (fun c => { c with engine := c.engine.drop 1 }) := by
    simp only [State.runAccld, outIndex_of_lowest hw hk, hfold, hw, Option.bind_some, ho, hid, bne_self_eq_false, Bool.false_eq_true, if_false, hwaits,
      joinAccs_of_whole o.accs fun a ha => (hdone a ha).2]
    rfl
  rw [hrun, hcore]
  rfl

variable (hq : (s.core core).engine = op :: rest) (htm : s.team? op.team = some tm) (hon : w.core = core)
include hq htm hon

theorem exec_engine_accld (hi : op.instr = .accld h f) (hr : op.rows = [(0, ty)]) : exec (.engineOpStart core []) s =
    .next (((s.tileFilled op.team (ownSide tm w) (f.d.toNat % 16) ty o.accs).engineDone op [] 0).popEngine core) := by
  have hside : ((s.team? op.team).map (fun t => t.sideOf core)).getD 0 = ownSide tm w := by
    rw [htm, Option.map_some, Option.getD_some, ← hon, sideOf_eq_ownSide]
  have hrun := runAccld_done (ty := ty) hw hk ho hdone (f.d.toNat % 16) (ownSide tm w)
  rw [hon] at hrun
  rw [← hrun]
  show execEngineOpStart core [] s = _
  simp only [execEngineOpStart, hq, hside, State.opBad, hi, hr]
  rfl

end

end Sys2Proof.Machine

namespace Sys2Proof.Safety
open Sys2Proof.Machine

/-- 10 R210: ACCLD. -/
theorem tileLoads : Claims.TileLoads := by
  refine ⟨?_, ?_⟩
  · intro h f s w tm d l hw hl htm hd hcore n ty bad bytes base goes
    have hgoes {t : State} (hb : Beside s t) (accs : List Acc) (hexec : exec (.accld h f) s = .next (t.accldIssued h f ty accs)) : goes accs := by
      obtain ⟨w', hqueued⟩ := accldIssued_queued (h := h) (f := f) hw hb hcore ty accs
      exact ⟨_, w', hexec, hqueued⟩
    have hpos : 0 < bytes / 256 := by
      show 0 < (if ty = 2 then 131072 else 16384) / 256
      split <;> decide
    refine ⟨fun hbad => ?_, fun hok hroom hsub => ⟨fun hmis => ?_, fun hal hout => ?_, fun p hal hin hclean => ?_⟩,
      fun hok hroom hsub => ⟨fun hmis => ?_, fun x hal hwalk hx => ?_⟩⟩
    · exact traps_part hw (exec_accld_traps hw hl htm hd hbad)
    · exact traps_part hw ((exec_accld_reads hw hl htm hd hok hroom).trans (congrArg _ (tileReads_local_misaligned hw hsub htm hmis)))
    · exact traps_part hw ((exec_accld_reads hw hl htm hd hok hroom).trans (congrArg _ (tileReads_local_outside hw hsub htm hal hout)))
    · exact hgoes (.refl s) (scratchBlocks f l (bytes / 256) p)
        ((exec_accld_reads hw hl htm hd hok hroom).trans (congrArg _ (tileReads_local_goes hw hsub htm hal hin hclean)))
    · exact ⟨s.part h, fun j _ => takes_eq s h w j hw,
        (exec_accld_reads hw hl htm hd hok hroom).trans (congrArg _ (tileReads_global_misaligned hw hsub hpos hmis))⟩
    · obtain ⟨t, hb, hreads⟩ := tileReads_global_goes (h := h) (f := f) (l := l) (bytes := bytes) (k := fun t accs => t.accldIssued h f ty accs)
        hw hsub hal hwalk hx
      exact hgoes hb (memoryBlocks f l (bytes / 256) (globalEa h f w (w.lane l)) x)
        ((exec_accld_reads hw hl htm hd hok hroom).trans (congrArg _ hreads))
  · intro core s op rest tm w d h f ty k o hcore hq htm hw hon hd hi hr _ hk ho hlen hdone
    have hb := sideBecomes_updSideOf htm hd fun d => d.loaded (f.d.toNat % 16) ty o.accs
    have hfinished := engineDone_finished (t := s.tileFilled op.team (ownSide tm w) (f.d.toNat % 16) ty o.accs) hcore hq hw
      (fun q => hb.waves q) rfl rfl [] 0#8
    obtain ⟨tm', htm', -, hsides⟩ := hb.team_of_bare
      (v := ((s.tileFilled op.team (ownSide tm w) (f.d.toNat % 16) ty o.accs).engineDone op [] 0).popEngine core) (State.updWave_bare _ _ _)
    exact ⟨_, tm', d.loaded (f.d.toNat % 16) ty o.accs, exec_engine_accld hw hk ho hdone hq htm hon hi hr, hfinished, htm', hsides,
      loaded_tileOnly d _ hlen, rfl, fun j a i ha hi => loaded_words d _ hlen ha hi⟩

end Sys2Proof.Safety
end

section
/-! PROOF. O29: OBREL (10 R206). -/

namespace Sys2Proof.Machine
open Sys2Proof.Safety

/-- The slots of an operand buffer are a source or a destination of a command. -/
def Space.isSlot (sp : Space) : Prop := ∃ k x, sp = .obuf k x

/-- A list names pieces; it changes neither space of its command. -/
theorem withListed_spaces (s : State) (core : Nat) (c : Cmd) : (s.withListed core c).src = c.src ∧ (s.withListed core c).dst = c.dst := by
  unfold State.withListed
  cases c.list with
  | none => exact ⟨rfl, rfl⟩
  | some a =>
    dsimp only
    split
    · exact ⟨rfl, rfl⟩
    · split <;> exact ⟨rfl, rfl⟩

theorem usesSlot_of_no_slot {c : Cmd} (hsrc : ¬ c.src.isSlot) (hdst : ¬ c.dst.isSlot) (side slot : Nat) (p : Panel) : c.usesSlot side slot p = false := by
  unfold Cmd.usesSlot
  rw [Bool.or_eq_false_iff]
  constructor
  · cases hs : c.src with
    | obuf k x => exact absurd ⟨k, x, hs⟩ hsrc
    | _ => rfl
  · cases hs : c.dst with
    | obuf k x => exact absurd ⟨k, x, hs⟩ hdst
    | _ => rfl

/-- An MMA of a slot. -/
def EngineOp.reads (o : EngineOp) (slot : Nat) : Prop := ∃ g y, o.instr = .mma g y ∧ y.b.toNat % 16 = slot

theorem readsSlot_iff_reads (o : EngineOp) (slot : Nat) : o.readsSlot slot = true ↔ o.reads slot := by
  unfold EngineOp.readsSlot EngineOp.reads
  split
  · next g y hi =>
    rw [beq_iff_eq]
    refine ⟨fun e => ⟨g, y, hi, e⟩, fun ⟨g', y', hi', e⟩ => ?_⟩
    rw [hi] at hi'
    cases hi'
    exact e
  · next hno =>
    refine ⟨fun e => absurd e Bool.false_ne_true, fun ⟨g, y, hi, _⟩ => absurd hi (hno g y)⟩

section
variable {s : State} {w : Wave} (hw : Issuing s w)
include hw

theorem readsSlot_iff (slot : Nat) : s.readsSlot slot = true ↔ ∃ o ∈ (s.core w.core).engine, o.team = s.cur.team ∧ o.reads slot := by
  rw [State.readsSlot, State.curWave_eq s w hw, List.any_eq_true]
  simp only [Bool.and_eq_true, beq_iff_eq, readsSlot_iff_reads]

theorem copiesSlot_of_no_slot (h : ∀ c ∈ (s.core w.core).cmds, c.team = s.cur.team → ¬ c.src.isSlot ∧ ¬ c.dst.isSlot) (slot : Nat) (p : Panel) :
    s.copiesSlot slot p = false := by
  rw [State.copiesSlot, State.curWave_eq s w hw, List.any_eq_false]
  intro c hc htrue
  rw [Bool.and_eq_true, beq_iff_eq] at htrue
  obtain ⟨hteam, huses⟩ := htrue
  obtain ⟨hsrc, hdst⟩ := withListed_spaces s w.core c
  rw [usesSlot_of_no_slot (hsrc ▸ (h c hc hteam).1) (hdst ▸ (h c hc hteam).2)] at huses
  exact absurd huses Bool.false_ne_true

end

section
variable {s : State} {h : Hdr} {f : YFields} {w : Wave} {tm : Team} {d : Side} (hw : Issuing s w) (hact : Acting s h w)
  (htm : s.team? s.cur.team = some tm) (hd : tm.sides[ownSide tm w]? = some d)
include hw hact htm hd

theorem exec_obrel_traps (hnone : d.panel? (f.imm.toNat % 16) = none) :
    exec (.obrel h f) s = .next (s.trap h (cause 8 (2 + 16 * (f.imm.toNat % 16)) 0 0)) := by
  obtain ⟨l, hl⟩ := exists_actor hw hact
  show execObrel h f s = _
  rw [execObrel_acts hl, State.curTeam_eq s tm htm, State.curSide_eq hw htm, Team.side_eq hd, hnone]
  dsimp only
  rw [matrixTrap_eq]

theorem exec_obrel_held {p : Panel} (hheld : d.panel? (f.imm.toNat % 16) = some p) : exec (.obrel h f) s =
    if s.copiesSlot (f.imm.toNat % 16) p || s.readsSlot (f.imm.toNat % 16) then .next s.blockIssue
    else .next ((s.updSideOf s.cur.team (ownSide tm w) (fun d => { d with slots := d.slots.set (f.imm.toNat % 16) 0 })).finish h) := by
  obtain ⟨l, hl⟩ := exists_actor hw hact
  show execObrel h f s = _
  rw [execObrel_acts hl, State.curTeam_eq s tm htm, State.curSide_eq hw htm, Team.side_eq hd, hheld]
  simp only [listSet_const]

end

end Sys2Proof.Machine

namespace Sys2Proof.Safety
open Sys2Proof.Machine

/-- 10 R206: OBREL empties a slot that nothing uses. -/
theorem releases (h : Hdr) (f : YFields) (s : State) (w : Wave) (tm : Team) (d : Side) (hw : Issuing s w) (hact : Acting s h w)
    (htm : s.team? s.cur.team = some tm) (hd : tm.sides[ownSide tm w]? = some d) :
    (d.panel? (f.imm.toNat % 16) = none → Traps (.obrel h f) h s (takes s h w) (cause 8 (2 + 16 * (f.imm.toNat % 16)) 0 0)) ∧
    (d.panel? (f.imm.toNat % 16) ≠ none →
      (∀ c ∈ (s.core w.core).cmds, c.team = s.cur.team → ¬ c.src.isSlot ∧ ¬ c.dst.isSlot) →
      (∀ o ∈ (s.core w.core).engine, o.team = s.cur.team → ¬ o.reads (f.imm.toNat % 16)) →
      ∃ t : State, exec (.obrel h f) s = .next t ∧ SideStep s h w w tm { d with slots := d.slots.set (f.imm.toNat % 16) 0#128 } t) ∧
    (d.panel? (f.imm.toNat % 16) ≠ none → (∃ o ∈ (s.core w.core).engine, o.team = s.cur.team ∧ o.reads (f.imm.toNat % 16)) →
      exec (.obrel h f) s = .next s.blockIssue) := by
  refine ⟨fun hnone => traps_part hw (exec_obrel_traps hw hact htm hd hnone), fun hheld hcopies hreads => ?_, fun hheld hreads => ?_⟩
  · obtain ⟨p, hp⟩ := Option.ne_none_iff_exists'.mp hheld
    have hidle : ¬ (s.copiesSlot (f.imm.toNat % 16) p || s.readsSlot (f.imm.toNat % 16)) = true := by
      rw [copiesSlot_of_no_slot hw hcopies, Bool.false_or, readsSlot_iff hw]
      exact fun ⟨o, ho, hteam, hr⟩ => hreads o ho hteam hr
    exact ⟨_, (exec_obrel_held hw hact htm hd hp).trans (if_neg hidle),
      (sideBecomes_updSideOf htm hd fun d => { d with slots := d.slots.set (f.imm.toNat % 16) 0 }).onwards hw⟩
  · obtain ⟨p, hp⟩ := Option.ne_none_iff_exists'.mp hheld
    refine (exec_obrel_held hw hact htm hd hp).trans (if_pos ?_)
    rw [(readsSlot_iff hw _).mpr hreads, Bool.or_true]

end Sys2Proof.Safety
end

section
/-! PROOF. O29: where OBRES places a reservation, and the record that it writes (10 R203, R204). -/

namespace Sys2Proof.Machine
open Sys2Proof.Safety

/-! ### The lowest free range -/

theorem mem_taken (d : Side) (r : Nat × Nat) : r ∈ d.taken ↔ ∃ k q, k < 16 ∧ d.panel? k = some q ∧ r = (q.base, q.extent) := by
  simp only [Side.taken, List.mem_filterMap, List.mem_range, Option.map_eq_some_iff]
  constructor
  · rintro ⟨k, hk, q, hq, rfl⟩
    exact ⟨k, q, hk, hq, rfl⟩
  · rintro ⟨k, q, hk, hq, rfl⟩
    exact ⟨k, hk, q, hq, rfl⟩

theorem free_iff (d : Side) (alloc n a : Nat) :
    (decide (a + n ≤ alloc) && d.taken.all (fun r => decide (a + n ≤ r.1) || decide (r.1 + r.2 ≤ a))) = true ↔ FreeAt d alloc n a := by
  simp only [Bool.and_eq_true, decide_eq_true_eq, List.all_eq_true, Bool.or_eq_true, mem_taken, FreeAt]
  refine and_congr_right fun _ => ⟨fun h k q hk hq => h _ ⟨k, q, hk, hq, rfl⟩, ?_⟩
  rintro h _ ⟨k, q, hk, hq, rfl⟩
  exact h k q hk hq

/-- The lowest free range begins at zero or where another ends. -/
theorem lowest_free_start {d : Side} {alloc n base : Nat} (hb : Lowest (FreeAt d alloc n) base) :
    base ∈ 0 :: d.taken.map (fun r => r.1 + r.2) := by
  obtain ⟨⟨hfit, hfree⟩, hlow⟩ := hb
  by_cases h0 : base = 0
  · exact h0 ▸ List.mem_cons_self
  refine List.mem_cons_of_mem _ (List.mem_map.mpr ?_)
  have hprev := hlow (base - 1) (by omega)
  simp only [FreeAt, not_and, not_forall, not_or] at hprev
  obtain ⟨k, q, hk, hq, habove, hbelow⟩ := hprev (by omega)
  refine ⟨(q.base, q.extent), (mem_taken d _).mpr ⟨k, q, hk, hq, rfl⟩, ?_⟩
  have := hfree k q hk hq
  simp only
  omega

theorem find?_least {l : List Nat} (hs : l.Pairwise (· ≤ ·)) {p : Nat → Bool} {k : Nat} (hk : k ∈ l) (hp : p k = true)
    (hlow : ∀ j, p j = true → k ≤ j) : l.find? p = some k := by
  induction l with
  | nil => exact absurd hk List.not_mem_nil
  | cons a l ih =>
    obtain ⟨hhead, htail⟩ := List.pairwise_cons.mp hs
    by_cases ha : p a = true
    · have hle : a ≤ k := (List.mem_cons.mp hk).elim (fun e => e ▸ le_rfl) (hhead k)
      rw [List.find?_cons_of_pos ha, le_antisymm hle (hlow a ha)]
    · have hne : k ≠ a := fun e => ha (e ▸ hp)
      rw [List.find?_cons_of_neg ha]
      exact ih htail ((List.mem_cons.mp hk).resolve_left hne)

theorem sortBy_sorted (l : List Nat) : (sortBy (fun a b => decide (a < b)) l).Pairwise (· ≤ ·) := by
  have hchain := sortBy_inOrder (lt := fun (a b : Nat) => decide (a < b)) (fun x y h => by simp at h ⊢; omega) l
  exact List.isChain_iff_pairwise.mp (hchain.imp fun x y h => by simpa using h)

/-- 10 R204: a reservation takes the lowest free range. -/
theorem place_lowest {d : Side} {alloc n base : Nat} (hb : Lowest (FreeAt d alloc n) base) : d.place alloc n = some base := by
  rw [Side.place]
  refine find?_least (sortBy_sorted _) ((sortBy_perm _ _).mem_iff.mpr (lowest_free_start hb)) ((free_iff d alloc n base).mpr hb.1) fun j hj => ?_
  exact Nat.le_of_not_lt fun hlt => hb.2 j hlt ((free_iff d alloc n j).mp hj)

theorem place_none {d : Side} {alloc n : Nat} (hfull : ∀ base, ¬ FreeAt d alloc n base) : d.place alloc n = none := by
  rw [Side.place]
  exact List.find?_eq_none.mpr fun j _ hj => hfull j ((free_iff d alloc n j).mp hj)

/-! ### The shape of a reservation -/

/-- The bits of an element, the longest K, and the elements of a block, as 10 R203 lists them. -/
def Panel.size (p : Panel) : Nat := if p.itype ≤ 1 then 16 else if p.itype ≤ 4 then 8 else 4
def Panel.most (p : Panel) : Nat := if p.itype = 8 then 320 else 512 / p.size
def Panel.block (p : Panel) : Nat := [1, 16, 32, 64].getD p.blk 0

/-- A descriptor that a matrix instruction refuses (07 R146). -/
def refusedDesc (x : Nat) : Prop := (nfDesc x).valid = false ∨ ((nfDesc x).spec = 2 ∧ (nfDesc x).m = 0)

theorem nfRefused_iff (x : Nat) : nfRefused x = true ↔ refusedDesc x := by simp [nfRefused, refusedDesc]

/-- A description out of shape (10 R204). -/
def Panel.refused (p : Panel) (e0 e1 e2 e3 : Nat) : Prop :=
  8 < p.itype ∨ p.kext % (if p.itype = 8 then 40 else 8) ≠ 0 ∨ p.kext < 8 ∨ p.most < p.kext ∨ 2 ^ 21 ≤ e0 ∨ e1 ≠ 0 ∨ e2 ≠ 0 ∨ e3 ≠ 0 ∨
  (if p.itype = 4 ∨ p.itype = 7 then refusedDesc p.desc ∨ p.size < (nfDesc p.desc).n else p.desc ≠ 0) ∨
  (p.blk ≠ 0 ∧ (p.itype ≤ 1 ∨ p.kext % p.block ≠ 0)) ∨ p.sfmt = 3 ∨ (if p.sfmt = 2 then refusedDesc p.sdesc else p.sdesc ≠ 0) ∨
  (p.asc = true ∧ p.blk = 0) ∨ (p.tr = true ∧ p.itype = 8)

theorem ebits_eq_size {p : Panel} (h : p.itype < 8) : p.ebits = p.size := by
  unfold Panel.ebits Panel.size
  generalize p.itype = t at h
  interval_cases t <;> rfl

theorem kmax_eq_most {p : Panel} (h : p.itype ≤ 8) : p.kmax = p.most := by
  unfold Panel.kmax Panel.most Panel.size
  generalize p.itype = t at h
  interval_cases t <;> rfl

theorem blen_eq_block {p : Panel} (h : p.blk < 4) (h0 : p.blk ≠ 0) : p.blen = p.block := by
  unfold Panel.blen Panel.block
  generalize p.blk = b at h h0
  interval_cases b
  · exact absurd rfl h0
  all_goals rfl

theorem highBits_iff {x : Nat} (hx : x < 2 ^ 32) : bits x 31 21 ≠ 0 ↔ 2 ^ 21 ≤ x := by
  rw [bits_eq_div_mod]
  omega

theorem badDesc_iff {p : Panel} (hblk : p.blk < 4) {e0 e1 e2 e3 : Nat} (he : e0 < 2 ^ 32) : p.badDesc e0 e1 e2 e3 = true ↔ p.refused e0 e1 e2 e3 := by
  by_cases h8 : 8 < p.itype
  · simp [Panel.badDesc, Panel.refused, h8]
  have hle : p.itype ≤ 8 := Nat.le_of_not_lt h8
  have hdesc : (if p.isNf = true then nfRefused p.desc || decide ((nfDesc p.desc).n > p.ebits) else p.desc != 0) = true ↔
      if p.itype = 4 ∨ p.itype = 7 then refusedDesc p.desc ∨ p.size < (nfDesc p.desc).n else p.desc ≠ 0 := by
    have hnf : p.isNf = true ↔ p.itype = 4 ∨ p.itype = 7 := by simp [Panel.isNf]
    by_cases h : p.itype = 4 ∨ p.itype = 7
    · rw [if_pos (hnf.mpr h), if_pos h, Bool.or_eq_true, nfRefused_iff, decide_eq_true_eq, ebits_eq_size (by omega)]
    · rw [if_neg (fun e => h (hnf.mp e)), if_neg h, bne_iff_ne]
  have hsdesc : (if (p.sfmt == 2) = true then nfRefused p.sdesc else p.sdesc != 0) = true ↔
      if p.sfmt = 2 then refusedDesc p.sdesc else p.sdesc ≠ 0 := by
    by_cases h : p.sfmt = 2
    · rw [if_pos (beq_iff_eq.mpr h), if_pos h, nfRefused_iff]
    · rw [if_neg (fun e => h (beq_iff_eq.mp e)), if_neg h, bne_iff_ne]
  have hblocks : (p.blk ≠ 0 ∧ p.itype ≤ 1) ∨ (p.blk ≠ 0 ∧ p.kext % p.blen ≠ 0) ↔ p.blk ≠ 0 ∧ (p.itype ≤ 1 ∨ p.kext % p.block ≠ 0) := by
    rw [← and_or_left]
    exact and_congr_right fun h0 => by rw [blen_eq_block hblk h0]
  have hternary : (if p.ternary = true then 40 else 8) = if p.itype = 8 then 40 else 8 := by simp [Panel.ternary]
  rw [Panel.refused, ← hblocks, ← hdesc, ← hsdesc, ← highBits_iff he, ← hternary, ← kmax_eq_most hle]
  simp only [Panel.badDesc, Bool.or_eq_true, Bool.and_eq_true, decide_eq_true_eq, bne_iff_ne, beq_iff_eq, Panel.ternary, or_assoc, gt_iff_lt, ne_eq]

/-! ### The areas of a reservation -/

/-- The bytes of an area (10 R204). -/
def paddedBytes (n : Nat) : Nat := (n + 255) / 256 * 256
def Panel.panelArea (p : Panel) : Nat := if p.itype = 8 then 64 * p.kext / 5 else 64 * p.kext * p.size / 8
def Panel.scaleArea (p : Panel) : Nat := if p.blk = 0 then 0 else 64 * (p.kext / p.block) * (if p.sfmt = 1 then 2 else 1)

theorem roundUp_256 (n : Nat) : roundUp n 256 = paddedBytes n := by rw [roundUp, ceilDiv, paddedBytes, show n + 256 - 1 = n + 255 by omega]

theorem scaleBytes_eq {p : Panel} (hblk : p.blk < 4) : p.scaleBytes = p.scaleArea := by
  rw [Panel.scaleBytes, Panel.scaleRow, Panel.scaleArea, Panel.sbytes]
  by_cases h0 : p.blk = 0
  · simp [h0]
  · simp [h0, blen_eq_block hblk h0, mul_assoc]

section
variable {p : Panel} {e0 e1 e2 e3 : Nat} (hblk : p.blk < 4) (hok : ¬ p.refused e0 e1 e2 e3)
include hok

theorem kext_shape : p.itype ≤ 8 ∧ p.kext % (if p.itype = 8 then 40 else 8) = 0 ∧ 8 ≤ p.kext := by
  simp only [Panel.refused, not_or] at hok
  obtain ⟨htype, hdvd, hpos, -⟩ := hok
  exact ⟨Nat.le_of_not_lt htype, by simpa using hdvd, Nat.le_of_not_lt hpos⟩

theorem bytes_eq_panelArea : p.bytes = p.panelArea := by
  obtain ⟨hle, hdvd, -⟩ := kext_shape hok
  rw [Panel.bytes, Panel.colBytes, Panel.panelArea, Panel.ternary]
  by_cases h8 : p.itype = 8
  · rw [if_pos h8] at hdvd ⊢
    rw [if_pos (beq_iff_eq.mpr h8)]
    omega
  · rw [if_neg h8] at hdvd ⊢
    rw [if_neg (fun e => h8 (beq_iff_eq.mp e)), ebits_eq_size (by omega)]
    obtain ⟨c, hc⟩ := Nat.dvd_of_mod_eq_zero hdvd
    rw [hc, show 8 * c * p.size = 8 * (c * p.size) by ring, show 64 * (8 * c) * p.size = 8 * (64 * (c * p.size)) by ring,
      Nat.mul_div_cancel_left _ (by decide), Nat.mul_div_cancel_left _ (by decide)]

theorem panelArea_pos : 0 < p.panelArea := by
  obtain ⟨-, -, hpos⟩ := kext_shape hok
  have hsize : 4 ≤ p.size := by
    unfold Panel.size
    split
    · decide
    · split <;> decide
  rw [Panel.panelArea]
  split
  · omega
  · have : 64 * 8 * 4 ≤ 64 * p.kext * p.size := Nat.mul_le_mul (Nat.mul_le_mul_left _ hpos) hsize
    omega

include hblk

theorem scaleArea_pos (h0 : p.blk ≠ 0) : 0 < p.scaleArea := by
  have hmod : p.kext % p.block = 0 := by
    simp only [Panel.refused, not_or, not_and] at hok
    obtain ⟨-, -, -, -, -, -, -, -, -, hblocks, -⟩ := hok
    simpa using (hblocks h0).2
  obtain ⟨-, -, hpos⟩ := kext_shape hok
  have hlen : 0 < p.block := by
    rw [← blen_eq_block hblk h0, Panel.blen]
    positivity
  have hle : p.block ≤ p.kext := Nat.le_of_dvd (by omega) (Nat.dvd_of_mod_eq_zero hmod)
  have hquot : 0 < p.kext / p.block := Nat.div_pos hle hlen
  rw [Panel.scaleArea, if_neg h0]
  split <;> omega

theorem extent_eq : p.extent = paddedBytes p.panelArea + paddedBytes (if p.spb = true then 512 else 0) + paddedBytes p.scaleArea := by
  rw [Panel.extent, roundUp_256, roundUp_256, roundUp_256, bytes_eq_panelArea hok, scaleBytes_eq hblk, Panel.bitmapBytes]

end

end Sys2Proof.Machine
end

section
/-! PROOF. O29: the record of a reservation, OBRES, and the whole statement. -/

namespace Sys2Proof.Machine
open Sys2Proof.Safety

/-! ### The record (10 R203) -/

/-- The fields of a reservation record as one number: descriptors, whether it is held, the offsets in units of 256 bytes, and the bits below. -/
def packRecord (desc sdesc held sc sp base low : Nat) : Nat :=
  desc * 2 ^ 96 + sdesc * 2 ^ 64 + held * 2 ^ 63 + sc * 2 ^ 51 + sp * 2 ^ 39 + base * 2 ^ 27 + low

/-- Every field has room for its value. -/
structure RecordFits (desc sdesc held sc sp base low : Nat) : Prop where
  desc : desc < 2 ^ 32
  sdesc : sdesc < 2 ^ 32
  held : held < 2
  sc : sc < 2 ^ 12
  sp : sp < 2 ^ 12
  base : base < 2 ^ 12
  low : low < 2 ^ 21

section
variable {desc sdesc held sc sp base low : Nat}

/-- The low bits of a record do not depend on what stands above them. -/
theorem packRecord_low {k n : Nat} (h : k + n ≤ 27) : packRecord desc sdesc held sc sp base low / 2 ^ k % 2 ^ n = low / 2 ^ k % 2 ^ n := by
  have hsplit : packRecord desc sdesc held sc sp base low = low + 2 ^ k * (2 ^ n * (2 ^ (27 - k - n) *
      (desc * 2 ^ 69 + sdesc * 2 ^ 37 + held * 2 ^ 36 + sc * 2 ^ 24 + sp * 2 ^ 12 + base))) := by
    have hpow : 2 ^ k * (2 ^ n * 2 ^ (27 - k - n)) = 2 ^ 27 := by
      rw [← pow_add, ← pow_add]
      congr 1
      omega
    rw [← mul_assoc (2 ^ n), ← mul_assoc (2 ^ k), hpow, packRecord]
    ring
  rw [hsplit, Nat.add_mul_div_left _ _ (Nat.two_pow_pos k), Nat.add_mul_mod_self_left]

variable (hf : RecordFits desc sdesc held sc sp base low)
include hf

/-- The fields above them, each at its place. -/
theorem packRecord_fields :
    packRecord desc sdesc held sc sp base low / 2 ^ 27 % 2 ^ 12 = base ∧ packRecord desc sdesc held sc sp base low / 2 ^ 39 % 2 ^ 12 = sp ∧
    packRecord desc sdesc held sc sp base low / 2 ^ 51 % 2 ^ 12 = sc ∧ packRecord desc sdesc held sc sp base low / 2 ^ 63 % 2 = held ∧
    packRecord desc sdesc held sc sp base low / 2 ^ 64 % 2 ^ 32 = sdesc ∧ packRecord desc sdesc held sc sp base low / 2 ^ 96 % 2 ^ 32 = desc := by
  obtain ⟨hdesc, hsdesc, hheld, hsc, hsp, hbase, hlow⟩ := hf
  rw [packRecord]
  omega

theorem packRecord_lt : packRecord desc sdesc held sc sp base low < 2 ^ 128 := by
  obtain ⟨hdesc, hsdesc, hheld, hsc, hsp, hbase, hlow⟩ := hf
  rw [packRecord]
  omega

/-- Reading a record's fields back. -/
theorem panelOf_packRecord : panelOf (packRecord desc sdesc held sc sp base low) =
    { panelOf low with base := base * 256, spoff := sp * 256, scoff := sc * 256, desc := desc, sdesc := sdesc } := by
  have hbits (hi lo : Nat) (h : hi < 27) (hle : lo ≤ hi) : bits (packRecord desc sdesc held sc sp base low) hi lo = bits low hi lo := by
    rw [bits_eq_div_mod, bits_eq_div_mod]
    exact packRecord_low (by omega)
  have hbit (i : Nat) (h : i < 27) : bit (packRecord desc sdesc held sc sp base low) i = bit low i := by
    have hmod := packRecord_low (desc := desc) (sdesc := sdesc) (held := held) (sc := sc) (sp := sp) (base := base) (low := low) (k := i) (n := 1) (by omega)
    rw [Nat.pow_one] at hmod
    rw [bit, bit, Nat.shiftRight_eq_div_pow, Nat.shiftRight_eq_div_pow, hmod]
  obtain ⟨hbase, hsp, hsc, -, hsdesc, hdesc⟩ := packRecord_fields hf
  have hb := (bits_eq_div_mod (packRecord desc sdesc held sc sp base low) 38 27).trans hbase
  have hs := (bits_eq_div_mod (packRecord desc sdesc held sc sp base low) 50 39).trans hsp
  have hc := (bits_eq_div_mod (packRecord desc sdesc held sc sp base low) 62 51).trans hsc
  have hd := (bits_eq_div_mod (packRecord desc sdesc held sc sp base low) 127 96).trans hdesc
  have hsd := (bits_eq_div_mod (packRecord desc sdesc held sc sp base low) 95 64).trans hsdesc
  simp only [panelOf, hb, hs, hc, hd, hsd, hbits 8 0 (by decide) (by decide), hbits 12 9 (by decide) (by decide), hbits 16 15 (by decide) (by decide),
    hbits 18 17 (by decide) (by decide), hbit 13 (by decide), hbit 14 (by decide), hbit 19 (by decide), hbit 20 (by decide)]

end

/-! ### OBRES -/

/-- The record of an OBRES before it is placed, field by field. -/
theorem obresPanel_eq (f : CFields) (w : Wave) : obresPanel f w =
    { panelOf (w.sr (f.e.toNat + 0) % 2 ^ 21) with base := 0, spoff := 0, scoff := 0, desc := w.sr f.a.toNat, sdesc := w.sr (f.a.toNat + 1) } := by
  have hpack : w.sr (f.e.toNat + 0) % 2 ^ 21 + w.sr f.a.toNat * 2 ^ 96 + w.sr (f.a.toNat + 1) * 2 ^ 64 =
      packRecord (w.sr f.a.toNat) (w.sr (f.a.toNat + 1)) 0 0 0 0 (w.sr (f.e.toNat + 0) % 2 ^ 21) := by
    rw [packRecord]
    ring
  rw [obresPanel, hpack, panelOf_packRecord ⟨w.sr_lt _, w.sr_lt _, by decide, by decide, by decide, by decide, Nat.mod_lt _ (by decide)⟩]

theorem obresPanel_blk (f : CFields) (w : Wave) : (obresPanel f w).blk < 4 := by
  rw [obresPanel_eq]
  exact Nat.mod_lt _ (by decide)

/-- Where the bitmap and the scales of a reservation from `base` begin, if it has them. -/
def Panel.bitmapAt (p : Panel) (base : Nat) : Nat := if p.spb = true then base + paddedBytes p.panelArea else 0
def Panel.scalesAt (p : Panel) (base : Nat) : Nat :=
  if p.blk = 0 then 0 else base + paddedBytes p.panelArea + paddedBytes (if p.spb = true then 512 else 0)

theorem paddedBytes_dvd (n : Nat) : paddedBytes n % 256 = 0 := Nat.mul_mod_left _ _

theorem paddedBytes_pos {n : Nat} (h : 0 < n) : 0 < paddedBytes n := by
  rw [paddedBytes]
  omega

/-- The record that OBRES writes, field by field. -/
theorem record_eq {p : Panel} {e0 e1 e2 e3 : Nat} (hok : ¬ p.refused e0 e1 e2 e3) (low base : Nat) : p.record low base =
    packRecord p.desc p.sdesc 1 (p.scalesAt base / 256) (p.bitmapAt base / 256) (base / 256) (low % 2 ^ 21) := by
  rw [Panel.record, roundUp_256, roundUp_256, bytes_eq_panelArea hok, packRecord, Panel.bitmapAt, Panel.scalesAt, Panel.bitmapBytes, Nat.one_mul]
  by_cases h0 : p.blk = 0 <;> by_cases hs : p.spb = true <;> simp [h0, hs]

section
variable {p : Panel} {e0 e1 e2 e3 base : Nat} (hblk : p.blk < 4) (hok : ¬ p.refused e0 e1 e2 e3) (hfit : base + p.extent ≤ 2 ^ 20)
include hblk hok hfit

/-- The offsets of a reservation that fits in 1 MiB fit in their fields. -/
theorem offsets_lt : base < 2 ^ 20 ∧ p.bitmapAt base < 2 ^ 20 ∧ p.scalesAt base < 2 ^ 20 := by
  rw [extent_eq hblk hok] at hfit
  have hpanel := paddedBytes_pos (panelArea_pos hok)
  refine ⟨by omega, ?_, ?_⟩
  · rw [Panel.bitmapAt]
    split
    · next hspb =>
      rw [if_pos hspb] at hfit
      have : paddedBytes 512 = 512 := rfl
      omega
    · decide
  · rw [Panel.scalesAt]
    split
    · decide
    · next h0 =>
      have := paddedBytes_pos (scaleArea_pos hblk hok h0)
      omega

end

/-- The reservation's record once it is placed (10 R204). -/
def obresRecord (f : CFields) (w : Wave) (base : Nat) : BitVec 128 := BitVec.ofNat 128 ((obresPanel f w).record (w.sr (f.e.toNat + 0)) base)

section
variable {f : CFields} {w : Wave} {e0 e1 e2 e3 base : Nat} (hok : ¬ (obresPanel f w).refused e0 e1 e2 e3)
  (hfit : base + (obresPanel f w).extent ≤ 2 ^ 20)
include hok hfit

theorem obresRecord_fits : RecordFits (w.sr f.a.toNat) (w.sr (f.a.toNat + 1)) 1 ((obresPanel f w).scalesAt base / 256)
    ((obresPanel f w).bitmapAt base / 256) (base / 256) (w.sr (f.e.toNat + 0) % 2 ^ 21) := by
  obtain ⟨hbase, hbitmap, hscales⟩ := offsets_lt (obresPanel_blk f w) hok hfit
  exact ⟨w.sr_lt _, w.sr_lt _, by decide, by omega, by omega, by omega, Nat.mod_lt _ (by decide)⟩

theorem obresRecord_toNat : (obresRecord f w base).toNat = packRecord (w.sr f.a.toNat) (w.sr (f.a.toNat + 1)) 1
    ((obresPanel f w).scalesAt base / 256) ((obresPanel f w).bitmapAt base / 256) (base / 256) (w.sr (f.e.toNat + 0) % 2 ^ 21) := by
  have hdesc : (obresPanel f w).desc = w.sr f.a.toNat := by rw [obresPanel_eq]
  have hsdesc : (obresPanel f w).sdesc = w.sr (f.a.toNat + 1) := by rw [obresPanel_eq]
  rw [obresRecord, record_eq hok, hdesc, hsdesc, BitVec.toNat_ofNat]
  exact Nat.mod_eq_of_lt (packRecord_lt (obresRecord_fits hok hfit))

theorem obresRecord_held : (obresRecord f w base).getLsbD 63 = true := by
  obtain ⟨-, -, -, hheld, -⟩ := packRecord_fields (obresRecord_fits hok hfit)
  rw [BitVec.getLsbD, obresRecord_toNat hok hfit, Nat.testBit_eq_decide_div_mod_eq, hheld]
  rfl

theorem panelOf_obresRecord (hbase : base % 256 = 0) : panelOf (obresRecord f w base).toNat =
    { obresPanel f w with base := base, spoff := (obresPanel f w).bitmapAt base, scoff := (obresPanel f w).scalesAt base } := by
  have hpanel := paddedBytes_dvd (obresPanel f w).panelArea
  have hmap := paddedBytes_dvd (if (obresPanel f w).spb = true then 512 else 0)
  have hunit {n : Nat} (h : n % 256 = 0) : n / 256 * 256 = n := Nat.div_mul_cancel (Nat.dvd_of_mod_eq_zero h)
  have hbitmapUnit : (obresPanel f w).bitmapAt base % 256 = 0 := by
    rw [Panel.bitmapAt]
    split <;> omega
  have hscalesUnit : (obresPanel f w).scalesAt base % 256 = 0 := by
    rw [Panel.scalesAt]
    split <;> omega
  rw [obresRecord_toNat hok hfit, panelOf_packRecord (obresRecord_fits hok hfit), hunit hbase, hunit hbitmapUnit, hunit hscalesUnit]
  generalize (obresPanel f w).bitmapAt base = sp
  generalize (obresPanel f w).scalesAt base = sc
  rw [obresPanel_eq]

end

/-- The state after an OBRES that finds a place, or none (10 R204). -/
def State.obresPlaced (s : State) (h : Hdr) (f : CFields) (w : Wave) (side : Nat) : Option Nat → State
  | none => (s.updCur (fun w => w.setS f.d.toNat 0xFFFFFFFF)).finish h
  | some base => ((s.updSideOf s.cur.team side (fun d => { d with slots := d.slots.set (f.tag.toNat % 16) (obresRecord f w base) })).updCur
      (fun w => w.setS f.d.toNat base)).finish h

section
variable {s : State} {h : Hdr} {f : CFields} {w : Wave} {tm : Team} {d : Side} (hw : Issuing s w) (hact : Acting s h w)
  (htm : s.team? s.cur.team = some tm) (hd : tm.sides[ownSide tm w]? = some d)
include hw hact htm hd

/-- What OBRES answers (10 R204). -/
theorem exec_obres : exec (.obres h f) s =
    if (d.panel? (f.tag.toNat % 16)).isSome then .next (s.trap h (cause 8 (2 + 16 * (f.tag.toNat % 16)) 0 0))
    else if (obresPanel f w).badDesc (w.sr (f.e.toNat + 0)) (w.sr (f.e.toNat + 1)) (w.sr (f.e.toNat + 2)) (w.sr (f.e.toNat + 3)) then
      .next (s.trap h (cause 8 (1 + 16 * (f.tag.toNat % 16)) 0 0))
    else .next (s.obresPlaced h f w (ownSide tm w) (d.place tm.obufAlloc (obresPanel f w).extent)) := by
  obtain ⟨l, hl⟩ := exists_actor hw hact
  show execObres h f s = _
  rw [execObres_acts hl, State.curTeam_eq s tm htm, State.curSide_eq hw htm, Team.side_eq hd, State.curWave_eq s w hw]
  simp only [listSet_const, matrixTrap_eq]
  cases d.place tm.obufAlloc (obresPanel f w).extent <;> rfl

end

/-- The bytes of an operand-buffer allocation (10 R201). -/
theorem obufAlloc_eq (tm : Team) : tm.obufAlloc = (tm.obufBytes + 4095) / 4096 * 4096 := by
  rw [Team.obufAlloc, roundUp, ceilDiv, show tm.obufBytes + 4096 - 1 = tm.obufBytes + 4095 by omega]

end Sys2Proof.Machine

namespace Sys2Proof.Safety
open Sys2Proof.Machine

/-- 10 R203, R204: OBRES. -/
theorem reserves (h : Hdr) (f : CFields) (s : State) (w : Wave) (tm : Team) (d : Side) (hw : Issuing s w) (hact : Acting s h w)
    (htm : s.team? s.cur.team = some tm) (hd : tm.sides[ownSide tm w]? = some d) :
    let slot := f.tag.toNat % 16
    let p := obresPanel f w
    let bad := p.refused (w.sr (f.e.toNat + 0)) (w.sr (f.e.toNat + 1)) (w.sr (f.e.toNat + 2)) (w.sr (f.e.toNat + 3))
    let need := paddedBytes p.panelArea + paddedBytes (if p.spb = true then 512 else 0) + paddedBytes p.scaleArea
    let alloc := (tm.obufBytes + 4095) / 4096 * 4096
    (d.panel? slot ≠ none → Traps (.obres h f) h s (takes s h w) (cause 8 (2 + 16 * slot) 0 0)) ∧
    (d.panel? slot = none → bad → Traps (.obres h f) h s (takes s h w) (cause 8 (1 + 16 * slot) 0 0)) ∧
    (d.panel? slot = none → ¬ bad → alloc ≤ 2 ^ 20 →
      (∀ base, Lowest (FreeAt d alloc need) base → ∃ (t : State) (r : BitVec 128) (w' : Wave), exec (.obres h f) s = .next t ∧
        SideStep s h w { w with sregs := w'.sregs } tm { d with slots := d.slots.set slot r } t ∧
        (∀ k, w'.sr k = (block f.d.toNat 1 base k).getD (w.sr k)) ∧ r.getLsbD 63 = true ∧
        (base % 256 = 0 → panelOf r.toNat = { p with base := base, spoff := p.bitmapAt base, scoff := p.scalesAt base })) ∧
      ((∀ base, ¬ FreeAt d alloc need base) → ∃ (t : State) (w' : Wave), exec (.obres h f) s = .next t ∧
        Becomes s w { w with sregs := w'.sregs } (onwards s h w) (w.runEnd || h.sw) t w' ∧
        ∀ k, w'.sr k = (block f.d.toNat 1 0xFFFFFFFF k).getD (w.sr k))) := by
  intro slot p bad need alloc
  have hblk := obresPanel_blk f w
  have hexec := exec_obres (f := f) hw hact htm hd
  have hbad := badDesc_iff hblk (w.sr_lt (f.e.toNat + 0)) (e1 := w.sr (f.e.toNat + 1)) (e2 := w.sr (f.e.toNat + 2)) (e3 := w.sr (f.e.toNat + 3))
  refine ⟨fun hheld => ?_, fun hfree hrefused => ?_, fun hfree hok halloc => ?_⟩
  · exact traps_part hw (hexec.trans (if_pos (Option.isSome_iff_ne_none.mpr hheld)))
  · refine traps_part hw (hexec.trans ((if_neg ?_).trans (if_pos (hbad.mpr hrefused))))
    exact fun e => Option.isSome_iff_ne_none.mp e hfree
  · rw [if_neg (fun e => Option.isSome_iff_ne_none.mp e hfree), if_neg (fun e => hok (hbad.mp e)), extent_eq hblk hok, obufAlloc_eq] at hexec
    refine ⟨fun base hlow => ?_, fun hfull => ?_⟩
    · have hfit : base + (obresPanel f w).extent ≤ 2 ^ 20 := by
        rw [extent_eq hblk hok]
        exact hlow.1.1.trans halloc
      rw [place_lowest hlow] at hexec
      exact ⟨_, obresRecord f w base, w.setS f.d.toNat base, hexec, (sideBecomes_updSideOf htm hd _).step hw rfl rfl rfl,
        fun k => sr_block w f.d.toNat 1 base k, obresRecord_held hok hfit, panelOf_obresRecord hok hfit⟩
    · rw [place_none hfull] at hexec
      obtain ⟨w', hbecomes⟩ := updCur_finish_becomes (s := s) (h := h) (g := fun w => w.setS f.d.toNat 0xFFFFFFFF) hw rfl rfl rfl
      have hsregs : w'.sregs = (w.setS f.d.toNat 0xFFFFFFFF).sregs := (congrArg Wave.sregs hbecomes.wave :)
      refine ⟨_, w', hexec, ?_, fun k => ?_⟩
      · rw [hsregs]
        exact hbecomes
      · rw [Wave.sr, hsregs]
        exact sr_block w f.d.toNat 1 0xFFFFFFFF k

/-- 10 R203, R204, R206: OBRES and OBREL. -/
theorem reservations : Claims.Reservations := by
  refine ⟨?_, ?_⟩
  · intro h f s w tm d hw hact htm hd _
    exact reserves h f s w tm d hw hact htm hd
  · intro h f s w tm d hw hact htm hd slot uses
    obtain ⟨hempty, hgoes, hwaits⟩ := releases h f s w tm d hw hact htm hd
    refine ⟨hempty, fun hheld hcopies hreads => hgoes hheld hcopies fun o ho hteam ⟨g, y, hi, hy⟩ => hreads o ho hteam g y hi hy, ?_⟩
    exact fun hheld hreads => ⟨_, hwaits hheld hreads, rfl, rfl, rfl, rfl⟩

/-- Settles O29: at issue every instruction is one unfolding of what it does for its acting lane, and in the engine the operation changes one side
of one team and leaves the queue; the record of a reservation, the lowest free range and the words of a tile are read back through lemmas of their
own (log entries 40, 59). -/
theorem matrixTiles : Obligations.MatrixTiles := ⟨reservations, tilesAndStatus, tileLoads⟩

end Sys2Proof.Safety
end
